-- ==== Sys2Proof/Word.lean ====
section
/-! DEFINITION. The word types of the block: bytes, 32-bit words (R6, R7), 64-bit event stamps (R91) and the
80-bit accumulator words of a signal tile (R246). -/

namespace Sys2Proof

/-- One byte. -/
abbrev Byte := BitVec 8

/-- One 32-bit parameter or data word (R433). -/
abbrev Word := BitVec 32

/-- A 64-bit event stamp (R91) or tile instruction word (R254). -/
abbrev DWord := BitVec 64

/-- An 80-bit accumulator (R246). -/
abbrev Acc := BitVec 80

/-- A four-bit point nibble (R290). -/
abbrev Nib := BitVec 4

end Sys2Proof
end

