-- ==== Sys2Proof/Syntax.lean ====
section
/-! DEFINITION. The commands of the block: one constructor of `Instr` per row of spec/opcode_table.json, with the
operands that the row's event carries (what arrives from outside, or which unit of the block the event belongs to).
A command that names a packet (`q`, `tag`) starts the in-flight packet of that queue and tag (R34, R39). A ring frame is its bytes
from the destination address on without the FCS, the lane that received it, and the fraction, in twentieths, of the nanosecond of
cell time at which its start of frame was detected. -/

namespace Sys2Proof

/-- A UDP source: IPv4 address and port (R53). -/
structure Endpoint where
  ip   : Word
  port : Nat
  deriving DecidableEq, Repr

/-- The five fragment streams of R10. -/
inductive Stream where
  | cell | sched | kernel | rule | fw
  deriving DecidableEq, Repr

/-- What the 1 ms samples of one ACCEPT_N press showed (R62, R63): consecutive low samples, whether it began inside the window
and after ACCEPT_N had been seen high for 50 ms there, both keys on and the seal intact throughout, and the consecutive
samples up to the release on which the keys disagreed. -/
structure Press where
  low        : Nat
  inWindow   : Bool
  seenHigh50 : Bool
  keysOn     : Bool
  sealOk     : Bool
  disagree   : Nat
  deriving DecidableEq, Repr

/-- The data set of a PTP Announce message, in the order in which IEEE 1588 compares it (R96). -/
structure PtpDataset where
  priority1 : Nat
  clockClass : Nat
  accuracy  : Nat
  variance  : Nat
  priority2 : Nat
  identity  : Nat
  stepsRemoved : Nat
  deriving DecidableEq, Repr

/-- A received PTP message (R96). Times are times of the sender's clock, origin time and correction field together, in twentieths
of a nanosecond. -/
inductive PtpKind where
  /-- Announce: the sender's data set, with its UTC offset and validity. -/
  | announce (ds : PtpDataset) (utc : Int) (utcValid : Bool)
  /-- Sync: one-step with its origin time, or two-step, whose origin time follows. -/
  | sync (seq : BitVec 16) (origin : Option Int)
  | followUp (seq : BitVec 16) (origin : Int)
  | delayReq (seq : BitVec 16)
  /-- Delay_Resp to this device: when its Delay_Req was received. -/
  | delayResp (seq : BitVec 16) (received : Int)
  | pdelayReq (seq : BitVec 16)
  /-- Pdelay_Resp to this device: when its Pdelay_Req was received. -/
  | pdelayResp (seq : BitVec 16) (received : Int)
  /-- One-step Pdelay_Resp to this device: how long the request stayed at the peer. -/
  | pdelayRespOneStep (seq : BitVec 16) (turnaround : Int)
  /-- Pdelay_Resp_Follow_Up: when the response was sent. -/
  | pdelayFollowUp (seq : BitVec 16) (sent : Int)
  /-- A message that uses a feature R96 does not support: counted and discarded. -/
  | unsupported
  deriving DecidableEq, Repr

/-- A PTP message on a host port (R96); `frac` is the fraction, in twentieths, of the nanosecond of cell time at which its start of
frame is detected. -/
structure PtpMsg where
  domain   : BitVec 8
  minorSdo : BitVec 8
  majorSdo : BitVec 4
  /-- sourcePortIdentity: the clock identity of the sender and its port number. -/
  source   : BitVec 80
  l2       : Bool
  frac     : Fin 20
  kind     : PtpKind
  deriving DecidableEq, Repr

/-- A CAN frame (R385 and the CAN frame record of the command reference). -/
structure CanFrame where
  id   : BitVec 29
  ext  : Bool
  rtr  : Bool
  fd   : Bool
  brs  : Bool
  dlc  : Fin 16
  data : List Byte
  deriving DecidableEq, Repr

/-- How an error met the controller (the error counter rules of ISO 11898-1, R394). -/
inductive CanError where
  | transmitter | receiver | receiverDominant
  deriving DecidableEq, Repr

/-- A die temperature crossing a limit of R425. -/
inductive ThermalEvent where
  | gradeMaximum | faultLimit | cooled | safelight
  deriving DecidableEq, Repr

/-- The commands of the block, one per row of the opcode table. -/
inductive Instr where
  /-- SQ_DOORBELL (R48): Host writes a new submission tail, and the device fetches and checks the records up to it. -/
  | sqDoorbell (q : Fin 16) (tail : Nat) (mem : List Byte)
  /-- CQ_DOORBELL (R49): Host writes a new completion head, which frees space for waiting replies. -/
  | cqDoorbell (q : Fin 16) (head : Nat)
  /-- REPLY_WRITE (R49): A waiting reply is written once the completion ring has room, then the status block, then MSI-X. -/
  | replyWrite (q : Fin 16)
  /-- MSIX_MODERATION_EXPIRY (R48): The 2 us moderation interval ends and the vector is raised again if cq_tail has moved. -/
  | msixModerationExpiry (q : Fin 16)
  /-- UDP_DATAGRAM (R51): A host Ethernet datagram carrying one segment is received and reassembled. -/
  | udpDatagram (port : Fin 2) (src : Endpoint) (dstPort : Nat) (data : List Byte)
  /-- REASSEMBLY_TIMEOUT (R52): A partial packet that is not complete within 20 ms is discarded and counted. -/
  | reassemblyTimeout (q : Fin 16) (seq : Word)
  /-- PACKET_DEADLINE (R43): A packet not started by arrival plus deadline completes with DEADLINE_MISSED. -/
  | packetDeadline (q : Fin 16) (tag : Fin 1024)
  /-- PARTIAL_IMAGE_TIMEOUT (R10): A partial image with no fragment for 10 s is discarded and a notice names the stream. -/
  | partialImageTimeout (st : Stream)
  /-- RESET_Q (R55): Writing 1 to HQ_QCFG.reset_q resets a queue. -/
  | resetQ (q : Fin 16)
  /-- PING (R67): Returns SYS_ID and the firmware version. -/
  | ping (q : Fin 16) (tag : Fin 1024)
  /-- READY_READ (R410): Returns SYS_READY and SYS_FAULT. -/
  | readyRead (q : Fin 16) (tag : Fin 1024)
  /-- ABORT (R72): Stops a target command that has not started or is pending presence. -/
  | abort (q : Fin 16) (tag : Fin 1024)
  /-- QUEUE_RESET (R73): Performs the queue reset of R55 on another queue. -/
  | queueReset (q : Fin 16) (tag : Fin 1024)
  /-- LOG_READ (R67): Returns 64-byte log records. -/
  | logRead (q : Fin 16) (tag : Fin 1024)
  /-- CELL_LOAD (R9): Loads a complete cell image by fragments, then validates, places and activates it. -/
  | cellLoad (q : Fin 16) (tag : Fin 1024)
  /-- CELL_AMEND (R441): Replaces whole sections of the active cell, then validates, places and activates the result. -/
  | cellAmend (q : Fin 16) (tag : Fin 1024)
  /-- PLACE_READ (R33): Returns the active placement in readback form. -/
  | placeRead (q : Fin 16) (tag : Fin 1024)
  /-- CELL_CHECK (R10): Validates and places an image without activating it. -/
  | cellCheck (q : Fin 16) (tag : Fin 1024)
  /-- SEG_PUSH (R74): Appends segment records to a chain's queue, all or nothing. -/
  | segPush (q : Fin 16) (tag : Fin 1024)
  /-- MOTION_STOP (R167): Plans a stop of the given kind for the chains of the mask. -/
  | motionStop (q : Fin 16) (tag : Fin 1024)
  /-- MOTION_RESUME (R168): Resumes held chains, inserting a recovery move if needed. -/
  | motionResume (q : Fin 16) (tag : Fin 1024)
  /-- SEGQ_STATUS (R152): Returns the queued count and the executing segment of a chain. -/
  | segqStatus (q : Fin 16) (tag : Fin 1024)
  /-- OVERRIDE_SET (R166): Sets the feed of the chains in the mask. -/
  | overrideSet (q : Fin 16) (tag : Fin 1024)
  /-- LOOP_COEFF_SET (R183): Replaces a loop's six coefficient words at one servo cycle boundary, bumplessly. -/
  | loopCoeffSet (q : Fin 16) (tag : Fin 1024)
  /-- LOOP_HANDOVER (R190): Moves the primary role in a command group with a fading offset over a window. -/
  | loopHandover (q : Fin 16) (tag : Fin 1024)
  /-- PROBE_SET (R201): Writes a contact-sheet probe configuration. -/
  | probeSet (q : Fin 16) (tag : Fin 1024)
  /-- LOOP_STATE_READ (R200): Returns the 32-byte state record of a loop. -/
  | loopStateRead (q : Fin 16) (tag : Fin 1024)
  /-- SCHED_LOAD (R218): Stores and checks a schedule image. -/
  | schedLoad (q : Fin 16) (tag : Fin 1024)
  /-- SCHED_SWAP (R219): Makes a stored schedule image current, re-placing when a cell is active. -/
  | schedSwap (q : Fin 16) (tag : Fin 1024)
  /-- SCHED_UNLOAD (R218): Removes a stored schedule image. -/
  | schedUnload (q : Fin 16) (tag : Fin 1024)
  /-- SOLVER_REPORT (R244): Returns the quality report of a problem's latest completed tick. -/
  | solverReport (q : Fin 16) (tag : Fin 1024)
  /-- KERNEL_LOAD (R259): Loads and checks a kernel image into the store. -/
  | kernelLoad (q : Fin 16) (tag : Fin 1024)
  /-- KERNEL_BIND (R260): Binds a kernel to a loop or point range, reruns placement and activates. -/
  | kernelBind (q : Fin 16) (tag : Fin 1024)
  /-- KERNEL_UNLOAD (R78): Removes an unbound kernel from the store. -/
  | kernelUnload (q : Fin 16) (tag : Fin 1024)
  /-- TILE_STATUS (R270): Returns the status record of a tile. -/
  | tileStatus (q : Fin 16) (tag : Fin 1024)
  /-- EVT_SUBSCRIBE (R313): Creates a subscription with a point selection. -/
  | evtSubscribe (q : Fin 16) (tag : Fin 1024)
  /-- EVT_ARM (R65): Lends a reply buffer to a subscription, which is completed with events. -/
  | evtArm (q : Fin 16) (tag : Fin 1024)
  /-- EVT_CANCEL (R66): Completes the armed packets of a subscription with ABORTED and deletes it. -/
  | evtCancel (q : Fin 16) (tag : Fin 1024)
  /-- EVT_HOLD_EXPIRY (R65): The oldest held event has waited 1 ms, so an armed packet completes. -/
  | evtHoldExpiry (sub : Fin 16)
  /-- POINT_FORCE (R299): Forces or releases points at the next image swap. -/
  | pointForce (q : Fin 16) (tag : Fin 1024)
  /-- POINT_WRITE (R299): Writes output points at the next image swap. -/
  | pointWrite (q : Fin 16) (tag : Fin 1024)
  /-- POINT_READ (R293): Returns nibbles of the front image. -/
  | pointRead (q : Fin 16) (tag : Fin 1024)
  /-- RULE_LOAD (R304): Loads and checks a rule table, which replaces the active one at the next I/O cycle image swap. -/
  | ruleLoad (q : Fin 16) (tag : Fin 1024)
  /-- SAFE_PARAM_SET (R81): Writes RWP safety words in both channels at one safety cycle boundary after presence. -/
  | safeParamSet (q : Fin 16) (tag : Fin 1024)
  /-- SAFE_POINT_ASSIGN (R81): Assigns safety points to safety functions after presence. -/
  | safePointAssign (q : Fin 16) (tag : Fin 1024)
  /-- TIME_READ (R92): Samples cell time once. -/
  | timeRead (q : Fin 16) (tag : Fin 1024)
  /-- TIME_SET (R82): Sets cell time when no cell or PTP source is in force. -/
  | timeSet (q : Fin 16) (tag : Fin 1024)
  /-- PTP_SELECT (R98): Selects PTP slot 0, slot 1 or automatic selection. -/
  | ptpSelect (q : Fin 16) (tag : Fin 1024)
  /-- SYNC_OUT_CFG (R103): Writes the SYNC_OUT period and offset. -/
  | syncOutCfg (q : Fin 16) (tag : Fin 1024)
  /-- SYNC_IN_READ (R104): Returns the last SYNC_IN capture. -/
  | syncInRead (q : Fin 16) (tag : Fin 1024)
  /-- RING_STATUS (R67): Returns the node status records of a ring. -/
  | ringStatus (q : Fin 16) (tag : Fin 1024)
  /-- RING_RERANGE (R128): Re-ranges one node or every node of a ring. -/
  | ringRerange (q : Fin 16) (tag : Fin 1024)
  /-- NODE_READMIT (R150): Readmits a removed node into its placed slot at an announced boundary. -/
  | nodeReadmit (q : Fin 16) (tag : Fin 1024)
  /-- CAN_TX (R392): Makes a frame pending in a transmit buffer until it is sent or cancelled. -/
  | canTx (q : Fin 16) (tag : Fin 1024)
  /-- CAN_CANCEL (R393): Cancels a pending CAN frame if it has not won arbitration. -/
  | canCancel (q : Fin 16) (tag : Fin 1024)
  /-- CAN_RX_READ (R391): Reads a receive buffer, locking and releasing it. -/
  | canRxRead (q : Fin 16) (tag : Fin 1024)
  /-- CAN_CFG (R387): Writes bit timing and buffer setup, and the controller rejoins the bus. -/
  | canCfg (q : Fin 16) (tag : Fin 1024)
  /-- TWIN_STATUS (R384): Returns the pair status record. -/
  | twinStatus (q : Fin 16) (tag : Fin 1024)
  /-- TWIN_ROLE_CFG (R383): Writes mode, preferred role and swap interval after presence. -/
  | twinRoleCfg (q : Fin 16) (tag : Fin 1024)
  /-- PROOF_SWAP_NOW (R378): Announces a proof swap 16 planning ticks ahead. -/
  | proofSwapNow (q : Fin 16) (tag : Fin 1024)
  /-- TRACE_UPLOAD (R199): Reads a held capture from a byte offset. -/
  | traceUpload (q : Fin 16) (tag : Fin 1024)
  /-- TRACE_TRIGGER (R198): Triggers the armed captures of the engines in the mask. -/
  | traceTrigger (q : Fin 16) (tag : Fin 1024)
  /-- TRACE_RELEASE (R198): Releases a held capture, re-arming if auto_rearm is set. -/
  | traceRelease (q : Fin 16) (tag : Fin 1024)
  /-- ARM (R198): Writing 1 to TR_TRIG.arm moves a capture from IDLE to ARMED. -/
  | arm (e : Fin 16)
  /-- FW_STAGE (R406): Stores firmware image fragments in LPDDR5X. -/
  | fwStage (q : Fin 16) (tag : Fin 1024)
  /-- FW_VERIFY (R406): Checks the staged image and starts programming it into the inactive slot. -/
  | fwVerify (q : Fin 16) (tag : Fin 1024)
  /-- FW_PROGRAM_COMPLETE (R406): Background programming of the verified image into its flash slot ends. -/
  | fwProgramComplete
  /-- FW_ACTIVATE (R86): Names the new slot as boot slot after presence and optionally restarts the main die. -/
  | fwActivate (q : Fin 16) (tag : Fin 1024)
  /-- OTP_PROGRAM (R405): Programs OTP words after presence. -/
  | otpProgram (q : Fin 16) (tag : Fin 1024)
  /-- PARAM_READ (R87): Reads parameter words. -/
  | paramRead (q : Fin 16) (tag : Fin 1024)
  /-- PARAM_WRITE (R87): Writes parameter words together, all or nothing; also covers writes to registers without a row of their own. -/
  | paramWrite (q : Fin 16) (tag : Fin 1024)
  /-- BAR0_MIRROR_WRITE (R47): Host writes a word of page 0x0100 through BAR0. -/
  | bar0MirrorWrite (w : Fin 256) (v : Word)
  /-- DEBUG_SPI_TRANSACTION (R437): A tool reads or writes parameter words over the debug SPI port. -/
  | debugSpiTransaction (req : List Byte) (keysOn100ms : Bool)
  /-- ACCEPT_N_RELEASE (R62): Release of a valid ACCEPT_N press is judged, and the pending command is accepted or denied. -/
  | acceptNRelease (p : Press)
  /-- PRESENCE_DENIED (R63): Key disagreement, seal failure or an over-long press ends the window with a reason. -/
  | presenceDenied (sealBad : Bool) (disagree : Nat) (low : Nat) (seenHigh50 : Bool)
  /-- PRESENCE_TIMEOUT (R64): The 60,000 ms window closes without acceptance. -/
  | presenceTimeout
  /-- PANEL_CLEAR (R61): The final panel message has been shown for 5 s and is cleared. -/
  | panelClear
  /-- PLACEMENT_COMPLETE (R18): Placement of an image finishes, successfully or infeasibly, and the digests are exchanged in a twin. -/
  | placementComplete
  /-- ACTIVATION (R28): A new placement takes effect at its planning tick boundary. -/
  | activation
  /-- STAGING_COMPLETE (R220): Staging of a problem into its non-live area ends. -/
  | stagingComplete (p : Fin 4) (eccOk : Bool)
  /-- STAGING_DEADLINE (R220): Staging not complete by B_a minus 2 ms withdraws the announced placement. -/
  | stagingDeadline
  /-- LOOP_ENGINE_FAULT (R30): A loop engine faults or is masked, which starts degraded re-placement. -/
  | loopEngineFault (e : Fin 16) (masked : Bool)
  /-- PARTITION_FAULT (R236): An uncorrectable SRAM error stops the solves of a partition and faults it. -/
  | partitionFault (p : Fin 8)
  /-- TILE_FAULT (R268): An uncorrectable error or sequencer check failure faults a tile. -/
  | tileFault (t : Fin 16) (selfTest : Bool)
  /-- PTP_MESSAGE (R96): A PTP message is received on a host port and updates the slot's servo. -/
  | ptpMessage (port : Fin 2) (m : PtpMsg)
  /-- PTP_SLOT_LOSS (R94): A slot's announce receipt timeout or Sync loss expires. -/
  | ptpSlotLoss (slot : Fin 2)
  /-- SLOT_SWITCH (R100): An automatic switch of PTP slot takes effect at a planning tick boundary. -/
  | slotSwitch
  /-- SLOT0_RETURN (R99): Slot 0 has been locked again for 60 s and selection returns to it. -/
  | slot0Return
  /-- SYNC_IN_EDGE (R104): A SYNC_IN edge is stamped and, as PPS, accepted or rejected. -/
  | syncInEdge (falling : Bool)
  /-- PPS_LOSS (R94): Three seconds pass without an accepted PPS edge. -/
  | ppsLoss
  /-- SYNC_OUT_EDGE (R103): SYNC_OUT rises at its cell time. -/
  | syncOutEdge
  /-- TB_CTRL_SOURCE (R94): A write of TB_CTRL.source changes the time-base state. -/
  | tbCtrlSource (src : BitVec 2)
  /-- TB_DOMAIN (R108): A write of TB_DOMAINn restarts that slot's servo. -/
  | tbDomain (slot : Fin 2) (v : Word)
  /-- RING_WINDOW_EXPIRY (R141): A start-up window of LISTEN, COLDSTART or BACKOFF ends. -/
  | ringWindowExpiry (r : Fin 4)
  /-- COLDSTART (R141): A COLDSTART frame from another device is received, which is a collision or a join. -/
  | coldstart (r : Fin 4) (laneB fcsOk : Bool) (frame : List Byte)
  /-- RANGE_RSP (R144): A ranging poll reply arrives. -/
  | rangeRsp (r : Fin 4) (laneB : Bool) (frac : Fin 20) (fcsOk : Bool) (frame : List Byte)
  /-- RANGE_POLL_TIMEOUT (R144): A poll receives no reply within 2 x L_plan + 10 us. -/
  | rangePollTimeout (r : Fin 4)
  /-- RING_ACTIVATE_BOUNDARY (R145): The ACTIVATE boundary is reached and the ring enters RUN. -/
  | ringActivateBoundary (r : Fin 4)
  /-- NODE_FRAME (R133): A node frame copy arrives, is classified, and its data and events are taken. -/
  | nodeFrame (r : Fin 4) (laneB : Bool) (frac : Fin 20) (fcsOk : Bool) (frame : List Byte)
  /-- DEVICE_OUTPUT_FRAME (R138): The device sends its output frame and service frame and checks the return of its own copies. -/
  | deviceOutputFrame (r : Fin 4)
  /-- RANGING_ROUND (R128): A ranging round of 1,024 cycles begins and DELAY records are sent where delays changed. -/
  | rangingRound (r : Fin 4)
  /-- REFERENCE_STAGE (R159): At the planning tick boundary commands are taken in and segments converted into the reference set. -/
  | referenceStage
  /-- BARRIER_TIMEOUT (R170): A barrier timeout expires and waiting members enter FAULT. -/
  | barrierTimeout (c : Fin 16)
  /-- ASSEMBLY (R208): At B_k + 80 us the Enlarger evaluates geometry and writes the live entries. -/
  | assembly
  /-- SOLVE_REQUEST (R234): At B_k + 230 us each assembled problem requests its partitions and runs its lane program. -/
  | solveRequest (p : Fin 4)
  /-- SOLVE_OVERRUN (R235): A solve not done by B_k + 930 us is stopped. -/
  | solveOverrun (p : Fin 4)
  /-- DISTRIBUTION (R242): Solutions are checked, projected and written to the coefficient banks. -/
  | distribution
  /-- SETPOINT_EVALUATION (R165): Each axis's quintic is evaluated for the shutter instant and written to its loop slot. -/
  | setpointEvaluation (a : Fin 160)
  /-- LOOP_BATCH (R195): A node frame's arrival evaluates the loops it feeds, selects and votes group outputs. -/
  | loopBatch (node : Nat)
  /-- LOOP_CUTOFF_MISS (R193): A loop reaches its cut-off without valid feedback and holds its output. -/
  | loopCutoffMiss (e : Fin 16) (slot : Fin 32)
  /-- MO_AUXCMD (R171): A write of an auxiliary axis target plans a new profile. -/
  | moAuxcmd (k : Fin 32) (v : Word)
  /-- KERNEL_ACTIVATION (R263): A tile starts a kernel activation with its input block. -/
  | kernelActivation (t : Fin 16)
  /-- KERNEL_OVERRUN (R265): An activation reaches its declared cycles without END and is stopped. -/
  | kernelOverrun (t : Fin 16)
  /-- INTERRUPT_ENTRY (R257): A pending enabled interrupt is taken between instructions. -/
  | interruptEntry (t : Fin 16)
  /-- NOP (R255): Performs memory slots only. -/
  | tNop (t : Fin 16)
  /-- MAC (R247): Multiply-accumulates into an accumulator. -/
  | tMac (t : Fin 16)
  /-- MPY (R255): Multiplies into an accumulator. -/
  | tMpy (t : Fin 16)
  /-- MAC4 (R255): Four multiply-accumulates. -/
  | tMac4 (t : Fin 16)
  /-- MPY4 (R255): Four multiplies. -/
  | tMpy4 (t : Fin 16)
  /-- CLRA (R255): Clears selected accumulators. -/
  | tClra (t : Fin 16)
  /-- ADDA (R255): Adds accumulators. -/
  | tAdda (t : Fin 16)
  /-- SHA (R255): Shifts an accumulator. -/
  | tSha (t : Fin 16)
  /-- LDA (R255): Loads an accumulator from a register. -/
  | tLda (t : Fin 16)
  /-- STH (R248): Stores the rounded, saturated high part of an accumulator. -/
  | tSth (t : Fin 16)
  /-- STL (R248): Stores the low part of an accumulator. -/
  | tStl (t : Fin 16)
  /-- STG (R248): Stores the guard part of an accumulator. -/
  | tStg (t : Fin 16)
  /-- ADD (R255): Wrapping add with flags. -/
  | tAdd (t : Fin 16)
  /-- SUB (R255): Wrapping subtract with flags. -/
  | tSub (t : Fin 16)
  /-- ADDS (R248): Saturating add. -/
  | tAdds (t : Fin 16)
  /-- SUBS (R248): Saturating subtract. -/
  | tSubs (t : Fin 16)
  /-- AND (R255): Bitwise AND. -/
  | tAnd (t : Fin 16)
  /-- OR (R255): Bitwise OR. -/
  | tOr (t : Fin 16)
  /-- XOR (R255): Bitwise exclusive OR. -/
  | tXor (t : Fin 16)
  /-- ASH (R255): Arithmetic shift. -/
  | tAsh (t : Fin 16)
  /-- LSH (R255): Logical shift. -/
  | tLsh (t : Fin 16)
  /-- ABS (R248): Saturating absolute value. -/
  | tAbs (t : Fin 16)
  /-- NEG (R248): Saturating negation. -/
  | tNeg (t : Fin 16)
  /-- MIN (R255): Signed minimum. -/
  | tMin (t : Fin 16)
  /-- MAX (R255): Signed maximum. -/
  | tMax (t : Fin 16)
  /-- CLS (R253): Counts leading sign bits. -/
  | tCls (t : Fin 16)
  /-- CMP (R255): Sets flags from a subtraction. -/
  | tCmp (t : Fin 16)
  /-- SEL (R255): Selects a register by condition. -/
  | tSel (t : Fin 16)
  /-- MOV (R255): Moves a register. -/
  | tMov (t : Fin 16)
  /-- MOVI (R255): Moves an immediate. -/
  | tMovi (t : Fin 16)
  /-- ADDI (R255): Adds an immediate. -/
  | tAddi (t : Fin 16)
  /-- MODI (R251): Post-updates an address generator with an immediate step. -/
  | tModi (t : Fin 16)
  /-- BXCLR (R253): Sets BX to 31. -/
  | tBxclr (t : Fin 16)
  /-- BXUPD (R253): Updates BX from a register. -/
  | tBxupd (t : Fin 16)
  /-- BR (R255): Conditional branch. -/
  | tBr (t : Fin 16)
  /-- CALL (R255): Calls a subroutine, setting LINK. -/
  | tCall (t : Fin 16)
  /-- RET (R255): Returns through LINK. -/
  | tRet (t : Fin 16)
  /-- DBNZ (R255): Decrements and branches if not zero. -/
  | tDbnz (t : Fin 16)
  /-- LOOP (R256): Starts the hardware loop. -/
  | tLoop (t : Fin 16)
  /-- RETI (R258): Returns from an interrupt. -/
  | tReti (t : Fin 16)
  /-- END (R263): Ends the activation and commits the outputs. -/
  | tEnd (t : Fin 16) (corrected : Nat)
  /-- SWI (R257): Sets the software interrupt pending. -/
  | tSwi (t : Fin 16)
  /-- HALT (R228): Ends a lane program, after which the quality report is written. -/
  | lHalt (p : Fin 4) (corrected : Nat)
  /-- SPMV (R228): Sparse matrix-vector product. -/
  | lSpmv (p : Fin 4)
  /-- AXPY (R228): Scaled vector addition. -/
  | lAxpy (p : Fin 4)
  /-- DOT (R228): Dot product over all partitions. -/
  | lDot (p : Fin 4)
  /-- SDIV (R228): Scalar division with the zero-divisor rule. -/
  | lSdiv (p : Fin 4)
  /-- BSOLVE (R229): Block-Jacobi solve. -/
  | lBsolve (p : Fin 4)
  /-- FACTOR (R229): Forms and factors every block as LDL^T. -/
  | lFactor (p : Fin 4)
  /-- PROJ (R228): Clamps a vector between bounds. -/
  | lProj (p : Fin 4)
  /-- COPY (R228): Copies a vector. -/
  | lCopy (p : Fin 4)
  /-- OUTER (R228): Begins the outer loop. -/
  | lOuter (p : Fin 4)
  /-- INNER (R228): Begins the inner loop. -/
  | lInner (p : Fin 4)
  /-- LANE_END (R228): Ends the innermost open loop of a lane program. -/
  | lEnd (p : Fin 4)
  /-- SYNC (R228): Barrier across the problem's partitions. -/
  | lSync (p : Fin 4)
  /-- WARM (R237): Loads the warm start into x and y. -/
  | lWarm (p : Fin 4)
  /-- EMIT (R228): Freezes x for distribution. -/
  | lEmit (p : Fin 4)
  /-- DELAY_TICK (R279): At each 1 us tick, due delay entries are enqueued. -/
  | delayTick
  /-- ARBITRATION_ROUND (R282): At a release or preemption point an arbiter grants a unit. -/
  | arbitrationRound (i : Fin 25) (reqs : List (Fin 8)) (release : Bool)
  /-- AB_MEMCLS (R285): A write changes an LPDDR5X requester's class. -/
  | abMemcls (r : Fin 8) (cls : BitVec 2)
  /-- BACKGROUND_PROMOTION (R287): A background task's deferral limit passes and its next step is promoted. -/
  | backgroundPromotion (b : Fin 6) (unit : Fin 25)
  /-- BACKGROUND_STEP (R286): A step of a background task runs. -/
  | backgroundStep (b : Fin 6) (unit : Fin 25) (corrected : Nat)
  /-- IMAGE_SWAP (R293): At each servo cycle boundary the back image becomes the front and outputs are copied into frames. -/
  | imageSwap
  /-- RULE_PASS (R302): At T0 + 1 us the cyclic rules of the phase group are evaluated. -/
  | rulePass
  /-- DEVELOPER_TICK (R309): At each 1 us tick the Developer releases due events as a batch, which runs event rules. -/
  | developerTick
  /-- NP_DEV (R312): A write of the reorder window takes effect at the next I/O cycle image swap. -/
  | npDev (window : BitVec 8)
  /-- SAFETY_CYCLE_BOUNDARY (R317): Channels exchange heartbeats and decisions, stops are initiated and resets judged. -/
  | safetyCycleBoundary (hb1 : Bool) (hb2 : Bool) (digestsEqual : Bool)
  /-- SEPARATION_INTAKE (R358): At B_j + 100 us each channel takes frames and lists and computes distances and caps. -/
  | separationIntake
  /-- SAFETY_FRAME (R348): Each channel checks a received safety frame and accepts or discards it. -/
  | safetyFrame (node : Nat) (arrival : Nat) (bytes : List Byte)
  /-- SAFE_INPUT_CHANGE (R321): A safe input line changes and its function demands. -/
  | safeInputChange (i : Fin 16) (lineB : Bool) (level : Bool) (samples : Nat)
  /-- DISCREPANCY_TIMEOUT (R322): The second line has not followed within Td and the input faults. -/
  | discrepancyTimeout (i : Option (Fin 16))
  /-- TEST_PULSE_CHECK (R324): Lines are sampled during a TPULSE low pulse to find shorts and cross-connections. -/
  | testPulseCheck (k : Fin 4) (a : BitVec 16) (b : BitVec 16)
  /-- OUTPUT_TEST_PULSE (R320): An STO line is dark-pulsed and read back. -/
  | outputTestPulse (p : Fin 16) (lineB : Bool) (ch : Fin 2) (highInPulse : Bool) (lowOutside : Bool)
  /-- ESTOP_CHANGE (R332): An ESTOP line changes, stopping every chain index. -/
  | estopChange (lineB : Bool) (level : Bool) (samples : Nat)
  /-- SRST_N_PRESS (R333): SRST_N goes filtered low. -/
  | srstNPress (ch : Fin 2) (samples : Nat)
  /-- SRST_N_RELEASE (R333): SRST_N is released and the press is judged as a candidate. -/
  | srstNRelease (ch : Fin 2) (samples : Nat)
  /-- RESET_STUCK (R334): SRST_N is still low 30 s after the press began. -/
  | resetStuck
  /-- SS1_TIMEOUT (R329): ss1_ms elapses after SS1 entry and the chain goes to STO. -/
  | ss1Timeout (c : Fin 16)
  /-- BRAKE_FEEDBACK_MISMATCH (R336): BRK_FB differs from the command for more than 20 ms. -/
  | brakeFeedbackMismatch (p : Fin 16) (released : Bool) (ms : Nat)
  /-- BRAKE_TEST_DUE (R337): A brake test falls due after interval_h hours. -/
  | brakeTestDue (c : Fin 16)
  /-- SF_BRKREQ (R337): Writing 1 to a chain's bit requests a brake test. -/
  | sfBrkreq (v : BitVec 16)
  /-- BRAKE_TEST_STEP (R338): A timed step of the brake test sequence runs. -/
  | brakeTestStep (c : Fin 16) (fbClosed : Bool) (disp1 : Nat) (disp2 : Nat)
  /-- BRAKE_TEST_OVERDUE (R339): grace_h passes after the test fell due, giving a cause-37 stop. -/
  | brakeTestOverdue (c : Fin 16)
  /-- SAFETY_CONFIG_LOAD (R331): The safety configuration is loaded and compared in both channels. -/
  | safetyConfigLoad
  /-- BENJO_FRAME (R367): A Benjo frame from the partner is received and acted on. -/
  | benjoFrame (lane : Fin 2) (bytes : List Byte)
  /-- BENJO_LANE_DOWN (R367): A lane delivers no valid frame for 20 us. -/
  | benjoLaneDown (lane : Fin 2)
  /-- PARTNER_LOST (R379): Link lost and partner unheard on rings for 2 servo cycles. -/
  | partnerLost
  /-- SAFETY_FRAME_LOSS (R376): No SAFETY frame for 2 safety cycles while the partner is heard on a ring. -/
  | safetyFrameLoss
  /-- SELF_TEST_RESULT (R377): Both self-test results are known, or 60 ms pass, and the outcome is applied. -/
  | selfTestResult (own : Option Bool)
  /-- PROOF_SWAP_DUE (R378): swap_min minutes have passed and a swap is announced. -/
  | proofSwapDue
  /-- PROOF_SWAP (R378): Roles exchange at the swap boundary. -/
  | proofSwap
  /-- RESYNC_COMPLETE (R380): Resynchronisation ends and the joining device becomes standby. -/
  | resyncComplete
  /-- CAN_FRAME_RECEIVED (R388): An error-free received frame is stored in a matching buffer. -/
  | canFrameReceived (n : Fin 4) (f : CanFrame) (sof : DWord)
  /-- CAN_SOF_OPPORTUNITY (R392): At a start-of-frame opportunity the best pending frame is sent. -/
  | canSofOpportunity (n : Fin 4)
  /-- CAN_FRAME_COMPLETE (R392): A transmitted frame ends its EOF without error and CAN_TX completes. -/
  | canFrameComplete (n : Fin 4)
  /-- CAN_BUS_ERROR (R394): An error changes TEC and REC and may change the error state. -/
  | canBusError (n : Fin 4) (e : CanError) (lec : Fin 7)
  /-- RECOVER (R394): Writing 1 to CN_CTRL.recover starts bus-off recovery. -/
  | recover (n : Fin 4)
  /-- CAN_RECOVERY_COMPLETE (R394): 128 recessive sequences end bus-off. -/
  | canRecoveryComplete (n : Fin 4)
  /-- BUFFER_LOCK_READ (R389): A read of buffer word 0 locks the buffer. -/
  | bufferLockRead (n : Fin 4) (b : Fin 64)
  /-- BUFFER_RELEASE_READ (R389): A read of buffer word 19 releases the buffer. -/
  | bufferReleaseRead (n : Fin 4) (b : Fin 64)
  /-- CAN_LOCK_TIMEOUT (R389): A lock not released within 10 ms is released. -/
  | canLockTimeout (n : Fin 4) (b : Fin 64)
  /-- PORST_N (R417): PORST_N goes low or is released. -/
  | porstN (low : Bool) (ns : Nat)
  /-- MAIN_DIE_RESET_RELEASE (R403): Main-die reset is released and the boot ROM verifies and starts firmware. -/
  | mainDieResetRelease (twinId : Bool) (dbgEn : Bool)
  /-- FUNCTION_READY (R407): A function passes its start-up test and sets its ready bit. -/
  | functionReady (f : Fin 21) (pass : Bool)
  /-- FIRMWARE_WATCHDOG (R398): The firmware watchdog expires and holds reset. -/
  | firmwareWatchdog
  /-- VDD_CORE_DIP (R411): VDD_CORE crosses below warning. -/
  | vddCoreDip
  /-- SUPPLY_CAUTION_ENTRY (R412): A dip reaches 50 us and the supply-caution state is entered. -/
  | supplyCautionEntry
  /-- DIP_END (R415): VDD_CORE returns above warning and the dip is logged. -/
  | dipEnd (minMv : Nat)
  /-- SUPPLY_CAUTION_END (R412): VDD_CORE stays above warning for 100 ms and the caution state ends. -/
  | supplyCautionEnd
  /-- SUPPLY_STOP (R413): Time below warning reaches 5,000 us in 100 ms, giving stop bath cause 10. -/
  | supplyStop (ch : Fin 2)
  /-- VDD_CORE_RESET_LEVEL (R414): VDD_CORE reaches 0.690 V, removing STO enables and resetting the main die. -/
  | vddCoreResetLevel
  /-- VDD_SL_LOW (R416): VDD_SL falls below warning or reset level. -/
  | vddSlLow (reset : Bool) (ns : Nat)
  /-- VDD_SL_GOOD (R397): VDD_SL rises above 1.14 V and Safelight becomes ready 2 ms later. -/
  | vddSlGood
  /-- THERMAL_LIMIT (R425): A die temperature crosses a grade or fault limit. -/
  | thermalLimit (e : ThermalEvent)
  /-- SYS_BCFG (R419): A write to page 0x0001 stores a new boot configuration copy. -/
  | sysBcfg (w : Fin 32) (v : Word)
  /-- CHANNEL_INTERNAL_FAULT (R317): A lockstep mismatch, internal check failure, clock or supply fault, or 2 ms without 1 ms grid marks removes that channel's enables and enters the stop bath with cause 4 or 5. -/
  | channelInternalFault (ch : Fin 2)
  /-- SLOT_LOST_DEADLINE (R133): No copy of a scheduled node frame has arrived by d = 2g, so the node's result is SLOT_LOST and its fault run advances toward re-ranging and removal. -/
  | slotLostDeadline (r : Fin 4) (hop : Nat)
  /-- CAN_BUS_INTEGRATION (R387): After CAN_CFG the controller rejoins the bus once it has seen 11 consecutive recessive bits, setting CN_STAT.sync. -/
  | canBusIntegration (n : Fin 4)
  /-- CAN_ARBITRATION_END (R393): At the sample point of the last arbitration bit the frame has won or lost; a lost frame stays pending and a held cancel then takes effect and replies. -/
  | canArbitrationEnd (n : Fin 4) (won : Bool)
  /-- SRST_N_OPEN (R334): SRST_N has been filtered high for 100 ms, which clears SF_SRST.boot and stuck and lets later presses count. -/
  | srstNOpen
  deriving DecidableEq, Repr

end Sys2Proof
end

