-- ==== Sys2Proof/Config.lean ====
section
/-! DEFINITION. What an implementation fixes and the spec leaves open: free values (constants without a body, so that
no proof can see a value of them) and the stated constants of stepping B0. -/

namespace Sys2Proof.Config

/-- Free 32-bit words, one for each value of the model's own counter (log entry 4). -/
opaque freeWord : Nat → BitVec 32

/-- Free natural numbers, one for each value of the model's own counter (log entry 4). -/
opaque freeNat : Nat → Nat

/-- The free 80-bit accumulator contents at the start of a kernel activation (R263). -/
opaque freeAcc : Nat → BitVec 80

/-- The address of a work item's context in dispatcher memory, one for each item in the order of enqueuing (R271). -/
opaque itemContext : Nat → BitVec 32

/-- Result words of replies that the spec leaves unsaid: elapsed time, queue, position in its arrival order, and which word
(log entry 15). -/
opaque resultWord : Nat → Nat → Nat → Nat → BitVec 32

/-- The part: true for SGV-RF16-H, false for SGV-RF16-T (R1). -/
opaque gradeH : Bool

/-- Whether the device's own binary32 arithmetic gives the larger in magnitude of the two neighbours of a sine or cosine that is no
binary32 value: the spec gives no rounding of them (R203, R204; log entry 66). -/
opaque sineUp : Word → Bool
opaque cosineUp : Word → Bool

/-! The planner (R160 to R174): velocity profiles, path conversion and inverse kinematics, which the spec gives no
algorithm for. A `Nat` first argument is the model's own counter. Limits are five words a joint (R155, R167): position
minimum and maximum, then velocity, acceleration and jerk as scaled for the move. -/

/-- How far along its segment a planned path stands (R155): parameter (0 to 7 a joint of a JOINT, 8 the tool point, 9 the
orientation); path time since the segment began; limits; joint positions at its start; the records of its run and its place in
it. The model clamps it to 0 to 1. -/
opaque progress : Nat → Word → List Word → List Word → List (List Byte) × Nat → Word
/-- The displacement of a blending path from the segment's own, of which the model takes at most blend_r (R155): operands as
above, the first a coordinate or a joint. -/
opaque blendShift : Nat → Word → List Word → List Word → List (List Byte) × Nat → Word
/-- The time between two via poses of a SPLINE run in its cubic's parameter: the records, the piece. -/
opaque splineSpan : List (List Byte) → Nat → Word
/-- The second derivative at an end of a SPLINE run's cubic: the records, start or end, component 0 to 6. -/
opaque splineEnd : List (List Byte) → Bool → Nat → Word
/-- A reference velocity or acceleration on a path: joint, quantity (0 position, 1 velocity, 2 acceleration) and knot; path time
since the segment began and feed; geometry and limits; joint positions at the segment's start; its run and place. -/
opaque reference : Nat → Nat × Nat × Nat → Word × Nat → List Word × List Word → List Word → List (List Byte) × Nat → Word
/-- The path time of a chain at a knot while it stops on its path (R167). -/
opaque stopSigma : Nat → Nat → Word
/-- The time along its path at nominal feed that a segment of a run takes: limits, joint positions at its start, run, place. -/
opaque segmentSpan : List Word → List Word → List (List Byte) → Nat → Word
/-- The inverse kinematic solution of a tool pose, if there is one: the chain's geometry (base, then screw and link frame of each
joint), limits, joint positions at the segment's start, pose (R174). -/
opaque inverse : List Word → List Word → List Word → List Word → Option (List Word)
/-- A profile value of an auxiliary axis (R171): axis, quantity and knot; kind; dyn and range; position, velocity and
acceleration at the pinned knot; target. -/
opaque auxProfile : Nat → Nat × Nat × Nat → Nat → List Word → List Word → Word → Word
/-- The feed in force after one tick towards a new feed within the limits (R166). -/
opaque feedStep : List Word → Nat → Nat → Nat
/-- Planning ticks to standstill of a quick stop within scaled limits at a feed (R167). -/
opaque stopTicks : Nat → List Word → Nat → Nat

/-! The two safety channels (R344): each converts and evaluates the geometry in fixed-point arithmetic of its own, of which the
spec gives the unit and the direction of rounding of what is computed from it. -/

/-- A channel rounds a length or a direction (in units of 2⁻²⁵⁶) up to its own unit, not down. -/
opaque safeUp : Nat → Int → Bool
/-- Safe position (offset 0) or velocity (offset 1) of an axis whose node has delivered no accepted frame. -/
opaque safeFree : Nat → Nat → Word
/-- What a STATE frame holds (R380). -/
opaque stateData : Nat → List Byte
/-- What a slot holds whose programming a reset cut short. -/
opaque tornImage : Nat → List Byte

/-- The layout of a device notice record and of a log record is not in the spec (R65, LOG_READ). -/
opaque noticeBytes : Nat → Nat → Nat → List Byte
opaque logBytes : Nat → Nat → Nat → Nat → List Byte

/-- The result of a tile shift whose count lies outside the stated range (R255): operation, operand, count. -/
opaque shiftOutOfRange : Nat → Int → Int → Int

/-- The bytes of the stored safety configuration from its RWP words, which the spec names and does not lay out (R331). -/
opaque safetyLayout : List Word → List Byte

/-- Whether flag C after a tile subtraction is the borrow or its complement, which R255 does not say. -/
opaque carryIsBorrow : Bool

/-- The device's own clock variance and clock identity in its PTP data set, which TB_GM does not give (R96). -/
opaque ptpVariance : Nat
opaque ptpIdentity : Nat

/-- The delay of a TIME frame on the Benjo link in ns, which the device measures in a way that the spec does not give (R107). -/
opaque benjoDelay : Int

end Sys2Proof.Config
end

