-- ==== Sys2Proof/Machine/State.lean ====
section
/-! DEFINITION. The state of the block as plain data, with the value of every field at reset (`State.reset`), and
the closed lists of stop reasons. Words that software reads and writes whole stay words; status that the machine
alone changes is kept in its natural form, and the page words are computed from it. -/

namespace Sys2Proof.Machine

/-- No command of this block stops with a fault: every error of the spec is a status code, a latched flag or a state
of one of its units (R88, R157, R194, R265, R330, R371), so this type has no constructor. -/
inductive Fault where
  deriving DecidableEq, Repr

/-- Why a command has no meaning in this model. -/
inductive Refusal where
  /-- An arm that is not modelled yet, named by its mnemonic; raised by `exec` only. Safe: the run stops. -/
  | notModelled (mnemonic : String)
  deriving DecidableEq, Repr

/-! ### Host queues (02_host_queues_and_packets.md) -/

/-- Where a packet of a queue came from: PCIe or one of the two host ports with the sender's endpoint (R53). -/
inductive Origin where
  | pcie
  | udp (port : Fin 2) (src : Endpoint)
  /-- A COMMAND frame of the active device, executed in step by the standby (R369). -/
  | partner
  deriving DecidableEq, Repr

/-- How far an in-flight packet has come (R43, R55, R58). -/
inductive Phase where
  /-- Passed checks 1 to 13 of R56 and has not started. -/
  | accepted
  /-- Execution has started. -/
  | started
  /-- Pending presence (R58 to R64). -/
  | pending
  deriving DecidableEq, Repr

/-- A packet in flight (R34, R39): the header fields, its payload, its arrival and the credit it holds. -/
structure Pkt where
  opcode   : Nat
  ordered  : Bool
  fence    : Bool
  tag      : Nat
  /-- The queue on which it arrived. -/
  queue    : Nat
  /-- The queue byte of its header, which the reply echoes (R36). -/
  qbyte    : Nat
  cls      : Nat
  deadline : Nat
  p0       : Word
  p1       : Word
  seq      : Word
  payload  : List Byte
  arrival  : Nat
  /-- Position in the arrival order of the queue (R41). -/
  index    : Nat
  credit   : Bool
  origin   : Origin
  phase    : Phase
  /-- The standby has confirmed the command (R369). -/
  confirmed : Bool := false
  /-- The command has gone to the standby in a COMMAND frame (R369). -/
  passed   : Bool := false
  /-- On the standby: the cell time at which the active applied it (R369). -/
  bound    : Nat := 0
  deriving DecidableEq, Repr

/-- A reply that waits to be written (R36, R49). -/
structure Reply where
  pkt        : Pkt
  status     : Nat
  interim    : Bool
  dup        : Bool
  eventsLost : Bool
  w0         : Word
  w1         : Word
  payload    : List Byte
  /-- In a pair, the active writes the final reply only after the standby has confirmed the command (R369). -/
  confirmed  : Bool
  /-- Packets (queue, tag, result word 0) that complete with OK once this reply is written (R72, R84). -/
  waiters    : List (Nat × Nat × Word) := []
  /-- For a stored reply: the cell time at which it was first written (R54). -/
  sentAt     : Option Nat := none
  deriving DecidableEq, Repr

/-- A PTP message that the device sends (R96). Times are in twentieths of a nanosecond. -/
inductive PtpOut where
  | announce (ds : PtpDataset) (utc : Int) (utcValid : Bool)
  | sync (seq : BitVec 16)
  | followUp (seq : BitVec 16) (origin : Int)
  | delayReq (seq : BitVec 16)
  | delayResp (seq : BitVec 16) (received : Int)
  | pdelayReq (seq : BitVec 16)
  | pdelayResp (seq : BitVec 16) (received : Int)
  | pdelayFollowUp (seq : BitVec 16) (sent : Int)
  deriving DecidableEq, Repr

/-- What the device has put out towards the host, the panel and the rings of the cell. -/
inductive Out where
  /-- A reply record at a byte offset of a completion ring (R36, R49). -/
  | reply (q : Nat) (off : Nat) (bytes : List Byte)
  /-- A pad record of a completion ring (R46). -/
  | pad (q : Nat) (off : Nat)
  /-- The status block: sq_head, cq_tail, outstanding (R47). -/
  | status (q : Nat) (sqHead cqTail outstanding : Nat)
  /-- An MSI-X vector raised (R48). -/
  | msix (q : Nat)
  /-- One reply segment on a host port: port, destination, prefix and data (R51). -/
  | datagram (port : Nat) (dst : Endpoint) (bytes : List Byte)
  /-- A PTP message on a host port, in the domain of a TB_DOMAIN word (R96). -/
  | ptp (port : Nat) (domain : Word) (m : PtpOut)
  /-- A panel message: I²C address and bytes (R61); no bytes when the display is cleared. -/
  | panel (addr : Nat) (bytes : List Byte)
  /-- A frame sent on a ring: lane B or A, cell time of its start at the ball, and its bytes from the destination address to the
  padding; the FCS of IEEE 802.3 follows (R113, R114, R125). -/
  | ringFrame (ring : Nat) (laneB : Bool) (at_ : Nat) (bytes : List Byte)
  /-- A copy of a frame on a lane of the Benjo link (R367). -/
  | benjo (lane : Nat) (bytes : List Byte)
  /-- A CAN frame started on the bus: controller and buffer (R392). -/
  | canSof (n : Nat) (b : Nat)
  /-- A dark pulse of an STO line by one channel, in µs (R320). -/
  | darkPulse (pair : Nat) (lineB : Bool) (ch : Nat) (us : Nat)
  /-- The bytes that a debug SPI transaction answers (R437). -/
  | spi (bytes : List Byte)
  deriving DecidableEq, Repr

/-- A packet under reassembly from datagrams (R51, R52). -/
structure Assembly where
  queue : Nat
  seq   : Word
  port  : Fin 2
  src   : Endpoint
  count : Nat
  segs  : List (Nat × List Byte)
  first : Nat
  deriving DecidableEq, Repr

/-- A sequence number accepted over Ethernet, with its final reply once written (R54). -/
structure Stored where
  seq   : Word
  reply : Option Reply
  deriving DecidableEq, Repr

/-- One queue pair (R39 to R55). -/
structure QueueSt where
  qcfg     : Word := 0
  qtags    : Word := 0
  sqBase   : DWord := 0
  cqBase   : DWord := 0
  qsize    : Word := 0x00001014
  /-- Ring base and size words as read at enable or reset (R55). -/
  sqBaseIn : DWord := 0
  cqBaseIn : DWord := 0
  sqLog2   : Nat := 16
  cqLog2   : Nat := 20
  halted   : Bool := false
  lastErr  : Nat := 0
  sqHead   : Nat := 0
  sqTail   : Nat := 0
  /-- Bytes of the submission ring from sq_head up to the tail, not yet taken (R48). -/
  sqMem    : List Byte := []
  cqTail   : Nat := 64
  cqHead   : Nat := 64
  expSeq   : Word := 0
  inflight : List Pkt := []
  replies  : List Reply := []
  nextIndex : Nat := 0
  /-- Time of the last MSI-X raise and cq_tail at that raise (R48). -/
  msixAt   : Option Nat := none
  msixTail : Nat := 64
  bound    : Option Endpoint := none
  stored   : List Stored := []
  highSeq  : Option Word := none
  /-- A reset waits for commands that already execute; the packet that asked for it (R55, R73). -/
  resetting : Bool := false
  resetBy  : List (Nat × Nat) := []
  deriving DecidableEq, Repr

/-- The pending presence-gated command and its window (R58 to R64). -/
structure Presence where
  queue  : Nat
  tag    : Nat
  opcode : Nat
  code   : Nat
  opened : Nat
  deriving DecidableEq, Repr

/-- An event record held for a subscription (R309, R314), or a device notice (subscription 0), with the cell time of its
release. -/
structure EvRec where
  released : Nat
  bytes    : List Byte
  deriving DecidableEq, Repr

/-- A subscription (R65, R66, R313). -/
structure SubSt where
  present  : Bool := false
  entries  : List (Nat × Nat) := []
  dropLate : Bool := false
  held     : List EvRec := []
  dropped  : Nat := 0
  eseq     : Nat := 0
  deriving DecidableEq, Repr

/-- The kinds of device notice that the spec names for subscription 0 of queue 15. -/
inductive NoticeKind where
  | partialImage | queueHalt | chainShed | timeState | slotSwitch | coldstartConflict | ringFailure | ringRun
  | nodeRemoved | breakSet | breakClear | segmentFault | noContact | axisFault | kernelFault | guardOvf
  | recalMissed | resetStuck | brakeTest | pairState | canState | thermal
  deriving DecidableEq, Repr

/-- A device notice with two numbers that name the object concerned (R10, R31, R57, R94, R137, R145, R146, R174,
R194, R265, R288, R334, R339, R371, R394, R425). -/
structure Notice where
  kind : NoticeKind
  a    : Nat
  b    : Nat
  deriving DecidableEq, Repr

/-- HQ_QCFG at reset: en for queues 0, 13, 14, 15; xport any; the credit counts of page 0x0100. -/
def qcfgReset (q : Nat) : Word :=
  if q = 0 then 0xB0000010 else if q = 13 then 0xB0000008 else if q = 14 then 0xB0000004
  else if q = 15 then 0xB0000040 else 0x30000020

/-- A queue at reset: tag_base = 64 q, tag_count = 64 (HQ_QTAGS). -/
def QueueSt.at (q : Nat) : QueueSt :=
  { qcfg := qcfgReset q, qtags := BitVec.ofNat 32 (64 * q * 65536 + 64) }

/-- The host interface: page 0x0100, the sixteen queue pairs, reassembly, presence, panel, subscriptions. -/
structure HostSt where
  ctrl      : Word := 0xC0300003
  ip0       : Word := 0
  ip1       : Word := 0
  errcnt    : Word := 0
  panelAddr : BitVec 7 := 0x38
  queues    : Vector QueueSt 16 :=
    ⟨#[QueueSt.at 0, QueueSt.at 1, QueueSt.at 2, QueueSt.at 3, QueueSt.at 4, QueueSt.at 5, QueueSt.at 6,
       QueueSt.at 7, QueueSt.at 8, QueueSt.at 9, QueueSt.at 10, QueueSt.at 11, QueueSt.at 12, QueueSt.at 13,
       QueueSt.at 14, QueueSt.at 15], rfl⟩
  assembling : List Assembly := []
  presence  : Option Presence := none
  lastCode  : Option Nat := none
  /-- The message that the panel shows, and since when a final one is shown (R61). -/
  panel     : List Byte := []
  panelAt   : Option Nat := none
  subs      : Vector SubSt 16 := (Vector.replicate 16 {}).set 0 { present := true }
  notices   : List Notice := []
  log       : List (List Byte) := []
  deriving DecidableEq, Repr

/-! ### The cell description (01_cell_model_and_placement.md) -/

/-- A joint record (R16): screw (6 words), link frame (7), limits (6), all binary32. -/
structure Joint where
  screw  : List Word
  link   : List Word
  limits : List Word
  deriving DecidableEq, Repr

/-- A chain record (R16). -/
structure ChainRec where
  chain    : Nat
  axes     : Nat
  shedRank : Nat
  stop     : Nat
  base     : List Word
  joints   : List Joint
  deriving DecidableEq, Repr

/-- An auxiliary axis record. -/
structure AuxRec where
  kind       : Nat
  scale      : Word
  dyn        : List Word
  range      : List Word
  frameChain : Nat
  deriving DecidableEq, Repr

/-- A node record. -/
structure NodeRec where
  mac      : BitVec 48
  ring     : Nat
  hop      : Nat
  kind     : Nat
  lclass   : Nat
  flags    : Nat
  naxes    : Nat
  axisList : List Nat
  inBytes  : Nat
  outBytes : Nat
  wdCycles : Nat
  reaction : Nat
  deriving DecidableEq, Repr

/-- A point range record. -/
structure PointRec where
  first    : Nat
  count    : Nat
  node     : Nat
  nibOff   : Nat
  dir      : Nat
  cls      : Nat
  fallback : Nat
  flags    : Nat
  deriving DecidableEq, Repr

/-- A loop record; `coeff` holds the six coefficient words. -/
structure LoopRec where
  axis     : Nat
  kind     : Nat
  group    : Nat
  deadline : Nat
  coeff    : List Word
  deriving DecidableEq, Repr

/-- A deadline record. -/
structure DeadlineRec where
  object    : Word
  limitUs   : Nat
  cycle     : Nat
  missLimit : Nat
  deriving DecidableEq, Repr

/-- A safety zone record. -/
structure ZoneRec where
  shape  : Nat
  zkind  : Nat
  chains : Nat
  geom   : List Word
  deriving DecidableEq, Repr

/-- A capsule or sphere record. -/
structure CapRec where
  chain  : Nat
  link   : Nat
  skind  : Nat
  index  : Nat
  p0     : List Word
  p1     : List Word
  radius : Word
  deriving DecidableEq, Repr

/-- A body source record. -/
structure BodyRec where
  node        : Nat
  maxBodies   : Nat
  capsPerBody : Nat
  connId      : Word
  wdUs        : Nat
  deriving DecidableEq, Repr

/-- A whole cell description (R13 to R16). -/
structure Cell where
  cellId    : Word := 0
  servoCode : Nat := 1
  mode      : Nat := 0
  chains    : List ChainRec := []
  aux       : List AuxRec := []
  nodes     : List NodeRec := []
  points    : List PointRec := []
  loops     : List LoopRec := []
  groups    : List (List Nat) := []
  deadlines : List DeadlineRec := []
  zones     : List ZoneRec := []
  caps      : List CapRec := []
  bodies    : List BodyRec := []
  deriving DecidableEq, Repr

/-- A partial image of a stream (R9, R10). -/
structure Partial where
  stream : Stream
  queue  : Nat
  opcode : Nat
  bytes  : List Byte
  total  : Nat
  last   : Nat
  deriving DecidableEq, Repr

/-- A readback record (R33). -/
structure ReadRec where
  object : Word
  rkind  : Nat
  rindex : Nat
  slot   : Nat
  start  : Nat
  extent : Nat
  deriving DecidableEq, Repr

/-- Where a loop copy runs: loop record index, bracket copy, engine and slot (R22). -/
structure LoopPlace where
  loop   : Nat
  copy   : Nat
  engine : Nat
  slot   : Nat
  deriving DecidableEq, Repr

/-- The slots of one node on its ring: the phases it speaks in (empty: every servo cycle) with start, and length. -/
structure NodePlace where
  node   : Nat
  phases : List (Nat × Nat)
  start  : Nat
  extent : Nat
  deriving DecidableEq, Repr

/-- The plan of one ring (R120, R121, R123): output slot head time, longest device output slot, output advance,
participants, planned loop delay, and where the service window starts and ends, in ns from the shutter instant. -/
structure RingPlan where
  used   : Bool := false
  sOut   : Nat := 0
  outLen : Nat := 0
  adv    : Nat := 1
  links  : Nat := 0
  lPlan  : Nat := 0
  window : Nat := 0
  fin    : Nat := 0
  deriving DecidableEq, Repr

/-- A placement (R18): the readback records with their digest, and what they bind. -/
structure Placement where
  records  : List ReadRec := []
  digest   : Word := 0
  loops    : List LoopPlace := []
  nodes    : List NodePlace := []
  rings    : Vector RingPlan 4 := Vector.replicate 4 {}
  /-- Problem index, first partition, partition count, schedule index. -/
  problems : List (Nat × Nat × Nat × Nat) := []
  /-- Kernel id and tile. -/
  kernels  : List (Nat × Nat) := []
  /-- Point range index and event batch. -/
  batches  : List (Nat × Nat) := []
  shed     : BitVec 16 := 0
  bracket  : Bool := false
  deriving DecidableEq, Repr

/-- The kinds of placement work (R12, R30). -/
inductive JobKind where
  | load | amend | check | swap | bind | degraded
  deriving DecidableEq, Repr

/-- Where a placement job stands. -/
inductive JobPhase where
  /-- The image is validated and placement runs. -/
  | placing
  /-- Placed, and pending presence (R58). -/
  | presence
  /-- Placed and announced: it activates at this planning tick (R28). -/
  | announced (tick : Nat)
  deriving DecidableEq, Repr

/-- The placement command in progress (R12): what it would put in force. -/
structure Job where
  kind      : JobKind
  queue     : Nat
  tag       : Nat
  cell      : Cell
  current   : List (Nat × Nat)
  bind      : Option (Nat × Word)
  phase     : JobPhase
  placement : Placement := {}
  altersSafety : Bool := false
  /-- A unit was masked after the announcement, so placement runs again (R30). -/
  degraded  : Bool := false
  /-- The masked set changed while placement ran (R32). -/
  remasked  : Bool := false
  /-- The masked set changed while the placed image waited for presence (R30). -/
  stale     : Bool := false
  /-- Twin rules after a partner has joined: the placement is announced 16 planning ticks ahead (R382). -/
  rejoin    : Bool := false
  /-- Problems whose staging for the announced placement is not complete (R220). -/
  toStage   : List Nat := []
  deriving DecidableEq, Repr

/-- The cell in force and the placement machinery (R9 to R33). -/
structure CellSt where
  active     : Option Cell := none
  partials   : List Partial := []
  job        : Option Job := none
  /-- The degraded placement of the active cell in progress (R30). -/
  regrade    : Option Job := none
  placement  : Placement := {}
  generation : Word := 0
  engMask    : BitVec 16 := 0
  partMask   : BitVec 8 := 0
  tileMask   : BitVec 16 := 0
  shed       : BitVec 16 := 0
  deriving DecidableEq, Repr

/-! ### Cell time (04_cell_time.md) -/

/-- TB_STATUS.state (R94). -/
inductive TbState where
  | freerun | acquire | locked | holdover
  deriving DecidableEq, Repr

/-- A foreign master that a port hears in a slot: its last Announce message and when that came, its port identity, and whether it
qualifies for the BMCA, which a second Announce within 4 intervals gives it (R96). -/
structure Heard where
  ds : PtpDataset
  at_ : Nat
  source : BitVec 80 := 0
  qual : Bool := false
  deriving DecidableEq, Repr

/-- The peer delay measurement of one port in a slot (R96, peer-to-peer profile): the request sent, the response taken, and the
delay in twentieths of a nanosecond. -/
structure Peer where
  sent  : Option (BitVec 16 × Int) := none
  resp  : Option (Int × Int) := none
  delay : Int := 0
  deriving DecidableEq, Repr

/-- The servo of one PTP slot (R94 to R99). Times of the delay measurement are in twentieths of a nanosecond. -/
structure SlotServo where
  heard    : Vector (List Heard) 2 := Vector.replicate 2 []
  /-- Elapsed time at which the slot began to listen without a grandmaster. -/
  listenFrom : Nat := 0
  /-- A TB_DOMAIN write restarted the servo, and the slot has not locked since (R108). -/
  restarted : Bool := false
  offset   : Option Int := none
  mean     : Int := 0
  run      : Nat := 0
  locked   : Bool := false
  lockedAt : Option Nat := none
  /-- Elapsed time of the last Sync, or from which one is awaited. -/
  lastSync : Nat := 0
  /-- A two-step Sync that waits for its Follow_Up: sequence number and arrival. -/
  syncAt   : Option (BitVec 16 × Int) := none
  /-- Origin and arrival of the last Sync. -/
  syncPair : Option (Int × Int) := none
  /-- The Delay_Req last sent: sequence number and departure. -/
  reqAt    : Option (BitVec 16 × Int) := none
  delay    : Int := 0
  peers    : Vector Peer 2 := Vector.replicate 2 {}
  txSeq    : BitVec 16 := 0
  deriving DecidableEq, Repr

/-- The time base: page 0x0200 and the discipline of cell time (R90 to R108). -/
structure TimeSt where
  /-- Cell time in ns: seconds × 1,000,000,000 + nanoseconds, seconds modulo 2⁴⁸ (R90). -/
  cellNs   : Nat := 0
  state    : TbState := .freerun
  ctrl     : Word := 0x66006400
  domain   : Vector Word 2 := ⟨#[0x80D00000, 0x00D00100], rfl⟩
  gm       : Word := 0x8080F8FE
  utc      : Word := 0x00000025
  slots    : Vector SlotServo 2 := Vector.replicate 2 {}
  curSlot  : Fin 2 := 0
  lockHeld : Bool := false
  /-- Consecutive measurements within lock_ns while in ACQUIRE (R94). -/
  lockRun  : Nat := 0
  /-- Frequency correction in ppb, within ±100,000 (R95). -/
  freq     : Int := 0
  /-- Phase still to be slewed, in ns (R95). -/
  slew     : Int := 0
  holdFrom : Option Nat := none
  /-- A decided slot switch and its planning tick boundary (R100). -/
  switchTo : Option (Fin 2 × Nat) := none
  lastPps  : Option Nat := none
  syncInEdge : Bool := false
  rejects  : Nat := 0
  captures : BitVec 16 := 0
  syncIn   : DWord := 0
  outPer   : Word := 0
  outOfs   : Word := 0
  outW     : Word := 10000
  pcorr    : Vector Word 10 := Vector.replicate 10 0
  /-- SYNC_OUT: nanoseconds of cell time that it stays high (R103); 0 when low. -/
  outLeft  : Nat := 0
  /-- Cell time advanced by 2 ns in the last TIME cycle, so that the nanosecond before the present one passed too (R93, R95). -/
  skipped  : Bool := false
  ptpDiscarded : Nat := 0
  deriving DecidableEq, Repr

/-! ### Ocnel ring (05_ocnel_ring.md) -/

/-- RG_RSTAT.state (R141). -/
inductive RingState where
  | down | listen | coldstart | backoff | ranging | config | run
  deriving DecidableEq, Repr

/-- RG_NODE.state. -/
inductive NodeState where
  | absent | ranging | config | run | rerange | removed | mismatch | readmit
  deriving DecidableEq, Repr

/-- The classification of a node frame (R133), best first. -/
inductive SlotResult where
  | onTime | slotEdge | slotLost
  deriving DecidableEq, Repr

/-- What the device keeps of one hop of a ring (RG_NODE, R127 to R137, R150). -/
structure NodeSt where
  state     : NodeState := .absent
  node      : Nat := 0xFFFF
  edge      : Nat := 0
  lost      : Nat := 0
  /-- δ_A and δ_B as last ranged, in quarter nanoseconds; none when not measured. -/
  delA      : Option Nat := none
  delB      : Option Nat := none
  /-- Half round trips of the last 8 cycles, the latest first, and of the present ranging round (R128, R135), in quarter
  nanoseconds, each with its lane: lane B gives δ_B. -/
  recent    : List (List (Bool × Nat)) := []
  round     : List (Bool × Nat) := []
  run       : Nat := 0
  /-- The cycle of the latest copies, whether its result is still open, the best copy so far, and whether both copies have come or
  their time is over (R133, R134). -/
  cycle     : Option Word := none
  live      : Bool := false
  result    : Option SlotResult := none
  final     : Bool := false
  /-- This device's result to be told to the partner, and the partner's latest result, each with its cycle (R134). -/
  own       : Option (Word × SlotResult) := none
  peer      : Option (Word × SlotResult) := none
  /-- The cycle before, with this device's result, while the partner's may still come (R134). -/
  prev      : Option (Word × SlotResult) := none
  nextReady : Bool := false
  confirmed : Bool := false
  readmitAt : Option Nat := none
  /-- The NODE_READMIT packet that waits for the boundary (R83). -/
  readmitBy : Option (Nat × Nat) := none
  /-- The channels on which the copies of the latest cycle came: bit 0 A, bit 1 B (R146). -/
  chans     : Nat := 0
  /-- The first valid copy of the latest cycle has been taken: bit 0 DATA, bit 1 NULL (R117). -/
  taken     : Nat := 0
  /-- The latest accepted DATA payload: sequence number, in_fault, payload. -/
  data      : Option (Word × Bool × List Byte) := none
  deriving DecidableEq, Repr

/-- One ring (R109 to R151). -/
structure RingSt where
  rcfg      : Word := 0x28000000
  state     : RingState := .down
  windowAt  : Nat := 0
  heard     : Bool := false
  collisions : Nat := 0
  collidedAt : Nat := 0
  starter   : Bool := true
  broken    : Bool := false
  breakHop  : Nat := 0xFF
  slow      : Bool := false
  partner   : Bool := false
  head      : Bool := false
  adv       : Nat := 0
  loopA     : Word := 0xFFFFFFFF
  loopB     : Word := 0xFFFFFFFF
  errcnt    : Word := 0
  cycle     : Word := 0
  /-- The poll under way: hop, lane B, and whether the configuration poll is meant (R144, R145). -/
  pollHop   : Nat := 0
  pollB     : Bool := false
  pollConf  : Bool := false
  pollAt    : Nat := 0
  activateAt : Option Nat := none
  nodes     : List (Nat × NodeSt) := []
  /-- Management codes to repeat in device DATA frames: code, hop, copies left (R115). -/
  mgmt      : List (Nat × Nat × Nat) := []
  /-- Configuration records to send: remaining times, generation, record (R130, R131). -/
  records   : List (Nat × Nat × List Byte) := []
  /-- CONFIG frames that have not been sent yet, and when the next is due (R145); when the next COLDSTART is due (R141). -/
  configQ   : List (List (List Byte)) := []
  configAt  : Nat := 0
  coldAt    : Nat := 0
  /-- The hop counter of the device's own COLDSTART frame (R143), and the departure of the poll under way. -/
  hopCount  : Nat := 0
  pollDep   : Int := 0
  /-- Departures of the latest device copies from lanes A and B, in twentieths of a nanosecond (R127). -/
  sentA     : List Int := []
  sentB     : List Int := []
  /-- The service window to come, head time and cycle, and frames that wait for their nominal instant: instant, lane B, bytes. -/
  serviceAt : Option (Nat × Word) := none
  sends     : List (Nat × Bool × List Byte) := []
  /-- δ_A and δ_B of device 1's own position (R119, R148), and what it has taken from CONFIG frames: its output slot, the
  generation, and the kinds of record held (R142). -/
  ownA      : Option Nat := none
  ownB      : Option Nat := none
  slotAt    : Option Nat := none
  confGen   : Nat := 0
  confKinds : List Nat := []
  /-- The partner was last heard on this ring at this elapsed time. -/
  partnerAt : Nat := 0
  /-- The loop delays L_A and L_B in force: as last measured, in quarter nanoseconds (R129). -/
  heldA     : Option Nat := none
  heldB     : Option Nat := none
  /-- The DATA frames of the device whose return has not been judged, head time and cycle, and the cycles whose copies have returned
  on channels A and B, latest first (R146). -/
  ownData   : List (Nat × Word) := []
  backA     : List Word := []
  backB     : List Word := []
  missA     : Nat := 0
  missB     : Nat := 0
  backRun   : Nat := 0
  /-- The generation of the ring's records in force (R118, R149). -/
  gen       : Word := 0
  /-- Sums and counts of the loop delays measured in the present ranging round, lanes A and B (R127). -/
  sumA      : Nat × Nat := (0, 0)
  sumB      : Nat × Nat := (0, 0)
  deriving DecidableEq, Repr

/-! ### Motion pipeline (06_motion_pipeline.md) -/

/-- MO_CHSTAT.state (R157). -/
inductive ChState where
  | idle | run | waitBarrier | stopping | hold | protect | fault | shed
  deriving DecidableEq, Repr

/-- MO_CHSTAT.fault (R174). -/
inductive ChFault where
  | none | pathUnreachable | barrierTimeout | barrierMismatch | trackWindow | noContact | solveMiss | axisFault
  deriving DecidableEq, Repr

/-- A path segment as planned (R155, R156, R174): its run of records that blend into each other or form one SPLINE and its
place in it, the path times at its start and end, the joint positions at its start, and the tool pose at the start of the run in
the cell frame and in the base frame. -/
structure PlanSeg where
  run    : List (List Byte)
  place  : Nat
  t0     : Word
  t1     : Word
  joints : List Word
  origin : List Word := []
  deriving DecidableEq, Repr

/-- One chain of the pipeline (R152 to R174). -/
structure ChainSt where
  state    : ChState := .idle
  fault    : ChFault := .none
  /-- Queued segment records, the executing one first (R152). -/
  queue    : List (List Byte) := []
  /-- Whether the head of the queue is executing; the path times at its start and end, and the joint positions at its start. -/
  executing : Bool := false
  segFrom  : Word := 0
  segEnd   : Word := 0
  start    : List Word := []
  /-- The completed records of the run that the executing one belongs to, and the tool pose at its start in the cell frame and in
  the base frame (R155, R156). -/
  runDone  : List (List Byte) := []
  origin   : List Word := []
  /-- The planning tick at which an executing DWELL ends (R155). -/
  dwellEnd : Nat := 0
  /-- The path planned at the latest reference stage. -/
  path     : List PlanSeg := []
  /-- Joint positions that the reference holds at rest; empty for the end of the piece in force. -/
  rest     : List Word := []
  /-- The TRACK whose pose the chain keeps in the moving frame (R172). -/
  follow   : Option (List Byte) := none
  /-- The path position at which a protective stop began: path time and joint positions (R168). -/
  recovery : Option (Word × List Word) := none
  /-- The recovery move under way (R168). -/
  recMove  : Option PlanSeg := none
  feed     : Nat := 65536
  feedTo   : Nat := 65536
  sigma    : Word := 0
  /-- The stop kind in force and the tick of standstill (R167). -/
  stopKind : Option Nat := none
  stopEnd  : Nat := 0
  /-- At a barrier: the cell time at which the first member of its matching records arrived (R170). -/
  arrived  : Option Nat := none
  /-- The longest run of servo cycles with a force-limit loop selected during the APPROACH (R173). -/
  contact  : Nat := 0
  deriving DecidableEq, Repr

/-- What the reference set of a chain is formed from (R160, R163): the path time at the pinned knot, the feed, the stop under
way, the path, and what the chain holds where no path is left. -/
structure RefPath where
  free   : Nat := 0
  sigma  : Word := 0
  feed   : Nat := 65536
  feedTo : Nat := 65536
  limits : List Word := []
  /-- Planning ticks to standstill of a stop under way. -/
  stop   : Option Nat := none
  path   : List PlanSeg := []
  rest   : List Word := []
  follow : Option (List Byte) := none
  deriving DecidableEq, Repr

/-- A motion command that waits for the reference stage (R160). -/
inductive MotionCmd where
  | stop (q tag : Nat) (mask : BitVec 16) (kind : Nat)
  | resume (q tag : Nat) (mask : BitVec 16)
  | feed (q tag : Nat) (mask : BitVec 16) (scale : Nat)
  | quick (c : Nat)
  deriving DecidableEq, Repr

/-- A coefficient bank of an axis: start of the piece and its quintic (R164). -/
structure Bank where
  start : Nat
  coef  : List Word
  /-- The MO_AXFF word of the piece (R176). -/
  ff    : Word := 0
  deriving DecidableEq, Repr

/-- Planner and solver hand-off of one problem (R153, R162). -/
structure ProbMotion where
  misses   : Nat := 0
  /-- The last distributed solution: tick, and per axis and knot offset the values q, v, a; σ per chain and knot. -/
  solTick  : Nat := 0
  sol      : List (Nat × Nat × List Word) := []
  sigma    : List (Nat × Nat × Word) := []
  deriving DecidableEq, Repr

/-- The motion pipeline: page 0x0400, chains, auxiliary axes, banks (R152 to R176). -/
structure MotionSt where
  ctrl      : Word := 0x3640A000
  fallbacks : Nat := 0
  chcfg     : Vector Word 16 := Vector.replicate 16 0x00088000
  auxCmd    : Vector Word 32 := Vector.replicate 32 0
  axff      : Vector Word 160 := Vector.replicate 160 0
  /-- The words in force since the latest reference stage (R176). -/
  ctrlIn    : Word := 0x3640A000
  /-- The planning tick whose words are in place (R176, R245). -/
  latchTick : Nat := 0
  chcfgIn   : Vector Word 16 := Vector.replicate 16 0x00088000
  axffIn    : Vector Word 160 := Vector.replicate 160 0
  chains    : Vector ChainSt 16 := Vector.replicate 16 {}
  /-- The targets of the auxiliary axes since the latest reference stage, and their position, velocity and acceleration at
  its pinned knot (R171). -/
  auxIn     : Vector Word 32 := Vector.replicate 32 0
  auxFrom   : Vector (List Word) 32 := Vector.replicate 32 []
  /-- The auxiliary axes that a stopped index serves (R319). -/
  auxStopped : List Nat := []
  cmds      : List MotionCmd := []
  /-- The reference set (R159, R160): the tick that it serves, the knots that it was shifted by since it was formed, the free
  number that stands for its open values, and what each chain's is formed from. -/
  refTick   : Nat := 0
  refShift  : Nat := 0
  refFree   : Nat := 0
  refs      : Vector RefPath 16 := Vector.replicate 16 {}
  probs     : Vector ProbMotion 4 := Vector.replicate 4 {}
  bankCur   : Vector (Option Bank) 160 := Vector.replicate 160 none
  bankNext  : Vector (Option Bank) 160 := Vector.replicate 160 none
  deriving DecidableEq, Repr

/-! ### Loop engines (07_loop_engines.md) -/

/-- The setpoints of one shutter instant: sequence number, position, vff, tff (R165, R181). -/
structure Setpoint where
  seq : Word
  pos : Word
  vff : Word
  tff : Word
  deriving DecidableEq, Repr

/-- A coefficient set waiting for its boundary, with the packet that waits (R183). -/
structure NewCoeff where
  words : List Word
  at_   : Nat
  queue : Nat
  tag   : Nat
  deriving DecidableEq, Repr

/-- One loop slot (R178 to R193, slot words of R200). Signals are signed 32-bit words held as integers. -/
structure LoopSlot where
  valid   : Bool := false
  kind    : Nat := 0
  member  : Nat := 0
  copy    : Nat := 0
  group   : Nat := 0xFF
  loop    : Nat := 0xFFFF
  axis    : Nat := 0
  cfg     : Word := 0x18000000
  ref     : Word := 0
  kp      : Word := 0
  ki      : Word := 0
  kd      : Word := 0
  df      : Word := 0
  omin    : Int := 0
  omax    : Int := 0
  r       : Int := 0
  f       : Int := 0
  ff      : Int := 0
  e       : Int := 0
  p       : Int := 0
  i       : Int := 0
  d       : Int := 0
  u       : Int := 0
  y       : Int := 0
  fPrev   : Int := 0
  /-- The next evaluation is the first after a reset or a miss (R182). -/
  first   : Bool := true
  deadlineMiss : Bool := false
  hoClamped : Bool := false
  atLimit : Bool := false
  selected : Bool := false
  primary : Bool := false
  tracking : Bool := false
  missTotal : Nat := 0
  missRun : Nat := 0
  /-- The sequence number last evaluated or missed. -/
  lastSeq : Option Word := none
  /-- Coefficient sets that wait for their boundary, oldest first (R183). -/
  newCoeff : List NewCoeff := []
  /-- LP_CFG and LP_REF words written and their servo cycle boundaries (R200). -/
  newCfg  : List (Nat × Word) := []
  newRef  : List (Nat × Word) := []
  /-- A separation cap in counts/s, if one is in force (R181, R361). -/
  cap     : Option Int := none
  /-- A cap written by the safety cycle and the servo cycle boundary at which it applies (R181). -/
  newCap  : List (Nat × Option Int) := []
  /-- The APPROACH force limit while one runs (R173, R181). -/
  force   : Option Int := none
  /-- What the partner had after a sample that is still open here: cycle, i, d, e_prev, f_prev, output and miss run (R373). -/
  peer    : Option (Word × List Int × Nat) := none
  /-- Consecutive servo cycles in which a force-limit loop was the selected member (R173). -/
  selRun  : Nat := 0
  deriving DecidableEq, Repr

/-- A handover window of an override group (R190, R191). -/
structure Handover where
  member : Nat
  window : Nat
  k      : Nat
  at_    : Nat
  rho    : Int
  started : Bool
  /-- HANDOVER_CLAMPED was set at H (R191). -/
  clamped : Bool := false
  queue  : Nat
  tag    : Nat
  deriving DecidableEq, Repr

/-- One override group (R184 to R191, LP_GRP); a loop without a group forms a group of one. -/
structure GroupSt where
  axis     : Nat := 0
  members  : List Nat := []
  command  : Bool := false
  primary  : Nat := 0
  selected : Nat := 0
  clamped  : Bool := false
  output   : Int := 0
  handover : Option Handover := none
  deriving DecidableEq, Repr

/-- One axis at the loops (R177, R194, LP_AXCFG, LP_AXSCALE, LP_AXSTAT). -/
structure AxisSt where
  torqueCmd : Bool := false
  scale  : Word := 0x3F800000
  fault  : Bool := false
  cause  : Nat := 0
  /-- The cause of the reaction still holds (R194). -/
  causeHolds : Bool := false
  cmd    : Int := 0
  /-- The command is sent in one more device frame before the fault reaction puts 0 in its place (R196). -/
  cmdOnce : Bool := false
  vff    : Int := 0
  tff    : Int := 0
  pos    : Int := 0
  vel    : Int := 0
  temp   : Int := 0
  torque : Int := 0
  /-- The event stamp of the shutter instant at which they were measured (R161). -/
  stamp  : Nat := 0
  /-- Setpoints for the current and the previous shutter instant (R181). -/
  setCur : Option Setpoint := none
  setPrev : Option Setpoint := none
  deriving DecidableEq, Repr

/-- TR_CAP.state (R198). -/
inductive CapState where
  | idle | armed | triggered | held
  deriving DecidableEq, Repr

/-- One contact sheet (R197 to R201). -/
structure TraceSt where
  probes  : Vector Word 8 := Vector.replicate 8 0
  trig    : Word := 0x00003333
  level   : Word := 0
  state   : CapState := .idle
  missed  : Nat := 0
  /-- Rows in time order: sequence number, eight values, rflags. -/
  rows    : List (Word × List Word × Word) := []
  trigRow : Nat := 0
  source  : Nat := 0
  gen     : Word := 0
  lastGen : Word := 0
  postLeft : Nat := 0
  decLeft : Nat := 0
  lastVal : Option Int := none
  /-- What the probes recorded after the selectors of the latest samples: TR_PROBE word, sequence number, signal, and whether the
  slot was the selected member (R197). -/
  seen    : List (Word × Word × Int × Bool) := []
  deriving DecidableEq, Repr

/-- One loop engine. -/
structure EngineSt where
  faulted  : Bool := false
  masked   : Bool := false
  batchMax : Nat := 0
  /-- The LOOP cycle, in ns of elapsed time, from which the engine can issue a slot (R195). -/
  issueAt  : Nat := 0
  slots    : Vector LoopSlot 32 := Vector.replicate 32 {}
  trace    : TraceSt := {}
  deriving DecidableEq, Repr

/-- The loop engines, groups and axes: pages 0x0500 to 0x052F and 0x0F00. -/
structure LoopSt where
  ctrl    : Word := 0x30000000
  misses  : Nat := 0
  engines : Vector EngineSt 16 := Vector.replicate 16 {}
  /-- Groups by key: the group record index, or 128 + loop record index for a group of one. -/
  groups  : List (Nat × GroupSt) := []
  axes    : Vector AxisSt 160 := Vector.replicate 160 {}
  deriving DecidableEq, Repr

/-! ### Schedules, Enlarger and solver (08, 09) -/

/-- A P or A entry record (R213). -/
structure MatEntry where
  row    : Nat
  col    : Nat
  source : Word
  scale  : Word
  deriving DecidableEq, Repr

/-- A vector entry record. -/
structure VecEntry where
  vector : Nat
  index  : Nat
  source : Word
  scale  : Word
  deriving DecidableEq, Repr

/-- A vector record: id, space (0 variable, 1 constraint), role, base words. -/
structure VecRec where
  id    : Nat
  space : Nat
  role  : Nat
  bases : List Nat
  deriving DecidableEq, Repr

/-- A separation pair record. -/
structure PairRec where
  pkind  : Nat
  chainA : Nat
  capA   : Nat
  b      : Nat
  capB   : Nat
  slots  : Nat
  margin : Word
  deriving DecidableEq, Repr

/-- A lane instruction (R214). -/
structure LaneInstr where
  op    : Nat
  flags : Nat
  dst   : Nat
  a     : Nat
  b     : Nat
  c     : Nat
  count : Nat
  s     : Nat
  deriving DecidableEq, Repr

/-- A schedule image (R210 to R214). Variables and constraints: tag, partition (and rkind). -/
structure SchedImage where
  index      : Nat
  problem    : Nat
  chainMask  : Nat
  partitions : Nat
  length     : Nat
  nVar       : Nat
  nCon       : Nat
  family     : Word
  binding    : Word
  /-- The version of the compiler that made the image, reported and not interpreted. -/
  compiler   : Word
  evalKnots  : List Nat
  vars       : List (Word × Nat)
  cons       : List (Word × Nat × Nat)
  pEnt       : List MatEntry
  aEnt       : List MatEntry
  vEnt       : List VecEntry
  vecs       : List VecRec
  blocks     : List (Nat × Nat)
  pairs      : List PairRec
  consts     : List Word
  program    : List LaneInstr
  vecWords   : List Nat
  deriving DecidableEq, Repr

/-- What an area of a problem's partitions holds with its instruction memory (R209, R220): the image whose vector and block
layout and lane program are there, the values of the P and A entries, the vectors, and per block the packed factor: rows of L
below the diagonal, then D (R229). -/
structure Area where
  image   : Option SchedImage := none
  pVal    : List Word := []
  aVal    : List Word := []
  vecs    : List (Nat × List Word) := []
  factors : List (List (List Word) × List Word) := []
  deriving DecidableEq, Repr

/-- One problem at the Enlarger (EN_PROB, R208, R220). -/
structure ProbSt where
  active   : Bool := false
  first    : Nat := 0
  count    : Nat := 0
  sched    : Nat := 0
  area     : Nat := 0
  /-- Staging after a degraded re-placement is under way, and the problem is not solved (R221). -/
  staging  : Bool := false
  /-- The tick whose assembly is complete (R208). -/
  complete : Option Nat := none
  deriving DecidableEq, Repr

/-- A kept warm-start copy (R237 to R240): family, tick, tagged x and y. -/
structure WarmCopy where
  family : Word
  tick   : Nat
  x      : List (Word × Word)
  y      : List (Word × Word)
  deriving DecidableEq, Repr

/-- An open loop of a lane program: first body instruction, iterations left, whether it is the outer loop. -/
structure LaneLoop where
  body  : Nat
  left  : Nat
  outer : Bool
  deriving DecidableEq, Repr

/-- What a distribution replaced, until the partner's SOLVE value of its tick has come (R375): the last solution, the banks of the
problem's axes and σ of its chains. -/
structure Replaced where
  tick   : Nat
  prob   : ProbMotion
  banks  : List (Nat × Option Bank × Option Bank)
  sigmas : List (Nat × Word)
  deriving DecidableEq, Repr

/-- The solve of one problem (R223 to R244) with its parameter words (R245). -/
structure SolveSt where
  rho      : Word := 0x3DCCCCCD
  sigma    : Word := 0x358637BD
  eqs      : Word := 0x447A0000
  floor    : Word := 0x358637BD
  rej      : Word := 0x3C23D70A
  /-- The words in force from the latest planning tick boundary (R245). -/
  rhoIn    : Word := 0x3DCCCCCD
  sigmaIn  : Word := 0x358637BD
  eqsIn    : Word := 0x447A0000
  floorIn  : Word := 0x358637BD
  rejIn    : Word := 0x3C23D70A
  cycLast  : Nat := 0
  cycMax   : Nat := 0
  cnt      : Word := 0
  running  : Bool := false
  halted   : Bool := false
  tick     : Nat := 0
  pc       : Nat := 0
  loops    : List LaneLoop := []
  scal     : Vector Word 16 := Vector.replicate 16 0
  /-- The live area, and the other one, into which staging writes; `staged` says that it holds what the announced placement
  needs (R209, R220). -/
  mem      : Area := {}
  other    : Area := {}
  staged   : Bool := false
  replaced : Option Replaced := none
  /-- The report and tick number that SOLVER_REPORT returns: of the latest completed tick (R244). -/
  record   : List Byte := []
  recTick  : Nat := 0
  emitted  : List Word := []
  pivot    : Bool := false
  ovf      : Bool := false
  mismatch : Bool := false
  cold     : Bool := false
  outerRun : Nat := 0
  innerRun : Nat := 0
  /-- The latest DOT result outside the inner loop. -/
  gammaPre : Word := 0
  gammaStart : Word := 0
  gammaEnd : Word := 0
  floored  : Nat := 0
  saturated : Nat := 0
  inverted : Nat := 0
  varMatched : Nat := 0
  conMatched : Nat := 0
  cycles   : Nat := 0
  warm     : Option WarmCopy := none
  /-- The report of the latest completed tick, and the one being formed (R244). -/
  report   : List Byte := []
  flags    : Nat := 0
  repTick  : Nat := 0
  deriving DecidableEq, Repr

/-- The measurement snapshot of a tick (R161): per axis the measured position and velocity words and the event stamp of
their shutter instant, caps per axis, and the body capsules by body slot. -/
structure Snapshot where
  stamps : List Nat := []
  pos    : List Word := []
  vel    : List Word := []
  caps   : List (Nat × Word) := []
  bodies : List (Nat × List (List Int)) := []
  deriving DecidableEq, Repr

/-- Schedules, Enlarger and solver: pages 0x0600 to 0x0605. -/
structure SolverSt where
  images   : Vector (Option SchedImage) 16 := Vector.replicate 16 none
  /-- The current image of each problem (R219): schedule index. -/
  current  : Vector (Option Nat) 4 := Vector.replicate 4 none
  asmMax   : Nat := 0
  asmLast  : Nat := 0
  err      : Word := 0
  loadErr  : Word := 0
  loadOfs  : Word := 0
  far      : Word := 0x42C80000
  weights  : Vector Word 64 := Vector.replicate 64 0x3F800000
  snapshot : Snapshot := {}
  probs    : Vector ProbSt 4 := Vector.replicate 4 {}
  ctrl     : Word := 0x0C080000
  ctrlIn   : Word := 0x0C080000
  stat     : Word := 0
  solves   : Vector SolveSt 4 := Vector.replicate 4 {}
  deriving DecidableEq, Repr

/-! ### Signal tiles (10_signal_tiles.md) -/

/-- A kernel image (R259). -/
structure KernelImage where
  memcfg   : Nat
  mode     : Nat
  bindKind : Nat
  rate     : Nat
  program  : List DWord
  ivec     : Nat
  xBytes   : Nat
  yBytes   : Nat
  cycles   : Nat
  inOff    : Nat
  outOff   : Nat
  extraOff : Nat
  extraLen : Nat
  ien      : Nat
  init     : List Word
  deriving DecidableEq, Repr

/-- DX_KSTAT.state. -/
inductive KState where
  | empty | stored | bound | faulted
  deriving DecidableEq, Repr

/-- One kernel of the store (R259 to R266). -/
structure KernelSt where
  image    : Option KernelImage := none
  state    : KState := .empty
  cause    : Nat := 0
  bind     : Option Word := none
  tile     : Nat := 0
  /-- Window memory by word address (R261); an unlisted word is 0. -/
  window   : List (Nat × Word) := []
  /-- The waiting activation: seq and input block (R265). -/
  waiting  : Option (Word × List Word) := none
  valid    : Bool := false
  kseq     : Word := 0
  out      : Vector Word 8 := Vector.replicate 8 0
  gov      : Bool := false
  sat      : Bool := false
  overruns : Nat := 0
  skipped  : Nat := 0
  cycMax   : Nat := 0
  cycLast  : Nat := 0
  deriving DecidableEq, Repr

/-- The sequencer of a tile: the registers of R254 and the activation under way (R246 to R263). -/
structure Core where
  kernel : Nat := 0
  kseq   : Word := 0
  pc     : Nat := 0
  d      : Vector Word 16 := Vector.replicate 16 0
  a      : Vector Acc 4 := Vector.replicate 4 0
  b      : Vector (BitVec 15) 4 := Vector.replicate 4 0
  l      : Vector (BitVec 16) 4 := Vector.replicate 4 0
  i      : Vector (BitVec 16) 4 := Vector.replicate 4 0
  s      : Vector (BitVec 16) 4 := Vector.replicate 4 0
  lc     : Word := 0
  ls     : Word := 0
  le     : Word := 0
  link   : Word := 0
  bx     : Nat := 31
  tst    : BitVec 16 := 0
  mode   : BitVec 8 := 0
  ipc    : Word := 0
  istat  : BitVec 16 := 0
  ien    : BitVec 3 := 0
  ipend  : BitVec 3 := 0
  cyc    : Nat := 0
  inHandler : Bool := false
  noticed : Bool := false
  deriving DecidableEq, Repr

/-- One tile. -/
structure TileSt where
  memcfg  : Bool := false
  faulted : Bool := false
  gov     : Bool := false
  sat     : Bool := false
  overrun : Bool := false
  corrected : Nat := 0
  /-- An activation is running on `core`. -/
  busy    : Bool := false
  core    : Core := {}
  /-- Kernels whose activation waits, in order of arrival (R265). -/
  queue   : List Nat := []
  deriving DecidableEq, Repr

/-- The signal tiles: pages 0x0700 to 0x0703. -/
structure TilesSt where
  ctrl    : Word := 0
  tiles   : Vector TileSt 16 := Vector.replicate 16 {}
  kernels : Vector KernelSt 64 := Vector.replicate 64 {}
  deriving DecidableEq, Repr

/-! ### Dispatcher and arbiters (11_dispatcher_and_arbitration.md) -/

/-- A delay entry (R279): expiry tick, what falls due (a user of the delay lists and two numbers). -/
structure DelayEntry where
  tick : Nat
  user : Nat
  a    : Nat
  b    : Nat
  deriving DecidableEq, Repr

/-- A requester of an arbiter that waits or holds: index, class, background, promoted, progress kept (R283). -/
structure Requester where
  index    : Nat
  cls      : Nat
  bg       : Bool
  promoted : Bool
  progress : Nat
  deriving DecidableEq, Repr

/-- One arbiter instance (R281 to R285). `ranks` lists requester indices with the class they stand in, best rank first; the rank
order of a class is that of its members, and background requesters stand in class 4 (R282). -/
structure ArbSt where
  holder  : Option Requester := none
  waiting : List Requester := []
  ranks   : List (Nat × Nat) := []
  preempt : Nat := 0
  deriving DecidableEq, Repr

/-- The kinds of work items (R271). -/
inductive WorkKind where
  | loopBatch | kernelRun | solverJob | eventBatch | commandStep | backgroundStep
  deriving DecidableEq, Repr

/-- The kind byte. -/
def WorkKind.code : WorkKind → Nat
  | .loopBatch => 1 | .kernelRun => 2 | .solverJob => 3 | .eventBatch => 4 | .commandStep => 5 | .backgroundStep => 6

/-- Flow types (R271, R277). -/
inductive FlowType where
  | none | atomic | ordered | orderedAtomic
  deriving DecidableEq, Repr

def FlowType.code : FlowType → Nat
  | .none => 0 | .atomic => 1 | .ordered => 2 | .orderedAtomic => 3

/-- What a work item works on (R271): the node whose frame feeds an engine, a tile's kernel, a problem, the events due at a tick,
the packet of a queue and tag, the reference stage of a chain in a tick, a delay entry, or a task on a unit. -/
inductive WorkTarget where
  | loops (engine node : Nat)
  | kernel (tile k : Nat)
  | problem (p : Nat)
  | events
  | packet (queue tag : Nat)
  | stage (chain tick : Nat)
  | expiry (e : DelayEntry)
  | task (b unit : Nat)
  deriving DecidableEq, Repr

/-- A work item (R271): kind, class, flow type, background, flow identity, sequence number within the flow, target, and the
address of its context in dispatcher memory. -/
structure WorkItem where
  kind       : WorkKind
  cls        : Nat
  flowType   : FlowType
  background : Bool
  flow       : BitVec 16
  fseq       : Word
  target     : WorkTarget
  ctx        : Word
  deriving DecidableEq, Repr

/-- The two prefetch slots of a worker (R274): the current item with the elapsed time at which it became current, and next. -/
structure Worker where
  cur  : Option (WorkItem × Nat) := none
  next : Option WorkItem := none
  deriving DecidableEq, Repr

/-- The dispatcher: page 0x0800. -/
structure DispSt where
  rlMax   : Nat := 0
  /-- The ready lists together, each list's items in its order (R272), and the prefetch slots of the 41 workers (R274):
  interpreter cores 0 to 3, loop engines 4 to 19, tiles 20 to 35, solver sequencers 36 to 39, the nibble evaluator 40. -/
  lists   : List WorkItem := []
  workers : Vector Worker 41 := Vector.replicate 41 {}
  /-- Items enqueued so far in each flow (R271), and in all. -/
  flowSeq : List (Nat × Nat) := []
  count   : Nat := 0
  /-- The delay entries in order of insertion (R279). -/
  delay   : List DelayEntry := []
  /-- Delay entries that a tick scan has enqueued and whose item has not run (R279, R280). -/
  fired   : List DelayEntry := []
  late    : Word := 0
  bg      : Vector Word 6 := ⟨#[0x00180000, 0x00180000, 0x00180000, 0x3E880000, 0x06480000, 0x00A80000], rfl⟩
  arbs    : Vector ArbSt 25 := Vector.replicate 25 {}
  memcls  : Vector (BitVec 2) 8 := ⟨#[0, 1, 2, 2, 3, 3, 3, 1], rfl⟩
  /-- Elapsed time of the last completed step of task b on a unit, keyed 32 b + unit (R287). -/
  lastStep : List (Nat × Nat) := []
  /-- Steps requested at class 2 without the background bit, keyed 32 b + unit (R287). -/
  promoted : List Nat := []
  deriving DecidableEq, Repr

/-! ### Nibble plane (12_nibble_plane_and_events.md) -/

/-- A rule record (R300). -/
structure Rule where
  ins      : List (Nat × Nat)
  event    : Bool
  hold     : Bool
  out      : Nat
  table    : BitVec 16
  faultOut : BitVec 2
  deriving DecidableEq, Repr

/-- A host record set that waits for its swap (R80, R299). -/
structure PointCmd where
  queue : Nat
  tag   : Nat
  force : Bool
  fast  : Bool
  recs  : List (Nat × BitVec 2 × Nat)
  deriving DecidableEq, Repr

/-- A delivery, or a missed one, that waits for its swap (R294, R295): node record index, sequence number, data, and the node's input
ranges when it came. -/
structure Delivery where
  node   : Nat
  seq    : Word
  data   : List Byte
  ranges : List PointRec
  deriving DecidableEq, Repr

/-- An event held by the Developer (R308, R309): stamp, point, state. -/
structure Ev where
  stamp : Nat
  point : Nat
  state : BitVec 2
  early : Bool
  late  : Bool
  deriving DecidableEq, Repr

/-- The nibble plane and the Developer: page 0x0900. Images list only nibbles that differ from `0b0011`, the value
an uncovered point reads (R291). -/
structure NibbleSt where
  ctrl     : Word := 0x30000000
  front    : List (Nat × Nib) := []
  /-- The front of the swap before, and the servo cycle of the latest swap: a device output frame carries the front of its own cycle
  (R297). -/
  frontWas : List (Nat × Nib) := []
  frontSeq : Nat := 0
  back     : List (Nat × Nib) := []
  iocyc    : Word := 0
  /-- Miss run and held-at-fault of each range, keyed by point range record index (R295). -/
  runs     : List (Nat × Nat) := []
  heldFault : List Nat := []
  misses   : Nat := 0
  deliveries : List Delivery := []
  /-- Missed deliveries that wait for their swap (R295). -/
  missed   : List Delivery := []
  /-- The sequence number of the latest delivery of each node that was taken (R310). -/
  taken    : List (Nat × Word) := []
  /-- Node record indices whose points are removed (R296). -/
  removed  : List Nat := []
  cmds     : List PointCmd := []
  rules    : List Rule := []
  /-- The checked table that waits for its swap, and the packet that loads it (R304). -/
  rulesNext : Option (List Rule × Nat × Nat) := none
  passMax  : Nat := 0
  window   : Nat := 20
  windowIn : Nat := 20
  devcnt   : Word := 0
  store    : List Ev := []
  lastKey  : Option (Nat × Nat) := none
  lateQ    : List Ev := []
  /-- Event views by point, and the point range record indices whose views the next delivery sets (R303). -/
  views    : List (Nat × BitVec 2) := []
  viewOpen : List Nat := []
  evSeq    : List (Nat × Nat) := []
  deriving DecidableEq, Repr

/-! ### Safety (13_safety_architecture_and_local_io.md) -/

/-- A line pair: the filtered levels and the discrepancy in progress (R321, R322). -/
structure PairSt where
  lineA   : Bool := false
  lineB   : Bool := false
  active  : Bool := true
  cause   : Nat := 0
  faults  : Nat := 0
  /-- Cell time of the first change of a discrepancy (R322). -/
  since   : Option Nat := none
  /-- Both filtered lines have been in their active states since the fault (R322). -/
  cleared : Bool := false
  deriving DecidableEq, Repr

/-- SF_CHSTAT.state (R328). -/
inductive SafeState where
  | sto | ss1 | run
  deriving DecidableEq, Repr

/-- SF_BRKSTAT.result. -/
inductive BrkResult where
  | none | pass | fail | aborted
  deriving DecidableEq, Repr

/-- A brake test under way (R338): elapsed time of its start, step reached, second direction. -/
structure BrkTest where
  start  : Nat
  step   : Nat
  second : Bool
  deriving DecidableEq, Repr

/-- One chain index of the safety functions (R328 to R339). -/
structure IndexSt where
  state    : SafeState := .sto
  cause    : Nat := 38
  /-- Causes that remain for R335 beside inputs, functions and the stop bath: 36 brake, 37 overdue. -/
  brakeFault : Bool := false
  overdue  : Bool := false
  sls      : Bool := false
  manual   : Bool := false
  ss1At    : Option Nat := none
  v0       : List Nat := []
  still    : Nat := 0
  /-- A stop is in force that only a safety reset leaves (R326, R335). -/
  needsReset : Bool := true
  /-- Consecutive safety cycles above the SLS limit, per channel (R327). -/
  over1    : Nat := 0
  over2    : Nat := 0
  /-- Elapsed time at which the brake closes after STO (R329). -/
  closeAt  : Option Nat := none
  cfg      : Word := 0x7D0FA032
  brk      : Word := 0x08119014
  result   : BrkResult := .none
  sinceH   : Nat := 0
  passAt   : Nat := 0
  due      : Option Nat := none
  test     : Option BrkTest := none
  tests    : BitVec 16 := 0
  /-- A test was asked for through SF_BRKREQ (R337). -/
  req      : Bool := false
  /-- The test lifts STO for itself alone (R337). -/
  lifted   : Bool := false
  deriving DecidableEq, Repr

/-- SRST_N as one channel sees it (R333 to R335): filtered low or not, since which cell time, or since the channel's start; its first
sample is to come; what it found of a press that has ended, 0 a candidate, else the reason why not. -/
structure SrstSt where
  pressed : Bool := false
  since   : Nat := 0
  first   : Bool := true
  found   : Option Nat := none
  deriving DecidableEq, Repr

/-- Stop bath, channels, functions, inputs, reset: page 0x0A00. -/
structure SafetySt where
  cfgValid : Bool := false
  cfgCrc   : Word := 0
  ch1Ok    : Bool := false
  ch2Ok    : Bool := false
  /-- Channel 1 has an internal fault other than the temperature limit (R317, R425). -/
  intFault1 : Bool := false
  /-- Channel 1 has had an internal fault since the last reset of the main die (R138, R317, R425). -/
  mainFault : Bool := false
  bath     : Bool := true
  /-- Lines whose output test has failed and not passed since: pair, line B (R320, R330 cause 8). -/
  outFaults : List (Nat × Bool) := []
  /-- The latest dark pulse of each line by each channel: pair, line B, channel, test interval, safety cycle (R320). -/
  outTests : List ((Nat × Bool × Nat) × Nat × Nat) := []
  bathCause : Nat := 1
  entries  : Nat := 0
  hbMiss1  : Nat := 0
  hbMiss2  : Nat := 0
  digDiff  : Nat := 0
  /-- SRST_N as each channel sees it (R333, R334). -/
  srst     : Vector SrstSt 2 := Vector.replicate 2 {}
  boot     : Bool := false
  stuck    : Bool := false
  refused  : Nat := 0
  accepted : BitVec 16 := 0
  funcPress : List (Nat × Nat) := []
  funcCand : List Nat := []
  estop    : PairSt := { lineA := true, lineB := true, active := false }
  estopCfg : Word := 0x82800000
  otest    : Word := 0x143E8000
  sinCfg   : Vector Word 16 := Vector.replicate 16 0x20828000
  sins     : Vector PairSt 16 := Vector.replicate 16 {}
  funcs    : Vector Word 32 := Vector.replicate 32 0
  funcActive : BitVec 32 := 0
  auxsto   : Vector Word 8 := Vector.replicate 8 0
  /-- Safety point assignments: point, function, inverted (SAFE_POINT_ASSIGN). -/
  assigns  : List (Nat × Nat × Bool) := []
  index    : Vector IndexSt 16 := Vector.replicate 16 {}
  /-- Enables of channel 1 and channel 2 for each STO pair (R318). -/
  en1      : BitVec 16 := 0
  en2      : BitVec 16 := 0
  deriving DecidableEq, Repr

/-! ### Separation monitoring (14_separation_monitoring_and_safety_links.md) -/

/-- The last accepted frame of a link in one channel (R348): seq, stamp, arrival, values. -/
structure LinkVal where
  seq     : Word
  stamp   : Nat
  arrival : Nat
  values  : List Word
  deriving DecidableEq, Repr

/-- SM_LSTAT.state. -/
inductive LinkState where
  | notUsed | waiting | ok | lost
  deriving DecidableEq, Repr

/-- One link (R347 to R349), by node record index. -/
structure LinkSt where
  conn  : Word := 0
  cfg   : Word := 0
  state : LinkState := .notUsed
  err   : Nat := 0
  gaps  : Nat := 0
  last  : Option LinkVal := none
  /-- The frame taken at the latest intake; none where the link was not OK there (R358). -/
  taken : Option LinkVal := none
  deriving DecidableEq, Repr

/-- A body of a list: index, reported speed, capsules (seven integers each, in units of 2 mm) (R350). -/
structure Body where
  index : Nat
  speed : Nat
  caps  : List (List Int)
  deriving DecidableEq, Repr

/-- A body source (R350, R351, SM_SRCSTAT). -/
structure SourceSt where
  state  : Nat := 0
  /-- The incomplete list: stamp, part count, parts accepted. -/
  parts  : Option (Nat × Nat × List (Nat × List Byte)) := none
  bodies : List Body := []
  stamp  : Nat := 0
  /-- Arrival of the part that completed the list. -/
  arrival : Nat := 0
  ageMs  : Nat := 0
  zd     : Word := 0x32000000
  deriving DecidableEq, Repr

/-- One channel's separation result for a chain index (R358, R359). -/
structure SepRes where
  stop   : Bool := false
  reason : Nat := 0
  scale  : Nat := 65536
  dist   : Nat := 0xFFFF
  body   : Nat := 0
  /-- Distances in mm by body slot, and by 64 + zone index. -/
  dists  : List (Nat × Nat) := []
  sls    : Bool := false
  /-- What remains for R335 at standstill (R363). -/
  remains : Bool := false
  deriving DecidableEq, Repr

/-- Separation status of a chain index. -/
structure SepChain where
  sep    : Word := 0x1901E190
  z      : Word := 0x0A000000
  res1   : SepRes := {}
  res2   : SepRes := {}
  stop   : Bool := false
  reason : Nat := 0
  by1    : Bool := false
  by2    : Bool := false
  /-- The nearest distances of the two channels in the latest decision, in mm. -/
  d1     : Nat := 0xFFFF
  d2     : Nat := 0xFFFF
  scale  : Nat := 65536
  sls    : Bool := false
  body   : Nat := 0
  xfail  : Bool := false
  deriving DecidableEq, Repr

/-- Separation monitoring: pages 0x0B00 and 0x0B10 to 0x0B1F. -/
structure SepSt where
  ctrl    : Word := 0x14640280
  cnt     : Word := 0
  xmax    : Int := -32768
  sources : Vector SourceSt 16 := Vector.replicate 16 {}
  chains  : Vector SepChain 16 := Vector.replicate 16 {}
  links   : List (Nat × LinkSt) := []
  deriving DecidableEq, Repr

/-! ### Twin (15_twin_operation.md) -/

/-- TW_STAT.state (R371). -/
inductive PairState where
  | solo | alone | join | paired | check | out
  deriving DecidableEq, Repr

/-- What one channel of the partner sent at a safety cycle boundary (R376): the demand on each index (0 none, else its
cause + 128 for category 1), its stop bath, and its reset candidates (SRST_N, functions of kind 6). -/
structure PeerSafety where
  cycle   : Nat
  demands : List Nat
  bath    : Bool
  srst    : Bool
  funcs   : Word
  deriving DecidableEq, Repr

/-- Twin operation: page 0x0C00. -/
structure TwinSt where
  cfg      : Word := 0x003C0000
  state    : PairState := .solo
  active   : Bool := false
  twinId   : Bool := false
  bracket  : Bool := false
  lane0    : Bool := false
  lane1    : Bool := false
  laneAt0  : Nat := 0
  laneAt1  : Nat := 0
  partnerRing : Bool := false
  ringAt   : Nat := 0
  refuse   : Nat := 0
  selftest : Nat := 0
  checkAt  : Nat := 0
  /-- The planning tick of the divergence (R375). -/
  checkTick : Nat := 0
  /-- The results of the running self-test, of this device and of the partner (R377). -/
  ownCheck : Option Bool := none
  peerCheck : Option Bool := none
  resync   : Nat := 0
  swapTick : Option Nat := none
  lastSwap : Nat := 0
  /-- A due or asked-for swap was withdrawn and is announced again later (R378). -/
  swapAgain : Bool := false
  swapReply : Option (Nat × Nat) := none
  cnt      : Word := 0
  lerr     : Word := 0
  /-- First copies already taken: type and seq (R367). -/
  seen     : List (Nat × Word) := []
  txSeq    : Word := 0
  peerStat : Word := 0
  peerFw   : Word := 0
  peerCrc  : Word := 0
  peerDigest : Word := 0
  peerId   : Bool := false
  peerState : PairState := .alone
  peerCell : Bool := false
  /-- Own and received digests by ring and cycle, and SOLVE values by problem and tick (R374). -/
  ownDigests : List (Nat × Word) := []
  peerDigests : List (Nat × Word) := []
  /-- Nodes that the adoptions of a cycle name, under its ring and cycle, until its digest is formed (R374). -/
  leftOut : List (Nat × Nat) := []
  /-- The output areas sent, by node, and the cycles of which the partner's SUMMARY has come, under ring and cycle (R374). -/
  sent     : List (Nat × List (Nat × List Byte)) := []
  sums     : List Nat := []
  ownSolves : List (Nat × Word) := []
  peerSolve : List (Nat × Word) := []
  /-- The latest SAFETY frames of the partner's channels 1 and 2, and when one was received (R376). -/
  peer1    : Option PeerSafety := none
  peer2    : Option PeerSafety := none
  safetyAt : Nat := 0
  /-- The reset candidates that this device sent at the last safety cycle boundary: SRST_N and the kind-6 functions;
  they are judged at the next (R376). -/
  candSent : Bool × List Nat := (false, [])
  becomeActiveAt : Option Nat := none
  deriving DecidableEq, Repr

/-! ### CAN FD (16_can_fd.md) -/

/-- One message buffer (R388 to R393): the stored frame with its stamp, the shadow, lock and status. -/
structure CanBuf where
  cfg     : Word := 0
  mask    : Word := 0
  frame   : Option (CanFrame × DWord) := none
  full    : Bool := false
  shadow  : Option (CanFrame × DWord) := none
  /-- Elapsed time of the lock (R389). -/
  lock    : Option Nat := none
  overrun : Bool := false
  /-- The pending transmit frame and its packet (R392). -/
  tx      : Option (CanFrame × Nat × Nat) := none
  /-- The CAN_CANCEL packets that are held (R393). -/
  cancel  : List (Nat × Nat) := []
  /-- The pending frame has been tried and has not been sent yet (R392). -/
  tried   : Bool := false
  retries : Nat := 0
  deriving DecidableEq, Repr

/-- A frame on the bus sent by this controller: buffer, SOF stamp, arbitration won (R392, R393). -/
structure CanOnBus where
  buf : Nat
  sof : DWord
  won : Bool
  deriving DecidableEq, Repr

/-- CN_STAT.state (R394). -/
inductive CanState where
  | active | passive | busOff | off
  deriving DecidableEq, Repr

/-- One CAN FD controller: pages 0x0D00 + n and 0x0D10 + 8 n. -/
structure CanSt where
  ctrl   : Word := 0x30000000
  nbt    : Word := 0x013E1E3C
  dbt    : Word := 0x079DE800
  state  : CanState := .off
  sync   : Bool := false
  lec    : Nat := 0
  recov  : Nat := 0
  recovering : Bool := false
  tecN   : Nat := 0
  recN   : Nat := 0
  cnt    : Word := 0
  bufs   : Vector CanBuf 64 := Vector.replicate 64 {}
  onBus  : Option CanOnBus := none
  configured : Bool := false
  deriving DecidableEq, Repr

/-! ### System: bring-up, supplies, flash, OTP (17_bringup_power_reset.md) -/

/-- One copy of a flash record (R400): sequence number, CRC valid, words. -/
structure Copy where
  seq   : Word := 0
  valid : Bool := false
  words : List Word := []
  deriving DecidableEq, Repr

/-- A staged or stored firmware image (R402). -/
structure FwImage where
  bytes : List Byte := []
  deriving DecidableEq, Repr

/-- A write that waits for the supply-caution state to end (R400, R86). -/
inductive FlashWrite where
  | bootSlot (q tag : Nat) (restart : Bool)
  | otp (q tag : Nat) (recs : List (Nat × Word))
  | bcfg (words : List Word)
  /-- The stored safety configuration, with the packet that completes then and its result word 0 (R81, R331). -/
  | safetyCfg (q tag : Nat) (w0 : Word)
  /-- TW_CFG among the persistent words, with the packet that completes then (R383). -/
  | twinCfg (q tag : Nat)
  deriving DecidableEq, Repr

/-- System words and the parts behind them: pages 0x0000, 0x0001 and 0x0E00. -/
structure SysSt where
  /-- The main die is held in reset or has not been released yet (R398). -/
  inReset  : Bool := true
  porstLow : Bool := false
  /-- VDD_CORE has reached the reset level: at power-up (elapsed time 0 is its rise above warning) or since (R398). -/
  coreHold : Option Nat := some 0
  wdHold   : Option Nat := none
  running  : Bool := false
  releasedAt : Nat := 0
  bootCause : Nat := 0
  nextCause : Nat := 0
  slot     : Nat := 0
  fallback : Bool := false
  unprov   : Bool := false
  bcfgDefault : Bool := false
  secVer   : Nat := 0
  floor    : Nat := 0
  fwver    : Word := 0
  ready    : BitVec 21 := 0
  /-- Ready bits that were set and have cleared since the release (R409). -/
  dropped  : BitVec 21 := 0
  fault    : BitVec 21 := 0
  faultCaution : Bool := false
  faultSupply : Bool := false
  dbgEn    : Bool := false
  bcfg0    : Copy := {}
  bcfg1    : Copy := {}
  /-- Page 0x0001 as software reads it: the record in force or written since (R419). -/
  bcfg     : List Word := List.replicate 32 0
  safe0    : Copy := {}
  safe1    : Copy := {}
  pers0    : Copy := {}
  pers1    : Copy := {}
  fw0      : Option FwImage := none
  fw1      : Option FwImage := none
  staged   : Option FwImage := none
  verified : Bool := false
  /-- The verified image that is being programmed, and whether programming has ended (R406). -/
  burning  : Option FwImage := none
  programmed : Bool := false
  /-- The FW_ACTIVATE whose final reply is followed by a restart (R406). -/
  restartAfter : Option (Nat × Nat) := none
  otp      : Vector Word 17 := Vector.replicate 17 0
  writes   : List FlashWrite := []
  /-- Supplies (R411 to R416). -/
  caution  : Bool := false
  /-- Cause 10 has been entered in the present stop bath, and in the present crossing of 5,000 µs (R413). -/
  supplyStop : Bool := false
  stopSeen : Bool := false
  dipAt    : Option Nat := none
  /-- The event stamp of the start of the dip, whether it has reached the reset level, and such a dip kept for its log
  record: start stamp, µs, mV (R415). -/
  dipStamp : Nat := 0
  deep     : Bool := false
  keptDip  : Option (Nat × Nat × Nat) := none
  aboveAt  : Nat := 0
  nowMv    : Nat := 0
  minMv    : Nat := 0xFFFF
  dip      : Word := 0
  pwcnt    : Word := 0
  slMv     : Nat := 0
  slFault  : Bool := false
  /-- Spans below warning that have ended, newest first: start, end (R413). -/
  spans    : List (Nat × Nat) := []
  slUp     : Bool := false
  slGoodAt : Nat := 0
  thermalAt : Option Nat := none
  hot      : Bool := false
  deriving DecidableEq, Repr

/-- The whole block. -/
structure State where
  /-- The commands that wait, first in, first out. -/
  pending : List Instr := []
  /-- Elapsed time in ns (one TIME cycle each, R90). -/
  now     : Nat := 0
  /-- The model's own counter of free values (log entry 4). -/
  free    : Nat := 0
  /-- What the block has put out, newest first. -/
  out     : List Out := []
  host    : HostSt := {}
  cell    : CellSt := {}
  time    : TimeSt := {}
  rings   : Vector RingSt 4 := Vector.replicate 4 {}
  rgCtrl  : Word := 0x88B50400
  motion  : MotionSt := {}
  loops   : LoopSt := {}
  solver  : SolverSt := {}
  tiles   : TilesSt := {}
  disp    : DispSt := {}
  nibble  : NibbleSt := {}
  safety  : SafetySt := {}
  sep     : SepSt := {}
  twin    : TwinSt := {}
  can     : Vector CanSt 4 := Vector.replicate 4 {}
  sys     : SysSt := {}
  deriving DecidableEq, Repr

/-- The block right after power-up, before the release of main-die reset is taken (R397, R398): every word at its
stated reset value, no cell, no packet, the stop bath in force with cause 1. -/
def State.reset : State := {}

end Sys2Proof.Machine
end

