-- ==== Sys2Proof/Machine/Ops.lean ====
section
/-! DEFINITION. The named operations that the meanings share: bit fields, little-endian bytes, CRC-32C, sparse maps,
one setter per part of the state, notices, and the life of a packet from its start to its waiting reply. -/

namespace Sys2Proof.Machine

/-! ### Bit fields and bytes (R6) -/

/-- The field [hi:lo] of a word, as a number. -/
def fld (w : Word) (hi lo : Nat) : Nat := w.toNat / 2 ^ lo % 2 ^ (hi - lo + 1)

/-- The word with its field [hi:lo] replaced by the low bits of `v`. -/
def setFld (w : Word) (hi lo : Nat) (v : Nat) : Word :=
  BitVec.ofNat 32 (w.toNat - fld w hi lo * 2 ^ lo + v % 2 ^ (hi - lo + 1) * 2 ^ lo)

/-- Bit `i` of a word. -/
def bitAt (w : Word) (i : Nat) : Bool := w.toNat.testBit i

/-- A Boolean as a bit. -/
def b2n (b : Bool) : Nat := if b then 1 else 0

/-- A word from a number, modulo 2³². -/
def w32 (n : Nat) : Word := BitVec.ofNat 32 n

/-- A quotient rounded up. -/
def ceilDiv (a b : Nat) : Nat := (a + b - 1) / b

/-- A word from an integer, modulo 2³². -/
def i32 (n : Int) : Word := BitVec.ofInt 32 n

/-- `n` saturated at `m` (a saturating counter or field). -/
def satN (m n : Nat) : Nat := if m < n then m else n

/-- Field [hi:lo] of a counter word raised by `n`, saturating. -/
def bump (w : Word) (hi lo : Nat) (n : Nat) : Word :=
  setFld w hi lo (satN (2 ^ (hi - lo + 1) - 1) (fld w hi lo + n))

/-- The bits of a mask below `n`, ascending. -/
def maskBits (n : Nat) (m : Nat) : List Nat := (List.range n).filter (fun i => m.testBit i)

/-- Byte `i` of a byte string, 0 past its end. -/
def byteAt (bs : List Byte) (i : Nat) : Nat := (bs.getD i 0).toNat

/-- Little-endian number of the first `n` bytes from offset `i`. -/
def leAt (bs : List Byte) (i : Nat) : Nat → Nat
  | 0 => 0
  | n + 1 => byteAt bs i + 256 * leAt bs (i + 1) n

/-- The 16-bit field at offset `i`. -/
def u16 (bs : List Byte) (i : Nat) : Nat := leAt bs i 2

/-- The 32-bit field at offset `i`. -/
def u32 (bs : List Byte) (i : Nat) : Nat := leAt bs i 4

/-- The word at offset `i`. -/
def wordAt (bs : List Byte) (i : Nat) : Word := w32 (u32 bs i)

/-- `n` words from offset `i`. -/
def wordsAt (bs : List Byte) (i : Nat) : Nat → List Word
  | 0 => []
  | n + 1 => wordAt bs i :: wordsAt bs (i + 4) n

/-- `n` bytes of a number, least significant first. -/
def leBytes : Nat → Nat → List Byte
  | 0, _ => []
  | n + 1, v => BitVec.ofNat 8 v :: leBytes n (v / 256)

/-- The bytes of a list of words. -/
def wordBytes : List Word → List Byte
  | [] => []
  | w :: ws => leBytes 4 w.toNat ++ wordBytes ws

/-- `n` bytes from offset `i`. -/
def slice (bs : List Byte) (i n : Nat) : List Byte := (bs.drop i).take n

/-- All bytes of a range are zero. -/
def zeroed (bs : List Byte) (i n : Nat) : Bool := (slice bs i n).all (· == 0)

/-- Signed reading of an `n`-bit number. -/
def sgn (n v : Nat) : Int := if 2 ^ (n - 1) ≤ v % 2 ^ n then (v % 2 ^ n : Nat) - (2 ^ n : Nat) else (v % 2 ^ n : Nat)

/-! ### CRC-32C (bit-reflected polynomial 0x1EDC_6F41, R34, R346) -/

/-- Eight shift steps of the reflected CRC register. -/
def crcShift : Nat → Nat → Nat
  | 0, r => r
  | k + 1, r => crcShift k (if r % 2 = 1 then (r / 2) ^^^ 0x82F63B78 else r / 2)

/-- The CRC register after the bytes `bs`. -/
def crcFold (r : Nat) : List Byte → Nat
  | [] => r
  | b :: bs => crcFold (crcShift 8 (r ^^^ b.toNat)) bs

/-- CRC-32C with a given initial register value and a final inversion. -/
def crcFrom (init : Nat) (bs : List Byte) : Nat := crcFold init bs ^^^ 0xFFFFFFFF

/-- The manual's CRC-32C. -/
def crc32c (bs : List Byte) : Nat := crcFrom 0xFFFFFFFF bs

/-! ### Sparse maps: sorted by key, no repeats, no entry equal to what an unlisted key reads as -/

/-- What key `k` reads as. -/
def mget {α : Type} (d : α) (m : List (Nat × α)) (k : Nat) : α :=
  match m with
  | [] => d
  | (j, v) :: r => if j = k then v else mget d r k

/-- The map without key `k`. -/
def mdel {α : Type} (m : List (Nat × α)) (k : Nat) : List (Nat × α) :=
  match m with
  | [] => []
  | (j, v) :: r => if j = k then r else (j, v) :: mdel r k

/-- The map with an entry for key `k` put at its place in the order. -/
def mins {α : Type} (m : List (Nat × α)) (k : Nat) (v : α) : List (Nat × α) :=
  match m with
  | [] => [(k, v)]
  | (j, w) :: r => if k < j then (k, v) :: (j, w) :: r else if j = k then (k, v) :: r else (j, w) :: mins r k v

/-- Write `v` at key `k`; writing what an unlisted key reads as removes the entry. -/
def mput {α : Type} [DecidableEq α] (d : α) (m : List (Nat × α)) (k : Nat) (v : α) : List (Nat × α) :=
  if v = d then mdel m k else mins m k v

/-- The canonical form: keys strictly rising, no entry equal to the default. -/
def mwf {α : Type} [DecidableEq α] (d : α) : List (Nat × α) → Bool
  | [] => true
  | [(_, v)] => decide (v ≠ d)
  | (j, v) :: (k, w) :: r => decide (v ≠ d) && decide (j < k) && mwf d ((k, w) :: r)

/-- The RAMs that commands address are in canonical form: the two nibble images (R291, R293), in which an uncovered point
reads 3, and the data windows of the kernels (R261). -/
def State.memWf (s : State) : Bool :=
  mwf (3 : Nib) s.nibble.front && mwf (3 : Nib) s.nibble.back && s.tiles.kernels.toList.all (fun k => mwf (0 : Word) k.window)

/-- Insert a number into an ascending list. -/
def insertNat (a : Nat) : List Nat → List Nat
  | [] => [a]
  | x :: r => if a ≤ x then a :: x :: r else x :: insertNat a r

/-- A list of numbers in ascending order. -/
def sortNats (l : List Nat) : List Nat := l.foldr insertNat []

/-! ### Indices -/

/-- A number as an index below `n`, wrapped. -/
def fin (n : Nat) (h : 0 < n) (i : Nat) : Fin n := ⟨i % n, Nat.mod_lt i h⟩
/-- A queue, chain, tile, engine or other index of sixteen. -/
abbrev f16 (i : Nat) : Fin 16 := fin 16 (by decide) i
abbrev f4 (i : Nat) : Fin 4 := fin 4 (by decide) i
abbrev f32i (i : Nat) : Fin 32 := fin 32 (by decide) i
abbrev f64 (i : Nat) : Fin 64 := fin 64 (by decide) i
abbrev f160 (i : Nat) : Fin 160 := fin 160 (by decide) i

/-- Apply `f` to element `i` of a vector. -/
def vmod {α : Type} {n : Nat} (v : Vector α n) (i : Fin n) (f : α → α) : Vector α n := v.set i (f v[i])

/-- Apply `g` for each number of a list in turn. -/
def foldOn {σ : Type} (l : List Nat) (s : σ) (g : σ → Nat → σ) : σ := l.foldl g s

/-! ### Setters: one for each part of the state -/

def State.setPending (s : State) (x : List Instr) : State := { s with pending := x }
def State.setNow (s : State) (x : Nat) : State := { s with now := x }
def State.setFree (s : State) (x : Nat) : State := { s with free := x }
def State.setOut (s : State) (x : List Out) : State := { s with out := x }
def State.setHost (s : State) (x : HostSt) : State := { s with host := x }
def State.setCell (s : State) (x : CellSt) : State := { s with cell := x }
def State.setTime (s : State) (x : TimeSt) : State := { s with time := x }
def State.setRings (s : State) (x : Vector RingSt 4) : State := { s with rings := x }
def State.setRgCtrl (s : State) (x : Word) : State := { s with rgCtrl := x }
def State.setMotion (s : State) (x : MotionSt) : State := { s with motion := x }
def State.setLoops (s : State) (x : LoopSt) : State := { s with loops := x }
def State.setSolver (s : State) (x : SolverSt) : State := { s with solver := x }
def State.setTiles (s : State) (x : TilesSt) : State := { s with tiles := x }
def State.setDisp (s : State) (x : DispSt) : State := { s with disp := x }
def State.setNibble (s : State) (x : NibbleSt) : State := { s with nibble := x }
def State.setSafety (s : State) (x : SafetySt) : State := { s with safety := x }
def State.setSep (s : State) (x : SepSt) : State := { s with sep := x }
def State.setTwin (s : State) (x : TwinSt) : State := { s with twin := x }
def State.setCan (s : State) (x : Vector CanSt 4) : State := { s with can := x }
def State.setSys (s : State) (x : SysSt) : State := { s with sys := x }

/-- One queue replaced. -/
def State.setQueue (s : State) (q : Fin 16) (x : QueueSt) : State :=
  s.setHost { s.host with queues := s.host.queues.set q x }
/-- One chain of the pipeline replaced. -/
def State.setChain (s : State) (c : Fin 16) (x : ChainSt) : State :=
  s.setMotion { s.motion with chains := s.motion.chains.set c x }
/-- One chain index of the safety functions replaced. -/
def State.setIndex (s : State) (c : Fin 16) (x : IndexSt) : State :=
  s.setSafety { s.safety with index := s.safety.index.set c x }
/-- One ring replaced. -/
def State.setRing (s : State) (r : Fin 4) (x : RingSt) : State := s.setRings (s.rings.set r x)
/-- One CAN controller replaced. -/
def State.setCanN (s : State) (n : Fin 4) (x : CanSt) : State := s.setCan (s.can.set n x)
/-- One axis replaced. -/
def State.setAxis (s : State) (a : Fin 160) (x : AxisSt) : State :=
  s.setLoops { s.loops with axes := s.loops.axes.set a x }
/-- One tile replaced. -/
def State.setTile (s : State) (t : Fin 16) (x : TileSt) : State :=
  s.setTiles { s.tiles with tiles := s.tiles.tiles.set t x }
/-- One kernel replaced. -/
def State.setKernel (s : State) (k : Fin 64) (x : KernelSt) : State :=
  s.setTiles { s.tiles with kernels := s.tiles.kernels.set k x }
/-- One problem's solve replaced. -/
def State.setSolve (s : State) (p : Fin 4) (x : SolveSt) : State :=
  s.setSolver { s.solver with solves := s.solver.solves.set p x }
/-- One problem at the Enlarger replaced. -/
def State.setProb (s : State) (p : Fin 4) (x : ProbSt) : State :=
  s.setSolver { s.solver with probs := s.solver.probs.set p x }
/-- One subscription replaced. -/
def State.setSub (s : State) (k : Fin 16) (x : SubSt) : State :=
  s.setHost { s.host with subs := s.host.subs.set k x }
/-- One engine replaced. -/
def State.setEngine (s : State) (e : Fin 16) (x : EngineSt) : State :=
  s.setLoops { s.loops with engines := s.loops.engines.set e x }
/-- One loop slot replaced. -/
def State.setSlot (s : State) (e : Fin 16) (k : Fin 32) (x : LoopSlot) : State :=
  s.setEngine e { s.loops.engines[e] with slots := s.loops.engines[e].slots.set k x }

/-- Put something out (newest first). -/
def State.emit (s : State) (o : Out) : State := s.setOut (o :: s.out)

/-- Take a free value: the counter advances, the number is unknown (log entry 4). -/
def State.nextFree (s : State) : State := s.setFree (s.free + 1)

/-! ### Time (R90 to R93) -/

/-- The present event stamp (R91). -/
def State.stamp (s : State) : Nat := s.time.cellNs % 2 ^ 64
/-- The present planning tick number (MO_TICK). -/
def State.tickNo (s : State) : Nat := s.stamp / 1000000
/-- Cell time stands at offset `ofs` of a grid of `per` ns, or passed it in this TIME cycle (R93, R95). -/
def State.onGrid (s : State) (per ofs : Nat) : Bool :=
  s.time.cellNs % per == ofs || (s.time.skipped && (s.time.cellNs - 1) % per == ofs)
/-- The servo cycle in ns of a servo code (R13). -/
def servoNs (code : Nat) : Nat :=
  if code = 0 then 31250 else if code = 1 then 62500 else if code = 2 then 125000
  else if code = 3 then 250000 else if code = 4 then 500000 else 1000000
/-- The active cell's servo cycle; 1 ms while no cell is active (log entry 6). -/
def State.servo (s : State) : Nat :=
  match s.cell.active with
  | some c => servoNs c.servoCode
  | none => 1000000
/-- A cell is active. -/
def State.cellOn (s : State) : Bool := s.cell.active.isSome
/-- The active cell, or an empty one. -/
def State.theCell (s : State) : Cell := s.cell.active.getD {}

/-! ### Notices and events held for subscriptions (R65, R66) -/

/-- The position of a notice kind in the list of kinds. -/
def NoticeKind.code : NoticeKind → Nat
  | .partialImage => 0 | .queueHalt => 1 | .chainShed => 2 | .timeState => 3 | .slotSwitch => 4
  | .coldstartConflict => 5 | .ringFailure => 6 | .ringRun => 7 | .nodeRemoved => 8 | .breakSet => 9
  | .breakClear => 10 | .segmentFault => 11 | .noContact => 12 | .axisFault => 13 | .kernelFault => 14
  | .guardOvf => 15 | .recalMissed => 16 | .resetStuck => 17 | .brakeTest => 18 | .pairState => 19
  | .canState => 20 | .thermal => 21

/-- Hold one record for a subscription; beyond 1,048,576 records the oldest is dropped and counted (R66). -/
def SubSt.hold (b : SubSt) (r : EvRec) : SubSt :=
  if b.held.length < 1048576 then { b with held := b.held ++ [r] }
  else { b with held := b.held.drop 1 ++ [r], dropped := satN 0xFFFFFFFF (b.dropped + 1) }

/-- Report a device notice on subscription 0. -/
def State.notice (s : State) (k : NoticeKind) (a b : Nat) : State :=
  s.setHost { s.host with
    notices := s.host.notices ++ [⟨k, a, b⟩]
    subs := vmod s.host.subs 0 (fun u => u.hold ⟨s.time.cellNs, Config.noticeBytes k.code a b⟩) }

/-- Write a log record of a kind with two values (LOG_READ, R415, R425). -/
def State.logRec (s : State) (kind a b c : Nat) : State :=
  s.setHost { s.host with log := s.host.log ++ [Config.logBytes kind a b c] }

/-! ### Status codes (R88) and located errors (R68) -/

abbrev stOk : Nat := 0x00
abbrev stPending : Nat := 0x01
abbrev stNotReady : Nat := 0x02
abbrev stBadOpcode : Nat := 0x03
abbrev stBadParam : Nat := 0x04
abbrev stNoCredit : Nat := 0x05
abbrev stPresTimeout : Nat := 0x06
abbrev stPresDenied : Nat := 0x07
abbrev stInfeasible : Nat := 0x08
abbrev stBusy : Nat := 0x09
abbrev stDeadline : Nat := 0x0A
abbrev stRefused : Nat := 0x0B
abbrev stPayload : Nat := 0x0C
abbrev stRole : Nat := 0x0D
abbrev stAborted : Nat := 0x0E
abbrev stInternal : Nat := 0x0F

/-- Result word 0 of a BAD_PARAM that names param0, param1 or a kept field (R68). -/
abbrev atP0 : Word := 0xFFFFFFF0
abbrev atP1 : Word := 0xFFFFFFF1
abbrev atKept : Word := 0xFFFFFFFE

/-- A status with its two result words: how an order-14 check ends. -/
structure Verdict where
  status : Nat
  w0     : Word := 0
  w1     : Word := 0
  deriving DecidableEq, Repr

/-- BAD_PARAM at a place. -/
def badAt (w0 : Word) (w1 : Word := 0) : Verdict := ⟨stBadParam, w0, w1⟩
/-- BUSY. -/
def busy : Verdict := ⟨stBusy, 0, 0⟩

/-! ### Packets in flight and their replies (R35 to R43, R55) -/

/-- Packets and waiting replies of a queue that hold a credit (R40). -/
def QueueSt.outstanding (x : QueueSt) : Nat :=
  (x.inflight.filter (·.credit)).length + (x.replies.filter (fun r => r.pkt.credit && !r.interim)).length

/-- The in-flight packet of a tag. -/
def QueueSt.find (x : QueueSt) (tag : Nat) : Option Pkt := x.inflight.find? (fun p => p.tag == tag)

/-- The queue without the in-flight packet of a tag. -/
def QueueSt.remove (x : QueueSt) (tag : Nat) : QueueSt :=
  { x with inflight := x.inflight.filter (fun p => p.tag != tag) }

/-- The queue with the phase of a packet changed. -/
def QueueSt.setPhase (x : QueueSt) (tag : Nat) (ph : Phase) : QueueSt :=
  { x with inflight := x.inflight.map (fun p => if p.tag == tag then { p with phase := ph } else p) }

/-- The device is in PAIRED with a partner that has not gone to OUT. -/
def State.inStep (s : State) : Bool := s.twin.state == .paired && s.twin.peerState != .out

/-- This device is the active member of a pair, whose replies wait for the standby's confirmation (R369); a partner in OUT confirms
nothing. -/
def State.pairActive (s : State) : Bool := s.inStep && s.twin.active

/-- Whether a device acts as the standby for R44 and R56: not active in a pair, not yet
active after the loss of the active (R379), or in JOIN or OUT (R369). -/
def State.isStandby (s : State) : Bool :=
  match s.twin.state with
  | .solo => false
  | .alone => s.twin.becomeActiveAt.isSome
  | .paired | .check => !s.twin.active
  | .join | .out => true

/-- The bytes of a Benjo frame: header with its CRC, payload, and the payload's CRC where there is one (R367). -/
def benjoBytes (type lane cycle : Nat) (seq : Word) (payload : List Byte) : List Byte :=
  let h := [BitVec.ofNat 8 type, BitVec.ofNat 8 lane] ++ leBytes 2 payload.length ++ leBytes 4 seq.toNat ++ leBytes 4 cycle
  h ++ leBytes 4 (crc32c h) ++ payload ++ (if payload.isEmpty then [] else leBytes 4 (crc32c payload))

/-- Send a Benjo frame of a type in the present servo cycle, a copy on each lane (R367). -/
def State.sendBenjo (s : State) (type : Nat) (payload : List Byte) : State :=
  let w := s.twin.txSeq
  let copy := fun (lane : Nat) => Out.benjo lane (benjoBytes type lane (s.stamp / s.servo) w payload)
  ((s.emit (copy 0)).emit (copy 1)).setTwin { s.twin with txSeq := w + 1 }

/-- The payload of a COMMAND frame that passes a command to the standby (R369). -/
def Pkt.command (p : Pkt) (bound : Nat) : List Byte :=
  [0, BitVec.ofNat 8 p.opcode, BitVec.ofNat 8 (b2n p.ordered + 2 * b2n p.fence), BitVec.ofNat 8 p.cls] ++ leBytes 2 p.tag ++
    leBytes 2 p.queue ++ leBytes 4 p.p0.toNat ++ leBytes 4 p.p1.toNat ++ leBytes 4 p.seq.toNat ++ leBytes 8 bound ++ p.payload

/-- The payload of a COMMAND frame that names a command: 1 confirmed, 2 accepted by presence, 3 withdrawn. -/
def Pkt.about (p : Pkt) (code : Nat) : List Byte :=
  [BitVec.ofNat 8 code, 0, 0, 0] ++ leBytes 2 (p.tag % 1024) ++ leBytes 2 p.queue

/-- A result word that the spec does not give: free (log entry 15). `k` is 0 or 1. -/
def State.openWord (s : State) (p : Pkt) (k : Nat) : Word := Config.resultWord s.now p.queue p.index k

/-- The spec gives result word 0 of a final reply: R88, and for OK the results column of the command reference. -/
def Pkt.givesW0 (p : Pkt) (v : Verdict) : Bool :=
  let last := p.p0.toNat + p.payload.length == p.p1.toNat
  if v.status = stOk then
    ([0x00, 0x01, 0x02, 0x04, 0x12, 0x20, 0x21, 0x23, 0x33, 0x41, 0x43, 0x51, 0x53, 0x60, 0x61, 0x63, 0x64, 0x65, 0x70, 0x71,
      0x80, 0x82, 0x84, 0x90, 0x91, 0xA0, 0xA1, 0xA2, 0xB0, 0xB2, 0xC0, 0xD1, 0xD2, 0xD3, 0xE0] : List Nat).contains p.opcode ||
    (([0x10, 0x11, 0x13, 0x40, 0x50, 0x66] : List Nat).contains p.opcode && last)
  else if v.status = stPresTimeout ∨ v.status = stPresDenied ∨ v.status = stBusy ∨ v.status = stRefused ∨
      v.status = stInternal then false
  else if v.status = stPayload then v.w0 != 0
  else true

/-- The spec gives result word 1 of a final reply. -/
def Pkt.givesW1 (p : Pkt) (v : Verdict) : Bool :=
  if v.status = stOk then
    ([0x00, 0x01, 0x04, 0x12, 0x20, 0x23, 0x31, 0x33, 0x61, 0x70, 0x71, 0x80, 0x84, 0xA0, 0xA2, 0xB0, 0xC0, 0xD1, 0xE0] :
      List Nat).contains p.opcode
  else if v.status = stNotReady ∨ v.status = stPayload ∨ v.status = stRole ∨ v.status = stInternal then false
  else if v.status = stBusy then p.opcode == 0x20 || v.w1 != 0
  else if v.status = stRefused then (p.opcode == 0x70 && p.queue == 14) || v.w1 != 0
  else true

/-- A packet arrived before another; of two that arrived at one instant the lower queue's, or the one first in its queue, did. -/
def Pkt.before (o p : Pkt) : Bool :=
  decide (o.arrival < p.arrival) || (o.arrival == p.arrival && (decide (o.queue < p.queue) ||
    (o.queue == p.queue && decide (o.index < p.index))))

/-- An ordered final reply waits for every earlier ordered packet of its queue (R35, R278). -/
def QueueSt.behind (x : QueueSt) (r : Reply) : Bool :=
  r.pkt.ordered && !r.interim && !r.dup &&
    (x.inflight.any (fun o => o.ordered && decide (o.index < r.pkt.index)) ||
     x.replies.any (fun o => o.pkt.ordered && !o.interim && !o.dup && decide (o.pkt.index < r.pkt.index)))

/-- Put a final reply for a packet into its queue's waiting replies. While the queue is being reset the reply is
discarded (R55). In a pair the active writes the reply of an executed command once the standby has confirmed it, and
the standby answers a command of the active with that confirmation (R369). An ordered reply beyond the 64 that a flow's
release buffer holds is counted (R278). Result words that the spec does not give are free (log entry 15); an INTERNAL
completion is logged with its fault code (R88). -/
def State.reply (s : State) (p : Pkt) (v : Verdict) (payload : List Byte) (lost : Bool := false)
    (waiters : List (Nat × Nat × Word) := []) : State :=
  let q := f16 p.queue
  let x := s.host.queues[q]
  let s := if v.status = stInternal then s.logRec 0x0F (s.openWord p 0).toNat p.queue p.tag else s
  if p.origin = .partner then s.sendBenjo 6 (p.about 1)
  else if x.resetting then s else
  let held := p.ordered && x.inflight.any (fun o => o.ordered && decide (o.index < p.index)) &&
    decide (64 ≤ (x.replies.filter x.behind).length)
  let s := if held then s.setDisp { s.disp with late := bump s.disp.late 15 0 1 } else s
  s.setQueue q { x with replies := x.replies ++
    [{ pkt := p, status := v.status, interim := false, dup := false, eventsLost := lost, payload := payload, waiters := waiters
       w0 := if p.givesW0 v then v.w0 else s.openWord p 0, w1 := if p.givesW1 v then v.w1 else s.openWord p 1
       confirmed := p.confirmed || !(s.inStep && (p.passed || decide (v.status = stOk))) }] }

/-- A reset of a queue reads the ring words again and clears what R55 names; its partial images go too (R10). The vector's last
raise stays, so that R48 holds across a reset. DESIGN CHOICE (log entry 26): last_err clears with halted, and the completion
head that the host last wrote is taken to be 64 again, which R55 does not say. -/
def QueueSt.afterReset (x : QueueSt) : QueueSt :=
  { x with sqBaseIn := x.sqBase, cqBaseIn := x.cqBase, sqLog2 := fld x.qsize 15 8, cqLog2 := fld x.qsize 7 0
           halted := false, lastErr := 0, sqHead := 0, sqTail := 0, sqMem := [], cqTail := 64, cqHead := 64
           expSeq := 0, inflight := [], replies := [], nextIndex := 0, msixTail := 64
           bound := none, stored := [], highSeq := none, resetting := false, resetBy := [] }

/-- The packet with a tag leaves the in-flight list. -/
def State.dropTag (s : State) (q : Fin 16) (tag : Nat) : State := s.setQueue q (s.host.queues[q].remove tag)

/-- A packet that asked for a queue reset still waits for another queue (R55). -/
def State.resetWaits (s : State) (w : Nat × Nat) : Bool := s.host.queues.toList.any (fun x => x.resetBy.contains w)

/-- The packet of a tag completes: it leaves the in-flight list and its final reply waits (R37, R39). Where it was the
last command of a queue under reset, the reset ends, and the packets that asked for it complete in turn (R55, R73);
`fuel` bounds that chain by the number of queues. -/
def State.finishN (fuel : Nat) (s : State) (p : Pkt) (v : Verdict) (payload : List Byte) (lost : Bool)
    (waiters : List (Nat × Nat × Word)) : State :=
  let q := f16 p.queue
  let s := (s.dropTag q p.tag).reply p v payload lost waiters
  match fuel with
  | 0 => s
  | n + 1 =>
    let s := if p.origin = .partner then waiters.foldl (fun s w => match s.host.queues[f16 w.1].find w.2.1 with
        | some o => s.finishN n o ⟨stOk, w.2.2, 0⟩ [] false []
        | none => s) s else s
    let x := s.host.queues[q]
    if x.resetting && x.inflight.isEmpty then
      let s := (s.setQueue q x.afterReset).setCell
        { s.cell with partials := s.cell.partials.filter (fun i => i.queue != q.val) }
      x.resetBy.foldl (fun s w => if s.resetWaits w then s else match s.host.queues[f16 w.1].find w.2 with
        | some o => s.finishN n o ⟨stOk, 0, 0⟩ [] false []
        | none => s) s
    else s

/-- Completion of a packet with a verdict and a reply payload. -/
def State.finish (s : State) (p : Pkt) (v : Verdict) (payload : List Byte := []) : State :=
  s.finishN 17 p v payload false []

/-- Completion with OK. -/
def State.finishOk (s : State) (p : Pkt) (w0 w1 : Word := 0) (payload : List Byte := []) : State :=
  s.finish p ⟨stOk, w0, w1⟩ payload

/-- The interim reply of the presence flow, which neither takes nor returns a credit (R60). -/
def State.interim (s : State) (p : Pkt) (code : Nat) : State :=
  let q := f16 p.queue
  let x := s.host.queues[q]
  if x.resetting || decide (p.origin = .partner) then s else
  s.setQueue q { x with replies := x.replies ++
    [⟨p, stPending, true, false, false, w32 code, s.openWord p 1, [], true, [], none⟩] }

/-- Finish the packet of a queue and tag, if it is still in flight. -/
def State.finishTag (s : State) (q tag : Nat) (v : Verdict) (payload : List Byte := []) : State :=
  match s.host.queues[f16 q].find tag with
  | some p => s.finish p v payload
  | none => s

/-- The packet may start now: it has passed its checks and the fence rule holds (R35, R41). -/
def QueueSt.startable (x : QueueSt) (p : Pkt) : Bool :=
  decide (p.phase = .accepted) &&
  (!p.fence || x.inflight.all (fun o => decide (p.index ≤ o.index))) &&
  x.inflight.all (fun o => !(decide (o.index < p.index) && o.fence && !decide (o.phase = .started)))

/-- The tag under which the standby holds a command that the active passed on (R369): outside the tag space of R39, so that the
host's tag is free once the active is lost (R37, R379). -/
def partnerTag (tag : Nat) : Nat := tag + 1024

/-- The in-flight packet that a row names by its tag: the host's, or else the active's (R39, R369). -/
def QueueSt.named (x : QueueSt) (tag : Fin 1024) : Option Pkt := (x.find tag).orElse (fun _ => x.find (partnerTag tag))

/-- A worker has an item on a target in its current slot (R274). -/
def DispSt.current (d : DispSt) (t : WorkTarget) : Bool := d.workers.toList.any (fun v => v.cur.any (fun c => decide (c.1.target = t)))

/-- A delay entry of a kind has been enqueued and its item runs on a core (R274, R279, R280). -/
def State.expired (s : State) (f : DelayEntry → Bool) : Bool := s.disp.fired.any (fun e => f e && s.disp.current (.expiry e))

/-- The items of delay entries of a kind have run, and the owner says what that means (R280). -/
def State.entryRun (s : State) (f : DelayEntry → Bool) : State := s.setDisp { s.disp with fired := s.disp.fired.filter (fun e => !f e) }

/-- The command of a delay entry's item: nothing happens unless it has been enqueued and runs (R279, R280). -/
def State.onExpiry (s : State) (f : DelayEntry → Bool) (g : State → State) : State := if s.expired f then g (s.entryRun f) else s

/-- The delay entry of a user with its first number (R280). -/
def DelayEntry.ofUser (user a : Nat) (e : DelayEntry) : Bool := e.user == user && e.a == a

/-- The packet of (q, tag) that a command row names: in flight, with the row's opcode, ready to start, and its command step in the
current slot of an interpreter core (R272, R274). -/
def State.candidatePkt (s : State) (q : Fin 16) (tag : Fin 1024) (op : Nat) : Option Pkt :=
  match s.host.queues[q].named tag with
  | some p => if p.opcode == op && p.queue == q.val && s.host.queues[q].startable p && s.disp.current (.packet q.val p.tag) then some p
    else none
  | none => none

/-- The deadline of a packet has passed (R43); arrival and deadline are cell times (R36, R279). -/
def Pkt.late (p : Pkt) (cellNs : Nat) : Bool := decide (p.deadline ≠ 0) && decide (p.arrival + p.deadline * 1000 < cellNs)

/-- The active of a pair passes a command on to the standby unless one of its checks refused it (R369); `t` is the state after
the command. -/
def State.passOn (s : State) (q : Fin 16) (p : Pkt) (t : State) : State :=
  if p.origin = .partner then
    (if t.time.cellNs = p.bound then t.setTime { t.time with cellNs := s.time.cellNs } else t)
  else if s.inStep && ((t.host.queues[q].find p.tag).isSome ||
      t.host.queues[q].replies.any (fun r => r.pkt.tag == p.tag && decide (r.status = stOk))) then
    let x := t.host.queues[q]
    (t.setQueue q { x with inflight := x.inflight.map (fun (o : Pkt) => if o.tag == p.tag then { o with passed := true } else o) }).sendBenjo
      6 (p.command s.stamp)
  else t

/-- A packet whose execution has started. -/
def Pkt.begun (p : Pkt) : Pkt := { p with phase := .started }

/-- The state with a packet started. -/
def State.begun (s : State) (q : Fin 16) (p : Pkt) : State :=
  let s := s.setQueue q (s.host.queues[q].setPhase p.tag .started)
  if p.origin = .partner then s.setTime { s.time with cellNs := p.bound } else s

/-- A check of the packet's opcode has refused it (order 14 of R56): it has its final reply, and that is not OK. -/
def State.refused (t : State) (q : Fin 16) (p : Pkt) : Bool :=
  (t.host.queues[q].find p.tag).isNone &&
  t.host.queues[q].replies.any (fun r => r.pkt.tag == p.tag && r.pkt.index == p.index && !r.interim && !r.dup && decide (r.status ≠ stOk))

/-- Start the packet a command row names and go on with `f`. Nothing happens when no such packet can start; a packet
past its deadline that the checks of order 14 let through completes with DEADLINE_MISSED and has no effect (R43, R56). -/
def State.startPkt (s : State) (q : Fin 16) (tag : Fin 1024) (op : Nat) (f : Pkt → State → State) : State :=
  match s.candidatePkt q tag op with
  | none => s
  | some p =>
    let t := f p.begun (s.begun q p)
    if p.late s.time.cellNs && !t.refused q p then s.finish p ⟨stDeadline, 0, 0⟩
    else s.passOn q p t

/-- A command that only checks and answers: the verdict, result words and payload of `f`. -/
def State.answer (s : State) (q : Fin 16) (tag : Fin 1024) (op : Nat)
    (f : Pkt → State → Verdict × List Byte) : State :=
  s.startPkt q tag op (fun p t => t.finish p (f p t).1 (f p t).2)

/-- Whether a packet with this queue and tag is still in flight. -/
def State.inFlight (s : State) (q tag : Nat) : Bool := (s.host.queues[f16 q].find tag).isSome

/-! ### Ready bits (R69, R407, R409) -/

/-- Positions of SYS_READY. -/
abbrev rdSafelight : Nat := 0
abbrev rdSafetycpu : Nat := 1
abbrev rdPcie : Nat := 2
abbrev rdEth : Nat := 3
abbrev rdQueues : Nat := 4
abbrev rdTime : Nat := 5
abbrev rdMem : Nat := 6
abbrev rdLoop : Nat := 7
abbrev rdEnlarge : Nat := 8
abbrev rdSolver : Nat := 9
abbrev rdDsp : Nat := 10
abbrev rdNibble : Nat := 11
abbrev rdRing (r : Nat) : Nat := 12 + r
abbrev rdCan (n : Nat) : Nat := 16 + n
abbrev rdTwin : Nat := 20

/-- A function is ready. -/
def State.isReady (s : State) (b : Nat) : Bool := s.sys.ready.getLsbD b

/-- Worst-case ready time in ms after the release of main-die reset (the ready-times table). -/
def readyWorst (b : Nat) : Nat :=
  if b = 0 then 2 else if b = 1 then 420 else if b = 2 then 100 else if b = 3 then 380 else if b = 4 then 370
  else if b = 5 then 1 else if b = 6 then 30 else if b = 7 then 380 else if b = 8 then 380 else if b = 9 then 400
  else if b = 10 then 390 else if b = 11 then 375 else if b < 16 then 420 else if b < 20 then 372 else 440

/-- Estimated wait in ms of a clear bit (R409): the whole part of the elapsed time is taken off, at least 1. -/
def State.waitMs (s : State) (b : Nat) : Nat :=
  if s.sys.dropped.getLsbD b then 0xFFFFFFFF
  else max 1 (readyWorst b - (s.now - s.sys.releasedAt) / 1000000)

/-- The longest estimated wait among the clear bits of a list, or none when all are set (R69). -/
def State.notReady (s : State) (bits : List Nat) : Option Nat :=
  match bits.filter (fun b => !s.isReady b) with
  | [] => none
  | bs => some (bs.foldl (fun m b => max m (s.waitMs b)) 0)

/-- The ready bits that a command needs (R69); RINGn of an image is checked at its last fragment. -/
def readyBits (op : Nat) (p0 : Word) : List Nat :=
  match op / 16 with
  | 0 => [rdQueues]
  | 1 => [rdQueues, rdLoop, rdSolver, rdDsp, rdNibble, rdSafetycpu, rdSafelight]
  | 2 => [rdLoop, rdSolver, rdEnlarge]
  | 3 => [rdLoop]
  | 4 => [rdEnlarge, rdSolver, rdMem]
  | 5 => [rdDsp]
  | 6 => [rdNibble, rdMem]
  | 7 => [rdSafetycpu, rdSafelight]
  | 8 => [rdTime]
  | 9 => if p0.toNat < 4 then [rdRing p0.toNat] else []
  | 10 => [rdCan (fld p0 1 0)]
  | 11 => [rdTwin]
  | 12 => [rdMem]
  | 13 => [rdMem]
  | _ => [rdQueues]

/-- A unit of a function is masked: SYS_FAULT latches it, and a function without a usable unit left is no longer ready
(R407, R410). -/
def State.latchUnit (s : State) (b : Nat) (gone : Bool) : State :=
  let y := s.sys
  let fault := y.fault ||| BitVec.ofNat 21 (2 ^ b)
  if gone && y.ready.getLsbD b then
    s.setSys { y with
      fault := fault, ready := y.ready &&& ~~~(BitVec.ofNat 21 (2 ^ b)), dropped := y.dropped ||| BitVec.ofNat 21 (2 ^ b) }
  else s.setSys { y with fault := fault }

/-! ### Masks of chains -/

/-- The chains of a 16-bit mask. -/
def chainsOf (m : BitVec 16) : List Nat := maskBits 16 m.toNat

/-- Set bit `i` of a bit vector. -/
def bvSet {n : Nat} (v : BitVec n) (i : Nat) : BitVec n := v ||| BitVec.ofNat n (2 ^ i)
/-- Clear bit `i` of a bit vector. -/
def bvClr {n : Nat} (v : BitVec n) (i : Nat) : BitVec n := v &&& ~~~(BitVec.ofNat n (2 ^ i))

end Sys2Proof.Machine
end

