-- ==== Sys2Proof/Machine/Operands.lean ====
section
/-! DEFINITION. The operand forms that the commands share: the fields of a packet header, chain masks, object
identities, page addresses, and the fragments of the five image streams (R9, R10). -/

namespace Sys2Proof.Machine

/-- A packet from the 32 header bytes and the payload bytes (R34); `credit` is set later by the credit check. -/
def pktOf (hdr payload : List Byte) (q : Fin 16) (arrival index : Nat) (origin : Origin) : Pkt where
  opcode := byteAt hdr 2
  ordered := (byteAt hdr 3).testBit 0
  fence := (byteAt hdr 3).testBit 1
  tag := u16 hdr 4 % 1024
  queue := q.val
  qbyte := byteAt hdr 6
  cls := byteAt hdr 7
  deadline := u32 hdr 12
  p0 := wordAt hdr 16
  p1 := wordAt hdr 20
  seq := wordAt hdr 24
  payload := payload
  arrival := arrival
  index := index
  credit := false
  origin := origin
  phase := .accepted

/-- Reserved flag bits [7:2] or tag bits [15:10] are set (R34, R35). -/
def headerReserved (hdr : List Byte) : Bool :=
  decide (byteAt hdr 3 / 4 ≠ 0) || decide (u16 hdr 4 / 1024 ≠ 0)

/-- SYS_ID (R3). -/
def sysId : Word := if Config.gradeH then 0x001648B0 else 0x001654B0

/-- The opcodes of the Command Reference. -/
def knownOp (op : Nat) : Bool :=
  let l := op % 16
  match op / 16 with
  | 0 => decide (l ≤ 4)
  | 1 => decide (l ≤ 3)
  | 2 => decide (l ≤ 4)
  | 3 => decide (l ≤ 3)
  | 4 => decide (l ≤ 3)
  | 5 => decide (l ≤ 3)
  | 6 => decide (l ≤ 6)
  | 7 => decide (l ≤ 1)
  | 8 => decide (l ≤ 4)
  | 9 => decide (l ≤ 2)
  | 10 => decide (l ≤ 3)
  | 11 => decide (l ≤ 2)
  | 12 => decide (l ≤ 2)
  | 13 => decide (l ≤ 3)
  | 14 => decide (l ≤ 1)
  | _ => false

/-- The presence-gated opcodes (R70). -/
def gatedOp (op : Nat) : Bool := op == 0x70 || op == 0x71 || op == 0xB1 || op == 0xD2 || op == 0xD3

/-- CELL_LOAD and CELL_AMEND, which queue 14 accepts beside the presence-gated opcodes. -/
def cellGateOp (op : Nat) : Bool := op == 0x10 || op == 0x11

/-- The event opcodes of queue 15. -/
def eventOp (op : Nat) : Bool := op == 0x60 || op == 0x61 || op == 0x62

/-- Whether an opcode that is known and not presence-gated is accepted on a queue (the fixed use of queues). -/
def acceptedOn (q op : Nat) : Bool :=
  if q = 0 then true
  else if q ≤ 12 then !eventOp op && op / 16 != 12
  else if q = 13 then op / 16 == 12
  else if q = 14 then cellGateOp op
  else eventOp op

/-- The chains that a chain mask names are all placed chains of the active cell (R68). -/
def Cell.hasChains (c : Cell) (mask : Nat) : Bool :=
  (maskBits 16 mask).all (fun i => c.chains.any (fun r => r.chain == i)) && decide (mask < 65536)

/-- Section type and index of an object identity (R15). -/
def idType (w : Word) : Nat := w.toNat / 16777216
def idIndex (w : Word) : Nat := w.toNat % 16777216
/-- The identity of record `i` of section `t`. -/
def ident (t i : Nat) : Word := w32 (t * 16777216 + i)

/-- The node record that carries an axis, with its index. -/
def nodeOfAxisFrom (a : Nat) : Nat → List NodeRec → Option (Nat × NodeRec)
  | _, [] => none
  | i, n :: r => if (n.axisList.take n.naxes).contains a then some (i, n) else nodeOfAxisFrom a (i + 1) r
def Cell.nodeOfAxis (c : Cell) (a : Nat) : Option (Nat × NodeRec) := nodeOfAxisFrom a 0 c.nodes

/-- Send a management code to a hop of a ring in 3 consecutive DATA frames (R115). -/
def State.sendMgmt (s : State) (ring : Fin 4) (code hop : Nat) : State :=
  s.setRing ring { s.rings[ring] with mgmt := s.rings[ring].mgmt ++ [(code, hop, 3)] }

/-! ### Image streams (R9, R10) -/

/-- The stream of an opcode that carries an image in fragments. -/
def streamOf (op : Nat) : Option Stream :=
  if op = 0x10 ∨ op = 0x11 ∨ op = 0x13 then some .cell
  else if op = 0x40 then some .sched
  else if op = 0x50 then some .kernel
  else if op = 0x66 then some .rule
  else if op = 0xD0 then some .fw
  else none

/-- The least and the greatest image length of a stream. -/
def streamLimits : Stream → Nat × Nat
  | .cell => (32, 16777216)
  | .sched => (64, 67108864)
  | .kernel => (64, 163908)
  | .rule => (16, 1572880)
  | .fw => (256, 16777216)

/-- How a fragment ends. -/
inductive Frag where
  /-- A refusal; whether the partial image is discarded. -/
  | bad (v : Verdict) (discard : Bool)
  /-- An earlier fragment: the bytes held now. -/
  | stored (bytes : List Byte)
  /-- The last fragment: the whole image. -/
  | whole (bytes : List Byte)
  deriving DecidableEq, Repr

/-- A packet is the last fragment of its image (R10). -/
def Pkt.lastFrag (p : Pkt) : Bool := p.p0.toNat + p.payload.length == p.p1.toNat

/-- The partial image of a stream. -/
def CellSt.partOf (c : CellSt) (st : Stream) : Option Partial := c.partials.find? (fun i => decide (i.stream = st))

/-- Judge a fragment of a stream (R10). `busyLast` refuses a last fragment with BUSY before the other cases and keeps
the partial image (R12; log entry 20). -/
def judgeFrag (part : Option Partial) (st : Stream) (p : Pkt) (busyLast : Bool) : Frag :=
  let ofs := p.p0.toNat
  let total := p.p1.toNat
  let other := match part with
    | some i => i.queue != p.queue || i.opcode != p.opcode
    | none => false
  let held := match part with
    | some i => i.bytes
    | none => []
  if other then .bad busy false
  else if busyLast && (p.lastFrag || decide (st = .rule)) then .bad busy false
  else if ofs ≠ 0 ∧ part.isNone then .bad (badAt atP0) false
  else if ofs ≠ 0 ∧ ofs ≠ held.length then .bad (badAt atP0) true
  else if total < (streamLimits st).1 ∨ (streamLimits st).2 < total then .bad (badAt atP1) true
  else if total < ofs + p.payload.length then .bad (badAt atP1) true
  else if ofs != 0 && (match part with | some i => i.total != total | none => false) then .bad (badAt atP1) true
  else
    let bytes := if ofs = 0 then p.payload else held ++ p.payload
    if ofs + p.payload.length = total then .whole bytes else .stored bytes

/-- Drop the partial image of a stream. -/
def State.dropPart (s : State) (st : Stream) : State :=
  s.setCell { s.cell with partials := s.cell.partials.filter (fun i => !decide (i.stream = st)) }

/-- Take a fragment: an earlier one is stored and completes with OK, a refused one completes with its verdict, and
the last one goes on with the whole image, the partial image being used up (R9, R10). -/
def State.fragment (s : State) (st : Stream) (p : Pkt) (busyLast : Bool)
    (whole : List Byte → State → State) : State :=
  match judgeFrag (s.cell.partOf st) st p busyLast with
  | .bad v true => (s.dropPart st).finish p v
  | .bad v false => s.finish p v
  | .stored b =>
    let s := s.dropPart st
    (s.setCell { s.cell with partials := s.cell.partials ++
      [⟨st, p.queue, p.opcode, b, p.p1.toNat, s.time.cellNs⟩] }).finishOk p
  | .whole b => whole b (s.dropPart st)

/-! ### Page addresses (R87) -/

/-- The page of param0. -/
def pageOf (p0 : Word) : Nat := p0.toNat % 65536
/-- The word offset of param0. -/
def offsetOf (p0 : Word) : Nat := p0.toNat / 65536 % 256

/-- The location checks that PARAM_READ and PARAM_WRITE share (R87), param0 first. -/
def paramCheck (p0 p1 : Word) : Option Verdict :=
  if p0.toNat / 16777216 ≠ 0 ∨ 0x0FFF < pageOf p0 then some (badAt atP0)
  else if p1.toNat = 0 ∨ 256 < p1.toNat ∨ 256 < offsetOf p0 + p1.toNat then some (badAt atP1)
  else none

end Sys2Proof.Machine
end

