-- ==== Sys2Proof/Machine/Arbiter.lean ====
section
/-! DEFINITION. The arbiters of shared units (11_dispatcher_and_arbitration.md, R281 to R285, R287): requests, classes, rounds
and preemption. -/

namespace Sys2Proof.Machine

/-- The unit of an instance is masked (R284): a partition or a tile of the resource mask, and every unit while the main die is in
reset. -/
def State.unitMasked (s : State) (i : Nat) : Bool :=
  s.sys.inReset ||
  (if i < 8 then s.cell.partMask.getLsbD i
   else if i < 24 then s.cell.tileMask.getLsbD (i - 8) || s.tiles.tiles[f16 (i - 8)].faulted
   else false)

/-- The partitions of a problem's placement. -/
def ProbSt.parts (x : ProbSt) : List Nat := (List.range x.count).map (x.first + ·)

/-- A problem that a degraded placement has moved is staged on a partition (R221). -/
def State.restagedOn (s : State) (i : Nat) : Bool := s.solver.probs.toList.any (fun x => x.staging && x.parts.contains i)

/-- A problem of the announced placement is staged on a partition (R220). -/
def State.stagedOn (s : State) (i : Nat) : Bool :=
  match s.cell.job with
  | some j => j.placement.problems.any (fun e => j.toStage.contains e.1 && decide (e.2.1 ≤ i) && decide (i < e.2.1 + e.2.2.1))
  | none => false

/-- The class of a requester of an instance and whether it is background (R272, R281, R220, R221; log entry 51). -/
def State.requesterOf (s : State) (i r : Nat) : Nat × Bool :=
  if i < 8 then (if r = 0 then (0, false) else if r = 1 then (if s.restagedOn i then 1 else 3, false) else (3, true))
  else if i < 24 then if r = 0 then (1, false) else if r = 1 then (3, false) else (3, true)
  else ((s.disp.memcls[fin 8 (by decide) r]).toNat, r == 5 || r == 6)

/-- Requesters of an instance. -/
def requesters (i : Nat) : Nat := if i < 8 then 3 else if i < 24 then 4 else 8

/-- The background task that a requester of an instance works for. -/
def taskOf (i r : Nat) : Option Nat :=
  if i < 8 then (if r = 2 then some 0 else none)
  else if i < 24 then (if r = 2 then some 1 else none)
  else if r = 6 then some 2 else if r = 5 then some 5 else none

/-- The requester of an instance for a background task. -/
def requesterFor (b : Nat) : Nat := if b = 2 then 6 else if b = 5 then 5 else 2

/-- Where a requester's rank stands: its class, or 4 for background (R282). -/
def Requester.band (x : Requester) : Nat := if x.bg then 4 else x.cls

/-- A requester in the rank order: it keeps its rank in its class, and enters a class at the lowest (R282, R285). -/
def ArbSt.enter (a : ArbSt) (x : Requester) : ArbSt :=
  if a.ranks.contains (x.index, x.band) then a
  else { a with ranks := a.ranks.filter (fun r => r.1 != x.index) ++ [(x.index, x.band)] }

/-- A requester waits or holds. -/
def ArbSt.has (a : ArbSt) (r : Nat) : Bool := a.waiting.any (fun x => x.index == r) || a.holder.any (fun h => h.index == r)

/-- A request as it arrives: of the requester's class, or of class 2 where its background step is promoted (R281, R287). -/
def State.asRequester (s : State) (i r : Nat) : Requester :=
  let (c, bg) := s.requesterOf i r
  match taskOf i r with
  | some b => if s.disp.promoted.contains (32 * b + i) then ⟨r, 2, false, true, 0⟩ else ⟨r, c, bg, false, 0⟩
  | none => ⟨r, c, bg, false, 0⟩

/-- A request arrives, at the lowest rank of its class where it is new there (R282, R287). -/
def State.newRequest (s : State) (i : Nat) (a : ArbSt) (r : Nat) : ArbSt :=
  if requesters i ≤ r || a.has r then a
  else { a.enter (s.asRequester i r) with waiting := a.waiting ++ [s.asRequester i r] }

/-- Classes that have changed since take effect (R285, R287): a waiting requester enters its new class at the lowest rank; a
holder keeps its grant. -/
def State.newClasses (s : State) (i : Nat) (a : ArbSt) : ArbSt :=
  let now := fun (x : Requester) => { s.asRequester i x.index with progress := x.progress }
  let waiting := a.waiting.map now
  { waiting.foldl ArbSt.enter a with
    waiting := waiting, holder := a.holder.map (fun h => if h.promoted then h else { h with cls := (s.requesterOf i h.index).1 }) }

/-- At its preemption point a holder yields to a lower class number, and a background holder to any foreground waiter;
a promoted step never preempts (R283). -/
def ArbSt.yields (a : ArbSt) (h : Requester) : Bool :=
  a.waiting.any (fun x => !x.promoted && !x.bg && (h.bg || decide (x.cls < h.cls)))

/-- The best-ranked requester of a list. -/
def bestOf (ranks : List (Nat × Nat)) (l : List Requester) : Option Requester :=
  (ranks.filterMap (fun r => l.find? (fun x => x.index == r.1))).head?

/-- One grant (R282): the lowest class number among foreground waiters, else background. -/
def ArbSt.grant (a : ArbSt) : ArbSt :=
  let fg := a.waiting.filter (fun x => !x.bg)
  let c := fg.foldl (fun m x => min m x.cls) 4
  match bestOf a.ranks (if fg.isEmpty then a.waiting else fg.filter (fun x => x.cls == c)) with
  | none => a
  | some w => { a with holder := some w, waiting := a.waiting.filter (fun x => x.index != w.index)
                       ranks := a.ranks.filter (fun r => r.1 != w.index) ++ [(w.index, w.band)] }

/-- A round at a release or at a preemption point (R282, R283). -/
def ArbSt.round (a : ArbSt) (release : Bool) : ArbSt :=
  match a.holder with
  | none => a.grant
  | some h =>
    if release then { a with holder := none }.grant
    else
      let h := { h with progress := h.progress + 1 }
      if a.yields h then
        { a with holder := none, waiting := h :: a.waiting, ranks := (h.index, h.band) :: a.ranks.filter (fun r => r.1 != h.index)
                 preempt := satN 65535 (a.preempt + 1) }.grant
      else { a with holder := some h }

/-- The arbiter of an instance. -/
def State.arb (s : State) (i : Nat) : ArbSt := s.disp.arbs[fin 25 (by decide) i]

/-- Put the arbiter of an instance. -/
def State.setArb (s : State) (i : Nat) (a : ArbSt) : State := s.setDisp { s.disp with arbs := s.disp.arbs.set (fin 25 (by decide) i) a }

/-- A requester asks for a unit: a masked unit refuses, and one that nobody holds grants at once (R282, R284). -/
def State.askUnit (s : State) (i r : Nat) : State :=
  if s.unitMasked i then s
  else
    let a := s.newRequest i (s.newClasses i (s.arb i)) r
    s.setArb i (if a.holder.isNone then a.grant else a)

/-- A requester's work on a unit is done or dropped: it waits no more, and releases what it holds (R282). -/
def State.leaveUnit (s : State) (i r : Nat) : State :=
  let a := s.newClasses i (s.arb i)
  let b := { a with waiting := a.waiting.filter (fun x => x.index != r) }
  s.setArb i (if b.holder.any (fun h => h.index == r) then b.round true else b)

/-- A requester holds a unit. -/
def State.holdsUnit (s : State) (i r : Nat) : Bool := (s.arb i).holder.any (fun h => h.index == r)

/-- A requester has been granted a unit for the work that it still wants it for, whether or not it was preempted since (R283). -/
def State.servedUnit (s : State) (i r : Nat) : Bool :=
  s.holdsUnit i r || (s.arb i).waiting.any (fun x => x.index == r && decide (x.progress ≠ 0))

/-- The work of a requester stands in the state (R220, R234, R264): a solve on the partition, a staging, kernel runs of the tile, and
the schedule store while something is staged. -/
def State.wants (s : State) (i r : Nat) : Bool :=
  if i < 8 then
    if r = 0 then (List.range 4).any (fun p =>
      s.solver.solves[f4 p].running && !s.solver.solves[f4 p].halted && s.solver.probs[f4 p].parts.contains i)
    else r == 1 && (s.stagedOn i || s.restagedOn i)
  else if i < 24 then r == 0 && (s.tiles.tiles[f16 (i - 8)].busy || !s.tiles.tiles[f16 (i - 8)].queue.isEmpty)
  else r == 4 && (List.range 8).any (fun k => s.stagedOn k || s.restagedOn k)

/-- The arbiter of an instance in one DISPATCH cycle (R281, R282, R284): a masked unit has no holder and no waiter; the requests of
solves, staging and kernel runs come and go with their work; requests to an idle unit are granted. -/
def State.arbitrate (s : State) (i : Nat) : State :=
  if s.unitMasked i then s.setArb i { s.arb i with holder := none, waiting := [] }
  else
    let own := if i < 8 then [0, 1] else if i < 24 then [0] else [4]
    own.foldl (fun s r =>
      if s.wants i r then s.askUnit i r
      else if i < 24 && (s.arb i).has r then s.leaveUnit i r else s) s

end Sys2Proof.Machine
end

