-- ==== Sys2Proof/Machine/Pair.lean ====
section
/-! DEFINITION. The state of a pair that other parts of the block use (15_twin_operation.md): the status word, HELLO
frames and changes of pair state (R367, R371, R372, R383). -/

namespace Sys2Proof.Machine

/-- The code of TW_STAT.state. -/
def PairState.code : PairState → Nat
  | .solo => 0 | .alone => 1 | .join => 2 | .paired => 3 | .check => 4 | .out => 5

/-- Bracket mode is in force (R381): a mode-2 cell in SOLO, or a cell in ALONE since the first boundary there. -/
def State.bracketOn (s : State) : Bool :=
  s.cellOn && (match s.twin.state with
  | .solo => s.theCell.mode == 2
  | .alone => s.twin.bracket
  | _ => false)

/-- A frame of the partner has arrived on some ring within the last 2 servo cycles (R376, R379). -/
def State.partnerHeard (s : State) : Bool := s.twin.partnerRing && decide (s.now < s.twin.ringAt + 2 * s.servo)

/-- TW_STAT (R383). -/
def State.twStat (s : State) : Word :=
  let t := s.twin
  w32 (2 ^ 29 * t.state.code + 2 ^ 28 * b2n t.active + 2 ^ 27 * b2n t.twinId + 2 ^ 25 * fld t.cfg 31 30 +
    2 ^ 24 * b2n s.bracketOn + 2 ^ 23 * b2n t.lane0 + 2 ^ 22 * b2n t.lane1 + 2 ^ 21 * b2n s.partnerHeard +
    2 ^ 18 * t.refuse + 2 ^ 16 * t.selftest + 2 ^ 8 * t.resync)

/-- The tick and the digest of an announced placement. -/
def announcedBy (j : Option Job) : Option (Nat × Word) :=
  match j with
  | some j => (match j.phase with
    | .announced a => some (a, j.placement.digest)
    | _ => none)
  | none => none

/-- The placement that activates next, by its tick and digest: the degraded re-placement's, or a command's. -/
def CellSt.nextPlaced (c : CellSt) : Option (Nat × Word) :=
  match announcedBy c.regrade, announcedBy c.job with
  | some r, some j => some (if r.1 ≤ j.1 then r else j)
  | some r, none => some r
  | none, j => j

/-- The digest that a HELLO frame carries: that of the announced placement, else of the one in force (R26). -/
def CellSt.nextDigest (c : CellSt) : Word := (c.nextPlaced.map (·.2)).getD c.placement.digest

/-- The digest of the placement that the present planning tick has in force. -/
def State.dueDigest (s : State) : Word :=
  match s.cell.nextPlaced with
  | some e => if e.1 ≤ s.tickNo then e.2 else s.cell.placement.digest
  | none => s.cell.placement.digest

/-- A HELLO frame (R367): TWIN_ID, firmware version, SF_CFGCRC, placement digest, state, and whether a cell is active and whether
the digest is that of an activation which now happens; in a layout of the model's own. -/
def State.sendHello (s : State) (digest : Word) (act : Bool := false) : State :=
  s.sendBenjo 1 ([BitVec.ofNat 8 (b2n s.twin.twinId), BitVec.ofNat 8 s.twin.state.code, BitVec.ofNat 8 (b2n s.cellOn),
      BitVec.ofNat 8 (b2n act)] ++
    leBytes 4 s.sys.fwver.toNat ++ leBytes 4 s.safety.cfgCrc.toNat ++ leBytes 4 digest.toNat ++ leBytes 4 s.twStat.toNat)

/-- The idle frame of the link, every 2 µs (R367). DESIGN CHOICE (log entry 58): at even µs of elapsed time, since the spec gives
no phase. -/
def State.sendIdle (s : State) : State :=
  if s.isReady rdTwin && decide (s.now % 2000 = 0) then s.sendBenjo 0 [] else s

/-- The TIME frame of the active, by which the standby or a joining device follows its cell time (R107, R367). DESIGN CHOICE (log
entry 58): it carries the cell time at which it is sent, at each planning tick boundary. -/
def State.sendTime (s : State) : State :=
  if s.isReady rdTwin && s.twin.active && decide (s.twin.state ≠ .solo) && s.onGrid 1000000 0 then s.sendBenjo 7 (leBytes 8 s.stamp)
  else s

/-- A frame that goes once, over a lane that is up (R367). -/
def State.sendOnce (s : State) (type : Nat) (payload : List Byte) : State :=
  let w := s.twin.txSeq
  let lane := if s.twin.lane0 && s.twin.lane1 then w.toNat % 2 else b2n s.twin.lane1
  (s.emit (.benjo lane (benjoBytes type lane (s.stamp / s.servo) w payload))).setTwin { s.twin with txSeq := w + 1 }

/-- A STATE frame for a partner in JOIN (R367, R380). DESIGN CHOICE (log entry 58): one goes at each planning tick boundary; what it
holds is free. -/
def State.sendState (s : State) : State :=
  if s.isReady rdTwin && decide (s.twin.state = .alone) && decide (s.twin.peerState = .join) && s.cellOn && (s.twin.lane0 || s.twin.lane1)
      && s.onGrid 1000000 0 then
    (s.sendOnce 9 ((Config.stateData s.free).take 8192)).nextFree
  else s

/-- An announced proof swap is withdrawn, and announced again later (R378). -/
def State.withdrawSwap (s : State) : State :=
  match s.twin.swapTick with
  | none => s
  | some k =>
    let s := s.setTwin { s.twin with swapTick := none, swapAgain := true }
    if s.pairActive then s.sendBenjo 8 ([1, 0, 0, 0] ++ leBytes 4 k) else s

/-- Replies that wait for the standby's confirmation wait no longer: there is no standby in step (R369). -/
def State.confirmAll (s : State) : State :=
  foldOn (List.range 16) s (fun s q =>
    let x := s.host.queues[f16 q]
    s.setQueue (f16 q) { x with replies := x.replies.map (fun (r : Reply) => { r with confirmed := true })
                                inflight := x.inflight.map (fun (p : Pkt) => { p with confirmed := true }) })

/-- The partner is absent from the rings or out: the device that goes on alone has the heads and sends the SERVICE frames (R148, log
entry 32). -/
def State.takeHeads (s : State) : State :=
  s.setRings (s.rings.map (fun x => { x with head := decide (x.state = .run), partner := false }))

/-- This device drives SYNC_OUT: not a standby, and from the instant of a swap boundary the new active device (R103, R104). -/
def State.drivesSync (s : State) : Bool :=
  match s.twin.swapTick with
  | some k => if s.twin.state = .paired ∧ k ≤ s.tickNo then !s.twin.active else !s.isStandby
  | none => !s.isStandby

/-- SYNC_OUT is low while its period is 0 and on a device that does not drive it (R103). -/
def State.syncOutLow (s : State) : State :=
  if s.time.outPer = 0 ∨ s.drivesSync = false then s.setTime { s.time with outLeft := 0 } else s

/-- How long SYNC_OUT still stays high after its last edge, in ns of cell time (R103). -/
def TimeSt.outRest (t : TimeSt) : Nat :=
  let per := t.outPer.toNat
  if per = 0 then 0 else min t.outW.toNat (per / 2) - (t.cellNs % 1000000000 + per - t.outOfs.toNat) % per

/-- SYNC_OUT after a change of role (R103, R104): the device that drives it now goes on with the pulse under way and drives an edge of
this instant; the other one is low, so that no pulse is doubled or lost. -/
def State.passSync (s : State) (drove : Bool) : State :=
  if drove == s.drivesSync then s
  else s.setTime { s.time with outLeft := if s.drivesSync && s.isReady rdTime then s.time.outRest else 0 }

/-- A change of pair state, reported on subscription 0 of queue 15 and to the partner (R371, R372, R378);
a device in OUT holds every STO output at stop (R372) and sends no SERVICE frames. -/
def State.pairTo (s : State) (st : PairState) (active : Bool) : State :=
  let old := s.twin.state
  let drove := s.drivesSync
  let s := if old = .paired ∧ st ≠ .paired then s.withdrawSwap.confirmAll else s
  let t := s.twin
  let s := s.setTwin { t with state := st, active := active, bracket := t.bracket && decide (st = .alone) }
  let s := if st = .out then (s.setSafety { s.safety with en1 := 0, en2 := 0 }).setRings (s.rings.map (fun x => { x with head := false }))
    else s
  let s := if st = .alone ∧ (old = .paired ∨ old = .check) then s.takeHeads else s
  let s := s.passSync drove
  if old = st then s else (s.notice .pairState old.code st.code).sendHello s.cell.nextDigest

/-- Divergence (R375): both devices go to CHECK, in the roles they held. -/
def State.diverge (s : State) : State :=
  if s.twin.state = .paired then
    let s := s.pairTo .check s.twin.active
    s.setTwin { s.twin with cnt := bump s.twin.cnt 31 24 1, checkAt := s.now, checkTick := s.tickNo, ownCheck := none, peerCheck := none }
  else s

/-- SOLVE values are compared: in PAIRED, and for every problem of the tick in which one differed (R375). -/
def State.comparing (s : State) : Bool :=
  s.twin.state == .paired || (s.twin.state == .check && s.twin.checkTick == s.tickNo)

/-- Store a value under a key, newest first, at most 64. -/
def remember (l : List (Nat × Word)) (k : Nat) (v : Word) : List (Nat × Word) := ((k, v) :: l).take 64

/-- The values of both devices under a key differ. -/
def differAt (a b : List (Nat × Word)) (k : Nat) : Bool :=
  match a.find? (fun e => e.1 == k), b.find? (fun e => e.1 == k) with
  | some x, some y => x.2 != y.2
  | _, _ => false

/-- The DIGEST frame of a ring's cycle, under ring + 4 × cycle: the CRC-32C of the output payload sent, without the areas of the nodes
that the adoptions name. It goes once the output frame has been sent and the partner's SUMMARY of the cycle has come (R374). -/
def State.sendDigest (s : State) (key : Nat) : State :=
  match s.twin.sent.find? (fun e => e.1 == key) with
  | none => s
  | some e =>
    if !s.twin.sums.contains key then s
    else
      let gone := (s.twin.leftOut.filter (fun e => e.1 == key)).map (·.2)
      let d := w32 (crc32c ((e.2.filter (fun a => !gone.contains a.1)).flatMap (·.2)))
      let s := s.sendBenjo 3 ([BitVec.ofNat 8 (key % 4)] ++ leBytes 4 (key / 4) ++ leBytes 4 d.toNat)
      let s := s.setTwin { s.twin with
        leftOut := s.twin.leftOut.filter (fun e => e.1 != key), sent := s.twin.sent.filter (fun e => e.1 != key)
        sums := s.twin.sums.filter (· != key), ownDigests := remember s.twin.ownDigests key d }
      if differAt s.twin.ownDigests s.twin.peerDigests key then s.diverge else s

/-- A presence-gated command pends, or has been accepted and has not completed: the device defers a proof swap and every other
change of role (R64). -/
def State.roleHeld (s : State) : Bool :=
  s.host.presence.isSome ||
  s.host.queues[(14 : Fin 16)].inflight.any (fun p => decide (p.phase = .started) && gatedOp p.opcode) ||
  (match s.cell.job with
   | some j => j.queue == 14 && (match j.phase with
      | .announced _ => true
      | .placing => j.stale || j.degraded
      | .presence => false)
   | none => false)

/-- What delays the announcement of a swap: a presence-gated command that has not completed (R64), or an announced
activation. -/
def State.swapBlocked (s : State) : Bool :=
  s.roleHeld || (match s.cell.job with
    | some j => (match j.phase with
      | .announced _ => true
      | _ => false)
    | none => false) || (match s.cell.regrade with
    | some j => j.rejoin && (match j.phase with
      | .announced _ => true
      | _ => false)
    | none => false)

/-- The planning tick at which the next proof swap is due: swap_min minutes after the last swap or after pair formation
(R378). -/
def State.swapDue (s : State) : Nat := (s.twin.lastSwap + fld s.twin.cfg 26 16 * 60000000000 + 999999) / 1000000

/-- Both links down. -/
def TwinSt.linkLost (t : TwinSt) : Bool := !t.lane0 && !t.lane1

end Sys2Proof.Machine
end

