-- ==== Sys2Proof/Machine/Host.lean ====
section
/-! DEFINITION. The host queues of 02_host_queues_and_packets.md: fetching and checking packets over PCIe and
Ethernet (R34 to R57), writing replies, queue reset, and the management opcodes of group 0x0_. -/

namespace Sys2Proof.Machine

/-! ### Checks 5 to 13 of R56 -/

/-- A tag is in flight on a queue: from arrival until its final reply is written (R39). -/
def QueueSt.tagInFlight (x : QueueSt) (tag : Nat) : Bool :=
  x.inflight.any (fun p => p.tag == tag) || x.replies.any (fun r => r.pkt.tag == tag && !r.interim && !r.dup)

/-- The ready bits a packet needs; NODE_READMIT needs the ring of the node record it names (R69). -/
def State.bitsFor (s : State) (p : Pkt) : List Nat :=
  if p.opcode = 0x92 then
    match s.theCell.nodes[p.p0.toNat]? with
    | some n => [rdRing (n.ring % 4)]
    | none => []
  else readyBits p.opcode p.p0

/-- Order 10 of R56: reserved header bits, the class rules of R42, and the deadline rule of R43. -/
def QueueSt.headerBad (x : QueueSt) (hdr : List Byte) (p : Pkt) : Bool :=
  headerReserved hdr || decide (3 < p.cls) || decide (p.cls < fld x.qcfg 27 26) ||
  (decide (p.cls = 0) && decide (4096 < p.payload.length)) ||
  (decide (p.deadline ≠ 0) && (gatedOp p.opcode || (p.queue == 14 && cellGateOp p.opcode)))

/-- The first of the checks 9 to 13 of R56 that a packet fails. -/
def State.laterFailure (s : State) (x : QueueSt) (hdr : List Byte) (crcOk : Bool) (p : Pkt) : Option Verdict :=
  if !crcOk then some ⟨stPayload, 0, 0⟩
  else if x.headerBad hdr p then some (badAt (s.openWord p 0) (s.openWord p 1))
  else if !knownOp p.opcode then some ⟨stBadOpcode, 0, 0⟩
  else if gatedOp p.opcode && p.queue != 14 then some ⟨stRefused, 0, 0⟩
  else if !gatedOp p.opcode && !acceptedOn p.queue p.opcode then some ⟨stBadOpcode, 0, 0⟩
  else if s.isStandby then some ⟨stRole, w32 (b2n (!s.twin.twinId)), 0⟩
  else match s.notReady (s.bitsFor p) with
    | some ms => some ⟨stNotReady, w32 ms, 0⟩
    | none => none

/-- A tag names a packet in flight (R39); in a pair also a command that the partner passed on, since tags are device-wide. -/
def State.tagTaken (s : State) (x : QueueSt) (tag : Nat) : Bool :=
  x.tagInFlight tag || (decide (s.twin.state = .paired) && x.tagInFlight (partnerTag tag))

/-- A packet that has passed checks 1 to 4: checks 5 to 13 in order, then acceptance (R56). Its arrival is a cell time (R36).
DESIGN CHOICE (log entry 26): a PCIe packet that order 5 refuses leaves the expected sequence number as it was; R50 and R56
do not say whether it moves. -/
def State.intake (s : State) (q : Fin 16) (hdr payload : List Byte) (crcOk : Bool) (origin : Origin) : State :=
  let x := s.host.queues[q]
  let p := pktOf hdr payload q s.time.cellNs x.nextIndex origin
  let pcie := decide (origin = .pcie)
  let x := { x with nextIndex := x.nextIndex + 1 }
  if p.qbyte ≠ q.val then (s.setQueue q x).reply p (badAt (s.openWord p 0) (s.openWord p 1)) []
  else
    let want := x.expSeq
    let x := if pcie then { x with expSeq := p.seq + 1 } else x
    let s := s.setQueue q x
    if pcie && p.seq != want then s.reply p (badAt want (s.openWord p 1)) []
    else if p.tag < fld x.qtags 25 16 ∨ fld x.qtags 25 16 + fld x.qtags 10 0 ≤ p.tag ∨ s.tagTaken x p.tag = true then
      s.reply p (badAt (s.openWord p 0) (s.openWord p 1)) []
    else if fld x.qcfg 15 0 ≤ x.outstanding then s.reply p ⟨stNoCredit, 0, 0⟩ []
    else
      let p := { p with credit := true }
      match s.laterFailure x hdr crcOk p with
      | some v => s.reply p v []
      | none => s.setQueue q { x with inflight := x.inflight ++ [p] }

/-! ### PCIe (R45 to R50) -/

/-- A record's length on a ring (R45). -/
def recLen (payloadLen : Nat) : Nat := (32 + payloadLen + (if payloadLen = 0 then 0 else 4) + 63) / 64 * 64

/-- The queue may use PCIe. -/
def QueueSt.onPcie (x : QueueSt) : Bool := bitAt x.qcfg 31 && (fld x.qcfg 29 28 == 0 || fld x.qcfg 29 28 == 3)
/-- The queue may use a host port. -/
def QueueSt.onPort (x : QueueSt) (port : Fin 2) : Bool := fld x.qcfg 29 28 == 3 || fld x.qcfg 29 28 == port.val + 1

/-- In a pair a reply waits for its confirmation (R369), and an ordered one for its predecessors. -/
def QueueSt.releasable (x : QueueSt) (r : Reply) : Bool := r.confirmed && !x.behind r

/-- An aborted SEG_PUSH or EVT_ARM that had not started takes its place in the release order of its chain's or its subscription's
flow: its reply waits for every packet that entered the flow earlier (R277, R278). -/
def State.flowHeld (s : State) (r : Reply) : Bool :=
  decide (r.status = stAborted) && decide (r.pkt.phase = .accepted) && (r.pkt.opcode == 0x20 || r.pkt.opcode == 0x61) &&
    s.host.queues.toList.any (fun x => x.inflight.any (fun o =>
      o.opcode == r.pkt.opcode && o.p0.toNat % 16 == r.pkt.p0.toNat % 16 && o.before r.pkt))

/-- The reply of a queue that is written next (R35, R278). -/
def State.nextReply (s : State) (q : Fin 16) : Option Reply :=
  s.host.queues[q].replies.find? (fun r => s.host.queues[q].releasable r && !s.flowHeld r)

/-- Where a record of `n` bytes starts on the completion ring, and the bytes padded before it (R46). -/
def QueueSt.cqPlace (x : QueueSt) (n : Nat) : Nat × Nat :=
  if x.cqTail + n ≤ 2 ^ x.cqLog2 then (x.cqTail, 0) else (64, 2 ^ x.cqLog2 - x.cqTail)

/-- A record of `n` bytes fits between cq_tail and the head with at least 64 bytes left free (R49). -/
def QueueSt.cqFits (x : QueueSt) (n : Nat) : Bool :=
  let cap := 2 ^ x.cqLog2 - 64
  let used := (x.cqTail - 64 + cap - (x.cqHead - 64) % cap) % cap
  decide ((x.cqPlace n).2 + n + 64 ≤ cap - used)

/-- Final replies that wait and hold no credit. -/
def QueueSt.freeReplies (x : QueueSt) : Nat := (x.replies.filter (fun r => !r.pkt.credit && !r.interim && !r.dup)).length

/-- A reply waits for ring space, or four replies that hold no credit wait, which stops fetching: at most credits + 4 replies of
a queue wait (R49). -/
def State.stuck (s : State) (q : Fin 16) : Bool :=
  decide (4 ≤ s.host.queues[q].freeReplies) ||
  match s.nextReply q with
  | some r => decide (r.pkt.origin = .pcie) && !s.host.queues[q].cqFits (recLen r.payload.length)
  | none => false

/-- The queue halts with a cause and reports it once (R56 orders 1 to 3, R57). -/
def State.haltQueue (s : State) (q : Fin 16) (err : Nat) : State :=
  (s.setQueue q { s.host.queues[q] with halted := true, lastErr := err }).notice .queueHalt q.val err

/-- Take `n` bytes of the submission ring. -/
def QueueSt.takeRing (x : QueueSt) (n : Nat) : QueueSt :=
  { x with sqHead := (x.sqHead + n) % 2 ^ x.sqLog2, sqMem := x.sqMem.drop n }

/-- Fetch records from sq_head up to the tail while nothing stops it (R45 to R50, R55, R57). A record that reaches
past the tail waits until the tail covers it (log entry 21). DESIGN CHOICE (log entry 21): a record that crosses the ring end
without a pad, which R46 rules out, is read on from the ring start. -/
def State.fetchN : Nat → State → Fin 16 → State
  | 0, s, _ => s
  | n + 1, s, q =>
    let x := s.host.queues[q]
    if x.halted || x.resetting || !x.onPcie || s.stuck q || decide (x.sqMem.length < 64) then s
    else
      let fmt := u16 x.sqMem 0
      if fmt = 0x5A00 then State.fetchN n (s.setQueue q (x.takeRing (2 ^ x.sqLog2 - x.sqHead))) q
      else if fmt ≠ 0x5A01 then s.haltQueue q 1
      else if crc32c (x.sqMem.take 28) ≠ u32 x.sqMem 28 then s.haltQueue q 2
      else
        let len := u32 x.sqMem 8
        if 262144 < len ∨ 2 ^ x.sqLog2 - 64 < recLen len then s.haltQueue q 3
        else if x.sqMem.length < recLen len then s
        else
          let hdr := x.sqMem.take 32
          let body := slice x.sqMem 32 len
          let ok := len == 0 || crc32c body == u32 x.sqMem (32 + len)
          State.fetchN n ((s.setQueue q (x.takeRing (recLen len))).intake q hdr body ok .pcie) q

/-- Fetch as far as possible. -/
def State.fetch (s : State) (q : Fin 16) : State := s.fetchN (s.host.queues[q].sqMem.length / 64 + 1) q

/-- SQ_DOORBELL (R48): the new tail and the ring bytes from sq_head on; ignored before QUEUES (R408). -/
def execSqDoorbell (q : Fin 16) (tail : Nat) (mem : List Byte) (s : State) : Host.Outcome State Fault Refusal :=
  if !s.isReady rdQueues then .next s else
  let x := s.host.queues[q]
  let size := 2 ^ x.sqLog2
  let dist := (tail % size + size - x.sqHead) % size
  .next ((s.setQueue q { x with sqTail := tail, sqMem := mem.take dist }).fetch q)

/-- CQ_DOORBELL (R49): space is freed, and fetching goes on. -/
def execCqDoorbell (q : Fin 16) (head : Nat) (s : State) : Host.Outcome State Fault Refusal :=
  if !s.isReady rdQueues then .next s else
  .next ((s.setQueue q { s.host.queues[q] with cqHead := head }).fetch q)

/-! ### Writing replies (R36, R47 to R49, R51, R54) -/

/-- The reply is written after its packet's deadline though the packet has started (R43). -/
def Reply.isLate (r : Reply) (now : Nat) : Bool :=
  !r.interim && !decide (r.pkt.phase = Phase.accepted) && r.pkt.late now

/-- The bytes of a reply (R36); `now` is the cell time. -/
def Reply.bytes (r : Reply) (now : Nat) : List Byte :=
  let at_ := r.sentAt.getD now
  let tagf := r.pkt.tag + 1024 * b2n (r.isLate at_) + 2048 * b2n r.dup + 4096 * b2n r.eventsLost
  let hdr := leBytes 2 0x5A01 ++ leBytes 1 r.pkt.opcode ++ leBytes 1 r.status ++ leBytes 2 tagf ++
    leBytes 1 r.pkt.qbyte ++ leBytes 1 (b2n r.interim) ++ leBytes 4 r.payload.length ++
    leBytes 4 (satN 0xFFFFFFFF ((at_ - r.pkt.arrival) / 1000)) ++ leBytes 4 r.w0.toNat ++ leBytes 4 r.w1.toNat ++
    leBytes 4 r.pkt.seq.toNat
  hdr ++ leBytes 4 (crc32c hdr) ++
    (if r.payload.isEmpty then [] else r.payload ++ leBytes 4 (crc32c r.payload))

/-- The segments of a packet on a host port: index, count, sequence number, data (R51). -/
def segments (seg : Nat) (seq : Word) (count : Nat) : Nat → List Byte → List (List Byte)
  | 0, _ => []
  | n + 1, bs =>
    (leBytes 2 (count - (n + 1)) ++ leBytes 2 count ++ leBytes 4 seq.toNat ++ bs.take seg) ::
      segments seg seq count n (bs.drop seg)

/-- Segment data length of the host ports. -/
def HostSt.segLen (h : HostSt) : Nat := if bitAt h.ctrl 8 then 8964 else 1464

/-- Remove the first reply equal to one. -/
def dropReply (r : Reply) : List Reply → List Reply
  | [] => []
  | a :: rest => if a = r then rest else a :: dropReply r rest

/-- Raise the MSI-X vector unless it was raised within 2 µs (R48). -/
def State.raiseMsix (s : State) (q : Fin 16) : State :=
  let x := s.host.queues[q]
  match x.msixAt with
  | some t => if s.time.cellNs < t + 2000 then s
    else (s.setQueue q { x with msixAt := some s.time.cellNs, msixTail := x.cqTail }).emit (.msix q.val)
  | none => (s.setQueue q { x with msixAt := some s.time.cellNs, msixTail := x.cqTail }).emit (.msix q.val)

/-- Put a written reply out: on a ring with its status block and vector, or as datagrams. -/
def State.putOut (s : State) (q : Fin 16) (r : Reply) : State :=
  let bytes := r.bytes s.time.cellNs
  let x := s.host.queues[q]
  match r.pkt.origin with
  | .pcie =>
    let n := recLen r.payload.length
    let (start, pad) := x.cqPlace n
    let s := if pad = 0 then s else s.emit (.pad q.val x.cqTail)
    let s := (s.setQueue q { x with cqTail := start + n }).emit (.reply q.val start bytes)
    (s.emit (.status q.val x.sqHead (start + n) x.outstanding)).raiseMsix q
  | .udp port src =>
    let seg := s.host.segLen
    let count := (bytes.length + seg - 1) / seg
    (segments seg r.pkt.seq count count bytes).foldl (fun s d => s.emit (.datagram port.val src d)) s
  | .partner => s

/-- Keep a final reply of an accepted Ethernet packet for duplicates (R54). -/
def QueueSt.keep (x : QueueSt) (r : Reply) (now : Nat) : QueueSt :=
  match r.pkt.origin with
  | .pcie | .partner => x
  | .udp _ _ => if r.interim || r.dup then x else
    { x with stored := x.stored.map (fun e => if e.seq = r.pkt.seq then
        { e with reply := some { r with sentAt := some now, waiters := [] } } else e) }

/-- The next reply of a queue is written if it fits (R35, R36, R48, R49); its tag and credit are then free, and commands that
waited for it complete (R72, R84). -/
def State.writeReply (s : State) (q : Fin 16) : State :=
  let x := s.host.queues[q]
  match s.nextReply q with
  | none => s
  | some r =>
    if decide (r.pkt.origin = .pcie) && !x.cqFits (recLen r.payload.length) then s
    else
      let x := { x with replies := dropReply r x.replies }
      let s := ((s.setQueue q (x.keep r s.time.cellNs)).putOut q r)
      let s := r.waiters.foldl (fun s w => s.finishTag w.1 w.2.1 ⟨stOk, w.2.2, 0⟩) s
      s.fetch q

/-- MSIX_MODERATION_EXPIRY (R48): the vector is raised again if cq_tail has moved since the last raise. -/
def execMsixModerationExpiry (q : Fin 16) (s : State) : Host.Outcome State Fault Refusal :=
  .next (s.onExpiry (DelayEntry.ofUser 6 q.val) (fun s =>
    let x := s.host.queues[q]
    match x.msixAt with
    | none => s
    | some t =>
      if s.time.cellNs < t + 2000 then s
      else if x.cqTail = x.msixTail then s.setQueue q { x with msixAt := none }
      else s.raiseMsix q))

/-! ### Ethernet (R51 to R54) -/

/-- Count a discard in a field of HQ_ERRCNT. -/
def State.countErr (s : State) (hi lo : Nat) : State := s.setHost { s.host with errcnt := bump s.host.errcnt hi lo 1 }

/-- Insert a segment; one that is already held is ignored. -/
def putSeg (i : Nat) (d : List Byte) : List (Nat × List Byte) → List (Nat × List Byte)
  | [] => [(i, d)]
  | (j, e) :: r => if i < j then (i, d) :: (j, e) :: r else if i = j then (j, e) :: r else (j, e) :: putSeg i d r

/-- Sequence arithmetic modulo 2³²: how far `a` lies below `b`. -/
def seqBelow (a b : Word) : Nat := (b - a).toNat

/-- A whole packet from a host port: checks 1 to 4 of R56, then the rest (R53, R54). DESIGN CHOICE (log entry 26): the segments are put
together by the sequence number of their prefixes, and R54 is judged by that of the header, since R51 does not say what
happens where the two differ. -/
def State.udpPacket (s : State) (q : Fin 16) (port : Fin 2) (src : Endpoint) (bs : List Byte) : State :=
  let x := s.host.queues[q]
  let len := u32 bs 8
  let seq := wordAt bs 24
  if bs.length < 32 ∨ u16 bs 0 ≠ 0x5A01 ∨ crc32c (bs.take 28) ≠ u32 bs 28 ∨ 262144 < len ∨
      bs.length ≠ 32 + len + (if len = 0 then 0 else 4) then s.countErr 31 24
  else match x.stored.find? (fun e => e.seq == seq) with
    | some e => match e.reply with
      | some r => s.setQueue q { x with replies := x.replies ++
          [{ r with dup := true, pkt := { r.pkt with credit := false, origin := .udp port src } }] }
      | none => s
    | none =>
      let below := match x.highSeq with
        | some h => seqBelow seq h
        | none => 0
      if 64 < below ∧ below < 2 ^ 31 then s.countErr 15 8
      else
        let high := match x.highSeq with
          | some h => if below = 0 ∨ 2 ^ 31 ≤ below then some seq else some h
          | none => some seq
        let x := { x with highSeq := high, bound := some (x.bound.getD src), stored := (⟨seq, none⟩ :: x.stored).take 64 }
        (s.setQueue q x).intake q (bs.take 32) (slice bs 32 len)
          (len == 0 || crc32c (slice bs 32 len) == u32 bs (32 + len)) (.udp port src)

/-- UDP_DATAGRAM (R51 to R54): one segment of one packet. A partial packet whose first segment is more than 20 ms old is
discarded and counted, and the segment begins a new one (R52). DESIGN CHOICE (log entry 26): segments of one sequence number from
another source or on another port belong to another partial packet. -/
def execUdpDatagram (port : Fin 2) (src : Endpoint) (dstPort : Nat) (data : List Byte) (s : State) :
    Host.Outcome State Fault Refusal :=
  let base := fld s.host.ctrl 31 16
  let ip := if port.val = 0 then s.host.ip0 else s.host.ip1
  if !s.isReady rdQueues || !s.isReady rdEth || !bitAt s.host.ctrl port.val || ip == 0 ||
      decide (dstPort < base) || decide (base + 15 < dstPort) then .next s
  else
    let q := f16 (dstPort - base)
    let x := s.host.queues[q]
    let idx := u16 data 0
    let count := u16 data 2
    let seq := wordAt data 4
    let body := data.drop 8
    let seg := s.host.segLen
    if !bitAt x.qcfg 31 then .next (s.countErr 31 24)
    else if !x.onPort port || x.resetting then .next s
    else if (match x.bound with | some e => decide (e ≠ src) | none => false) then .next (s.countErr 7 0)
    else if data.length < 8 ∨ count = 0 ∨ count ≤ idx ∨ (idx + 1 < count ∧ body.length ≠ seg) ∨ seg < body.length then
      .next (s.countErr 31 24)
    else
      let same := fun (a : Assembly) => a.queue == q.val && a.seq == seq && decide (a.src = src) && decide (a.port = port)
      let others := s.host.assembling.filter (fun a => !same a)
      let held := s.host.assembling.find? same
      let old := match held with
        | some a => decide (a.first + 20000000 < s.time.cellNs)
        | none => false
      let s := if old then s.countErr 23 16 else s
      let fresh : Assembly := ⟨q.val, seq, port, src, count, [], s.time.cellNs⟩
      let cur := if old then fresh else held.getD fresh
      if cur.count ≠ count then .next ((s.setHost { s.host with assembling := others }).countErr 23 16)
      else
        let cur := { cur with segs := putSeg idx body cur.segs }
        if cur.segs.length < count then .next (s.setHost { s.host with assembling := others ++ [cur] })
        else .next ((s.setHost { s.host with assembling := others }).udpPacket q port src
          (cur.segs.flatMap (·.2)))

/-- REASSEMBLY_TIMEOUT (R52): partial packets whose first segment is 20 ms old are discarded and counted. -/
def execReassemblyTimeout (q : Fin 16) (seq : Word) (s : State) : Host.Outcome State Fault Refusal :=
  .next (s.onExpiry (fun e => e.ofUser 4 q.val && e.b == seq.toNat) (fun s =>
    let due := fun (a : Assembly) => a.queue == q.val && a.seq == seq && decide (a.first + 20000000 ≤ s.time.cellNs)
    let n := (s.host.assembling.filter due).length
    s.setHost { s.host with
      assembling := s.host.assembling.filter (fun a => !due a), errcnt := bump s.host.errcnt 23 16 n }))

/-! ### Partial images -/

/-- The number of a stream in its notice. -/
def streamNo : Stream → Nat
  | .cell => 0 | .sched => 1 | .kernel => 2 | .rule => 3 | .fw => 4

/-- PARTIAL_IMAGE_TIMEOUT (R10): no fragment for 10 s. -/
def execPartialImageTimeout (st : Stream) (s : State) : Host.Outcome State Fault Refusal :=
  .next (s.onExpiry (DelayEntry.ofUser 8 (streamNo st)) (fun s => match s.cell.partOf st with
    | some i => if i.last + 10000000000 ≤ s.time.cellNs then (s.dropPart st).notice .partialImage (streamNo st) i.queue else s
    | none => s))

/-! ### Cell images of queue 14 before their window (R58) -/

/-- The job carries a new cell image (R28, R32). -/
def Job.newImage (j : Job) : Bool := decide (j.kind = .load) || decide (j.kind = .amend)

/-- The current images as pairs of problem and schedule index. -/
def SolverSt.currentList (v : SolverSt) : List (Nat × Nat) :=
  (List.range 4).filterMap (fun i => v.current[f4 i].map (fun k => (i, k)))

/-- The degraded re-placement of the active cell (R30). -/
def State.regradeJob (s : State) : Job :=
  { kind := .degraded, queue := 0, tag := 0, cell := s.theCell, current := s.solver.currentList, bind := none
    phase := .placing }

/-- The placement in force uses a unit that is masked. -/
def CellSt.lost (c : CellSt) : Bool :=
  c.placement.loops.any (fun l => c.engMask.getLsbD l.engine) ||
  c.placement.problems.any (fun e => (List.range e.2.2.1).any (fun i => c.partMask.getLsbD (e.2.1 + i))) ||
  c.placement.kernels.any (fun k => c.tileMask.getLsbD k.2)

/-- The job goes without effect; the old cell is placed again where it lost a unit meanwhile (R30, R32). -/
def State.dropJob (s : State) : State :=
  s.setCell { s.cell with
    job := none
    regrade := if s.cellOn && s.cell.regrade.isNone && s.cell.lost then some s.regradeJob else s.cell.regrade }

/-- The image of a packet goes while it is validated or placed, on the standby as well (R55, R72, R369). -/
def State.dropImage (s : State) (o : Pkt) : State :=
  (if s.pairActive then s.sendBenjo 6 (o.about 3) else s).dropJob

/-- The image of a packet of queue 14 is validated or placed, or waits for presence: R58 counts this among the checks of R56, so
the command has not started (R64). -/
def State.beforeGate (s : State) (o : Pkt) : Bool :=
  match s.cell.job with
  | some j => o.queue == 14 && j.queue == 14 && j.tag == o.tag && j.newImage && (match j.phase with
      | .placing => !j.stale && !j.degraded
      | .presence => true
      | .announced _ => false)
  | none => false

/-! ### Presence window (R59 to R61, R64) -/

/-- The six bytes of a panel message: "P", four digits, and a last character (R61). -/
def panelBytes (code : Nat) (last : Byte) : List Byte :=
  [0x50, BitVec.ofNat 8 (48 + code / 1000 % 10), BitVec.ofNat 8 (48 + code / 100 % 10),
   BitVec.ofNat 8 (48 + code / 10 % 10), BitVec.ofNat 8 (48 + code % 10), last]

/-- Write the panel; only the active device of a twin drives it (R61). -/
def State.showPanel (s : State) (bs : List Byte) (at_ : Option Nat) : State :=
  if s.isStandby then s.setHost { s.host with panel := bs, panelAt := at_ }
  else (s.setHost { s.host with panel := bs, panelAt := at_ }).emit (.panel s.host.panelAddr.toNat bs)

/-- A command that has passed every check up to order 14 reaches the pending point (R58 to R60, R412): the
supply-caution check first, then the one pending command, then the window opens. -/
def State.toPending (s : State) (p : Pkt) : State :=
  if s.sys.caution then s.finish p ⟨stRefused, 0, 5⟩
  else if s.host.presence.isSome then s.finish p busy
  else
    let s := s.withdrawSwap
    let n := Config.freeNat s.free
    let code := match s.host.lastCode with
      | some c => if n % 9999 < c then n % 9999 else n % 9999 + 1
      | none => n % 10000
    let s := s.nextFree
    let s := s.setHost { s.host with presence := some ⟨p.queue, p.tag, p.opcode, code, s.time.cellNs⟩, lastCode := some code }
    let s := s.setQueue (f16 p.queue) (s.host.queues[f16 p.queue].setPhase p.tag .pending)
    (s.interim p code).showPanel (panelBytes code 0x3F) none

/-- Whether the pending command is the one of a queue and tag. -/
def State.isPending (s : State) (q tag : Nat) : Bool :=
  match s.host.presence with
  | some w => w.queue == q && w.tag == tag
  | none => false

/-- The window closes with a last panel character; a placed image that waited for presence is dropped unless it was
accepted (R61, R64). -/
def State.closePresence (s : State) (last : Byte) : State :=
  match s.host.presence with
  | none => s
  | some w =>
    let s := s.setHost { s.host with presence := none }
    let s := if s.pairActive then (match s.host.queues[f16 w.queue].find w.tag with
      | some p => s.sendBenjo 6 (p.about (if last = 0x41 then 2 else 3))
      | none => s) else s
    let s := if last = 0x41 then s else match s.cell.job with
      | some j => if decide (j.phase = .presence) && j.queue == w.queue && j.tag == w.tag then s.dropJob else s
      | none => s
    s.showPanel (panelBytes w.code last) (some s.time.cellNs)

/-- The packet that pends presence. -/
def State.gated (s : State) : Option Pkt :=
  match s.host.presence with
  | some w => s.host.queues[f16 w.queue].find w.tag
  | none => none

/-- The window ends without acceptance: the last panel character, the status and the reason (R61, R63, R64). -/
def State.denyGate (s : State) (last : Byte) (status : Nat) (reason : Word) : State :=
  match s.gated with
  | none => s.closePresence last
  | some p => (s.closePresence last).finish p ⟨status, 0, reason⟩

/-- More than 60,000 ms after the window opened the command has timed out: nothing that comes later decides it (R64). -/
def State.gateOver (s : State) : Bool :=
  match s.host.presence with
  | some w => decide (w.opened + 60000000000 < s.time.cellNs)
  | none => false

/-- A window that has run out ends first (R64). -/
def State.expireGate (s : State) : State := if s.gateOver then s.denyGate 0x54 stPresTimeout 0 else s

/-! ### Queue reset (R55) -/

/-- The frame of a CAN_TX packet that a queue reset ends: a pending frame is cancelled, one on the bus goes on
without a packet (R55, R393). -/
def State.canForget (s : State) (q tag : Nat) : State :=
  let one := fun (c : CanSt) (b : CanBuf) (i : Nat) => match b.tx with
    | some (f, q', t') => if q' == q && t' == tag then
        (match c.onBus with
         | some o => if o.buf == i then { b with tx := some (f, 0, 1024) } else { b with tx := none }
         | none => { b with tx := none }) else b
    | none => b
  s.setCan (foldOn (List.range 4) s.can (fun v n => vmod v (f4 n) (fun c =>
    { c with bufs := foldOn (List.range 64) c.bufs (fun w i => vmod w (f64 i) (fun b => one c b i)) })))

/-- A queue is reset: what waits on outside events ends at once, commands that execute finish with their replies
discarded, and then everything returns (R55). An image of queue 14 that is still being validated or placed has not started
(R58) and goes with the packets that have not. `by_` are packets that complete with the reset (R73). DESIGN CHOICE (log entry
26): segments of a packet that is only partly reassembled stay, since R55 does not name them. -/
def State.startReset (s : State) (q : Fin 16) (by_ : List (Nat × Nat)) : State :=
  let x := s.host.queues[q]
  if x.resetting then s.setQueue q { x with resetBy := x.resetBy ++ by_ } else
  let s := s.expireGate
  let s := match s.host.presence with
    | some w => if w.queue == q.val then s.closePresence 0x44 else s
    | none => s
  let gone := fun (p : Pkt) => !decide (p.phase = .started) || p.opcode == 0x61 || p.opcode == 0xA0 || s.beforeGate p
  let s := (x.inflight.filter (fun p => decide (p.phase = .started) && s.beforeGate p)).foldl (fun s p => s.dropImage p) s
  let s := (x.inflight.filter (fun p => p.opcode == 0xA0)).foldl (fun s p => s.canForget q.val p.tag) s
  let y := s.host.queues[q]
  let left := y.inflight.filter (fun p => !gone p)
  let s := s.setQueue q { y with resetting := true, inflight := left, replies := [], resetBy := by_ }
  let s := (y.replies.flatMap (·.waiters)).foldl (fun s w => s.finishTag w.1 w.2.1 ⟨stOk, w.2.2, 0⟩) s
  if left.isEmpty then
    let s := (s.setQueue q s.host.queues[q].afterReset).setCell
      { s.cell with partials := s.cell.partials.filter (fun i => i.queue != q.val) }
    by_.foldl (fun s w => if s.resetWaits w then s else s.finishTag w.1 w.2 ⟨stOk, 0, 0⟩) s
  else s

/-- RESET_Q (R55): 1 written to HQ_QCFG.reset_q through the BAR0 mirror. -/
def execResetQ (q : Fin 16) (s : State) : Host.Outcome State Fault Refusal :=
  if s.isReady rdQueues then .next (s.startReset q []) else .next s

/-! ### Management opcodes, group 0x0_ -/

/-- PING (R67): SYS_ID and the firmware version. -/
def execPing (q : Fin 16) (tag : Fin 1024) (s : State) : Host.Outcome State Fault Refusal :=
  .next (s.startPkt q tag 0x00 (fun p t => t.finishOk p sysId t.sys.fwver))

/-- SYS_FAULT (R410, R419). -/
def SysSt.faultWord (y : SysSt) : Word :=
  w32 (y.fault.toNat + 2 ^ 30 * b2n y.faultSupply + 2 ^ 31 * b2n y.faultCaution)

/-- READY_READ (R410): SYS_READY and SYS_FAULT. -/
def execReadyRead (q : Fin 16) (tag : Fin 1024) (s : State) : Host.Outcome State Fault Refusal :=
  .next (s.startPkt q tag 0x01 (fun p t => t.finishOk p (w32 t.sys.ready.toNat) t.sys.faultWord))

/-- An in-flight packet with a tag, on any queue; in a pair also a command that the partner passed on. -/
def State.findTag (s : State) (tag : Nat) : Option Pkt :=
  let all := s.host.queues.toList.flatMap (·.inflight)
  (all.find? (fun p => p.tag == tag)).orElse
    (fun _ => if s.twin.state = .paired then all.find? (fun p => p.tag == partnerTag tag) else none)

/-- A final reply with a tag that still waits, on any queue. -/
def State.replyWaits (s : State) (tag : Nat) : Bool :=
  s.host.queues.toList.any (fun x => x.replies.any (fun r => r.pkt.tag == tag && !r.interim && !r.dup))

/-- The target of an ABORT ends with ABORTED; the ABORT completes once that reply is written. An aborted last fragment
discards the whole partial image of its stream (R72). -/
def State.abortTarget (s : State) (o p : Pkt) : State :=
  let s := if decide (o.phase = .pending) then s.closePresence 0x44 else s
  let s := if s.beforeGate o then s.dropImage o else s
  let s := match streamOf o.opcode with
    | some st => if decide (o.phase = Phase.accepted) && o.lastFrag && o.p0 != 0 && (match s.cell.partOf st with
        | some i => i.queue == o.queue && i.opcode == o.opcode
        | none => false) then s.dropPart st else s
    | none => s
  s.finishN 17 o ⟨stAborted, 0, 0⟩ [] false [(p.queue, p.tag, 0)]

/-- ABORT (R72): outcome 0 aborted, 1 already started, 2 no such tag in flight. A cell image of queue 14 that is being validated or
placed before its presence window has not started (R58, R64). -/
def execAbort (q : Fin 16) (tag : Fin 1024) (s : State) : Host.Outcome State Fault Refusal :=
  .next (s.startPkt q tag 0x02 (fun p t =>
    let t := t.expireGate
    let target := p.p0.toNat % 1024
    match t.findTag target with
    | some o => if decide (o.phase = .started) && !t.beforeGate o then t.finishOk p 1 else t.abortTarget o p
    | none => t.finishOk p (if t.replyWaits target then 1 else 2)))

/-- QUEUE_RESET (R73): resets another queue and completes when the reset is done. -/
def execQueueReset (q : Fin 16) (tag : Fin 1024) (s : State) : Host.Outcome State Fault Refusal :=
  .next (s.startPkt q tag 0x03 (fun p t =>
    if 15 < p.p0.toNat ∨ p.p0.toNat = p.queue then t.finish p (badAt atP0)
    else t.startReset (f16 p.p0.toNat) [(p.queue, p.tag)]))

/-- A log record of 64 bytes. -/
def logRecord (bs : List Byte) : List Byte := (bs ++ List.replicate 64 0).take 64

/-- LOG_READ: records from param0, at most param1 of them. -/
def execLogRead (q : Fin 16) (tag : Fin 1024) (s : State) : Host.Outcome State Fault Refusal :=
  .next (s.startPkt q tag 0x04 (fun p t =>
    if p.p1.toNat = 0 ∨ 4096 < p.p1.toNat then t.finish p (badAt atP1)
    else
      let recs := (t.host.log.drop p.p0.toNat).take p.p1.toNat
      t.finishOk p (w32 recs.length) (w32 t.host.log.length) (recs.flatMap logRecord)))

end Sys2Proof.Machine
end

