-- ==== Sys2Proof/Machine/F32.lean ====
section
/-! DEFINITION. IEEE 754 binary32 arithmetic on words, computed exactly and rounded once, to nearest and ties to even.
The words of the spec that hold binary32 values (R15, R155, R225) go through these. -/

namespace Sys2Proof.Machine

abbrev f32Zero : Word := 0
abbrev f32One : Word := 0x3F800000
abbrev f32Nan : Word := 0x7FC00000
abbrev f32Max : Word := 0x7F7FFFFF

def f32Neg? (w : Word) : Bool := decide (2 ^ 31 ≤ w.toNat)
def f32ExpF (w : Word) : Nat := w.toNat / 2 ^ 23 % 256
def f32ManF (w : Word) : Nat := w.toNat % 2 ^ 23

/-- Not an infinity or a NaN. -/
def f32Finite (w : Word) : Bool := decide (f32ExpF w ≠ 255)
def f32IsNan (w : Word) : Bool := decide (f32ExpF w = 255) && decide (f32ManF w ≠ 0)
def f32IsInf (w : Word) : Bool := decide (f32ExpF w = 255) && decide (f32ManF w = 0)
def f32IsZero (w : Word) : Bool := decide (w.toNat % 2 ^ 31 = 0)

/-- Significand and exponent of a finite value: |value| = significand × 2^exponent. -/
def f32Sig (w : Word) : Nat := if f32ExpF w = 0 then f32ManF w else f32ManF w + 2 ^ 23
def f32Exp (w : Word) : Int := if f32ExpF w = 0 then -149 else (f32ExpF w : Int) - 150

/-- The signed significand. -/
def f32Int (w : Word) : Int := if f32Neg? w then -(f32Sig w : Int) else f32Sig w

/-- Shift right by `k`, rounding to nearest, ties to even. -/
def shrRne (m k : Nat) : Nat :=
  let q := m / 2 ^ k
  let r := m % 2 ^ k
  if k = 0 then m
  else if 2 ^ (k - 1) < r then q + 1 else if r = 2 ^ (k - 1) then q + q % 2 else q

/-- The word with a sign and a magnitude. -/
def f32Pack (neg : Bool) (mag : Nat) : Word := w32 (mag + 2 ^ 31 * b2n neg)

/-- Round ± m × 2^e to binary32. -/
def f32Round (neg : Bool) (m : Nat) (e : Int) : Word :=
  if m = 0 then f32Pack neg 0
  else
    let q := max (e + (Nat.log2 m + 1 : Nat) - 24) (-149)
    let r := if q ≤ e then m * 2 ^ (e - q).toNat else shrRne m (q - e).toNat
    let (r, q) := if r = 2 ^ 24 then (2 ^ 23, q + 1) else (r, q)
    if r < 2 ^ 23 then f32Pack neg r
    else
      let f := (q + 150).toNat
      if 255 ≤ f then f32Pack neg (255 * 2 ^ 23) else f32Pack neg (f * 2 ^ 23 + (r - 2 ^ 23))

/-- A magnitude `m` × 2^`e` in binary32, rounded toward zero. -/
def f32RoundDown (m : Nat) (e : Int) : Word :=
  let k := (max ((Nat.log2 m + 1 : Nat) - 24 : Int) (-149 - e)).toNat
  f32Round false (m / 2 ^ k * 2 ^ k) e

/-- Round an exact v × 2^e; `negZero` is the sign of an exact zero. -/
def f32OfExact (v : Int) (e : Int) (negZero : Bool) : Word :=
  if v = 0 then f32Pack negZero 0 else f32Round (decide (v < 0)) v.natAbs e

/-- An integer times a power of two, rounded. -/
def f32OfInt (v : Int) (e : Int := 0) : Word := f32OfExact v e false

def f32Neg (w : Word) : Word := w ^^^ 0x80000000
def f32Abs (w : Word) : Word := w &&& 0x7FFFFFFF

/-- Sum of two exact values v × 2^e. -/
def exactAdd (v : Int) (e : Int) (w : Int) (g : Int) : Int × Int :=
  let m := min e g
  (v * 2 ^ (e - m).toNat + w * 2 ^ (g - m).toNat, m)

def f32Add (a b : Word) : Word :=
  if f32IsNan a || f32IsNan b then f32Nan
  else if f32IsInf a then (if f32IsInf b && a != b then f32Nan else a)
  else if f32IsInf b then b
  else
    let s := exactAdd (f32Int a) (f32Exp a) (f32Int b) (f32Exp b)
    f32OfExact s.1 s.2 (f32Neg? a && f32Neg? b)

def f32Sub (a b : Word) : Word := if f32IsNan b then f32Nan else f32Add a (f32Neg b)

def f32Mul (a b : Word) : Word :=
  let neg := f32Neg? a != f32Neg? b
  if f32IsNan a || f32IsNan b then f32Nan
  else if f32IsInf a || f32IsInf b then
    if f32IsZero a || f32IsZero b then f32Nan else f32Pack neg (255 * 2 ^ 23)
  else f32Round neg (f32Sig a * f32Sig b) (f32Exp a + f32Exp b)

/-- Fused multiply-add a × b + c. -/
def f32Fma (a b c : Word) : Word :=
  let neg := f32Neg? a != f32Neg? b
  if f32IsNan a || f32IsNan b || f32IsNan c then f32Nan
  else if f32IsInf a || f32IsInf b then
    if f32IsZero a || f32IsZero b || (f32IsInf c && f32Neg? c != neg) then f32Nan else f32Pack neg (255 * 2 ^ 23)
  else if f32IsInf c then c
  else
    let s := exactAdd (f32Int a * f32Int b) (f32Exp a + f32Exp b) (f32Int c) (f32Exp c)
    f32OfExact s.1 s.2 (neg && f32Neg? c)

/-- Quotient, rounded once: 64 quotient bits and a sticky bit decide the rounding. -/
def f32Div (a b : Word) : Word :=
  let neg := f32Neg? a != f32Neg? b
  if f32IsNan a || f32IsNan b then f32Nan
  else if f32IsInf a then (if f32IsInf b then f32Nan else f32Pack neg (255 * 2 ^ 23))
  else if f32IsInf b then f32Pack neg 0
  else if f32IsZero b then (if f32IsZero a then f32Nan else f32Pack neg (255 * 2 ^ 23))
  else
    let n := f32Sig a * 2 ^ 64
    let q := n / f32Sig b * 2 + (if n % f32Sig b = 0 then 0 else 1)
    f32Round neg q (f32Exp a - f32Exp b - 65)

/-- a < b on values that are no NaN (−0 = +0). -/
def f32Lt (a b : Word) : Bool :=
  if f32IsNan a || f32IsNan b then false
  else
    let k := fun (w : Word) => if f32Neg? w then -((w.toNat % 2 ^ 31 : Nat) : Int) else ((w.toNat % 2 ^ 31 : Nat) : Int)
    decide (k a < k b)

def f32Le (a b : Word) : Bool := !f32IsNan a && !f32IsNan b && !f32Lt b a
def f32Eq (a b : Word) : Bool := f32Le a b && f32Le b a
def f32MinW (a b : Word) : Word := if f32Lt b a then b else a
def f32MaxW (a b : Word) : Word := if f32Lt a b then b else a

/-- The value times 2^k as an integer: floor. -/
def f32Floor (w : Word) (k : Int := 0) : Int :=
  let e := f32Exp w + k
  if 0 ≤ e then f32Int w * 2 ^ e.toNat else (f32Int w) / 2 ^ (-e).toNat

/-- Ceiling of the value times 2^k. -/
def f32Ceil (w : Word) (k : Int := 0) : Int := -(f32Floor (f32Neg w) k)

/-- Rational comparison: |value| × den against num. -/
def f32AbsGt (w : Word) (num den : Nat) : Bool :=
  let e := f32Exp w
  if 0 ≤ e then decide (num < f32Sig w * 2 ^ e.toNat * den)
  else decide (num * 2 ^ (-e).toNat < f32Sig w * den)

/-- Round to the nearest integer, ties to even. -/
def f32Rne (w : Word) : Int :=
  let e := f32Exp w
  let m := if 0 ≤ e then f32Sig w * 2 ^ e.toNat else shrRne (f32Sig w) (-e).toNat
  if f32Neg? w then -(m : Int) else m

/-- Round to the nearest integer, ties away from zero. -/
def f32Near (w : Word) : Int :=
  let e := f32Exp w
  let m := if 0 ≤ e then f32Sig w * 2 ^ e.toNat else (f32Sig w + 2 ^ ((-e).toNat - 1)) / 2 ^ (-e).toNat
  if f32Neg? w then -(m : Int) else m

/-- Clamp between two values. -/
def f32Clamp (x lo hi : Word) : Word := f32MinW (f32MaxW x lo) hi

end Sys2Proof.Machine
end

