-- ==== Sys2Proof/Machine/Kinematics.lean ====
section
/-! DEFINITION. Rigid frames in binary32 with fused multiply-add: what the Enlarger evaluates (R203 to R205) and the
motion planner shares. A point is three words, a quaternion four (w, x, y, z), a frame seven (translation, quaternion), a
screw six (ω, v). DESIGN CHOICE (log entry 66): R204 says that the order of operations is fixed and does not give it; these
definitions take the order in which they are written, and a sine or cosine is either neighbour of its exact value. -/

namespace Sys2Proof.Machine

/-- Bit-by-bit integer square root: `k` bits are still to come, `r` holds those found. -/
def isqrtBits (n : Nat) : Nat → Nat → Nat
  | 0, r => r
  | k + 1, r => isqrtBits n k (if (r + 2 ^ k) * (r + 2 ^ k) ≤ n then r + 2 ^ k else r)

/-- The square root of a value that is not negative, rounded once. -/
def f32Sqrt (w : Word) : Word :=
  if f32IsZero w then w
  else if f32IsNan w || f32Neg? w then f32Nan
  else if f32IsInf w then w
  else
    let odd := (f32Exp w) % 2
    let n := f32Sig w * 2 ^ (60 + odd.toNat)
    let r := isqrtBits n 44 0
    f32Round false (2 * r + (if r * r = n then 0 else 1)) ((f32Exp w - odd - 60) / 2 - 1)

/-! ### Sine and cosine (R203)

Angles as integers in units of 2⁻²⁵⁶ rad, reduced to a half turn either way; the series is summed until its terms vanish. -/

/-- π in units of 2⁻²⁵⁶. -/
def piFix : Nat := 0x3243f6a8885a308d313198a2e03707344a4093822299f31d0082efa98ec4e6c89

/-- The product of two such integers, rounded down. -/
def mulFix (a b : Int) : Int := a * b / 2 ^ 256

/-- The sum of a power series from the term `t` of degree `n` on, each term of degree n + 2 being −t·x²/((n + 1)(n + 2)). -/
def seriesFix (xx : Int) : Nat → Nat → Int → Int
  | 0, _, t => t
  | fuel + 1, n, t => t + seriesFix xx fuel (n + 2) (-(mulFix t xx) / (((n + 1) * (n + 2) : Nat) : Int))

/-- An angle in that unit, brought within half a turn of 0. -/
def turnFix (x : Int) : Int :=
  let turn : Int := 2 * piFix
  x - (x + piFix) / turn * turn

/-- A binary32 angle in that unit, within half a turn of 0. -/
def angleFix (w : Word) : Int := turnFix (f32Floor w 256)

/-- The sine and the cosine of an angle in that unit. -/
def sinFix (x : Int) : Int := seriesFix (mulFix x x) 64 1 x
def cosFix (x : Int) : Int := seriesFix (mulFix x x) 64 0 (2 ^ 256)

/-- A value in that unit in binary32: itself where it is one, else the neighbour below or above it in magnitude. -/
def f32Neighbour (v : Int) (up : Bool) : Word :=
  if v = 0 then 0
  else
    let q := max (-256 + (Nat.log2 v.natAbs + 1 : Nat) - 24 : Int) (-149)
    let k := (q + 256).toNat
    let m := v.natAbs / 2 ^ k
    f32Round (decide (v < 0)) (m + b2n (up && v.natAbs % 2 ^ k != 0)) q

/-- The sine and cosine of a binary32 angle, each one of the two neighbours of the exact value (log entry 66). -/
def sine (w : Word) : Word := f32Neighbour (sinFix (angleFix w)) (Config.sineUp w)
def cosine (w : Word) : Word := f32Neighbour (cosFix (angleFix w)) (Config.cosineUp w)

/-! ### Points and quaternions -/

def dot3 (a b : List Word) : Word :=
  f32Fma (a.getD 2 0) (b.getD 2 0) (f32Fma (a.getD 1 0) (b.getD 1 0) (f32Mul (a.getD 0 0) (b.getD 0 0)))

def sub3 (a b : List Word) : List Word := (List.range 3).map (fun i => f32Sub (a.getD i 0) (b.getD i 0))

/-- k·a + b. -/
def axpy3 (k : Word) (a b : List Word) : List Word := (List.range 3).map (fun i => f32Fma k (a.getD i 0) (b.getD i 0))

def cross3 (a b : List Word) : List Word :=
  let c := fun (i j : Nat) => f32Fma (a.getD i 0) (b.getD j 0) (f32Neg (f32Mul (a.getD j 0) (b.getD i 0)))
  [c 1 2, c 2 0, c 0 1]

def zero3 : List Word := [0, 0, 0]

/-- The product of two quaternions. -/
def quatMul (p q : List Word) : List Word :=
  let a := fun (i : Nat) => p.getD i 0
  let b := fun (i : Nat) => q.getD i 0
  let n := fun (i : Nat) => f32Neg (a i)
  [f32Fma (n 3) (b 3) (f32Fma (n 2) (b 2) (f32Fma (n 1) (b 1) (f32Mul (a 0) (b 0)))),
   f32Fma (n 3) (b 2) (f32Fma (a 2) (b 3) (f32Fma (a 1) (b 0) (f32Mul (a 0) (b 1)))),
   f32Fma (a 3) (b 1) (f32Fma (a 2) (b 0) (f32Fma (n 1) (b 3) (f32Mul (a 0) (b 2)))),
   f32Fma (a 3) (b 0) (f32Fma (n 2) (b 1) (f32Fma (a 1) (b 2) (f32Mul (a 0) (b 3))))]

/-- A point turned by a unit quaternion: v + 2w(u × v) + 2u × (u × v). -/
def quatTurn (q v : List Word) : List Word :=
  let u := q.drop 1
  let t := (cross3 u v).map (fun x => f32Add x x)
  let a := axpy3 (q.getD 0 0) t v
  axpy3 f32One (cross3 u t) a

/-- The norm of a quaternion. -/
def quatNorm (q : List Word) : Word :=
  f32Sqrt (f32Fma (q.getD 3 0) (q.getD 3 0) (f32Fma (q.getD 2 0) (q.getD 2 0)
    (f32Fma (q.getD 1 0) (q.getD 1 0) (f32Mul (q.getD 0 0) (q.getD 0 0)))))

/-- A quaternion normalised (R155, R203). -/
def quatUnit (q : List Word) : List Word :=
  let n := quatNorm q
  if n = f32One then q else q.map (fun x => f32Div x n)

/-! ### Frames -/

/-- The identity frame. -/
def frameOne : List Word := [0, 0, 0, f32One, 0, 0, 0]

/-- A point of a frame in the outer frame. -/
def framePoint (f p : List Word) : List Word := axpy3 f32One (quatTurn (f.drop 3) p) f

/-- The product of two frames. -/
def frameMul (f g : List Word) : List Word := framePoint f g ++ quatMul (f.drop 3) (g.drop 3)

/-- exp([S]·q) of a joint screw at a joint position: a translation along v for a prismatic joint (ω = 0), else a turn by q
about the screw's axis with the translation (I − R)(ω × v) + ω(ω · v)q (R203). -/
def expScrew (sc : List Word) (q : Word) : List Word :=
  let w := sc.take 3
  let v := sc.drop 3
  if w.all f32IsZero then axpy3 q v zero3 ++ [f32One, 0, 0, 0]
  else
    let h := f32Mul q (f32OfInt 1 (-1))
    let sn := sine h
    let r := cosine h :: w.map (fun x => f32Mul x sn)
    let a := cross3 w v
    axpy3 (f32Mul (dot3 w v) q) w (sub3 a (quatTurn r a)) ++ r

/-- Ad(F)·S: a screw carried into the outer frame, angular part first (R203). -/
def adjoint (f sc : List Word) : List Word :=
  let w := quatTurn (f.drop 3) (sc.take 3)
  w ++ axpy3 f32One (cross3 f w) (quatTurn (f.drop 3) (sc.drop 3))

/-- A base frame displaced by `d` along its own x axis (R171). -/
def displace (f : List Word) (d : Word) : List Word := frameMul f ([d, 0, 0] ++ [f32One, 0, 0, 0])

/-- The tool pose of a link frame: its translation and its quaternion, normalised with w ≥ 0 (R203). -/
def toolPose (f : List Word) : List Word :=
  let q := quatUnit (f.drop 3)
  f.take 3 ++ (if f32Lt (q.getD 0 0) 0 then q.map f32Neg else q)

/-! ### Paths (R155)

The straight line, the shortest great arc, the circle through three points and the C² cubic of the planner's segments, each over a
parameter whose course in time the spec leaves to the planner. -/

/-- The point between `a` (0) and `b` (1). -/
def lerp (u : Word) (a b : List Word) : List Word := (a.zip b).map (fun x => f32Fma u (f32Sub x.2 x.1) x.1)

/-- The inner product of two lists of words. -/
def dotN (a b : List Word) : Word := (a.zip b).foldl (fun t x => f32Fma x.1 x.2 t) 0

/-- A quaternion, or its negative, which is the same orientation, on the side of `a`. -/
def quatNear (a b : List Word) : List Word := if f32Lt (dotN a b) 0 then b.map f32Neg else b

/-- An orientation on the shortest great arc from `a` to `b`. -/
def quatArc (u : Word) (a b : List Word) : List Word := quatUnit (lerp u a (quatNear a b))

/-- (p − a) / |p − a|², the image of a point in the sphere about `a`. -/
def invert3 (a p : List Word) : List Word := let d := sub3 p a; d.map (fun x => f32Div x (dot3 d d))

/-- The point of the circular arc from `a` (0) through `m` to `b` (1): inversion about `a` carries it to a line. -/
def arcPoint (u : Word) (a m b : List Word) : List Word :=
  let w := lerp u (sub3 (invert3 a m) (invert3 a b)) (invert3 a b)
  if f32IsZero (dot3 w w) then a.take 3 else axpy3 (f32Div u (dot3 w w)) w a

/-- The second derivatives of a cubic spline from its second node on. The list holds, for each node after the first, the span
before it and its value; `p` is the value of the node before, and there the derivative is `d` − `c` × the next one. -/
def splineMoments (last : Word) : Word → Word → Word → List (Word × Word) → List Word
  | _, _, _, [] => []
  | _, _, _, [_] => [last]
  | c, d, p, (h, q) :: (h', q') :: rest =>
    let den := f32Sub (f32Mul (f32OfInt 2) (f32Add h h')) (f32Mul h c)
    let slope := f32Sub (f32Div (f32Sub q' q) h') (f32Div (f32Sub q p) h)
    let c' := f32Div h' den
    let d' := f32Div (f32Sub (f32Mul (f32OfInt 6) slope) (f32Mul h d)) den
    let ms := splineMoments last c' d' q ((h', q') :: rest)
    f32Sub d' (f32Mul c' (ms.headD 0)) :: ms

/-- A cubic between `p` and `q` over the span `h` with second derivatives `m` and `n` at its ends, at `u` from 0 to 1. -/
def cubicAt (u h p q m n : Word) : Word :=
  let v := f32Sub f32One u
  let bend := fun (x : Word) => f32Sub (f32Mul x (f32Mul x x)) x
  f32Fma (f32Div (f32Mul h h) (f32OfInt 6)) (f32Fma (bend v) m (f32Mul (bend u) n)) (f32Fma u (f32Sub q p) p)

/-- A displacement, cut to the length `r`. -/
def within (r : Word) (v : List Word) : List Word :=
  let n := f32Sqrt (dotN v v)
  if f32Le n r then v else v.map (fun x => f32Mul x (f32Div r n))

/-! ### Capsule axes (R205) -/

/-- |a − b|. -/
def pointDistance (a b : List Word) : Word := let d := sub3 a b; f32Sqrt (dot3 d d)

/-- (a − b) / |a − b|. -/
def unitBetween (a b : List Word) : List Word := (sub3 a b).map (fun x => f32Div x (pointDistance a b))

/-- n · (ω × c + v) of a Jacobian column, a contact point and a normal. -/
def gradient (col c n : List Word) : Word := dot3 n (axpy3 f32One (cross3 (col.take 3) c) (col.drop 3))

/-- Two vectors are parallel: their cross product is zero, taken exactly. -/
def parallel3 (a b : List Word) : Bool :=
  let i := fun (l : List Word) (k : Nat) => f32Floor (l.getD k 0) 149
  let c := fun (j k : Nat) => i a j * i b k - i a k * i b j
  decide (c 1 2 = 0) && decide (c 2 0 = 0) && decide (c 0 1 = 0)

/-- The parameters of the closest points of the segments p0 p1 and q0 q1. Where the axes are parallel, it is the pair with
the smallest parameter on the first. -/
def closestParams (p q : List Word) : Word × Word :=
  let unit := fun (x : Word) => f32Clamp x 0 f32One
  let d1 := sub3 (p.drop 3) p
  let d2 := sub3 (q.drop 3) q
  let r := sub3 p q
  let a := dot3 d1 d1
  let e := dot3 d2 d2
  let f := dot3 d2 r
  let c := dot3 d1 r
  let b := dot3 d1 d2
  if f32IsZero a then (0, if f32IsZero e then 0 else unit (f32Div f e))
  else if f32IsZero e then (unit (f32Div (f32Neg c) a), 0)
  else
    let den := f32Fma (f32Neg b) b (f32Mul a e)
    let at0 := f32Div (f32Neg c) a
    let at1 := f32Div (f32Sub b c) a
    let s := if !parallel3 d1 d2 && f32Lt 0 den then unit (f32Div (f32Fma b f (f32Neg (f32Mul c e))) den) else unit (f32MinW at0 at1)
    let t := f32Div (f32Fma b s f) e
    if f32Lt t 0 then (unit at0, 0) else if f32Lt f32One t then (unit at1, f32One) else (s, t)

/-- The closest points of two capsule axes, six words each: first the point on `p`, then the one on `q`. -/
def closestPoints (p q : List Word) : List Word :=
  let x := closestParams p q
  axpy3 x.1 (sub3 (p.drop 3) p) p ++ axpy3 x.2 (sub3 (q.drop 3) q) q

end Sys2Proof.Machine
end

