-- ==== Sys2Proof/Machine/Motion.lean ====
section
/-! DEFINITION. The motion pipeline's commands and chain states (06_motion_pipeline.md): segment records (R155, R156),
the transitions of R158, stops and resumption (R166 to R168), barriers (R169, R170), and group 0x2_. -/

namespace Sys2Proof.Machine

/-! ### Pieces (R164, R165)

The formulas in binary32, each operation rounded, from left to right as R164 and R165 write them, with h = 0.001 and the
powers of τ by repeated multiplication (log entry 67). -/

/-- h = 1 ms, and h². -/
def pieceH : Word := 0x3A83126F
def pieceHH : Word := f32Mul pieceH pieceH

/-- A small integer in binary32. -/
def f32N (n : Int) : Word := f32OfInt n

/-- c3, c4 and c5 of the piece between the knot values (q, v, a) `k0` and `k1` (R164). -/
def quintic (k0 k1 : List Word) : List Word :=
  let q0 := k0.getD 0 0
  let v0 := k0.getD 1 0
  let a0 := k0.getD 2 0
  let v1 := k1.getD 1 0
  let a1 := k1.getD 2 0
  let half := f32OfInt 1 (-1)
  let d := f32Sub (k1.getD 0 0) q0
  let a32 := f32Mul (f32OfInt 3 (-1)) a0
  [f32Sub (f32Sub (f32Mul (f32N 10) d) (f32Mul (f32Add (f32Mul (f32N 6) v0) (f32Mul (f32N 4) v1)) pieceH))
     (f32Mul (f32Sub a32 (f32Mul half a1)) pieceHH),
   f32Add (f32Add (f32Mul (f32N (-15)) d) (f32Mul (f32Add (f32Mul (f32N 8) v0) (f32Mul (f32N 7) v1)) pieceH))
     (f32Mul (f32Sub a32 a1) pieceHH),
   f32Sub (f32Sub (f32Mul (f32N 6) d) (f32Mul (f32Mul (f32N 3) (f32Add v0 v1)) pieceH))
     (f32Mul (f32Mul half (f32Sub a0 a1)) pieceHH)]

/-- A sum of terms from left to right. -/
def sumWords : List Word → Word
  | [] => 0
  | w :: ws => ws.foldl f32Add w

/-- p(τ), p′(τ)/h and p″(τ)/h² of a piece with q₀, v₀, a₀, c3, c4, c5 (R164, R165). -/
def pieceAt (c : List Word) (tau : Word) : List Word :=
  let k := fun (i : Nat) => c.getD i 0
  let t2 := f32Mul tau tau
  let t3 := f32Mul t2 tau
  let t4 := f32Mul t3 tau
  let vh := f32Mul (k 1) pieceH
  let ah := f32Mul (k 2) pieceHH
  let term := fun (n : Int) (i : Nat) (t : Word) => f32Mul (f32Mul (f32N n) (k i)) t
  let p := sumWords [k 0, f32Mul vh tau, f32Mul (f32Div ah (f32N 2)) t2, f32Mul (k 3) t3, f32Mul (k 4) t4,
    f32Mul (k 5) (f32Mul t4 tau)]
  let p1 := sumWords [vh, f32Mul ah tau, term 3 3 t2, term 4 4 t3, term 5 5 t4]
  let p2 := sumWords [ah, term 6 3 tau, term 12 4 t2, term 20 5 t3]
  [p, f32Div p1 pieceH, f32Div p2 pieceHH]

/-- A bank evaluated at an instant of its piece, and at its end (R162, R165). -/
def Bank.eval (b : Bank) (t : Nat) : List Word :=
  pieceAt b.coef (f32Div (f32OfInt ((t - b.start : Nat) : Int)) (f32N 1000000))
def Bank.last (b : Bank) : List Word := pieceAt b.coef f32One

/-- ka × acceleration + kv × velocity, with the gains in units of 2⁻⁸ (R165, R176). -/
def Bank.torque (b : Bank) (v a : Word) : Word :=
  f32Add (f32Mul (f32OfInt (fld b.ff 31 16) (-8)) a) (f32Mul (f32OfInt (fld b.ff 15 0) (-8)) v)

/-- The piece whose interval contains an instant; one on a boundary belongs to the later piece (R165). -/
def MotionSt.bankAt (m : MotionSt) (a : Fin 160) (t : Nat) : Option Bank :=
  match m.bankNext[a] with
  | some b => if b.start ≤ t then some b else m.bankCur[a]
  | none => m.bankCur[a]

/-- The measured position or velocity of an axis in SI units. -/
def State.measuredPos (s : State) (a : Nat) : Word :=
  f32Mul (f32OfInt s.loops.axes[f160 a].pos) s.loops.axes[f160 a].scale
def State.measuredVel (s : State) (a : Nat) : Word :=
  f32Mul (f32OfInt s.loops.axes[f160 a].vel) s.loops.axes[f160 a].scale

/-- Position, velocity and acceleration of an axis at the pinned knot: the end of the piece in force, or the measured position
at standstill before the first piece (R162). -/
def State.pinned (s : State) (a : Nat) : List Word :=
  match s.motion.bankNext[f160 a] with
  | some b => b.last
  | none => [s.measuredPos a, 0, 0]

/-- The pinned joint positions of a chain. -/
def State.pinnedPos (s : State) (c : Nat) : List Word := (List.range 8).map (fun j => (s.pinned (8 * c + j)).getD 0 0)

/-! ### Segment records -/

def segId (r : List Byte) : Word := wordAt r 0
def segType (r : List Byte) : Nat := byteAt r 4
def barMask (r : List Byte) : Nat := u16 r 24
def barId (r : List Byte) : Nat := u16 r 26
def barTimeout (r : List Byte) : Nat := u32 r 28

/-- Flags of a record (R155): blend, spline end, chain base frame. -/
def segBlend (r : List Byte) : Bool := (byteAt r 5).testBit 0
def splineEnd (r : List Byte) : Bool := (byteAt r 5).testBit 1
def segInBase (r : List Byte) : Bool := (byteAt r 5).testBit 2

/-- A segment that moves along the path: any type but DWELL and BARRIER. -/
def isPath (r : List Byte) : Bool := segType r != 4 && segType r != 7

/-- A type with a target pose. -/
def hasPose (r : List Byte) : Bool := isPath r && segType r != 0

/-- The pose of a record, and a scale with 0.0 selecting 1.0 (R155). -/
def segPose (r : List Byte) : List Word := wordsAt r 24 7
def segScale (r : List Byte) (o : Nat) : Word := if f32IsZero (wordAt r o) then f32One else wordAt r o

/-- The next record follows on the path without a stop: the segment blends, or both are of one SPLINE. A SPLINE that another
type follows before its end flag is closed there (R155, R156). -/
def joins (a b : List Byte) : Bool :=
  (isPath a && isPath b && segBlend a) || (segType a == 3 && segType b == 3 && !splineEnd a)

/-- The records that form one run with the first. -/
def runAhead : List (List Byte) → List (List Byte)
  | [] => []
  | [r] => [r]
  | r :: q :: rest => if joins r q then r :: runAhead (q :: rest) else [r]

/-- Offsets of the binary32 values of a record's body, by type (R155). -/
def segFloats (t : Nat) : List Nat :=
  let pose := [24, 28, 32, 36, 40, 44, 48]
  match t with
  | 0 => [24, 28, 32, 36, 40, 44, 48, 52]
  | 1 => pose
  | 2 => pose ++ [56, 60, 64]
  | 3 => pose
  | 4 => [24]
  | 5 => pose ++ [56, 60]
  | 6 => pose ++ [60, 64, 68, 72, 76, 80, 84, 88]
  | _ => []

/-- The exact sum of the squares of words. -/
def sumSquares : List Word → Int × Int
  | [] => (0, 0)
  | w :: ws => let r := sumSquares ws; exactAdd (f32Int w * f32Int w) (2 * f32Exp w) r.1 r.2

/-- v × 2^e lies within num1/10⁶ and num2/10⁶. -/
def exactWithin (v : Int × Int) (lo hi : Int) : Bool :=
  if 0 ≤ v.2 then decide (lo ≤ v.1 * 2 ^ v.2.toNat * 1000000) && decide (v.1 * 2 ^ v.2.toNat * 1000000 ≤ hi)
  else decide (lo * 2 ^ (-v.2).toNat ≤ v.1 * 1000000) && decide (v.1 * 1000000 ≤ hi * 2 ^ (-v.2).toNat)

/-- The norm of a quaternion differs from 1 by at most 10⁻³: its square lies from 0.998001 to 1.002001. -/
def quatOk (ws : List Word) : Bool := exactWithin (sumSquares ws) 998001 1002001

/-- The rules of R155 and R156 that a record breaks, as offsets: the common part, then the body. -/
def segErrors (c : Cell) (ch : ChainRec) (r : List Byte) : List Nat :=
  let t := segType r
  let w := wordAt r
  let need := fun (ok : Bool) (ofs : Nat) => if ok then [] else [ofs]
  let scale := fun (ofs : Nat) => need (f32Finite (w ofs) && f32Le 0 (w ofs) && f32Le (w ofs) f32One) ofs
  let common := need (decide (t ≤ 7)) 4 ++ need (decide (byteAt r 5 < 8)) 5 ++ need (decide (byteAt r 6 = 0)) 6 ++
    need (decide (byteAt r 7 = 0)) 7 ++ scale 8 ++ scale 12 ++ scale 16 ++
    need (f32Finite (w 20) && f32Le 0 (w 20)) 20
  let floats := (segFloats t).flatMap (fun o => need (f32Finite (w o)) o)
  let quat := if t = 1 ∨ t = 2 ∨ t = 3 ∨ t = 5 ∨ t = 6 then need (quatOk [w 36, w 40, w 44, w 48]) 36 else []
  let body :=
    match t with
    | 0 => (List.range 8).flatMap (fun j =>
        if j < ch.axes then
          let lim := (ch.joints.getD j ⟨[], [], []⟩).limits
          need (f32Le (lim.getD 0 0) (w (24 + 4 * j)) && f32Le (w (24 + 4 * j)) (lim.getD 1 0)) (24 + 4 * j)
        else need (f32IsZero (w (24 + 4 * j))) (24 + 4 * j))
    | 1 => match (List.range 44).find? (fun i => byteAt r (52 + i) != 0) with
      | some i => [52 + i]
      | none => []
    | 4 => need (f32Le 0x3A83126F (w 24) && f32Le (w 24) 0x45610000) 24
    | 5 => need (f32Lt 0 (w 56)) 56 ++ need (f32Lt 0 (w 60)) 60
    | 6 => need (decide (128 ≤ u16 r 56) && decide (u16 r 56 < 128 + c.aux.length)) 56
    | 7 => need ((barMask r).testBit ch.chain) 24
    | _ => []
  common ++ floats ++ quat ++ body

/-- The lowest of a list of offsets. -/
def lowest : List Nat → Option Nat
  | [] => none
  | x :: xs => match lowest xs with
    | none => some x
    | some y => some (min x y)

/-- Cut a payload into `n` records of 96 bytes. -/
def segRecords : Nat → List Byte → List (List Byte)
  | 0, _ => []
  | n + 1, bs => bs.take 96 :: segRecords n (bs.drop 96)

/-- A record as it is queued: its quaternion is normalised (R155). -/
def segStored (r : List Byte) : List Byte :=
  if hasPose r then r.take 36 ++ wordBytes (quatUnit (wordsAt r 36 4)) ++ r.drop 52 else r

/-- The first offending payload offset of a list of records from record `i` on. -/
def segFirstBad (c : Cell) (ch : ChainRec) : Nat → List (List Byte) → Option Nat
  | _, [] => none
  | i, r :: rs => match lowest (segErrors c ch r) with
    | some o => some (96 * i + o)
    | none => segFirstBad c ch (i + 1) rs

/-! ### Chain states (R157, R158) -/

/-- The number of a chain state and of a fault code. -/
def ChState.code : ChState → Nat
  | .idle => 0 | .run => 1 | .waitBarrier => 2 | .stopping => 3 | .hold => 4 | .protect => 5 | .fault => 6 | .shed => 7
def ChFault.code : ChFault → Nat
  | .none => 0 | .pathUnreachable => 1 | .barrierTimeout => 2 | .barrierMismatch => 3 | .trackWindow => 4
  | .noContact => 5 | .solveMiss => 6 | .axisFault => 7

/-- The record of a chain in the active cell. -/
def Cell.chainRec (c : Cell) (i : Nat) : Option ChainRec := c.chains.find? (fun r => r.chain == i)

/-- What a chain executes: a recovery move, or the head of its queue (R152, R168). -/
def ChainSt.current (x : ChainSt) : Option (List Byte) :=
  match x.recMove with
  | some m => m.run.head?
  | none => if x.executing then x.queue.head? else none

/-- seg_id of the executing segment, all ones when none (MO_CHSEG). -/
def ChainSt.curId (x : ChainSt) : Word :=
  match x.current with
  | some r => segId r
  | none => 0xFFFFFFFF

/-- The chain is not at standstill: it runs along a path with a feed above 0 or follows a moving frame, or a stop is under way
(MO_STAT.moving). -/
def ChainSt.moving (x : ChainSt) (tick : Nat) : Bool :=
  match x.state with
  | .run => (match x.current with
    | some r => isPath r && decide (0 < x.feed)
    | none => x.follow.isSome)
  | .stopping | .protect => decide (tick < x.stopEnd)
  | _ => false

/-- A percentage as a fraction. -/
def percent (n : Nat) : Word := f32Div (f32OfInt n) (f32N 100)

/-- The limits of a chain's joints with velocity, acceleration and jerk scaled, five words a joint (R155, R167). -/
def ChainRec.scaled (r : ChainRec) (v a j : Word) : List Word :=
  r.joints.flatMap (fun x =>
    let l := fun (i : Nat) => x.limits.getD i 0
    [l 0, l 1, f32Mul v (l 2), f32Mul a (l 3), f32Mul j (l 4)])

/-- The limits of a chain of the active cell, scaled. -/
def State.limitsOf (s : State) (c : Nat) (v a j : Word) : List Word :=
  ((s.theCell.chainRec c).map (fun r => r.scaled v a j)).getD []

/-- Planning ticks of a quick stop: MO_CTRL.qs_pct percent of the deceleration and jerk limits (R167). -/
def State.quickTicks (s : State) (c : Fin 16) : Nat :=
  let q := fld s.motion.ctrlIn 27 20
  Config.stopTicks s.free (s.limitsOf c.val f32One (percent q) (percent q)) s.motion.chains[c].feed

/-- A protective stop: any state but SHED goes to PROTECT and keeps the queue and the path position (R158, R168).
`code` is the fault that the chain takes, or none to keep its own; `at_` is where the path stands at the pinned knot. -/
def ChainSt.toProtect (x : ChainSt) (code : ChFault) (tick ticks : Nat) (at_ : List Word) : ChainSt :=
  if x.state = .shed then x
  else
    { x with state := .protect, fault := if code = .none then x.fault else code, arrived := none, follow := none
             recovery := if x.state = .protect ∨ x.recMove.isSome = true then x.recovery else some (x.sigma, at_)
             recMove := none, rest := [], stopKind := none
             stopEnd := if x.state = .protect then x.stopEnd else if x.moving tick then tick + ticks else tick }

/-- A chain of the pipeline enters PROTECT; a fault code that it takes has its notice (R174). -/
def State.protect (s : State) (c : Fin 16) (code : ChFault) : State :=
  let x := s.motion.chains[c]
  let t := (s.setChain c (x.toProtect code s.tickNo (s.quickTicks c) (s.pinnedPos c.val))).nextFree
  if code = .none ∨ x.state = .shed ∨ x.fault = code then t
  else t.notice .segmentFault c.val (x.curId.toNat * 8 + code.code)

/-- The chain's safety state has returned to RUN: PROTECT becomes HOLD, or FAULT with a fault code (R158). -/
def ChainSt.safetyRun (x : ChainSt) : ChainSt :=
  if x.state = .protect then { x with state := if x.fault = .none then .hold else .fault } else x

/-- A quick stop begins (R167). -/
def ChainSt.beginStop (x : ChainSt) (kind : Nat) (tick ticks : Nat) : ChainSt :=
  { x with state := .stopping, stopKind := some kind, arrived := none, follow := none, rest := []
           stopEnd := if x.moving tick then tick + ticks else tick }

/-- A segment fault with a quick stop, and its notice (R174). -/
def State.segFault (s : State) (c : Fin 16) (f : ChFault) : State :=
  let x := s.motion.chains[c]
  ((s.setChain c { x.beginStop 0 s.tickNo (s.quickTicks c) with fault := f }).nextFree).notice .segmentFault c.val
    (x.curId.toNat * 8 + f.code)

/-- A chain at standstill on a BARRIER, and the record (R169). -/
def ChainSt.atBarrier (x : ChainSt) : Option (List Byte) :=
  if x.state = .waitBarrier ∨ x.state = .run then
    match x.current with
    | some r => if segType r = 7 ∧ x.arrived.isSome then some r else none
    | none => none
  else none

/-- A chain has reached the barrier (id, mask). -/
def State.hasReached (s : State) (c : Nat) (id mask : Nat) : Bool :=
  match s.motion.chains[f16 c].atBarrier with
  | some r => barId r == id && barMask r == mask
  | none => false

/-- A waiting member times out: fault code and FAULT, with a notice (R170, R174). -/
def State.barrierOut (s : State) (c : Fin 16) : State :=
  let x := s.motion.chains[c]
  (s.setChain c { x with state := .fault, fault := .barrierTimeout, arrived := none }).notice .segmentFault c.val
    (x.curId.toNat * 8 + 2)

/-- A member of a barrier was flushed: each member that waits at an instance the flushed queue belonged to is timed
out (R170). -/
def State.cancelBarriers (s : State) (c : Nat) (flushed : List (List Byte)) : State :=
  let bars := flushed.filter (fun r => segType r == 7)
  foldOn (List.range 16) s (fun s m =>
    match s.motion.chains[f16 m].atBarrier with
    | some r => if m != c && (barMask r).testBit c &&
          bars.any (fun b => barId b == barId r && barMask b == barMask r) then s.barrierOut (f16 m) else s
    | none => s)

/-- Discard every queued segment of a chain, the rest of the executing one with it (R167 kind 2, R31). -/
def State.flush (s : State) (c : Fin 16) : State :=
  let x := s.motion.chains[c]
  (s.setChain c { x with queue := [], executing := false, arrived := none, runDone := [], recMove := none }).cancelBarriers
    c.val x.queue

/-- A chain is shed: out of service with an empty queue (R31, R158). Members that wait for it at a barrier wait on
(R170). -/
def State.shedChain (s : State) (c : Fin 16) : State :=
  s.setChain c { s.motion.chains[c] with
    queue := [], executing := false, arrived := none, state := .shed, stopKind := none, runDone := [], recMove := none
    recovery := none, follow := none, rest := [] }

/-- The severity of a stop kind (R160). -/
def stopRank (k : Nat) : Nat := if k = 2 then 3 else if k = 0 then 2 else 1

/-- MOTION_STOP of a kind is applied to a chain at the reference stage (R158, R167). -/
def State.applyStop (s : State) (c : Fin 16) (kind : Nat) : State :=
  let n := s.quickTicks c
  let tick := s.tickNo
  if kind = 2 then
    let stopped := s.motion.chains[c].beginStop 2 tick n
    let s := s.flush c
    let x := s.motion.chains[c]
    match x.state with
    | .hold | .fault => s.setChain c { x with state := .idle, fault := .none, recovery := none }
    | .protect => s.setChain c { x with fault := .none }
    | .run | .waitBarrier => (s.setChain c { x.beginStop 2 tick n with stopEnd := stopped.stopEnd, recovery := none }).nextFree
    | .stopping => s.setChain c { x with stopKind := some 2, recovery := none }
    | .idle | .shed => s
  else
    let x := s.motion.chains[c]
    match kind, x.state with
    | 0, .run => (s.setChain c (x.beginStop 0 tick n)).nextFree
    | 0, .waitBarrier => (s.setChain c (x.beginStop 0 tick n)).nextFree
    | 1, .run => s.setChain c { x with stopKind := some 1 }
    | 1, .waitBarrier => s.setChain c { x with stopKind := some 1 }
    | _, _ => s

/-- Path time that the reference gains in one planning tick at a feed: feed × h (R162, R166). -/
def feedStepTime (feed : Nat) : Word := f32Mul (f32OfInt feed (-16)) pieceH

/-- Planning ticks from the present boundary to the first knot whose path time is `t` or later, at the feed in force; the
path time of the chain is that of knot 1. None at feed 0. -/
def ChainSt.ticksTo (x : ChainSt) (t : Word) : Option Nat :=
  let d := f32Floor t 149 - f32Floor x.sigma 149
  let st := f32Floor (feedStepTime x.feed) 149
  if d ≤ 0 then some 1
  else if st ≤ 0 then none
  else some (1 + ((d + st - 1) / st).toNat)

/-- Planning ticks to standstill of a chain (R167). -/
def ChainSt.toRest (x : ChainSt) (tick : Nat) : Nat :=
  match x.state with
  | .stopping | .protect => x.stopEnd - tick
  | .run => if x.stopKind = some 1 ∧ x.moving tick = true then (x.ticksTo x.segEnd).getD 0 else 0
  | _ => 0

/-- The record of a recovery move: JOINT to the given positions with seg_id all ones, every scale the same (R168). -/
def recoveryRecord (scale : Word) (pos : List Word) : List Byte :=
  [0xFF, 0xFF, 0xFF, 0xFF, 0, 0, 0, 0] ++ wordBytes [scale, scale, scale, 0] ++
    wordBytes ((List.range 8).map (fun j => pos.getD j 0)) ++ List.replicate 40 0

/-- Two positions differ by more than num/den. -/
def apart (a b : Word) (num den : Nat) : Bool :=
  let d := exactAdd (f32Int a) (f32Exp a) (-(f32Int b)) (f32Exp b)
  if 0 ≤ d.2 then decide (num < d.1.natAbs * 2 ^ d.2.toNat * den)
  else decide (num * 2 ^ (-d.2).toNat < d.1.natAbs * den)

/-- A measured position differs from the path by more than 1 mrad, or 0.1 mm for a linear joint, whose screw has ω = 0 (R168,
R203). -/
def State.offPath (s : State) (r : ChainRec) (pos : List Word) : Bool :=
  (List.range r.axes).any (fun j =>
    apart (s.measuredPos (8 * r.chain + j)) (pos.getD j 0) 1
      (if ((r.joints.getD j ⟨[], [], []⟩).screw.take 3).all f32IsZero then 10000 else 1000))

/-- MOTION_RESUME is applied to a held chain (R168). The path goes on from the path time at which the protective stop began;
off its path the chain first recovers, and the recovery move delays the executing segment by the path time that it takes. -/
def State.applyResume (s : State) (c : Fin 16) : State :=
  let x := s.motion.chains[c]
  if x.state ≠ .hold then s
  else match s.theCell.chainRec c.val, x.recovery with
    | some r, some p =>
      let x : ChainSt := { x with state := .run, stopKind := none, sigma := p.1, recMove := none }
      if s.offPath r p.2 then
        let k := percent (fld s.motion.ctrlIn 19 12)
        let m := recoveryRecord k ((List.range 8).map (fun j => if j < r.axes then p.2.getD j 0 else 0))
        let here := (List.range 8).map (fun j => s.measuredPos (8 * c.val + j))
        let t := Config.segmentSpan (r.scaled k k k) here [m] 0
        s.setChain c { x with
          recMove := some ⟨[m], 0, p.1, f32Add p.1 t, here, []⟩, recovery := some (f32Add p.1 t, p.2), rest := p.2
          segFrom := f32Add x.segFrom t, segEnd := f32Add x.segEnd t }
      else s.setChain c { x with recovery := none }
    | _, _ => s.setChain c { x with state := .run, stopKind := none }

/-! ### Segments at the reference stage -/

/-- Planning ticks of a DWELL: its duration rounded up (R155). -/
def dwellTicks (r : List Byte) : Nat :=
  let w := wordAt r 24
  let e := f32Exp w
  if 0 ≤ e then f32Sig w * 2 ^ e.toNat * 1000
  else (f32Sig w * 1000 + (2 ^ (-e).toNat - 1)) / 2 ^ (-e).toNat

/-- BARRIER_TIMEOUT (R170): from the first member's arrival; every waiting member takes the fault. -/
def execBarrierTimeout (c : Fin 16) (s : State) : Host.Outcome State Fault Refusal :=
  .next (s.onExpiry (DelayEntry.ofUser 7 c.val) (fun s => match s.motion.chains[c].atBarrier with
  | none => s
  | some r =>
    let mem := (maskBits 16 (barMask r)).filter (fun m => s.hasReached m (barId r) (barMask r))
    let due := mem.any (fun m =>
      match s.motion.chains[f16 m].current, s.motion.chains[f16 m].arrived with
      | some o, some t => decide (barTimeout o ≠ 0) && decide (t + barTimeout o * 1000000 ≤ s.time.cellNs)
      | _, _ => false)
    if due then foldOn mem s (fun s m => s.barrierOut (f16 m)) else s))

/-! ### Group 0x2_ -/

/-- Segments of one chain are appended in the arrival order of their SEG_PUSH commands, whatever their queue (R74). DESIGN
CHOICE (log entry 24): of two that arrived at one instant on different queues the lower queue's is first. -/
def State.segPushFirst (s : State) (p : Pkt) : Bool :=
  s.host.queues.toList.all (fun x => x.inflight.all (fun o =>
    !(o.opcode == 0x20 && o.p0.toNat % 16 == p.p0.toNat % 16 && decide (o.phase = .accepted) && o.before p)))

/-- The order-14 checks of SEG_PUSH (R74, R154 to R156). -/
def State.segPushCheck (s : State) (p : Pkt) : Option Verdict :=
  let c := p.p0.toNat % 16
  let n := p.p1.toNat
  match s.theCell.chainRec c with
  | none => some (badAt atP0)
  | some ch =>
    let x := s.motion.chains[f16 c]
    if x.state = .shed then some ⟨stRefused, 0, 0⟩
    else if n = 0 ∨ 256 < n ∨ p.payload.length ≠ 96 * n then some (badAt atP1 (ident 1 c))
    else match segFirstBad s.theCell ch 0 (segRecords n p.payload) with
      | some o => some (badAt (w32 o) (ident 1 c))
      | none => if 256 - x.queue.length < n then some ⟨stBusy, 0, w32 (256 - x.queue.length)⟩ else none

/-- SEG_PUSH (R74, R152, R154): all or nothing. -/
def execSegPush (q : Fin 16) (tag : Fin 1024) (s : State) : Host.Outcome State Fault Refusal :=
  match s.candidatePkt q tag 0x20 with
  | none => .next s
  | some p0 =>
    if !s.segPushFirst p0 then .next s
    else .next (s.startPkt q tag 0x20 (fun p t =>
      match t.segPushCheck p with
      | some v => t.finish p v
      | none =>
        let c := f16 (p.p0.toNat % 16)
        let x := t.motion.chains[c]
        let t := t.setChain c { x with queue := x.queue ++ (segRecords p.p1.toNat p.payload).map segStored }
        t.finishOk p p.p1 (w32 (256 - t.motion.chains[c].queue.length))))

/-- A motion command waits for the reference stage that applies it (R160). -/
def State.addMotionCmd (s : State) (m : MotionCmd) : State :=
  s.setMotion { s.motion with cmds := s.motion.cmds ++ [m] }

/-- The chain mask of a motion command: param0 bits [15:0]. -/
def chainMask (p : Pkt) : BitVec 16 := BitVec.ofNat 16 p.p0.toNat

/-- MOTION_STOP (R160, R167): it completes at the reference stage that plans it. -/
def execMotionStop (q : Fin 16) (tag : Fin 1024) (s : State) : Host.Outcome State Fault Refusal :=
  .next (s.startPkt q tag 0x21 (fun p t =>
    if !t.theCell.hasChains (chainMask p).toNat then t.finish p (badAt atP0)
    else if 2 < p.p1.toNat then t.finish p (badAt atP1)
    else t.addMotionCmd (.stop p.queue p.tag (chainMask p) p.p1.toNat)))

/-- A chain may not resume: it is shed, held in the stop bath or under a protective stop (R75). -/
def State.resumeRefused (s : State) (c : Nat) : Bool :=
  let x := s.motion.chains[f16 c]
  decide (x.state = .shed) || decide (x.state = .protect) || s.safety.bath ||
    decide (s.safety.index[f16 c].state ≠ .run)

/-- MOTION_RESUME (R75, R160, R168); BUSY while a brake test of a chain runs (R337). -/
def execMotionResume (q : Fin 16) (tag : Fin 1024) (s : State) : Host.Outcome State Fault Refusal :=
  .next (s.startPkt q tag 0x22 (fun p t =>
    if !t.theCell.hasChains (chainMask p).toNat then t.finish p (badAt atP0)
    else if (chainsOf (chainMask p)).any (fun c => t.safety.index[f16 c].test.isSome) then t.finish p busy
    else if (chainsOf (chainMask p)).any t.resumeRefused then t.finish p ⟨stRefused, 0, 0⟩
    else t.addMotionCmd (.resume p.queue p.tag (chainMask p))))

/-- SEGQ_STATUS (R152). -/
def execSegqStatus (q : Fin 16) (tag : Fin 1024) (s : State) : Host.Outcome State Fault Refusal :=
  .next (s.startPkt q tag 0x23 (fun p t =>
    match t.theCell.chainRec (p.p0.toNat % 16) with
    | none => t.finish p (badAt atP0)
    | some ch =>
      let x := t.motion.chains[f16 ch.chain]
      t.finishOk p (w32 x.queue.length) x.curId))

/-- OVERRIDE_SET (R75, R160, R166). -/
def execOverrideSet (q : Fin 16) (tag : Fin 1024) (s : State) : Host.Outcome State Fault Refusal :=
  .next (s.startPkt q tag 0x24 (fun p t =>
    if !t.theCell.hasChains (chainMask p).toNat then t.finish p (badAt atP0)
    else if 65536 < p.p1.toNat then t.finish p (badAt atP1)
    else t.addMotionCmd (.feed p.queue p.tag (chainMask p) p.p1.toNat)))

/-- A MO_AUXCMD value lies within the limits of its axis (R171); a target of an axis the cell lacks is kept. -/
def Cell.auxCmdOk (c : Cell) (k : Nat) (v : Word) : Bool :=
  f32Finite v && (match c.aux[k]? with
    | none => true
    | some a =>
      if a.kind = 0 then f32Le (f32Abs v) (a.dyn.getD 0 0)
      else (f32IsZero (a.range.getD 0 0) && f32IsZero (a.range.getD 1 0)) ||
        (f32Le (a.range.getD 0 0) v && f32Le v (a.range.getD 1 0)))

/-- MO_AUXCMD (R171): a new target of an auxiliary axis; a value beyond the limits is refused. -/
def execMoAuxcmd (k : Fin 32) (v : Word) (s : State) : Host.Outcome State Fault Refusal :=
  if s.theCell.auxCmdOk k.val v then .next (s.setMotion { s.motion with auxCmd := s.motion.auxCmd.set k v })
  else .next s

end Sys2Proof.Machine
end

