-- ==== Sys2Proof/Machine/SafeGeom.lean ====
section
/-! DEFINITION. The geometry of the two safety channels (R327, R344, R345, R352, R353, R356): their shapes in whole units of
length, the distances between them and the speeds. A length, the place of a chain's point and a joint's axis are exact but for their
last unit, which is the channel's own (log entry 40); everything formed from them is exact and rounded once, distances down,
speeds and radii up (R344). -/

namespace Sys2Proof.Machine

/-! ### What the channels know of an axis -/

/-- Position of an axis in its node's axis list. -/
def axisSlot (a : Nat) : List Nat → Nat
  | [] => 0
  | x :: r => if x = a then 0 else axisSlot a r + 1

/-- The link of a node record. -/
def SepSt.linkOf (p : SepSt) (n : Nat) : LinkSt := mget {} p.links n

/-- The latest accepted safe values of an axis's node, with the axis's place in them. -/
def State.safeOf (s : State) (a : Nat) : Option (LinkState × LinkVal × Nat) :=
  match s.theCell.nodeOfAxis a with
  | some (n, r) => if r.kind = 0 then ((s.sep.linkOf n).last).map (fun v => ((s.sep.linkOf n).state, v, axisSlot a r.axisList))
    else none
  | none => none

/-- Safe position (offset 0) and velocity (offset 1) of an axis from its node's latest accepted frame; free before the first. -/
def State.safeValue (s : State) (a ofs : Nat) : Word :=
  match s.safeOf a with
  | some x => x.2.1.values.getD (2 * x.2.2 + ofs) 0
  | none => Config.safeFree a ofs

/-- A binary32 magnitude times `n / d`, rounded up. -/
def mulCeil (w : Word) (n d : Nat) : Nat :=
  let e := f32Exp w
  if 0 ≤ e then ceilDiv (f32Sig w * n * 2 ^ e.toNat) d else ceilDiv (f32Sig w * n) (d * 2 ^ (-e).toNat)

/-- An axis's velocity in mrad/s or mm/s, rounded away from zero: the safe velocity of the frame taken at the latest intake, or
the measured one where its link has none (R329, R358, log entry 12). -/
def State.axisVel (s : State) (a : Nat) : Int :=
  let x := s.loops.axes[f160 a]
  let own : Int := x.vel.sign * (mulCeil x.scale (x.vel.natAbs * 1000) 1 : Nat)
  match s.theCell.nodeOfAxis a with
  | some (n, r) => if r.kind ≠ 0 then own
    else match (s.sep.linkOf n).taken with
      | some v => sgn 32 (v.values.getD (2 * axisSlot a r.axisList + 1) 0).toNat
      | none => own
  | none => own

/-- Its magnitude. -/
def State.axisSpeed (s : State) (a : Nat) : Nat := (s.axisVel a).natAbs

/-! ### Points, segments and distances -/

/-- Units of length per mm: 2⁻⁴ mm in channel 1, 2⁻² mm in channel 2 (R344). -/
def sepUnit (ch : Nat) : Nat := if ch = 1 then 16 else 4

/-- A length of `v` times 2⁻²⁵⁶ m in the channel's unit. -/
def chLength (ch : Nat) (v : Int) : Int :=
  let x := v * (1000 * sepUnit ch : Nat)
  x / 2 ^ 256 + (b2n (decide (x % 2 ^ 256 ≠ 0) && Config.safeUp ch v) : Nat)

/-- A point or a vector in a channel's unit. -/
structure Pt where
  x : Int
  y : Int
  z : Int
  deriving DecidableEq, Repr

def Pt.add (a b : Pt) : Pt := ⟨a.x + b.x, a.y + b.y, a.z + b.z⟩
def Pt.sub (a b : Pt) : Pt := ⟨a.x - b.x, a.y - b.y, a.z - b.z⟩
def Pt.smul (k : Int) (a : Pt) : Pt := ⟨k * a.x, k * a.y, k * a.z⟩
def Pt.dot (a b : Pt) : Int := a.x * b.x + a.y * b.y + a.z * b.z
def Pt.cross (a b : Pt) : Pt := ⟨a.y * b.z - a.z * b.y, a.z * b.x - a.x * b.z, a.x * b.y - a.y * b.x⟩
def Pt.sq (a : Pt) : Nat := (a.dot a).toNat

/-- A shape: the segment from `p` to `q` and a radius. A sphere has `p = q`. -/
structure Seg where
  p : Pt
  q : Pt
  r : Nat
  deriving DecidableEq, Repr

/-- The integer square root, rounded down and rounded up. -/
def isqrt (x : Nat) : Nat := isqrtBits x (x.log2 / 2 + 1) 0
def isqrtUp (x : Nat) : Nat := if isqrt x * isqrt x = x then isqrt x else isqrt x + 1

/-- The smallest of some values, none below `m`'s. -/
def leastOf (m : Nat) (xs : List Nat) : Nat := xs.foldl min m

/-- The square of the distance from `c` to the segment from `a` to `b`, rounded down. -/
def pointSegSq (c a b : Pt) : Nat :=
  let d := b.sub a
  let t := (c.sub a).dot d
  let l := d.dot d
  if t ≤ 0 ∨ l = 0 then (c.sub a).sq
  else if l ≤ t then (c.sub b).sq
  else ((((c.sub a).dot (c.sub a)) * l - t * t) / l).toNat

/-- The square of the distance between two segments, rounded down: an end point of one is nearest to the other, or both
nearest points lie inside, on the common normal. -/
def segSegSq (a b : Seg) : Nat :=
  let d := a.q.sub a.p
  let e := b.q.sub b.p
  let n := d.cross e
  let r := b.p.sub a.p
  let nn := n.dot n
  let s := (r.cross e).dot n
  let t := (r.cross d).dot n
  let inside := decide (0 < nn) && decide (0 ≤ s) && decide (s ≤ nn) && decide (0 ≤ t) && decide (t ≤ nn)
  leastOf (pointSegSq a.p b.p b.q)
    ([pointSegSq a.q b.p b.q, pointSegSq b.p a.p a.q, pointSegSq b.q a.p a.q] ++
      (if inside then [(r.dot n * r.dot n / nn).toNat] else []))

/-- The distance between two shapes, rounded down; negative where they meet. -/
def Seg.gap (a b : Seg) : Int := (isqrt (segSegSq a b) : Int) - a.r - b.r

/-! ### Zones (R356) -/

/-- One coordinate of a segment and of a box: start, difference, minimum, maximum. -/
structure Span where
  a  : Int
  d  : Int
  lo : Int
  hi : Int

/-- How far the coordinate at parameter `n / m` lies outside, times `m`. -/
def Span.excess (x : Span) (n m : Int) : Int :=
  max 0 (max (x.lo * m - (x.a * m + x.d * n)) (x.a * m + x.d * n - x.hi * m))

/-- The square of the distance from a segment to a box, rounded down. The distance is convex and quadratic in pieces along the
segment, so its least value lies at an end, where a coordinate enters or leaves the box, or where a piece is stationary. -/
def boxSq (s : Seg) (lo hi : Pt) : Nat :=
  let spans : List Span := [⟨s.p.x, s.q.x - s.p.x, lo.x, hi.x⟩, ⟨s.p.y, s.q.y - s.p.y, lo.y, hi.y⟩, ⟨s.p.z, s.q.z - s.p.z, lo.z, hi.z⟩]
  let edges := spans.flatMap (fun x => [(x.d * (x.lo - x.a), x.d * x.d), (x.d * (x.hi - x.a), x.d * x.d)])
  let rests := spans.foldl (fun (ts : List (Int × Int)) x => ts.flatMap (fun t =>
    [t, (t.1 + x.d * (x.lo - x.a), t.2 + x.d * x.d), (t.1 + x.d * (x.hi - x.a), t.2 + x.d * x.d)])) [(0, 0)]
  let at_ := fun (t : Int × Int) =>
    ((spans.map (fun x => x.excess t.1 t.2 * x.excess t.1 t.2)).sum / (t.2 * t.2)).toNat
  leastOf (at_ (0, 1)) (((1, 1) :: (edges ++ rests).filter (fun t =>
    decide (0 < t.2) && decide (0 ≤ t.1) && decide (t.1 ≤ t.2))).map at_)

/-- The distance from a point to a vertical cylinder, rounded down. -/
def cylinderPoint (c : Pt) (x y : Int) (r : Nat) (lo hi : Int) : Nat :=
  let f := (c.x - x) * (c.x - x) + (c.y - y) * (c.y - y)
  let h := max 0 (max (lo - c.z) (c.z - hi))
  if f ≤ (r * r : Nat) then h.toNat
  else isqrt ((f + (r * r : Nat) + h * h).toNat - isqrtUp (4 * r * r * f.toNat))

/-- The last `n` up to the given bits for which `f` still falls from `n - 1` to `n`: where a convex `f` is least. -/
def valley (f : Nat → Nat) : Nat → Nat → Nat
  | 0, n => n
  | k + 1, n => valley f k (if f (n + 2 ^ k) < f (n + 2 ^ k - 1) then n + 2 ^ k else n)

/-- The distance from a segment to a vertical cylinder, rounded down. It is convex along the segment: the least of 2³² steps
is found, and what half a step can hide is taken off. -/
def cylinderSeg (a : Seg) (x y : Int) (r : Nat) (lo hi : Int) : Nat :=
  let m : Nat := 2 ^ 32
  let k : Nat := 2 ^ 40
  let f := fun (n : Nat) =>
    let n := min n m
    cylinderPoint (((a.p.smul (m - n : Nat)).add (a.q.smul n)).smul k) (x * (m * k : Nat)) (y * (m * k : Nat)) (r * (m * k))
      (lo * (m * k : Nat)) (hi * (m * k : Nat))
  (f (valley f 33 0) - (isqrtUp (a.q.sub a.p).sq * k + 4)) / (m * k)

/-- The distance from a shape to a zone's volume in a channel's unit; negative where they meet (R353, R356). A length of the
zone is the channel's conversion, a radius is rounded up (R344). -/
def ZoneRec.gap (z : ZoneRec) (ch unit : Nat) (s : Seg) : Int :=
  let g := fun (i : Nat) => chLength ch (f32Floor (z.geom.getD i 0) 256)
  if z.shape = 0 then (isqrt (boxSq s ⟨g 0, g 1, g 2⟩ ⟨g 3, g 4, g 5⟩) : Int) - s.r
  else
    let r := mulCeil (z.geom.getD 3 0) (1000 * unit) 1
    ((if s.p = s.q then cylinderPoint s.p (g 0) (g 1) r (g 4) (g 5) else cylinderSeg s (g 0) (g 1) r (g 4) (g 5) : Nat) : Int) - s.r

/-! ### Poses (R203, R344)

Frames in units of 2⁻²⁵⁶: the translation and the images of the three unit vectors. -/

structure FixFrame where
  t : Pt
  x : Pt
  y : Pt
  z : Pt
  deriving DecidableEq, Repr

/-- Three words in that unit. -/
def fixPt (ws : List Word) (o : Nat) : Pt :=
  let f := fun (i : Nat) => f32Floor (ws.getD (o + i) 0) 256
  ⟨f 0, f 1, f 2⟩

def Pt.fixMul (k : Int) (a : Pt) : Pt := ⟨mulFix k a.x, mulFix k a.y, mulFix k a.z⟩
def Pt.fixDot (a b : Pt) : Int := a.dot b / 2 ^ 256
def Pt.fixCross (a b : Pt) : Pt := let c := a.cross b; ⟨c.x / 2 ^ 256, c.y / 2 ^ 256, c.z / 2 ^ 256⟩

/-- A vector turned into the outer frame, a point carried into it, and the product of two frames. -/
def FixFrame.turn (f : FixFrame) (p : Pt) : Pt := (f.x.fixMul p.x).add ((f.y.fixMul p.y).add (f.z.fixMul p.z))
def FixFrame.point (f : FixFrame) (p : Pt) : Pt := f.t.add (f.turn p)
def FixFrame.mul (f g : FixFrame) : FixFrame := ⟨f.point g.t, f.turn g.x, f.turn g.y, f.turn g.z⟩

/-- The frame of seven words: a translation and a quaternion, normalised. -/
def fixFrame (ws : List Word) : FixFrame :=
  let w := f32Floor (ws.getD 3 0) 256
  let u := fixPt ws 4
  let n := w * w + u.dot u
  let by_ := fun (p : Pt) => if n = 0 then p else ⟨p.x * 2 ^ 256 / n, p.y * 2 ^ 256 / n, p.z * 2 ^ 256 / n⟩
  let d := w * w - u.dot u
  ⟨fixPt ws 0, by_ ⟨d + 2 * u.x * u.x, 2 * (u.x * u.y + w * u.z), 2 * (u.x * u.z - w * u.y)⟩,
    by_ ⟨2 * (u.x * u.y - w * u.z), d + 2 * u.y * u.y, 2 * (u.y * u.z + w * u.x)⟩,
    by_ ⟨2 * (u.x * u.z + w * u.y), 2 * (u.y * u.z - w * u.x), d + 2 * u.z * u.z⟩⟩

/-- exp([S]·q) of a joint screw: a shift along v where ω = 0, else a turn about the screw's axis (R203). -/
def expFix (sc : List Word) (q : Int) : FixFrame :=
  let w := fixPt sc 0
  let v := fixPt sc 3
  let one : Int := 2 ^ 256
  if w = ⟨0, 0, 0⟩ then ⟨v.fixMul q, ⟨one, 0, 0⟩, ⟨0, one, 0⟩, ⟨0, 0, one⟩⟩
  else
    let c := cosFix (turnFix q)
    let sn := sinFix (turnFix q)
    let turn := fun (p : Pt) => (p.fixMul c).add (((w.fixCross p).fixMul sn).add (w.fixMul (mulFix (w.fixDot p) (one - c))))
    let a := w.fixCross v
    ⟨(a.sub (turn a)).add (w.fixMul (mulFix (w.fixDot v) q)), turn ⟨one, 0, 0⟩, turn ⟨0, one, 0⟩, turn ⟨0, 0, one⟩⟩

/-! ### Shapes of chains and bodies (R344, R352) -/

/-- The auxiliary axis that displaces a chain's base. -/
def Cell.trackOf (c : Cell) (chain : Nat) : Option (Nat × AuxRec) :=
  ((List.range c.aux.length).filterMap (fun k => (c.aux[k]?).map (fun a => (k, a)))).find?
    (fun a => a.2.kind == 1 && a.2.frameChain == chain)

/-- The safe position of an axis in units of 2⁻²⁵⁶ rad or m: a safety frame gives it in µrad or µm. -/
def State.safePos (s : State) (a : Nat) : Int := sgn 32 (s.safeValue a 0).toNat * 2 ^ 256 / 1000000

/-- A chain's base, displaced by its track along its own x axis (R171). -/
def State.safeBase (s : State) (r : ChainRec) : FixFrame :=
  let f := fixFrame r.base
  match s.theCell.trackOf r.chain with
  | some a => { f with t := f.t.add (f.x.fixMul (s.safePos (128 + a.1))) }
  | none => f

/-- The product of exponentials: the frame before each joint from `j` on, and the one after the last (R203). -/
def State.poseFrom (s : State) (r : ChainRec) : Nat → FixFrame → List Joint → List FixFrame
  | _, f, [] => [f]
  | j, f, g :: rest => f :: s.poseFrom r (j + 1) (f.mul (expFix g.screw (s.safePos (8 * r.chain + j)))) rest

/-- A chain as a channel sees it: the channel, the record, and the frames of its pose from the safe positions (R344). -/
structure SafeChain where
  ch     : Nat
  body   : ChainRec
  frames : List FixFrame
  deriving DecidableEq, Repr

def State.safeChain (s : State) (ch : Nat) (r : ChainRec) : SafeChain := ⟨ch, r, s.poseFrom r 0 (s.safeBase r) (r.joints.take r.axes)⟩

def SafeChain.frame (v : SafeChain) (j : Nat) : FixFrame := v.frames.getD j (fixFrame v.body.base)
def SafeChain.joint (v : SafeChain) (j : Nat) : Joint := v.body.joints.getD j ⟨[], [], []⟩

/-- A point that a link carries, in the channel's unit. -/
def SafeChain.point (v : SafeChain) (link : Nat) (p : List Word) : Pt :=
  let x := ((v.frame (link + 1)).mul (fixFrame (v.joint link).link)).point (fixPt p 0)
  ⟨chLength v.ch x.x, chLength v.ch x.y, chLength v.ch x.z⟩

/-- A direction in units of 2⁻³⁰. -/
def chDir (ch : Nat) (p : Pt) : Pt :=
  let f := fun (v : Int) => v / 2 ^ 226 + ((b2n (decide (v % 2 ^ 226 ≠ 0) && Config.safeUp ch v) : Nat) : Int)
  ⟨f p.x, f p.y, f p.z⟩

/-- A point of a joint's axis and its direction; after the last joint, the track's. -/
def SafeChain.axis (v : SafeChain) (j : Nat) : Pt × Pt :=
  let pt := fun (x : Pt) => (⟨chLength v.ch x.x, chLength v.ch x.y, chLength v.ch x.z⟩ : Pt)
  if v.body.axes ≤ j then (pt (v.frame 0).t, chDir v.ch (v.frame 0).x)
  else
    let w := fixPt (v.joint j).screw 0
    let u := fixPt (v.joint j).screw 3
    (pt ((v.frame j).point (w.fixCross u)), chDir v.ch ((v.frame j).turn (if w = ⟨0, 0, 0⟩ then u else w)))

/-- The shapes of a chain in a channel, each with its link: capsules in channel 1, spheres in channel 2 (R16). -/
def State.chainShapes (s : State) (ch : Nat) (r : ChainRec) : List (Nat × Seg) :=
  let v := s.safeChain ch r
  (s.theCell.caps.filter (fun k => k.chain == r.chain && k.skind + 1 == ch)).map (fun k =>
    let p := v.point k.link k.p0
    (k.link, ⟨p, if ch = 1 then v.point k.link k.p1 else p, mulCeil k.radius (1000 * sepUnit ch) 1⟩))

/-- The end points of a body's capsules, times `k`. -/
def Body.ends (b : Body) (k : Int) : List Pt :=
  b.caps.flatMap (fun c => [⟨k * c.getD 0 0, k * c.getD 1 0, k * c.getD 2 0⟩, ⟨k * c.getD 3 0, k * c.getD 4 0, k * c.getD 5 0⟩])

/-- The bounding sphere of a body (R352): the centre of the box around the end points, and the largest distance from it plus
the largest radius, rounded up. The capsules are in units of 2 mm, the sphere in units of 2⁻² mm. -/
def Body.sphere (b : Body) : Seg :=
  let es := b.ends 1
  let mid := fun (f : Pt → Int) => 4 * ((es.map f).foldl min ((es.map f).headD 0) + (es.map f).foldl max ((es.map f).headD 0))
  let c : Pt := ⟨mid (·.x), mid (·.y), mid (·.z)⟩
  ⟨c, c, isqrtUp (((b.ends 8).map (fun e => (e.sub c).sq)).foldl max 0) + 8 * ((b.caps.map (fun k => (k.getD 6 0).toNat)).foldl max 0)⟩

/-- The shapes of a body in a channel: its capsules in channel 1, its bounding sphere in channel 2 (R352). -/
def Body.shapes (b : Body) (ch : Nat) : List Seg :=
  if ch = 1 then b.caps.map (fun c => ⟨⟨32 * c.getD 0 0, 32 * c.getD 1 0, 32 * c.getD 2 0⟩,
    ⟨32 * c.getD 3 0, 32 * c.getD 4 0, 32 * c.getD 5 0⟩, 32 * (c.getD 6 0).toNat⟩)
  else [b.sphere]

/-- The smallest of some distances; 65,536 mm where there is none. -/
def leastGap (unit : Nat) (xs : List Int) : Int := xs.foldl min (xs.headD (65536 * unit : Nat))

/-- The distance between a chain's shapes and a body's shapes. -/
def bodyGap (ch : Nat) (chain : List (Nat × Seg)) (b : Body) : Int :=
  leastGap (sepUnit ch) (chain.flatMap (fun a => (b.shapes ch).map (fun x => a.2.gap x)))

/-- The distance between a chain's shapes and a zone's volume. -/
def zoneGap (ch : Nat) (chain : List (Nat × Seg)) (z : ZoneRec) : Int :=
  leastGap (sepUnit ch) (chain.map (fun a => z.gap ch (sepUnit ch) a.2))

/-- A body is inside a zone when one of its capsules (channel 1), or its bounding sphere (channel 2), meets it (R356). -/
def Body.inZone (b : Body) (ch : Nat) (z : ZoneRec) : Bool :=
  (b.shapes ch).any (fun x => decide (z.gap ch (sepUnit ch) x ≤ 0))

/-! ### Speeds (R327, R345) -/

/-- A joint turns when its screw has a non-zero rotation part. -/
def Joint.revolute (j : Joint) : Bool := (j.screw.take 3).any (fun w => !f32IsZero w)

/-- Lever radius of a revolute joint in the channel's unit, rounded up (R345): the largest distance from its axis of an end
point or centre on its link or above, plus that shape's radius. -/
def SafeChain.lever (v : SafeChain) (shapes : List (Nat × Seg)) (j : Nat) : Nat :=
  let x := v.axis j
  let dist := fun (p : Pt) => ceilDiv (isqrtUp ((p.sub x.1).cross x.2).sq) (2 ^ 30)
  ((shapes.filter (fun a => decide (j ≤ a.1))).map (fun a => max (dist a.2.p) (dist a.2.q) + a.2.r)).foldl max 0

/-- Chain speed v_r and full speed v_full in mm/s, rounded up (R345). -/
def State.chainSpeeds (s : State) (r : ChainRec) (ch : Nat) : Nat × Nat :=
  let v := s.safeChain ch r
  let shapes := s.chainShapes ch r
  let q := fun (a : Nat) => (sgn 32 (s.safeValue a 1).toNat).natAbs
  let joints := (List.range r.axes).map (fun j =>
    let g := r.joints.getD j ⟨[], [], []⟩
    let vmax := g.limits.getD 2 0
    if g.revolute then
      let lever := v.lever shapes j
      (ceilDiv (q (8 * r.chain + j) * lever) (1000 * sepUnit ch), mulCeil vmax lever (sepUnit ch))
    else (q (8 * r.chain + j), mulCeil vmax 1000 1))
  let track := match s.theCell.trackOf r.chain with
    | some a => [(q (128 + a.1), mulCeil (a.2.dyn.getD 0 0) 1000 1)]
    | none => []
  (joints ++ track).foldl (fun (m : Nat × Nat) x => (m.1 + x.1, m.2 + x.2)) (0, 0)

/-- The speed in mm/s, rounded up, of a point that a link carries: the joints up to the link turn or shift it, the track
shifts it. -/
def State.pointSpeed (s : State) (v : SafeChain) (r : ChainRec) (link : Nat) (p : Pt) : Nat :=
  let unit := sepUnit v.ch
  let shift := fun (a j : Nat) => ((v.axis j).2).smul (s.axisVel a * (1000 * unit : Nat))
  let joint := fun (j : Nat) =>
    let a := 8 * r.chain + j
    let x := v.axis j
    if (r.joints.getD j ⟨[], [], []⟩).revolute then (x.2.cross (p.sub x.1)).smul (s.axisVel a) else shift a j
  let track := match s.theCell.trackOf r.chain with
    | some a => [shift (128 + a.1) r.axes]
    | none => []
  let sum := (((List.range r.axes).filter (fun j => decide (j ≤ link))).map joint ++ track).foldl Pt.add ⟨0, 0, 0⟩
  ceilDiv (isqrtUp sum.sq) (2 ^ 30 * 1000 * unit)

/-- The speed that SLS monitors (R327): of the tool point in channel 1, the largest of the chain's sphere centres in
channel 2. An index that the cell does not use as a chain has no such point. -/
def State.slsSpeedOf (s : State) (ch : Nat) (c : Fin 16) : Nat :=
  match s.theCell.chainRec c.val with
  | none => 0
  | some r =>
    let v := s.safeChain ch r
    if ch = 1 then s.pointSpeed v r (r.axes - 1) (v.point (r.axes - 1) zero3)
    else ((s.chainShapes 2 r).map (fun a => s.pointSpeed v r a.1 a.2.p)).foldl max 0

end Sys2Proof.Machine
end

