-- ==== Sys2Proof/Machine/Safety.lean ====
section
/-! DEFINITION. Safety architecture and local safety I/O (13_safety_architecture_and_local_io.md): stops, the chain
safety states (R328, R329), the stop bath (R330), safe inputs (R321 to R324), functions (R325, R326), the local E-stop
(R332), the safety reset (R333 to R335) and the brakes (R336 to R339). Both channels sample one view of the lines;
where they can differ, the commands carry what each saw (log entry 11). -/

namespace Sys2Proof.Machine

/-! ### Axes of a chain index -/

/-- Auxiliary axes that SF_AUXSTO maps to an index (R319). -/
def SafetySt.auxOf (f : SafetySt) (c : Nat) : List Nat :=
  (List.range 32).filter (fun k =>
    let b := f.auxsto[(⟨k / 4 % 8, by omega⟩ : Fin 8)].toNat / 2 ^ (8 * (k % 4)) % 256
    b.testBit 7 && b % 16 == c)

/-- The axes that a chain index stops: number, velocity max and acceleration max. -/
def State.indexAxes (s : State) (c : Fin 16) : List (Nat × Word × Word) :=
  (match s.theCell.chainRec c.val with
   | some r => (List.range r.axes).map (fun j =>
       let l := (r.joints.getD j ⟨[], [], []⟩).limits
       (8 * c.val + j, l.getD 2 0, l.getD 3 0))
   | none => []) ++
  (s.safety.auxOf c.val).flatMap (fun k => match s.theCell.aux[k]? with
    | some r => [(128 + k, r.dyn.getD 0 0, r.dyn.getD 1 0)]
    | none => [])

/-! ### Outputs (R318, R328, R329) -/

/-- Both channels' enables of the STO pair of an index follow its state (R318, R317); a device in OUT holds every output at
stop (R372). -/
def State.drive (s : State) (c : Fin 16) : State :=
  let x := s.safety.index[c]
  let on := (decide (x.state ≠ .sto) || x.lifted) && decide (s.twin.state ≠ .out)
  let f := s.safety
  s.setSafety { f with
    en1 := if on && f.ch1Ok then bvSet f.en1 c.val else bvClr f.en1 c.val
    en2 := if on && f.ch2Ok then bvSet f.en2 c.val else bvClr f.en2 c.val }

/-- Both STO lines of a pair are high: torque is permitted (R318). -/
def State.stoOn (s : State) (p : Fin 16) : Bool :=
  s.safety.en1.getLsbD p.val && s.safety.en2.getLsbD p.val

/-- The brake of an index is commanded released: in RUN and SS1, after STO until its delay is over, and not between
the start of a brake test and its step 5 (R329, R336, R338). -/
def State.brakeOpen (s : State) (c : Fin 16) : Bool :=
  let x := s.safety.index[c]
  decide (s.twin.state ≠ .out) && match x.test with
  | some t => decide (5 ≤ t.step)
  | none => decide (x.state ≠ .sto) || (match x.closeAt with
    | some t => decide (s.now < t)
    | none => false)

/-- A brake test that a stop interrupts ends as aborted and is due again (R339). -/
def IndexSt.abortTest (x : IndexSt) (now : Nat) : IndexSt :=
  match x.test with
  | none => x
  | some _ => { x with test := none, lifted := false, result := .aborted, tests := x.tests + 1
                       due := some (x.due.getD now) }

/-- The test torque of a joint: torque_pct percent of its torque max, in the slot word format 2⁻¹⁶ (R178, R338). -/
def testTorque (pct : Nat) (tmax : Word) : Int := f32Rne (f32Mul (f32Mul tmax (f32OfInt pct)) (f32Div (f32OfInt 65536) (f32OfInt 100)))

/-- Set the test torque on every axis of an index (R338), `num` of 50 ms of a ramp: 0 takes it off, 50 is all of it, with a sign. -/
def State.setTestTorque (s : State) (c : Fin 16) (num : Int) : State :=
  match s.theCell.chainRec c.val with
  | none => s
  | some r =>
    foldOn (List.range r.axes) s (fun s j =>
      let a := f160 (8 * c.val + j)
      let x := s.loops.axes[a]
      let t := num * testTorque (fld s.safety.index[c].brk 17 11) ((r.joints.getD j ⟨[], [], []⟩).limits.getD 5 0) / 50
      s.setAxis a (if x.torqueCmd then { x with cmd := t } else { x with cmd := 0, tff := t }))

/-- The loops of some axes start again from the reset state (R182). -/
def State.restartAxes (s : State) (axes : List Nat) : State :=
  let fix := fun (l : LoopSlot) => if l.valid && axes.contains l.axis then
    { l with i := 0, d := 0, e := 0, fPrev := 0, first := true } else l
  s.setLoops { s.loops with engines := foldOn (List.range 16) s.loops.engines (fun v e => vmod v (f16 e) (fun g =>
    { g with slots := foldOn (List.range 32) g.slots (fun w k => vmod w (f32i k) fix) })) }

/-- The loops of an index's axes start again from the reset state. -/
def State.restartLoops (s : State) (c : Fin 16) : State := s.restartAxes ((s.indexAxes c).map (·.1))

/-- A stop interrupts the brake test of an index: the test torque goes, the loops restart and the result is reported (R339). -/
def State.abortTest (s : State) (c : Fin 16) : State :=
  let x := s.safety.index[c]
  match x.test with
  | none => s
  | some _ => (((s.setTestTorque c 0).restartLoops c).setIndex c (x.abortTest s.time.cellNs)).notice .brakeTest c.val 3

/-- An index goes to STO: its brake closes after brk_delay, or at once (R329, R332). -/
def State.toSto (s : State) (c : Fin 16) (cause : Nat) (fast : Bool) : State :=
  let s := s.abortTest c
  let x := s.safety.index[c]
  let wait := if fast then 0 else fld x.cfg 11 8 * 10000000
  let s := if decide (x.state = .run) then s.protect c .none else s
  (s.setIndex c { x with state := .sto, cause := cause, ss1At := none, closeAt := some (s.now + wait) }).drive c

/-- An index goes to SS1: a quick stop is asked for and each axis's speed is recorded (R329). -/
def State.toSs1 (s : State) (c : Fin 16) (cause : Nat) : State :=
  let s := s.abortTest c
  let x := s.safety.index[c]
  let s := (s.protect c .none).addMotionCmd (.quick c.val)
  (s.setIndex c { x with state := .ss1, cause := cause, ss1At := some s.now, still := 0
                         v0 := (s.indexAxes c).map (fun a => s.axisSpeed a.1) }).drive c

/-- The stop is left only by a safety reset (R326, R335): not a kind-3 function's, which is left automatically, nor causes 36
and 37, which a brake test's pass leaves (R339). -/
def State.stopLatches (s : State) (cause : Nat) : Bool :=
  !(decide (1 ≤ cause) && decide (cause ≤ 32) && fld (s.safety.funcs[f32i (cause - 1)]) 31 29 == 3) &&
    decide (cause ≠ 36) && decide (cause ≠ 37)

/-- A stop of a category (R328): category 0 to STO from RUN and SS1, category 1 to SS1 from RUN only. `fast` closes
the brake at once (R332). A stop of any category ends a brake test for which STO was lifted (R339). In every state the stop is
kept until what leaves it (DEDUCED from R326, R335 and R339; log entry 13), and one of category 0 is the last stop of an index that
is at STO already. -/
def State.stopIndex (s : State) (c : Fin 16) (cat cause : Nat) (fast : Bool := false) : State :=
  let s := s.setIndex c { s.safety.index[c] with needsReset := s.safety.index[c].needsReset || s.stopLatches cause }
  let x := s.safety.index[c]
  match x.state with
  | .run => if cat = 0 then s.toSto c cause fast else s.toSs1 c cause
  | .ss1 => if cat = 0 then s.toSto c cause fast else s
  | .sto => if x.lifted then s.toSto c cause fast
    else if cat = 0 then s.setIndex c { x with cause := cause, closeAt := if fast then some s.now else x.closeAt } else s

/-- The category of an index's chain record (R328): STO is category 0, SS1 category 1. -/
def State.stopCat (s : State) (c : Nat) : Nat :=
  match s.theCell.chainRec c with
  | some r => if r.stop = 0 then 0 else 1
  | none => 0

/-- The configured protective stop of a chain asked for by the motion side: cause 34. -/
def State.motionStop34 (s : State) (c : Fin 16) : State := s.stopIndex c (s.stopCat c.val) 34

/-! ### Stop bath (R330) -/

/-- The category of a stop bath cause. -/
def bathCat (cause : Nat) : Nat := if cause = 3 ∨ cause = 10 then 1 else 0

/-- Stop bath entry: every index is held at STO, moving ones stopping in the cause's category. -/
def State.enterBath (s : State) (cause : Nat) : State :=
  let f := s.safety
  let s := s.setSafety { f with bath := true, bathCause := cause, entries := satN 65535 (f.entries + 1) }
  foldOn (List.range 16) s (fun s c => s.stopIndex (f16 c) (bathCat cause) 38 (cause == 9))

/-- The local E-stop is active: an enabled line pair has left its inactive state or is faulted (R332). -/
def SafetySt.estopActive (f : SafetySt) : Bool := bitAt f.estopCfg 31 && f.estop.active

/-- A stop bath cause other than a completed change remains (R330, R335, R413). -/
def State.bathRemains (s : State) : Bool :=
  let f := s.safety
  !f.cfgValid || !f.ch1Ok || !f.ch2Ok || decide (3 ≤ f.digDiff) || decide (2 ≤ f.hbMiss1) || decide (2 ≤ f.hbMiss2) ||
    !f.outFaults.isEmpty || f.estopActive || (s.sys.supplyStop && s.sys.caution)

/-! ### Line pairs (R321, R322) -/

/-- Both lines at their inactive levels (equivalent: both high; antivalent: A high, B low). -/
def PairSt.idle (p : PairSt) (anti : Bool) : Bool := p.lineA && (p.lineB != anti)
/-- Both lines at their active levels. -/
def PairSt.both (p : PairSt) (anti : Bool) : Bool := !p.lineA && (p.lineB == anti)

/-- A pair faults with a cause; a faulted input is active. Lines that are both active at that sample count for the clearing of
the fault (R322). -/
def PairSt.fault (p : PairSt) (anti : Bool) (cause : Nat) : PairSt :=
  { p with cause := cause, faults := satN 65535 (p.faults + 1), active := true, cleared := p.both anti, since := none }

/-- One filtered line changes at cell time `now` (R321, R322); `td` is the discrepancy time in ns. -/
def PairSt.change (p : PairSt) (lineB level anti : Bool) (td now : Nat) : PairSt :=
  let p := if lineB then { p with lineB := level } else { p with lineA := level }
  let matched := p.idle anti || p.both anti
  let p := { p with cleared := p.cleared || (decide (p.cause ≠ 0) && p.both anti) }
  let p := if matched then
      (match p.since with
       | some t => if t + td < now then p.fault anti 1 else { p with since := none }
       | none => p)
    else { p with since := some (p.since.getD now) }
  { p with active := !(p.idle anti) || decide (p.cause ≠ 0) }

/-- At an accepted reset a fault clears whose lines have both been active (R322). -/
def PairSt.reset (p : PairSt) (anti : Bool) : PairSt :=
  if p.cleared then { p with cause := 0, cleared := false, active := !(p.idle anti) } else p

/-! ### Functions (R325, R326) -/

/-- Kind, category and chain mask of a function word. -/
def funcKind (w : Word) : Nat := fld w 31 29
def funcCat (w : Word) : Nat := fld w 28 28
def funcNames (w : Word) (c : Nat) : Bool := w.toNat.testBit c

/-- The word of function `f`, 1 to 32. -/
def SafetySt.funcWord (x : SafetySt) (f : Nat) : Word := x.funcs[f32i (f - 1)]

/-- The input points with the safety flag of a node, ascending (R348 type 3). -/
def Cell.safetyPoints (c : Cell) (node : Nat) : List Nat :=
  sortNats ((c.points.filter (fun r => r.node == node && r.flags.testBit 1)).flatMap
    (fun r => (List.range r.count).map (· + r.first)))

/-- Position of an element in a list. -/
def placeOf (a : Nat) : List Nat → Option Nat
  | [] => none
  | x :: r => if x = a then some 0 else (placeOf a r).map (· + 1)

/-- The state of a safety point from its node's latest accepted frame; none when it is not fresh (R325, R349). -/
def State.safePoint (s : State) (pt : Nat) : Option Nat :=
  match s.theCell.points.find? (fun r => decide (r.first ≤ pt) && decide (pt < r.first + r.count) && r.flags.testBit 1) with
  | none => none
  | some r =>
    let l := s.sep.linkOf r.node
    match l.taken, placeOf pt (s.theCell.safetyPoints r.node) with
    | some v, some i => some ((v.values.getD (i / 8) 0).toNat / 2 ^ (4 * (i % 8)) % 4)
    | _, _ => none

/-- A safety point as a source of a function kind (R325): the run state is 0b01, or 0b00 when inverted. -/
def pointActive (kind : Nat) (inverted : Bool) (st : Option Nat) : Bool :=
  match st with
  | some v =>
    if v = (if inverted then 0 else 1) then false
    else if v ≤ 1 then true
    else kind != 6
  | none => kind != 6

/-- A function is active when any of its sources is (R325). -/
def State.funcIsActive (s : State) (f : Nat) : Bool :=
  let x := s.safety
  let k := funcKind (x.funcWord f)
  (List.range 16).any (fun i => bitAt x.sinCfg[f16 i] 31 && fld x.sinCfg[f16 i] 12 7 == f && x.sins[f16 i].active) ||
  x.assigns.any (fun a => a.2.1 == f && pointActive k a.2.2 (s.safePoint a.1))

/-- A function's stored activity. -/
def SafetySt.isActive (x : SafetySt) (f : Nat) : Bool := x.funcActive.getLsbD (f - 1)

/-- Functions of a kind that are active and name an index. -/
def SafetySt.activeOf (x : SafetySt) (kind c : Nat) : List Nat :=
  (List.range 33).filter (fun f => decide (1 ≤ f) && x.isActive f && funcKind (x.funcWord f) == kind &&
    funcNames (x.funcWord f) c)

/-- An input fault whose function names the index (R335). -/
def SafetySt.inputFaultOn (x : SafetySt) (c : Nat) : Bool :=
  (List.range 16).any (fun i =>
    let w := x.sinCfg[f16 i]
    let f := fld w 12 7
    bitAt w 31 && decide (x.sins[f16 i].cause ≠ 0) && !x.sins[f16 i].cleared && decide (1 ≤ f) && decide (f ≤ 32) &&
      funcNames (x.funcWord f) c)

/-- A cause remains for an index while functions of some kinds are active: beside them an input fault, a brake cause, one of
separation, or one of the stop bath (R335). -/
def State.causeRemains (s : State) (c : Fin 16) (kinds : List Nat) : Bool :=
  let x := s.safety
  kinds.any (fun k => !(x.activeOf k c.val).isEmpty) || x.inputFaultOn c.val || x.index[c].brakeFault || x.index[c].overdue ||
    s.sep.chains[c].res1.remains || s.sep.chains[c].res2.remains || s.bathRemains

/-- A cause remains for an index at the check of R335: an active function of kinds 1 to 4 among them. -/
def State.indexRemains (s : State) (c : Fin 16) : Bool := s.causeRemains c [1, 2, 3, 4]

/-- What follows from the present activity of the functions, for one index: manual mode and SLS, the stops of kinds 1, 2 and, in
manual mode, 3, and the stop of a change of mode in the category of the kind-4 function that changed (R326, R327). `old` is the
activity before: an index at STO takes only what comes anew. -/
def State.applyFuncs (s : State) (c : Fin 16) (old : BitVec 32) : State :=
  let x := s.safety
  let m4 := x.activeOf 4 c.val
  let manual := !m4.isEmpty
  let wasManual := x.index[c].manual
  let s := s.setIndex c { x.index[c] with
    manual := manual, sls := manual || !(x.activeOf 5 c.val).isEmpty || s.sep.chains[c].sls }
  let held := fun (f : Nat) => old.getLsbD (f - 1) && decide (x.index[c].state = .sto)
  let stops := (x.activeOf 1 c.val ++ x.activeOf 2 c.val).filter (fun f => !held f) ++
    (if manual then (x.activeOf 3 c.val).filter (fun f => !(held f && wasManual)) else [])
  let s := stops.foldl (fun s f => s.stopIndex c (funcCat (x.funcWord f)) f) s
  if wasManual == manual then s
  else
    let kind4 := (List.range 33).filter (fun f => decide (1 ≤ f) && funcKind (x.funcWord f) == 4 && funcNames (x.funcWord f) c.val)
    let f := (((kind4.filter (fun f => old.getLsbD (f - 1) != x.isActive f)) ++ kind4).head?).getD 0
    s.stopIndex c (funcCat (x.funcWord f)) f

/-- Stops leave their automatic kind: an index at STO for functions of kind 3 alone, none of which is in force any more, returns to
RUN when no other cause remains (R326, R328). Manual mode is no cause of its own here (DEDUCED; log entry 13). -/
def State.autoReturns (s : State) (c : Fin 16) : Bool :=
  let x := s.safety.index[c]
  decide (x.state = .sto) && !x.lifted && !x.needsReset && !s.safety.bath &&
    !s.causeRemains c (if x.manual then [1, 2, 3] else [1, 2])

/-- The drive nodes of an index's axes receive RELEASE (R140, R335). -/
def State.releaseNodes (s : State) (c : Fin 16) : State :=
  let nodes := ((s.indexAxes c).filterMap (fun a => s.theCell.nodeOfAxis a.1)).eraseDups
  nodes.foldl (fun s n => if n.2.kind = 0 then s.sendMgmt (f4 n.2.ring) 2 n.2.hop else s) s

/-- Axis faults of some axes whose cause has ended clear, and their loops start again from the reset state (R194). -/
def State.clearAxisFaults (s : State) (axes : List Nat) : State :=
  axes.foldl (fun s a =>
    let x := s.loops.axes[f160 a]
    if x.fault && !x.causeHolds then
      (s.setAxis (f160 a) { x with fault := false, cause := 0, cmdOnce := false }).restartAxes [a] else s) s

/-- An index returns to RUN: its outputs are enabled and PROTECT ends on the motion side (R328, R335). -/
def State.toRun (s : State) (c : Fin 16) : State :=
  let x := s.safety.index[c]
  let s := (s.setIndex c { x with
    state := .run, needsReset := false, closeAt := none, lifted := false, over1 := 0, over2 := 0 }).drive c
  s.setChain c s.motion.chains[c].safetyRun

/-- A press that ended after `d` ns is a candidate, or the reason why not (R333). -/
def pressReason (d : Nat) : Nat := if d < 100000000 then 1 else if 3000000000 < d then 2 else 0

/-- Record a refusal in SF_SRST. -/
def State.refuseReset (s : State) (reason : Nat) : State := s.setSafety { s.safety with refused := reason }

/-- Evaluate every function, act on what changed, and start or judge kind-6 presses (R325, R326). -/
def State.evalFuncs (s : State) : State :=
  let old := s.safety.funcActive
  let act := foldOn (List.range 32) (0 : BitVec 32) (fun b i => if s.funcIsActive (i + 1) then bvSet b i else b)
  let s := s.setSafety { s.safety with funcActive := act }
  let s := foldOn (List.range 32) s (fun s i =>
    if funcKind s.safety.funcs[f32i i] = 6 ∧ old.getLsbD i ≠ act.getLsbD i then
      if act.getLsbD i then s.setSafety { s.safety with funcPress := (i + 1, s.time.cellNs) :: s.safety.funcPress }
      else match s.safety.funcPress.find? (fun p => p.1 == i + 1) with
        | none => s
        | some p =>
          let s := s.setSafety { s.safety with funcPress := s.safety.funcPress.filter (fun o => o.1 != i + 1) }
          let r := pressReason (s.time.cellNs - p.2)
          if s.safety.boot || s.safety.stuck then s.refuseReset 4
          else if r = 0 then s.setSafety { s.safety with funcCand := s.safety.funcCand ++ [i + 1] } else s.refuseReset r
    else s)
  let s := foldOn (List.range 16) s (fun s c => s.applyFuncs (f16 c) old)
  foldOn (List.range 16) s (fun s c => if s.autoReturns (f16 c) then s.toRun (f16 c) else s)

/-! ### Inputs -/

/-- SAFE_INPUT_CHANGE (R321, R322): `samples` equal samples of a line in its new state at a 250 µs point. -/
def execSafeInputChange (i : Fin 16) (lineB level : Bool) (samples : Nat) (s : State) :
    Host.Outcome State Fault Refusal :=
  let w := s.safety.sinCfg[i]
  let p := s.safety.sins[i]
  if !bitAt w 31 || !s.onGrid 250000 0 || decide (samples < fld w 26 23 + 1) ||
      (if lineB then p.lineB else p.lineA) == level then .next s
  else
    let p := p.change lineB level (bitAt w 30) (fld w 22 13 * 1000000) s.time.cellNs
    .next ((s.setSafety { s.safety with sins := s.safety.sins.set i p }).evalFuncs)

/-- ESTOP_CHANGE (R332): 4 equal samples on the 50 µs grid; either line low is a category-0 stop of every index and
enters the stop bath with cause 9. -/
def execEstopChange (lineB level : Bool) (samples : Nat) (s : State) : Host.Outcome State Fault Refusal :=
  let f := s.safety
  if !bitAt f.estopCfg 31 || !s.onGrid 50000 0 || decide (samples < 4) ||
      (if lineB then f.estop.lineB else f.estop.lineA) == level then .next s
  else
    let p := f.estop.change lineB level false (fld f.estopCfg 30 21 * 1000000) s.time.cellNs
    let s := s.setSafety { f with estop := p }
    if p.active && !f.estop.active then .next (s.enterBath 9) else .next s

/-- DISCREPANCY_TIMEOUT (R322, R332): the second change has not come by sample k₁ + 4 × td_ms + 1 (on the E-stop's
50 µs grid, by the first sample after Td); `none` names the E-stop. -/
def execDiscrepancyTimeout (i : Option (Fin 16)) (s : State) : Host.Outcome State Fault Refusal :=
  match i with
  | some i =>
    let w := s.safety.sinCfg[i]
    let p := s.safety.sins[i]
    (match p.since with
     | some t => if t + fld w 22 13 * 1000000 + 250000 ≤ s.time.cellNs then
         .next ((s.setSafety { s.safety with sins := s.safety.sins.set i (p.fault (bitAt w 30) 1) }).evalFuncs) else .next s
     | none => .next s)
  | none =>
    let f := s.safety
    match f.estop.since with
    | some t => if t + fld f.estopCfg 30 21 * 1000000 + 50000 ≤ s.time.cellNs then
        .next (s.setSafety { f with estop := f.estop.fault false 1 }) else .next s
    | none => .next s

/-- The level of TPULSE[k] (R323): high, but once every 100 ms low for 100 µs, from 50 µs after the 250 µs sample point whose index
in the 100 ms equals k. -/
def State.tpulse (s : State) (k : Nat) : Bool :=
  let o := s.time.cellNs % 100000000
  !(decide (k * 250000 + 50000 ≤ o) && decide (o < k * 250000 + 150000))

/-- TEST_PULSE_CHECK (R323, R324): 125 µs after the sample point whose index within 100 ms is `k`, the levels of all
lines. Of the lines whose filtered state is high, one that does not read as its TPULSE stands faults its input: it has a short, or
a cross-connection to the pulsing line. -/
def execTestPulseCheck (k : Fin 4) (a b : BitVec 16) (s : State) : Host.Outcome State Fault Refusal :=
  if !s.onGrid 100000000 (k.val * 250000 + 125000) then .next s
  else
    let bad := fun (i : Nat) =>
      let w := s.safety.sinCfg[f16 i]
      let p := s.safety.sins[f16 i]
      let ta := fld w 28 27
      let wrong := fun (filtered : Bool) (t : Nat) (level : Bool) => filtered && s.tpulse t != level
      bitAt w 31 && bitAt w 29 && (wrong p.lineA ta (a.getLsbD i) || wrong p.lineB ((ta + 1) % 4) (b.getLsbD i))
    let hit := (List.range 16).filter bad
    .next ((foldOn hit s (fun s i => s.setSafety { s.safety with
      sins := vmod s.safety.sins (f16 i) (fun p => p.fault (bitAt s.safety.sinCfg[f16 i] 30) 2) })).evalFuncs)

/-- The output test interval that runs, SL_OTEST.interval_ms long; device 1 of a twin is offset by half of it (R320, R370). -/
def State.testInterval (s : State) : Nat :=
  let ns := fld s.safety.otest 31 24 * 1000000
  (s.time.cellNs + (if s.twin.twinId then ns / 2 else 0)) / ns

/-- A channel may pulse a line now (R320): it has not done so in this interval, the pair's other line has not pulsed in it, and no
other pair in this safety cycle. -/
def State.mayPulse (s : State) (p : Nat) (lineB : Bool) (ch : Nat) : Bool :=
  s.safety.outTests.all (fun t =>
    (t.1.1 != p || t.2.1 != s.testInterval || (t.1.2.1 == lineB && t.1.2.2 != ch)) && (t.1.1 == p || t.2.2 != s.tickNo))

/-- OUTPUT_TEST_PULSE (R320): a channel's dark pulse of a line that is high, as both channels read it back. A line that stays high
during its pulse, or reads low outside one while enabled, enters the stop bath with cause 8; a line that passes is no longer at
fault, and neither is one that is off and reads low (log entry 14). -/
def execOutputTestPulse (p : Fin 16) (lineB : Bool) (ch : Fin 2) (highInPulse lowOutside : Bool) (s : State) :
    Host.Outcome State Fault Refusal :=
  let f := s.safety
  let own := if ch.val = 0 then f.ch1Ok else f.ch2Ok
  let others := f.outFaults.filter (fun o => o != (p.val, lineB))
  if !own then .next s
  else if !s.stoOn p then .next (if highInPulse then s else s.setSafety { f with outFaults := others })
  else if !s.mayPulse p.val lineB ch.val then .next s
  else
    let key := (p.val, lineB, ch.val)
    let s := (s.setSafety { f with
      outTests := (key, s.testInterval, s.tickNo) :: f.outTests.filter (fun t => t.1 != key)
      outFaults := if highInPulse || lowOutside then others ++ [(p.val, lineB)] else others }).emit
        (.darkPulse p.val lineB ch.val (fld f.otest 23 12))
    .next (if highInPulse || lowOutside then s.enterBath 8 else s)

/-! ### Safety reset (R333, R334) -/

/-- SRST_N_PRESS (R333, R334): a channel has seen SRST_N low on `samples` samples in a row, the last one now; 2 are a filtered low.
SRST_N low at the first sample after the channel's start sets SF_SRST.boot, be it for one sample alone. -/
def execSrstNPress (ch : Fin 2) (samples : Nat) (s : State) : Host.Outcome State Fault Refusal :=
  let f := s.safety
  let x := f.srst[ch]
  if !s.onGrid 250000 0 || decide (samples = 0) || x.pressed then .next s
  else
    let low := s.time.cellNs + 250000 - 250000 * samples
    let boot := f.boot || (x.first && decide (low ≤ ceilDiv x.since 250000 * 250000))
    let y := if samples < 2 then { x with first := false } else { x with first := false, pressed := true, since := s.time.cellNs }
    .next (s.setSafety { f with boot := boot, srst := f.srst.set ch y })

/-- SRST_N_RELEASE (R333): a channel has seen SRST_N high on `samples` samples in a row, 2 of which are a filtered high, and finds
what the press was by its own duration. -/
def execSrstNRelease (ch : Fin 2) (samples : Nat) (s : State) : Host.Outcome State Fault Refusal :=
  let f := s.safety
  let x := f.srst[ch]
  if !s.onGrid 250000 0 || decide (samples < 2) || !x.pressed then .next s
  else
    let r := if f.boot || f.stuck then 4 else pressReason (s.time.cellNs - x.since)
    .next (s.setSafety { f with srst := f.srst.set ch { x with pressed := false, since := s.time.cellNs, found := some r } })

/-- What the two channels' presses come to, once neither sees SRST_N pressed (R333 to R335): 0 a candidate of both, else the reason of
the refusal; 5 where they differ. -/
def SafetySt.pressFound (f : SafetySt) : Option Nat :=
  if f.srst.toList.any (·.pressed) then none
  else match f.srst[(0 : Fin 2)].found, f.srst[(1 : Fin 2)].found with
    | none, none => none
    | some a, some b =>
      if a = 4 ∨ b = 4 then some 4
      else if f.ch1Ok = false ∨ f.ch2Ok = false ∨ (a = 0) ≠ (b = 0) then some 5 else some a
    | some a, none | none, some a => if a = 4 then some 4 else some 5

/-- A press is judged once. -/
def SafetySt.pressTaken (f : SafetySt) : SafetySt :=
  if f.pressFound.isNone then f else { f with srst := f.srst.map (fun x => { x with found := none }) }

/-- RESET_STUCK (R334): still low 30 s after the press began. -/
def execResetStuck (s : State) : Host.Outcome State Fault Refusal :=
  if !s.safety.stuck && s.safety.srst.toList.any (fun x => x.pressed && decide (x.since + 30000000000 ≤ s.time.cellNs)) then
    .next ((s.setSafety { s.safety with stuck := true }).notice .resetStuck 0 0)
  else .next s

/-- SRST_N_OPEN (R334): filtered high for 100 ms in both channels clears both flags. Only a press that begins afterwards can count,
also one of a kind-6 function. -/
def execSrstNOpen (s : State) : Host.Outcome State Fault Refusal :=
  if s.safety.srst.toList.all (fun x => !x.pressed && decide (x.since + 100000000 ≤ s.time.cellNs)) then
    .next (s.setSafety { s.safety with boot := false, stuck := false, funcPress := [] })
  else .next s

/-- What an accepted reset clears: faults of inputs and of the E-stop whose lines have both been active (R322, R332), and with
them their functions' demand. -/
def State.clearPairs (s : State) : State :=
  let f := s.safety
  let s := s.setSafety { f with
    sins := foldOn (List.range 16) f.sins (fun v i => vmod v (f16 i) (fun p => p.reset (bitAt f.sinCfg[f16 i] 30)))
    estop := f.estop.reset false }
  let act := foldOn (List.range 32) (0 : BitVec 32) (fun b i => if s.funcIsActive (i + 1) then bvSet b i else b)
  s.setSafety { s.safety with funcActive := act }

/-- The indices of some that are in STO with no remaining cause, outside the stop bath (R335). -/
def State.freeOf (s : State) (chains : List Nat) : List Nat :=
  chains.filter (fun c => decide (s.safety.index[f16 c].state = .sto) && !s.safety.bath && !s.indexRemains (f16 c))

/-- The reset judged at a safety cycle boundary, for the given indices (R335): the stop bath ends when none of its
causes remains (SRST_N only), and every index in STO without a remaining cause goes to RUN. A fault that this reset would clear
does not stand against it (R322, log entry 13). -/
def State.judgeReset (s : State) (chains : List Nat) (srst : Bool) : State :=
  let t := s.clearPairs
  let ends := srst && t.safety.bath && !t.bathRemains
  let t1 := if ends then (t.setSafety { t.safety with bath := false }).setSys { t.sys with supplyStop := false } else t
  let free := t1.freeOf chains
  let stay := chains.filter (fun c => decide (t1.safety.index[f16 c].state = .sto) && !free.contains c)
  let note := fun (s : State) => if stay.isEmpty && !t1.safety.bath then s else s.refuseReset 3
  if !ends && free.isEmpty && !stay.isEmpty then note s
  else
    let s2 := note t1
    let s3 := s2.setSafety { s2.safety with accepted := s2.safety.accepted + 1 }
    let axes := if srst then List.range 160 else chains.flatMap (fun c => (s.indexAxes (f16 c)).map (·.1))
    let s3 := s3.clearAxisFaults axes
    let s4 := foldOn free s3 (fun s c => (s.toRun (f16 c)).releaseNodes (f16 c))
    foldOn (chains.filter (fun c => decide (s4.safety.index[f16 c].state = .run))) s4 (fun s c =>
      if (s.indexAxes (f16 c)).any (fun a => s.loops.axes[f160 a.1].fault) then s
      else s.setChain (f16 c) s.motion.chains[f16 c].safetyRun)

/-- The resets that wait for a safety cycle boundary (R326, R335). -/
def State.judgeResets (s : State) : State :=
  let fs := s.safety.funcCand
  let found := s.safety.pressFound
  let s := s.setSafety { s.safety.pressTaken with funcCand := [] }
  let s := match found with
    | some 0 => s.judgeReset (List.range 16) true
    | some r => s.refuseReset r
    | none => s
  fs.foldl (fun s f => s.judgeReset (maskBits 16 (fld (s.safety.funcWord f) 15 0)) false) s

/-! ### SS1 and brakes -/

/-- SS1_TIMEOUT (R329): ss1_ms after entry. -/
def execSs1Timeout (c : Fin 16) (s : State) : Host.Outcome State Fault Refusal :=
  let x := s.safety.index[c]
  match x.ss1At with
  | some t => if decide (x.state = .ss1) && decide (t + fld x.cfg 31 22 * 1000000 ≤ s.now) then
      .next (s.toSto c x.cause false) else .next s
  | none => .next s

/-- An axis keeps to the monitored ramp (R329): |v| ≤ |v₀| − a_mon·t + 5 % of v max, in mrad/s or mm/s, exactly. -/
def rampOk (v v0 : Nat) (vmax amax : Word) (ramp t : Nat) : Bool :=
  let l := exactAdd (((v : Int) - v0) * 100000000) 0 (f32Int amax * ((ramp * t : Nat) : Int)) (f32Exp amax)
  let r := exactAdd l.1 l.2 (-(f32Int vmax * 5000000000)) (f32Exp vmax)
  decide (r.1 ≤ 0)

/-- At or below 1 % of the velocity max. -/
def axisStill (v : Nat) (vmax : Word) : Bool :=
  let r := exactAdd (v : Int) 0 (-(f32Int vmax * 10)) (f32Exp vmax)
  decide (r.1 ≤ 0)

/-- The SS1 monitoring of one safety cycle (R329). -/
def State.ss1Cycle (s : State) (c : Fin 16) : State :=
  let x := s.safety.index[c]
  match x.ss1At with
  | none => s
  | some t0 =>
    if x.state ≠ .ss1 ∨ s.now ≤ t0 then s
    else
      let axes := s.indexAxes c
      let ok := (axes.zip x.v0).all (fun p => rampOk (s.axisSpeed p.1.1) p.2 p.1.2.1 p.1.2.2 (fld x.cfg 7 0) (s.now - t0))
      let still := axes.all (fun a => axisStill (s.axisSpeed a.1) a.2.1)
      if !ok then s.toSto c 35 false
      else
        let n := if still then x.still + 1 else 0
        if 2 ≤ n then s.toSto c x.cause false else s.setIndex c { x with still := n }

/-- SLS monitoring of one safety cycle: a violation in 2 consecutive cycles, in either channel, is a stop with cause 39
(R327). -/
def State.slsCycle (s : State) (c : Fin 16) : State :=
  let x := s.safety.index[c]
  if !x.sls || decide (x.state = .sto) then s.setIndex c { x with over1 := 0, over2 := 0 }
  else
    let lim := fld x.cfg 21 12
    let n := fun (ch k : Nat) => if lim < s.slsSpeedOf ch c then k + 1 else 0
    let f := ((s.safety.activeOf 5 c.val) ++ (s.safety.activeOf 4 c.val)).head?
    let cat := match f with
      | some f => funcCat (s.safety.funcWord f)
      | none => s.stopCat c.val
    let over1 := n 1 x.over1
    let over2 := n 2 x.over2
    let s := s.setIndex c { x with over1 := over1, over2 := over2 }
    if 2 ≤ over1 ∨ 2 ≤ over2 then s.stopIndex c cat 39 else s

/-- A brake fault: category-0 stop with cause 36, kept until a brake test passes (R336). -/
def State.brakeFault (s : State) (c : Fin 16) : State :=
  (s.setIndex c { s.safety.index[c] with brakeFault := true }).stopIndex c 0 36

/-- BRAKE_FEEDBACK_MISMATCH (R336): BRK_FB has shown the brake released, or closed, for more than 20 ms while it was commanded
otherwise. -/
def execBrakeFeedbackMismatch (p : Fin 16) (released : Bool) (ms : Nat) (s : State) : Host.Outcome State Fault Refusal :=
  if ms ≤ 20 || released == s.brakeOpen p then .next s else .next (s.brakeFault p)

/-- Hours of cell time since the last pass, saturating (R337, SF_BRKSTAT.since_h). -/
def IndexSt.hours (x : IndexSt) (now : Nat) : Nat := satN 8191 (x.sinceH + (now - x.passAt) / 3600000000000)

/-- BRAKE_TEST_DUE (R337): interval_h hours after the last pass. -/
def execBrakeTestDue (c : Fin 16) (s : State) : Host.Outcome State Fault Refusal :=
  .next (s.onExpiry (DelayEntry.ofUser 2 c.val) (fun s =>
    let x := s.safety.index[c]
    let iv := fld x.brk 31 24
    if iv = 0 ∨ x.due.isSome = true ∨ x.hours s.time.cellNs < iv then s
    else s.setIndex c { x with due := some s.time.cellNs }))

/-- SF_BRKREQ (R337): a test is asked for on each index whose bit is 1. -/
def State.requestBrakeTests (s : State) (v : BitVec 16) : State :=
  foldOn (chainsOf v) s (fun s c => s.setIndex (f16 c) { s.safety.index[f16 c] with req := true })

/-- SF_BRKREQ (R337). -/
def execSfBrkreq (v : BitVec 16) (s : State) : Host.Outcome State Fault Refusal := .next (s.requestBrakeTests v)

/-- Causes 36 and 37 are the only causes of an index at STO (R337, R339). -/
def State.onlyBrakeCauses (s : State) (c : Fin 16) : Bool :=
  let x := s.safety.index[c]
  decide (x.state = .sto) && (x.brakeFault || x.overdue) && !x.needsReset && !s.safety.bath &&
    !((s.setIndex c { x with brakeFault := false, overdue := false }).indexRemains c)

/-- A brake test starts at this planning tick boundary (R337): due or asked for, with the chain at standstill in RUN,
or at STO for causes 36 and 37 alone, which lifts STO for the test. -/
def State.startBrakeTest (s : State) (c : Fin 16) : State :=
  let x := s.safety.index[c]
  let m := s.motion.chains[c]
  let rest := !m.moving s.tickNo
  let inRun := decide (x.state = .run) && (decide (m.state = .idle) || decide (m.state = .hold)) && rest
  let lift := s.onlyBrakeCauses c
  if (x.due.isSome || x.req) && x.test.isNone && (inRun || lift) then
    (s.setIndex c { x with test := some ⟨s.now, 0, false⟩, req := false, lifted := lift, closeAt := none }).drive c
  else s

/-- A brake test ends with a result, reported on subscription 0 (R339). -/
def State.endBrakeTest (s : State) (c : Fin 16) (pass : Bool) : State :=
  let x := s.safety.index[c]
  let s := (s.setTestTorque c 0).restartLoops c
  let x' := { x with test := none, lifted := false, due := none, tests := x.tests + 1 }
  let s := s.notice .brakeTest c.val (if pass then 1 else 2)
  if pass then
    let s := (s.setIndex c { x' with result := .pass, brakeFault := false, overdue := false, sinceH := 0, passAt := s.time.cellNs }).drive c
    if decide (x.state = .sto) && !x.needsReset && !s.safety.bath && !s.indexRemains c then s.toRun c else s
  else
    ((s.setIndex c { x' with result := .fail }).drive c).brakeFault c

/-- BRAKE_TEST_STEP (R337 to R339): the step whose time has come. `fbClosed` is BRK_FB; the displacements are each
channel's largest since the torque was held, in units of thresh. The torque ramps linearly, and with dir = 2 from the one sign to
the other, which the times of R338 give (DEDUCED; log entry 60). While STO is lifted for the test, motion above the
threshold at any other time is STO at once (log entry 60). -/
def execBrakeTestStep (c : Fin 16) (fbClosed : Bool) (disp1 disp2 : Nat) (s : State) :
    Host.Outcome State Fault Refusal :=
  let x := s.safety.index[c]
  match x.test with
  | none => .next s
  | some t =>
    let el := s.now - t.start
    let ofs := if t.second then 1050000000 else 0
    let dir := fld x.brk 19 18
    let sign : Int := if dir = 1 ∨ t.second = true then -1 else 1
    let go := fun (n : Nat) (s : State) => s.setIndex c { s.safety.index[c] with test := some { t with step := n } }
    let tooFar := decide (fld x.brk 10 0 < max disp1 disp2)
    let ms : Int := ((el - ofs) / 1000000 : Nat)
    let inward := fun (k : Int) => sign * k + (if t.second then 50 - k else 0)
    if x.lifted = true ∧ tooFar = true ∧ t.step ≠ 3 then .next (s.toSto c x.cause false)
    else if t.step = 0 then
      if 20000000 < el ∨ (el = 20000000 ∧ fbClosed = false) then .next (((s.abortTest c).drive c).brakeFault c)
      else if fbClosed then .next (go 1 s)
      else .next s
    else if t.step = 1 then
      if 200000000 + ofs ≤ el then .next (go 2 (s.setTestTorque c (inward (min 50 (ms - 200))))) else .next s
    else if t.step = 2 then
      if 250000000 + ofs ≤ el then .next (go 3 (s.setTestTorque c (sign * 50)))
      else .next (s.setTestTorque c (inward (ms - 200)))
    else if t.step = 3 then
      if tooFar then .next (s.endBrakeTest c false)
      else if 1250000000 + ofs ≤ el then
        if dir = 2 ∧ t.second = false then .next (s.setIndex c { x with test := some { t with step := 1, second := true } })
        else .next (go 4 (s.setTestTorque c (sign * max 0 (1300 - ms))))
      else .next s
    else if t.step = 4 then
      if 1300000000 + ofs ≤ el then .next (go 5 ((s.setTestTorque c 0).restartLoops c))
      else .next (s.setTestTorque c (sign * (1300 - ms)))
    else if 1400000000 + ofs ≤ el then .next (s.endBrakeTest c true)
    else .next s

/-- BRAKE_TEST_OVERDUE (R339): grace_h hours after the test fell due, at the next standstill. -/
def execBrakeTestOverdue (c : Fin 16) (s : State) : Host.Outcome State Fault Refusal :=
  let x := s.safety.index[c]
  match x.due with
  | none => .next s
  | some t =>
    if x.overdue || x.test.isSome || decide (s.time.cellNs < t + fld x.brk 23 20 * 3600000000000) ||
        s.motion.chains[c].moving s.tickNo then .next s
    else .next ((s.setIndex c { x with overdue := true }).stopIndex c 0 37)

/-! ### Channels and configuration -/

/-- Every index's outputs follow the channels' enables. -/
def State.driveAll (s : State) : State := foldOn (List.range 16) s (fun s c => s.drive (f16 c))

/-- A channel that removes its enables takes the brakes' with them, so every brake closes at once (R317, R318). -/
def State.dropBrakes (s : State) : State :=
  foldOn (List.range 16) s (fun s c => s.setIndex (f16 c) { s.safety.index[f16 c] with closeAt := none })

/-- CHANNEL_INTERNAL_FAULT (R317): the channel's enables go and the stop bath is entered with cause 4 or 5. -/
def State.channelFault (s : State) (ch : Fin 2) : State :=
  let f := s.safety
  let s := s.setSafety (if ch.val = 0 then { f with ch1Ok := false, mainFault := true } else { f with ch2Ok := false })
  (s.enterBath (4 + ch.val)).driveAll.dropBrakes

def execChannelInternalFault (ch : Fin 2) (s : State) : Host.Outcome State Fault Refusal :=
  let s := s.channelFault ch
  .next (if ch.val = 0 then s.setSafety { s.safety with intFault1 := true } else s)

end Sys2Proof.Machine
end

