-- ==== Sys2Proof/Machine/CellImage.lean ====
section
/-! DEFINITION. Cell images (01_cell_model_and_placement.md): the layout of R13 and R16, the validation of R14 with the
rules R177, R180, R184, R193, R291, R295 and R343, amendments (R441), and what an amendment alters (R11, R175). -/

namespace Sys2Proof.Machine

/-- A section directory entry (R13), with its own byte offset. -/
structure DirEnt where
  place  : Nat
  type   : Nat
  size   : Nat
  count  : Nat
  offset : Nat
  crc    : Nat
  deriving DecidableEq, Repr

/-- `n` directory entries from byte offset `o`. -/
def dirEnts (bs : List Byte) : Nat → Nat → List DirEnt
  | 0, _ => []
  | n + 1, o => ⟨o, u16 bs o, u16 bs (o + 2), u32 bs (o + 4), u32 bs (o + 8), u32 bs (o + 12)⟩ :: dirEnts bs n (o + 16)

/-- `n` records of a size. -/
def chunks (size : Nat) : Nat → List Byte → List (List Byte)
  | 0, _ => []
  | n + 1, bs => bs.take size :: chunks size n (bs.drop size)

/-- The body of a section, and its records. -/
def DirEnt.body (d : DirEnt) (bs : List Byte) : List Byte := slice bs d.offset (d.size * d.count)
def DirEnt.records (d : DirEnt) (bs : List Byte) : List (List Byte) := chunks d.size d.count (d.body bs)

/-! ### Field rules: each gives the offending offsets of a record -/

/-- A field of `n` bytes at `o` lies from `lo` to `hi`. -/
def inRange (r : List Byte) (o n lo hi : Nat) : List Nat :=
  if decide (lo ≤ leAt r o n) && decide (leAt r o n ≤ hi) then [] else [o]
/-- A reserved field is zero. -/
def isZeroed (r : List Byte) (o n : Nat) : List Nat := if zeroed r o n then [] else [o]
/-- A rule holds, else the field at `o` offends. -/
def must (ok : Bool) (o : Nat) : List Nat := if ok then [] else [o]

/-- Record sizes and greatest counts of the section types 1 to 10. -/
def cellRecSize (t : Nat) : Nat := ([0, 640, 32, 32, 16, 32, 8, 16, 32, 32, 16] : List Nat).getD t 0
def cellRecMax (t : Nat) : Nat := ([0, 16, 32, 1016, 32768, 512, 128, 1024, 64, 320, 16] : List Nat).getD t 0

/-- Value and shift of a gain word (R179). -/
def gainOf (w : Word) : Int := sgn 27 (w.toNat % 2 ^ 27)
def shiftOf (w : Word) : Nat := fld w 31 27

/-- The rules of R180 that six coefficient words break, as word indices; `limit` for a limit member. -/
def coeffErrors (ws : List Word) (limit : Bool) : List Nat :=
  let df := ws.getD 3 0
  let lo := sgn 32 (ws.getD 4 0).toNat
  let hi := sgn 32 (ws.getD 5 0).toNat
  must (decide (0 ≤ gainOf df) && decide (gainOf df ≤ 2 ^ shiftOf df)) 3 ++
  must (decide (lo ≤ hi) && (!limit || decide (0 ≤ lo))) 4

/-- Kinds 2, 3 and 4 are limit members wherever they stand (R187). -/
def limitKind (k : Nat) : Bool := decide (2 ≤ k) && decide (k ≤ 4)

/-- The rules that record `k` of type `t` breaks by itself (R14 step 5), as offsets. -/
def cellRecErrors (t k : Nat) (r : List Byte) : List Nat :=
  match t with
  | 1 => inRange r 0 1 k k ++ inRange r 1 1 1 8 ++ inRange r 2 1 0 15 ++ inRange r 3 1 0 1 ++
      (List.range 8).flatMap (fun j => if j < byteAt r 1 then [] else
        let o := 32 + 76 * j
        ((isZeroed r o 24 ++ isZeroed r (o + 24) 28 ++ isZeroed r (o + 52) 24).take 1))
  | 2 => inRange r 0 1 0 2 ++ isZeroed r 1 3 ++ must (decide (u32 r 28 ≤ 15) || decide (u32 r 28 = 0xFFFFFFFF)) 28
  | 3 => inRange r 6 1 0 3 ++ inRange r 7 1 1 254 ++ inRange r 8 1 0 3 ++ inRange r 9 1 0 3 ++ inRange r 10 1 0 3 ++
      inRange r 11 1 0 8 ++
      (List.range 8).flatMap (fun j =>
        if j < byteAt r 11 then inRange r (12 + j) 1 0 159 else inRange r (12 + j) 1 255 255) ++
      must (decide (u16 r 20 ≤ 1400) && (decide (byteAt r 8 ≠ 0) || decide (12 * byteAt r 11 ≤ u16 r 20))) 20 ++
      must (decide (u16 r 22 ≤ 1400) && (decide (byteAt r 8 ≠ 0) || decide (12 * byteAt r 11 ≤ u16 r 22))) 22 ++
      inRange r 24 1 0 15 ++ inRange r 25 1 0 2 ++ isZeroed r 26 6
  | 4 => inRange r 0 4 0 131071 ++ inRange r 4 2 1 4096 ++ inRange r 10 1 0 1 ++ inRange r 11 1 0 1 ++
      inRange r 12 1 0 15 ++ inRange r 13 1 0 3 ++ isZeroed r 14 2
  | 5 => inRange r 0 2 0 159 ++ inRange r 2 1 0 5 ++ isZeroed r 6 2 ++
      (coeffErrors (wordsAt r 8 6) (limitKind (byteAt r 2))).map (fun w => 8 + 4 * w)
  | 6 => must (decide (u16 r 0 ≠ 0xFFFF)) 0
  | 7 => inRange r 8 1 0 3 ++ inRange r 9 1 0 15 ++ isZeroed r 10 6
  | 8 => inRange r 0 1 0 1 ++ inRange r 1 1 0 2 ++ isZeroed r 28 4
  | 9 => inRange r 0 1 0 15 ++ inRange r 1 1 0 7 ++ inRange r 2 1 0 1 ++
      inRange r 3 1 0 (if byteAt r 2 = 1 then 7 else 11)
  | 10 => inRange r 2 1 1 64 ++ inRange r 3 1 1 4 ++ isZeroed r 12 4
  | _ => []

/-! ### Records -/

def jointOf (r : List Byte) : Joint := ⟨wordsAt r 0 6, wordsAt r 24 7, wordsAt r 52 6⟩
def chainOf (r : List Byte) : ChainRec :=
  ⟨byteAt r 0, byteAt r 1, byteAt r 2, byteAt r 3, wordsAt r 4 7, (chunks 76 (byteAt r 1) (r.drop 32)).map jointOf⟩
def auxOf (r : List Byte) : AuxRec := ⟨byteAt r 0, wordAt r 4, wordsAt r 8 3, wordsAt r 20 2, u32 r 28⟩
def nodeOf (r : List Byte) : NodeRec :=
  ⟨BitVec.ofNat 48 (leAt r 0 6), byteAt r 6, byteAt r 7, byteAt r 8, byteAt r 9, byteAt r 10, byteAt r 11,
   (slice r 12 8).map (·.toNat), u16 r 20, u16 r 22, byteAt r 24, byteAt r 25⟩
def pointOf (r : List Byte) : PointRec :=
  ⟨u32 r 0, u16 r 4, u16 r 6, u16 r 8, byteAt r 10, byteAt r 11, byteAt r 12, byteAt r 13⟩
def loopOf (r : List Byte) : LoopRec := ⟨u16 r 0, byteAt r 2, byteAt r 3, u16 r 4, wordsAt r 8 6⟩
def groupOf (r : List Byte) : List Nat := [u16 r 0, u16 r 2, u16 r 4, u16 r 6]
def deadlineOf (r : List Byte) : DeadlineRec := ⟨wordAt r 0, u32 r 4, byteAt r 8, byteAt r 9⟩
def zoneOf (r : List Byte) : ZoneRec := ⟨byteAt r 0, byteAt r 1, u16 r 2, wordsAt r 4 6⟩
def capOf (r : List Byte) : CapRec :=
  ⟨byteAt r 0, byteAt r 1, byteAt r 2, byteAt r 3, wordsAt r 4 3, wordsAt r 16 3, wordAt r 28⟩
def bodyOf (r : List Byte) : BodyRec := ⟨u16 r 0, byteAt r 2, byteAt r 3, wordAt r 4, u32 r 8⟩

/-- The cell with the sections that a directory holds in place of its own (R441); from an empty cell, the whole
description of an image. -/
def Cell.withSections (c : Cell) (bs : List Byte) (ds : List DirEnt) : Cell :=
  let get := fun (t : Nat) => (ds.find? (fun d => d.type == t)).map (fun d => d.records bs)
  { cellId := wordAt bs 12, servoCode := byteAt bs 16, mode := byteAt bs 17
    chains := ((get 1).map (·.map chainOf)).getD c.chains
    aux := ((get 2).map (·.map auxOf)).getD c.aux
    nodes := ((get 3).map (·.map nodeOf)).getD c.nodes
    points := ((get 4).map (·.map pointOf)).getD c.points
    loops := ((get 5).map (·.map loopOf)).getD c.loops
    groups := ((get 6).map (·.map groupOf)).getD c.groups
    deadlines := ((get 7).map (·.map deadlineOf)).getD c.deadlines
    zones := ((get 8).map (·.map zoneOf)).getD c.zones
    caps := ((get 9).map (·.map capOf)).getD c.caps
    bodies := ((get 10).map (·.map bodyOf)).getD c.bodies }

/-! ### Rules between records (R14 step 6): offending section type, record index and field offset -/

/-- The axis numbers of a cell (R15). -/
def Cell.axes (c : Cell) : List Nat :=
  c.chains.flatMap (fun r => (List.range r.axes).map (· + 8 * r.chain)) ++ (List.range c.aux.length).map (· + 128)

/-- Number the elements of a list. -/
def numbered {α : Type} : Nat → List α → List (Nat × α)
  | _, [] => []
  | i, a :: r => (i, a) :: numbered (i + 1) r

/-- A list with its repeated elements kept once, at their first place. -/
def uniqNats : List Nat → List Nat
  | [] => []
  | a :: r => a :: (uniqNats r).filter (· != a)

/-- The members of a group record in use, with their positions. -/
def groupMembers (g : List Nat) : List (Nat × Nat) := (numbered 0 g).filter (fun m => m.2 != 0xFFFF)

/-- The groups of a cell as lists of (position, loop index): the group records, without references to records that do not
exist, and the groups of one (R184). -/
def Cell.allGroups (c : Cell) : List (List (Nat × Nat)) :=
  c.groups.map (fun g => (groupMembers g).filter (fun m => decide (m.2 < c.loops.length))) ++ ((numbered 0 c.loops).filter (fun l => l.2.group == 0xFF)).map (fun l => [(0, l.1)])

/-- The loop at an index. -/
def Cell.loopAt (c : Cell) (i : Nat) : LoopRec := c.loops.getD i ⟨0, 0, 0xFF, 0xFFFF, []⟩

/-- A loop of kind `k` at position `pos` of a group that is not a command group limits (R184, R187): kinds 2 to 4 anywhere,
and kind 5 behind member 0. -/
def limitRole (k pos : Nat) : Bool := limitKind k || (k == 5 && pos != 0)

/-- Member 0 of a group has kind 0, 1 or 5: a command group (R184). -/
def Cell.commandGroup (c : Cell) (g : List (Nat × Nat)) : Bool :=
  g.any (fun m => m.1 == 0 && ((c.loopAt m.2).kind ≤ 1 || (c.loopAt m.2).kind == 5))

/-- A member that limits in its group (R187). -/
def Cell.limitMember (c : Cell) (g : List (Nat × Nat)) (m : Nat × Nat) : Bool :=
  !c.commandGroup g || limitRole (c.loopAt m.2).kind m.1

/-- What breaks R184 and the last rule of R180, naming loop records. -/
def Cell.groupErrors (c : Cell) : List (Nat × Nat × Nat) :=
  let refs := (numbered 0 c.groups).flatMap (fun g => (groupMembers g.2).filterMap (fun m =>
    if m.2 < c.loops.length then none else some (6, g.1, 2 * m.1)))
  let holds := fun (i : Nat) => (numbered 0 c.groups).flatMap (fun g =>
    (groupMembers g.2).filterMap (fun m => if m.2 = i then some g.1 else none))
  let member := (numbered 0 c.loops).filterMap (fun l =>
    if holds l.1 = (if l.2.group = 0xFF then [] else [l.2.group]) then none else some (5, l.1, 3))
  let inner := c.allGroups.flatMap (fun g =>
    let ax := ((g.head?).map (fun m => (c.loopAt m.2).axis)).getD 0
    g.flatMap (fun m =>
      let l := c.loopAt m.2
      (must (decide (l.axis = ax)) 0 ++
       must (c.commandGroup g || limitRole l.kind m.1) 2 ++
       must (!c.limitMember g m || decide (0 ≤ sgn 32 (l.coeff.getD 4 0).toNat)) 24).map (fun o => (5, m.2, o))))
  let cmdOf := fun (a : Nat) => (c.allGroups.filter c.commandGroup).filterMap (fun g =>
    match g.head? with
    | some m => if (c.loopAt m.2).axis = a then some m.2 else none
    | none => none)
  let axes := uniqNats (c.loops.map (·.axis))
  let count := axes.flatMap (fun a => match cmdOf a with
    | [] => match (numbered 0 c.loops).find? (fun l => l.2.axis == a) with
      | some l => [(5, l.1, 2)]
      | none => []
    | _ :: more => more.map (fun i => (5, i, 2)))
  refs ++ member ++ inner ++ count

/-- What breaks R291. -/
def Cell.rangeErrors (c : Cell) : List (Nat × Nat × Nat) :=
  let ps := numbered 0 c.points
  ps.flatMap (fun p =>
    (must (decide (p.2.first + p.2.count ≤ 131072)) 4 ++
     must (!(ps.any (fun o => decide (o.1 < p.1) && decide (o.2.first < p.2.first + p.2.count) &&
       decide (p.2.first < o.2.first + o.2.count)))) 0).map (fun o => (4, p.1, o)))

/-- A deadline record that binds an object, by its object field or by a loop record's deadline field. -/
def Cell.deadlineErrors (c : Cell) : List (Nat × Nat × Nat) :=
  let count := fun (t : Nat) => ([0, c.chains.length, c.aux.length, c.nodes.length, c.points.length, c.loops.length,
    c.groups.length, c.deadlines.length, c.zones.length, c.caps.length, c.bodies.length] : List Nat).getD t 0
  (numbered 0 c.deadlines).flatMap (fun d =>
    let t := idType d.2.object
    let bound := c.loops.any (fun l => l.deadline == d.1)
    (must (decide (1 ≤ t) && decide (t ≤ 10) && decide (idIndex d.2.object < count t)) 0 ++
     must ((t != 5 && !bound || d.2.cycle == 0) && (t != 4 || d.2.cycle == 1)) 8).map (fun o => (7, d.1, o)))

/-- What breaks R343. -/
def Cell.separationErrors (c : Cell) : List (Nat × Nat × Nat) :=
  if c.bodies.isEmpty && c.zones.isEmpty then []
  else
    let safe := fun (a : Nat) => match c.nodeOfAxis a with
      | some n => n.2.kind == 0 && n.2.flags.testBit 0
      | none => false
    let caps := numbered 0 c.caps
    (numbered 0 c.chains).flatMap (fun r =>
      (must (c.caps.any (fun k => k.chain == r.2.chain && k.skind == 0) &&
        c.caps.any (fun k => k.chain == r.2.chain && k.skind == 1)) 0 ++
       must ((List.range r.2.axes).all (fun j => safe (8 * r.2.chain + j))) 1).map (fun o => (1, r.1, o))) ++
    (numbered 0 c.aux).flatMap (fun r =>
      (must (decide (r.2.frameChain = 0xFFFFFFFF) || safe (128 + r.1)) 28).map (fun o => (2, r.1, o))) ++
    (numbered 0 c.points).flatMap (fun r =>
      (must (!r.2.flags.testBit 1 || r.2.dir == 0) 10).map (fun o => (4, r.1, o))) ++
    caps.flatMap (fun k =>
      (must (match c.chainRec k.2.chain with
         | some r => decide (k.2.link < r.axes)
         | none => true) 1 ++
       must (!(caps.any (fun o => decide (o.1 < k.1) && o.2.chain == k.2.chain && o.2.skind == k.2.skind &&
         o.2.index == k.2.index))) 3 ++
       must (f32Finite k.2.radius && f32Lt 0 k.2.radius && f32Le k.2.radius 0x40000000) 28).map (fun o => (9, k.1, o))) ++
    (numbered 0 c.bodies).flatMap (fun b =>
      (must (decide (((c.bodies.take (b.1 + 1)).map (·.maxBodies)).sum ≤ 64)) 2).map (fun o => (10, b.1, o)))

/-- Every rule between records that a cell breaks. -/
def Cell.crossErrors (c : Cell) : List (Nat × Nat × Nat) :=
  let axes := c.axes
  let chain := fun (i : Nat) => (c.chainRec i).isSome
  (numbered 0 c.aux).flatMap (fun r =>
    (must (decide (r.2.frameChain = 0xFFFFFFFF) || chain r.2.frameChain) 28).map (fun o => (2, r.1, o))) ++
  (numbered 0 c.nodes).flatMap (fun r =>
    ((numbered 0 (r.2.axisList.take r.2.naxes)).flatMap (fun a => must (axes.contains a.2) (12 + a.1))).map
      (fun o => (3, r.1, o))) ++
  (numbered 0 c.points).flatMap (fun r => (must (decide (r.2.node < c.nodes.length)) 6).map (fun o => (4, r.1, o))) ++
  c.rangeErrors ++
  (numbered 0 c.loops).flatMap (fun r =>
    (must (axes.contains r.2.axis) 0 ++
     must (decide (r.2.group = 0xFF) || decide (r.2.group < c.groups.length)) 3 ++
     must (decide (r.2.deadline = 0xFFFF) || decide (r.2.deadline < c.deadlines.length)) 4).map (fun o => (5, r.1, o))) ++
  c.groupErrors ++ c.deadlineErrors ++
  (numbered 0 c.caps).flatMap (fun r => (must (chain r.2.chain) 0).map (fun o => (9, r.1, o))) ++
  (numbered 0 c.bodies).flatMap (fun r => (must (decide (r.2.node < c.nodes.length)) 0).map (fun o => (10, r.1, o))) ++
  c.separationErrors

/-- The first of a list of errors: lowest identity, then lowest offset. -/
def firstCross : List (Nat × Nat × Nat) → Option (Nat × Nat × Nat)
  | [] => none
  | e :: r => match firstCross r with
    | none => some e
    | some f =>
      let key := fun (x : Nat × Nat × Nat) => (x.1 * 16777216 + x.2.1) * 1024 + x.2.2
      if key f < key e then some f else some e

/-! ### Validation (R14, R441) -/

/-- Header fields (R14 step 2; R2). -/
def headerErrors (bs : List Byte) (active : Option Cell) : List Nat :=
  must (decide (bs.take 4 = [0x43, 0x45, 0x4C, 0x4C])) 0 ++ inRange bs 4 2 0x0100 0x0100 ++ inRange bs 6 2 1 16 ++
  inRange bs 8 4 bs.length bs.length ++
  must (decide (byteAt bs 16 ≤ 5) && !(Config.gradeH && byteAt bs 16 == 0) && (match active with
    | some c => byteAt bs 16 == c.servoCode
    | none => true)) 16 ++
  must (decide (byteAt bs 17 ≤ 2) && (match active with
    | some c => byteAt bs 17 == c.mode
    | none => true)) 17 ++
  isZeroed bs 18 10

/-- Directory entries in order (R14 step 3): the offending fields. -/
def directoryErrors (bs : List Byte) (ds : List DirEnt) (amend : Bool) : List Nat :=
  let fin := 32 + 16 * ds.length
  (numbered 0 ds).flatMap (fun e =>
    let d := e.2
    must (decide (1 ≤ d.type) && decide (d.type ≤ 10) && !((ds.take e.1).any (fun o => o.type == d.type))) d.place ++
    must (decide (d.size = cellRecSize d.type)) (d.place + 2) ++
    must (decide (d.count ≤ cellRecMax d.type) && (!amend || (d.type != 1 && d.type != 3) || decide (1 ≤ d.count)))
      (d.place + 4) ++
    must (decide (fin ≤ d.offset) && decide (d.offset + d.size * d.count ≤ bs.length)) (d.place + 8))

/-- The first offending field of a section's records, and its record index. -/
def recordError (t : Nat) : List (Nat × List Byte) → Option (Nat × Nat)
  | [] => none
  | (k, r) :: rest => match lowest (cellRecErrors t k r) with
    | some o => some (k, o)
    | none => recordError t rest

/-- Sections in directory order (R14 step 5). -/
def sectionError (bs : List Byte) : List DirEnt → Option Verdict
  | [] => none
  | d :: rest =>
    if crc32c (d.body bs) ≠ d.crc then some ⟨stPayload, w32 (d.place + 12), 0⟩
    else match recordError d.type (numbered 0 (d.records bs)) with
      | some (k, o) => some (badAt (w32 (d.offset + d.size * k + o)) (ident d.type k))
      | none => sectionError bs rest

/-- Validate an image (R14); with an active cell it is an amendment (R441). -/
def validate (bs : List Byte) (active : Option Cell) : Except Verdict Cell :=
  if crc32c (bs.take 28) ≠ u32 bs 28 then .error ⟨stPayload, 28, 0⟩
  else match lowest (headerErrors bs active) with
  | some o => .error (badAt (w32 o))
  | none =>
    let ds := dirEnts bs (u16 bs 6) 32
    match (directoryErrors bs ds active.isSome).head? with
    | some o => .error (badAt (w32 o))
    | none =>
      let has := fun (t : Nat) => ds.any (fun d => d.type == t)
      if active.isNone && !has 1 then .error (badAt 6 0x01000000)
      else if active.isNone && !has 3 then .error (badAt 6 0x03000000)
      else match sectionError bs ds with
        | some v => .error v
        | none =>
          let c := (active.getD {}).withSections bs ds
          match firstCross c.crossErrors with
          | none => .ok c
          | some (t, k, o) => match ds.find? (fun d => d.type == t) with
            | some d => .error (badAt (w32 (d.offset + d.size * k + o)) (ident t k))
            | none => .error (badAt atKept (ident t k))

/-- Records of two lists that differ and of which one has a property. -/
def differWith {α : Type} [DecidableEq α] (p : α → Bool) : List α → List α → Bool
  | [], ys => ys.any p
  | xs, [] => xs.any p
  | x :: xs, y :: ys => (decide (x ≠ y) && (p x || p y)) || differWith p xs ys

/-- The image adds, removes or alters a safety zone, a capsule or sphere, a body source, or a node or point whose
safety flag is set (R11). -/
def altersSafety (old new : Cell) : Bool :=
  decide (old.zones ≠ new.zones) || decide (old.caps ≠ new.caps) || decide (old.bodies ≠ new.bodies) ||
  differWith (fun n => n.flags.testBit 0) old.nodes new.nodes ||
  differWith (fun p => p.flags.testBit 1) old.points new.points

/-- Chains whose chain record or capsule records an amendment alters (R175). -/
def alteredChains (old new : Cell) : List Nat :=
  (List.range 16).filter (fun c => decide (old.chainRec c ≠ new.chainRec c) ||
    decide (old.caps.filter (fun k => k.chain == c) ≠ new.caps.filter (fun k => k.chain == c)))

end Sys2Proof.Machine
end

