-- ==== Sys2Proof/Machine/SchedImage.lean ====
section
/-! DEFINITION. Schedule images (08_enlarger_and_schedules.md): the layout of R210 to R214, the checks of R215, cover and
binding (R216, R217), the cost model of R232, and SCHED_LOAD and SCHED_UNLOAD (R218, R219). -/

namespace Sys2Proof.Machine

/-! ### Records -/

def schedRecSize (t : Nat) : Nat := ([0, 8, 8, 12, 12, 12, 40, 4, 16, 4, 16, 8] : List Nat).getD t 0
def schedRecMax (t : Nat) : Nat :=
  ([0, 8192, 16384, 2097152, 2097152, 131072, 64, 8192, 1024, 1048576, 1024, 8] : List Nat).getD t 0

def varOf (r : List Byte) : Word × Nat := (wordAt r 0, byteAt r 4)
def conOf (r : List Byte) : Word × Nat × Nat := (wordAt r 0, byteAt r 4, byteAt r 5)
def matOf (r : List Byte) : MatEntry := ⟨u16 r 0, u16 r 2, wordAt r 4, wordAt r 8⟩
def vecEntOf (r : List Byte) : VecEntry := ⟨byteAt r 0, u16 r 2, wordAt r 4, wordAt r 8⟩
def vecOf (r : List Byte) : VecRec :=
  ⟨byteAt r 0, byteAt r 1, byteAt r 2, (List.range 8).map (fun p => u32 r (8 + 4 * p))⟩
def pairOf (r : List Byte) : PairRec :=
  ⟨byteAt r 0, byteAt r 1, byteAt r 2, byteAt r 3, byteAt r 4, u16 r 5, wordAt r 8⟩
def laneOf (r : List Byte) : LaneInstr :=
  ⟨byteAt r 0, byteAt r 1, byteAt r 2, byteAt r 3, byteAt r 4, byteAt r 5, u16 r 6, byteAt r 8⟩

/-- The directory entry of a section type, and the records of that section with their offsets. -/
def secOf (ds : List DirEnt) (t : Nat) : Option DirEnt := ds.find? (fun d => d.type == t)
def recsOf (bs : List Byte) (ds : List DirEnt) (t : Nat) : List (Nat × List Byte) :=
  match secOf ds t with
  | some d => (numbered 0 (d.records bs)).map (fun r => (d.offset + d.size * r.1, r.2))
  | none => []

/-- The image that checked bytes hold. -/
def schedOf (bs : List Byte) : SchedImage :=
  let ds := dirEnts bs (byteAt bs 11) 64
  let g := fun (t : Nat) => (recsOf bs ds t).map (·.2)
  { index := byteAt bs 6, problem := byteAt bs 7, chainMask := u16 bs 8, partitions := byteAt bs 10
    compiler := wordAt bs 40, length := u32 bs 12, nVar := u32 bs 16, nCon := u32 bs 20, family := wordAt bs 24, binding := wordAt bs 28
    evalKnots := (slice bs 32 8).map (·.toNat)
    vars := (g 1).map varOf, cons := (g 2).map conOf, pEnt := (g 3).map matOf, aEnt := (g 4).map matOf
    vEnt := (g 5).map vecEntOf, vecs := (g 6).map vecOf, blocks := (g 7).map (fun r => (u16 r 0, byteAt r 2))
    pairs := (g 8).map pairOf, consts := (g 9).map (fun r => wordAt r 0), program := (g 10).map laneOf
    vecWords := (g 11).map (fun r => u32 r 4) }

/-! ### The checks of R215: offending offsets of each -/

/-- Check 1 (CRC): the header, then each section that lies wholly inside the image. -/
def schedCrc (bs : List Byte) (ds : List DirEnt) : List Nat :=
  must (crc32c (bs.take 60) == u32 bs 60) 60 ++
  ds.flatMap (fun d => must (decide (bs.length < d.place + 16) || decide (bs.length < d.offset + d.size * d.count) ||
    crc32c (d.body bs) == d.crc) (d.place + 12))

/-- The eight knot offsets: strictly ascending from 1 to 32, then zeros. -/
def knotErrors (bs : List Byte) : List Nat :=
  (List.range 8).flatMap (fun i =>
    let v := byteAt bs (32 + i)
    let before := if i = 0 then 1 else byteAt bs (31 + i) + 1
    let ok := if v = 0 then true else decide (before ≤ v) && decide (v ≤ 32) && (i == 0 || byteAt bs (31 + i) != 0)
    must ok (32 + i))

/-- Check 2 (header). -/
def schedHeader (bs : List Byte) : List Nat :=
  must (decide (bs.take 4 = [0x53, 0x43, 0x48, 0x44])) 0 ++ inRange bs 4 2 0x0100 0x0100 ++ inRange bs 6 1 0 15 ++
  inRange bs 7 1 0 3 ++ inRange bs 8 2 1 65535 ++ inRange bs 10 1 1 8 ++ inRange bs 11 1 1 16 ++
  inRange bs 12 4 bs.length bs.length ++ inRange bs 16 4 1 8192 ++ inRange bs 20 4 0 16384 ++
  must (decide (u32 bs 24 ≠ 0)) 24 ++ knotErrors bs ++ isZeroed bs 44 16

/-- Check 3 (directory). -/
def schedDirectory (bs : List Byte) (ds : List DirEnt) : List Nat :=
  must (([1, 2, 3, 4, 5, 6, 7, 10, 11] : List Nat).all (fun t => (secOf ds t).isSome)) 11 ++
  (numbered 0 ds).flatMap (fun e =>
    let d := e.2
    let exact := if d.type = 1 then some (u32 bs 16) else if d.type = 2 then some (u32 bs 20)
      else if d.type = 11 then some (byteAt bs 10) else none
    must (decide (d.place + 16 ≤ bs.length) && decide (1 ≤ d.type) && decide (d.type ≤ 11) &&
      !((ds.take e.1).any (fun o => o.type == d.type))) d.place ++
    must (decide (d.size = schedRecSize d.type)) (d.place + 2) ++
    must (match exact with
      | some n => decide (d.count = n)
      | none => decide (d.count ≤ schedRecMax d.type) && (d.type != 4 || (match secOf ds 3 with
        | some p => decide (p.count + d.count ≤ 2097152)
        | none => true))) (d.place + 4) ++
    must (decide (64 + 16 * ds.length ≤ d.offset) && decide (d.offset + d.size * d.count ≤ bs.length)) (d.place + 8))

/-- A tag is repeated before its record. -/
def repeated (k : Nat) (ws : List Word) (w : Word) : Bool := (ws.take k).contains w

/-- Check 4 (variable and constraint records). -/
def schedTags (bs : List Byte) (ds : List DirEnt) : List Nat :=
  let one := fun (lo hi rk : Nat) (rs : List (Nat × List Byte)) =>
    let tags := rs.map (fun r => wordAt r.2 0)
    (numbered 0 rs).flatMap (fun e =>
      let w := wordAt e.2.2 0
      let j := fld w 23 20
      must (decide (lo ≤ fld w 31 28) && decide (fld w 31 28 ≤ hi) && decide (fld w 19 14 ≤ 32) &&
        (decide (j ≤ 7) || decide (j = 15)) && !repeated e.1 tags w) e.2.1 ++
      must (decide (byteAt e.2.2 5 ≤ rk)) (e.2.1 + 5) ++ must (zeroed e.2.2 6 2) (e.2.1 + 6))
  one 0 6 0 (recsOf bs ds 1) ++ one 8 12 1 (recsOf bs ds 2)

/-- Check 5 (partitions). -/
def schedPartitions (bs : List Byte) (ds : List DirEnt) : List Nat :=
  let n := byteAt bs 10
  (recsOf bs ds 1 ++ recsOf bs ds 2).flatMap (fun r => must (decide (byteAt r.2 4 < n)) (r.1 + 4)) ++
  (numbered 0 (recsOf bs ds 11)).flatMap (fun e =>
    must (decide (byteAt e.2.2 0 = e.1)) e.2.1 ++ must (zeroed e.2.2 1 3) (e.2.1 + 1))

/-- Entry records strictly ascending by owner, column, row; a record whose own fields are out of range is judged there. -/
def entryOrder (ok : MatEntry → Bool) (owner : MatEntry → Nat) : List (Nat × MatEntry) → List Nat
  | [] => []
  | [_] => []
  | a :: b :: r =>
    let key := fun (e : MatEntry) => (owner e * 65536 + e.col) * 65536 + e.row
    must (!ok a.2 || !ok b.2 || decide (key a.2 < key b.2)) b.1 ++ entryOrder ok owner (b :: r)

/-- Check 6 (P, A and vector entries). -/
def schedEntries (bs : List Byte) (ds : List DirEnt) (g : SchedImage) : List Nat :=
  let ps := (recsOf bs ds 3).map (fun r => (r.1, matOf r.2))
  let as_ := (recsOf bs ds 4).map (fun r => (r.1, matOf r.2))
  let vs := recsOf bs ds 5
  let vpart := fun (v : Nat) => (g.vars.getD v (0, 0)).2
  let cpart := fun (c : Nat) => (g.cons.getD c (0, 0, 0)).2.1
  let space := fun (id : Nat) => (g.vecs.find? (fun x => x.id == id)).map (·.space)
  ps.flatMap (fun e => must (decide (e.2.row < g.nVar) && decide (e.2.row ≤ e.2.col)) e.1 ++
    must (decide (e.2.col < g.nVar)) (e.1 + 2)) ++
  entryOrder (fun e => decide (e.row < g.nVar) && decide (e.col < g.nVar)) (fun e => vpart e.col) ps ++
  (numbered 0 (recsOf bs ds 1)).flatMap (fun v =>
    must (ps.any (fun e => e.2.row == v.1 && e.2.col == v.1)) v.2.1) ++
  as_.flatMap (fun e => must (decide (e.2.row < g.nCon)) e.1 ++ must (decide (e.2.col < g.nVar)) (e.1 + 2)) ++
  entryOrder (fun e => decide (e.row < g.nCon) && decide (e.col < g.nVar)) (fun e => cpart e.row) as_ ++
  (numbered 0 vs).flatMap (fun e =>
    let r := vecEntOf e.2.2
    must (space r.vector).isSome e.2.1 ++ must (zeroed e.2.2 1 1) (e.2.1 + 1) ++
    must (decide (r.index < (if space r.vector = some 1 then g.nCon else g.nVar)) &&
      !((vs.take e.1).any (fun o => byteAt o.2 0 == r.vector && u16 o.2 2 == r.index))) (e.2.1 + 2))

/-- Check 7 (blocks): ascending, covering every variable once, each in one partition. Blocks that end before the last variable
offend in the size of the last one; where there is no block at all, in the section's directory entry (log entry 29). -/
def schedBlocks (bs : List Byte) (ds : List DirEnt) (g : SchedImage) : List Nat :=
  let rs := recsOf bs ds 7
  let ends := (g.blocks.getLast?).map (fun b => b.1 + b.2)
  let part := fun (v : Nat) => (g.vars.getD v (0, 0)).2
  let errs := (numbered 0 rs).flatMap (fun e =>
    let b := (u16 e.2.2 0, byteAt e.2.2 2)
    let due := match (g.blocks.take e.1).getLast? with
      | some o => o.1 + o.2
      | none => 0
    must (decide (b.1 = due) && (List.range b.2).all (fun i => part (b.1 + i) == part b.1)) e.2.1 ++
    must (decide (1 ≤ b.2) && decide (b.2 ≤ 8) && decide (b.1 + b.2 ≤ g.nVar)) (e.2.1 + 2) ++
    must (zeroed e.2.2 3 1) (e.2.1 + 3))
  errs ++ must (decide (ends = some g.nVar)) (match rs.getLast? with
    | some r => r.1 + 2
    | none => ((secOf ds 7).map (·.place)).getD 0)

/-- Elements of a space that a partition owns. -/
def SchedImage.owned (g : SchedImage) (space p : Nat) : Nat :=
  if space = 0 then (g.vars.filter (fun v => v.2 == p)).length else (g.cons.filter (fun c => c.2.1 == p)).length

/-- The space that a role must have. -/
def roleSpace (role space : Nat) : Bool :=
  if role = 1 ∨ role = 4 then space == 0 else if role = 0 then decide (space ≤ 1) else space == 1

/-- Check 8 (vectors). A missing role offends in the section's directory entry where no record does (log entry 29). -/
def schedVectors (bs : List Byte) (ds : List DirEnt) (g : SchedImage) : List Nat :=
  let rs := recsOf bs ds 6
  let words := fun (x : VecRec) (p : Nat) => (g.owned x.space p + 63) / 64
  let errs := (numbered 0 rs).flatMap (fun e =>
    let x := vecOf e.2.2
    let before := g.vecs.take e.1
    must (decide (x.id ≤ 63) && !(before.any (fun o => o.id == x.id))) e.2.1 ++
    must (decide (x.space ≤ 1)) (e.2.1 + 1) ++
    must (decide (x.role ≤ 6) && roleSpace x.role x.space &&
      !(decide (1 ≤ x.role) && decide (x.role ≤ 5) && before.any (fun o => o.role == x.role))) (e.2.1 + 2) ++
    must (zeroed e.2.2 3 5) (e.2.1 + 3) ++
    (List.range g.partitions).flatMap (fun p =>
      let b := x.bases.getD p 0
      let n := words x p
      must (decide (n = 0) || (decide (b + n ≤ 11264) && before.all (fun o =>
        let c := o.bases.getD p 0
        let m := words o p
        decide (m = 0) || decide (b + n ≤ c) || decide (c + m ≤ b)))) (e.2.1 + 8 + 4 * p)))
  errs ++ must (!errs.isEmpty || ([1, 2, 3, 4, 5] : List Nat).all (fun r => g.vecs.any (fun x => x.role == r)))
    (((secOf ds 6).map (·.place)).getD 0)

/-- P entries, A entries and blocks that a partition owns (R213). -/
def SchedImage.pOwned (g : SchedImage) (p : Nat) : Nat :=
  (g.pEnt.filter (fun e => (g.vars.getD e.col (0, 0)).2 == p)).length
def SchedImage.aOwned (g : SchedImage) (p : Nat) : Nat :=
  (g.aEnt.filter (fun e => (g.cons.getD e.row (0, 0, 0)).2.1 == p)).length
def SchedImage.bOwned (g : SchedImage) (p : Nat) : Nat :=
  (g.blocks.filter (fun b => (g.vars.getD b.1 (0, 0)).2 == p)).length

/-- Check 9 (footprint, R209). -/
def schedFootprint (bs : List Byte) (ds : List DirEnt) (g : SchedImage) : List Nat :=
  (numbered 0 (recsOf bs ds 11)).flatMap (fun e =>
    must (decide (2 * (g.pOwned e.1 + g.aOwned e.1) + 36 * g.bOwned e.1 + u32 e.2.2 4 ≤ 720896)) (e.2.1 + 4))

/-- A slot is evaluated under R202. -/
def SchedImage.slotUsed (g : SchedImage) (s : Nat) : Bool :=
  decide (s = 0) || (decide (s ≤ 8) && decide (g.evalKnots.getD (s - 1) 0 ≠ 0))

/-- A source word is valid (R206, check 10). -/
def SchedImage.sourceOk (g : SchedImage) (w : Word) : Bool :=
  let unused := fun (hi lo : Nat) => fld w hi lo == 0
  match fld w 31 28 with
  | 0 => unused 27 20 && decide (fld w 19 0 < g.consts.length)
  | 1 => unused 11 0 && g.slotUsed (fld w 23 20) && decide (fld w 19 16 ≤ 5) && decide (fld w 15 12 ≤ 7)
  | 2 => unused 15 0 && g.slotUsed (fld w 23 20) && decide (fld w 19 16 ≤ 6)
  | 3 => unused 18 10 && decide (fld w 27 23 ≤ 16) && g.slotUsed (fld w 22 19) && decide (fld w 9 0 < g.pairs.length)
  | 4 => unused 9 0 && decide (fld w 27 24 ≤ 3) && decide (fld w 19 16 ≤ (if fld w 27 24 = 3 then 0 else 7)) &&
      decide (1 ≤ fld w 15 10) && decide (fld w 15 10 ≤ 32)
  | 5 => unused 27 24 && unused 15 3 && decide (fld w 19 16 ≤ 7) && decide (fld w 2 0 ≤ 5)
  | 6 => unused 27 24 && unused 15 0 && decide (fld w 19 16 ≤ 7)
  | 7 => unused 15 0 && decide (fld w 27 24 ≤ 1) && decide (fld w 19 16 ≤ 7)
  | 8 => unused 27 6
  | _ => false

/-- The source words of the entries with the offsets of their records. -/
def schedSources (bs : List Byte) (ds : List DirEnt) : List (Nat × Word) :=
  (recsOf bs ds 3 ++ recsOf bs ds 4 ++ recsOf bs ds 5).map (fun r => (r.1 + 4, wordAt r.2 4))

/-- Check 11 (live entries): the entry past the limit. -/
def liveErrors (srcs : List (Nat × Word)) : List Nat :=
  let live := srcs.filter (fun e => fld e.2 31 28 != 0)
  if live.length ≤ 262144 then []
  else (live.filter (fun e => decide (262144 < (live.filter (fun o => decide (o.1 ≤ e.1))).length))).map (·.1)

/-- The count of set bits below `n`. -/
def ones (n m : Nat) : Nat := (maskBits n m).length

/-- Check 12 (separation pairs). -/
def schedPairs (bs : List Byte) (ds : List DirEnt) (g : SchedImage) : List Nat :=
  let inMask := fun (c : Nat) => decide (c < 16) && g.chainMask.testBit c
  (numbered 0 (recsOf bs ds 8)).flatMap (fun e =>
    let r := e.2.2
    let x := pairOf r
    let evals := ((g.pairs.take (e.1 + 1)).map (fun p => ones 9 p.slots)).sum
    must (decide (x.pkind ≤ 1)) e.2.1 ++ must (inMask x.chainA) (e.2.1 + 1) ++ must (decide (x.capA ≤ 11)) (e.2.1 + 2) ++
    must (if x.pkind = 0 then x.b != x.chainA && inMask x.b else decide (x.b ≤ 63)) (e.2.1 + 3) ++
    must (decide (x.capB ≤ (if x.pkind = 0 then 11 else 3))) (e.2.1 + 4) ++
    must (decide (x.slots < 512) && (maskBits 9 x.slots).all g.slotUsed && decide (evals ≤ 1024)) (e.2.1 + 5) ++
    must (zeroed r 7 1) (e.2.1 + 7) ++ must (f32Finite x.margin && f32Le 0 x.margin) (e.2.1 + 8) ++
    must (zeroed r 12 4) (e.2.1 + 12))

/-! Lane operations of R214. -/
abbrev opHalt : Nat := 0
abbrev opSpmv : Nat := 1
abbrev opAxpy : Nat := 2
abbrev opDot : Nat := 3
abbrev opSdiv : Nat := 4
abbrev opBsolve : Nat := 5
abbrev opFactor : Nat := 6
abbrev opProj : Nat := 7
abbrev opCopy : Nat := 8
abbrev opOuter : Nat := 9
abbrev opInner : Nat := 10
abbrev opEnd : Nat := 11
abbrev opSync : Nat := 12
abbrev opWarm : Nat := 13
abbrev opEmit : Nat := 14

/-- The space of a declared vector. -/
def SchedImage.spaceOf (g : SchedImage) (id : Nat) : Option Nat := (g.vecs.find? (fun x => x.id == id)).map (·.space)

/-- The space in which an operation of the vector kind works: that of its destination, or of an operand of DOT. -/
def SchedImage.laneSpace (g : SchedImage) (i : LaneInstr) : Nat :=
  if i.op = opDot then ((g.spaceOf i.a).getD ((g.spaceOf i.b).getD 0)) else (g.spaceOf i.dst).getD 0

/-- The flags that an operation honours (R228). -/
def flagsOk (op flags : Nat) : Bool :=
  if op = opSpmv then decide (flags < 16) && decide (flags % 4 ≤ 2)
  else if op = opAxpy then decide (flags < 16) && decide (flags % 4 = 0)
  else if op = opSdiv then decide (flags = 0) || decide (flags = 4)
  else decide (flags = 0)

/-- The operand rules of one instruction (check 13), as offsets in its record. -/
def SchedImage.laneErrors (g : SchedImage) (r : List Byte) : List Nat :=
  let i := laneOf r
  let vec := fun (id sp : Nat) => id == 0xFF || g.spaceOf id == some sp
  let dst := fun (sp : Nat) => g.spaceOf i.dst == some sp
  let idle := fun (v : Nat) => v == 0xFF
  let scal := fun (v : Nat) => decide (v ≤ 15) || v == 0xFF
  let sp := g.laneSpace i
  let ms := i.flags % 4
  let inS := if ms = 2 then 1 else 0
  let outS := if ms = 1 then 1 else 0
  let declared := (g.spaceOf i.dst).isSome
  must (decide (i.op ≤ 14)) 0 ++ must (flagsOk i.op i.flags) 1 ++
  must (if i.op = opSpmv then dst outS else if i.op = opAxpy ∨ i.op = opProj ∨ i.op = opCopy then declared
    else if i.op = opBsolve then dst 0 else if i.op = opDot ∨ i.op = opSdiv then decide (4 ≤ i.dst) && decide (i.dst ≤ 15)
    else true) 2 ++
  must (if i.op = opSpmv then vec i.a inS else if i.op = opBsolve then vec i.a 0
    else if i.op = opAxpy ∨ i.op = opProj ∨ i.op = opCopy ∨ i.op = opDot then vec i.a sp
    else if i.op = opSdiv then scal i.a else idle i.a) 3 ++
  must (if i.op = opAxpy ∨ i.op = opProj ∨ i.op = opDot then vec i.b sp else if i.op = opSdiv then scal i.b else idle i.b) 4 ++
  must (if i.op = opProj then vec i.c sp else idle i.c) 5 ++
  must (i.count == 0 || i.op == opOuter || i.op == opInner) 6 ++
  must (if i.op = opAxpy then scal i.s else idle i.s) 8 ++ must (zeroed r 9 7) 9

/-- Where a walk over the lane program stands: 0 before OUTER, 1 in it, 2 in INNER, 3 after INNER, 4 after OUTER. -/
structure Walk where
  stage : Nat
  warm  : Bool
  emit  : Bool
  inner : Bool
  errs  : List Nat
  deriving DecidableEq, Repr

/-- One instruction of the walk; `last` for the last one. An element in a wrong place is present, and offends there. -/
def walkStep (w : Walk) (ofs op : Nat) (last : Bool) : Walk :=
  let bad := { w with errs := w.errs ++ [ofs] }
  if op = opHalt then (if last then w else bad)
  else if op = opWarm then (if w.stage = 0 ∧ w.warm = false then { w with warm := true } else { bad with warm := true })
  else if op = opOuter then (if w.stage = 0 then { w with stage := 1 } else bad)
  else if op = opInner then (if w.stage = 1 then { w with stage := 2, inner := true } else { bad with inner := true })
  else if op = opEnd then
    if w.stage = 2 then { w with stage := 3 } else if w.stage = 1 ∨ w.stage = 3 then { w with stage := 4 } else bad
  else if op = opFactor then (if w.stage = 2 then bad else w)
  else if op = opEmit then (if w.stage = 4 ∧ w.emit = false then { w with emit := true } else { bad with emit := true })
  else w

/-- The walk over a program. -/
def walkAll (w : Walk) : List (Nat × Nat) → Walk
  | [] => w
  | (o, op) :: r => walkAll (walkStep w o op r.isEmpty) r

/-- Check 13 (lane program). -/
def schedProgram (bs : List Byte) (ds : List DirEnt) (g : SchedImage) : List Nat :=
  let rs := recsOf bs ds 10
  let w := walkAll ⟨0, false, false, false, []⟩ (rs.map (fun r => (r.1, byteAt r.2 0)))
  let ends := match rs.getLast? with
    | some r => byteAt r.2 0 == opHalt
    | none => false
  must (w.warm && w.emit && w.inner && w.stage == 4 && ends) (((secOf ds 10).map (·.place)).getD 0) ++
  rs.flatMap (fun r => (g.laneErrors r.2).map (fun o => r.1 + o)) ++ w.errs

/-- The first failing check of R215 and its offset. -/
def schedCheck (bs : List Byte) : Option (Nat × Nat) :=
  let ds := dirEnts bs (byteAt bs 11) 64
  let g := schedOf bs
  match (schedCrc bs ds).head? with
  | some o => some (1, o)
  | none => match lowest (schedHeader bs) with
  | some o => some (2, o)
  | none => match lowest (schedDirectory bs ds) with
  | some o => some (3, o)
  | none =>
    let later := [(4, lowest (schedTags bs ds)), (5, lowest (schedPartitions bs ds)), (6, lowest (schedEntries bs ds g)),
      (7, lowest (schedBlocks bs ds g)), (8, lowest (schedVectors bs ds g)), (9, lowest (schedFootprint bs ds g)),
      (10, lowest ((schedSources bs ds).flatMap (fun e => must (g.sourceOk e.2) e.1))),
      (11, lowest (liveErrors (schedSources bs ds))), (12, lowest (schedPairs bs ds g)),
      (13, lowest (schedProgram bs ds g))]
    later.findSome? (fun e => e.2.map (fun o => (e.1, o)))

/-! ### Cover and binding (R216, R217) -/

/-- Capsules (skind 0) that a cell declares for a chain, as a mask. -/
def Cell.capMask (c : Cell) (chain : Nat) : Nat :=
  ((List.range 16).filter (fun i => c.caps.any (fun k => k.chain == chain && k.skind == 0 && k.index == i))).foldl
    (fun m i => m + 2 ^ i) 0

/-- The binding CRC of a chain mask (R217). -/
def Cell.bindingCrc (c : Cell) (mask : Nat) : Nat :=
  crc32c ((maskBits 16 mask).flatMap (fun i =>
    leBytes 1 i ++ leBytes 1 (((c.chainRec i).map (·.axes)).getD 0) ++ leBytes 2 (c.capMask i)))

/-- Every source word of an image. -/
def SchedImage.sources (g : SchedImage) : List Word :=
  g.pEnt.map (·.source) ++ g.aEnt.map (·.source) ++ g.vEnt.map (·.source)

/-- Chain and joint of a source word whose joint field is in use. -/
def sourceJoint (w : Word) : Option (Nat × Nat) :=
  match fld w 31 28 with
  | 1 => some (fld w 27 24, fld w 15 12)
  | 4 => if fld w 27 24 = 3 then none else some (fld w 23 20, fld w 19 16)
  | 5 => some (fld w 23 20, fld w 19 16)
  | 6 => some (fld w 23 20, fld w 19 16)
  | 7 => some (fld w 23 20, fld w 19 16)
  | _ => none

/-- A pair names only capsules that the cell declares. -/
def Cell.pairDeclared (c : Cell) (p : PairRec) : Bool :=
  let has := fun (ch i : Nat) => c.caps.any (fun k => k.chain == ch && k.skind == 0 && k.index == i)
  has p.chainA p.capA && (p.pkind != 0 || has p.b p.capB)

/-- An image covers its chains in a cell (R216). -/
def SchedImage.covers (g : SchedImage) (c : Cell) : Bool :=
  (maskBits 16 g.chainMask).all (fun i => (c.chainRec i).isSome) &&
  g.binding == w32 (c.bindingCrc g.chainMask) &&
  g.sources.all (fun w =>
    (match sourceJoint w with
     | some (ch, j) => decide (j < ((c.chainRec ch).map (·.axes)).getD 0)
     | none => true) &&
    (fld w 31 28 != 3 || (match g.pairs[fld w 9 0]? with
     | some p => c.pairDeclared p
     | none => false))) &&
  g.pairs.all (fun p => p.pkind == 0 || c.bodies.any (fun b => decide (p.capB < b.capsPerBody)))

/-! ### The cost model (R232) -/

/-- The cost of an operation in one partition, in SOLVER cycles. -/
def SchedImage.opCost (g : SchedImage) (i : LaneInstr) (p : Nat) : Nat :=
  let n := g.owned 0 p
  let m := g.owned 1 p
  let ep := g.pOwned p
  let ea := g.aOwned p
  let b := g.bOwned p
  let v := if g.laneSpace i = 1 then m else n
  if i.op = opSpmv then (if i.flags % 4 = 0 then ceilDiv (2 * ep) 64 + 48 else ceilDiv ea 64 + 48)
  else if i.op = opAxpy ∨ i.op = opCopy ∨ i.op = opProj then ceilDiv v 64 + 8
  else if i.op = opDot then ceilDiv v 64 + 24 + 8 * g.partitions
  else if i.op = opSdiv then 16
  else if i.op = opBsolve then 72 * ceilDiv b 64 + 8
  else if i.op = opFactor then 8 * ceilDiv ea 64 + 176 * ceilDiv b 64 + 16
  else if i.op = opWarm then 2 * ceilDiv (n + m) 64 + ceilDiv ea 64 + ceilDiv m 64 + 64
  else if i.op = opEmit then ceilDiv n 64 + 16
  else if i.op = opSync then 24
  else 2

/-- The largest cost over the partitions. -/
def SchedImage.cost (g : SchedImage) (i : LaneInstr) : Nat :=
  (List.range g.partitions).foldl (fun m p => max m (g.opCost i p)) 0

/-- The cost of the quality report. -/
def SchedImage.reportCost (g : SchedImage) : Nat :=
  (List.range g.partitions).foldl (fun m p => max m (ceilDiv (2 * g.pOwned p) 64 + 2 * ceilDiv (g.aOwned p) 64 +
    4 * ceilDiv (g.owned 1 p) 64 + 3 * ceilDiv (g.owned 0 p) 64 + 256)) 0

/-- Iterations of a loop instruction: its count, or the default. -/
def loopCount (count dflt : Nat) : Nat := if count = 0 then dflt else count

/-- The cost of a program from a stage of the walk on, with the number of times the present instruction runs. -/
def SchedImage.programCost (g : SchedImage) (outer inner : Nat) : Nat → Nat → List LaneInstr → Nat
  | _, _, [] => 0
  | o, k, i :: r =>
    let here := g.cost i * (o * k)
    if i.op = opOuter then here + g.programCost outer inner (loopCount i.count outer) 1 r
    else if i.op = opInner then here + g.programCost outer inner o (loopCount i.count inner) r
    else if i.op = opEnd then here + g.programCost outer inner (if r.any (fun x => x.op == opEnd) then o else 1) 1 r
    else here + g.programCost outer inner o k r

/-- The prediction of R232 at given default counts. -/
def SchedImage.predict (g : SchedImage) (outer inner : Nat) : Nat :=
  200 + g.programCost outer inner 1 1 g.program + g.reportCost

/-! ### Storing (R218, R219) -/

/-- Current as an image of its problem. -/
def SolverSt.isCurrent (v : SolverSt) (i : Nat) : Bool := v.current.toList.any (fun c => c == some i)

/-- Bytes of the region that the stored images other than `i` take. -/
def SolverSt.stored (v : SolverSt) (i : Nat) : Nat :=
  ((numbered 0 v.images.toList).filter (fun e => e.1 != i)).foldl (fun n e => n + ((e.2.map (·.length)).getD 0)) 0

/-- The checks of a whole schedule image, and storing it (R215, R218). -/
def State.storeSched (s : State) (p : Pkt) (bs : List Byte) : State :=
  match schedCheck bs with
  | some (code, o) =>
    let s := s.setSolver { s.solver with
      loadErr := w32 (code * 16777216 + byteAt bs 6 * 65536), loadOfs := w32 o }
    s.finish p (if code = 1 then ⟨stPayload, 0, 0⟩ else badAt (w32 o))
  | none =>
    let g := schedOf bs
    if s.solver.isCurrent g.index ∨ 536870912 < s.solver.stored g.index + g.length then s.finish p busy
    else (s.setSolver { s.solver with images := s.solver.images.set (f16 g.index) (some g) }).finishOk p (w32 g.index)

/-- SCHED_LOAD (R10, R77, R215, R218). -/
def execSchedLoad (q : Fin 16) (tag : Fin 1024) (s : State) : Host.Outcome State Fault Refusal :=
  .next (s.startPkt q tag 0x40 (fun p t => t.fragment .sched p false (fun bs u => u.storeSched p bs)))

/-- A stored image named by param0 (R219). -/
def SolverSt.named (v : SolverSt) (p0 : Word) : Option SchedImage :=
  if 15 < p0.toNat then none else v.images[f16 p0.toNat]

/-- SCHED_UNLOAD (R77, R218, R219): a current image only while no cell is active. -/
def execSchedUnload (q : Fin 16) (tag : Fin 1024) (s : State) : Host.Outcome State Fault Refusal :=
  .next (s.startPkt q tag 0x42 (fun p t =>
    match t.solver.named p.p0 with
    | none => t.finish p (badAt atP0)
    | some g =>
      if t.solver.isCurrent g.index && t.cellOn then t.finish p busy
      else (t.setSolver { t.solver with
        images := t.solver.images.set (f16 g.index) none
        current := foldOn (List.range 4) t.solver.current (fun v i => vmod v (f4 i) (fun c => if c = some g.index then none else c)) }).finishOk p))

end Sys2Proof.Machine
end

