-- ==== Sys2Proof/Machine/Flags.lean ====
section
/-! DEFINITION. The arithmetic of a signal tile with its flags (R246 to R248, R253, R255): ALU results with N, Z, C and V,
saturation, accumulator results with guard overflow, and the block exponent count. -/

namespace Sys2Proof.Machine

/-- An ALU result: the word, its flags, and whether it was saturated. -/
structure Alu where
  val : Word
  n   : Bool
  z   : Bool
  c   : Bool
  v   : Bool
  sat : Bool
  deriving DecidableEq, Repr

/-- Flags N, Z, C, V in TST bits [3:0] (N is bit 3). -/
def Alu.bits (a : Alu) : Nat := 8 * b2n a.n + 4 * b2n a.z + 2 * b2n a.c + b2n a.v

/-- The signed reading of a word. -/
def s32 (w : Word) : Int := sgn 32 w.toNat

/-- An integer fits 32 signed bits. -/
def fits32 (x : Int) : Bool := decide (-(2 ^ 31 : Int) ≤ x) && decide (x < 2 ^ 31)

/-- Saturate to 32 signed bits. -/
def sat32 (x : Int) : Int := if x < -(2 ^ 31 : Int) then -(2 ^ 31 : Int) else if 2 ^ 31 ≤ x then 2 ^ 31 - 1 else x

/-- Flags of a result; `x` is the exact signed result. -/
def aluOf (x : Int) (carry saturating : Bool) : Alu :=
  let v := if saturating then i32 (sat32 x) else i32 x
  ⟨v, decide (s32 v < 0), decide (v = 0), carry, !fits32 x, saturating && !fits32 x⟩

/-- ADD and ADDS. -/
def aluAdd (a b : Word) (saturating : Bool) : Alu :=
  aluOf (s32 a + s32 b) (decide (2 ^ 32 ≤ a.toNat + b.toNat)) saturating

/-- SUB, SUBS and CMP; the sense of C is an unstated constant of the part. -/
def aluSub (a b : Word) (saturating : Bool) : Alu :=
  aluOf (s32 a - s32 b) (decide (a.toNat < b.toNat) == Config.carryIsBorrow) saturating

/-- Leading bits of a word equal to its sign bit, less one, from bit `n` down. -/
def clsFrom (w : Nat) (sign : Bool) : Nat → Nat
  | 0 => 0
  | n + 1 => if w.testBit n == sign then clsFrom w sign n + 1 else 0

/-- CLS (R253): 31 for 0 and for all ones. -/
def cls32 (w : Word) : Nat := clsFrom w.toNat (bitAt w 31) 31

/-- A signed shift: left by `n`, or right arithmetically by `−n`. -/
def shiftInt (x n : Int) : Int := if 0 ≤ n then x * 2 ^ n.toNat else x / 2 ^ (-n).toNat

/-- ASH: left shifts saturate; a count outside −32 to 31 gives a free value. -/
def aluAsh (a : Word) (n : Int) : Word :=
  if n < -32 ∨ 31 < n then i32 (Config.shiftOutOfRange 0 (s32 a) n) else i32 (sat32 (shiftInt (s32 a) n))

/-- LSH; a count outside −32 to 31 gives a free value. -/
def aluLsh (a : Word) (n : Int) : Word :=
  if n < -32 ∨ 31 < n then i32 (Config.shiftOutOfRange 1 a.toNat n) else i32 (shiftInt (a.toNat : Int) n)

/-- The signed reading of an accumulator. -/
def accInt (a : Acc) : Int := sgn 80 a.toNat

/-- Write an exact result to an accumulator: saturate or wrap on guard overflow (R247). The flag says that one occurred. -/
def accOf (x : Int) (wrap : Bool) : Acc × Bool :=
  if -(2 ^ 79 : Int) ≤ x ∧ x < 2 ^ 79 then (BitVec.ofInt 80 x, false)
  else if wrap then (BitVec.ofInt 80 x, true)
  else (BitVec.ofInt 80 (if x < 0 then -(2 ^ 79 : Int) else 2 ^ 79 - 1), true)

/-- The product of two words, shifted left by one with MODE.frac (R246). -/
def product (a b : Word) (frac : Bool) : Int := s32 a * s32 b * (if frac then 2 else 1)

/-- The high part rounded at bit 31 (R248). -/
def roundHigh (x : Int) (even : Bool) : Int :=
  let q := x / 2 ^ 32
  let r := x % 2 ^ 32
  if r < 2 ^ 31 then q else if r = 2 ^ 31 ∧ even = true then q + q % 2 else q + 1

end Sys2Proof.Machine
end

