-- ==== Sys2Proof/Machine/Tiles.lean ====
section
/-! DEFINITION. Signal tiles (10_signal_tiles.md): kernel images (R259), the instruction word and registers (R254), memory
slots and address generators (R250 to R253), every instruction of R255 to R258, activations (R261 to R266), and the
opcodes KERNEL_LOAD, KERNEL_UNLOAD and TILE_STATUS. A row of an instruction runs the next instruction of its tile. -/

namespace Sys2Proof.Machine

/-! ### Instruction words (R254) -/

/-- A field of an instruction word. -/
def dfld (w : DWord) (hi lo : Nat) : Nat := w.toNat / 2 ^ lo % 2 ^ (hi - lo + 1)

def insOp (w : DWord) : Nat := dfld w 63 58
def insDst (w : DWord) : Nat := dfld w 57 52
def insSa (w : DWord) : Nat := dfld w 51 46
def insSb (w : DWord) : Nat := dfld w 45 40
def insImm (w : DWord) : Bool := w.toNat.testBit 39
def insNeg (w : DWord) : Bool := w.toNat.testBit 38
def insCond (w : DWord) : Nat := dfld w 35 32
/-- The 32-bit immediate field. -/
def insWord (w : DWord) : Word := w32 (dfld w 31 0)
/-- The branch target: immediate[11:0]. -/
def insTarget (w : DWord) : Nat := dfld w 11 0

/-- The two memory slots of an instruction; none with imm = 1. -/
def insSlots (w : DWord) : List Nat := if insImm w then [] else [dfld w 31 16, dfld w 15 0]
def slotEn (k : Nat) : Bool := k.testBit 15
def slotStore (k : Nat) : Bool := k.testBit 14
def slotGen (k : Nat) : Nat := k / 4096 % 4
def slotUpd (k : Nat) : Bool := k.testBit 11
def slotDetect (k : Nat) : Bool := k.testBit 10
def slotReg (k : Nat) : Nat := k / 64 % 16

/-- Op values of R255. -/
def knownTileOp (op : Nat) : Bool :=
  decide (op ≤ 0x0B) || (decide (0x10 ≤ op) && decide (op ≤ 0x25)) || (decide (0x30 ≤ op) && decide (op ≤ 0x37))

/-- A code of a register other than an accumulator; a code of an accumulator. -/
def plainCode (c : Nat) : Bool := decide (c < 0x10) || (decide (0x14 ≤ c) && decide (c < 0x30))
def accCode (c : Nat) : Bool := decide (0x10 ≤ c) && decide (c ≤ 0x13)

/-- Which fields an op uses: destination and sources as plain or accumulator codes. -/
def dstAcc (op : Nat) : Bool := op == 1 || op == 2 || op == 6 || op == 7 || op == 8
def dstPlain (op : Nat) : Bool :=
  (decide (9 ≤ op) && decide (op ≤ 0x1D)) || decide (op = 0x1F) || (decide (0x20 ≤ op) && decide (op ≤ 0x22))
def saAcc (op : Nat) : Bool := op == 6 || op == 9 || op == 0x0A || op == 0x0B
def saPlain (op : Nat) : Bool :=
  op == 1 || op == 2 || op == 8 || (decide (0x10 ≤ op) && decide (op ≤ 0x20)) || op == 0x22 || op == 0x25 ||
  op == 0x33 || op == 0x34
def sbPlain (op : Nat) : Bool :=
  op == 1 || op == 2 || op == 7 || (decide (0x10 ≤ op) && decide (op ≤ 0x18)) || op == 0x1B || op == 0x1C ||
  op == 0x1E || op == 0x1F

/-- A defined instruction (R255). -/
def insDefined (w : DWord) : Bool :=
  let op := insOp w
  knownTileOp op && dfld w 37 36 == 0 &&
  (!dstAcc op || accCode (insDst w)) && (!dstPlain op || plainCode (insDst w)) &&
  (!saAcc op || accCode (insSa w)) && (!saPlain op || plainCode (insSa w)) && (!sbPlain op || plainCode (insSb w)) &&
  ((op != 0x30 && op != 0x1F) || decide (insCond w ≤ 11)) &&
  (insSlots w).all (fun k => k % 64 == 0)

/-- An instruction with a program target: BR, CALL, DBNZ, LOOP. -/
def hasTarget (op : Nat) : Bool := op == 0x30 || op == 0x31 || op == 0x33 || op == 0x34

/-! ### Kernel images (R259) -/

/-- A word address lies inside the windows of a kernel (R261). -/
def KernelImage.inWindow (k : KernelImage) (a : Nat) : Bool :=
  if k.memcfg = 1 then decide (a < k.xBytes / 4)
  else decide (a < k.xBytes / 4) || (decide (16384 ≤ a) && decide (a < 16384 + k.yBytes / 4))

/-- A block of `n` words lies inside the windows. -/
def KernelImage.holds (k : KernelImage) (a n : Nat) : Bool := (List.range n).all (fun i => k.inWindow (a + i))

/-- Instructions of a program. -/
def programOf : Nat → List Byte → List DWord
  | 0, _ => []
  | n + 1, bs => BitVec.ofNat 64 (leAt bs 0 8) :: programOf n (bs.drop 8)

/-- The image that checked bytes hold. -/
def kernelOf (bs : List Byte) : KernelImage :=
  let n := u16 bs 12
  { memcfg := byteAt bs 7, mode := byteAt bs 8, bindKind := byteAt bs 9, rate := byteAt bs 10
    program := programOf n (bs.drop 64), ivec := u16 bs 14, xBytes := u32 bs 16, yBytes := u32 bs 20
    cycles := u16 bs 24, inOff := u16 bs 26, outOff := u16 bs 28, extraOff := u16 bs 30, extraLen := u16 bs 32
    ien := u16 bs 34, init := wordsAt (slice bs (64 + 8 * n) (u32 bs 36)) 0 ((u32 bs 36 + 3) / 4) }

/-- Header fields out of range, and blocks outside the declared memory. -/
def kernelHeaderErrors (bs : List Byte) : List Nat :=
  let k := kernelOf (bs.take 64)
  let single := byteAt bs 7 == 1
  let loop := byteAt bs 9 == 0
  must (decide (bs.take 4 = [0x4B, 0x45, 0x52, 0x4E])) 0 ++ inRange bs 4 2 0x0100 0x0100 ++ inRange bs 6 1 0 63 ++
  inRange bs 7 1 0 1 ++ inRange bs 9 1 0 1 ++ inRange bs 10 1 0 (if loop then 15 else 1) ++ isZeroed bs 11 1 ++
  inRange bs 12 2 1 4096 ++ must (decide (u16 bs 14 = 0xFFFF) || decide (u16 bs 14 < u16 bs 12)) 14 ++
  must (u32 bs 16 % 4 == 0 && decide (u32 bs 16 ≤ (if single then 131072 else 65536))) 16 ++
  must (u32 bs 20 % 4 == 0 && decide (u32 bs 20 ≤ (if single then 0 else 65536))) 20 ++
  inRange bs 24 2 1 65535 ++
  must (k.holds (u16 bs 26) (if loop then 5 + u16 bs 32 / 4 else 1)) 26 ++ must (k.holds (u16 bs 28) 8) 28 ++
  must (if loop then decide (u16 bs 30 + u16 bs 32 ≤ 1400) else u16 bs 30 == 0) 30 ++
  must (decide (u16 bs 32 ≤ 256) && u16 bs 32 % 4 == 0) 32 ++
  must (decide (u32 bs 36 ≤ u32 bs 16 + u32 bs 20) &&
    decide (64 + 8 * u16 bs 12 + u32 bs 36 + 4 = bs.length)) 36 ++ isZeroed bs 40 20

/-- Instructions that are undefined or branch outside the program. -/
def programErrors (n : Nat) : Nat → List DWord → List Nat
  | _, [] => []
  | i, w :: r => must (insDefined w && (!hasTarget (insOp w) || decide (insTarget w < n))) (64 + 8 * i) ++
      programErrors n (i + 1) r

/-- The checks of a kernel image (R259). -/
def kernelCheck (bs : List Byte) : Option Verdict :=
  if crc32c (bs.take 60) ≠ u32 bs 60 then some ⟨stPayload, 0, 0⟩
  else match lowest (kernelHeaderErrors bs) with
  | some o => some (badAt (w32 o))
  | none =>
    let n := 8 * u16 bs 12 + u32 bs 36
    if crc32c (slice bs 64 n) ≠ u32 bs (64 + n) then some ⟨stPayload, 0, 0⟩
    else (lowest (programErrors (u16 bs 12) 0 (programOf (u16 bs 12) (bs.drop 64)))).map (fun o => badAt (w32 o))

/-- Initial data words by address: X first, then Y (R261). -/
def KernelImage.initial (k : KernelImage) : List (Nat × Word) :=
  (numbered 0 k.init).foldl (fun m e =>
    mput 0 m (if k.memcfg = 1 ∨ e.1 < k.xBytes / 4 then e.1 else 16384 + (e.1 - k.xBytes / 4)) e.2) []

/-- KERNEL_LOAD (R259, R260): a bound kernel only when it is faulted, and it stays so. -/
def execKernelLoad (q : Fin 16) (tag : Fin 1024) (s : State) : Host.Outcome State Fault Refusal :=
  .next (s.startPkt q tag 0x50 (fun p t => t.fragment .kernel p false (fun bs u =>
    match kernelCheck bs with
    | some v => u.finish p v
    | none =>
      let k := f64 (byteAt bs 6)
      let x := u.tiles.kernels[k]
      match x.state with
      | .bound => u.finish p busy
      | .faulted => (u.setKernel k { x with image := some (kernelOf bs) }).finishOk p (w32 k.val)
      | _ => (u.setKernel k { x with image := some (kernelOf bs), state := .stored }).finishOk p (w32 k.val))))

/-- KERNEL_UNLOAD (R78): what DX_KSTAT, DX_KCYC and DX_KOUT hold of earlier runs stays (R269). -/
def execKernelUnload (q : Fin 16) (tag : Fin 1024) (s : State) : Host.Outcome State Fault Refusal :=
  .next (s.startPkt q tag 0x52 (fun p t =>
    if 63 < p.p0.toNat then t.finish p (badAt atP0)
    else
      let k := f64 p.p0.toNat
      match t.tiles.kernels[k].state with
      | .empty => t.finish p (badAt atP0)
      | .stored => (t.setKernel k { t.tiles.kernels[k] with image := none, state := .empty, window := [] }).finishOk p
      | _ => t.finish p busy))

/-! ### Loads and status of a tile (R24, R267, R270) -/

/-- Words of the input block of a kernel bound to an object (R263). -/
def KernelImage.inWords (k : KernelImage) (c : Cell) (obj : Word) : Nat :=
  if k.bindKind = 0 then 5 + k.extraLen / 4
  else 1 + ceilDiv ((c.points[idIndex obj]?.map (·.count)).getD 0) 8

/-- The cycle load per ms of a kernel (R24, R267), rounded up. -/
def KernelImage.load (k : KernelImage) (c : Cell) (obj : Word) : Nat :=
  let one := k.cycles + 24 + k.inWords c obj
  if k.bindKind = 0 then ceilDiv (one * (1000000 / servoNs c.servoCode)) (k.rate + 1)
  else if k.rate = 0 then one else 4 * one

/-- The kernels placed on a tile. -/
def State.kernelsOn (s : State) (t : Fin 16) : List Nat :=
  (s.cell.placement.kernels.filter (fun e => e.2 == t.val)).map (·.1)

/-- The load of a tile in cycles per ms. -/
def State.tileLoad (s : State) (t : Fin 16) : Nat :=
  ((s.kernelsOn t).map (fun k => match s.tiles.kernels[f64 k].image, s.tiles.kernels[f64 k].bind with
    | some im, some obj => im.load s.theCell obj
    | _, _ => 0)).sum

/-- DX_TSTAT and DX_TECC of a tile. -/
def State.tstatWord (s : State) (t : Fin 16) : Word :=
  let x := s.tiles.tiles[t]
  w32 (2 ^ 31 * b2n x.faulted + 2 ^ 30 * b2n x.gov + 2 ^ 29 * b2n x.sat + 2 ^ 28 * b2n x.overrun +
    2 ^ 20 * satN 255 (s.kernelsOn t).length + satN 0xFFFFF (s.tileLoad t))
def TileSt.teccWord (x : TileSt) : Word := w32 (satN 65535 x.corrected * 65536)

/-- The tile status record (R270). -/
def State.tileRecord (s : State) (t : Fin 16) : List Byte :=
  let ks := s.kernelsOn t
  let sum := fun (f : KernelImage → Nat) => (ks.map (fun k => (s.tiles.kernels[f64 k].image.map f).getD 0)).sum
  leBytes 4 (s.tstatWord t).toNat ++ leBytes 4 (s.tileLoad t) ++ leBytes 4 (s.tiles.tiles[t].teccWord).toNat ++
  leBytes 4 (b2n s.tiles.tiles[t].memcfg) ++ leBytes 8 ((ks.map (fun k => 2 ^ k)).sum) ++
  leBytes 4 (sum (·.xBytes)) ++ leBytes 4 (sum (·.yBytes)) ++ leBytes 4 (sum (fun k => 8 * k.program.length)) ++
  List.replicate 28 0

/-- TILE_STATUS (R270). -/
def execTileStatus (q : Fin 16) (tag : Fin 1024) (s : State) : Host.Outcome State Fault Refusal :=
  .next (s.startPkt q tag 0x53 (fun p t =>
    if 15 < p.p0.toNat then t.finish p (badAt atP0)
    else t.finishOk p (w32 (satN 0xFFFFF (t.tileLoad (f16 p.p0.toNat)))) 0 (t.tileRecord (f16 p.p0.toNat))))

/-! ### Registers -/

/-- Read a register by code (accumulators are read by their own instructions). S is sign-extended. -/
def Core.get (c : Core) (code : Nat) : Word :=
  let g := f4 (code % 4)
  if code < 0x10 then c.d[f16 code]
  else if code < 0x14 then 0
  else if code < 0x18 then w32 c.b[g].toNat
  else if code < 0x1C then w32 c.l[g].toNat
  else if code < 0x20 then w32 c.i[g].toNat
  else if code < 0x24 then i32 (sgn 16 c.s[g].toNat)
  else match code with
    | 0x24 => c.lc
    | 0x25 => c.ls
    | 0x26 => c.le
    | 0x27 => c.link
    | 0x28 => w32 c.bx
    | 0x29 => w32 c.tst.toNat
    | 0x2A => w32 c.mode.toNat
    | 0x2B => c.ipc
    | 0x2C => w32 c.istat.toNat
    | 0x2D => w32 c.ien.toNat
    | 0x2E => w32 c.ipend.toNat
    | 0x2F => w32 c.cyc
    | _ => 0

/-- Write a register by code; CYC is read-only. -/
def Core.put (c : Core) (code : Nat) (v : Word) : Core :=
  let g := f4 (code % 4)
  let n := v.toNat
  if code < 0x10 then { c with d := c.d.set (f16 code) v }
  else if code < 0x14 then c
  else if code < 0x18 then { c with b := c.b.set g (BitVec.ofNat 15 n) }
  else if code < 0x1C then { c with l := c.l.set g (BitVec.ofNat 16 n) }
  else if code < 0x20 then { c with i := c.i.set g (BitVec.ofNat 16 n) }
  else if code < 0x24 then { c with s := c.s.set g (BitVec.ofNat 16 n) }
  else match code with
    | 0x24 => { c with lc := v }
    | 0x25 => { c with ls := v }
    | 0x26 => { c with le := v }
    | 0x27 => { c with link := v }
    | 0x28 => { c with bx := n % 32 }
    | 0x29 => { c with tst := BitVec.ofNat 16 n }
    | 0x2A => { c with mode := BitVec.ofNat 8 n }
    | 0x2B => { c with ipc := v }
    | 0x2C => { c with istat := BitVec.ofNat 16 n }
    | 0x2D => { c with ien := BitVec.ofNat 3 n }
    | 0x2E => { c with ipend := BitVec.ofNat 3 n }
    | _ => c

/-- Write accumulator `k`. -/
def Core.putAcc (c : Core) (k : Fin 4) (v : Acc) : Core := { c with a := c.a.set k v }

def Core.frac (c : Core) : Bool := c.mode.getLsbD 1
def Core.wrap (c : Core) : Bool := c.mode.getLsbD 0
def Core.la (c : Core) : Bool := c.tst.getLsbD 10
def Core.ie (c : Core) : Bool := c.tst.getLsbD 9

/-- TST.la set or cleared. -/
def Core.setLa (c : Core) (b : Bool) : Core := { c with tst := if b then bvSet c.tst 10 else bvClr c.tst 10 }

/-- Flags N, Z, C, V of an ALU instruction. -/
def Core.flags (c : Core) (a : Alu) : Core := { c with tst := BitVec.ofNat 16 (c.tst.toNat / 16 * 16 + a.bits) }

/-- A condition code holds (R254). -/
def Core.holds (c : Core) (cond : Nat) : Bool :=
  let n := c.tst.getLsbD 3
  let z := c.tst.getLsbD 2
  let cc := c.tst.getLsbD 1
  let v := c.tst.getLsbD 0
  match cond with
  | 0 => true
  | 1 => z
  | 2 => !z
  | 3 => n
  | 4 => !n
  | 5 => v
  | 6 => !v
  | 7 => cc
  | 8 => !cc
  | 9 => !z && n == v
  | 10 => z || n != v
  | 11 => c.la
  | _ => false

/-! ### Address generators (R251, R252) -/

/-- The low `n` bits of a number in reverse order. -/
def revBits : Nat → Nat → Nat
  | 0, _ => 0
  | n + 1, v => 2 ^ n * (v % 2) + revBits n (v / 2)

/-- ⌈log₂ L⌉. -/
def ceilLog (l : Nat) : Nat := if l ≤ 1 then 0 else Nat.log2 (l - 1) + 1

/-- The index after a post-update by a signed step. -/
def Core.advance (c : Core) (g : Fin 4) (step : Int) : Nat :=
  let i := c.i[g].toNat
  let l := c.l[g].toNat
  if c.mode.getLsbD (4 + g.val) then
    let n := if l = 0 then 15 else ceilLog l
    revBits n ((revBits n i + revBits n (step % 2 ^ n).toNat) % 2 ^ n)
  else if l = 0 then (((i : Int) + step) % 65536).toNat
  else (((i : Int) + step) % (l : Int)).toNat

/-- The access address of a slot (R251). -/
def Core.slotAddr (c : Core) (k : Nat) : Nat := (c.b[f4 (slotGen k)].toNat + c.i[f4 (slotGen k)].toNat) % 32768

/-- Post-update the generator of a slot. -/
def Core.slotUpdate (c : Core) (k : Nat) : Core :=
  if slotEn k && slotUpd k then
    let g := f4 (slotGen k)
    { c with i := c.i.set g (BitVec.ofNat 16 (c.advance g (sgn 16 c.s[g].toNat))) }
  else c

/-- What a slot does to the registers: a load's value from `m`, a store's detection; `old` is the core before. -/
def Core.slotWrite (c old : Core) (m : List (Nat × Word)) (k : Nat) : Core :=
  if !slotEn k then c
  else if slotStore k then
    if slotDetect k then { c with bx := min c.bx (cls32 (old.get (slotReg k))) } else c
  else c.put (slotReg k) (mget 0 m (old.slotAddr k))

/-- What a slot stores. -/
def Core.slotStoreTo (old : Core) (m : List (Nat × Word)) (k : Nat) : List (Nat × Word) :=
  if slotEn k && slotStore k then mput 0 m (old.slotAddr k) (old.get (slotReg k)) else m

/-- The stall of R250: both slots used, X/Y configuration, and both in one memory. -/
def Core.stall (c : Core) (im : KernelImage) (ks : List Nat) : Nat :=
  match ks with
  | [a, b] => if slotEn a && slotEn b && im.memcfg == 0 &&
      decide (c.slotAddr a < 16384) == decide (c.slotAddr b < 16384) then 1 else 0
  | _ => 0

/-! ### Activations -/

/-- Errors corrected in a tile's memories (DX_TECC, R268). -/
def State.tileErrors (s : State) (t : Fin 16) (n : Nat) : State :=
  let x := s.tiles.tiles[t]
  s.setTile t { x with corrected := satN 65535 (x.corrected + n) }

/-- A run that does not reach END: the errors corrected in it are counted, a free number (R268; log entry 53). -/
def State.cutRun (s : State) (t : Fin 16) : State :=
  if s.tiles.tiles[t].busy then (s.tileErrors t (Config.freeNat s.free)).nextFree else s

/-- Enter a cause of kernel fault (R265): the activation stops without commit, with a notice. -/
def State.kernelFault (s : State) (t : Fin 16) (cause : Nat) : State :=
  let s := s.cutRun t
  let x := s.tiles.tiles[t]
  let k := f64 x.core.kernel
  let y := s.tiles.kernels[k]
  ((s.setKernel k { y with state := .faulted, cause := cause, valid := false, cycLast := satN 65535 x.core.cyc
                           cycMax := max y.cycMax (satN 65535 x.core.cyc) }).setTile t
    { x with busy := false }).notice .kernelFault k.val cause

/-- An interrupt is due between instructions (R257). -/
def Core.interruptDue (c : Core) (im : KernelImage) : Bool :=
  decide (im.ivec ≠ 0xFFFF) && c.ie && decide (c.ipend &&& c.ien ≠ 0)

/-- What an operation yields on top of its memory slots. -/
structure OpOut where
  core   : Core
  target : Option Nat := none
  extra  : Nat := 0
  gov    : BitVec 4 := 0
  sat    : Bool := false
  fault  : Option Nat := none
  deriving DecidableEq, Repr

/-- The kernel and instruction that a tile runs next, if no overrun or interrupt comes first. -/
def State.nextIns (s : State) (t : Fin 16) : Option (Fin 64 × KernelImage × DWord) :=
  let x := s.tiles.tiles[t]
  let k := f64 x.core.kernel
  match s.tiles.kernels[k].image with
  | none => none
  | some im =>
    if !x.busy || decide (im.cycles ≤ x.core.cyc) || x.core.interruptDue im then none
    else match im.program[x.core.pc]? with
      | some w => some (k, im, w)
      | none => none

/-- Sticky flags of guard overflow and saturation (R247, R248): TST, IPEND, kernel and tile, and the notice of DX_CTRL. -/
def State.sticky (s : State) (t : Fin 16) (o : OpOut) : State :=
  let x := s.tiles.tiles[t]
  let k := f64 x.core.kernel
  let y := s.tiles.kernels[k]
  let gov := decide (o.gov ≠ 0)
  let c := x.core
  let tell := gov && bitAt s.tiles.ctrl 31 && !c.noticed
  let c := { c with
    tst := c.tst ||| BitVec.ofNat 16 (o.gov.toNat * 4096 + 2048 * b2n o.sat)
    ipend := c.ipend ||| BitVec.ofNat 3 (b2n gov + 2 * b2n o.sat), noticed := c.noticed || tell }
  let s := (s.setTile t { x with core := c, gov := x.gov || gov, sat := x.sat || o.sat }).setKernel k
    { y with gov := y.gov || gov, sat := y.sat || o.sat }
  if tell then s.notice .guardOvf k.val t.val else s

/-- Where the program goes on (R256): a taken branch, the loop-back at LE, or the next address. -/
def Core.follow (c : Core) (at_ : Nat) (target : Option Nat) : Core :=
  match target with
  | some p => { c with pc := p }
  | none =>
    if c.la && c.le.toNat == at_ then
      if 1 < c.lc.toNat then { c with lc := c.lc - 1, pc := c.ls.toNat }
      else { ({ c with lc := 0 } : Core).setLa false with pc := at_ + 1 }
    else { c with pc := at_ + 1 }

/-- Run one instruction of a tile if its op is `op` (R250): slots, then the operation `f` of the old core, the word and
the core after the slots; `fin` completes the state that holds the new core. -/
def State.tileRun (s : State) (t : Fin 16) (op : Nat) (f : Core → DWord → Core → OpOut)
    (fin : State → KernelImage → OpOut → State) : State :=
  match s.nextIns t with
  | none => s
  | some (k, im, w) =>
    if insOp w ≠ op then s
    else
      let x := s.tiles.tiles[t]
      let old := x.core
      let ks := insSlots w
      if ks.any (fun j => slotEn j && !im.inWindow (old.slotAddr j)) then s.kernelFault t 2
      else
        let y := s.tiles.kernels[k]
        let mid := ks.foldl (fun c j => c.slotUpdate j) (ks.foldl (fun c j => c.slotWrite old y.window j) old)
        let o := f old w mid
        let s := s.setKernel k { y with window := ks.foldl (fun m j => old.slotStoreTo m j) y.window }
        match o.fault with
        | some n => s.kernelFault t n
        | none =>
          let c := { o.core with cyc := old.cyc + 1 + old.stall im ks + o.extra }
          fin ((s.setTile t { x with core := c }).sticky t o) im { o with core := c }

/-- An instruction other than END: it runs, and the program goes on; a PC outside the program is a kernel fault. -/
def State.tileOp (s : State) (t : Fin 16) (op : Nat) (f : Core → DWord → Core → OpOut) : State :=
  s.tileRun t op f (fun s im o =>
    let x := s.tiles.tiles[t]
    let c := x.core.follow x.core.pc o.target
    let s := s.setTile t { x with core := c }
    if c.pc < im.program.length then s else s.kernelFault t 3)

/-- The free contents of the registers that R263 leaves undefined. -/
def Core.undefined (c : Core) (n : Nat) : Core :=
  { c with
    d := foldOn (List.range 16) c.d (fun v i => v.set (f16 i) (Config.freeWord (n + i)))
    a := foldOn (List.range 4) c.a (fun v i => v.set (f4 i) (Config.freeAcc (n + i)))
    b := foldOn (List.range 4) c.b (fun v i => v.set (f4 i) (BitVec.ofNat 15 (Config.freeWord (n + 16 + i)).toNat))
    l := foldOn (List.range 4) c.l (fun v i => v.set (f4 i) (BitVec.ofNat 16 (Config.freeWord (n + 20 + i)).toNat))
    i := foldOn (List.range 4) c.i (fun v i => v.set (f4 i) (BitVec.ofNat 16 (Config.freeWord (n + 24 + i)).toNat))
    s := foldOn (List.range 4) c.s (fun v i => v.set (f4 i) (BitVec.ofNat 16 (Config.freeWord (n + 28 + i)).toNat)) }

/-- Ask for an activation of a bound kernel with its input block (R264, R265). -/
def State.activate (s : State) (k : Fin 64) (seq : Word) (block : List Word) : State :=
  let y := s.tiles.kernels[k]
  if y.state ≠ .bound then s
  else
    let t := f16 y.tile
    let x := s.tiles.tiles[t]
    let s := s.setKernel k { y with waiting := some (seq, block)
                                    skipped := if y.waiting.isSome then satN 4095 (y.skipped + 1) else y.skipped }
    if y.waiting.isSome then s else s.setTile t { x with queue := x.queue ++ [k.val] }

/-- KERNEL_ACTIVATION (R263, R265, R281): an idle tile that its arbiter has granted to kernel runs starts the activation that came
first. -/
def execKernelActivation (t : Fin 16) (s : State) : Host.Outcome State Fault Refusal :=
  let x := s.tiles.tiles[t]
  if x.busy || x.faulted || !s.holdsUnit (8 + t.val) 0 then .next s
  else match x.queue with
    | [] => .next s
    | k :: rest =>
      let kk := f64 k
      let y := s.tiles.kernels[kk]
      let s := s.setTile t { x with queue := rest }
      match y.waiting, y.image with
      | some (seq, block), some im =>
        if y.state ≠ .bound then .next (s.setKernel kk { y with waiting := none })
        else
          let core := { x.core.undefined s.free with
            kernel := k, kseq := seq, pc := 0, mode := BitVec.ofNat 8 im.mode, ien := BitVec.ofNat 3 im.ien
            tst := 0x0200, bx := 31, cyc := 0, inHandler := false, noticed := false }
          let w := (numbered 0 block).foldl (fun m e => mput 0 m (im.inOff + e.1) e.2) y.window
          let fits := im.holds im.inOff block.length
          let s := (s.setFree (s.free + 32)).setTile t { x with queue := rest, busy := true, core := core }
          if fits then .next (s.setKernel kk { y with waiting := none, window := w })
          else .next ((s.setKernel kk { y with waiting := none }).kernelFault t 2)
      | _, _ => .next s

/-- KERNEL_OVERRUN (R265): the declared cycles are reached without END. -/
def execKernelOverrun (t : Fin 16) (s : State) : Host.Outcome State Fault Refusal :=
  let x := s.tiles.tiles[t]
  let k := f64 x.core.kernel
  let y := s.tiles.kernels[k]
  match y.image with
  | none => .next s
  | some im =>
    if !x.busy || decide (x.core.cyc < im.cycles) then .next s
    else
      let s := (s.cutRun t).setKernel k { y with
        overruns := satN 255 (y.overruns + 1), valid := false
        cycLast := satN 65535 x.core.cyc, cycMax := max y.cycMax (satN 65535 x.core.cyc) }
      .next (s.setTile t { s.tiles.tiles[t] with busy := false, overrun := true })

/-- INTERRUPT_ENTRY (R257): 4 cycles; IPC, ISTAT and TST.ie, then the handler. -/
def execInterruptEntry (t : Fin 16) (s : State) : Host.Outcome State Fault Refusal :=
  let x := s.tiles.tiles[t]
  match s.tiles.kernels[f64 x.core.kernel].image with
  | none => .next s
  | some im =>
    if !x.busy || decide (im.cycles ≤ x.core.cyc) || !x.core.interruptDue im then .next s
    else
      let c := x.core
      .next (s.setTile t { x with core := { c with
        ipc := w32 c.pc, istat := c.tst, tst := bvClr c.tst 9, pc := im.ivec, cyc := c.cyc + 4, inHandler := true } })

/-! ### Accumulator instructions -/

/-- Accumulator index of a code. -/
def accIdx (code : Nat) : Fin 4 := f4 (code % 4)

/-- Write exact results to accumulators, with their guard overflows (R247). -/
def OpOut.ofAccs (mid : Core) (wrap : Bool) (xs : List (Fin 4 × Int)) : OpOut :=
  xs.foldl (fun o x =>
    let r := accOf x.2 wrap
    { o with core := o.core.putAcc x.1 r.1, gov := if r.2 then bvSet o.gov x.1.val else o.gov }) { core := mid }

/-- The signed product of an instruction's sources, negated if it says so. -/
def Core.prod (c : Core) (w : DWord) (a b : Nat) : Int :=
  let p := product (c.get a) (c.get b) c.frac
  if insNeg w then -p else p

def opMac (old : Core) (w : DWord) (mid : Core) : OpOut :=
  let k := accIdx (insDst w)
  OpOut.ofAccs mid old.wrap [(k, accInt old.a[k] + old.prod w (insSa w) (insSb w))]
def opMpy (old : Core) (w : DWord) (mid : Core) : OpOut :=
  OpOut.ofAccs mid old.wrap [(accIdx (insDst w), old.prod w (insSa w) (insSb w))]
def opMac4 (old : Core) (w : DWord) (mid : Core) : OpOut :=
  OpOut.ofAccs mid old.wrap ((List.range 4).map (fun k => (f4 k, accInt old.a[f4 k] + old.prod w (2 * k) (2 * k + 1))))
def opMpy4 (old : Core) (w : DWord) (mid : Core) : OpOut :=
  OpOut.ofAccs mid old.wrap ((List.range 4).map (fun k => (f4 k, old.prod w (2 * k) (2 * k + 1))))
def opClra (_ : Core) (w : DWord) (mid : Core) : OpOut :=
  { core := foldOn (maskBits 4 (insSa w)) mid (fun c k => c.putAcc (f4 k) 0) }
def opAdda (old : Core) (w : DWord) (mid : Core) : OpOut :=
  let k := accIdx (insDst w)
  let b := accInt old.a[accIdx (insSa w)]
  OpOut.ofAccs mid old.wrap [(k, accInt old.a[k] + (if insNeg w then -b else b))]
/-- SHA: a count outside −64 to 63 gives a free value. -/
def opSha (old : Core) (w : DWord) (mid : Core) : OpOut :=
  let k := accIdx (insDst w)
  let n := s32 (old.get (insSb w))
  if n < -64 ∨ 63 < n then { core := mid.putAcc k (BitVec.ofInt 80 (Config.shiftOutOfRange 2 (accInt old.a[k]) n)) }
  else OpOut.ofAccs mid old.wrap [(k, shiftInt (accInt old.a[k]) n)]
def opLda (old : Core) (w : DWord) (mid : Core) : OpOut :=
  OpOut.ofAccs mid old.wrap [(accIdx (insDst w), s32 (old.get (insSa w)) * 2 ^ 32)]
def opSth (old : Core) (w : DWord) (mid : Core) : OpOut :=
  let r := roundHigh (accInt old.a[accIdx (insSa w)]) (old.mode.getLsbD 2)
  { core := mid.put (insDst w) (i32 (sat32 r)), sat := !fits32 r }
def opStl (old : Core) (w : DWord) (mid : Core) : OpOut :=
  { core := mid.put (insDst w) (w32 old.a[accIdx (insSa w)].toNat) }
def opStg (old : Core) (w : DWord) (mid : Core) : OpOut :=
  { core := mid.put (insDst w) (i32 (accInt old.a[accIdx (insSa w)] / 2 ^ 64)) }

/-! ### Register instructions -/

/-- An ALU instruction that writes its result and its flags. -/
def OpOut.ofAlu (mid : Core) (w : DWord) (a : Alu) : OpOut :=
  { core := (mid.put (insDst w) a.val).flags a, sat := a.sat }
/-- An instruction that writes a value to its destination. -/
def OpOut.ofVal (mid : Core) (w : DWord) (v : Word) : OpOut := { core := mid.put (insDst w) v }

def opAdd (old : Core) (w : DWord) (mid : Core) : OpOut :=
  OpOut.ofAlu mid w (aluAdd (old.get (insSa w)) (old.get (insSb w)) false)
def opSub (old : Core) (w : DWord) (mid : Core) : OpOut :=
  OpOut.ofAlu mid w (aluSub (old.get (insSa w)) (old.get (insSb w)) false)
def opAdds (old : Core) (w : DWord) (mid : Core) : OpOut :=
  OpOut.ofAlu mid w (aluAdd (old.get (insSa w)) (old.get (insSb w)) true)
def opSubs (old : Core) (w : DWord) (mid : Core) : OpOut :=
  OpOut.ofAlu mid w (aluSub (old.get (insSa w)) (old.get (insSb w)) true)
def opAnd (old : Core) (w : DWord) (mid : Core) : OpOut := OpOut.ofVal mid w (old.get (insSa w) &&& old.get (insSb w))
def opOr (old : Core) (w : DWord) (mid : Core) : OpOut := OpOut.ofVal mid w (old.get (insSa w) ||| old.get (insSb w))
def opXor (old : Core) (w : DWord) (mid : Core) : OpOut := OpOut.ofVal mid w (old.get (insSa w) ^^^ old.get (insSb w))
def opAsh (old : Core) (w : DWord) (mid : Core) : OpOut :=
  OpOut.ofVal mid w (aluAsh (old.get (insSa w)) (s32 (old.get (insSb w))))
def opLsh (old : Core) (w : DWord) (mid : Core) : OpOut :=
  OpOut.ofVal mid w (aluLsh (old.get (insSa w)) (s32 (old.get (insSb w))))
/-- A value saturated to 32 bits, with TST.sat (R248). -/
def OpOut.ofSat (mid : Core) (w : DWord) (x : Int) : OpOut :=
  { core := mid.put (insDst w) (i32 (sat32 x)), sat := !fits32 x }
def opAbs (old : Core) (w : DWord) (mid : Core) : OpOut := OpOut.ofSat mid w ((s32 (old.get (insSa w))).natAbs : Int)
def opNeg (old : Core) (w : DWord) (mid : Core) : OpOut := OpOut.ofSat mid w (-(s32 (old.get (insSa w))))
def opMin (old : Core) (w : DWord) (mid : Core) : OpOut :=
  OpOut.ofVal mid w (i32 (min (s32 (old.get (insSa w))) (s32 (old.get (insSb w)))))
def opMax (old : Core) (w : DWord) (mid : Core) : OpOut :=
  OpOut.ofVal mid w (i32 (max (s32 (old.get (insSa w))) (s32 (old.get (insSb w)))))
def opCls (old : Core) (w : DWord) (mid : Core) : OpOut := OpOut.ofVal mid w (w32 (cls32 (old.get (insSa w))))
def opCmp (old : Core) (w : DWord) (mid : Core) : OpOut :=
  { core := mid.flags (aluSub (old.get (insSa w)) (old.get (insSb w)) false) }
def opSel (old : Core) (w : DWord) (mid : Core) : OpOut :=
  OpOut.ofVal mid w (if old.holds (insCond w) then old.get (insSa w) else old.get (insSb w))
def opMov (old : Core) (w : DWord) (mid : Core) : OpOut := OpOut.ofVal mid w (old.get (insSa w))
def opMovi (_ : Core) (w : DWord) (mid : Core) : OpOut := OpOut.ofVal mid w (insWord w)
def opAddi (old : Core) (w : DWord) (mid : Core) : OpOut := OpOut.ofVal mid w (old.get (insSa w) + insWord w)
def opModi (old : Core) (w : DWord) (mid : Core) : OpOut :=
  let g := f4 (insSa w % 4)
  { core := { mid with i := mid.i.set g (BitVec.ofNat 16 (old.advance g (s32 (insWord w)))) } }
def opBxclr (_ : Core) (_ : DWord) (mid : Core) : OpOut := { core := { mid with bx := 31 } }
def opBxupd (old : Core) (w : DWord) (mid : Core) : OpOut :=
  { core := { mid with bx := min mid.bx (cls32 (old.get (insSa w))) } }

/-! ### Program flow (R255 to R258) -/

def opBr (old : Core) (w : DWord) (mid : Core) : OpOut :=
  if old.holds (insCond w) then { core := mid, target := some (insTarget w), extra := 2 } else { core := mid }
def opCall (old : Core) (w : DWord) (mid : Core) : OpOut :=
  { core := { mid with link := w32 (old.pc + 1) }, target := some (insTarget w), extra := 2 }
def opRet (old : Core) (_ : DWord) (mid : Core) : OpOut := { core := mid, target := some old.link.toNat, extra := 2 }
def opDbnz (old : Core) (w : DWord) (mid : Core) : OpOut :=
  let v := old.get (insSa w) - 1
  let c := mid.put (insSa w) v
  if v ≠ 0 then { core := c, target := some (insTarget w), extra := 2 } else { core := c }
def opLoop (old : Core) (w : DWord) (mid : Core) : OpOut :=
  let n := old.get (insSa w)
  let c := { mid with ls := w32 (old.pc + 1), le := w32 (insTarget w), lc := n }
  if n = 0 then { core := c.setLa false, target := some (insTarget w + 1) } else { core := c.setLa true }
def opReti (old : Core) (_ : DWord) (mid : Core) : OpOut :=
  if old.ie && !old.inHandler then { core := mid, fault := some 4 }
  else
    let keep := BitVec.ofNat 16 (old.tst.toNat / 2048 * 2048)
    { core := { mid with tst := old.istat ||| keep, inHandler := false }, target := some old.ipc.toNat, extra := 2 }
def opSwi (_ : Core) (_ : DWord) (mid : Core) : OpOut := { core := { mid with ipend := bvSet mid.ipend 2 } }
def opNop (_ : Core) (_ : DWord) (mid : Core) : OpOut := { core := mid }

/-- END (R263): the 8 words at out_off are committed with the input's seq. -/
def State.commit (s : State) (t : Fin 16) (im : KernelImage) : State :=
  let x := s.tiles.tiles[t]
  let k := f64 x.core.kernel
  let y := s.tiles.kernels[k]
  let n := satN 65535 x.core.cyc
  (s.setKernel k { y with
    valid := true, kseq := x.core.kseq, cycLast := n, cycMax := max y.cycMax n
    out := foldOn (List.range 8) y.out (fun v i =>
      v.set (fin 8 (by decide) i) (mget 0 y.window (im.outOff + i))) }).setTile t { x with busy := false }

/-! ### One row for each instruction -/

/-- NOP on a tile. -/
def execTNop (t : Fin 16) (s : State) : Host.Outcome State Fault Refusal := .next (s.tileOp t 0x00 opNop)
/-- MAC on a tile. -/
def execTMac (t : Fin 16) (s : State) : Host.Outcome State Fault Refusal := .next (s.tileOp t 0x01 opMac)
/-- MPY on a tile. -/
def execTMpy (t : Fin 16) (s : State) : Host.Outcome State Fault Refusal := .next (s.tileOp t 0x02 opMpy)
/-- MAC4 on a tile. -/
def execTMac4 (t : Fin 16) (s : State) : Host.Outcome State Fault Refusal := .next (s.tileOp t 0x03 opMac4)
/-- MPY4 on a tile. -/
def execTMpy4 (t : Fin 16) (s : State) : Host.Outcome State Fault Refusal := .next (s.tileOp t 0x04 opMpy4)
/-- CLRA on a tile. -/
def execTClra (t : Fin 16) (s : State) : Host.Outcome State Fault Refusal := .next (s.tileOp t 0x05 opClra)
/-- ADDA on a tile. -/
def execTAdda (t : Fin 16) (s : State) : Host.Outcome State Fault Refusal := .next (s.tileOp t 0x06 opAdda)
/-- SHA on a tile. -/
def execTSha (t : Fin 16) (s : State) : Host.Outcome State Fault Refusal := .next (s.tileOp t 0x07 opSha)
/-- LDA on a tile. -/
def execTLda (t : Fin 16) (s : State) : Host.Outcome State Fault Refusal := .next (s.tileOp t 0x08 opLda)
/-- STH on a tile. -/
def execTSth (t : Fin 16) (s : State) : Host.Outcome State Fault Refusal := .next (s.tileOp t 0x09 opSth)
/-- STL on a tile. -/
def execTStl (t : Fin 16) (s : State) : Host.Outcome State Fault Refusal := .next (s.tileOp t 0x0A opStl)
/-- STG on a tile. -/
def execTStg (t : Fin 16) (s : State) : Host.Outcome State Fault Refusal := .next (s.tileOp t 0x0B opStg)
/-- ADD on a tile. -/
def execTAdd (t : Fin 16) (s : State) : Host.Outcome State Fault Refusal := .next (s.tileOp t 0x10 opAdd)
/-- SUB on a tile. -/
def execTSub (t : Fin 16) (s : State) : Host.Outcome State Fault Refusal := .next (s.tileOp t 0x11 opSub)
/-- ADDS on a tile. -/
def execTAdds (t : Fin 16) (s : State) : Host.Outcome State Fault Refusal := .next (s.tileOp t 0x12 opAdds)
/-- SUBS on a tile. -/
def execTSubs (t : Fin 16) (s : State) : Host.Outcome State Fault Refusal := .next (s.tileOp t 0x13 opSubs)
/-- AND on a tile. -/
def execTAnd (t : Fin 16) (s : State) : Host.Outcome State Fault Refusal := .next (s.tileOp t 0x14 opAnd)
/-- OR on a tile. -/
def execTOr (t : Fin 16) (s : State) : Host.Outcome State Fault Refusal := .next (s.tileOp t 0x15 opOr)
/-- XOR on a tile. -/
def execTXor (t : Fin 16) (s : State) : Host.Outcome State Fault Refusal := .next (s.tileOp t 0x16 opXor)
/-- ASH on a tile. -/
def execTAsh (t : Fin 16) (s : State) : Host.Outcome State Fault Refusal := .next (s.tileOp t 0x17 opAsh)
/-- LSH on a tile. -/
def execTLsh (t : Fin 16) (s : State) : Host.Outcome State Fault Refusal := .next (s.tileOp t 0x18 opLsh)
/-- ABS on a tile. -/
def execTAbs (t : Fin 16) (s : State) : Host.Outcome State Fault Refusal := .next (s.tileOp t 0x19 opAbs)
/-- NEG on a tile. -/
def execTNeg (t : Fin 16) (s : State) : Host.Outcome State Fault Refusal := .next (s.tileOp t 0x1A opNeg)
/-- MIN on a tile. -/
def execTMin (t : Fin 16) (s : State) : Host.Outcome State Fault Refusal := .next (s.tileOp t 0x1B opMin)
/-- MAX on a tile. -/
def execTMax (t : Fin 16) (s : State) : Host.Outcome State Fault Refusal := .next (s.tileOp t 0x1C opMax)
/-- CLS on a tile. -/
def execTCls (t : Fin 16) (s : State) : Host.Outcome State Fault Refusal := .next (s.tileOp t 0x1D opCls)
/-- CMP on a tile. -/
def execTCmp (t : Fin 16) (s : State) : Host.Outcome State Fault Refusal := .next (s.tileOp t 0x1E opCmp)
/-- SEL on a tile. -/
def execTSel (t : Fin 16) (s : State) : Host.Outcome State Fault Refusal := .next (s.tileOp t 0x1F opSel)
/-- MOV on a tile. -/
def execTMov (t : Fin 16) (s : State) : Host.Outcome State Fault Refusal := .next (s.tileOp t 0x20 opMov)
/-- MOVI on a tile. -/
def execTMovi (t : Fin 16) (s : State) : Host.Outcome State Fault Refusal := .next (s.tileOp t 0x21 opMovi)
/-- ADDI on a tile. -/
def execTAddi (t : Fin 16) (s : State) : Host.Outcome State Fault Refusal := .next (s.tileOp t 0x22 opAddi)
/-- MODI on a tile. -/
def execTModi (t : Fin 16) (s : State) : Host.Outcome State Fault Refusal := .next (s.tileOp t 0x23 opModi)
/-- BXCLR on a tile. -/
def execTBxclr (t : Fin 16) (s : State) : Host.Outcome State Fault Refusal := .next (s.tileOp t 0x24 opBxclr)
/-- BXUPD on a tile. -/
def execTBxupd (t : Fin 16) (s : State) : Host.Outcome State Fault Refusal := .next (s.tileOp t 0x25 opBxupd)
/-- BR on a tile. -/
def execTBr (t : Fin 16) (s : State) : Host.Outcome State Fault Refusal := .next (s.tileOp t 0x30 opBr)
/-- CALL on a tile. -/
def execTCall (t : Fin 16) (s : State) : Host.Outcome State Fault Refusal := .next (s.tileOp t 0x31 opCall)
/-- RET on a tile. -/
def execTRet (t : Fin 16) (s : State) : Host.Outcome State Fault Refusal := .next (s.tileOp t 0x32 opRet)
/-- DBNZ on a tile. -/
def execTDbnz (t : Fin 16) (s : State) : Host.Outcome State Fault Refusal := .next (s.tileOp t 0x33 opDbnz)
/-- LOOP on a tile. -/
def execTLoop (t : Fin 16) (s : State) : Host.Outcome State Fault Refusal := .next (s.tileOp t 0x34 opLoop)
/-- RETI on a tile. -/
def execTReti (t : Fin 16) (s : State) : Host.Outcome State Fault Refusal := .next (s.tileOp t 0x35 opReti)
/-- SWI on a tile. -/
def execTSwi (t : Fin 16) (s : State) : Host.Outcome State Fault Refusal := .next (s.tileOp t 0x37 opSwi)
/-- END on a tile (R263, R265, R268): its slots, then the commit, unless its own stall takes it past the declared cycles; the errors that the tile's memories corrected in the run are
counted. -/
def execTEnd (t : Fin 16) (corrected : Nat) (s : State) : Host.Outcome State Fault Refusal :=
  .next (s.tileRun t 0x36 opNop (fun s im o =>
    if im.cycles < o.core.cyc then s
    else
    (s.commit t im).tileErrors t corrected))

end Sys2Proof.Machine
end

