-- ==== Sys2Proof/Machine/Placement.lean ====
section
/-! DEFINITION. Automatic placement (01_cell_model_and_placement.md, R17 to R25, R27, R31, R33, with the ring layout of
R119 to R124 and the class checks of R306 and R442): a function of its inputs alone. -/

namespace Sys2Proof.Machine

/-- What placement depends on (R17): the cell, the current schedule images by problem, the bound kernels with their
objects, the resource mask, the shed chains, bracket mode, the guard and shutter offset of each ring, and the memory
configuration of each tile, which R249 makes placement follow (log entry 36). -/
structure PlaceIn where
  cell    : Cell
  probs   : List (Nat × SchedImage)
  kernels : List (Nat × KernelImage × Word)
  eng     : BitVec 16
  part    : BitVec 8
  tile    : BitVec 16
  shed    : BitVec 16
  bracket : Bool
  guards  : List Nat
  shutter : List Nat
  outer   : Nat
  inner   : Nat
  memcfg  : List Bool
  deriving DecidableEq, Repr

/-- Placement fails with a reason and the offending object (R27). -/
def infeasible (reason : Nat) (object : Word) : Verdict := ⟨stInfeasible, w32 reason, object⟩

/-- The first failure of a list of checks. -/
def firstBad {α : Type} (f : α → Option Verdict) : List α → Option Verdict
  | [] => none
  | a :: r => match f a with
    | some v => some v
    | none => firstBad f r

/-- The servo cycle in ns, the number of phases N (R20), and the devices that count as participants (R111). -/
def PlaceIn.T (x : PlaceIn) : Nat := servoNs x.cell.servoCode
def PlaceIn.N (x : PlaceIn) : Nat := 1000000 / x.T
def PlaceIn.devs (x : PlaceIn) : Nat := if x.cell.mode = 1 then 2 else 1
def PlaceIn.guard (x : PlaceIn) (r : Nat) : Nat := x.guards.getD r 640
def PlaceIn.shut (x : PlaceIn) (r : Nat) : Nat := x.shutter.getD r 0 % x.T

/-- A chain is shed; an axis belongs to a shed chain or to an auxiliary axis that one carries (R31). -/
def PlaceIn.isShed (x : PlaceIn) (c : Nat) : Bool := decide (c < 16) && x.shed.getLsbD c
def PlaceIn.axisShed (x : PlaceIn) (a : Nat) : Bool :=
  if a < 128 then x.isShed (a / 8)
  else match x.cell.aux[a - 128]? with
    | some r => x.isShed r.frameChain
    | none => false

/-! ### Steps 1 and 2 -/

/-- Step 1 (R4, R18): the first chain or auxiliary record at which the axis count passes the limit. -/
def PlaceIn.axisCheck (x : PlaceIn) : Option Verdict :=
  let limit := if x.cell.servoCode = 0 then 64 else 160
  let live := (numbered 0 x.cell.chains).filterMap (fun r => if x.isShed r.2.chain then none else some (ident 1 r.1, r.2.axes))
  let aux := (numbered 0 x.cell.aux).filterMap (fun r => if x.axisShed (128 + r.1) then none else some (ident 2 r.1, 1))
  let all : List (Word × Nat) := live ++ aux
  firstBad (fun e : Nat × Word × Nat =>
    if decide (limit < ((all.take (e.1 + 1)).map (fun o => o.2)).sum) then some (infeasible 1 e.2.1) else none) (numbered 0 all)

/-- Nodes of a ring, with their record indices. -/
def Cell.ringNodes (c : Cell) (r : Nat) : List (Nat × NodeRec) := (numbered 0 c.nodes).filter (fun n => n.2.ring == r)

/-- A node must be reachable on both channels (R19). -/
def Cell.needsBoth (c : Cell) (n : Nat × NodeRec) : Bool :=
  n.2.flags.testBit 0 || n.2.kind == 3 || c.points.any (fun p => p.node == n.1 && p.flags.testBit 1)

/-- Step 2 (R18, R19, R111). -/
def PlaceIn.ringCheck (x : PlaceIn) : Option Verdict :=
  firstBad (fun n : Nat × NodeRec =>
    let before := ((x.cell.ringNodes n.2.ring).filter (fun o => decide (o.1 ≤ n.1))).length
    if 255 < before + x.devs then some (infeasible 2 (ident 3 n.1))
    else if x.cell.needsBoth n && (x.cell.ringNodes n.2.ring).any (fun o => o.2.flags.testBit 1) then
      some (infeasible 3 (ident 3 n.1))
    else none) (numbered 0 x.cell.nodes)

/-! ### Step 3: ring slots -/

/-- The fast-class limits (R20). -/
def PlaceIn.fastCheck (x : PlaceIn) : Option Verdict :=
  firstBad (fun p : Nat × PointRec =>
    if p.2.cls = 1 ∧ (250000 < x.T ∨
        4096 < (((x.cell.points.take (p.1 + 1)).filter (fun o => o.cls == 1)).map (·.count)).sum) then
      some (infeasible 6 (ident 4 p.1)) else none) (numbered 0 x.cell.points)

/-- A node carries fast-class points. -/
def Cell.fastNode (c : Cell) (n : Nat) : Bool := c.points.any (fun p => p.node == n && p.cls == 1)

/-- An I/O node, which speaks in rotation phases. -/
def NodeRec.io (n : NodeRec) : Bool := n.kind == 1 || n.kind == 2

/-- Slot length of a payload on a ring (R21). -/
def PlaceIn.slotLen (x : PlaceIn) (r payload : Nat) : Nat := 8 * (max (payload + 26) 46 + 38) + x.guard r

/-- What the phases of one ring carry so far: input slot times, and output payload bytes, those of every drive and body-sensor
node of the ring from the start (R20, R21). -/
structure RingLoad where
  ins  : List Nat
  outs : List Nat
  deriving DecidableEq, Repr

/-- Occupancy of a phase (R20). -/
def PlaceIn.occupancy (x : PlaceIn) (r : Nat) (l : RingLoad) (p : Nat) : Nat :=
  l.ins.getD p 0 + x.devs * x.slotLen r (l.outs.getD p 0)

/-- The index of the smallest element, the lowest among equals. -/
def argMin : List Nat → Nat
  | [] => 0
  | [_] => 0
  | a :: r => if r.all (fun b => decide (a ≤ b)) then 0 else argMin r + 1

/-- The phases of an I/O node that is given phase `phi`, ascending (R20). -/
def PlaceIn.phasesFrom (x : PlaceIn) (fast : Bool) (phi : Nat) : List Nat :=
  if fast then (List.range x.N).filter (fun p => p % (x.N / 4) == phi % (x.N / 4)) else [phi]

/-- Add a node to a ring: its phases (empty: every servo cycle) and the load with it. -/
def PlaceIn.addNode (x : PlaceIn) (n : Nat × NodeRec) (l : RingLoad) : List Nat × RingLoad :=
  let r := n.2.ring
  let ph := if n.2.io then
      x.phasesFrom (x.cell.fastNode n.1) (argMin ((List.range x.N).map (x.occupancy r l))) else []
  let speaks := fun p => ph.isEmpty || ph.contains p
  let len := x.slotLen r n.2.inBytes
  (ph, ⟨(List.range x.N).map (fun p => l.ins.getD p 0 + (if speaks p then len else 0)),
        (List.range x.N).map (fun p => l.outs.getD p 0 + (if n.2.io && ph.contains p then n.2.outBytes else 0))⟩)

/-- The load of each ring before a node is placed (R21). -/
def PlaceIn.emptyLoads (x : PlaceIn) : List RingLoad :=
  (List.range 4).map (fun r =>
    let out := (((x.cell.ringNodes r).filter (fun n => !n.2.io)).map (fun n => n.2.outBytes)).sum
    ⟨List.replicate x.N 0, List.replicate x.N out⟩)

/-- Give every node its phases, with the occupancy check of R21. -/
def PlaceIn.phases (x : PlaceIn) : List (Nat × NodeRec) → List RingLoad → Except Verdict (List (Nat × List Nat) × List RingLoad)
  | [], ls => .ok ([], ls)
  | n :: rest, ls =>
    let r := x.addNode n (ls.getD n.2.ring ⟨[], []⟩)
    if (List.range x.N).any (fun p => decide (85 * x.T < 100 * x.occupancy n.2.ring r.2 p)) then
      .error (infeasible 4 (ident 3 n.1))
    else match x.phases rest (ls.set n.2.ring r.2) with
      | .error v => .error v
      | .ok (ps, ls) => .ok ((n.1, r.1) :: ps, ls)

/-- Insert a node in ascending latency class, then hop (R120). -/
def insertSlot (a : Nat × NodeRec) : List (Nat × NodeRec) → List (Nat × NodeRec)
  | [] => [a]
  | b :: r =>
    let key := fun (n : Nat × NodeRec) => (n.2.lclass * 256 + n.2.hop) * 65536 + n.1
    if key a ≤ key b then a :: b :: r else b :: insertSlot a r

/-- Largest number of a list. -/
def maxOf (l : List Nat) : Nat := l.foldl max 0

/-- Lay out the input slots of a ring from the ends reached so far in each phase (R120). -/
def PlaceIn.layout (x : PlaceIn) (ph : List (Nat × List Nat)) : List (Nat × NodeRec) → List Nat → List NodePlace × List Nat
  | [], ends => ([], ends)
  | n :: rest, ends =>
    let len := x.slotLen n.2.ring n.2.inBytes
    let mine := ((ph.find? (fun e => e.1 == n.1)).map (·.2)).getD []
    if mine.isEmpty then
      let start := maxOf ends
      let r := x.layout ph rest (List.replicate x.N (start + len))
      (⟨n.1, [], start, len⟩ :: r.1, r.2)
    else
      let r := x.layout ph rest ((List.range x.N).map (fun p => ends.getD p 0 + (if mine.contains p then len else 0)))
      (⟨n.1, mine.map (fun p => (p, ends.getD p 0)), (mine.head?.map (fun p => ends.getD p 0)).getD 0, len⟩ :: r.1, r.2)

/-- The latest end of a node's slots at the head, the guard included. -/
def NodePlace.headEnd (n : NodePlace) : Nat := (if n.phases.isEmpty then n.start else maxOf (n.phases.map (·.2))) + n.extent

/-- The plan of one ring (R120 to R123); `adv` is 5 where no output advance up to 4 fits. -/
def PlaceIn.ringPlan (x : PlaceIn) (r : Nat) (ph : List (Nat × List Nat)) (load : RingLoad) : List NodePlace × RingPlan :=
  let nodes := x.cell.ringNodes r
  if nodes.isEmpty then ([], {})
  else
    let links := nodes.length + x.devs
    let lp := links * 1000
    let lay := x.layout ph (nodes.foldr insertSlot []) (List.replicate x.N 1000)
    let reach0 := (lay.1.filter (fun s => match x.cell.nodes[s.node]? with | some n => n.lclass == 0 | none => false)).map
      (fun s => s.headEnd + lp + 1000)
    let sOut := max (maxOf lay.2) (maxOf reach0)
    let out := maxOf load.outs
    let outLen := x.slotLen r out
    let last := sOut + (x.devs - 1) * outLen
    let wire := last + outLen - x.guard r
    let adv := (([1, 2, 3, 4] : List Nat).find? (fun a => decide (wire + lp + 500 ≤ a * x.T))).getD 5
    let win := last + outLen
    (lay.1, ⟨true, sOut, outLen, adv, links, lp, win, win + x.slotLen r (if x.T ≤ 62500 then 256 else 512)⟩)

/-- The service window of each ring ends within the cycle; the first node whose ring fails is named (R18, R123). -/
def PlaceIn.windowCheck (x : PlaceIn) (plans : List RingPlan) : Option Verdict :=
  firstBad (fun n : Nat × NodeRec => if x.T < (plans.getD n.2.ring {}).fin then some (infeasible 4 (ident 3 n.1)) else none)
    (numbered 0 x.cell.nodes)

/-! ### Step 4: latency classes -/

/-- When a node's slot reaches the device (R121). -/
def reachOf (p : RingPlan) (s : NodePlace) : Nat := s.headEnd + p.lPlan

/-- Shutter periods from a node's sample until its data are complete at a swap (R294). -/
def PlaceIn.eOf (x : PlaceIn) (r : Nat) (p : RingPlan) (s : NodePlace) : Nat := (x.shut r + reachOf p s) / x.T + 1

/-- Step 4 (R21, R122, R306, R442). -/
def PlaceIn.classCheck (x : PlaceIn) (plans : List RingPlan) (places : List NodePlace) : Option Verdict :=
  let io := (x.cell.nodes.filter NodeRec.io).map (·.ring)
  let aMax := maxOf (io.map (fun r => (plans.getD r {}).adv))
  let shMax := maxOf (io.map x.shut)
  firstBad (fun n : Nat × NodeRec =>
    let p := plans.getD n.2.ring {}
    let s := (places.find? (fun s => s.node == n.1)).getD ⟨n.1, [], 0, 0⟩
    let count := p.adv + (if reachOf p s ≤ p.sOut then 0 else 1)
    let ok := decide (p.adv ≤ 4) && (match n.2.lclass with
      | 0 => count == 1
      | 1 => decide (count ≤ 2)
      | 2 => decide ((x.eOf n.2.ring p s + aMax) * x.T + shMax ≤ 250000 + x.shut n.2.ring)
      | _ => true)
    if ok then none else some (infeasible 5 (ident 3 n.1))) (numbered 0 x.cell.nodes)

/-! ### Step 5: loops -/

/-- Loop indices that are placed together with loop `i` (R22). DESIGN CHOICE (log entry 36): they take their consecutive slots in
member order, which R22 does not say. -/
def Cell.groupOfLoop (c : Cell) (i : Nat) : List Nat :=
  let g := (c.loopAt i).group
  if g = 0xFF then [i] else (groupMembers (c.groups.getD g [])).map (·.2)

/-- Engines with room for `n` consecutive slots, fewest used slots first, lowest index among equals. -/
def PlaceIn.engineOrder (x : PlaceIn) (used : List Nat) (n : Nat) : List Nat :=
  let room := (List.range 16).filter (fun e => !x.eng.getLsbD e && decide (used.getD e 0 + n ≤ 32))
  (sortNats (room.map (fun e => used.getD e 0 * 16 + e))).map (· % 16)

/-- Step 5 (R22): place each loop that is not placed yet with its whole group. -/
def PlaceIn.loops (x : PlaceIn) : List Nat → List Nat → List LoopPlace → Except Verdict (List LoopPlace)
  | [], _, done => .ok done
  | i :: rest, used, done =>
    if x.axisShed (x.cell.loopAt i).axis || done.any (fun d => d.loop == i) then x.loops rest used done
    else
      let g := x.cell.groupOfLoop i
      let order := x.engineOrder used g.length
      let copies := if x.bracket then 3 else 1
      if order.isEmpty then .error (infeasible 7 (ident 5 i))
      else if order.length < copies then .error (infeasible 8 (ident 5 i))
      else
        let take := order.take copies
        let new := (numbered 0 take).flatMap (fun e => (numbered 0 g).map (fun m => ⟨m.2, e.1, e.2, used.getD e.2 0 + m.1⟩))
        x.loops rest ((List.range 16).map (fun e => used.getD e 0 + (if take.contains e then g.length else 0))) (done ++ new)

/-! ### Step 6: solver problems -/

/-- Chains of an image that are not shed. -/
def PlaceIn.liveChains (x : PlaceIn) (g : SchedImage) : List Nat := (maskBits 16 g.chainMask).filter (fun c => !x.isShed c)

/-- The identity of the lowest chain of an image, as a record of the cell. -/
def PlaceIn.chainIdent (x : PlaceIn) (g : SchedImage) : Word :=
  match (numbered 0 x.cell.chains).find? (fun r => g.chainMask.testBit r.2.chain) with
  | some r => ident 1 r.1
  | none => ident 1 (((maskBits 16 g.chainMask).head?).getD 0)

/-- Images that take part, in ascending problem index: current ones with a chain that is not shed (R23, R31). -/
def PlaceIn.images (x : PlaceIn) : List (Nat × SchedImage) :=
  (List.range 4).flatMap (fun i => x.probs.filter (fun e => e.1 == i && !(x.liveChains e.2).isEmpty))

/-- Coverage (R23, R216). -/
def PlaceIn.coverCheck (x : PlaceIn) : Option Verdict :=
  match firstBad (fun e : Nat × SchedImage => if e.2.covers x.cell then none else some (infeasible 0xB (x.chainIdent e.2))) x.images with
  | some v => some v
  | none => firstBad (fun r : Nat × ChainRec =>
      if x.isShed r.2.chain || x.images.any (fun e => e.2.chainMask.testBit r.2.chain) then none
      else some (infeasible 0xB (ident 1 r.1))) (numbered 0 x.cell.chains)

/-- The lowest start of a run of `n` free partitions. -/
def freeRun (taken : List Nat) (n : Nat) : Option Nat :=
  (List.range (9 - n)).find? (fun f => (List.range n).all (fun i => !taken.contains (f + i)))

/-- Problems in ascending index onto contiguous free partitions (R23, R233). -/
def PlaceIn.problems (x : PlaceIn) : List (Nat × SchedImage) → Nat → Nat → List Nat → Except Verdict (List (Nat × Nat × Nat × Nat))
  | [], _, _, _ => .ok []
  | e :: rest, count, total, taken =>
    let g := e.2
    let id := x.chainIdent g
    if 4 ≤ count ∨ 8 < total + g.partitions then .error (infeasible 9 id)
    else if 8192 < g.nVar ∨ 16384 < g.nCon ∨ 2097152 < g.pEnt.length + g.aEnt.length ∨
        837952 < g.predict x.outer x.inner then .error (infeasible 0xA id)
    else match freeRun taken g.partitions with
      | none => .error (infeasible 9 id)
      | some f => match x.problems rest (count + 1) (total + g.partitions)
          (taken ++ (List.range g.partitions).map (· + f)) with
        | .error v => .error v
        | .ok r => .ok ((e.1, f, g.partitions, g.index) :: r)

/-! ### Step 7: tile kernels -/

/-- What a tile carries so far: its configuration (R249), X, Y and program bytes, load. -/
structure TileLoad where
  memcfg : Nat := 0
  x      : Nat := 0
  y      : Nat := 0
  prog   : Nat := 0
  load   : Nat := 0
  deriving DecidableEq, Repr

/-- The tile with a kernel added. -/
def TileLoad.add (t : TileLoad) (k : KernelImage) (load : Nat) : TileLoad :=
  ⟨t.memcfg, t.x + k.xBytes, t.y + k.yBytes, t.prog + 8 * k.program.length, t.load + load⟩

/-- The memory of a tile suffices (R24). -/
def TileLoad.fits (t : TileLoad) : Bool :=
  decide (t.prog ≤ 32768) && (if t.memcfg = 1 then decide (t.x ≤ 131072) else decide (t.x ≤ 65536) && decide (t.y ≤ 65536))

/-- A kernel bound to an object takes part: its loop is placed (R31). -/
def PlaceIn.kernelLive (x : PlaceIn) (obj : Word) : Bool :=
  decide (idType obj ≠ 5) || !x.axisShed (x.cell.loopAt (idIndex obj)).axis

/-- Step 7 (R24, R249): the first tile of the kernel's configuration on which memory and cycles both fit; kernel, tile and
load. -/
def PlaceIn.tiles (x : PlaceIn) : List (Nat × KernelImage × Word) → List TileLoad → Except Verdict (List (Nat × Nat × Nat))
  | [], _ => .ok []
  | k :: rest, ts =>
    if !x.kernelLive k.2.2 then x.tiles rest ts
    else
      let load := k.2.1.load x.cell k.2.2
      let mem := (List.range 16).filter (fun t =>
        let o := ts.getD t {}
        !x.tile.getLsbD t && o.memcfg == k.2.1.memcfg && (o.add k.2.1 load).fits)
      match mem.find? (fun t => decide ((ts.getD t {}).load + load ≤ 640000)) with
      | some t => match x.tiles rest (ts.set t ((ts.getD t {}).add k.2.1 load)) with
        | .error v => .error v
        | .ok r => .ok ((k.1, t, load) :: r)
      | none => .error (infeasible (if mem.isEmpty then 0xC else 0xD) k.2.2)

/-- Kernels in ascending identity of their bound objects. -/
def insertKernel (a : Nat × KernelImage × Word) : List (Nat × KernelImage × Word) → List (Nat × KernelImage × Word)
  | [] => [a]
  | b :: r => if a.2.2.toNat ≤ b.2.2.toNat then a :: b :: r else b :: insertKernel a r

/-! ### Step 8: event routing -/

/-- An event-enabled input range. -/
def PointRec.eventful (p : PointRec) : Bool := p.dir == 0 && p.flags.testBit 0

/-- Step 8 (R25): the first range at which the count passes 65,536. -/
def PlaceIn.eventCheck (x : PlaceIn) : Option Verdict :=
  firstBad (fun p : Nat × PointRec =>
    if p.2.eventful && decide (65536 < (((x.cell.points.take (p.1 + 1)).filter PointRec.eventful).map (·.count)).sum) then
      some (infeasible 0xE (ident 4 p.1)) else none) (numbered 0 x.cell.points)

/-- The event batch of a range: 33 × ring + phase, or + 32 for the fast batch (R25, R308). DESIGN CHOICE (log entry 36): the
events of a normal-class range on an I/O node that speaks in several phases, because it also carries fast points, go to
the batch of the node's lowest phase; R25 does not say which of its phases it is. -/
def PlaceIn.batchOf (x : PlaceIn) (ph : List (Nat × List Nat)) (p : PointRec) : Nat :=
  match x.cell.nodes[p.node]? with
  | none => 0
  | some n =>
    33 * n.ring + (if p.cls = 1 ∨ n.io = false then 32
      else (((ph.find? (fun e => e.1 == p.node)).bind (fun e => e.2.head?)).getD 0))

/-! ### Readback (R33) -/

/-- The bytes of a readback record. -/
def ReadRec.bytes (r : ReadRec) : List Byte :=
  leBytes 4 r.object.toNat ++ [BitVec.ofNat 8 r.rkind, BitVec.ofNat 8 r.rindex] ++ leBytes 2 r.slot ++ leBytes 4 r.start ++
    leBytes 4 r.extent

/-- The order of readback records: identity, kind, then index, slot and start. -/
def ReadRec.key (r : ReadRec) : Nat :=
  (((r.object.toNat * 256 + r.rkind) * 256 + r.rindex) * 65536 + r.slot) * 2 ^ 32 + r.start

/-- Merge two ordered lists of records; `n` bounds the steps. -/
def mergeRecs : Nat → List ReadRec → List ReadRec → List ReadRec
  | 0, a, b => a ++ b
  | _, [], b => b
  | _, a, [] => a
  | n + 1, x :: a, y :: b => if x.key ≤ y.key then x :: mergeRecs n a (y :: b) else y :: mergeRecs n (x :: a) b

/-- Records in order, by merging halves `d` deep. -/
def sortRecs : Nat → List ReadRec → List ReadRec
  | 0, l => l
  | d + 1, l =>
    let h := l.length / 2
    if h = 0 then l else mergeRecs l.length (sortRecs d (l.take h)) (sortRecs d (l.drop h))

/-- The digest: CRC-32C over all records. -/
def digestOf (rs : List ReadRec) : Word := w32 (crc32c (rs.flatMap ReadRec.bytes))

/-- Ring slot records of a node. -/
def slotRecs (c : Cell) (n : NodePlace) : List ReadRec :=
  let r := ((c.nodes[n.node]?).map (·.ring)).getD 0
  if n.phases.isEmpty then [⟨ident 3 n.node, 4, r, 0xFFFF, n.start, n.extent⟩]
  else n.phases.map (fun p => ⟨ident 3 n.node, 4, r, p.1, p.2, n.extent⟩)

/-- Every binding as a readback record. -/
def PlaceIn.records (x : PlaceIn) (loops : List LoopPlace) (nodes : List NodePlace) (probs : List (Nat × Nat × Nat × Nat))
    (kern : List (Nat × Nat × Nat)) (batches : List (Nat × Nat)) : List ReadRec :=
  sortRecs 32 (
    loops.map (fun l => ⟨ident 5 l.loop, 1, l.engine, l.slot, 0, 0⟩) ++
    probs.flatMap (fun p => match x.probs.find? (fun e => e.1 == p.1) with
      | some e => ((numbered 0 x.cell.chains).filter (fun r => e.2.chainMask.testBit r.2.chain)).map
          (fun r => ⟨ident 1 r.1, 2, p.2.1, p.2.2.1, 0, 0⟩)
      | none => []) ++
    kern.filterMap (fun k => (x.kernels.find? (fun e => e.1 == k.1)).map (fun e => ⟨e.2.2, 3, k.2.1, 0, 0, k.2.2⟩)) ++
    nodes.flatMap (slotRecs x.cell) ++
    batches.map (fun b => ⟨ident 4 b.1, 5, b.2, 0, 0, 0⟩))

/-! ### The whole placement -/

/-- Placement (R18): the steps in order, ending at the first object that cannot be placed. -/
def PlaceIn.place (x : PlaceIn) : Except Verdict Placement :=
  match firstBad (fun o : Option Verdict => o) [x.axisCheck, x.ringCheck, x.fastCheck] with
  | some v => .error v
  | none =>
  match x.phases (numbered 0 x.cell.nodes) x.emptyLoads with
  | .error v => .error v
  | .ok (ph, loads) =>
  let plans := (List.range 4).map (fun r => x.ringPlan r ph (loads.getD r ⟨[], []⟩))
  let rings := plans.map (·.2)
  let nodes := plans.flatMap (·.1)
  match firstBad (fun o : Option Verdict => o) [x.windowCheck rings, x.classCheck rings nodes] with
  | some v => .error v
  | none =>
  match x.loops (List.range x.cell.loops.length) (List.replicate 16 0) [] with
  | .error v => .error v
  | .ok loops =>
  match x.coverCheck with
  | some v => .error v
  | none =>
  match x.problems x.images 0 0 (maskBits 8 x.part.toNat) with
  | .error v => .error v
  | .ok probs =>
  match x.tiles (x.kernels.foldr insertKernel []) (x.memcfg.map (fun b => { memcfg := b2n b })) with
  | .error v => .error v
  | .ok kern =>
  match x.eventCheck with
  | some v => .error v
  | none =>
    let batches := ((numbered 0 x.cell.points).filter (fun p => p.2.eventful)).map (fun p => (p.1, x.batchOf ph p.2))
    let recs := x.records loops nodes probs kern batches
    .ok { records := recs, digest := digestOf recs, loops := loops, nodes := nodes
          rings := ⟨#[rings.getD 0 {}, rings.getD 1 {}, rings.getD 2 {}, rings.getD 3 {}], rfl⟩
          problems := probs, kernels := kern.map (fun k => (k.1, k.2.1)), batches := batches
          shed := x.shed, bracket := x.bracket }

/-! ### Inputs from the state -/

/-- Bracket mode is in force for a cell (R381): mode 2 in SOLO, or ALONE. -/
def State.bracketFor (s : State) (c : Cell) : Bool :=
  match s.twin.state with
  | .solo => c.mode == 2
  | .alone => s.twin.bracket
  | _ => false

/-- The placement inputs for a cell with given current images, an extra binding, and shed chains. -/
def State.placeIn (s : State) (c : Cell) (current : List (Nat × Nat)) (bind : Option (Nat × Word)) (shed : BitVec 16) : PlaceIn where
  cell := c
  probs := current.filterMap (fun e => (s.solver.images[f16 e.2]).map (fun g => (e.1, g)))
  kernels := (List.range 64).filterMap (fun k =>
    let x := s.tiles.kernels[f64 k]
    let obj := match bind with
      | some b => if b.1 = k then some b.2 else x.bind
      | none => x.bind
    match x.image, obj with
    | some im, some o => some (k, im, o)
    | _, _ => none)
  eng := s.cell.engMask
  part := s.cell.partMask
  tile := s.cell.tileMask
  shed := shed
  bracket := s.bracketFor c
  guards := s.rings.toList.map (fun r => fld r.rcfg 31 20)
  shutter := s.rings.toList.map (fun r => fld r.rcfg 19 0)
  outer := fld s.solver.ctrl 31 24
  inner := fld s.solver.ctrl 23 16
  memcfg := s.tiles.tiles.toList.map (·.memcfg)

/-- Degraded placement (R30, R31): whole chains are shed, highest rank first and highest index among equals, until
placement succeeds; each shed with the reason and object of the attempt that failed. No placement where nothing is left to shed. -/
def degrade : Nat → (BitVec 16 → PlaceIn) → BitVec 16 → List (Nat × Verdict) → Option Placement × List (Nat × Verdict)
  | 0, _, _, log => (none, log)
  | n + 1, f, shed, log =>
    match (f shed).place with
    | .ok p => (some p, log)
    | .error v =>
      let left := (f shed).cell.chains.filter (fun r => !shed.getLsbD r.chain)
      match (sortNats (left.map (fun r => r.shedRank * 16 + r.chain))).getLast? with
      | none => (none, log)
      | some k => degrade n f (bvSet shed (k % 16)) (log ++ [(k % 16, v)])

end Sys2Proof.Machine
end

