-- ==== Sys2Proof/Machine/Loops.lean ====
section
/-! DEFINITION. The loop engines (07_loop_engines.md): axis data, the control law, override groups, handovers,
deadlines and axis faults, bracket votes, contact sheets, the setpoint evaluation of R165, and groups 0x3_ and 0xC_. -/

namespace Sys2Proof.Machine

/-! ### Servo cycles (R93, R118, R119) -/

/-- The rotation phases of a node; empty for one that speaks every servo cycle. -/
def State.phasesOf (s : State) (node : Nat) : List Nat :=
  match s.cell.placement.nodes.find? (fun n => n.node == node) with
  | some n => n.phases.map (·.1)
  | none => []

/-- The number of phases N (R20). -/
def State.phaseCount (s : State) : Nat := 1000000 / s.servo

/-- The servo sequence number of the present cycle (R118), unreduced. -/
def State.seqNo (s : State) : Nat := s.stamp / s.servo

/-- The start of servo cycle `seq` as an event stamp, at or before now (R118). -/
def State.cycleStart (s : State) (seq : Word) : Nat :=
  (s.seqNo - (w32 s.seqNo - seq).toNat) * s.servo

/-- The shutter offset of a ring in ns, modulo the servo cycle (R119). -/
def State.shutterOf (s : State) (r : Fin 4) : Nat := fld s.rings[r].rcfg 19 0 % s.servo

/-- The ring of an axis, if a node carries it. -/
def State.ringOfAxis (s : State) (a : Nat) : Option (Fin 4) := (s.theCell.nodeOfAxis a).map (fun n => f4 n.2.ring)

/-- The first shutter instant of an axis at least `wait` ns from now, as an event stamp: 2 µs for a coefficient set and a handover
(R183, R190), 1 ns for the next servo cycle boundary (R200). -/
def State.loopBoundary (s : State) (a : Nat) (wait : Nat := 2000) : Nat :=
  let sh := match s.ringOfAxis a with
    | some r => s.shutterOf r
    | none => 0
  let t := s.stamp + wait
  if t ≤ sh then sh else sh + ceilDiv (t - sh) s.servo * s.servo

/-! ### Signals (R177, R178) -/

/-- Wrap to a signed 32-bit value. -/
def wrap32 (x : Int) : Int := sgn 32 (x % 2 ^ 32).toNat
/-- Saturate to the signed 32-bit range. -/
def satS (x : Int) : Int := max (-(2 ^ 31)) (min (2 ^ 31 - 1) x)
/-- A signed reading of a word. -/
def sw (w : Word) : Int := sgn 32 w.toNat
/-- Clamp between two integers. -/
def clampI (x lo hi : Int) : Int := min (max x lo) hi

/-- Round a fraction to the nearest integer, ties to even. -/
def ratRne (n : Int) (d : Nat) : Int :=
  let q := n / (d : Int)
  let r := 2 * (n % (d : Int))
  if r < d then q else if (d : Int) < r then q + 1 else q + q % 2

/-- The quotient of two binary32 values, rounded to the nearest integer with ties to even (R178). -/
def f32QuotRne (a b : Word) : Int :=
  let e := f32Exp a - f32Exp b
  if f32Sig b = 0 then 0
  else if 0 ≤ e then ratRne (f32Int a * 2 ^ e.toNat) (f32Sig b)
  else ratRne (f32Int a) (f32Sig b * 2 ^ (-e).toNat)

/-- A binary32 value times 65,536, rounded to the nearest integer with ties to even, saturated (R178). -/
def torqueUnits (w : Word) : Int :=
  let e := f32Exp w + 16
  satS (if 0 ≤ e then f32Int w * 2 ^ e.toNat else ratRne (f32Int w) (2 ^ (-e).toNat))

/-- What an axis input record says, in the units of R178: pos, vel, temp, torque (R177). -/
structure AxisIn where
  pos    : Int
  vel    : Int
  temp   : Int
  torque : Int
  deriving DecidableEq, Repr

/-- The axis input record at an offset of a node payload. -/
def axisIn (bs : List Byte) (o : Nat) : AxisIn :=
  ⟨sw (wordAt bs o), sw (wordAt bs (o + 4)), ((byteAt bs (o + 8) : Int) - 40) * 65536,
   sgn 24 (leAt bs (o + 9) 3) * 256⟩

/-! ### The control law (R182, R183) -/

/-- Round half up after a right shift. -/
def rsh (x : Int) (k : Nat) : Int := if k = 0 then x else (x + 2 ^ (k - 1)) / 2 ^ k

/-- A gain word applied to a value (R179). -/
def gainMul (x : Int) (w : Word) : Int := rsh (x * gainOf w) (shiftOf w)

/-- The signals of one evaluation: reference, feedback, feedforward. -/
structure Sig where
  r  : Int
  f  : Int
  ff : Int
  deriving DecidableEq, Repr

/-- One evaluation of the law of R182; `skip` leaves out the integrator increment (R191). -/
def LoopSlot.law (l : LoopSlot) (g : Sig) (skip : Bool) : LoopSlot :=
  let e := if l.kind = 0 then wrap32 (g.r - g.f) else satS (g.r - g.f)
  let ePrev := if l.first then e else l.e
  let fPrev := if l.first then g.f else l.fPrev
  let p := satS (gainMul e l.kp)
  let x := if bitAt l.cfg 31 then -(wrap32 (g.f - fPrev)) else e - ePrev
  let draw := satS (gainMul x l.kd)
  let d := satS (l.d + gainMul (draw - l.d) l.df)
  let inc := satS (gainMul e l.ki)
  let u0 := p + l.i + d + g.ff
  let inc := if skip ∨ (l.omax < u0 ∧ 0 < inc) ∨ (u0 < l.omin ∧ inc < 0) then 0 else inc
  let i := clampI (l.i + inc) l.omin l.omax
  let u := satS (p + i + d + g.ff)
  let y := clampI u l.omin l.omax
  { l with r := g.r, f := g.f, ff := g.ff, e := e, p := p, i := i, d := d, u := u, y := y, fPrev := g.f
           atLimit := decide (y ≠ u), first := false, tracking := false }

/-- The integrator set so that the unclamped output meets a target, within the limits (R183, R189, R191). -/
def LoopSlot.backCalc (l : LoopSlot) (t : Int) : Int := clampI (t - l.p - l.d - l.ff) l.omin l.omax

/-- Output and limit flag from the present terms. -/
def LoopSlot.reform (l : LoopSlot) : LoopSlot :=
  let u := satS (l.p + l.i + l.d + l.ff)
  let y := clampI u l.omin l.omax
  { l with u := u, y := y, atLimit := decide (y ≠ u) }

/-- The six words of a coefficient set put in place (R179). -/
def LoopSlot.setCoeff (l : LoopSlot) (ws : List Word) : LoopSlot :=
  { l with kp := ws.getD 0 0, ki := ws.getD 1 0, kd := ws.getD 2 0, df := ws.getD 3 0
           omin := sw (ws.getD 4 0), omax := sw (ws.getD 5 0) }

/-- The entries of a dated list that are due at `t`, the latest last, and the rest. -/
def dueOf {α : Type} (m : List (Nat × α)) (t : Nat) : List (Nat × α) := m.filter (fun e => decide (e.1 ≤ t))
def notDue {α : Type} (m : List (Nat × α)) (t : Nat) : List (Nat × α) := m.filter (fun e => !decide (e.1 ≤ t))

/-- Words and caps whose servo cycle boundary has come by `t` take effect (R181, R200). -/
def LoopSlot.latch (l : LoopSlot) (t : Nat) : LoopSlot :=
  { l with
    cfg := (((dueOf l.newCfg t).getLast?).map (·.2)).getD l.cfg, newCfg := notDue l.newCfg t
    ref := (((dueOf l.newRef t).getLast?).map (·.2)).getD l.ref, newRef := notDue l.newRef t
    cap := (((dueOf l.newCap t).getLast?).map (·.2)).getD l.cap, newCap := notDue l.newCap t }

/-- The coefficient set whose boundary the sample at `t` has reached (R183). -/
def LoopSlot.dueCoeff (l : LoopSlot) (t : Nat) : Option NewCoeff := (l.newCoeff.filter (fun c => decide (c.at_ ≤ t))).getLast?

/-- One evaluation with the coefficient set whose boundary the sample at `t` has reached (R183). -/
def LoopSlot.evaluate (l : LoopSlot) (g : Sig) (t : Nat) (skip : Bool) : LoopSlot :=
  match l.dueCoeff t with
  | none => l.law g skip
  | some c =>
    let old := l.law g skip
    let new := { l.setCoeff c.words with newCoeff := l.newCoeff.filter (fun c => !decide (c.at_ ≤ t)) }
    let ev := new.law g skip
    if bitAt l.cfg 27 then ({ ev with i := ev.backCalc old.u }).reform else ev

/-- The integrator that a member holds while it is not selected and does not track (R189): what a bumpless change or a handover
has set in this evaluation, else the one before it, within the limits in force. -/
def LoopSlot.heldI (l new : LoopSlot) (t : Nat) (first : Bool) : Int :=
  if first || ((l.dueCoeff t).isSome && bitAt l.cfg 27) then new.i else clampI l.i new.omin new.omax

/-! ### Signals of a loop (R181) -/

/-- The number of the axis among its node's axes gives the record's place. -/
def axisOffset (n : NodeRec) (a : Nat) : Nat := 12 * axisSlot a n.axisList

/-- The kernel bound to a loop. -/
def State.kernelOfLoop (s : State) (loop : Nat) : Option KernelSt :=
  s.tiles.kernels.toList.find? (fun k => k.bind == some (ident 5 loop))

/-- The setpoint of a shutter instant that an axis holds, if it is the current or the previous one (R181). -/
def AxisSt.setpointOf (x : AxisSt) (seq : Word) : Option Setpoint :=
  let hit := fun (o : Option Setpoint) => o.filter (fun p => p.seq == seq)
  (hit x.setCur).orElse (fun _ => hit x.setPrev)

/-- The setpoints of a shutter instant at an axis; free words where the pipeline has delivered none (R181). -/
def AxisSt.setpoint (x : AxisSt) (seq : Word) (free : Nat) : Setpoint :=
  (x.setpointOf seq).getD ⟨seq, Config.freeWord free, Config.freeWord (free + 1), Config.freeWord (free + 2)⟩

/-- The magnitude of a signal. -/
def magS (x : Int) : Int := satS (x.natAbs : Int)

/-- A member that limits (R187). -/
def LoopSlot.limits (l : LoopSlot) (command : Bool) : Bool :=
  !command || limitKind l.kind || (l.kind == 5 && l.member != 0)

/-- Reference, feedback and feedforward of a loop (R181); none when it reads an invalid tile output (R266). A bound
output where no kernel is bound is a free value. -/
def State.signals (s : State) (l : LoopSlot) (command : Bool) (m : AxisIn) (sp : Setpoint) : Option Sig :=
  let ff := if l.limits command then 0
    else (if bitAt l.cfg 30 then sw sp.vff else 0) + (if bitAt l.cfg 29 then sw sp.tff else 0)
  let tile : Option (Option Int) := match s.kernelOfLoop l.loop with
    | some k => some (if k.valid then some (sw (k.out[(⟨0, by decide⟩ : Fin 8)])) else none)
    | none => none
  match l.kind with
  | 0 => some ⟨sw sp.pos, m.pos, ff⟩
  | 1 => some ⟨sw sp.vff, m.vel, ff⟩
  | 2 =>
    let r := l.force.getD (sw l.ref)
    match tile with
    | none => some ⟨r, magS m.torque, 0⟩
    | some none => none
    | some (some v) => some ⟨r, magS v, 0⟩
  | 3 => some ⟨l.cap.getD l.omax, magS m.vel, 0⟩
  | 4 => some ⟨sw l.ref, m.temp, 0⟩
  | _ =>
    let r := sw l.ref
    match fld l.cfg 26 24 with
    | 0 => some ⟨r, m.pos, ff⟩
    | 1 => some ⟨r, m.vel, ff⟩
    | 2 => some ⟨r, m.torque, ff⟩
    | 3 => some ⟨r, m.temp, ff⟩
    | 4 => match tile with
      | some (some v) => some ⟨r, v, ff⟩
      | some none => none
      | none => some ⟨r, sw (Config.freeWord (s.free + 3)), ff⟩
    | _ => some ⟨r, sw (Config.freeWord (s.free + 3)), ff⟩

/-! ### Override groups (R184 to R192) -/

/-- One member of a group under evaluation: the integrator that it holds, its slot after; whether it was evaluated. -/
structure Member where
  held : Int
  new  : LoopSlot
  hit  : Bool
  deriving DecidableEq, Repr

/-- What an evaluation of a group gives. -/
structure GroupOut where
  slots    : List LoopSlot
  output   : Int
  selected : Nat
  primary  : Nat
  handover : Option Handover
  clamped  : Bool
  deriving DecidableEq, Repr

/-- The offset that fades the residual out (R191). -/
def Handover.offset (h : Handover) : Int :=
  if h.started ∧ h.k < h.window then (h.rho * ((h.window : Int) - h.k)).tdiv h.window else 0

/-- The member with the smallest output; among equals the first of the list. -/
def smallest : List (Nat × Int) → Option (Nat × Int)
  | [] => none
  | x :: r => match smallest r with
    | none => some x
    | some y => if x.2 ≤ y.2 then some x else some y

/-- Tracking of one member after the selection (R189). -/
def Member.settle (m : Member) (selected primary : Nat) (command : Bool) (m0 sm off : Int) : LoopSlot :=
  let l := { m.new with selected := m.new.member == selected, primary := command && m.new.member == primary }
  if !m.hit || l.selected then l
  else if bitAt l.cfg 28 then
    let t := if l.primary then sm + off else if l.limits command then m0 else sm
    { l with i := l.backCalc t, tracking := true }
  else { l with i := m.held }

/-- Evaluate one group: members in order with their signals, for a sample taken at `t` (R188 to R192). A new primary that misses
during its handover window holds the group output. -/
def GroupSt.evaluate (g : GroupSt) (ms : List (LoopSlot × Option Sig)) (t : Nat) : GroupOut :=
  let starts := match g.handover with
    | some h => !h.started && decide (h.at_ ≤ t) && ms.any (fun m => m.1.member == h.member && m.2.isSome)
    | none => false
  let primary := match g.handover with
    | some h => if starts then h.member else g.primary
    | none => g.primary
  let evs := ms.map (fun m =>
    let l := m.1.latch t
    match m.2 with
    | none => (⟨l.i, l, false⟩ : Member)
    | some sg =>
      let first := starts && l.member == primary
      let e := l.evaluate sg t first
      let e := if first then ({ e with i := e.backCalc g.output }).reform else e
      ⟨l.heldI e t first, e, true⟩)
  let y0 : Int := match evs.find? (fun m => m.new.member == primary) with
    | some m => m.new.y
    | none => 0
  let ho := match g.handover with
    | some h => if starts then some { h with
        started := true, rho := y0 - g.output, k := 0, clamped := decide (y0 ≠ g.output) } else some h
    | none => none
  let clamped := match ho with
    | some h => starts && h.clamped
    | none => false
  let holds := (match ho with
    | some h => h.started
    | none => false) && !evs.any (fun m => m.new.member == primary && m.hit)
  let off : Int := match ho with
    | some h => h.offset
    | none => 0
  let lims := (evs.filter (fun m => m.new.limits g.command && (!g.command || m.new.member != primary))).map
    (fun m => (m.new.member, m.new.y))
  let y0 := y0 - off
  let best := if g.command then smallest ((primary, (y0.natAbs : Int)) :: lims) else smallest lims
  let sel := if holds then g.selected else (best.map (·.1)).getD 0
  let m0 := if holds then (g.output.natAbs : Int) else (best.map (·.2)).getD 0
  let sm := if holds then g.output else if g.command && decide (y0 < 0) then -m0 else m0
  let slots := evs.map (fun m =>
    let l := m.settle sel primary g.command m0 sm off
    if clamped && l.member == primary then { l with hoClamped := true } else l)
  { slots := slots, output := satS sm, selected := sel, primary := primary, handover := ho
    clamped := if starts then clamped else g.clamped }

/-! ### Contact sheets (R197 to R199) -/

/-- Rows in one unit of pre and post (R201). -/
def TraceSt.unit (t : TraceSt) : Nat := if bitAt t.trig 23 then 1024 else 16
def TraceSt.pre (t : TraceSt) : Nat := fld t.trig 16 8 * t.unit
def TraceSt.post (t : TraceSt) : Nat := fld t.trig 7 0 * t.unit

/-- A trigger comes: an armed capture is triggered, a held one counts it (R198). The generation is that of the trigger row, or of
the trigger where no row follows it (R199). -/
def TraceSt.trigger (t : TraceSt) (source : Nat) (gen : Word) : TraceSt :=
  match t.state with
  | .armed =>
    let rows := t.rows.drop (t.rows.length - t.pre)
    { t with state := if t.post = 0 then .held else .triggered, rows := rows, trigRow := rows.length
             source := source, gen := gen, postLeft := t.post }
  | .held => { t with missed := satN 255 (t.missed + 1) }
  | _ => t

/-- A trigger condition of a source at an engine. -/
def State.traceEvent (s : State) (e : Fin 16) (source : Nat) : State :=
  let g := s.loops.engines[e]
  if fld g.trace.trig 31 29 = source then s.setEngine e { g with trace := g.trace.trigger source s.cell.generation }
  else s

/-- The group key of a slot. -/
def LoopSlot.key (l : LoopSlot) : Nat := if l.group = 0xFF then 128 + l.loop else l.group

/-- The group of a key. -/
def LoopSt.groupOf (v : LoopSt) (k : Nat) : GroupSt := mget {} v.groups k

/-- The present LP_SFLAG word of a slot. -/
def LoopSlot.sflag (l : LoopSlot) : Word :=
  w32 (2 ^ 31 * b2n l.deadlineMiss + 2 ^ 30 * b2n l.hoClamped + 2 ^ 29 * b2n l.atLimit + 2 ^ 28 * b2n l.selected +
    2 ^ 27 * b2n l.primary + 2 ^ 26 * b2n l.tracking)

/-- The value of a probe in the servo cycle `seq` (R197). -/
def State.probeValue (s : State) (e : Fin 16) (seq : Word) (w : Word) : Int :=
  let l := s.loops.engines[e].slots[f32i (fld w 30 26)]
  let x := s.loops.axes[f160 l.axis]
  let sp := (x.setpointOf seq).getD ⟨seq, 0, i32 x.vff, i32 x.tff⟩
  if !bitAt w 31 then 0
  else match fld w 25 22 with
  | 0 => l.r
  | 1 => l.f
  | 2 => l.e
  | 3 => l.p
  | 4 => l.i
  | 5 => l.d
  | 6 => l.u
  | 7 => l.y
  | 8 => (s.loops.groupOf l.key).output
  | 9 => sw l.sflag
  | 10 => sw sp.vff
  | _ => sw sp.tff

/-- The latest record of a probe that is not younger than the sample `seq`. -/
def TraceSt.seenAt (t : TraceSt) (w seq : Word) : Option (Word × Word × Int × Bool) :=
  (t.seen.filter (fun e => e.1 == w && decide ((seq - e.2.1).toNat < 2 ^ 31))).getLast?

/-- One servo cycle of an engine's capture: every dec + 1 cycles a row (R197, R198), which holds what the probes recorded of the
sample `seq` (log entry 30). -/
def State.traceRow (s : State) (e : Fin 16) (seq : Word) : State :=
  let g := s.loops.engines[e]
  let t := g.trace
  if t.state ≠ .armed ∧ t.state ≠ .triggered then s
  else if 0 < t.decLeft then s.setEngine e { g with trace := { t with decLeft := t.decLeft - 1 } }
  else
    let vals := t.probes.toList.map (fun w => match t.seenAt w seq with
      | some x => if bitAt w 31 then x.2.2.1 else 0
      | none => s.probeValue e seq w)
    let slot := fun (w : Word) => g.slots[f32i (fld w 30 26)]
    let flags := ((numbered 0 t.probes.toList).map (fun p =>
      2 ^ p.1 * b2n (bitAt p.2 31 && (slot p.2).deadlineMiss) +
      2 ^ (p.1 + 8) * b2n (bitAt p.2 31 && (match t.seenAt p.2 seq with
        | some x => x.2.2.2
        | none => (slot p.2).selected)))).sum
    let now := vals.getD (fld t.trig 28 26) 0
    let lv := sw t.level
    let fires := match t.lastVal with
      | some v => (fld t.trig 31 29 == 1 && decide (v < lv) && decide (lv ≤ now)) ||
          (fld t.trig 31 29 == 2 && decide (lv < v) && decide (now ≤ lv))
      | none => false
    let t := { t with lastVal := some now, decLeft := fld t.trig 22 17 }
    let t := if fires then t.trigger (fld t.trig 31 29) s.cell.generation else t
    let gen := s.cell.generation
    let row := fun (trig : Bool) => (seq, vals.map i32, w32 (flags + 2 ^ 16 * b2n trig + 2 ^ 17 * b2n (gen != t.lastGen)))
    let t := match t.state with
      | .armed => { t with rows := (t.rows ++ [row false]).drop (t.rows.length + 1 - t.pre), lastGen := gen }
      | .triggered => { t with rows := t.rows ++ [row (t.rows.length == t.trigRow)], lastGen := gen
                               gen := if t.rows.length = t.trigRow then gen else t.gen, postLeft := t.postLeft - 1, state := if t.postLeft ≤ 1 then .held else .triggered }
      | _ => t
    s.setEngine e { g with trace := t }

/-- A capture is armed: IDLE to ARMED (R198). -/
def TraceSt.arm (t : TraceSt) (gen : Word) : TraceSt :=
  if t.state = .idle then { t with state := .armed, rows := [], trigRow := 0, source := 0, missed := 0, decLeft := 0
                                   lastVal := none, lastGen := gen } else t

/-- TR_TRIG.arm of an engine written 1. -/
def State.armTrace (s : State) (e : Fin 16) : State :=
  let g := s.loops.engines[e]
  s.setEngine e { g with trace := g.trace.arm s.cell.generation }

/-- ARM (R198). -/
def execArm (e : Fin 16) (s : State) : Host.Outcome State Fault Refusal := .next (s.armTrace e)

/-! ### Axis faults (R192, R194) -/

/-- A slot's place on the engines, for every slot of an axis. -/
def State.slotsOfAxis (s : State) (a : Nat) : List (Nat × Nat) :=
  (List.range 16).flatMap (fun e => ((List.range 32).filter (fun k =>
    let l := s.loops.engines[f16 e].slots[f32i k]
    l.valid && l.axis == a)).map (fun k => (e, k)))

/-- The group with a key replaced. -/
def State.setGroup (s : State) (k : Nat) (g : GroupSt) : State :=
  s.setLoops { s.loops with groups := mput {} s.loops.groups k g }

/-- The primary flags of the slots of a group. -/
def State.markPrimary (s : State) (key m : Nat) : State :=
  s.setLoops { s.loops with engines := foldOn (List.range 16) s.loops.engines (fun v e => vmod v (f16 e) (fun g =>
    { g with slots := foldOn (List.range 32) g.slots (fun w k => vmod w (f32i k) (fun l =>
      if l.valid && l.key == key then { l with primary := l.member == m } else l)) })) }

/-- A handover ends: its command completes, bit 0 clamped and bit 1 an axis fault (R191, R192). A window that has not
reached its boundary takes the new member as primary too. -/
def State.endHandover (s : State) (key : Nat) (faulted : Bool) : State :=
  let g := s.loops.groupOf key
  match g.handover with
  | none => s
  | some h =>
    let c := h.started && h.clamped
    ((s.setGroup key { g with handover := none, primary := h.member }).markPrimary key h.member).finishTag h.queue h.tag
      ⟨stOk, 0, w32 (b2n c + 2 * b2n faulted)⟩

/-- The chain that an axis belongs to: its own, or that of its frame (R194). -/
def State.chainOfAxis (s : State) (a : Nat) : Option Nat :=
  if a < 128 then some (a / 8)
  else match s.theCell.aux[a - 128]? with
    | some r => if r.frameChain < 16 then some r.frameChain else none
    | none => none

/-- The axis fault reaction (R194). With `once` the axis command goes out in one more device frame (R196). -/
def State.axisFault (s : State) (a : Nat) (cause : Nat) (once : Bool := false) : State :=
  let x := s.loops.axes[f160 a]
  if x.fault then s.setAxis (f160 a) { x with causeHolds := x.causeHolds || x.cause == cause }
  else
    let s := s.setAxis (f160 a) { x with
      fault := true, cause := cause, causeHolds := decide (cause ≠ 4), cmd := if once then x.cmd else 0, cmdOnce := once }
    let keys := (s.loops.groups.filter (fun g => g.2.axis == a && g.2.handover.isSome)).map (·.1)
    let s := keys.foldl (fun s k => s.endHandover k true) s
    let s := s.notice .axisFault a cause
    let s := foldOn (uniqNats ((s.slotsOfAxis a).map (·.1))) s (fun s e => s.traceEvent (f16 e) 5)
    match s.chainOfAxis a with
    | some c => ((s.protect (f16 c) .axisFault).motionStop34 (f16 c))
    | none => s

/-! ### Misses (R193) -/

/-- The deadline record that binds a loop: the one that its own record names, or else the one whose object is the loop (R16, R193;
log entry 30). -/
def Cell.deadlineOf (c : Cell) (loop : Nat) : Option DeadlineRec :=
  let i := (c.loopAt loop).deadline
  if i = 0xFFFF then c.deadlines.find? (fun d => d.object == ident 5 loop) else c.deadlines[i]?

/-- The deadline of a loop in ns, and its miss limit: its deadline record's, or LP_CTRL's; 0 selects 3 (R193, R194). -/
def State.loopDeadline (s : State) (loop : Nat) : Option Nat × Nat :=
  let three := fun n => if n = 0 then 3 else n
  match s.theCell.deadlineOf loop with
  | some d => (some (d.limitUs * 1000), three d.missLimit)
  | none => (none, three (fld s.loops.ctrl 31 28))

/-- A member misses a sample: it keeps its output and state (R193). -/
def LoopSlot.miss (l : LoopSlot) (seq : Word) : LoopSlot :=
  { l with deadlineMiss := true, missTotal := satN (2 ^ 24 - 1) (l.missTotal + 1), missRun := satN 255 (l.missRun + 1)
           first := true, lastSeq := some seq, selRun := 0 }

/-- The partner's state of a slot taken over: i, d, e_prev, f_prev, the output and the miss run (R373). -/
def LoopSlot.adopted (l : LoopSlot) (vs : List Int) (run : Nat) : LoopSlot :=
  let v := fun (i : Nat) => vs.getD i 0
  { l with i := v 0, d := v 1, e := v 2, fPrev := v 3, y := v 4, missRun := run, first := false, peer := none }

/-- A slot misses a sample, and the axis faults at its limit (R193, R194). -/
def State.slotMiss (s : State) (e : Fin 16) (k : Fin 32) (seq : Word) : State :=
  let l := (s.loops.engines[e].slots[k]).miss seq
  let taken := match l.peer with
    | some x => if x.1 = seq then some (l.adopted x.2.1 x.2.2) else none
    | none => none
  let s := if taken.isSome then s.setTwin { s.twin with cnt := bump s.twin.cnt 23 16 1 } else s
  let l := taken.getD l
  let s := s.setSlot e k l
  let s := if l.copy = 0 then s.setLoops { s.loops with misses := satN 65535 (s.loops.misses + 1) } else s
  let s := s.traceEvent e 3
  if (s.loopDeadline l.loop).2 ≤ l.missRun then s.axisFault l.axis 1 else s

/-- The handover window of a group moves on by one sample; it completes after the sample of H + W (R191). -/
def State.advanceHandover (s : State) (key : Nat) : State :=
  let g := s.loops.groupOf key
  match g.handover with
  | none => s
  | some h =>
    if !h.started then s
    else if h.window ≤ h.k then s.endHandover key false
    else s.setGroup key { g with handover := some { h with k := h.k + 1 } }

/-- The loops of an axis are suspended: its chain runs a brake test up to its release (R338). -/
def State.suspended (s : State) (a : Nat) : Bool :=
  decide (a < 128) && (match s.safety.index[f16 (a / 8)].test with
    | some t => decide (t.step < 5)
    | none => false)

/-- Offset of a loop's cut-off from the start of its sample's servo cycle (R122, R193). -/
def State.cutoffOffset (s : State) (loop axis : Nat) : Nat :=
  match s.theCell.nodeOfAxis axis with
  | none => 0
  | some (n, rec) =>
    let r := f4 rec.ring
    let p := s.cell.placement.rings[r]
    let sl := (s.cell.placement.nodes.find? (fun x => x.node == n)).getD ⟨n, [], 0, 0⟩
    let later := if reachOf p sl ≤ p.sOut then 0 else s.servo
    let dev1 := if s.theCell.mode = 1 ∧ s.twin.twinId = true then p.outLen else 0
    let t := s.shutterOf r + later + p.sOut + dev1 - 48
    match (s.loopDeadline loop).1 with
    | some lim => min t (later + lim)
    | none => t

/-- Servo cycles after a cycle's end by which every slot of an engine has its cut-off for the sample of that cycle behind it. -/
def State.traceLag (s : State) (e : Fin 16) : Nat :=
  (s.loops.engines[e].slots.toList.filter (fun l => l.valid)).foldl (fun n l => max n (s.cutoffOffset l.loop l.axis / s.servo)) 0

/-- At the end of a servo cycle each engine has the row of the latest cycle whose samples are all evaluated or missed (log entry
30). -/
def State.traceRows (s : State) : State :=
  if s.cellOn then foldOn (List.range 16) s (fun s e =>
    let n := 1 + s.traceLag (f16 e)
    if s.seqNo < n then s else s.traceRow (f16 e) (w32 (s.seqNo - n))) else s

/-- The latest sample of an axis whose cut-off, at `ofs` from its cycle, has passed. -/
def State.pastCutoff (s : State) (ofs : Nat) : Option Nat :=
  if s.stamp ≤ ofs then none else some ((s.stamp - 1 - ofs) / s.servo)

/-- The sample that a slot misses next: the one after its last, once its cut-off has passed. -/
def LoopSlot.missed (l : LoopSlot) (latest : Nat) : Option Word :=
  match l.lastSeq with
  | none => some (w32 latest)
  | some q => let d := (w32 latest - q).toNat
    if d = 0 ∨ 2 ^ 31 ≤ d then none else some (q + 1)

/-- LOOP_CUTOFF_MISS (R193, R194): the cut-off of a slot's next sample has passed without valid feedback. Loops that a brake test
suspends miss none (R338). -/
def execLoopCutoffMiss (e : Fin 16) (slot : Fin 32) (s : State) : Host.Outcome State Fault Refusal :=
  let g := s.loops.engines[e]
  let l := g.slots[slot]
  let up := match s.ringOfAxis l.axis with
    | some r => decide (s.rings[r].state = .run)
    | none => false
  if !l.valid || g.faulted || g.masked || !up then .next s
  else match s.pastCutoff (s.cutoffOffset l.loop l.axis) with
  | none => .next s
  | some n => match l.missed n with
    | none => .next s
    | some q =>
      if s.suspended l.axis then .next (s.setSlot e slot { l with lastSeq := some q })
      else if s.loops.axes[f160 l.axis].fault then
        let x := s.loops.axes[f160 l.axis]
        .next ((s.setSlot e slot { l with lastSeq := some q }).setAxis (f160 l.axis)
          { x with causeHolds := x.causeHolds || x.cause == 1 })
      else
        let s := s.slotMiss e slot q
        if l.primary && l.copy == 0 then .next (s.advanceHandover l.key) else .next s

/-! ### Evaluation of a node frame (R195, R196) -/

/-- The members of a group copy: slots in member order. -/
def State.membersOf (s : State) (key copy : Nat) : List (Nat × Nat) :=
  (List.range 16).flatMap (fun e => ((List.range 32).filter (fun k =>
    let l := s.loops.engines[f16 e].slots[f32i k]
    l.valid && l.key == key && l.copy == copy)).map (fun k => (e, k)))

/-- The state that the voter compares beside the output (R196). -/
def digestSlots (ls : List LoopSlot) : List (Int × Int × Int × Int) := ls.map (fun l => (l.i, l.d, l.e, l.fPrev))

/-- The copies of a group that agree with at least one other, or with none (R196). -/
def votes (outs : List (Nat × GroupOut)) : List (Nat × GroupOut) :=
  outs.filter (fun o => decide (2 ≤ (outs.filter (fun q => decide (q.2.output = o.2.output) &&
    decide (digestSlots q.2.slots = digestSlots o.2.slots))).length))

/-- Coefficient sets applied by an evaluation at `t` complete (R183); each command waits on copy 0 only. -/
def State.completeCoeffs (s : State) (l : LoopSlot) (t : Nat) : State :=
  if l.copy ≠ 0 then s
  else (l.newCoeff.filter (fun c => decide (c.at_ ≤ t))).foldl (fun s c => s.finishTag c.queue c.tag ⟨stOk, 0, 0⟩) s

/-- The masked or faulted engines (LP_STAT.faulted). -/
def EngineSt.down (g : EngineSt) : Bool := g.faulted || g.masked

/-! ### The resource mask (R30, R32) -/

/-- A placement in progress when the mask changes: running placement starts again, an announced one is withdrawn and
placed degraded (R32), one that waits for presence is placed again once accepted. -/
def Job.remask (j : Job) : Job :=
  match j.phase with
  | .placing => { j with remasked := true }
  | .presence => { j with stale := true, remasked := true }
  | .announced _ => { j with phase := .placing, degraded := true, toStage := [] }

/-- A placement job takes the place of the degraded re-placement of R30: a new image that has passed validation (R32), or an
announced swap or binding, which is placed again itself (log entry 37). -/
def Job.supersedes (j : Job) : Bool :=
  match j.kind, j.phase with
  | .check, _ | _, .presence => false
  | .swap, .placing | .bind, .placing => false
  | _, _ => true

/-- The resource mask has changed (R30, R32). -/
def State.maskChanged (s : State) : State :=
  let c := s.cell
  let job := c.job.map Job.remask
  let again := match c.job with
    | some j => !j.supersedes
    | none => true
  s.setCell { s.cell with
    job := job
    regrade := if c.active.isSome && again then some s.regradeJob else c.regrade }

/-- An engine faults or is masked: its loops' axes take the fault reaction with cause 3, and placement reruns (R30,
R194). -/
def State.engineLost (s : State) (e : Fin 16) (masked : Bool) : State :=
  let g := s.loops.engines[e]
  let axes := uniqNats ((g.slots.toList.filter (fun l => l.valid)).map (fun l => l.axis))
  let s := s.setEngine e { g with faulted := g.faulted || !masked, masked := g.masked || masked }
  if s.cell.engMask.getLsbD e.val then s
  else
    let s := s.setCell { s.cell with engMask := bvSet s.cell.engMask e.val }
    let s := s.latchUnit rdLoop (s.cell.engMask == 0xFFFF)
    let s := axes.foldl (fun s a => s.axisFault a 3) s
    s.maskChanged

/-- LOOP_ENGINE_FAULT (R30). -/
def execLoopEngineFault (e : Fin 16) (masked : Bool) (s : State) : Host.Outcome State Fault Refusal :=
  .next (s.engineLost e masked)

/-- A force-limit member that was selected counts its consecutive servo cycles (R173). -/
def LoopSlot.countContact (l : LoopSlot) : LoopSlot :=
  if l.kind = 2 then { l with selRun := if l.selected then l.selRun + 1 else 0 } else l

/-- The contact count of a chain: the longest run of its force-limit loops (R173). -/
def State.contactOf (s : State) (c : Nat) : Nat :=
  (List.range 8).foldl (fun m j => (s.slotsOfAxis (8 * c + j)).foldl (fun m p =>
    max m s.loops.engines[f16 p.1].slots[f32i p.2].selRun) m) 0

/-- Evaluate one group at a sample taken at `t`: every copy on a working engine, the vote, and the axis command. The output on which
two copies agree is sent, and the previous one when all differ, also where the vote starts the axis fault reaction (R196). Of the
members only those whose slots are `fresh` have the sample in time; the others' outputs are held, and a window whose new primary is
one of those moves on with its miss (R192, R193). -/
def State.evalGroup (s : State) (key : Nat) (fresh : List (Nat × Nat)) (m : AxisIn) (sp : Setpoint) (seq : Word) (t : Nat) :
    State :=
  let g := s.loops.groupOf key
  let copies := (List.range 3).filterMap (fun c =>
    let ps := s.membersOf key c
    if ps.isEmpty || ps.any (fun p => s.loops.engines[f16 p.1].down) then none else some (c, ps))
  let ins := copies.map (fun c => (c.2, c.2.map (fun p =>
    let l := s.loops.engines[f16 p.1].slots[f32i p.2]
    (l, if fresh.contains p then s.signals (l.latch t) g.command m sp else none))))
  let outs := ins.map (fun i => (((i.1.head?).map (·.1)).getD 0, g.evaluate i.2 t))
  let good := if outs.length < 3 then outs else votes outs
  let bad := outs.filter (fun o => !good.any (fun q => q.1 == o.1))
  let s := (ins.zip outs).foldl (fun s io => ((io.1.1.zip io.1.2).zip io.2.2.slots).foldl (fun s x =>
    let e := f16 x.1.1.1
    let k := f32i x.1.1.2
    match x.1.2.2 with
    | none => if fresh.contains x.1.1 then (s.setSlot e k x.2).slotMiss e k seq else s.setSlot e k x.2
    | some _ =>
      let s := s.completeCoeffs x.1.2.1 t
      let l := { x.2 with lastSeq := some seq, missRun := 0 }
      let s := s.setSlot e k l.countContact
      if l.hoClamped && !x.1.2.1.hoClamped then s.traceEvent e 4 else s) s) s
  match good.head? with
  | some o =>
    let g := s.loops.groupOf key
    let ended := g.handover.isNone && o.2.handover.isSome
    let s := s.setGroup key { g with output := o.2.output, selected := o.2.selected
                                     primary := if ended then g.primary else o.2.primary
                                     handover := if g.handover.isSome then o.2.handover else none
                                     clamped := o.2.clamped }
    let x := s.loops.axes[f160 g.axis]
    let sends := g.command && !x.fault
    let s := if sends then s.setAxis (f160 g.axis) { x with cmd := o.2.output } else s
    let s := if fresh.any (fun p =>
        let l := s.loops.engines[f16 p.1].slots[f32i p.2]
        l.key == key && l.member == o.2.primary) then s.advanceHandover key else s
    if bad.isEmpty then s
    else
      let s := bad.foldl (fun s o => s.engineLost (f16 o.1) false) s
      let y := s.loops.axes[f160 g.axis]
      if sends && y.fault then s.setAxis (f160 g.axis) { y with cmd := o.2.output, cmdOnce := true } else s
  | none => if outs.isEmpty then s else s.axisFault g.axis 4 true

/-- An engine issues the `n` slots of one frame, one in each LOOP cycle after those of earlier frames; its span to the selector output
has 14 cycles of the pipeline and 2 of the selector (R195). -/
def EngineSt.issue (g : EngineSt) (now n : Nat) : EngineSt :=
  let start := max now g.issueAt
  { g with issueAt := start + n, batchMax := satN 65535 (max g.batchMax (start - now + n + 15)) }

/-- The slots of one frame are issued (R195). -/
def State.spans (s : State) (slots : List (Nat × Nat)) : State :=
  foldOn (uniqNats (slots.map (·.1))) s (fun s e =>
    s.setEngine (f16 e) ((s.loops.engines[f16 e]).issue s.now (slots.filter (fun p => p.1 == e)).length))

/-- Loop-bound kernels are activated for a sample, in ascending kernel_id: those of the loops for which the node frame is in time,
whether the loops run or not (R264, R265); the words of R263 and the extra words. -/
def State.activateLoops (s : State) (n : NodeRec) (loops : List Nat) (seq : Word) (bs : List Byte) : State :=
  foldOn (List.range 64) s (fun s k =>
    let y := s.tiles.kernels[f64 k]
    match y.image, y.bind with
    | some im, some obj =>
      if idType obj = 5 ∧ loops.contains (idIndex obj) = true ∧ im.bindKind = 0 ∧ seq.toNat % (im.rate + 1) = 0 then
        let m := axisIn bs (axisOffset n (s.theCell.loopAt (idIndex obj)).axis)
        s.activate (f64 k) seq ([seq, i32 m.pos, i32 m.vel, i32 m.temp, i32 m.torque] ++ wordsAt bs im.extraOff (im.extraLen / 4))
      else s
    | _, _ => s)

/-- The slots of an axis that a node frame of cycle `seq` reaches before their cut-offs, and those of them on working engines. -/
def State.freshSlots (s : State) (a : Nat) (seq : Word) : List (Nat × Nat) :=
  (s.slotsOfAxis a).filter (fun p =>
    let l := s.loops.engines[f16 p.1].slots[f32i p.2]
    decide (l.lastSeq ≠ some seq) && decide (s.stamp ≤ s.cycleStart seq + s.cutoffOffset l.loop a))
def State.batchSlots (s : State) (a : Nat) (seq : Word) : List (Nat × Nat) :=
  (s.freshSlots a seq).filter (fun p => !s.loops.engines[f16 p.1].down)

/-- The sample has reached some slots: they do not miss it (R193). -/
def State.markSeen (s : State) (ps : List (Nat × Nat)) (seq : Word) : State :=
  ps.foldl (fun s p => s.setSlot (f16 p.1) (f32i p.2)
    { s.loops.engines[f16 p.1].slots[f32i p.2] with lastSeq := some seq }) s

/-- The probes that name a slot of an axis record their signals of the sample `seq` after its selectors (R197). -/
def State.recordProbes (s : State) (a : Nat) (seq : Word) : State :=
  foldOn (uniqNats ((s.slotsOfAxis a).map (·.1))) s (fun s e =>
    let g := s.loops.engines[f16 e]
    let seen := (g.trace.probes.toList.filter (fun w => bitAt w 31 &&
        (let l := g.slots[f32i (fld w 30 26)]; l.valid && l.axis == a))).map (fun w =>
      (w, seq, s.probeValue (f16 e) seq w, g.slots[f32i (fld w 30 26)].selected))
    s.setEngine (f16 e) { g with trace := { g.trace with
      seen := (g.trace.seen ++ seen).drop (g.trace.seen.length + seen.length - 32) } })

/-- One axis of a node frame: its loops are evaluated in time, and a frame in time ends the cause of a miss fault. -/
def State.axisBatch (s : State) (a : Nat) (m : AxisIn) (seq : Word) (sample : Nat) : State :=
  let fresh := s.freshSlots a seq
  let slots := s.batchSlots a seq
  let s := s.markSeen fresh seq
  if fresh.isEmpty then s
  else if s.loops.axes[f160 a].fault then
    let x := s.loops.axes[f160 a]
    s.setAxis (f160 a) { x with causeHolds := x.causeHolds && x.cause != 1 }
  else if s.suspended a then s
  else
    let sp := s.loops.axes[f160 a].setpoint seq s.free
    let keys := uniqNats (slots.map (fun p => s.loops.engines[f16 p.1].slots[f32i p.2].key))
    let s := (keys.foldl (fun s k => s.evalGroup k slots m sp seq sample) s).recordProbes a seq
    let s := s.setFree (s.free + 4)
    if a < 128 then
      let x := s.motion.chains[f16 (a / 8)]
      s.setChain (f16 (a / 8)) { x with contact := max x.contact (s.contactOf (a / 8)) }
    else s

/-- LOOP_BATCH (R195): the latest accepted DATA copy of a drive node feeds the loops of its axes. -/
def execLoopBatch (node : Nat) (s : State) : Host.Outcome State Fault Refusal :=
  match s.theCell.nodes[node]? with
  | none => .next s
  | some n =>
    if n.kind ≠ 0 ∨ s.cellOn = false then .next s
    else match (mget {} s.rings[f4 n.ring].nodes n.hop).data with
    | none => .next s
    | some (seq, inFault, bs) =>
      if inFault then .next s
      else
        let sample := s.cycleStart seq + s.shutterOf (f4 n.ring)
        let axes := n.axisList.take n.naxes
        let fed := axes.filter (fun a => !s.loops.axes[f160 a].fault && !s.suspended a)
        let loops := (axes.flatMap (fun a => s.freshSlots a seq)).map (fun p => s.loops.engines[f16 p.1].slots[f32i p.2].loop)
        let s := s.spans (fed.flatMap (fun a => s.batchSlots a seq))
        let s := axes.foldl (fun s a => s.axisBatch a (axisIn bs (axisOffset n a)) seq sample) s
        .next (s.activateLoops n loops seq bs)

/-- The measured values of an axis and the stamp of their shutter instant, taken when its node's DATA copy of cycle `seq` is
accepted (R161, R177). -/
def State.takeAxes (s : State) (n : NodeRec) (seq : Word) (bs : List Byte) : State :=
  if n.kind ≠ 0 then s
  else (n.axisList.take n.naxes).foldl (fun s a =>
    let m := axisIn bs (axisOffset n a)
    s.setAxis (f160 a) { s.loops.axes[f160 a] with
      pos := m.pos, vel := m.vel, temp := m.temp, torque := m.torque
      stamp := (s.cycleStart seq + s.shutterOf (f4 n.ring)) % 2 ^ 64 }) s

/-! ### Setpoints (R165, R178, R181) -/

/-- Coefficient sets whose boundary comes while the loops of a faulted axis are stopped are put in place and complete. -/
def State.coeffsWhileFaulted (s : State) (a : Nat) (t : Nat) : State :=
  if !s.loops.axes[f160 a].fault then s
  else (s.slotsOfAxis a).foldl (fun s p =>
    let l := s.loops.engines[f16 p.1].slots[f32i p.2]
    match (l.newCoeff.filter (fun c => decide (c.at_ ≤ t))).getLast? with
    | none => s
    | some c =>
      let l' := { l.setCoeff c.words with newCoeff := l.newCoeff.filter (fun c => !decide (c.at_ ≤ t)) }
      (s.setSlot (f16 p.1) (f32i p.2) { l' with i := clampI l'.i l'.omin l'.omax }).completeCoeffs l t) s

/-- The three values of an axis at a shutter instant, in slot word format; free words before the first piece. -/
def State.setpointAt (s : State) (a : Fin 160) (seq : Word) (t : Nat) : Setpoint :=
  match s.motion.bankAt a t with
  | none => ⟨seq, Config.freeWord s.free, Config.freeWord (s.free + 1), Config.freeWord (s.free + 2)⟩
  | some b =>
    let v := b.eval t
    let scale := s.loops.axes[a].scale
    let q := fun (i : Nat) => v.getD i 0
    ⟨seq, i32 (f32QuotRne (q 0) scale), i32 (satS (f32QuotRne (q 1) scale)),
     i32 (torqueUnits (b.torque (q 1) (q 2)))⟩

/-- SETPOINT_EVALUATION (R165): at S_n − 2 µs the setpoints of S_n are in the slots. -/
def execSetpointEvaluation (a : Fin 160) (s : State) : Host.Outcome State Fault Refusal :=
  match s.ringOfAxis a.val with
  | none => .next s
  | some r =>
    let t := s.stamp + 2000
    let sh := s.shutterOf r
    if s.cellOn = false ∨ t < sh ∨ (t - sh) % s.servo ≠ 0 then .next s
    else
      let sp := s.setpointAt a (w32 ((t - sh) / s.servo)) t
      let x := s.loops.axes[a]
      let tff := if s.suspended a.val then x.tff else sw sp.tff
      let s := s.setAxis a { x with setPrev := x.setCur, setCur := some sp, vff := sw sp.vff, tff := tff }
      .next ((s.setFree (s.free + 3)).coeffsWhileFaulted a.val t)

/-! ### Group 0x3_ (R76, R180, R183, R190, R200, R201) -/

/-- The loop record that an identity names, if it is placed. DESIGN CHOICE (log entry 23): a loop that placement has put on no
engine (R31) is no object that a command can name. -/
def State.loopNamed (s : State) (w : Word) : Option (Nat × LoopRec) :=
  if idType w ≠ 5 then none
  else match s.theCell.loops[idIndex w]? with
    | some l => if s.cell.placement.loops.any (fun p => p.loop == idIndex w) then some (idIndex w, l) else none
    | none => none

/-- The slots that hold the copies of a loop. -/
def State.slotsOfLoop (s : State) (loop : Nat) : List (Nat × Nat) :=
  (s.cell.placement.loops.filter (fun p => p.loop == loop)).map (fun p => (p.engine, p.slot))

/-- LOOP_COEFF_SET (R76, R180, R183): in place at the first shutter instant at least 2 µs away. -/
def execLoopCoeffSet (q : Fin 16) (tag : Fin 1024) (s : State) : Host.Outcome State Fault Refusal :=
  .next (s.startPkt q tag 0x30 (fun p t =>
    match t.loopNamed p.p0 with
    | none => t.finish p (badAt atP0)
    | some (i, l) =>
      if p.payload.length ≠ 24 then t.finish p (badAt 0 (ident 5 i))
      else
        let ws := wordsAt p.payload 0 6
        let ls := t.slotsOfLoop i
        let slotOf := fun (e : Nat × Nat) => t.loops.engines[f16 e.1].slots[f32i e.2]
        let lim := ls.any (fun e => (slotOf e).limits (t.loops.groupOf (slotOf e).key).command)
        match lowest (coeffErrors ws lim) with
        | some o => t.finish p (badAt (w32 (4 * o)) (ident 5 i))
        | none =>
          let c : NewCoeff := ⟨ws, t.loopBoundary l.axis, p.queue, p.tag⟩
          ls.foldl (fun t e =>
            let x := t.loops.engines[f16 e.1].slots[f32i e.2]
            t.setSlot (f16 e.1) (f32i e.2) { x with newCoeff := x.newCoeff ++ [c] }) t))

/-- The order-14 checks of LOOP_HANDOVER (R68, R76, R190). DESIGN CHOICE (log entry 23): a wrong member is judged before a window
that is still running. -/
def State.handoverCheck (s : State) (p : Pkt) : Option Verdict :=
  let key := p.p0.toNat
  let m := fld p.p1 1 0
  match s.theCell.groups[key]? with
  | none => some (badAt atP0)
  | some rec =>
    let g := s.loops.groupOf key
    if !g.command || s.loops.axes[f160 g.axis].fault then some (badAt atP0 (ident 6 key))
    else if fld p.p1 31 16 = 0 then some (badAt atP1 (ident 6 key))
    else if !(groupMembers rec).any (fun x => x.1 == m) || s.theCell.limitMember (groupMembers rec) (m, rec.getD m 0) ||
        g.primary == m then some (badAt atP1 (ident 6 key))
    else if g.handover.isSome then some busy
    else none

/-- LOOP_HANDOVER (R190 to R192). -/
def execLoopHandover (q : Fin 16) (tag : Fin 1024) (s : State) : Host.Outcome State Fault Refusal :=
  .next (s.startPkt q tag 0x31 (fun p t =>
    match t.handoverCheck p with
    | some v => t.finish p v
    | none =>
      let g := t.loops.groupOf p.p0.toNat
      let h : Handover := { member := fld p.p1 1 0, window := fld p.p1 31 16, k := 0, at_ := t.loopBoundary g.axis
                            rho := 0, started := false, queue := p.queue, tag := p.tag }
      t.setGroup p.p0.toNat { g with handover := some h }))

/-- A TR_PROBE word written: reserved bits read 0. -/
def probeWord (w : Word) : Word := setFld w 21 0 0

/-- PROBE_SET (R201). -/
def execProbeSet (q : Fin 16) (tag : Fin 1024) (s : State) : Host.Outcome State Fault Refusal :=
  .next (s.startPkt q tag 0x32 (fun p t =>
    let e := f16 p.p0.toNat
    let g := t.loops.engines[e]
    if fld p.p0 7 4 ≠ 0 ∨ fld p.p0 31 11 ≠ 0 then t.finish p (badAt atP0)
    else if 12 ≤ fld p.p1 25 22 then t.finish p (badAt atP1)
    else if g.trace.state ≠ .idle then t.finish p busy
    else
      let pr := g.trace.probes.set (fin 8 (by decide) (fld p.p0 10 8)) (probeWord p.p1)
      (t.setEngine e { g with trace := { g.trace with probes := pr } }).finishOk p))

/-- The 32-byte state record of a loop (R200). -/
def loopRecord (l : LoopSlot) (out : Int) : List Byte :=
  wordBytes [i32 l.e, i32 l.p, i32 l.i, i32 l.d, i32 l.u, i32 l.y, i32 out, l.sflag]

/-- LOOP_STATE_READ (R200): of copy 0. -/
def execLoopStateRead (q : Fin 16) (tag : Fin 1024) (s : State) : Host.Outcome State Fault Refusal :=
  .next (s.startPkt q tag 0x33 (fun p t =>
    match t.loopNamed p.p0 with
    | none => t.finish p (badAt atP0)
    | some (i, _) => match (t.slotsOfLoop i).head? with
      | none => t.finish p (badAt atP0)
      | some e =>
        let l := t.loops.engines[f16 e.1].slots[f32i e.2]
        t.finishOk p (i32 l.y) l.sflag (loopRecord l (t.loops.groupOf l.key).output)))

/-! ### Group 0xC_ (R198, R199) -/

/-- The bytes of a capture: header and rows. -/
def TraceSt.bytes (t : TraceSt) : List Byte :=
  leBytes 4 t.rows.length ++ leBytes 4 t.trigRow ++ leBytes 1 (fld t.trig 22 17) ++
  leBytes 1 ((numbered 0 t.probes.toList).map (fun p => 2 ^ p.1 * b2n (bitAt p.2 31))).sum ++
  leBytes 1 t.source ++ [0] ++ leBytes 4 t.gen.toNat ++
  t.rows.flatMap (fun r => leBytes 4 r.1.toNat ++ wordBytes r.2.1 ++ leBytes 4 r.2.2.toNat)

/-- TRACE_UPLOAD (R199). -/
def execTraceUpload (q : Fin 16) (tag : Fin 1024) (s : State) : Host.Outcome State Fault Refusal :=
  .next (s.startPkt q tag 0xC0 (fun p t =>
    let c := t.loops.engines[f16 p.p0.toNat].trace
    if 15 < p.p0.toNat then t.finish p (badAt atP0)
    else if c.state ≠ .held then t.finish p busy
    else
      let len := 16 + 40 * c.rows.length
      if len < p.p1.toNat then t.finish p (badAt atP1)
      else
        let bs := (c.bytes.drop p.p1.toNat).take 262144
        t.finishOk p (w32 bs.length) (w32 len) bs))

/-- TRACE_TRIGGER (R198): no effect on an engine that is not ARMED. -/
def execTraceTrigger (q : Fin 16) (tag : Fin 1024) (s : State) : Host.Outcome State Fault Refusal :=
  .next (s.startPkt q tag 0xC1 (fun p t =>
    if 65535 < p.p0.toNat then t.finish p (badAt atP0)
    else (foldOn (maskBits 16 p.p0.toNat) t (fun t e =>
      let g := t.loops.engines[f16 e]
      if g.trace.state = .armed then t.setEngine (f16 e) { g with trace := g.trace.trigger 7 t.cell.generation } else t)).finishOk p))

/-- A capture is released (R198): IDLE, or ARMED with auto_rearm. -/
def TraceSt.release (t : TraceSt) (gen : Word) : TraceSt :=
  let r := if t.state = .idle then t else { t with state := .idle, rows := [], trigRow := 0, source := 0, missed := 0 }
  if bitAt t.trig 25 then r.arm gen else r

/-- TRACE_RELEASE (R198). -/
def execTraceRelease (q : Fin 16) (tag : Fin 1024) (s : State) : Host.Outcome State Fault Refusal :=
  .next (s.startPkt q tag 0xC2 (fun p t =>
    if 15 < p.p0.toNat then t.finish p (badAt atP0)
    else
      let g := t.loops.engines[f16 p.p0.toNat]
      (t.setEngine (f16 p.p0.toNat) { g with trace := g.trace.release t.cell.generation }).finishOk p))

/-! ### Activation (R186, R194, R200) -/

/-- LP_CFG and LP_REF of a loop at reset (R200): by kind and by the axis's command kind. -/
def cfgReset (kind : Nat) (torque : Bool) : Word :=
  let ff := kind ≤ 1
  w32 (2 ^ 31 * b2n (kind == 0) + 2 ^ 30 * b2n (ff && !torque) + 2 ^ 29 * b2n (ff && torque) + 2 ^ 28 + 2 ^ 27)
def refReset (kind : Nat) : Word := if kind = 2 then 0x7FFFFFFF else if kind = 4 then 0x00780000 else 0

/-- A fresh slot for a placed loop. -/
def freshSlot (c : Cell) (p : LoopPlace) (torque : Bool) : LoopSlot :=
  let l := c.loopAt p.loop
  let member := (placeOf p.loop (c.groups.getD l.group [])).getD 0
  ({ valid := true, kind := l.kind, member := member, copy := p.copy, group := l.group, loop := p.loop, axis := l.axis
     cfg := cfgReset l.kind torque, ref := refReset l.kind, primary := member == 0 } : LoopSlot).setCoeff l.coeff

/-- The key of the group that a loop belongs to. -/
def Cell.keyOf (c : Cell) (loop : Nat) : Nat := if (c.loopAt loop).group = 0xFF then 128 + loop else (c.loopAt loop).group

/-- A loop goes on in a new cell: its record is unchanged (R29). -/
def sameLoop (old new : Cell) (loop : Nat) : Bool := decide (old.loops[loop]? = new.loops[loop]?)

/-- A group goes on in a new cell: its record is unchanged (R186). A group of one goes on with its loop. -/
def sameGroup (old new : Cell) (key : Nat) : Bool :=
  if 128 ≤ key then sameLoop old new (key - 128) else decide (old.groups[key]? = new.groups[key]?)

/-- The engines at an activation (R29, R182, R186): a loop whose record is unchanged keeps its state and its words wherever it
runs, a group whose record is unchanged keeps its primary, and everything else starts from reset. `old` is none for
CELL_LOAD. -/
def State.activateEngines (s : State) (old : Option Cell) (new : Cell) (pl : Placement) : State :=
  let before := s
  let kept := fun (loop : Nat) => old.any (fun o => sameLoop o new loop)
  let keptKey := fun (key : Nat) => old.any (fun o => sameGroup o new key)
  let gone := (List.range 16).flatMap (fun e => (before.loops.engines[f16 e].slots.toList.filter (fun l =>
    l.valid && l.copy == 0 && !(kept l.loop && pl.loops.any (fun p => p.loop == l.loop)))))
  let s := gone.foldl (fun s l => l.newCoeff.foldl (fun s c => s.finishTag c.queue c.tag ⟨stOk, 0, 0⟩) s) s
  let keys := pl.loops.map (fun p => new.keyOf p.loop)
  let s := (before.loops.groups.filter (fun g => g.2.handover.isSome && !(keptKey g.1 && keys.contains g.1))).foldl
    (fun s g => s.endHandover g.1 false) s
  let groups := pl.loops.foldl (fun (m : List (Nat × GroupSt)) p =>
    let k := new.keyOf p.loop
    let ms := if 128 ≤ k then [(0, p.loop)] else groupMembers (new.groups.getD k [])
    let fresh : GroupSt := { axis := (new.loopAt p.loop).axis, members := ms.map (·.2), command := new.commandGroup ms }
    let old := mget fresh s.loops.groups k
    let g := if keptKey k then { old with axis := fresh.axis, members := fresh.members, command := fresh.command } else fresh
    mput {} m k g) []
  let slotOf := fun (p : LoopPlace) =>
    let prev := (before.cell.placement.loops.filter (fun q => q.loop == p.loop))
    let l := match if kept p.loop then (prev.find? (fun q => q.copy == p.copy)).orElse (fun _ => prev.head?) else none with
      | some q => { before.loops.engines[f16 q.engine].slots[f32i q.slot] with
          copy := p.copy, member := (placeOf p.loop (new.groups.getD (new.loopAt p.loop).group [])).getD 0 }
      | none => freshSlot new p before.loops.axes[f160 (new.loopAt p.loop).axis].torqueCmd
    let g : GroupSt := mget {} groups (new.keyOf p.loop)
    { l with primary := g.command && l.member == g.primary }
  let cleared := foldOn (List.range 16) s.loops.engines (fun v e => vmod v (f16 e) (fun g =>
    { g with slots := Vector.replicate 32 {}, faulted := s.cell.engMask.getLsbD e && g.faulted
             masked := s.cell.engMask.getLsbD e && g.masked }))
  let engines := pl.loops.foldl (fun (v : Vector EngineSt 16) p => vmod v (f16 p.engine) (fun g =>
    { g with slots := g.slots.set (f32i p.slot) (slotOf p) })) cleared
  let axes := foldOn (List.range 160) s.loops.axes (fun v a => vmod v (f160 a) (fun x =>
    let x := if x.fault && (x.cause == 3) then { x with causeHolds := false } else x
    let x := if old.isNone then { x with setCur := none, setPrev := none } else x
    let loops := new.loops.any (fun l => l.axis == a)
    let x := if loops then x else { x with cmd := 0 }
    match new.aux[a - 128]? with
    | some r => if 128 ≤ a then { x with scale := r.scale } else x
    | none => x))
  s.setLoops { s.loops with engines := engines, groups := groups, axes := axes }

end Sys2Proof.Machine
end

