-- ==== Sys2Proof/Machine/Nibble.lean ====
section
/-! DEFINITION. The nibble plane, the logic rules, the Developer and subscriptions (12_nibble_plane_and_events.md), with
the point and event opcodes of group 0x6_ and the EVT rules R65, R66 and R79. -/

namespace Sys2Proof.Machine

/-! ### Points (R290 to R292) -/

/-- What an uncovered point reads (R291). -/
abbrev uncovered : Nib := 3

/-- A nibble of its parts. -/
def nibOf (forced fresh : Bool) (state : BitVec 2) : Nib := BitVec.ofNat 4 (8 * b2n forced + 4 * b2n fresh + state.toNat)
def nForced (n : Nib) : Bool := n.getLsbD 3
def nFresh (n : Nib) : Bool := n.getLsbD 2
def nState (n : Nib) : BitVec 2 := BitVec.ofNat 2 n.toNat

/-- The point range that covers a point, with its record index. -/
def Cell.rangeOf (c : Cell) (pt : Nat) : Option (Nat × PointRec) :=
  (numbered 0 c.points).find? (fun r => decide (r.2.first ≤ pt) && decide (pt < r.2.first + r.2.count))

/-- Ranges of a node in a direction. -/
def Cell.nodeRanges (c : Cell) (node dir : Nat) : List (Nat × PointRec) :=
  (numbered 0 c.points).filter (fun r => r.2.node == node && r.2.dir == dir)

/-- Nibble `k` of node data (R292). -/
def nibbleAt (bs : List Byte) (k : Nat) : Nat := byteAt bs (k / 2) / 16 ^ (k % 2) % 16

/-- The nibble of a point at activation (R298). -/
def PointRec.start (r : PointRec) : Nib := if r.dir = 0 then 2 else BitVec.ofNat 4 (r.fallback % 4)

/-- A back-image nibble replaced. -/
def NibbleSt.put (x : NibbleSt) (pt : Nat) (n : Nib) : NibbleSt := { x with back := mput uncovered x.back pt n }
def NibbleSt.backAt (x : NibbleSt) (pt : Nat) : Nib := mget uncovered x.back pt
def NibbleSt.frontAt (x : NibbleSt) (pt : Nat) : Nib := mget uncovered x.front pt

/-- The image of a cell at activation; ranges that `keep` holds keep their nibbles (R298). -/
def startImage (c : Cell) (keep : PointRec → Bool) (old : List (Nat × Nib)) : List (Nat × Nib) :=
  c.points.foldl (fun m r => foldOn (List.range r.count) m (fun m i =>
    mput uncovered m (r.first + i) (if keep r then mget uncovered old (r.first + i) else r.start))) []

/-- Points forced (NP_STAT). -/
def NibbleSt.forcedCount (x : NibbleSt) : Nat := (x.back.filter (fun e => nForced e.2)).length

/-- A node's points are removed (R296). -/
def NibbleSt.isRemoved (x : NibbleSt) (node : Nat) : Bool := x.removed.contains node

/-- A write to an output point by a rule or the host (R296, R299, R301): state, fresh. A forced output discards rule
results only while it is forced. -/
def NibbleSt.writeOut (x : NibbleSt) (c : Cell) (pt : Nat) (st : BitVec 2) : NibbleSt :=
  match c.rangeOf pt with
  | none => x
  | some r => if nForced (x.backAt pt) || x.isRemoved r.2.node then x else x.put pt (nibOf false true st)

/-! ### Rules (R300 to R303) -/

/-- The bit of an input test, and whether the input is invalid (R300). -/
def testBit (t : Nat) (n : Nib) : Bool × Bool :=
  let st := (nState n).toNat
  let bad := decide (2 ≤ st)
  match t with
  | 1 => (st == 1, bad)
  | 2 => (st == 0, bad)
  | 3 => (st == 1 && nFresh n, bad)
  | 4 => (nForced n, false)
  | 5 => (!nFresh n, false)
  | 6 => (st == 3, false)
  | 7 => (st == 1, false)
  | _ => (false, false)

/-- One evaluation of a rule with a way to read points: the state to write, if any (R301). -/
def Rule.eval (r : Rule) (read : Nat → Nib) : Option (BitVec 2) :=
  let bs := r.ins.map (fun i => testBit i.1 (read i.2))
  let idx := ((numbered 0 bs).map (fun e => b2n e.2.1 * 2 ^ e.1)).sum
  if bs.any (·.2) then (if r.hold then none else some r.faultOut)
  else some (if r.table.getLsbD idx then 1 else 0)

/-- A cyclic rule belongs to a phase group (R302); the output of a node that speaks every servo cycle to each. -/
def State.inGroup (s : State) (r : Rule) (g : Nat) : Bool :=
  !r.event && (match s.theCell.rangeOf r.out with
    | some p => let ph := s.phasesOf p.2.node; ph.isEmpty || ph.contains g
    | none => false)

/-- The rules of a list in order: a rule reads what a lower rule of the same pass has written (R302). -/
def NibbleSt.pass (x : NibbleSt) (c : Cell) : List Rule → List (Nat × Nib) → NibbleSt
  | [], _ => x
  | r :: rest, wrote =>
    let read := fun pt => match wrote.find? (fun w => w.1 == pt) with
      | some w => w.2
      | none => x.frontAt pt
    match r.eval read with
    | none => x.pass c rest wrote
    | some st =>
      let y := x.writeOut c r.out st
      let dropped := match c.rangeOf r.out with
        | some p => nForced (x.backAt r.out) || x.isRemoved p.2.node
        | none => true
      y.pass c rest (if dropped then wrote else (r.out, y.backAt r.out) :: wrote)

/-- RULE_PASS (R302): at T0 + 1 µs, the rules of group (m + 1) mod N. -/
def execRulePass (s : State) : Host.Outcome State Fault Refusal :=
  if !s.cellOn || !s.isReady rdNibble || !s.onGrid s.servo 1000 then .next s
  else
    let g := (s.seqNo + 1) % s.phaseCount
    let rs := s.nibble.rules.filter (fun r => s.inGroup r g)
    let x := s.nibble.pass s.theCell rs []
    .next (s.setNibble { x with passMax := satN 16383 (max x.passMax (64 + ceilDiv rs.length 8)) })

/-! ### Deliveries (R294 to R296, R307, R308) -/

/-- A deadline record bound to a range: limit in ns and miss limit; else NP_CTRL.miss_limit (R295). -/
def State.rangeDeadline (s : State) (i : Nat) : Option Nat × Nat :=
  let three := fun n => if n = 0 then 3 else n
  match s.theCell.deadlines.find? (fun d => d.object == ident 4 i) with
  | some d => (some (d.limitUs * 1000), three d.missLimit)
  | none => (none, three (fld s.nibble.ctrl 31 28))

/-- A delivery enters a range: states with fresh; a forced point keeps its state (R294, R299). -/
def NibbleSt.deliver (x : NibbleSt) (r : PointRec) (bs : List Byte) : NibbleSt :=
  foldOn (List.range r.count) x (fun x i =>
    let old := x.backAt (r.first + i)
    x.put (r.first + i) (if nForced old then nibOf true true (nState old)
      else nibOf false true (BitVec.ofNat 2 (nibbleAt bs (r.nibOff + i)))))

/-- A range misses a delivery: fresh clears, and at the limit every point goes to 0b11 (R295). -/
def NibbleSt.missRange (x : NibbleSt) (i : Nat) (r : PointRec) (limit : Nat) : NibbleSt :=
  let run := mget 0 x.runs i + 1
  let hit := decide (limit ≤ run)
  let x := foldOn (List.range r.count) x (fun x k =>
    let old := x.backAt (r.first + k)
    x.put (r.first + k) (nibOf (nForced old) false (if hit && !nForced old then 3 else nState old)))
  { x with runs := mput 0 x.runs i run
           heldFault := if hit && !x.heldFault.contains i then insertNat i x.heldFault else x.heldFault }

/-- The input ranges that a delivery enters: those of its node when it came whose records the cell still has (R298). -/
def State.entersRanges (s : State) (d : Delivery) : List (Nat × PointRec) :=
  (s.theCell.nodeRanges d.node 0).filter (fun r => d.ranges.contains r.2)

/-- A delivery comes too late for a range whose deadline record says so (R295). -/
def State.lateFor (s : State) (d : Delivery) (i : Nat) : Bool :=
  match (s.rangeDeadline i).1 with
  | some ns => decide (s.cycleStart d.seq / 1000000 * 1000000 + ns < s.stamp)
  | none => false

/-- A missed delivery counts once, whatever its ranges (R295, NP_MISS). -/
def State.countMiss (s : State) : State := s.setNibble { s.nibble with misses := satN 65535 (s.nibble.misses + 1) }

/-- One waiting delivery at a swap; late for a range's deadline it is a miss there (R295). -/
def State.swapDelivery (s : State) (d : Delivery) : State :=
  if s.nibble.isRemoved d.node then s
  else
    let rs := s.entersRanges d
    let s := if rs.any (fun r => s.lateFor d r.1) then s.countMiss else s
    rs.foldl (fun s r =>
      if s.lateFor d r.1 then s.setNibble (s.nibble.missRange r.1 r.2 (s.rangeDeadline r.1).2)
      else
        let x := s.nibble.deliver r.2 d.data
        s.setNibble { x with runs := mput 0 x.runs r.1 0, heldFault := x.heldFault.filter (· != r.1) }) s

/-- One missed delivery at a swap. -/
def State.swapMiss (s : State) (d : Delivery) : State :=
  if s.nibble.isRemoved d.node then s
  else (s.entersRanges d).foldl (fun s r =>
    s.setNibble (s.nibble.missRange r.1 r.2 (s.rangeDeadline r.1).2)) s.countMiss

/-- Every point of a removed node has state 0b11 and fresh 0 (R296). -/
def NibbleSt.clearRemoved (x : NibbleSt) (c : Cell) : NibbleSt :=
  x.removed.foldl (fun x n => (c.points.filter (fun r => r.node == n)).foldl (fun x r =>
    foldOn (List.range r.count) x (fun x i =>
      x.put (r.first + i) (nibOf (nForced (x.backAt (r.first + i))) false 3))) x) x

/-- The open event views with those of a node's input ranges: the next delivery sets them (R303, R308). -/
def State.openViews (s : State) (node : Nat) : List Nat :=
  let mine := (s.theCell.nodeRanges node 0).map (·.1)
  s.nibble.viewOpen.filter (fun i => !mine.contains i) ++ mine

/-- A node's points after NODE_READMIT (R296): outputs take the fallback state, views wait for the next delivery. -/
def State.readmitPoints (s : State) (node : Nat) : State :=
  let x := { s.nibble with removed := s.nibble.removed.filter (· != node), viewOpen := s.openViews node
                           evSeq := s.nibble.evSeq.filter (fun e => e.1 != node) }
  s.setNibble ((s.theCell.nodeRanges node 1).foldl (fun x r => foldOn (List.range r.2.count) x (fun x i =>
    x.put (r.2.first + i) (nibOf (nForced (x.backAt (r.2.first + i))) false (nState r.2.start)))) x)

/-- A node's points are removed from the next swap on (R137, R296). -/
def State.removePoints (s : State) (node : Nat) : State :=
  s.setNibble { s.nibble with removed := insertNat node (s.nibble.removed.filter (· != node)) }

/-! ### The Developer (R309 to R311) -/

/-- The order of events. -/
def Ev.before (a b : Ev) : Bool := decide (a.stamp < b.stamp) || (a.stamp == b.stamp && decide (a.point < b.point))

/-- Insert an event in key order. -/
def insertEv (a : Ev) : List Ev → List Ev
  | [] => [a]
  | b :: r => if a.before b then a :: b :: r else b :: insertEv a r

/-- An event-enabled input point. -/
def Cell.eventPoint (c : Cell) (pt : Nat) : Bool :=
  match c.rangeOf pt with
  | some r => r.2.dir == 0 && r.2.flags.testBit 0
  | none => false

/-- A rule is triggered by a point (R303). -/
def Rule.triggeredBy (r : Rule) (c : Cell) (pt : Nat) : Bool :=
  r.event && c.eventPoint pt && r.ins.any (fun i => i.2 == pt && (i.1 == 1 || i.1 == 2 || i.1 == 3 || i.1 == 7))

/-- What an event rule reads (R303). -/
def NibbleSt.eventRead (x : NibbleSt) (c : Cell) (pt : Nat) : Nib :=
  if c.eventPoint pt then
    let f := x.frontAt pt
    if nForced f then nibOf true true (nState f) else nibOf false true (mget 2 x.views pt)
  else x.frontAt pt

/-- The payload limit of an armed packet is reached by its held records, or they do not all fit (R65). -/
def armedTake (cap : Nat) : List EvRec → Nat → List EvRec
  | [], _ => []
  | e :: r, used => if used + e.bytes.length ≤ cap then e :: armedTake cap r (used + e.bytes.length) else []

/-- Armed packets of a subscription in arrival order. -/
def State.armed (s : State) (sub : Nat) : List Pkt :=
  s.host.queues[(15 : Fin 16)].inflight.filter (fun p => p.opcode == 0x61 && decide (p.phase = .started) && p.p0.toNat == sub)

/-- Complete the oldest armed packet of a subscription when its events fill it or the oldest has waited 1 ms (R65, R66). A standby
delivers nothing; the active reports to it what it has delivered (R369). -/
def State.deliverSub (s : State) (sub : Fin 16) : State :=
  let b := s.host.subs[sub]
  if s.isStandby then s
  else match s.armed sub.val, b.held with
  | p :: _, e :: _ =>
    let take := armedTake p.p1.toNat b.held 0
    let size := (take.map (fun r => r.bytes.length)).sum
    let next := ((b.held.drop take.length).head?.map (fun r => r.bytes.length)).getD ((take.getLast?.map (fun r => r.bytes.length)).getD 0)
    if decide (p.p1.toNat < size + next) || decide (e.released + 1000000 ≤ s.time.cellNs) then
      let s := s.setSub sub { b with held := b.held.drop take.length, dropped := 0 }
      let s := if s.pairActive then s.sendBenjo 6 ([5, BitVec.ofNat 8 sub.val, 0, 0] ++ leBytes 2 take.length ++ [0, 0]) else s
      s.finishN 17 p ⟨stOk, w32 take.length, w32 b.dropped⟩ (take.flatMap (·.bytes)) (decide (b.dropped ≠ 0)) []
    else s
  | _, _ => s

/-- The active has delivered the first `n` records of a subscription: the standby drops them, and the packet of the active that took
them is complete (R369). -/
def State.dropDelivered (s : State) (sub : Fin 16) (n : Nat) : State :=
  let b := s.host.subs[sub]
  let s := s.setSub sub { b with held := b.held.drop n, dropped := 0 }
  match (s.armed sub.val).filter (fun p => decide (p.origin = .partner)) with
  | p :: _ => s.finishOk p
  | [] => s

/-- A subscription selects a point (R313). -/
def SubSt.selects (b : SubSt) (pt : Nat) : Bool :=
  b.present && b.entries.any (fun e => decide (e.1 ≤ pt) && decide (pt < e.1 + e.2))

/-- The record of a released event (R314). -/
def eventRecord (e : Ev) (forced : Bool) (eseq : Nat) : List Byte :=
  leBytes 8 e.stamp ++ leBytes 4 e.point ++
    [BitVec.ofNat 8 (e.state.toNat + 4 + 8 * b2n forced), BitVec.ofNat 8 (b2n e.late + 2 * b2n e.early)] ++ leBytes 2 eseq

/-- A released event goes to every subscription that selects it (R313, R314). -/
def State.publish (s : State) (e : Ev) : State :=
  foldOn (List.range 15) s (fun s i =>
    let k := f16 (i + 1)
    let b := s.host.subs[k]
    if !b.selects e.point then s
    else
      let rec_ := eventRecord e (nForced (s.nibble.frontAt e.point)) b.eseq
      let b' := { b with eseq := (b.eseq + 1) % 65536 }
      (s.setSub k (if b.dropLate && e.late then b' else b'.hold ⟨s.time.cellNs, rec_⟩)).deliverSub k)

/-- The event rules that a released event triggers, in ascending order, then the subscriptions (R303, R309). A forced
point's event view is its forced state, and its events trigger nothing. -/
def State.release (s : State) (e : Ev) : State :=
  let c := s.theCell
  let x := s.nibble
  let forced := nForced (x.frontAt e.point)
  let x := { x with views := mput 2 x.views e.point e.state
                    lastKey := match x.lastKey with
                      | some k => if k.1 < e.stamp ∨ (k.1 = e.stamp ∧ k.2 < e.point) then some (e.stamp, e.point) else some k
                      | none => some (e.stamp, e.point)
                    devcnt := bump (bump x.devcnt 31 16 (b2n e.late)) 15 8 (b2n e.early) }
  let x := if forced then x else
    (x.rules.filter (fun r => r.triggeredBy c e.point)).foldl (fun x r => match r.eval (x.eventRead c) with
      | some st => x.writeOut c r.out st
      | none => x) x
  (s.setNibble x).publish e

/-- A full store first releases its lowest-key event early (R311). -/
def State.makeRoom (s : State) : State :=
  match s.nibble.store with
  | h :: r => if 65536 ≤ s.nibble.store.length then (s.setNibble { s.nibble with store := r }).release { h with early := true } else s
  | [] => s

/-- An event is late (R310): its key is not above that of the last released event, or equals that of a held one. -/
def NibbleSt.isLate (x : NibbleSt) (e : Ev) : Bool :=
  (match x.lastKey with
   | some k => decide (e.stamp < k.1) || (e.stamp == k.1 && decide (e.point ≤ k.2))
   | none => false) || x.store.any (fun o => o.stamp == e.stamp && o.point == e.point)

/-- An event arrives at the Developer (R310, R311). -/
def State.takeEvent (s : State) (e : Ev) : State :=
  let s := s.makeRoom
  let x := s.nibble
  if x.isLate e then s.setNibble { x with lateQ := x.lateQ ++ [{ e with late := true }] }
  else s.setNibble { x with store := insertEv e x.store }

/-- DEVELOPER_TICK (R309, R310): at each 1 µs tick every due event and every waiting late one is released. -/
def execDeveloperTick (s : State) : Host.Outcome State Fault Refusal :=
  if !s.isReady rdNibble || !s.onGrid 1000 0 then .next s
  else
    let w := s.nibble.windowIn * 10000
    let due := s.nibble.store.filter (fun e => decide (e.stamp + w ≤ s.stamp))
    let late := s.nibble.lateQ
    let s := s.setNibble { s.nibble with
      store := s.nibble.store.filter (fun e => !decide (e.stamp + w ≤ s.stamp)), lateQ := [] }
    .next ((late.foldr insertEv due).foldl (fun s e => s.release e) s)

/-- The first nibble past the input ranges of a node, in bytes rounded up to 4 (R307). -/
def Cell.eventArea (c : Cell) (node : Nat) : Nat :=
  let top := ((c.nodeRanges node 0).map (fun r => r.2.nibOff + r.2.count)).foldl max 0
  (ceilDiv top 2 + 3) / 4 * 4

/-- The event records of an input payload, oldest first (R307). -/
def Cell.eventRecords (c : Cell) (node : Nat) (bs : List Byte) : List (List Byte) :=
  if (c.nodeRanges node 0).any (fun r => r.2.flags.testBit 0) then
    let n := u16 bs (bs.length - 2)
    if c.eventArea node + 8 * n + 2 ≤ bs.length then chunks 8 n (bs.drop (bs.length - 2 - 8 * n)) else []
  else []

/-- The point of a nibble of a node's event-enabled input ranges (R308). -/
def Cell.pointOfNibble (c : Cell) (node k : Nat) : Option Nat :=
  ((c.nodeRanges node 0).find? (fun r => r.2.flags.testBit 0 && decide (r.2.nibOff ≤ k) && decide (k < r.2.nibOff + r.2.count))).map
    (fun r => r.2.first + (k - r.2.nibOff))

/-- One node event record (R308): gaps are counted and reset the node's views; the event gets its stamp. -/
def State.nodeEvent (s : State) (node : Nat) (base : Nat) (r : List Byte) : State :=
  let seq := byteAt r 7
  let x := s.nibble
  let gap := match x.evSeq.find? (fun e => e.1 == node) with
    | some e => (seq + 256 - e.2) % 256
    | none => 0
  let x := { x with evSeq := mins x.evSeq node ((seq + 1) % 256), devcnt := bump x.devcnt 7 0 gap
                    viewOpen := if gap ≠ 0 then s.openViews node else x.viewOpen }
  let s := s.setNibble x
  match s.theCell.pointOfNibble node (u16 r 4) with
  | some pt => s.takeEvent ⟨(base + 2 ^ 64 - 10 * u32 r 0) % 2 ^ 64, pt, BitVec.ofNat 2 (byteAt r 6), false, false⟩
  | none => s

/-- A delivery arrives (R294, R303, R308): it waits for its swap, the event views of its node's ranges are set where they wait, and
its events go to the Developer. The same delivery from both members of a twin is taken once (R310). -/
def State.takeDelivery (s : State) (node : Nat) (seq : Word) (bs : List Byte) : State :=
  let c := s.theCell
  let mine := c.nodeRanges node 0
  if mine.isEmpty || s.nibble.taken.contains (node, seq) then s
  else
    let s := s.setNibble { s.nibble with
      taken := (node, seq) :: s.nibble.taken.filter (fun e => e.1 != node)
      missed := s.nibble.missed.filter (fun m => !(m.node == node && m.seq == seq))
      deliveries := s.nibble.deliveries ++ [⟨node, seq, bs, mine.map (·.2)⟩] }
    let shut := ((c.nodes[node]?).map (fun n => fld s.rings[f4 n.ring].rcfg 19 0 % s.servo)).getD 0
    let s := (c.eventRecords node bs).foldl (fun s r => s.nodeEvent node (s.cycleStart seq + shut) r) s
    let open_ := mine.filter (fun r => s.nibble.viewOpen.contains r.1)
    let vs := (open_.filter (fun r => r.2.flags.testBit 0)).foldl (fun v r => foldOn (List.range r.2.count) v (fun v i =>
      mput 2 v (r.2.first + i) (BitVec.ofNat 2 (nibbleAt bs (r.2.nibOff + i))))) s.nibble.views
    s.setNibble { s.nibble with views := vs, viewOpen := s.nibble.viewOpen.filter (fun i => !open_.any (fun r => r.1 == i)) }

/-- A delivery is missed (R295). -/
def State.missDelivery (s : State) (node : Nat) (seq : Word) : State :=
  let mine := s.theCell.nodeRanges node 0
  if mine.isEmpty || s.nibble.taken.contains (node, seq) then s
  else s.setNibble { s.nibble with missed := s.nibble.missed ++ [⟨node, seq, [], mine.map (·.2)⟩] }

/-! ### The image swap (R293 to R299, R304, R312) -/

/-- A command's records apply to the back image (R299). -/
def NibbleSt.applyCmd (x : NibbleSt) (c : Cell) (m : PointCmd) : NibbleSt :=
  m.recs.foldl (fun x r =>
    let old := x.backAt r.1
    match c.rangeOf r.1 with
    | none => x
    | some p =>
      let gone := x.isRemoved p.2.node
      if m.force then
        let on := decide (r.2.2 = 1)
        x.put r.1 (nibOf on (nFresh old) (if on && !gone then r.2.1 else nState old))
      else x.writeOut c r.1 r.2.1) x

/-- The commands of one swap with the records that govern: of a point that several commands name, the one that started last
(R80). -/
def governing : List PointCmd → List PointCmd
  | [] => []
  | m :: rest => { m with recs := m.recs.filter (fun r => !(rest.any (fun o => o.recs.any (fun k => k.1 == r.1)))) } :: governing rest

/-- The commands whose records apply at this swap: all at an I/O cycle swap, fast ones at a fast sub-cycle swap (R293, R299). -/
def State.cmdDue (s : State) (m : PointCmd) : Bool := s.onGrid (if m.fast then 250000 else 1000000) 0

/-- The input block of a point-bound kernel (R263): the I/O cycle count, then the range's nibbles. -/
def NibbleSt.kernelBlock (x : NibbleSt) (r : PointRec) : List Word :=
  x.iocyc :: (List.range (ceilDiv r.count 8)).map (fun w => w32 (((List.range 8).map (fun k =>
    if 8 * w + k < r.count then (x.frontAt (r.first + 8 * w + k)).toNat * 16 ^ k else 0)).sum))

/-- Point-bound kernels whose range's delivery enters, or would have entered, at this swap (R264, R298). -/
def State.activatePoints (s : State) (entered : List Delivery) : State :=
  foldOn (List.range 64) s (fun s k =>
    let y := s.tiles.kernels[f64 k]
    match y.image, y.bind with
    | some im, some obj =>
      if idType obj ≠ 4 then s
      else match s.theCell.points[idIndex obj]? with
        | none => s
        | some r =>
          let n := s.phaseCount
          let per := if im.rate = 1 then n / 4 else n
          let ph := ((s.phasesOf r.node).head?).getD 0
          if entered.any (fun d => d.node == r.node && d.ranges.contains r && d.seq.toNat % per == ph % per) then
            s.activate (f64 k) s.nibble.iocyc (s.nibble.kernelBlock r)
          else s
    | _, _ => s)

/-- IMAGE_SWAP (R293): at each servo cycle boundary. -/
def execImageSwap (s : State) : Host.Outcome State Fault Refusal :=
  if !s.onGrid s.servo 0 then .next s
  else if !s.isReady rdNibble then .next s.traceRows
  else
    let s := s.traceRows
    let io := s.onGrid 1000000 0
    let c := s.theCell
    let table := if io then s.nibble.rulesNext else none
    let s := s.setNibble { s.nibble with
      windowIn := if io then s.nibble.window else s.nibble.windowIn
      rules := (table.map (·.1)).getD s.nibble.rules
      rulesNext := if io then none else s.nibble.rulesNext }
    let s := match table with
      | some (rs, q, tag) => s.finishTag q tag ⟨stOk, w32 rs.length, 0⟩
      | none => s
    let ds := s.nibble.deliveries
    let ms := s.nibble.missed
    let s := s.setNibble { s.nibble with deliveries := [], missed := [] }
    let s := ds.foldl State.swapDelivery s
    let s := ms.foldl State.swapMiss s
    let cmds := s.nibble.cmds.filter s.cmdDue
    let s := s.setNibble { (governing cmds).foldl (fun x m => x.applyCmd c m) s.nibble with
      cmds := s.nibble.cmds.filter (fun m => !s.cmdDue m) }
    let x := s.nibble.clearRemoved c
    let s := s.setNibble { x with front := x.back, frontWas := x.front, frontSeq := s.stamp / s.servo, iocyc := if io then w32 (s.stamp / 1000000) else x.iocyc }
    let s := cmds.foldl (fun s m => s.finishTag m.queue m.tag ⟨stOk, w32 m.recs.length, 0⟩) s
    .next (s.activatePoints (ds ++ ms))

/-- A new reorder window (R312), in its range. -/
def State.setWindow (s : State) (w : Nat) : State := s.setNibble { s.nibble with window := w }

/-- NP_DEV (R312): 2 to 200. -/
def execNpDev (window : BitVec 8) (s : State) : Host.Outcome State Fault Refusal :=
  if 2 ≤ window.toNat ∧ window.toNat ≤ 200 then .next (s.setWindow window.toNat) else .next s

/-- The plane at an activation (R298, R303, R305): ranges whose records stay keep their nibbles, miss runs and event views, and what
waits for its swap enters those; every other range starts anew, and its views wait for the next delivery. A CELL_LOAD (no `old`)
starts every point anew and clears the rule table, a table that waits for its swap with it (log entry 38); point commands that
wait go on (R80). -/
def State.activateNibbles (s : State) (old : Option Cell) (new : Cell) : State :=
  let keep := fun (r : PointRec) => old.any (fun o => o.points.contains r)
  let same := fun (n : Nat) => old.any (fun o => (o.nodes[n]?).isSome && decide (o.nodes[n]? = new.nodes[n]?))
  let x := s.nibble
  let at_ := fun (i : Nat) => ((old.bind (fun o => o.points[i]?)).bind (fun r => new.points.findIdx? (· == r)))
  let keptPoint := fun (pt : Nat) => (new.rangeOf pt).any (fun r => keep r.2)
  let started := ((numbered 0 new.points).filter (fun r => r.2.dir == 0 && !keep r.2)).map (·.1)
  let s := s.setNibble { x with
    front := startImage new keep x.front, frontWas := startImage new keep x.frontWas, back := startImage new keep x.back
    runs := x.runs.foldl (fun m e => ((at_ e.1).map (fun i => mput 0 m i e.2)).getD m) []
    heldFault := (x.heldFault.filterMap at_).foldl (fun m i => insertNat i m) []
    deliveries := if old.isSome then x.deliveries else [], missed := if old.isSome then x.missed else []
    taken := x.taken.filter (fun e => same e.1), removed := []
    rules := if old.isSome then x.rules else [], rulesNext := if old.isSome then x.rulesNext else none
    views := x.views.filter (fun e => keptPoint e.1), viewOpen := started ++ x.viewOpen.filterMap at_
    evSeq := x.evSeq.filter (fun e => same e.1) }
  match (if old.isSome then none else x.rulesNext) with
  | some (rs, q, tag) => s.finishTag q tag ⟨stOk, w32 rs.length, 0⟩
  | none => s

/-- The nodes whose points are removed after an activation: those that the rings still hold removed, until NODE_READMIT (R137,
R296). -/
def State.holdRemoved (s : State) : State :=
  s.setNibble { s.nibble with removed := ((numbered 0 s.theCell.nodes).filter (fun n =>
    decide ((mget {} s.rings[f4 n.2.ring].nodes n.2.hop).state = .removed))).map (·.1) }

/-! ### Opcodes (R79, R80, R299, R304, R313) -/

/-- The word of an event flag byte and the entries of a selection. -/
def subEntries (bs : List Byte) (n : Nat) : List (Nat × Nat) := (chunks 8 n (bs.drop 8)).map (fun r => (u32 r 0, u32 r 4))

/-- The first offending field of an EVT_SUBSCRIBE payload (R313). -/
def subscribeError (bs : List Byte) : Option Nat :=
  let n := u16 bs 0
  if bs.length < 8 ∨ n = 0 ∨ 64 < n ∨ bs.length ≠ 8 + 8 * n then some 0
  else if 1 < byteAt bs 2 then some 2
  else if !zeroed bs 3 5 then some 3
  else ((numbered 0 (subEntries bs n)).filterMap (fun e =>
    if 131071 < e.2.1 then some (8 + 8 * e.1)
    else if e.2.2 = 0 ∨ 131072 < e.2.1 + e.2.2 then some (12 + 8 * e.1) else none)).head?

/-- EVT_SUBSCRIBE (R65, R79, R313). -/
def execEvtSubscribe (q : Fin 16) (tag : Fin 1024) (s : State) : Host.Outcome State Fault Refusal :=
  .next (s.startPkt q tag 0x60 (fun p t =>
    if p.p0.toNat = 0 ∨ 15 < p.p0.toNat then t.finish p (badAt atP0)
    else match subscribeError p.payload with
      | some o => t.finish p (badAt (w32 o))
      | none =>
        let k := f16 p.p0.toNat
        if t.host.subs[k].present then t.finish p busy
        else (t.setSub k { present := true, entries := subEntries p.payload (u16 p.payload 0)
                           dropLate := (byteAt p.payload 2).testBit 0 }).finishOk p p.p0))

/-- Armed packets of one subscription complete in arrival order: an EVT_ARM starts behind the earlier ones of its subscription
(R65). -/
def State.evtArmFirst (s : State) (p : Pkt) : Bool :=
  s.host.queues[f16 p.queue].inflight.all (fun o =>
    !(o.opcode == 0x61 && o.p0 == p.p0 && decide (o.phase = .accepted) && decide (o.index < p.index)))

/-- EVT_ARM (R65, R79): it waits, started, until events complete it. -/
def execEvtArm (q : Fin 16) (tag : Fin 1024) (s : State) : Host.Outcome State Fault Refusal :=
  match s.candidatePkt q tag 0x61 with
  | none => .next s
  | some p0 =>
    if !s.evtArmFirst p0 then .next s
    else .next (s.startPkt q tag 0x61 (fun p t =>
      if p.queue ≠ 15 then t.finish p (badAt 0)
      else if 15 < p.p0.toNat ∨ t.host.subs[f16 p.p0.toNat].present = false then t.finish p (badAt atP0)
      else if p.p1.toNat < 1024 ∨ 262144 < p.p1.toNat then t.finish p (badAt atP1)
      else t.deliverSub (f16 p.p0.toNat)))

/-- EVT_CANCEL (R66): armed packets complete with ABORTED, then the subscription goes. -/
def execEvtCancel (q : Fin 16) (tag : Fin 1024) (s : State) : Host.Outcome State Fault Refusal :=
  .next (s.startPkt q tag 0x62 (fun p t =>
    let k := f16 p.p0.toNat
    if p.p0.toNat = 0 ∨ 15 < p.p0.toNat ∨ t.host.subs[k].present = false then t.finish p (badAt atP0)
    else
      let t := (t.armed k.val).foldl (fun s a => s.finish a ⟨stAborted, 0, 0⟩) t
      (t.setSub k {}).finishOk p))

/-- EVT_HOLD_EXPIRY (R65): the oldest held event has waited 1 ms. -/
def execEvtHoldExpiry (sub : Fin 16) (s : State) : Host.Outcome State Fault Refusal :=
  .next (s.onExpiry (DelayEntry.ofUser 5 sub.val) (fun s => s.deliverSub sub))

/-- Where a point record offends, in record order: a status, or none (R80, R291, R299); result word 1 names the point's range
(R68). -/
def State.pointRecBad (s : State) (force : Bool) (e : Nat × List Byte) : Option Verdict :=
  let r := e.2
  let pt := u32 r 0
  match s.theCell.rangeOf pt with
  | none => some (badAt (w32 (8 * e.1)))
  | some p =>
    let id := ident 4 p.1
    if 3 < byteAt r 4 then some (badAt (w32 (8 * e.1 + 4)) id)
    else if (if force then 1 else 0) < byteAt r 5 then some (badAt (w32 (8 * e.1 + 5)) id)
    else if !zeroed r 6 2 then some (badAt (w32 (8 * e.1 + 6)) id)
    else if p.2.flags.testBit 1 then some ⟨stRefused, 0, 0⟩
    else if !force && (p.2.dir == 0 || nForced (s.nibble.backAt pt) || s.nibble.rules.any (fun r => r.out == pt)) then
      some (badAt (w32 (8 * e.1)) id)
    else none

/-- The first of a list of verdicts. -/
def firstVerdict {α : Type} (f : α → Option Verdict) : List α → Option Verdict
  | [] => none
  | a :: r => match f a with
    | some v => some v
    | none => firstVerdict f r

/-- Every record of a command names a fast-class point (R299). -/
def Cell.allFast (c : Cell) (recs : List (List Byte)) : Bool :=
  !recs.isEmpty && recs.all (fun r => match c.rangeOf (u32 r 0) with
    | some x => x.2.cls == 1
    | none => false)

/-- POINT_FORCE and POINT_WRITE: checked at once, applied at their swap (R80, R299). -/
def State.pointCommand (s : State) (p : Pkt) (force : Bool) : State :=
  if p.payload.length ≠ 8 * p.p0.toNat then s.finish p (badAt atP0)
  else
    let recs := chunks 8 p.p0.toNat p.payload
    match firstVerdict (s.pointRecBad force) (numbered 0 recs) with
    | some v => s.finish p v
    | none =>
      s.setNibble { s.nibble with cmds := s.nibble.cmds ++ [⟨p.queue, p.tag, force, s.theCell.allFast recs,
        recs.map (fun r => (u32 r 0, BitVec.ofNat 2 (byteAt r 4), byteAt r 5))⟩] }

/-- POINT_FORCE (R80, R299). -/
def execPointForce (q : Fin 16) (tag : Fin 1024) (s : State) : Host.Outcome State Fault Refusal :=
  .next (s.startPkt q tag 0x63 (fun p t => t.pointCommand p true))

/-- POINT_WRITE (R80, R299). -/
def execPointWrite (q : Fin 16) (tag : Fin 1024) (s : State) : Host.Outcome State Fault Refusal :=
  .next (s.startPkt q tag 0x64 (fun p t => t.pointCommand p false))

/-- Nibbles packed two per byte, lower nibble first. -/
def packNibs : List Nib → List Byte
  | [] => []
  | [a] => [BitVec.ofNat 8 a.toNat]
  | a :: b :: r => BitVec.ofNat 8 (a.toNat + 16 * b.toNat) :: packNibs r

/-- POINT_READ (R293): nibbles of the front image, and its I/O cycle count. -/
def execPointRead (q : Fin 16) (tag : Fin 1024) (s : State) : Host.Outcome State Fault Refusal :=
  .next (s.startPkt q tag 0x65 (fun p t =>
    if 131071 < p.p0.toNat then t.finish p (badAt atP0)
    else if p.p1.toNat = 0 ∨ 131072 < p.p0.toNat + p.p1.toNat then t.finish p (badAt atP1)
    else t.finishOk p t.nibble.iocyc 0
      (packNibs ((List.range p.p1.toNat).map (fun i => t.nibble.frontAt (p.p0.toNat + i))))))

/-- A rule of a record (R300). -/
def ruleOf (r : List Byte) : Rule :=
  let o := wordAt r 16
  ⟨(List.range 4).map (fun k => (fld (wordAt r (4 * k)) 31 29, fld (wordAt r (4 * k)) 16 0)), bitAt o 31, bitAt o 30, fld o 16 0,
    BitVec.ofNat 16 (u16 r 20), BitVec.ofNat 2 (byteAt r 22)⟩

/-- Check 2 of R304 on one record: the offending offset in it. -/
def ruleReserved (r : List Byte) : Option Nat :=
  match (List.range 4).find? (fun k => let w := wordAt r (4 * k); fld w 28 17 != 0 || (fld w 31 29 == 0 && fld w 16 0 != 0)) with
  | some k => some (4 * k)
  | none => if fld (wordAt r 16) 29 17 ≠ 0 then some 16 else if 3 < byteAt r 22 then some 22 else if byteAt r 23 ≠ 0 then some 23 else none

/-- Checks 3 to 5 of R304: the byte offset and the point of the first failure. -/
def Cell.ruleErrors (c : Cell) (rs : List Rule) : Option (Nat × Nat) :=
  let at_ := numbered 0 rs
  let three := at_.flatMap (fun e =>
    ((numbered 0 e.2.ins).filter (fun i => i.2.1 != 0 && (c.rangeOf i.2.2).isNone)).map (fun i => (16 + 24 * e.1 + 4 * i.1, i.2.2)) ++
    (if (c.rangeOf e.2.out).isNone then [(16 + 24 * e.1 + 16, e.2.out)] else []))
  let four := at_.filterMap (fun e => match c.rangeOf e.2.out with
    | some r => if r.2.dir = 1 ∧ r.2.flags.testBit 1 = false ∧ (rs.take e.1).all (fun o => o.out != e.2.out) then none
        else some (16 + 24 * e.1 + 16, e.2.out)
    | none => none)
  let five := at_.filterMap (fun e =>
    if e.2.event && !(e.2.ins.any (fun i => e.2.triggeredBy c i.2)) then some (16 + 24 * e.1 + 16, e.2.out) else none)
  (three ++ four ++ five).head?

/-- The identity of the range that covers a point, or 0 (R68). -/
def Cell.rangeIdent (c : Cell) (pt : Nat) : Word :=
  match c.rangeOf pt with
  | some r => ident 4 r.1
  | none => 0

/-- The checks of a rule table in order (R304); result word 1 names the range of the offending point (R68). -/
def State.ruleCheck (s : State) (bs : List Byte) : Except Verdict (List Rule) :=
  let n := u32 bs 8
  if bs.take 4 ≠ [0x52, 0x55, 0x4C, 0x45] then .error (badAt 0)
  else if u16 bs 4 ≠ 0x0100 then .error (badAt 4)
  else if 65536 < n ∨ bs.length ≠ 16 + 24 * n then .error (badAt 8)
  else if crc32c (bs.drop 16) ≠ u32 bs 12 then .error ⟨stPayload, 0, 0⟩
  else if !zeroed bs 6 2 then .error (badAt 6)
  else
    let recs := chunks 24 n (bs.drop 16)
    match ((numbered 0 recs).filterMap (fun e => (ruleReserved e.2).map (fun o => 16 + 24 * e.1 + o))).head? with
    | some o => .error (badAt (w32 o))
    | none =>
      match s.cell.active with
      | none => .error (badAt 8)
      | some c => match c.ruleErrors (recs.map ruleOf) with
        | some e => .error (badAt (w32 e.1) (c.rangeIdent e.2))
        | none => .ok (recs.map ruleOf)

/-- RULE_LOAD (R10, R304): the table waits for the next I/O cycle image swap. -/
def execRuleLoad (q : Fin 16) (tag : Fin 1024) (s : State) : Host.Outcome State Fault Refusal :=
  .next (s.startPkt q tag 0x66 (fun p t => t.fragment .rule p t.nibble.rulesNext.isSome (fun bs u =>
    match u.ruleCheck bs with
    | .error v => u.finish p v
    | .ok rs => u.setNibble { u.nibble with rulesNext := some (rs, p.queue, p.tag) })))

end Sys2Proof.Machine
end

