-- ==== Sys2Proof/Machine/Solver.lean ====
section
/-! DEFINITION. The Enlarger's assembly (R202 to R208) and the coordination solver (09_coordination_solver.md): the
arithmetic of R225 and R226, the lane operations of R228 to R230, solve request, overrun, warm start, quality report,
distribution and solve misses (R162), and SOLVER_REPORT. A row of a lane operation runs the next instruction of its
problem's program. -/

namespace Sys2Proof.Machine

/-! ### Saturating binary32 (R225) -/

/-- A result and how many results were saturated so far. -/
structure Num where
  val : Word
  sat : Nat := 0
  deriving DecidableEq, Repr

/-- A result that would be infinite becomes the largest finite value with its sign. -/
def satWord (w : Word) (n : Nat) : Num :=
  if f32IsInf w then ⟨f32Pack (f32Neg? w) 0x7F7FFFFF, n + 1⟩ else ⟨w, n⟩

def nFma (a b : Word) (c : Num) : Num := satWord (f32Fma a b c.val) c.sat
def nAdd (a : Word) (c : Num) : Num := satWord (f32Add a c.val) c.sat
def nMul (a b : Word) (n : Nat) : Num := satWord (f32Mul a b) n
/-- Division by a divisor that is not zero. -/
def nDiv (a b : Word) (n : Nat) : Num := satWord (f32Div a b) n

/-- A vector and its saturations. -/
structure NumVec where
  vals : List Word
  sat  : Nat := 0
  deriving DecidableEq, Repr

/-- Map with a running saturation count. -/
def nMap {α : Type} (f : α → Nat → Num) : List α → Nat → NumVec
  | [], n => ⟨[], n⟩
  | a :: r, n =>
    let x := f a n
    let y := nMap f r x.sat
    ⟨x.val :: y.vals, y.sat⟩

/-- The pairwise tree of R226; `k` levels. -/
def pairTree : Nat → List Word → Nat → Num
  | 0, l, n => ⟨l.headD 0, n⟩
  | k + 1, l, n =>
    let a := pairTree k (l.take (2 ^ k)) n
    let b := pairTree k (l.drop (2 ^ k)) a.sat
    nAdd a.val ⟨b.val, b.sat⟩

/-! ### Vectors of a problem -/

/-- The image that a problem runs: the one whose layout and lane program its live area has (R209). -/
def State.imageOf (s : State) (p : Fin 4) : Option SchedImage :=
  if s.solver.probs[p].active then s.solver.solves[p].mem.image else none

/-- Elements of a space. -/
def SchedImage.sizeOf (g : SchedImage) (space : Nat) : Nat := if space = 1 then g.nCon else g.nVar

/-- A vector by id; 0xFF and an unwritten vector are zeros. -/
def SolveSt.vec (v : SolveSt) (g : SchedImage) (id space : Nat) : List Word :=
  if id = 0xFF then List.replicate (g.sizeOf space) 0
  else match v.mem.vecs.find? (fun e => e.1 == id) with
    | some e => e.2
    | none => List.replicate (g.sizeOf space) 0

/-- Write a vector. -/
def SolveSt.setVec (v : SolveSt) (id : Nat) (x : List Word) : SolveSt := { v with mem.vecs := mins v.mem.vecs id x }

/-- The vector id of a role. -/
def SchedImage.role (g : SchedImage) (r : Nat) : Nat := ((g.vecs.find? (fun x => x.role == r)).map (·.id)).getD 0xFF

/-- Keep the saturations of an operation. -/
def SolveSt.count (v : SolveSt) (sat : Nat) : SolveSt :=
  { v with saturated := v.saturated + sat, ovf := v.ovf || decide (0 < sat) }

/-! ### Arithmetic (R226, R228, R229) -/

/-- Replace element `i` of a list. -/
def putAt (l : List Word) (i : Nat) (w : Word) : List Word := l.set i w

/-- out[row] := entry × a[col] + out[row], with its saturation. -/
def spStep (x : NumVec) (row : Nat) (value a : Word) : NumVec :=
  let r := nFma value a ⟨x.vals.getD row 0, x.sat⟩
  ⟨putAt x.vals row r.val, r.sat⟩

/-- SPMV with P: each stored entry, and its mirror at the same position. -/
def spP (es : List (MatEntry × Word)) (neg : Bool) (a : List Word) (x : NumVec) : NumVec :=
  es.foldl (fun x e =>
    let v := if neg then f32Neg e.2 else e.2
    let x := spStep x e.1.row v (a.getD e.1.col 0)
    if e.1.row = e.1.col then x else spStep x e.1.col v (a.getD e.1.row 0)) x

/-- SPMV with A, or with Aᵀ. -/
def spA (es : List (MatEntry × Word)) (trans neg : Bool) (a : List Word) (x : NumVec) : NumVec :=
  es.foldl (fun x e =>
    let v := if neg then f32Neg e.2 else e.2
    if trans then spStep x e.1.col v (a.getD e.1.row 0) else spStep x e.1.row v (a.getD e.1.col 0)) x

/-- The entries of P and A with the values of the latest assembly. -/
def State.pVals (s : State) (p : Fin 4) (g : SchedImage) : List (MatEntry × Word) := g.pEnt.zip s.solver.solves[p].mem.pVal
def State.aVals (s : State) (p : Fin 4) (g : SchedImage) : List (MatEntry × Word) := g.aEnt.zip s.solver.solves[p].mem.aVal

/-- SV_RHO × SV_EQS, the ρᵢ of an equality (R223). -/
def SolveSt.rhoEq (v : SolveSt) : Num := nMul v.rhoIn v.eqsIn 0

/-- ρᵢ of a constraint (R223); its saturation is counted once, where the solve starts. -/
def SolveSt.rhoOf (v : SolveSt) (g : SchedImage) (i : Nat) : Word :=
  if (g.cons.getD i (0, 0, 1)).2.2 = 0 then v.rhoEq.val else v.rhoIn

/-- The s operand of AXPY for element `i` (R227). -/
def SolveSt.scalarFor (v : SolveSt) (g : SchedImage) (id space i : Nat) : Word :=
  if id = 0xFF then 0
  else if space = 1 ∧ id = 0 then v.rhoOf g i
  else if space = 1 ∧ id = 1 then (nDiv f32One (v.rhoOf g i) 0).val
  else v.scal[f16 id]

/-- Element indices that a partition owns in a space, ascending. -/
def SchedImage.elements (g : SchedImage) (space p : Nat) : List Nat :=
  if space = 1 then ((numbered 0 g.cons).filter (fun e => e.2.2.1 == p)).map (·.1)
  else ((numbered 0 g.vars).filter (fun e => e.2.2 == p)).map (·.1)

/-- DOT (R226): 64 lanes, the pairwise tree, then the partitions in ascending order. -/
def SchedImage.dot (g : SchedImage) (space : Nat) (a b : List Word) (n : Nat) : Num :=
  let part := fun (p : Nat) (n : Nat) =>
    let es := numbered 0 (g.elements space p)
    let lanes := nMap (fun j n => (es.filter (fun e => e.1 % 64 == j)).foldl
      (fun acc e => nFma (a.getD e.2 0) (b.getD e.2 0) acc) ⟨0, n⟩) (List.range 64) n
    pairTree 6 lanes.vals lanes.sat
  match g.partitions with
  | 0 => ⟨0, n⟩
  | k + 1 => (List.range k).foldl (fun acc i =>
      let x := part (i + 1) acc.sat
      nAdd acc.val ⟨x.val, x.sat⟩) (part 0 n)

/-- The floor rule (R230): the pivot and whether it was replaced. -/
def floorRule (d floor : Word) : Word × Bool :=
  if f32IsZero d then (floor, true)
  else if f32ExpF d = 0 ∨ f32Lt (f32Abs d) floor = true then (f32Pack (f32Neg? d) floor.toNat, true)
  else (d, false)

/-- Value of P at (i, j) in the upper triangle. -/
def matAt (es : List (MatEntry × Word)) (i j : Nat) : Word :=
  match es.find? (fun e => e.1.row == min i j && e.1.col == max i j) with
  | some e => e.2
  | none => 0

/-- Row `r`, column `c` of A. -/
def aAt (es : List (MatEntry × Word)) (r c : Nat) : Word :=
  match es.find? (fun e => e.1.row == r && e.1.col == c) with
  | some e => e.2
  | none => 0

/-- K at (i, j) of the whole problem (R229): P + σ·I, and the entry of Aᵀ·W·A summed over the constraint rows in ascending
index. -/
def kAt (v : SolveSt) (g : SchedImage) (pe ae : List (MatEntry × Word)) (i j n : Nat) : Num :=
  let awa : Num := (List.range g.nCon).foldl (fun acc r =>
    let x := aAt ae r i
    let y := aAt ae r j
    if f32IsZero x || f32IsZero y then acc
    else
      let u := nMul (v.rhoOf g r) x acc.sat
      nFma u.val y ⟨acc.val, u.sat⟩) ⟨0, n⟩
  let base : Num := if i = j then nAdd v.sigmaIn ⟨matAt pe i j, awa.sat⟩ else ⟨matAt pe i j, awa.sat⟩
  nAdd base.val ⟨awa.val, base.sat⟩

/-- Rows of L below the diagonal and D of a block, built column by column. -/
structure Factor where
  l       : List (List Word)
  d       : List Word
  floored : Nat
  sat     : Nat
  deriving DecidableEq, Repr

/-- L at (i, j). -/
def lAt (l : List (List Word)) (i j : Nat) : Word := (l.getD i []).getD j 0

/-- acc − Σₖ (L_ik·L_jk)·d_k, ascending k below `m`: the product in the order written, then one fused operation. -/
def subProducts (l : List (List Word)) (d : List Word) (i j m : Nat) (acc : Num) : Num :=
  (List.range m).foldl (fun acc k =>
    let u := nMul (lAt l i k) (lAt l j k) acc.sat
    nFma (f32Neg u.val) (d.getD k 0) ⟨acc.val, u.sat⟩) acc

/-- Factor one block of `n` variables from `first` (R229). -/
def factorBlock (v : SolveSt) (g : SchedImage) (pe ae : List (MatEntry × Word)) (first n : Nat) : Factor :=
  (List.range n).foldl (fun (f : Factor) j =>
    let kjj := kAt v g pe ae (first + j) (first + j) f.sat
    let dj := subProducts f.l f.d j j j kjj
    let fr := floorRule dj.val v.floorIn
    let base : Factor := { f with d := f.d ++ [fr.1], floored := f.floored + b2n fr.2, sat := dj.sat }
    (List.range (n - j - 1)).foldl (fun (f : Factor) i0 =>
      let i := j + 1 + i0
      let kij := kAt v g pe ae (first + i) (first + j) f.sat
      let num := subProducts f.l f.d i j j kij
      let q := nDiv num.val fr.1 num.sat
      { f with l := f.l.set i (f.l.getD i [] ++ [q.val]), sat := q.sat }) base)
    ⟨List.replicate n [], [], 0, 0⟩

/-- The block-Jacobi solve of one block: forward, divide, back (R229). -/
def solveBlock (l : List (List Word)) (d a : List Word) (n sat : Nat) : NumVec :=
  let fwd : NumVec := (List.range n).foldl (fun y i =>
    let r := (List.range i).foldl (fun acc k => nFma (f32Neg (lAt l i k)) (y.vals.getD k 0) acc) ⟨a.getD i 0, y.sat⟩
    ⟨y.vals ++ [r.val], r.sat⟩) ⟨[], sat⟩
  let dv : NumVec := nMap (fun i m => nDiv (fwd.vals.getD i 0) (d.getD i 0) m) (List.range n) fwd.sat
  (List.range n).foldl (fun x i0 =>
    let i := n - 1 - i0
    let r := (List.range i0).foldl (fun acc k0 =>
      let k := n - 1 - k0
      nFma (f32Neg (lAt l k i)) (x.vals.getD k 0) acc) ⟨x.vals.getD i 0, x.sat⟩
    ⟨putAt x.vals i r.val, r.sat⟩) dv

/-! ### Running a lane program -/

/-- The solver requests the problem's partitions at class 0 (R234): a free one is granted at once, a holder yields at its next
preemption point. -/
def State.requestParts (s : State) (x : ProbSt) : State := x.parts.foldl (fun s i => s.askUnit i 0) s

/-- The solver holds every partition of a problem (R234). -/
def State.granted (s : State) (x : ProbSt) : Bool := x.parts.all (fun i => s.holdsUnit i 0)

/-- A solve that has ended or is stopped releases its partitions. -/
def State.releaseParts (s : State) (x : ProbSt) : State := x.parts.foldl (fun s i => s.leaveUnit i 0) s

/-- Store a solve. PIVOT_FLOOR, SOLVE_OVF and WARM_MISMATCH are sticky in SV_STAT as soon as the solve sets them, and SV_CNT
counts the solve that sets PIVOT_FLOOR or starts cold (R245). -/
def State.noteSolve (s : State) (p : Fin 4) (v : SolveSt) : State :=
  let o := s.solver.solves[p]
  let st := 2 ^ 31 * b2n (v.pivot && !o.pivot) + 2 ^ 30 * b2n (v.ovf && !o.ovf) + 2 ^ 29 * b2n (v.mismatch && !o.mismatch)
  let v := { v with cnt := bump (bump v.cnt 31 24 (b2n (v.pivot && !o.pivot))) 15 8 (b2n (v.cold && !o.cold)) }
  s.setSolver { s.solver with stat := s.solver.stat ||| w32 st, solves := s.solver.solves.set p v }

/-- The instruction that a problem runs next: image and instruction, while the solve runs and holds its partitions. -/
def State.nextLane (s : State) (p : Fin 4) (op : Nat) : Option (SchedImage × LaneInstr) :=
  let v := s.solver.solves[p]
  if !v.running || v.halted || !s.granted s.solver.probs[p] then none
  else match s.imageOf p with
    | none => none
    | some g => match g.program[v.pc]? with
      | some i => if i.op = op then some (g, i) else none
      | none => none

/-- Run one lane instruction: `f` gives the new solve, the cost is added and the program goes on (R232). -/
def State.laneOp (s : State) (p : Fin 4) (op : Nat) (f : SchedImage → LaneInstr → SolveSt → SolveSt) : State :=
  match s.nextLane p op with
  | none => s
  | some (g, i) =>
    let v := f g i s.solver.solves[p]
    s.noteSolve p { v with cycles := v.cycles + g.cost i, pc := v.pc + 1 }

/-- The bits of an instruction's flags. -/
def LaneInstr.neg (i : LaneInstr) : Bool := i.flags.testBit 2
def LaneInstr.acc (i : LaneInstr) : Bool := i.flags.testBit 3

/-- SPMV (R226, R228). -/
def execLSpmv (p : Fin 4) (s : State) : Host.Outcome State Fault Refusal :=
  .next (s.laneOp p opSpmv (fun g i v =>
    let m := i.flags % 4
    let outS := if m = 1 then 1 else 0
    let inS := if m = 2 then 1 else 0
    let a := v.vec g i.a inS
    let start : NumVec := ⟨if i.acc then v.vec g i.dst outS else List.replicate (g.sizeOf outS) 0, 0⟩
    let r := if m = 0 then spP (s.pVals p g) i.neg a start else spA (s.aVals p g) (m == 2) i.neg a start
    (v.setVec i.dst r.vals).count r.sat))

/-- Add the old destination when an operation accumulates. -/
def accumulate (on : Bool) (dst : List Word) (r : NumVec) : NumVec :=
  if on then nMap (fun k n => nAdd (dst.getD k 0) ⟨r.vals.getD k 0, n⟩) (List.range r.vals.length) r.sat else r

/-- AXPY (R227, R228). -/
def execLAxpy (p : Fin 4) (s : State) : Host.Outcome State Fault Refusal :=
  .next (s.laneOp p opAxpy (fun g i v =>
    let sp := g.laneSpace i
    let a := v.vec g i.a sp
    let b := v.vec g i.b sp
    let r := nMap (fun k n =>
      let c := b.getD k 0
      nFma (v.scalarFor g i.s sp k) (a.getD k 0) ⟨if i.neg then f32Neg c else c, n⟩) (List.range (g.sizeOf sp)) 0
    let r := accumulate i.acc (v.vec g i.dst sp) r
    (v.setVec i.dst r.vals).count r.sat))

/-- DOT (R226, R228). Its result counts as γ for the report: outside the inner loop, or in it (R244). -/
def execLDot (p : Fin 4) (s : State) : Host.Outcome State Fault Refusal :=
  .next (s.laneOp p opDot (fun g i v =>
    let sp := g.laneSpace i
    let r := g.dot sp (v.vec g i.a sp) (v.vec g i.b sp) 0
    let inner := match v.loops with
      | l :: _ => !l.outer
      | [] => false
    let v := { v with scal := v.scal.set (f16 i.dst) r.val }
    (if inner then { v with gammaEnd := r.val } else { v with gammaPre := r.val }).count r.sat))

/-- A scalar operand; 0xFF is zero. -/
def SolveSt.scalar (v : SolveSt) (id : Nat) : Word := if id = 0xFF then 0 else v.scal[f16 id]

/-- SDIV with the zero-divisor rule (R228). -/
def execLSdiv (p : Fin 4) (s : State) : Host.Outcome State Fault Refusal :=
  .next (s.laneOp p opSdiv (fun _ i v =>
    let a := v.scalar i.a
    let b := v.scalar i.b
    let r : Num := if f32IsZero b then
        (if f32IsZero a then ⟨0, 0⟩ else ⟨f32Pack (f32Neg? a != f32Neg? b) 0x7F7FFFFF, 0⟩)
      else nDiv a b 0
    let zero := f32IsZero b && !f32IsZero a
    let v := { v with scal := v.scal.set (f16 i.dst) (if i.neg then f32Neg r.val else r.val) }
    let v := v.count r.sat
    { v with ovf := v.ovf || zero }))

/-- BSOLVE (R228, R229). -/
def execLBsolve (p : Fin 4) (s : State) : Host.Outcome State Fault Refusal :=
  .next (s.laneOp p opBsolve (fun g i v =>
    let a := v.vec g i.a 0
    let r : NumVec := (g.blocks.zip v.mem.factors).foldl (fun x e =>
      let y := solveBlock e.2.1 e.2.2 ((a.drop e.1.1).take e.1.2) e.1.2 x.sat
      ⟨x.vals ++ y.vals, y.sat⟩) ⟨[], 0⟩
    (v.setVec i.dst r.vals).count r.sat))

/-- FACTOR (R229, R230). -/
def execLFactor (p : Fin 4) (s : State) : Host.Outcome State Fault Refusal :=
  .next (s.laneOp p opFactor (fun g _ v =>
    let fs : List Factor := g.blocks.map (fun b => factorBlock v g (s.pVals p g) (s.aVals p g) b.1 b.2)
    let fl := (fs.map (fun (f : Factor) => f.floored)).sum
    let v := { v with mem.factors := fs.map (fun (f : Factor) => (f.l, f.d)), floored := v.floored + fl, pivot := v.pivot || decide (0 < fl) }
    v.count ((fs.map (fun (f : Factor) => f.sat)).sum)))

/-- PROJ of three values: the result, and whether b > c. -/
def projWord (a b c : Word) : Word × Bool := if f32Lt c b then (c, true) else (f32MinW (f32MaxW a b) c, false)

/-- PROJ over vectors, with the number of inverted elements. -/
def projVec (a b c : List Word) (n : Nat) : List Word × Nat :=
  let r := (List.range n).map (fun k => projWord (a.getD k 0) (b.getD k 0) (c.getD k 0))
  (r.map (·.1), (r.filter (·.2)).length)

/-- PROJ (R228). -/
def execLProj (p : Fin 4) (s : State) : Host.Outcome State Fault Refusal :=
  .next (s.laneOp p opProj (fun g i v =>
    let sp := g.laneSpace i
    let r := projVec (v.vec g i.a sp) (v.vec g i.b sp) (v.vec g i.c sp) (g.sizeOf sp)
    { (v.setVec i.dst r.1) with inverted := satN 65535 (v.inverted + r.2) }))

/-- COPY (R228). -/
def execLCopy (p : Fin 4) (s : State) : Host.Outcome State Fault Refusal :=
  .next (s.laneOp p opCopy (fun g i v => v.setVec i.dst (v.vec g i.a (g.laneSpace i))))

/-- OUTER (R228, R231): a count of 0 selects SV_CTRL.outer_def. -/
def execLOuter (p : Fin 4) (s : State) : Host.Outcome State Fault Refusal :=
  .next (s.laneOp p opOuter (fun _ i v =>
    let n := loopCount i.count (fld s.solver.ctrlIn 31 24)
    { v with loops := ⟨v.pc + 1, n, true⟩ :: v.loops, outerRun := n }))

/-- INNER (R228, R231). -/
def execLInner (p : Fin 4) (s : State) : Host.Outcome State Fault Refusal :=
  .next (s.laneOp p opInner (fun _ i v =>
    let n := loopCount i.count (fld s.solver.ctrlIn 23 16)
    { v with loops := ⟨v.pc + 1, n, false⟩ :: v.loops, innerRun := n, gammaStart := v.gammaPre, gammaEnd := v.gammaPre }))

/-- END of the innermost open loop: back to its body while iterations are left. -/
def execLEnd (p : Fin 4) (s : State) : Host.Outcome State Fault Refusal :=
  .next (s.laneOp p opEnd (fun _ _ v =>
    match v.loops with
    | [] => v
    | l :: r => if 1 < l.left then { v with loops := { l with left := l.left - 1 } :: r, pc := l.body - 1 }
      else { v with loops := r }))

/-- SYNC: every partition of the problem has reached it. -/
def execLSync (p : Fin 4) (s : State) : Host.Outcome State Fault Refusal := .next (s.laneOp p opSync (fun _ _ v => v))

/-- EMIT: x is frozen for distribution. -/
def execLEmit (p : Fin 4) (s : State) : Host.Outcome State Fault Refusal :=
  .next (s.laneOp p opEmit (fun g _ v => { v with emitted := v.vec g (g.role 4) 0 }))

/-! ### Reference set and pinned knot (R160, R162, R163, R171, R172) -/

/-- The knot of the reference set that serves a knot offset: one later for each late reference stage (R159). -/
def MotionSt.refKnot (m : MotionSt) (knot : Nat) : Nat := min 32 (knot + m.refShift)

/-- The position, velocity and acceleration that a track, turntable or belt may have: its range, unless that is empty, and its
dyn limits (R171). -/
def AuxRec.bound (a : AuxRec) (quantity : Nat) (w : Word) : Word :=
  let free := a.kind == 0 || (f32IsZero (a.range.getD 0 0) && f32IsZero (a.range.getD 1 0))
  if quantity = 0 then (if free then w else f32Clamp w (a.range.getD 0 0) (a.range.getD 1 0))
  else let l := a.dyn.getD (quantity - 1) 0; f32Clamp w (f32Neg l) l

/-- A stopped auxiliary axis after `t` seconds (R319): from its position and velocity it slows at its acceleration limit to zero
velocity, and stands there. Quantity 0 position, 1 velocity, 2 acceleration. -/
def stoppedAux (quantity : Nat) (limit p v t : Word) : Word :=
  let a := if f32Lt v 0 then limit else f32Neg limit
  let goes := f32Lt (f32Mul limit t) (f32Abs v)
  let u := if goes then t else f32Div (f32Abs v) limit
  match quantity with
  | 0 => f32Add p (f32Mul u (f32Add v (f32Mul (f32Mul 0x3F000000 a) u)))
  | 1 => if goes then f32Add v (f32Mul a t) else 0
  | _ => if goes then a else 0

/-- The planned profile of auxiliary axis `k` at a knot offset: quantity 0 position, 1 velocity, 2 acceleration (R171). Offset
0 is the boundary and 1 the pinned knot. An axis at its target stays there: a belt runs on at its velocity, another axis
stands. One of a stopped index is brought to zero velocity (R319). -/
def State.auxAt (s : State) (quantity k knot : Nat) : Word :=
  let m := s.motion
  let g := m.refKnot knot
  match knot, m.bankNext[f160 (128 + k)] with
  | 0, some b => b.coef.getD quantity 0
  | 0, none | 1, _ => (s.pinned (128 + k)).getD quantity 0
  | _, _ =>
    let f := fun (i : Nat) => (m.auxFrom[f32i k]).getD i 0
    let a := s.theCell.aux.getD k ⟨0, 0, [], [], 0⟩
    let stopped := m.auxStopped.contains k
    let kind := a.kind
    let target := m.auxIn[f32i k]
    let steady := f32IsZero (f 2) && (if kind = 0 then f32Eq (f 1) target else f32IsZero (f 1) && f32Eq (f 0) target)
    if stopped then a.bound quantity (stoppedAux quantity (a.dyn.getD 1 0) (f 0) (f 1) (f32Mul (f32OfInt ((g - 1 : Nat) : Int)) pieceH))
    else if steady then
      (if quantity = 0 then f32Add (f 0) (f32Mul (f 1) (f32Mul (f32OfInt ((g - 1 : Nat) : Int)) pieceH)) else f quantity)
    else a.bound quantity (Config.auxProfile m.refFree (128 + k, quantity, g) kind (a.dyn ++ a.range) [f 0, f 1, f 2] target)

/-- The auxiliary axis of a TRACK record, its p0, direction, centre and window_end (R155). -/
def trackAxis (r : List Byte) : Nat := u16 r 56 - 128
def trackP0 (r : List Byte) : Word := wordAt r 60
def trackDir (r : List Byte) : List Word := wordsAt r 64 3
def trackCentre (r : List Byte) : List Word := wordsAt r 76 3
def trackEnd (r : List Byte) : Word := wordAt r 88

/-- The moving frame of a TRACK at a knot offset in the cell frame (R172): translated by (p − p0)·d for a belt or linear track,
turned by p − p0 about d through c for a turntable. -/
def State.movingFrame (s : State) (r : List Byte) (knot : Nat) : List Word :=
  let p := f32Sub (s.auxAt 0 (trackAxis r) knot) (trackP0 r)
  let d := trackDir r
  if (s.theCell.aux.getD (trackAxis r) ⟨0, 0, [], [], 0⟩).kind = 2 then expScrew (d ++ cross3 (trackCentre r) d) p
  else axpy3 p d zero3 ++ [f32One, 0, 0, 0]

/-- The base of a chain at a knot offset, displaced by its track's planned position (R171). -/
def State.baseOf (s : State) (r : ChainRec) (knot : Nat) : List Word :=
  match (numbered 0 s.theCell.aux).find? (fun a => a.2.kind == 1 && a.2.frameChain == r.chain) with
  | none => r.base
  | some a => displace r.base (s.auxAt 0 a.1 knot)

/-- The target pose of a record in the cell frame at a knot offset (R155, R172). -/
def State.targetPose (s : State) (r : ChainRec) (seg : List Byte) (knot : Nat) : List Word :=
  if segType seg = 6 then frameMul (s.movingFrame seg knot) (segPose seg)
  else if segInBase seg then frameMul (s.baseOf r knot) (segPose seg) else segPose seg

/-! ### Chain geometry (R203) -/

/-- Jacobian columns and link frames of a chain at joint positions (R203). -/
structure Geom where
  cols  : List (List Word)
  links : List (List Word)
  deriving DecidableEq, Repr

/-- The product of exponentials of R203. -/
def geomOf (base : List Word) (js : List Joint) (qs : List Word) : Geom :=
  ((js.zip qs).foldl (fun (x : Geom × List Word) e =>
    let g := x.2
    let col := adjoint (frameMul base g) e.1.screw
    let g' := frameMul g (expScrew e.1.screw e.2)
    (⟨x.1.cols ++ [col], x.1.links ++ [frameMul (frameMul base g') e.1.link]⟩, g')) (⟨[], []⟩, frameOne)).1

/-- The tool pose of a chain with its joints at `pos` over a base frame (R155, R203). -/
def ChainRec.tool (r : ChainRec) (base pos : List Word) : List Word :=
  (geomOf base r.joints (pos.take r.axes)).links.getLastD frameOne

/-- The tool pose of a chain with its joints at `pos`, at a knot offset. -/
def State.toolAt (s : State) (r : ChainRec) (pos : List Word) (knot : Nat) : List Word := r.tool (s.baseOf r knot) pos

/-- The tool pose with the joints at `pos` at the pinned knot, in the cell frame and in the base frame. -/
def State.startPoses (s : State) (r : ChainRec) (pos : List Word) : List Word := s.toolAt r pos 1 ++ r.tool frameOne pos

/-- The words of a chain's geometry: a base frame, then screw and link frame of each joint. -/
def ChainRec.geomWords (r : ChainRec) (base : List Word) : List Word := base ++ r.joints.flatMap (fun j => j.screw ++ j.link)

/-- Joint positions lie within the joints' position limits. -/
def ChainRec.inLimits (r : ChainRec) (pos : List Word) : Bool :=
  (List.range r.axes).all (fun j =>
    let l := (r.joints.getD j ⟨[], [], []⟩).limits
    f32Le (l.getD 0 0) (pos.getD j 0) && f32Le (pos.getD j 0) (l.getD 1 0))

/-- The limits of a chain as a record scales them (R155). -/
def segLimits (r : ChainRec) (seg : List Byte) : List Word := r.scaled (segScale seg 8) (segScale seg 12) (segScale seg 16)

/-- The inverse kinematic solution of a tool pose within the joint limits, if there is one (R174). -/
def State.solveJoints (s : State) (r : ChainRec) (seg : List Byte) (start pose : List Word) (knot : Nat) : Option (List Word) :=
  (Config.inverse (r.geomWords (s.baseOf r knot)) (segLimits r seg) start pose).filter r.inLimits

/-- The joint positions at the end of a segment that began at `start`: the targets of a JOINT, else the inverse kinematic
solution of the target pose (R155); a pose without one is not reached (R174). -/
def State.segTarget (s : State) (r : ChainRec) (seg : List Byte) (start : List Word) (knot : Nat) : List Word :=
  if segType seg = 0 then wordsAt seg 24 8 else (s.solveJoints r seg start (s.targetPose r seg knot) knot).getD start

/-- The record of a planned segment. -/
def PlanSeg.seg (x : PlanSeg) : List Byte := x.run.getD x.place []

/-- The tool pose at which the record at a place of its run begins: the target of the record before it, or the pose at the start of
the run, in the frame of the segment's record (R155). -/
def State.poseBefore (s : State) (r : ChainRec) (x : PlanSeg) (place knot : Nat) : List Word :=
  if place = 0 then (if segInBase x.seg then frameMul (s.baseOf r knot) (x.origin.drop 7) else x.origin.take 7)
  else
    let o := x.run.getD (place - 1) []
    if segType o = 0 then s.toolAt r (wordsAt o 24 8) knot else s.targetPose r o knot

/-- The point on an ARC that its record gives, in the cell frame (R155). -/
def State.arcVia (s : State) (r : ChainRec) (seg : List Byte) (knot : Nat) : List Word :=
  if segInBase seg then framePoint (s.baseOf r knot) (wordsAt seg 56 3) else wordsAt seg 56 3

/-- The SPLINE records of a run around the one at a place: how many of them stand before it, and all of them (R155, R156). -/
def PlanSeg.spline (x : PlanSeg) : Nat × List (List Byte) :=
  let before := ((x.run.take x.place).reverse.takeWhile (fun o => segType o == 3 && !splineEnd o)).reverse
  let after := (x.run.drop x.place).takeWhile (fun o => segType o == 3)
  let own := after.takeWhile (fun o => !splineEnd o)
  (before.length, before ++ own ++ (after.drop own.length).take 1)

/-- A pose of the C²-continuous cubic path through the via poses of a SPLINE run (R155): the spans between them and the second
derivatives at its two ends are the planner's. -/
def State.splinePose (s : State) (r : ChainRec) (x : PlanSeg) (u : Word) (knot : Nat) : List Word :=
  let n := x.spline.1
  let recs := x.spline.2
  let first := s.poseBefore r x (x.place - n) knot
  let nodes := (recs.foldl (fun (l : List (List Word)) o =>
    let p := s.targetPose r o knot
    l ++ [p.take 3 ++ quatNear ((l.getLastD first).drop 3) (p.drop 3)]) [])
  let span := fun (i : Nat) => f32Abs (Config.splineSpan recs i)
  let at_ := fun (i : Nat) => (first :: nodes).getD i []
  let value := fun (c : Nat) =>
    let m0 := Config.splineEnd recs false c
    let ms := m0 :: splineMoments (Config.splineEnd recs true c) 0 m0 (first.getD c 0)
      ((numbered 0 nodes).map (fun e => (span e.1, e.2.getD c 0)))
    cubicAt u (span n) ((at_ n).getD c 0) ((at_ (n + 1)).getD c 0) (ms.getD n 0) (ms.getD (n + 1) 0)
  (List.range 3).map value ++ quatUnit ([3, 4, 5, 6].map value)

/-- How far along its segment a path stands at a path time, from 0 to 1, for the tool point (8), the orientation (9) or a joint. -/
def PlanSeg.along (x : PlanSeg) (limits : List Word) (i : Nat) (t : Word) : Word :=
  f32Clamp (Config.progress i (f32Sub t x.t0) limits x.joints (x.run, x.place)) 0 f32One

/-- How far a path may leave its segment: the blend radius of a segment that blends into the next one, and that of the one before
it (R155). -/
def PlanSeg.blendR (x : PlanSeg) : Word :=
  let own := if segBlend x.seg && decide (x.place + 1 < x.run.length) then wordAt x.seg 20 else 0
  let o := x.run.getD (x.place - 1) []
  if x.place ≠ 0 ∧ segBlend o = true then f32MaxW own (wordAt o 20) else own

/-- The displacement of a blending path in `n` coordinates or joints (R155). -/
def PlanSeg.shift (x : PlanSeg) (limits : List Word) (n : Nat) (t : Word) : List Word :=
  within x.blendR ((List.range n).map (fun i => Config.blendShift i (f32Sub t x.t0) limits x.joints (x.run, x.place)))

/-- The tool pose of a planned segment at a path time and a knot offset (R155): on the straight line of a LINE or an APPROACH, the
circle of an ARC, the cubic of a SPLINE. DESIGN CHOICE (log entry 67): the orientation of an ARC or an APPROACH goes as that of a
LINE, and a TRACK reaches its moving target from its start as a LINE would. -/
def State.pathPose (s : State) (r : ChainRec) (x : PlanSeg) (t : Word) (knot : Nat) : List Word :=
  let limits := segLimits r x.seg
  let u := x.along limits 8 t
  let a := s.poseBefore r x x.place knot
  let b := s.targetPose r x.seg knot
  let turned := quatArc (x.along limits 9 t) (a.drop 3) (b.drop 3)
  let pose := match segType x.seg with
    | 2 => arcPoint u a (s.arcVia r x.seg knot) b ++ turned
    | 3 => s.splinePose r x u knot
    | _ => lerp u (a.take 3) b ++ turned
  axpy3 f32One (x.shift limits 3 t) pose ++ pose.drop 3

/-- The joint positions of a planned segment at a path time and a knot offset: a JOINT's own way from its start to its target, else
the inverse kinematic solution of the pose (R155, R174). -/
def State.pathJoints (s : State) (r : ChainRec) (x : PlanSeg) (t : Word) (knot : Nat) : List Word :=
  if segType x.seg = 0 then
    let limits := segLimits r x.seg
    ((List.range 8).map (fun j => f32Fma (x.along limits j t) (f32Sub (wordAt x.seg (24 + 4 * j)) (x.joints.getD j 0))
      (x.joints.getD j 0))).zipWith f32Add (x.shift limits 8 t)
  else (s.solveJoints r x.seg x.joints (s.pathPose r x t knot) knot).getD x.joints

/-- The feed in force after `n` ticks towards the new feed (R166). -/
def feedAfter (limits : List Word) (feedTo : Nat) : Nat → Nat → Nat
  | 0, f => f
  | n + 1, f => feedAfter limits feedTo n (max (min f feedTo) (min (max f feedTo) (Config.feedStep limits f feedTo)))

/-- The reference path time at knot `k` of a chain (R162, R163): from the pinned knot on it gains feed × h in each tick, up to
the end of the path; a stop under way ends it sooner. -/
def RefPath.sigmaAt (p : RefPath) (k : Nat) : Word :=
  match p.path.getLast? with
  | none => p.sigma
  | some e =>
    let nominal := (List.range (k - 1)).foldl (fun t i => f32Add t (feedStepTime (feedAfter p.limits p.feedTo i p.feed))) p.sigma
    let t := f32MinW nominal (f32MaxW p.sigma e.t1)
    match p.stop with
    | none => t
    | some n => f32Clamp (Config.stopSigma p.free (min k (n + 1))) p.sigma t

/-- The reference path time σ of a chain at a knot offset; offset 1 is pinned. -/
def State.refSigma (s : State) (chain knot : Nat) : Word :=
  if knot = 1 then s.motion.chains[f16 chain].sigma else s.motion.refs[f16 chain].sigmaAt (s.motion.refKnot knot)

/-- The reference of joint `j` of a chain at knot `k` of its reference set: the path's own position (R155), or the pose that is kept
at its end or in a moving frame (R172); velocities and accelerations of a path are the planner's. -/
def State.refPathValue (s : State) (r : ChainRec) (p : RefPath) (quantity j k : Nat) : Word :=
  let t := p.sigmaAt k
  let knot := fun (k : Nat) => k - s.motion.refShift
  let geom := fun (k : Nat) => r.geomWords (s.baseOf r (knot k))
  let on := fun (x : PlanSeg) (k : Nat) =>
    if quantity = 0 then (s.pathJoints r x t (knot k)).getD j 0
    else Config.reference p.free (j, quantity, k) (f32Sub t x.t0, p.feed) (geom k, segLimits r x.seg) x.joints (x.run, x.place)
  let keeps := fun (seg : List Byte) (from_ : List Word) =>
    if quantity = 0 then (s.segTarget r seg from_ (knot k)).getD j 0
    else if segType seg = 6 then Config.reference p.free (j, quantity, k) (0, 0) (geom k, segLimits r seg) from_ ([seg], 0) else 0
  match p.stop with
  | some n => if n < k ∧ quantity ≠ 0 then 0
    else match p.path.find? (fun x => f32Lt t x.t1), p.path.getLast? with
      | some x, _ => on x (min k (n + 1))
      | none, some x => on x (min k (n + 1))
      | none, none => Config.reference p.free (j, quantity, min k (n + 1)) (0, 0) (geom k, p.limits) p.rest ([], 0)
  | none =>
    match p.path.find? (fun x => f32Lt t x.t1), p.path.getLast?, p.follow with
    | some x, _, _ => on x k
    | none, some x, _ => keeps x.seg x.joints
    | none, none, some f => keeps f p.rest
    | none, none, none => if quantity = 0 then p.rest.getD j 0 else 0

/-- The reference of an axis at a knot offset: quantity 0 position, 1 velocity, 2 acceleration. Offset 1 is pinned to the end of
the piece in force (R162). -/
def State.refValue (s : State) (quantity axis knot : Nat) : Word :=
  if knot = 1 then (s.pinned axis).getD quantity 0
  else match s.theCell.chainRec (axis / 8) with
    | none => 0
    | some r => s.refPathValue r s.motion.refs[f16 (axis / 8)] quantity (axis % 8) (s.motion.refKnot knot)

/-! ### Geometry of the evaluation slots (R202, R204, R205) -/

/-- The geometry of a chain at an evaluation slot (R202). -/
def State.geom (s : State) (g : SchedImage) (chain slot : Nat) : Geom :=
  match s.theCell.chainRec chain with
  | none => ⟨[], []⟩
  | some r =>
    let knot := if slot = 0 then 0 else g.evalKnots.getD (slot - 1) 0
    let q := fun (j : Nat) => if slot = 0 then s.solver.snapshot.pos.getD (8 * chain + j) 0
      else s.refValue 0 (8 * chain + j) knot
    geomOf (s.baseOf r knot) r.joints ((List.range r.axes).map q)

/-- The capsule record of a chain and index. -/
def Cell.capAt (c : Cell) (chain i : Nat) : Option CapRec :=
  c.caps.find? (fun k => k.chain == chain && k.skind == 0 && k.index == i)

/-- A capsule in the cell frame: p0, p1 and radius, seven words. -/
def capWorld (g : Geom) (k : CapRec) : List Word :=
  framePoint (g.links.getD k.link []) k.p0 ++ framePoint (g.links.getD k.link []) k.p1 ++ [k.radius]

/-- A body capsule from its integers in units of 2 mm (R350). -/
def bodyCap (xs : List Int) : List Word := xs.map (fun x => f32Div (f32OfInt x) (f32OfInt 500))

/-- Component 0 (distance) or 1 + i (gradient) of a pair at a slot (R205), and whether its closest points coincide. -/
def State.pairValue (s : State) (g : SchedImage) (x : PairRec) (slot comp : Nat) : Word × Bool :=
  let ga := s.geom g x.chainA slot
  let gb := s.geom g x.b slot
  let capA := s.theCell.capAt x.chainA x.capA
  let other : Option (List Word × Nat) := if x.pkind = 0 then
      (s.theCell.capAt x.b x.capB).map (fun k => (capWorld gb k, k.link))
    else match s.solver.snapshot.bodies.find? (fun b => b.1 == x.b) with
      | some b => (b.2[x.capB]?).map (fun c => (bodyCap c, 8))
      | none => none
  match capA, other with
  | some ka, some (wb, lb) =>
    let wa := capWorld ga ka
    let pts := closestPoints (wa.take 6) (wb.take 6)
    let ca := pts.take 3
    let cb := pts.drop 3
    let dist := pointDistance ca cb
    let near := !f32AbsGt dist 1 1000000
    let n := if near then [0, 0, f32One] else unitBetween ca cb
    let v := if comp = 0 then f32Sub (f32Sub (f32Sub dist ka.radius) (wb.getD 6 0)) x.margin
      else if comp ≤ 8 then
        (if ka.link < comp - 1 ∨ ga.cols.length ≤ comp - 1 then 0 else gradient (ga.cols.getD (comp - 1) []) ca n)
      else if x.pkind ≠ 0 ∨ lb < comp - 9 ∨ gb.cols.length ≤ comp - 9 then 0
      else f32Neg (gradient (gb.cols.getD (comp - 9) []) cb n)
    (v, near)
  | _, _ => (if comp = 0 then s.solver.far else 0, false)

/-- The value of a source word (R206). -/
def State.sourceValue (s : State) (g : SchedImage) (w : Word) : Word :=
  let lim := fun (c j k : Nat) => match s.theCell.chainRec c with
    | some r => ((r.joints.getD j ⟨[], [], []⟩).limits).getD k 0
    | none => 0
  match fld w 31 28 with
  | 0 => g.consts.getD (fld w 19 0) 0
  | 1 => ((s.geom g (fld w 27 24) (fld w 23 20)).cols.getD (fld w 15 12) []).getD (fld w 19 16) 0
  | 2 => (toolPose ((s.geom g (fld w 27 24) (fld w 23 20)).links.getLastD [])).getD (fld w 19 16) 0
  | 3 => match g.pairs[fld w 9 0]? with
    | some x => (s.pairValue g x (fld w 22 19) (fld w 27 23)).1
    | none => 0
  | 4 => if fld w 27 24 = 3 then s.refSigma (fld w 23 20) (fld w 15 10)
    else s.refValue (fld w 27 24) (8 * fld w 23 20 + fld w 19 16) (fld w 15 10)
  | 5 => lim (fld w 23 20) (fld w 19 16) (fld w 2 0)
  | 6 => match s.solver.snapshot.caps.find? (fun e => e.1 == 8 * fld w 23 20 + fld w 19 16) with
    | some e => e.2
    | none => lim (fld w 23 20) (fld w 19 16) 2
  | 7 => (if fld w 27 24 = 0 then s.solver.snapshot.pos else s.solver.snapshot.vel).getD
      (8 * fld w 23 20 + fld w 19 16) 0
  | 8 => s.solver.weights[f64 (fld w 5 0)]
  | _ => 0

/-! ### Assembly (R161, R207, R208) -/

/-- The joint speed cap of an axis (R361): s × velocity max, while s < 1. -/
def State.jointCap (s : State) (chain : Nat) (vmax : Word) : Option Word :=
  let sc := s.sep.chains[f16 chain].scale
  if 65536 ≤ sc then none else some (f32RoundDown (sc * f32Sig vmax) (f32Exp vmax - 16))

/-- First body slot of a source (R351). -/
def Cell.bodyBase (c : Cell) (src : Nat) : Nat := ((c.bodies.take src).map (·.maxBodies)).sum

/-- Words that apply from a planning tick boundary (R176, R245). -/
def State.latchPlan (s : State) : State :=
  let m := s.motion
  let v := s.solver
  let solves := foldOn (List.range 4) v.solves (fun w p => vmod w (f4 p) (fun x =>
    { x with rhoIn := x.rho, sigmaIn := x.sigma, eqsIn := x.eqs, floorIn := x.floor, rejIn := x.rej }))
  (s.setMotion { m with ctrlIn := m.ctrl, chcfgIn := m.chcfg, axffIn := m.axff, latchTick := s.tickNo }).setSolver
    { v with ctrlIn := v.ctrl, solves := solves }

/-- The words of the present planning tick are in place: those that stood at its boundary, which its first stage or a write in it
takes, whichever comes first (R176, R245). -/
def State.latchDue (s : State) : State := if s.motion.latchTick = s.tickNo then s else s.latchPlan

/-- The reference stage has not ended by B_k + 80 µs: the previous reference set serves, shifted by one knot, and
MO_STAT.fallbacks counts it (R159). -/
def State.lateStage (s : State) : State :=
  let m := s.motion
  if m.refTick = s.tickNo then s
  else s.setMotion { m with refTick := s.tickNo, refShift := m.refShift + 1, fallbacks := satN 4095 (m.fallbacks + 1) }

/-- The measurement snapshot (R161). -/
def State.takeSnapshot (s : State) : Snapshot :=
  let c := s.theCell
  { stamps := (List.range 160).map (fun a => s.loops.axes[f160 a].stamp)
    pos := (List.range 160).map s.measuredPos
    vel := (List.range 160).map s.measuredVel
    caps := c.chains.flatMap (fun r => (numbered 0 r.joints).filterMap (fun j =>
      (s.jointCap r.chain (j.2.limits.getD 2 0)).map (fun w => (8 * r.chain + j.1, w))))
    bodies := (List.range c.bodies.length).flatMap (fun i =>
      s.sep.sources[f16 i].bodies.map (fun b => (c.bodyBase i + b.index, b.caps))) }

/-- One entry: scale × source, and 1 when a live value is not finite, which is written as 0 (R206, R207). -/
def State.entryValue (s : State) (g : SchedImage) (source scale : Word) : Word × Nat :=
  let v := f32Mul scale (s.sourceValue g source)
  if fld source 31 28 = 0 then (v, 0) else if f32Finite v then (v, 0) else (0, 1)

/-- Pairs whose closest points coincide at an evaluated slot (R205). -/
def State.degenerate (s : State) (g : SchedImage) : Nat :=
  (g.pairs.map (fun x => ((maskBits 9 x.slots).filter (fun k => (s.pairValue g x k 0).2)).length)).sum

/-- Cycles of phases 1 to 3 of an assembly of the given images (R208). -/
def Cell.assemblyStart (c : Cell) (gs : List SchedImage) : Nat :=
  let slots := fun (g : SchedImage) => 1 + (g.evalKnots.filter (· != 0)).length
  let chains := gs.flatMap (fun g => (maskBits 16 g.chainMask).map (fun i => (i, slots g)))
  let cost := fun (i : Nat) => 120 * ((c.chainRec i).map (·.axes)).getD 0 +
    16 * (c.caps.filter (fun k => k.chain == i && k.skind == 0)).length
  let n := (chains.map (·.2)).sum
  let m := chains.foldl (fun m e => max m (cost e.1)) 0
  let pairs := (gs.map (fun g => (g.pairs.map (fun x => ones 9 x.slots)).sum)).sum
  2000 + ceilDiv n 4 * m + ceilDiv pairs 4 * 48

/-- Live entries of an image. -/
def SchedImage.live (g : SchedImage) : Nat := (g.sources.filter (fun w => fld w 31 28 != 0)).length

/-- What staging writes into an area for an image (R209, R220): its layout and program, the static and the PARAM entries, and
every other vector element 0. The other matrix words and the factors are what the memory held, free values from `n` on, until
an assembly or FACTOR writes them. -/
def State.stageArea (s : State) (g : SchedImage) (n : Nat) : Area :=
  let early := fun (w : Word) => decide (fld w 31 28 = 0 ∨ fld w 31 28 = 8)
  let mat := fun (k : Nat) (es : List MatEntry) => (numbered k es).map (fun e =>
    if early e.2.source then (s.entryValue g e.2.source e.2.scale).1 else Config.freeWord (n + 589824 + e.1))
  let v : SolveSt := (g.vEnt.filter (fun e => early e.source)).foldl (fun (v : SolveSt) e =>
    v.setVec e.vector (putAt (v.vec g e.vector ((g.spaceOf e.vector).getD 0)) e.index (s.entryValue g e.source e.scale).1)) {}
  { image := some g, pVal := mat 0 g.pEnt, aVal := mat g.pEnt.length g.aEnt, vecs := v.mem.vecs
    factors := (numbered 0 g.blocks).map (fun (b : Nat × Nat × Nat) =>
      ((List.range b.2.2).map (fun i => (List.range i).map (fun j => Config.freeWord (n + 72 * b.1 + 8 * i + j))),
       (List.range b.2.2).map (fun i => Config.freeWord (n + 72 * b.1 + 64 + i)))) }

/-- How far `free` moves past the values of a staged area. -/
def areaFree : Nat := 4194304

/-- Stage the problems of a list into their other areas (R220). -/
def State.stageProblems (s : State) (ps : List (Nat × Option SchedImage)) : State :=
  (ps.foldl (fun (s : State) e => match e.2 with
    | none => s
    | some g =>
      let v := s.solver.solves[f4 e.1]
      s.setSolve (f4 e.1) { v with other := s.stageArea g (s.free + areaFree * e.1), staged := true }) s).setFree (s.free + 4 * areaFree)

/-- No announced placement is staged any more. -/
def State.dropStaged (s : State) : State :=
  s.setSolver { s.solver with solves := s.solver.solves.map (fun v => { v with staged := false }) }

/-- The live area of a problem flips: what was staged comes into force, from which its solve has not started (R220). -/
def SolveSt.flip (v : SolveSt) : SolveSt := { v with running := false, mem := v.other, other := v.mem, staged := false }

/-- Assemble one problem: every live entry is written anew (R207); `late` when its last value comes after B_k + 230 µs. -/
def State.assembleOne (s : State) (p : Fin 4) (g : SchedImage) (late : Bool) : State :=
  let pv := g.pEnt.map (fun e => s.entryValue g e.source e.scale)
  let av := g.aEnt.map (fun e => s.entryValue g e.source e.scale)
  let vv := g.vEnt.map (fun e => s.entryValue g e.source e.scale)
  let bad := ((pv ++ av ++ vv).map (·.2)).sum
  let x := s.solver.probs[p]
  let v := s.solver.solves[p]
  let live := (g.vEnt.zip (vv.map (·.1))).filter (fun e => fld e.1.source 31 28 != 0)
  let vecs := live.foldl (fun (v : SolveSt) e =>
    v.setVec e.1.vector (putAt (v.vec g e.1.vector ((g.spaceOf e.1.vector).getD 0)) e.1.index e.2)) v
  let s := s.setProb p { x with complete := if late ∨ 0 < bad then none else some s.tickNo }
  let s := s.setSolve p { vecs with mem.pVal := pv.map (·.1), mem.aVal := av.map (·.1) }
  s.setSolver { s.solver with
    err := bump (bump (bump s.solver.err 31 24 bad) 23 16 (s.degenerate g)) 15 8 (b2n late) }

/-- ASSEMBLY (R161, R202 to R208): at B_k + 80 µs the snapshot is taken and every current problem assembled, in
ascending problem index; a problem is complete when phase 5 has handed it off. -/
def execAssembly (s : State) : Host.Outcome State Fault Refusal :=
  if !s.cellOn || !s.onGrid 1000000 80000 then .next s
  else
    let s := s.latchDue.lateStage
    let s := s.setSolver { s.solver with snapshot := s.takeSnapshot }
    let img := fun (p : Nat) => s.imageOf (f4 p)
    let start := s.theCell.assemblyStart ((List.range 4).filterMap img)
    let done := fun (live : Nat) => start + ceilDiv live 32 + 500
    let r := (List.range 4).foldl (fun (x : State × Nat) p => match img p with
      | none => x
      | some g => (x.1.assembleOne (f4 p) g (decide (150000 < done (x.2 + g.live))), x.2 + g.live)) (s, 0)
    let u := satN 65535 (done r.2 / 4)
    .next (r.1.setSolver { r.1.solver with asmLast := u, asmMax := max r.1.solver.asmMax u })

/-! ### Solve request, overrun, report (R227, R234, R235, R244) -/

/-- The report of a tick without a solve. -/
def emptyReport (tick flags : Nat) (family : Word) : List Byte :=
  let b := leBytes 4 tick ++ leBytes 1 flags ++ List.replicate 51 0 ++ leBytes 4 family.toNat
  b ++ leBytes 4 (crc32c b)

/-- Corrected SRAM errors in the partitions of a problem (SV_CNT.ecc, R236). -/
def State.corrected (s : State) (p : Fin 4) (n : Nat) : State :=
  let v := s.solver.solves[p]
  s.setSolve p { v with cnt := bump v.cnt 7 0 n }

/-- A problem without a solve in a tick, or whose solve is stopped: its report is marked (R236, R244), and the errors corrected while
it ran are counted, a free number (log entry 53). -/
def State.notSolved (s : State) (p : Fin 4) (flags : Nat) : State :=
  let s := if s.solver.solves[p].running && !s.solver.solves[p].halted then (s.corrected p (Config.freeNat s.free)).nextFree else s
  let v := s.solver.solves[p]
  let fam := ((s.imageOf p).map (·.family)).getD 0
  (s.setSolve p { v with running := false, halted := false, report := emptyReport s.tickNo flags fam, flags := flags
                         repTick := s.tickNo }).releaseParts s.solver.probs[p]

/-- A partition of a problem is out of the resource mask (R30, R236). -/
def State.partsDown (s : State) (x : ProbSt) : Bool :=
  (List.range x.count).any (fun i => s.cell.partMask.getLsbD (x.first + i))

/-- SOLVE_REQUEST (R227, R234): the problem's partitions are requested and granted within 2,048 cycles, and its program
starts. -/
def execSolveRequest (p : Fin 4) (s : State) : Host.Outcome State Fault Refusal :=
  if !s.cellOn || !s.onGrid 1000000 230000 then .next s
  else match s.imageOf p with
    | none => .next s
    | some g =>
      let x := s.solver.probs[p]
      if x.complete ≠ some s.tickNo ∨ x.staging = true ∨ s.partsDown x = true then .next (s.notSolved p 1)
      else
        let v := s.solver.solves[p]
        let s := s.requestParts x
        let sat := if g.cons.any (fun c => c.2.2 == 0) then v.rhoEq.sat else 0
        let v : SolveSt := { v with
          running := true, halted := false, tick := s.tickNo, pc := 0, loops := [], emitted := []
          scal := (((Vector.replicate 16 (0 : Word)).set 0 v.rhoIn).set 1 (nDiv f32One v.rhoIn 0).val |>.set 2 v.sigmaIn).set 3 f32One
          pivot := false, ovf := false, mismatch := false, cold := false, outerRun := 0, innerRun := 0
          gammaPre := 0, gammaStart := 0, gammaEnd := 0, floored := 0, saturated := 0, inverted := 0
          varMatched := 0, conMatched := 0, cycles := 200 + (if s.granted x then 0 else Config.freeNat s.free % 2049) }
        .next (((s.setSolve p v).noteSolve p (v.count sat)).nextFree)

/-- Largest magnitude of a vector. -/
def maxAbs (l : List Word) : Word := l.foldl (fun m w => f32MaxW m (f32Abs w)) 0

/-- Element-wise a + b, or a − b. -/
def addVec (a b : List Word) (sub : Bool) (n : Nat) : NumVec :=
  nMap (fun k n => nAdd (if sub then f32Neg (b.getD k 0) else b.getD k 0) ⟨a.getD k 0, n⟩) (List.range a.length) n

/-- 10⁻⁶ in binary32. -/
def f32Micro : Word := 0x358637BD

/-- The numeric part of a report: prim, dual, prim_rel, dual_rel, objective, pcg_ratio, and the results saturated on the way
(R225, R244). -/
def State.reportNumbers (s : State) (p : Fin 4) (g : SchedImage) (v : SolveSt) : NumVec :=
  let x := v.emitted
  let y := v.vec g (g.role 5) 1
  let z := v.vec g (g.role 6) 1
  let q := v.vec g (g.role 1) 0
  let ax := spA (s.aVals p g) false false x ⟨List.replicate g.nCon 0, 0⟩
  let px := spP (s.pVals p g) false x ⟨List.replicate g.nVar 0, ax.sat⟩
  let aty := spA (s.aVals p g) true false y ⟨List.replicate g.nVar 0, px.sat⟩
  let rp := addVec ax.vals z true aty.sat
  let pq := addVec px.vals q false rp.sat
  let rd := addVec pq.vals aty.vals false pq.sat
  let prim := maxAbs rp.vals
  let dual := maxAbs rd.vals
  let pr := nDiv prim (f32MaxW (f32MaxW (maxAbs ax.vals) (maxAbs z)) f32Micro) rd.sat
  let dr := nDiv dual (f32MaxW (f32MaxW (f32MaxW (maxAbs px.vals) (maxAbs aty.vals)) (maxAbs q)) f32Micro) pr.sat
  let qx := g.dot 0 q x dr.sat
  let xpx := g.dot 0 x px.vals qx.sat
  let obj := nFma 0x3F000000 xpx.val ⟨qx.val, xpx.sat⟩
  let ratio : Num := if f32IsZero v.gammaStart then ⟨0, obj.sat⟩ else nDiv v.gammaEnd v.gammaStart obj.sat
  ⟨[prim, dual, pr.val, dr.val, obj.val, ratio.val], ratio.sat⟩

/-- Report flags: PIVOT_FLOOR, SOLVE_OVF, WARM_MISMATCH, cold. -/
def SolveSt.flagByte (v : SolveSt) : Nat :=
  128 * b2n v.pivot + 64 * b2n v.ovf + 32 * b2n v.mismatch + 4 * b2n v.cold

/-- A report's bytes with its flags and clamped count (R244). -/
def reportBytes (v : SolveSt) (nums : List Word) (flags clamped : Nat) (family : Word) : List Byte :=
  let b := leBytes 4 v.tick ++ leBytes 1 flags ++ leBytes 1 (satN 255 v.outerRun) ++ leBytes 1 (satN 255 v.innerRun) ++ [0] ++
    wordBytes nums ++ leBytes 4 (satN 0xFFFFFFFF v.floored) ++ leBytes 4 (satN 0xFFFFFFFF v.saturated) ++
    leBytes 4 clamped ++ leBytes 2 v.inverted ++ leBytes 2 (satN 65535 v.varMatched) ++
    leBytes 2 (satN 65535 v.conMatched) ++ [0, 0] ++ leBytes 4 v.cycles ++ leBytes 4 family.toNat
  b ++ leBytes 4 (crc32c b)

/-- HALT (R228, R232, R236, R244): the report is written, and the problem's solve is done and releases its partitions;
`corrected` SRAM errors were corrected in them while it ran. -/
def execLHalt (p : Fin 4) (corrected : Nat) (s : State) : Host.Outcome State Fault Refusal :=
  match s.nextLane p opHalt with
  | none => .next s
  | some (g, i) =>
    let v := s.solver.solves[p]
    let nums := s.reportNumbers p g v
    let v := { v.count nums.sat with cycles := v.cycles + g.cost i + g.reportCost, halted := true }
    let v := { v with
      report := reportBytes v nums.vals v.flagByte 0 g.family, flags := v.flagByte, repTick := v.tick
      cycLast := v.cycles, cycMax := max v.cycMax v.cycles }
    .next (((s.noteSolve p v).corrected p corrected).releaseParts s.solver.probs[p])

/-- A solve that has not written its report by B_k + 930 µs is stopped (R235). -/
def State.overrun (s : State) (p : Fin 4) : State :=
  let v := s.solver.solves[p]
  if !v.running || v.halted then s
  else
    let s := s.notSolved p 9
    s.setSolver { s.solver with stat := s.solver.stat ||| w32 (2 ^ 27) }

/-- SOLVE_OVERRUN (R235). -/
def execSolveOverrun (p : Fin 4) (s : State) : Host.Outcome State Fault Refusal :=
  if decide (s.stamp % 1000000 < 930000) then .next s else .next (s.overrun p)

/-! ### Warm start (R237 to R240) -/

/-- A tag with its knot moved by `d`; none past knot 32. -/
def tagShift (t : Word) (d : Nat) : Option Word :=
  let o := fld t 19 14
  if o = 0 then some t else if 32 < o + d then none else some (setFld t 19 14 (o + d))

/-- The copy's value for a tag. -/
def warmValue (m : List (Word × Word)) (t : Word) (d : Nat) : Option Word :=
  match tagShift t d with
  | some u => (m.find? (fun e => e.1 == u)).map (·.2)
  | none => none

/-- The value of an unmatched variable (R238). DEDUCED: one whose tag names no joint or no knot, for which the reference set has
no value, is among the others. -/
def State.coldValue (s : State) (t : Word) : Word :=
  let kind := fld t 31 28
  if fld t 19 14 = 0 ∨ (kind ≤ 2 ∧ 8 ≤ fld t 23 20) then 0
  else if kind ≤ 2 then s.refValue kind (8 * fld t 27 24 + fld t 23 20) (fld t 19 14)
  else if kind = 4 then s.refSigma (fld t 27 24) (fld t 19 14) else 0

/-- WARM (R228, R237 to R239): x and y from the copy, then z := PROJ(A·x, l, u). -/
def execLWarm (p : Fin 4) (s : State) : Host.Outcome State Fault Refusal :=
  .next (s.laneOp p opWarm (fun g _ v =>
    let copy := match v.warm with
      | some c => if c.family = g.family then some c else none
      | none => none
    let d := v.tick - ((copy.map (·.tick)).getD v.tick)
    let vx : List (Word × Option Word) := g.vars.map (fun e => (e.1, copy.bind (fun c => warmValue c.x e.1 d)))
    let vy : List (Option Word) := g.cons.map (fun e => copy.bind (fun c => warmValue c.y e.1 d))
    let x := vx.map (fun e => e.2.getD (s.coldValue e.1))
    let y := vy.map (fun e => e.getD 0)
    let ax := spA (s.aVals p g) false false x ⟨List.replicate g.nCon 0, 0⟩
    let z := projVec ax.vals (v.vec g (g.role 2) 1) (v.vec g (g.role 3) 1) g.nCon
    let v := (v.setVec (g.role 4) x).setVec (g.role 5) y
    let v := if g.role 6 = 0xFF then v else v.setVec (g.role 6) z.1
    let v := { v with
      cold := copy.isNone, mismatch := v.warm.isSome && copy.isNone
      varMatched := (vx.filter (fun (e : Word × Option Word) => e.2.isSome)).length
      conMatched := (vy.filter (fun (e : Option Word) => e.isSome)).length
      inverted := satN 65535 (v.inverted + z.2) }
    v.count ax.sat))

/-! ### Distribution (R162, R241 to R243) -/

/-- The solved value of a joint at a knot, or the reference (R242). -/
def State.solved (s : State) (g : SchedImage) (x : List Word) (kind chain joint knot : Nat) : Word :=
  match (g.vars.zip x).find? (fun e => fld e.1.1 31 28 == kind && fld e.1.1 27 24 == chain &&
      (kind == 4 || fld e.1.1 23 20 == joint) && fld e.1.1 19 14 == knot) with
  | some e => e.2
  | none => if kind = 4 then s.refSigma chain knot else s.refValue kind (8 * chain + joint) knot

/-- A value clamped, and 1 when that changed it. -/
def clampCount (x lo hi : Word) : Word × Nat := let y := f32Clamp x lo hi; (y, if f32Eq x y then 0 else 1)

/-- The projected q, v, a of a joint at a knot, and the values clamped (R242). -/
def State.projectJoint (s : State) (g : SchedImage) (x : List Word) (r : ChainRec) (j knot : Nat) : List Word × Nat :=
  let lim := (r.joints.getD j ⟨[], [], []⟩).limits
  let vm := match s.solver.snapshot.caps.find? (fun e => e.1 == 8 * r.chain + j) with
    | some e => f32MinW (lim.getD 2 0) e.2
    | none => lim.getD 2 0
  let am := lim.getD 3 0
  let q := clampCount (s.solved g x 0 r.chain j knot) (lim.getD 0 0) (lim.getD 1 0)
  let v := clampCount (s.solved g x 1 r.chain j knot) (f32Neg vm) vm
  let a := clampCount (s.solved g x 2 r.chain j knot) (f32Neg am) am
  ([q.1, v.1, a.1], q.2 + v.2 + a.2)

/-- σ of a chain at knot offsets 2 to 32, each within the feed of the one before, and the values clamped (R242). -/
def State.projectSigma (s : State) (g : SchedImage) (x : List Word) (chain : Nat) : List (Nat × Nat × Word) × Nat :=
  let m := s.motion.chains[f16 chain]
  let step := feedStepTime m.feed
  let r := (List.range 31).foldl (fun (acc : List (Nat × Nat × Word) × Nat × Word) i =>
    let k := i + 2
    let c := clampCount (s.solved g x 4 chain 15 k) acc.2.2 (f32Add acc.2.2 step)
    (acc.1 ++ [(chain, k, c.1)], acc.2.1 + c.2, c.1)) ([], 0, m.sigma)
  (r.1, r.2.1)

/-- The next bank of an axis from its values at two knots: the piece for [B_{k+1}, B_{k+2}] (R164, R243). -/
def State.newBank (s : State) (axis : Nat) (k0 k1 : List Word) : State :=
  let a := f160 axis
  let q := fun (l : List Word) (i : Nat) => l.getD i 0
  let coef := [q k0 0, q k0 1, q k0 2] ++ quintic k0 k1
  s.setMotion { s.motion with
    bankCur := s.motion.bankCur.set a s.motion.bankNext[a]
    bankNext := s.motion.bankNext.set a (some ⟨(s.tickNo + 1) * 1000000, coef, s.motion.axffIn[a]⟩) }

/-- The values of the last distributed solution of an axis at a knot offset from the present tick; offsets past its
horizon take its last knot. -/
def ProbMotion.at (m : ProbMotion) (axis tick ofs : Nat) : Option (List Word) :=
  let o := min 32 (tick + ofs - m.solTick)
  (m.sol.find? (fun e => e.1 == axis && e.2.1 == o)).map (fun e => e.2.2)

/-- A solve miss (R162): the pieces come from the last distributed solution, and at the miss limit every chain of the
problem enters PROTECT and takes its protective stop. -/
def State.solveMiss (s : State) (p : Fin 4) (g : SchedImage) : State :=
  let m := s.motion.probs[p]
  let n := m.misses + 1
  let s := s.setMotion { s.motion with
    probs := s.motion.probs.set p { m with misses := n }, fallbacks := satN 4095 (s.motion.fallbacks + 1) }
  let chains := (s.theCell.chains.filter (fun r => g.chainMask.testBit r.chain))
  let s := chains.foldl (fun s r =>
    let s := (List.range r.axes).foldl (fun s j =>
      match m.at (8 * r.chain + j) s.tickNo 1, m.at (8 * r.chain + j) s.tickNo 2 with
      | some k0, some k1 => s.newBank (8 * r.chain + j) k0 k1
      | _, _ => s) s
    match m.sigma.find? (fun e => e.1 == r.chain && e.2.1 == min 32 (s.tickNo + 2 - m.solTick)) with
    | some e => s.setChain (f16 r.chain) { s.motion.chains[f16 r.chain] with sigma := e.2.2 }
    | none => s) s
  let lim := fld s.motion.ctrlIn 31 28
  if n = (if lim = 0 then 3 else lim) then
    chains.foldl (fun s r => (s.protect (f16 r.chain) .solveMiss).motionStop34 (f16 r.chain)) s
  else s

/-- A solve is rejected (R241). -/
def SolveSt.rejects (v : SolveSt) : Bool :=
  v.ovf || (!f32IsZero v.rejIn && f32Lt v.rejIn (f32MaxW (wordAt v.report 16) (wordAt v.report 20)))

/-- Rewrite flags and clamped count of a report, with its CRC (R244). -/
def reportWith (b : List Byte) (flags clamped : Nat) : List Byte :=
  let c := b.take 4 ++ leBytes 1 flags ++ slice b 5 35 ++ leBytes 4 clamped ++ slice b 44 16
  c ++ leBytes 4 (crc32c c)

/-- An accepted solution is projected and distributed (R242, R243). -/
def State.distribute (s : State) (p : Fin 4) (g : SchedImage) : State :=
  let v := s.solver.solves[p]
  let chains := s.theCell.chains.filter (fun r => g.chainMask.testBit r.chain)
  let joints := chains.flatMap (fun r => (List.range r.axes).flatMap (fun j => (List.range 31).map (fun i =>
    (8 * r.chain + j, i + 2, s.projectJoint g v.emitted r j (i + 2)))))
  let sig := chains.map (fun r => s.projectSigma g v.emitted r.chain)
  let clamped := (joints.map (fun e => e.2.2.2)).sum + (sig.map (·.2)).sum
  let flags := v.flagByte + 2 * b2n (decide (0 < clamped))
  let pinned := chains.flatMap (fun r => (List.range r.axes).map (fun j =>
    let a := 8 * r.chain + j
    (a, 1, [s.refValue 0 a 1, s.refValue 1 a 1, s.refValue 2 a 1])))
  let sol := joints.map (fun e => (e.1, e.2.1, e.2.2.1))
  let v' := { v with
    running := false, report := reportWith v.report flags clamped, flags := flags
    warm := some ⟨g.family, v.tick, (g.vars.map (·.1)).zip v.emitted,
      (g.cons.map (fun c => c.1)).zip (v.vec g (g.role 5) 1)⟩ }
  let s := s.setSolve p v'
  let s := pinned.foldl (fun s e => match sol.find? (fun o => o.1 == e.1 && o.2.1 == 2) with
    | some o => s.newBank e.1 e.2.2 o.2.2
    | none => s) s
  let sigma := sig.flatMap (·.1)
  let s := chains.foldl (fun s r => match sigma.find? (fun e => e.1 == r.chain && e.2.1 == 2) with
    | some e => s.setChain (f16 r.chain) { s.motion.chains[f16 r.chain] with sigma := e.2.2 }
    | none => s) s
  s.setMotion { s.motion with probs := s.motion.probs.set p ⟨0, s.tickNo, pinned ++ sol, sigma⟩ }

/-- A distribution that can still turn into a miss: what it replaces is kept (R375). -/
def State.distributeKept (s : State) (p : Fin 4) (g : SchedImage) : State :=
  let chains := s.theCell.chains.filter (fun r => g.chainMask.testBit r.chain)
  let axes := chains.flatMap (fun r => (List.range r.axes).map (fun j => 8 * r.chain + j))
  let kept : Replaced := ⟨s.tickNo, s.motion.probs[p],
    axes.map (fun a => (a, s.motion.bankCur[f160 a], s.motion.bankNext[f160 a])),
    chains.map (fun r => (r.chain, s.motion.chains[f16 r.chain].sigma))⟩
  let s := s.distribute p g
  s.setSolve p { s.solver.solves[p] with replaced := some kept }

/-- The partner's SOLVE value of the present tick differs: the distribution is taken back, and the tick is a solve miss (R375). -/
def State.takeBack (s : State) (p : Fin 4) : State :=
  match s.solver.solves[p].replaced, s.imageOf p with
  | some k, some g =>
    if k.tick ≠ s.tickNo then s
    else
      let s := s.setSolve p { s.solver.solves[p] with replaced := none }
      let m := s.motion
      let s := s.setMotion { m with
        probs := m.probs.set p k.prob
        bankCur := k.banks.foldl (fun v e => v.set (f160 e.1) e.2.1) m.bankCur
        bankNext := k.banks.foldl (fun v e => v.set (f160 e.1) e.2.2) m.bankNext }
      let s := k.sigmas.foldl (fun s e => s.setChain (f16 e.1) { s.motion.chains[f16 e.1] with sigma := e.2 }) s
      s.solveMiss p g
  | _, _ => s

/-- A SOLVE frame: the CRC-32C of the words that a problem's solve emitted, of none where it emitted none (R374). -/
def State.sendSolve (s : State) (key : Nat) (x : List Word) : State :=
  let d := w32 (crc32c (wordBytes x))
  let s := s.sendBenjo 4 ([BitVec.ofNat 8 (key % 4), 0, 0, 0] ++ leBytes 4 (key / 4) ++ leBytes 4 d.toNat)
  s.setTwin { s.twin with ownSolves := remember s.twin.ownSolves key d }

/-- What distribution does with one problem (R162, R241). In a pair the CRC-32C of the emitted x goes to the partner before
the coefficient bank writes, and a partner's value that differs makes the tick a solve miss (R374, R375). -/
def State.settleSolve (s : State) (p : Fin 4) : State :=
  match s.imageOf p with
  | none => s
  | some g =>
    let v := s.solver.solves[p]
    let done := v.running && v.halted && decide (v.tick = s.tickNo)
    let comparing := s.comparing
    let key := p.val + 4 * s.tickNo
    let s := if comparing then s.sendSolve key (if done then v.emitted else []) else s
    let odd := comparing && differAt s.twin.ownSolves s.twin.peerSolve key
    let s := if done && v.rejects then
        let v' := { v with running := false, report := reportWith v.report (v.flagByte + 16) 0, flags := v.flagByte + 16
                           cnt := bump v.cnt 23 16 1 }
        let s := s.setSolve p v'
        (s.setSolver { s.solver with stat := s.solver.stat ||| w32 (2 ^ 28) }).solveMiss p g
      else if done then
        (if odd then s.solveMiss p g else if comparing then s.distributeKept p g else s.distribute p g)
      else
        (if v.repTick = s.tickNo ∧ v.report ≠ [] then s else s.notSolved p 1).solveMiss p g
    if odd then s.diverge else s

/-- The report of the tick becomes the record of the latest completed tick (R244). -/
def State.keepRecord (s : State) (p : Fin 4) : State :=
  let v := s.solver.solves[p]
  s.setSolve p { v with record := v.report, recTick := v.repTick }

/-- Distribution of one problem, and its record (R243, R244). -/
def State.settle (s : State) (p : Fin 4) : State :=
  if (s.imageOf p).isSome then (s.settleSolve p).keepRecord p else s

/-- The pieces of the auxiliary axes from their planned profiles (R171, R243). -/
def State.auxBanks (s : State) : State :=
  foldOn (List.range s.theCell.aux.length) s (fun s k =>
    s.newBank (128 + k) (s.pinned (128 + k)) ((List.range 3).map (fun q => s.auxAt q k 2)))

/-- DISTRIBUTION (R159, R162, R241 to R243): at B_k + 930 µs, every problem of the active cell. -/
def execDistribution (s : State) : Host.Outcome State Fault Refusal :=
  if !s.cellOn || !s.onGrid 1000000 930000 then .next s
  else
    let s := foldOn (List.range 4) s (fun s p => (s.overrun (f4 p)).settle (f4 p))
    .next s.auxBanks

/-- SOLVER_REPORT (R244). -/
def execSolverReport (q : Fin 16) (tag : Fin 1024) (s : State) : Host.Outcome State Fault Refusal :=
  .next (s.startPkt q tag 0x43 (fun p t =>
    if 3 < p.p0.toNat ∨ t.cellOn = false ∨ (t.imageOf (f4 p.p0.toNat)).isNone = true then t.finish p (badAt atP0)
    else
      let v := t.solver.solves[f4 p.p0.toNat]
      t.finishOk p (w32 v.recTick) 0 ((v.record ++ List.replicate 64 0).take 64)))

end Sys2Proof.Machine
end

