-- ==== Sys2Proof/Machine/Dispatcher.lean ====
section
/-! DEFINITION. Delay lists, ready lists with the prefetch slots of the workers, arbiter rounds and background work
(11_dispatcher_and_arbitration.md, R271 to R288). What waits is the work that the state holds and a command has not run yet
(log entry 50). -/

namespace Sys2Proof.Machine

/-! ### Delay lists (R279, R280) -/

/-- The 1 µs tick at or after an instant. -/
def tickAt (ns : Nat) : Nat := ceilDiv ns 1000

/-- The delay entries in use (R280): users 0 presence window, 1 proof swap, 2 brake tests, 3 packet deadlines,
4 Ethernet reassembly, 5 EVT_ARM hold time, 6 MSI-X moderation, 7 barrier timeouts, 8 other firmware timers: the streams 0 to 4 of
partial images (R10) and 5, the panel message (R61). -/
def State.timers (s : State) : List DelayEntry :=
  let qs := numbered 0 s.host.queues.toList
  (match s.host.presence with
   | some w => [⟨tickAt (w.opened + 60000000000), 0, w.queue, w.tag⟩]
   | none => []) ++
  (if s.pairActive && s.twin.swapTick.isNone && !s.swapBlocked then
    [⟨if s.twin.swapAgain then 0 else (s.swapDue - 16) * 1000, 1, 0, 0⟩] else []) ++
  (List.range 16).filterMap (fun c =>
    let x := s.safety.index[f16 c]
    if fld x.brk 31 24 = 0 ∨ x.due.isSome = true then none
    else some ⟨tickAt (x.passAt + (fld x.brk 31 24 - x.sinceH) * 3600000000000), 2, c, 0⟩) ++
  qs.flatMap (fun q => (q.2.inflight.filter (fun p => decide (p.phase = Phase.accepted) && decide (p.deadline ≠ 0))).map
    (fun p => ⟨tickAt (p.arrival + p.deadline * 1000), 3, q.1, p.tag⟩)) ++
  s.host.assembling.map (fun a => ⟨tickAt (a.first + 20000000), 4, a.queue, a.seq.toNat⟩) ++
  (List.range 16).filterMap (fun b => match s.host.subs[f16 b].held, s.armed b with
    | e :: _, _ :: _ => some ⟨tickAt (e.released + 1000000), 5, b, 0⟩
    | _, _ => none) ++
  qs.filterMap (fun q => q.2.msixAt.map (fun t => ⟨tickAt (t + 2000), 6, q.1, 0⟩)) ++
  (List.range 16).filterMap (fun c => match s.motion.chains[f16 c].atBarrier, s.motion.chains[f16 c].arrived with
    | some r, some t => if barTimeout r = 0 then none else some ⟨tickAt (t + barTimeout r * 1000000), 7, c, 0⟩
    | _, _ => none) ++
  [Stream.cell, .sched, .kernel, .rule, .fw].filterMap (fun st =>
    (s.cell.partOf st).map (fun i => ⟨tickAt (i.last + 10000000000), 8, streamNo st, 0⟩)) ++
  (if s.host.presence.isSome then [] else (s.host.panelAt.map (fun t => ⟨tickAt (t + 5000000000), 8, 5, 0⟩)).toList)

/-- Delay entries in use (DT_STAT.dl_used): those not enqueued yet. -/
def State.delayUsed (s : State) : Nat := (s.timers.filter (fun e => !s.disp.fired.contains e)).length

/-- The entries not enqueued yet, in order of insertion: cancelled ones are gone, new ones stand at the end (R279, R280). -/
def State.delayList (s : State) : List DelayEntry :=
  let ts := s.timers
  s.disp.delay.filter ts.contains ++ ts.filter (fun e => !s.disp.delay.contains e && !s.disp.fired.contains e)

/-! ### Work items (R271, R276) -/

/-- The class of an item for its place among the lists: background items come after every other one (R286). -/
def WorkItem.level (w : WorkItem) : Nat := if w.background then 4 else w.cls

/-- The cf byte of a work item (R271). -/
def WorkItem.cf (w : WorkItem) : Byte := BitVec.ofNat 8 (w.cls % 4 + 4 * w.flowType.code + 16 * b2n w.background)

/-- The target word of a work item (R271). The spec does not lay it out; this layout is the model's (log entry 50). -/
def WorkTarget.word : WorkTarget → Word
  | .loops e n => w32 (65536 * e + n)
  | .kernel t k => w32 (65536 * t + k)
  | .problem p => w32 p
  | .events => 0
  | .packet q t => w32 (65536 * q + t)
  | .stage c t => w32 (65536 * (256 + c) + t % 65536)
  | .expiry e => w32 (65536 * (512 + e.user) + e.a % 65536)
  | .task b u => w32 (256 * b + u)

/-- The 16 bytes of a work item (R271). -/
def WorkItem.bytes (w : WorkItem) : List Byte :=
  [BitVec.ofNat 8 w.kind.code, w.cf] ++ leBytes 2 w.flow.toNat ++ leBytes 4 w.fseq.toNat ++ leBytes 4 w.target.word.toNat ++
    leBytes 4 w.ctx.toNat

/-- A flow identity (R276): family 0 chain, 1 host queue, 2 subscription, 3 problem, 4 ring, 5 kernel. -/
def flowId (family index : Nat) : BitVec 16 := BitVec.ofNat 16 (family * 4096 + index)

/-- An item of a flow, as yet without sequence number and context. -/
def flowItem (kind : WorkKind) (cls : Nat) (ty : FlowType) (family index : Nat) (target : WorkTarget) : WorkItem :=
  ⟨kind, cls, ty, false, flowId family index, 0, target, 0⟩

/-- An item of no flow. -/
def freeItem (kind : WorkKind) (cls : Nat) (target : WorkTarget) : WorkItem := ⟨kind, cls, .none, false, 0, 0, target, 0⟩

/-- The command step of a packet (R42, R277): SEG_PUSH in its chain's ordered-atomic flow, MOTION_STOP and MOTION_RESUME of one
chain, which change its state (R158), in its atomic flow, EVT_ARM in its subscription's and another ordered packet in its
queue's ordered flow. -/
def Pkt.workItem (p : Pkt) : WorkItem :=
  let t := WorkTarget.packet p.queue p.tag
  if p.opcode = 0x20 then flowItem .commandStep p.cls .orderedAtomic 0 (p.p0.toNat % 16) t
  else if (p.opcode = 0x21 ∨ p.opcode = 0x22) ∧ p.p0.toNat < 16 then flowItem .commandStep p.cls .atomic 0 p.p0.toNat t
  else if p.opcode = 0x61 then flowItem .commandStep p.cls .ordered 2 (p.p0.toNat % 16) t
  else if p.ordered then flowItem .commandStep p.cls .ordered 1 p.queue t
  else freeItem .commandStep p.cls t

/-- The item of a delay entry (R279): a step of an interpreter core, of class 1 where it delivers events. -/
def DelayEntry.workItem (e : DelayEntry) : WorkItem :=
  if e.user = 5 then flowItem .commandStep 1 .ordered 2 e.a (.expiry e) else freeItem .commandStep 0 (.expiry e)

/-- DT_BG.en. -/
def DispSt.enabled (d : DispSt) (b : Fin 6) : Bool := bitAt d.bg[b] 19

/-! ### What waits or runs (R272, R273) -/

/-- Worker groups (R272): 0 interpreter cores, 1 loop engines, 2 signal tiles, 3 solver sequencers, 4 the nibble evaluator. -/
def WorkKind.group : WorkKind → Nat
  | .commandStep | .backgroundStep => 0 | .loopBatch => 1 | .kernelRun => 2 | .solverJob => 3 | .eventBatch => 4

/-- The producer of an item and the items that the lists reserve for it (R273), 4,096 together: delay-list expiries, else the
kind's. -/
def WorkItem.producer (w : WorkItem) : Nat × Nat :=
  match w.target, w.kind with
  | .expiry _, _ => (0, 1452)
  | _, .loopBatch => (1, 1024)
  | _, .kernelRun => (2, 64)
  | _, .solverJob => (3, 4)
  | _, .eventBatch => (4, 512)
  | _, .commandStep => (5, 1024)
  | _, .backgroundStep => (6, 16)

/-- Insert a packet in the order of arrival. -/
def insertArrival (p : Pkt) : List Pkt → List Pkt
  | [] => [p]
  | o :: r => if p.arrival ≤ o.arrival then p :: o :: r else o :: insertArrival p r

/-- The packets that may start and wait for a core, on all queues, in the order of arrival (R35, R64). -/
def State.waitingPkts (s : State) : List Pkt :=
  (s.host.queues.toList.flatMap (fun x => x.inflight.filter x.startable)).foldr insertArrival []

/-- The completed packets of a queue that wait for their predecessors beyond the 64 that the flow's release buffer holds: their
worker keeps them (R278). -/
def QueueSt.keptPkts (x : QueueSt) : List Pkt := ((x.replies.filter x.behind).drop 64).map (·.pkt)

/-- The reference stage's items of the present tick, one for each chain of the cell (R159, R272, R277). -/
def State.stageItems (s : State) : List WorkItem :=
  if s.cellOn && decide (s.motion.refTick < s.tickNo) then
    (List.range s.theCell.chains.length).map (fun c => flowItem .commandStep 0 .atomic 0 c (.stage c s.tickNo))
  else []

/-- Loop batches: the slots of one engine that a node's frame feeds and that have not taken it (R272). -/
def State.batchItems (s : State) : List WorkItem :=
  (numbered 0 s.theCell.nodes).flatMap (fun n => match (mget {} s.rings[f4 n.2.ring].nodes n.2.hop).data with
    | some (seq, false, _) =>
      let fed := (n.2.axisList.take n.2.naxes).flatMap (fun a => s.batchSlots a seq)
      ((List.range 16).filter (fun e => fed.any (fun p => p.1 == e))).map (fun e => freeItem .loopBatch 0 (.loops e n.1))
    | _ => [])

/-- Kernel runs: one that a tile runs, and those that wait for it (R264, R265). -/
def State.runItems (s : State) : List WorkItem :=
  (numbered 0 s.tiles.tiles.toList).flatMap (fun x => ((if x.2.busy then [x.2.core.kernel] else []) ++ x.2.queue).map (fun k =>
    flowItem .kernelRun 1 .atomic 5 k (.kernel x.1 k)))

/-- Solver jobs: the solves that run (R234). -/
def State.solveItems (s : State) : List WorkItem :=
  ((List.range 4).filter (fun p => s.solver.solves[f4 p].running && !s.solver.solves[f4 p].halted)).map (fun p =>
    flowItem .solverJob 0 .atomic 3 p (.problem p))

/-- The event batch: events that are due and not released (R309). -/
def State.eventItems (s : State) : List WorkItem :=
  if !s.nibble.lateQ.isEmpty || s.nibble.store.any (fun e => decide (e.stamp + s.nibble.windowIn * 10000 ≤ s.stamp)) then
    [freeItem .eventBatch 1 .events] else []

/-- Background steps of the interpreter cores: the next step of tasks 4 and 5, promoted or not (R286, R287). -/
def State.taskItems (s : State) : List WorkItem :=
  if s.isReady rdQueues then
    ([4, 5] : List Nat).flatMap (fun b => if s.disp.enabled (fin 6 (by decide) b) then (List.range 4).map (fun u =>
      if s.disp.promoted.contains (32 * b + u) then freeItem .backgroundStep 2 (.task b u)
      else { freeItem .backgroundStep 3 (.task b u) with background := true }) else [])
  else []

/-- Every item that waits or runs (R272; log entry 50). -/
def State.workItems (s : State) : List WorkItem :=
  s.stageItems ++ s.batchItems ++ s.solveItems ++ s.disp.fired.map DelayEntry.workItem ++ s.runItems ++ s.eventItems ++
  s.waitingPkts.map Pkt.workItem ++ s.host.queues.toList.flatMap (fun x => x.keptPkts.map Pkt.workItem) ++ s.taskItems

/-! ### Ready lists and prefetch slots (R272, R274, R277) -/

/-- The worker group of a worker: 4 interpreter cores, 16 loop engines, 16 tiles, 4 solver sequencers, the evaluator. -/
def workerGroup (w : Nat) : Nat := if w < 4 then 0 else if w < 20 then 1 else if w < 36 then 2 else if w < 40 then 3 else 4

/-- A worker may run an item: it is of the item's group, and the engine, tile, sequencer or core that the item names. -/
def WorkItem.fits (x : WorkItem) (w : Nat) : Bool :=
  x.kind.group == workerGroup w && (match x.target with
    | .loops e _ => e + 4 == w
    | .kernel t _ => t + 20 == w
    | .problem p => p + 36 == w
    | .task _ u => u == w
    | _ => true)

/-- The items in the slots of a worker. -/
def Worker.items (v : Worker) : List WorkItem := (v.cur.map (·.1)).toList ++ v.next.toList

/-- The ready list of a worker group and a class (R272). -/
def DispSt.readyList (d : DispSt) (group level : Nat) : List WorkItem :=
  d.lists.filter (fun x => x.kind.group == group && x.level == level)

/-- An item entered a flow before another (R277). -/
def WorkItem.before (y x : WorkItem) : Bool :=
  y.flowType == x.flowType && y.flow == x.flow && y.fseq != x.fseq && decide ((x.fseq - y.fseq).toNat < 2 ^ 31)

/-- A worker may take an item into a slot (R277): items of a flow start in the order of enqueuing, so none that entered the flow
earlier still waits; and one of an atomic flow only where no other worker holds the flow. -/
def DispSt.mayTake (d : DispSt) (w : Nat) (x : WorkItem) : Bool :=
  x.fits w && (x.flowType == FlowType.none ||
    (d.lists.all (fun y => !y.before x) && d.workers.toList.all (fun o => o.next.all (fun y => !y.before x)) &&
     (x.flowType != FlowType.atomic || (numbered 0 d.workers.toList).all (fun o =>
       o.1 == w || o.2.items.all (fun y => !(y.flowType == FlowType.atomic && y.flow == x.flow))))))

/-- The item that a worker takes next: the head of its highest class that is not empty (R272). -/
def DispSt.headFor (d : DispSt) (w : Nat) : Option WorkItem :=
  (List.range 5).findSome? (fun c => (d.readyList (workerGroup w) c).find? (d.mayTake w))

/-- The lists without an item. -/
def DispSt.drop (d : DispSt) (x : WorkItem) : List WorkItem := d.lists.eraseP (fun y => decide (y.target = x.target))

/-- Fill the slots of a worker (R274): next becomes current as the current item ends, and next is taken from the lists. -/
def DispSt.refill (d : DispSt) (now : Nat) (w : Fin 41) : DispSt :=
  let d := match d.workers[w].cur with
    | some _ => d
    | none => match d.workers[w].next with
      | some x => { d with workers := d.workers.set w ⟨some (x, now), none⟩ }
      | none => match d.headFor w.val with
        | some x => { d with workers := d.workers.set w ⟨some (x, now), none⟩, lists := d.drop x }
        | none => d
  match d.workers[w].cur, d.workers[w].next with
  | some c, none => match d.headFor w.val with
    | some x => { d with workers := d.workers.set w ⟨some c, some x⟩, lists := d.drop x }
    | none => d
  | _, _ => d

/-- The workers one after another. -/
def DispSt.refillAll (d : DispSt) (now : Nat) : DispSt :=
  if d.lists.isEmpty && d.workers.toList.all (fun v => v.next.isNone) then d
  else (List.finRange 41).foldl (fun d w => d.refill now w) d

/-- The worker whose next slot holds an item of the lowest class that a new item outranks, the lowest worker among equals. -/
def DispSt.victim (d : DispSt) (x : WorkItem) : Option (Fin 41) :=
  let class_ := fun (w : Fin 41) => match d.workers[w].next with
    | some y => if d.mayTake w.val x && decide (x.level < y.level) then y.level else 0
    | none => 0
  let worst := (List.finRange 41).foldl (fun m w => max m (class_ w)) 0
  if worst = 0 then none else (List.finRange 41).find? (fun w => class_ w == worst)

/-- An item is of the reference stage. -/
def WorkItem.isStage (x : WorkItem) : Bool :=
  match x.target with
  | .stage _ _ => true
  | _ => false

/-- The lists hold fewer items of the producer than are reserved for it (R273). -/
def DispSt.room (d : DispSt) (x : WorkItem) : Bool :=
  decide ((d.lists.filter (fun y => decide (y.producer = x.producer))).length < x.producer.2)

/-- An item as it is enqueued: with its sequence number in its flow and its context (R271). -/
def DispSt.stamped (d : DispSt) (x : WorkItem) : WorkItem :=
  { x with fseq := if x.flowType = .none then 0 else w32 (mget 0 d.flowSeq x.flow.toNat), ctx := Config.itemContext d.count }

/-- An item is enqueued at the tail of its list, or, of the reference stage at B_k, ahead of every waiting command step (R272);
where its class is higher than that of an item in a next slot, that one returns to the head of its list and the new item takes
the slot. A current item is never displaced (R274). -/
def DispSt.enqueue (d : DispSt) (now : Nat) (atHead : Bool) (x0 : WorkItem) : DispSt :=
  let x := d.stamped x0
  let d := { d with
    count := d.count + 1
    flowSeq := if x.flowType = FlowType.none then d.flowSeq else mput 0 d.flowSeq x.flow.toNat (mget 0 d.flowSeq x.flow.toNat + 1)
    lists := if atHead then d.lists.takeWhile WorkItem.isStage ++ x :: d.lists.dropWhile WorkItem.isStage else d.lists ++ [x] }
  let d := d.refillAll now
  if d.lists.all (fun y => decide (y.target ≠ x.target)) then d
  else match d.victim x with
    | none => d
    | some w => match d.workers[w].next with
      | none => d
      | some y => { d with lists := y :: d.drop x, workers := d.workers.set w { d.workers[w] with next := some x } }

/-- A command step that has been current for 20 µs splits: its further step is enqueued at the tail of its list (R274). A completed
packet that its worker keeps for a full release buffer stays (R278). -/
def DispSt.cutLong (d : DispSt) (now : Nat) (kept : List Pkt) (w : Fin 41) : DispSt :=
  match d.workers[w].cur with
  | some (x, t) =>
    if decide (x.kind = .commandStep ∨ x.kind = .backgroundStep) && decide (t + 20000 ≤ now) &&
        !kept.any (fun p => decide (x.target = .packet p.queue p.tag)) then
      { d with workers := d.workers.set w { d.workers[w] with cur := none } }.enqueue now false x
    else d
  | none => d

/-- One DISPATCH cycle (R272 to R274, R279, R284): items that have run or were cancelled leave, long steps split, slots are
refilled, new items are enqueued as far as their producers have room, and the arbiters see what their units are wanted for. -/
def State.dispatch (s : State) : State :=
  let have_ := s.workItems
  let waits := fun (x : WorkItem) => have_.any (fun y => decide (y.target = x.target) && y.level == x.level)
  let runs := fun (x : WorkItem) => have_.any (fun y => decide (y.target = x.target))
  let d := { s.disp with
    delay := s.delayList, lists := s.disp.lists.filter waits
    workers := s.disp.workers.map (fun (v : Worker) => { cur := v.cur.filter (fun c => runs c.1), next := v.next.filter waits }) }
  let kept := s.host.queues.toList.flatMap QueueSt.keptPkts
  let d := ((List.finRange 41).foldl (fun d w => d.cutLong s.now kept w) d).refillAll s.now
  let held := d.lists ++ d.workers.toList.flatMap Worker.items
  let d := (have_.filter (fun x => held.all (fun y => decide (y.target ≠ x.target)))).foldl (fun d x =>
    if d.room x then d.enqueue s.now x.isStage x else d) d
  foldOn (List.range 25) (s.setDisp { d with rlMax := max d.rlMax (satN 65535 d.lists.length) }) State.arbitrate

/-- DELAY_TICK (R279, R280): at each 1 µs tick of cell time every due entry is enqueued, in order of insertion. -/
def execDelayTick (s : State) : Host.Outcome State Fault Refusal :=
  if !s.onGrid 1000 0 then .next s
  else
    let ts := s.delayList
    let due := ts.filter (fun e => decide (e.tick * 1000 ≤ s.time.cellNs))
    let late := (due.filter (fun e => decide (e.tick * 1000 + 1000 < s.time.cellNs))).length
    .next (s.setDisp { s.disp with
      delay := ts.filter (fun e => !decide (e.tick * 1000 ≤ s.time.cellNs)), fired := s.disp.fired ++ due
      late := bump s.disp.late 31 16 late }).dispatch

/-! ### Arbiters (R281 to R285) -/

/-- ARBITRATION_ROUND (R281 to R285) at an unit: new requests, then the round; a masked unit refuses (R284). -/
def execArbitrationRound (i : Fin 25) (reqs : List (Fin 8)) (release : Bool) (s : State) :
    Host.Outcome State Fault Refusal :=
  if s.unitMasked i.val then .next (s.setArb i.val { s.arb i.val with holder := none, waiting := [] })
  else .next (s.setArb i.val ((reqs.foldl (fun a r => s.newRequest i.val a r.val) (s.newClasses i.val (s.arb i.val))).round release))

/-- Write a requester's class (R285). -/
def State.setMemcls (s : State) (r : Fin 8) (cls : BitVec 2) : State :=
  s.setDisp { s.disp with memcls := s.disp.memcls.set r cls }

/-- AB_MEMCLS (R285, R289): requesters 5 and 6 keep their class. -/
def execAbMemcls (r : Fin 8) (cls : BitVec 2) (s : State) : Host.Outcome State Fault Refusal :=
  if r = 5 ∨ r = 6 then .next s else .next (s.setMemcls r cls)

/-! ### Background work (R286 to R288, R368) -/

/-- A unit belongs to a background task (R286): the partitions, the tiles, the LPDDR5X port, the lanes, the interpreter cores 0 to 3,
and for task 5 the cores and the port. -/
def taskUnit (b u : Nat) : Bool :=
  if b = 0 then decide (u < 8) else if b = 1 then decide (8 ≤ u) && decide (u < 24)
  else if b = 2 then u == 24 else if b = 3 then decide (u < 12) else if b = 4 then decide (u < 4) else decide (u < 4) || u == 24

/-- The step of a task on a unit runs on an interpreter core (R272, R286). -/
def onCore (b u : Nat) : Bool := b == 4 || (b == 5 && decide (u < 4))

/-- Elapsed time of the last completed step of a task on a unit. -/
def DispSt.lastOf (d : DispSt) (b u : Nat) : Nat := mget 0 d.lastStep (32 * b + u)

/-- BACKGROUND_PROMOTION (R287, R288): the deferral limit has passed, and the next step is requested at class 2; task 3 is counted
and reported instead. -/
def execBackgroundPromotion (b : Fin 6) (unit : Fin 25) (s : State) : Host.Outcome State Fault Refusal :=
  let d := s.disp
  let key := 32 * b.val + unit.val
  if !taskUnit b.val unit.val || !d.enabled b || decide (s.now < d.lastOf b.val unit.val + fld d.bg[b] 31 20 * 1000000) then .next s
  else if b.val = 3 then
    let s := s.setDisp { d with bg := d.bg.set b (bump d.bg[b] 7 0 1), lastStep := mput 0 d.lastStep key s.now }
    .next (s.notice .recalMissed unit.val 0)
  else if d.promoted.contains key then .next s
  else
    let s := s.setDisp { d with bg := d.bg.set b (bump d.bg[b] 15 8 1), promoted := d.promoted ++ [key] }
    .next (if onCore b.val unit.val then s else s.askUnit unit.val (requesterFor b.val))

/-- A lane is in the span in which it may be re-calibrated for 1.5 µs (R288, R368): lanes 0 to 7 of the rings, 8 and 9 of
the host ports, 10 and 11 of Benjo. -/
def State.laneIdle (s : State) (u : Nat) : Bool :=
  if u < 8 then
    let r := f4 (u / 2)
    if s.cellOn then
      let o := (s.stamp + s.servo - fld s.rings[r].rcfg 19 0 % s.servo) % s.servo
      decide (s.cell.placement.rings[r].fin + fld s.rings[r].rcfg 31 20 ≤ o) && decide (o + 1500 ≤ s.servo - 2000)
    else true
  else if u < 10 then true
  else
    let l := u - 10
    decide (s.tickNo % 2 = l) && decide (984000 ≤ s.stamp % 1000000) && decide (s.stamp % 1000000 + 1500 ≤ 998000) &&
      (if l = 0 then s.twin.lane1 else s.twin.lane0)

/-- The errors that a scrub step corrects are counted: of a partition in SV_CNT.ecc of the problems on it, of a tile in DX_TECC
(R236, R268). -/
def State.scrubbed (s : State) (b unit n : Nat) : State :=
  if b = 0 then foldOn (List.range 4) s (fun s p =>
    if s.solver.probs[f4 p].active && s.solver.probs[f4 p].parts.contains unit then s.corrected (f4 p) n else s)
  else if b = 1 then
    let x := s.tiles.tiles[f16 (unit - 8)]
    s.setTile (f16 (unit - 8)) { x with corrected := satN 65535 (x.corrected + n) }
  else s

/-- The arbiter after a completed background step, its preemption point (R283, R286, R287): a promoted step gives the unit up, and
its task asks again as background work. -/
def State.stepDone (s : State) (i r : Nat) : State :=
  let a := s.newClasses i (s.arb i)
  if a.holder.any (·.promoted) then s.setArb i ((s.newRequest i { a with holder := none } r).round true)
  else s.setArb i (a.round false)

/-- BACKGROUND_STEP (R286, R287): a step completes: on an arbitrated unit only while its requester holds the unit, on an
interpreter core only as the core's current item, and on a lane only in its span. A scrub step has corrected some single-bit
errors. -/
def execBackgroundStep (b : Fin 6) (unit : Fin 25) (corrected : Nat) (s : State) : Host.Outcome State Fault Refusal :=
  let d := s.disp
  let key := 32 * b.val + unit.val
  let holds := if b.val = 3 then s.laneIdle unit.val
    else if onCore b.val unit.val then d.current (.task b.val unit.val)
    else s.holdsUnit unit.val (requesterFor b.val)
  if !taskUnit b.val unit.val || !d.enabled b || !holds then .next s
  else
    let done := fun (v : Worker) => { v with cur := v.cur.filter (fun c => decide (c.1.target ≠ .task b.val unit.val)) }
    let s := (s.setDisp { d with
      lastStep := mput 0 d.lastStep key s.now, promoted := d.promoted.filter (· != key)
      workers := d.workers.map done }).scrubbed b.val unit.val corrected
    .next (if b.val = 3 ∨ onCore b.val unit.val = true then s else s.stepDone unit.val (requesterFor b.val))

end Sys2Proof.Machine
end

