-- ==== Sys2Proof/Machine/Crypto.lean ====
section
/-! DEFINITION. SHA-384 and the verification of an ECDSA P-384 signature, which the spec names for firmware images and does not
define (R403). PRESUMED (log entry 18): as FIPS 180-4 and FIPS 186-4 define them. -/

namespace Sys2Proof.Machine

/-- The number that bytes spell, the most significant first. -/
def beNat (bs : List Byte) : Nat := bs.foldl (fun n b => 256 * n + b.toNat) 0

/-- `n` bytes of a number, the most significant first. -/
def beBytes (n v : Nat) : List Byte := (leBytes n v).reverse

/-! ### SHA-384 -/

/-- The eight working words of a SHA-384 state, a to h, each below 2^64. -/
structure ShaWords where
  a : Nat
  b : Nat
  c : Nat
  d : Nat
  e : Nat
  f : Nat
  g : Nat
  h : Nat
  deriving DecidableEq, Repr

/-- The round constants: the first 64 bits of the fractions of the cube roots of the first eighty primes. -/
def shaRound : List Nat :=
  [0x428A2F98D728AE22, 0x7137449123EF65CD, 0xB5C0FBCFEC4D3B2F, 0xE9B5DBA58189DBBC,
   0x3956C25BF348B538, 0x59F111F1B605D019, 0x923F82A4AF194F9B, 0xAB1C5ED5DA6D8118,
   0xD807AA98A3030242, 0x12835B0145706FBE, 0x243185BE4EE4B28C, 0x550C7DC3D5FFB4E2,
   0x72BE5D74F27B896F, 0x80DEB1FE3B1696B1, 0x9BDC06A725C71235, 0xC19BF174CF692694] ++
  [0xE49B69C19EF14AD2, 0xEFBE4786384F25E3, 0x0FC19DC68B8CD5B5, 0x240CA1CC77AC9C65,
   0x2DE92C6F592B0275, 0x4A7484AA6EA6E483, 0x5CB0A9DCBD41FBD4, 0x76F988DA831153B5,
   0x983E5152EE66DFAB, 0xA831C66D2DB43210, 0xB00327C898FB213F, 0xBF597FC7BEEF0EE4,
   0xC6E00BF33DA88FC2, 0xD5A79147930AA725, 0x06CA6351E003826F, 0x142929670A0E6E70] ++
  [0x27B70A8546D22FFC, 0x2E1B21385C26C926, 0x4D2C6DFC5AC42AED, 0x53380D139D95B3DF,
   0x650A73548BAF63DE, 0x766A0ABB3C77B2A8, 0x81C2C92E47EDAEE6, 0x92722C851482353B,
   0xA2BFE8A14CF10364, 0xA81A664BBC423001, 0xC24B8B70D0F89791, 0xC76C51A30654BE30,
   0xD192E819D6EF5218, 0xD69906245565A910, 0xF40E35855771202A, 0x106AA07032BBD1B8] ++
  [0x19A4C116B8D2D0C8, 0x1E376C085141AB53, 0x2748774CDF8EEB99, 0x34B0BCB5E19B48A8,
   0x391C0CB3C5C95A63, 0x4ED8AA4AE3418ACB, 0x5B9CCA4F7763E373, 0x682E6FF3D6B2B8A3,
   0x748F82EE5DEFB2FC, 0x78A5636F43172F60, 0x84C87814A1F0AB72, 0x8CC702081A6439EC,
   0x90BEFFFA23631E28, 0xA4506CEBDE82BDE9, 0xBEF9A3F7B2C67915, 0xC67178F2E372532B] ++
  [0xCA273ECEEA26619C, 0xD186B8C721C0C207, 0xEADA7DD6CDE0EB1E, 0xF57D4F7FEE6ED178,
   0x06F067AA72176FBA, 0x0A637DC5A2C898A6, 0x113F9804BEF90DAE, 0x1B710B35131C471B,
   0x28DB77F523047D84, 0x32CAAB7B40C72493, 0x3C9EBE0A15C9BEBC, 0x431D67C49C100D4C,
   0x4CC5D4BECB3E42B6, 0x597F299CFC657E2A, 0x5FCB6FAB3AD6FAEC, 0x6C44198C4A475817]

/-- The first state: the first 64 bits of the fractions of the square roots of the ninth to the sixteenth prime. -/
def shaStart : ShaWords :=
  ⟨0xCBBB9D5DC1059ED8, 0x629A292A367CD507, 0x9159015A3070DD17, 0x152FECD8F70E5939,
   0x67332667FFC00B31, 0x8EB44A8768581511, 0xDB0C2E0D64F98FA7, 0x47B5481DBEFA4FA4⟩

/-- A sum modulo 2^64. -/
def add64 (a b : Nat) : Nat := (a + b) % 2 ^ 64

/-- A 64-bit word rotated right. -/
def rotr64 (x n : Nat) : Nat := (x >>> n) ||| ((x <<< (64 - n)) % 2 ^ 64)

/-- One round, with the word of the message schedule and the round constant. -/
def ShaWords.round (v : ShaWords) (k w : Nat) : ShaWords :=
  let s1 := rotr64 v.e 14 ^^^ rotr64 v.e 18 ^^^ rotr64 v.e 41
  let ch := (v.e &&& v.f) ^^^ ((v.e ^^^ (2 ^ 64 - 1)) &&& v.g)
  let t1 := (v.h + s1 + ch + k + w) % 2 ^ 64
  let s0 := rotr64 v.a 28 ^^^ rotr64 v.a 34 ^^^ rotr64 v.a 39
  let maj := (v.a &&& v.b) ^^^ (v.a &&& v.c) ^^^ (v.b &&& v.c)
  ⟨add64 t1 (add64 s0 maj), v.a, v.b, v.c, add64 v.d t1, v.e, v.f, v.g⟩

/-- The word of the message schedule 16 places after the first of its 16 last words. -/
def shaNext (w : List Nat) : Nat :=
  let x := w.getD 1 0
  let y := w.getD 14 0
  let s0 := rotr64 x 1 ^^^ rotr64 x 8 ^^^ (x >>> 7)
  let s1 := rotr64 y 19 ^^^ rotr64 y 61 ^^^ (y >>> 6)
  (w.headD 0 + s0 + w.getD 9 0 + s1) % 2 ^ 64

/-- The rounds of the constants `ks`, with the next 16 words of the message schedule. -/
def shaRounds : List Nat → List Nat → ShaWords → ShaWords
  | [], _, v => v
  | k :: ks, w, v => shaRounds ks (w.drop 1 ++ [shaNext w]) (v.round k (w.headD 0))

/-- One block of 128 bytes. -/
def ShaWords.block (v : ShaWords) (bs : List Byte) : ShaWords :=
  let r := shaRounds shaRound ((chunks 8 16 bs).map beNat) v
  ⟨add64 v.a r.a, add64 v.b r.b, add64 v.c r.c, add64 v.d r.d, add64 v.e r.e, add64 v.f r.f, add64 v.g r.g, add64 v.h r.h⟩

/-- A message padded to whole blocks: a set bit, zeros, and its length in bits in 16 bytes. -/
def shaPad (bs : List Byte) : List Byte :=
  bs ++ [0x80] ++ List.replicate ((128 - (bs.length + 17) % 128) % 128) 0 ++ beBytes 16 (8 * bs.length)

/-- SHA-384 of some bytes, in 48 bytes. -/
def sha384 (bs : List Byte) : List Byte :=
  let m := shaPad bs
  let v := (chunks 128 (m.length / 128) m).foldl (fun (v : ShaWords) b => v.block b) shaStart
  [v.a, v.b, v.c, v.d, v.e, v.f].flatMap (beBytes 8)

/-! ### The curve P-384 -/

/-- The field of the curve, the order of its base point, and its coefficient b. -/
def p384 : Nat := 0xFFFFFFFFFFFFFFFFFFFFFFFFFFFFFFFFFFFFFFFFFFFFFFFFFFFFFFFFFFFFFFFEFFFFFFFF0000000000000000FFFFFFFF
def p384Order : Nat := 0xFFFFFFFFFFFFFFFFFFFFFFFFFFFFFFFFFFFFFFFFFFFFFFFFC7634D81F4372DDF581A0DB248B0A77AECEC196ACCC52973
def p384B : Nat := 0xB3312FA7E23EE7E4988E056BE3F82D19181D9C6EFE8141120314088F5013875AC656398D8A2ED19D2A85C8EDD3EC2AEF

/-- A difference in the field. -/
def subP (a b : Nat) : Nat := (a + (p384 - b % p384)) % p384

/-- A power modulo `m`, with an exponent below 2^384. -/
def powMod (m a e : Nat) : Nat :=
  (List.range 384).foldl (fun r i => let q := r * r % m; if e.testBit (383 - i) then q * a % m else q) 1

/-- A point of the curve in Jacobian coordinates: x / z², y / z³; z is 0 at infinity. -/
structure CurvePt where
  x : Nat
  y : Nat
  z : Nat
  deriving DecidableEq, Repr

/-- The base point. -/
def p384Base : CurvePt :=
  ⟨0xAA87CA22BE8B05378EB1C71EF320AD746E1D3B628BA79B9859F741E082542A385502F25DBF55296C3A545E3872760AB7,
   0x3617DE4A96262C6F5D9E98BF9292DC29F8F41DBD289A147CE9DA3113B5F0B8C00A60B1CE1D7E819D7A431D7C90EA0E5F, 1⟩

/-- Twice a point. -/
def CurvePt.twice (a : CurvePt) : CurvePt :=
  let zz := a.z * a.z % p384
  let yy := a.y * a.y % p384
  let m := 3 * (subP a.x zz * (a.x + zz)) % p384
  let s := 4 * (a.x * yy) % p384
  let x := subP (m * m) (2 * s)
  ⟨x, subP (m * subP s x) (8 * (yy * yy)), 2 * (a.y * a.z) % p384⟩

/-- The sum of two points. -/
def CurvePt.add (a b : CurvePt) : CurvePt :=
  if a.z = 0 then b
  else if b.z = 0 then a
  else
    let za := a.z * a.z % p384
    let zb := b.z * b.z % p384
    let u := a.x * zb % p384
    let h := subP (b.x * za) u
    let s := a.y * (b.z * zb) % p384
    let r := subP (b.y * (a.z * za)) s
    if h = 0 then (if r = 0 then a.twice else ⟨1, 1, 0⟩)
    else
      let hh := h * h % p384
      let c := h * hh % p384
      let v := u * hh % p384
      let x := subP (r * r) (c + 2 * v)
      ⟨x, subP (r * subP v x) (s * c), h * (a.z * b.z) % p384⟩

/-- A multiple of a point by a number below 2^384. -/
def CurvePt.times (a : CurvePt) (k : Nat) : CurvePt :=
  (List.range 384).foldl (fun (r : CurvePt) i => if k.testBit (383 - i) then r.twice.add a else r.twice) ⟨1, 1, 0⟩

/-- The point that an uncompressed public key of 97 bytes spells, where it lies on the curve. -/
def keyPoint (key : List Byte) : Option CurvePt :=
  let x := beNat (slice key 1 48)
  let y := beNat (slice key 49 48)
  if byteAt key 0 = 4 ∧ x < p384 ∧ y < p384 ∧ y * y % p384 = (x * x * x + 3 * (p384 - x) + p384B) % p384 then some ⟨x, y, 1⟩ else none

/-- ECDSA verification over P-384 of a signature r, s of a SHA-384 digest with a public key. -/
def ecdsaValid (key sigR sigS digest : List Byte) : Bool :=
  match keyPoint key with
  | none => false
  | some a =>
    let r := beNat sigR
    let s := beNat sigS
    let w := powMod p384Order s (p384Order - 2)
    let q := (p384Base.times (beNat digest * w % p384Order)).add (a.times (r * w % p384Order))
    decide (1 ≤ r) && decide (r < p384Order) && decide (1 ≤ s) && decide (s < p384Order) && decide (q.z ≠ 0) &&
      q.x * powMod p384 (q.z * q.z % p384) (p384 - 2) % p384 % p384Order == r

end Sys2Proof.Machine
end

