-- ==== Sys2Proof/Machine/Time.lean ====
section
/-! DEFINITION. Cell time (04_cell_time.md): one TIME cycle of the clock, the time-base states (R94), the phase
corrections (R95), both PTP slots (R96 to R100), SYNC_IN and SYNC_OUT (R103 to R105), and group 0x8_. -/

namespace Sys2Proof.Machine

/-- Cell time is a seconds count modulo 2⁴⁸ and nanoseconds (R90). -/
def wrapCell (ns : Nat) : Nat := ns % (2 ^ 48 * 1000000000)

/-- Cell time moved by a signed amount. -/
def moveCell (ns : Nat) (d : Int) : Nat :=
  wrapCell ((ns : Int) + d + (2 ^ 48 * 1000000000 : Nat)).toNat

/-- The advance of cell time in one TIME cycle: 1 ns, and in every 100,000th cycle of a slew 2 ns or none (R95). SYNC_OUT
stays high for its time in cell time, and low while its period is 0 (R103). -/
def TimeSt.advance (t : TimeSt) (now : Nat) : TimeSt :=
  let due := decide (t.slew ≠ 0) && now % 100000 == 0
  let n := if !due then 1 else if 0 < t.slew then 2 else 0
  { t with
    cellNs := wrapCell (t.cellNs + n), skipped := n == 2
    slew := if !due then t.slew else if 0 < t.slew then t.slew - 1 else t.slew + 1
    outLeft := t.outLeft - n }

/-- One TIME cycle passes (R90, log entry 2). Cell time counts once TIME is ready. -/
def State.tick (s : State) : State :=
  let s := s.setNow (s.now + 1)
  if s.isReady rdTime then s.setTime (s.time.advance s.now) else s

/-- The next planning tick boundary, as cell time in ns. -/
def State.nextPlan (s : State) : Nat := (s.time.cellNs / 1000000 + 1) * 1000000

/-- TB_CTRL.source, TB_CTRL.select and TB_CTRL.lock_ns (R108). -/
def TimeSt.source (t : TimeSt) : Nat := fld t.ctrl 31 30
def TimeSt.select (t : TimeSt) : Nat := fld t.ctrl 29 28
def TimeSt.lockNs (t : TimeSt) : Nat := fld t.ctrl 15 8

/-- A frequency correction within ±100 ppm that the servo chooses: a free value (R95, log entry 5). -/
def freeFreq (n : Nat) : Int := (Config.freeNat n % 200001 : Nat) - 100000

/-- The number of a time-base state. -/
def TbState.code : TbState → Nat
  | .freerun => 0 | .acquire => 1 | .locked => 2 | .holdover => 3

/-- The time base enters a state; each entry into HOLDOVER or FREERUN is reported, and the frequency correction stays (R94).
DESIGN CHOICE (log entry 27): what is left of a slew goes with the reference, as R95 does not say. -/
def State.tbEnter (s : State) (st : TbState) : State :=
  if s.time.state = st then s
  else
    let t := { s.time with state := st, lockRun := 0 }
    match st with
    | .acquire => s.setTime { t with holdFrom := none }
    | .locked => s.setTime { t with holdFrom := none, lockHeld := true }
    | .freerun => (s.setTime { t with holdFrom := none, slew := 0 }).notice .timeState 0 0
    | .holdover => (s.setTime { t with holdFrom := some s.now, slew := 0 }).notice .timeState 3 0

/-- HOLDOVER is entered with the frequency correction at its mean over the last 64 s of lock, where a lock was held: a value that
the servo learned, free here (log entry 5). -/
def State.holdOver (s : State) : State :=
  if s.time.state = .holdover then s
  else
    let s := if s.time.lockHeld then (s.setTime { s.time with freq := freeFreq s.free }).nextFree else s
    s.tbEnter .holdover

/-- The reference is lost (R94). -/
def State.tbLost (s : State) : State :=
  match s.time.state with
  | .locked => s.holdOver
  | .acquire => if s.time.lockHeld then s.holdOver else s.tbEnter .freerun
  | _ => s

/-- Remove a phase error: while no cell is active one above 1 µs by a single step, every other by slew (R95). -/
def State.correctPhase (s : State) (d : Int) : State :=
  if !s.cellOn && decide (1000 < d.natAbs) then
    s.setTime { s.time with cellNs := moveCell s.time.cellNs d, slew := 0, skipped := false }
  else s.setTime { s.time with slew := d }

/-- This device's cell time follows the active device's over Benjo (R107). -/
def State.followsPair (s : State) : Bool :=
  !s.twin.active && (s.twin.state == .paired || s.twin.state == .check || s.twin.state == .join)

/-- One offset measurement of the reference in use: phase and frequency follow it, and 16 in a row within the lock
criterion lock the time base (R94, R95). `d` is reference minus cell time in ns. -/
def State.measure (s : State) (d : Int) : State :=
  let near := decide (d.natAbs ≤ s.time.lockNs)
  let s := (s.correctPhase d).setTime { (s.correctPhase d).time with freq := freeFreq s.free }
  let s := s.nextFree
  match s.time.state with
  | .acquire =>
    let run := if near then s.time.lockRun + 1 else 0
    if 16 ≤ run then s.tbEnter .locked else s.setTime { s.time with lockRun := run }
  | _ => s

/-! ### PTP (R96 to R100) -/

/-- The order of IEEE 1588 data sets: the better one first (R96; log entry 7). -/
def betterSet (a b : PtpDataset) : Bool :=
  let k := fun (x : PtpDataset) => [x.priority1, x.clockClass, x.accuracy, x.variance, x.priority2, x.identity]
  match ((k a).zip (k b)).find? (fun p => p.1 != p.2) with
  | some p => decide (p.1 < p.2)
  | none => decide (a.stepsRemoved < b.stepsRemoved)

/-- The device's own data set as grandmaster (TB_GM). -/
def TimeSt.ownSet (t : TimeSt) : PtpDataset :=
  ⟨fld t.gm 31 24, fld t.gm 15 8, fld t.gm 7 0, Config.ptpVariance, fld t.gm 23 16, Config.ptpIdentity, 0⟩

/-- The best qualified master that a port hears in a slot. -/
def SlotServo.best (v : SlotServo) (p : Fin 2) : Option Heard :=
  (v.heard[p].filter (·.qual)).foldl (fun b h => match b with
    | some x => if betterSet h.ds x.ds then some h else some x
    | none => some h) none

/-- The port on which a slot heard its best master, and that master: the choice of the BMCA among what both ports hear (R96). -/
def SlotServo.parent (v : SlotServo) : Option (Fin 2 × Heard) :=
  match v.best 0, v.best 1 with
  | some a, some b => if betterSet b.ds a.ds then some (1, b) else some (0, a)
  | some a, none => some (0, a)
  | none, some b => some (1, b)
  | none, none => none

/-- A clock of class 1 to 127 never follows another one (the decision of the BMCA, R96). -/
def TimeSt.primary (t : TimeSt) : Bool := decide (1 ≤ t.ownSet.clockClass) && decide (t.ownSet.clockClass ≤ 127)

/-- The device is the grandmaster of a slot: it may be, and it hears no better master, or its class lets it follow none, or it has
heard none for an announce receipt timeout (R96). -/
def State.isGm (s : State) (n : Fin 2) : Bool :=
  bitAt s.time.ctrl 27 && bitAt s.time.domain[n] 31 && (match s.time.slots[n].parent with
    | some (_, m) => s.time.primary || betterSet s.time.ownSet m.ds
    | none => decide (s.time.slots[n].listenFrom + 3000000000 ≤ s.now))

/-- A slot has a foreign grandmaster chosen by the BMCA. -/
def State.hasMaster (s : State) (n : Fin 2) : Bool := s.time.slots[n].parent.isSome && !s.isGm n

/-- What a host port does in a slot (R96). -/
inductive PtpPort where
  | disabled | listening | master | passive | slave
  deriving DecidableEq, Repr

/-- TB_CTRL.ports and, for UDP, the port's address let PTP run on a port (R96). -/
def State.ptpOn (s : State) (p : Fin 2) (l2 : Bool) : Bool :=
  s.isReady rdTime && (fld s.time.ctrl 26 25).testBit p.val && (l2 || (if p.val = 0 then s.host.ip0 else s.host.ip1) != 0)

/-- The state of a port in a slot by the best master clock algorithm (R96; log entry 7); a standby is never master (R369). -/
def State.ptpPort (s : State) (n p : Fin 2) : PtpPort :=
  let w := s.time.domain[n]
  if !bitAt w 31 || !s.ptpOn p (bitAt w 29) then .disabled
  else if s.isGm n then
    (match s.time.slots[n].best p with
      | some h => if betterSet h.ds s.time.ownSet ∨ s.isStandby = true then .passive else .master
      | none => if s.isStandby then .passive else .master)
  else match s.time.slots[n].parent with
  | none => .listening
  | some (b, m) =>
    if b = p then .slave
    else match s.time.slots[n].best p with
      | some h => if h.ds.identity = m.ds.identity ∨ s.isStandby = true then .passive else .master
      | none => if s.isStandby then .passive else .master

/-- The slot of a PTP message (R96, R108). -/
def State.slotOf (s : State) (m : PtpMsg) : Option (Fin 2) :=
  let hit := fun (n : Fin 2) =>
    let w := s.time.domain[n]
    bitAt w 31 && fld w 15 8 == m.domain.toNat && fld w 7 0 == m.minorSdo.toNat && m.majorSdo == 0 && bitAt w 29 == m.l2
  if hit 0 then some 0 else if hit 1 then some 1 else none

/-- The servo of a slot after one measurement (non-selected slots measure too): 16 in a row within the lock criterion
of their running mean lock the slot. -/
def SlotServo.take (v : SlotServo) (d : Int) (lock now : Nat) : SlotServo :=
  let near := v.run == 0 || decide ((d - v.mean).natAbs ≤ lock)
  let run := if near then v.run + 1 else 1
  let mean := if near then v.mean + (d - v.mean) / (run : Int) else d
  let locked := decide (16 ≤ run)
  { v with offset := some d, mean := mean, run := run, locked := locked, lastSync := now
           restarted := v.restarted && !locked
           lockedAt := if locked then (if v.locked then v.lockedAt else some now) else none }

/-- The external latencies of TB_PCORR in twentieths of a nanosecond (R102). -/
def pcorrIn (w : Word) : Int := 5 * sgn 16 (fld w 15 0)
def pcorrOut (w : Word) : Int := 5 * sgn 16 (fld w 31 16)

/-- The cable-side time of a frame detected on a host port: the internal 3.2 ns and TB_PCORR are subtracted (R102). -/
def State.hostIn (s : State) (p : Fin 2) (frac : Nat) : Int :=
  20 * (s.time.cellNs : Int) + frac - 64 - pcorrIn s.time.pcorr[(⟨p.val, by omega⟩ : Fin 10)]

/-- The cable-side time of a frame sent on a host port now: the internal 2.6 ns and TB_PCORR are added (R102). -/
def State.hostOut (s : State) (p : Fin 2) : Int :=
  20 * (s.time.cellNs : Int) + 52 + pcorrOut s.time.pcorr[(⟨p.val, by omega⟩ : Fin 10)]

/-- One slot's servo replaced. -/
def State.setPtpSlot (s : State) (n : Fin 2) (v : SlotServo) : State :=
  s.setTime { s.time with slots := s.time.slots.set n v }

/-- The path delay that a slot's measurements on a port use: the peer delay, or that of the delay request exchange (R96). -/
def State.pathDelay (s : State) (n p : Fin 2) : Int :=
  if bitAt s.time.domain[n] 30 then s.time.slots[n].peers[p].delay else s.time.slots[n].delay

/-- One measurement of a slot from a Sync's origin and arrival: the offset of its domain's time from cell time. The slot in use
steers the time base, but for a standby, which follows the active device (R94, R107), and for a restarted servo until it has
locked (R108). -/
def State.syncDone (s : State) (n p : Fin 2) (t1 t2 : Int) : State :=
  let d := (t1 + s.pathDelay n p - t2) / 20
  let v := { s.time.slots[n].take d s.time.lockNs s.now with syncAt := none, syncPair := some (t1, t2) }
  let s := s.setPtpSlot n v
  if s.time.source ≠ 1 ∨ n ≠ s.time.curSlot ∨ s.followsPair = true then s
  else match s.time.state with
    | .freerun | .holdover => if v.restarted then s else (s.tbEnter .acquire).measure d
    | _ => s.measure d

/-- Send a PTP message of a slot on a port (R96). -/
def State.ptpOut (s : State) (n p : Fin 2) (m : PtpOut) : State := s.emit (.ptp p.val s.time.domain[n] m)

/-- The time of a slot's domain less cell time, in twentieths: 0 for the slot in use. -/
def State.domainOfs (s : State) (n : Fin 2) : Int :=
  if n = s.time.curSlot then 0 else 20 * s.time.slots[n].offset.getD 0

/-- An Announce message: the foreign master that sent it is noted on the port, and TB_UTC follows the master of the slot in use
(R96, R108). -/
def State.takeAnnounce (s : State) (n p : Fin 2) (source : BitVec 80) (ds : PtpDataset) (utc : Int) (valid : Bool) : State :=
  let v := s.time.slots[n]
  let again := match v.heard[p].find? (·.source == source) with
    | some o => o.qual || decide (s.now < o.at_ + 4000000000)
    | none => false
  let v := { v with
    heard := v.heard.set p (v.heard[p].filter (·.source != source) ++ [⟨ds, s.now, source, again⟩])
    lastSync := if v.parent.isNone then s.now else v.lastSync }
  let s := s.setPtpSlot n v
  let mine := match v.best p with
    | some b => b.source == source
    | none => false
  if decide (n = s.time.curSlot) && mine && s.ptpPort n p == .slave then
    s.setTime { s.time with utc := setFld (setFld s.time.utc 16 16 (b2n valid)) 15 0 (i32 utc).toNat }
  else s

/-- PTP_MESSAGE (R94 to R99): Announce and Sync, both delay mechanisms, as slave and as master. A slave port takes the Sync,
Follow_Up and Delay_Resp messages of its own master only. -/
def execPtpMessage (port : Fin 2) (m : PtpMsg) (s : State) : Host.Outcome State Fault Refusal :=
  if !s.ptpOn port m.l2 then .next s
  else if m.kind = .unsupported then .next (s.setTime { s.time with ptpDiscarded := s.time.ptpDiscarded + 1 })
  else match s.slotOf m with
  | none => .next s
  | some n =>
    let v := s.time.slots[n]
    let p2p := bitAt s.time.domain[n] 30
    let role := s.ptpPort n port
    let mine := match v.best port with
      | some b => b.source == m.source
      | none => false
    let t := s.hostIn port m.frac.val
    let z := v.peers[port]
    match m.kind with
    | .unsupported => .next s
    | .announce ds utc valid => .next (s.takeAnnounce n port m.source ds utc valid)
    | .sync seq origin =>
      if role ≠ .slave ∨ mine = false then .next s
      else match origin with
        | some t1 => .next (s.syncDone n port t1 t)
        | none => .next (s.setPtpSlot n { v with syncAt := some (seq, t) })
    | .followUp seq t1 =>
      match v.syncAt with
      | some (q, t2) => .next (if role = .slave ∧ mine = true ∧ q = seq then s.syncDone n port t1 t2 else s)
      | none => .next s
    | .delayReq seq =>
      .next (if role = .master ∧ p2p = false then s.ptpOut n port (.delayResp seq (t + s.domainOfs n)) else s)
    | .delayResp seq t4 =>
      match v.reqAt, v.syncPair with
      | some (q, t3), some (t1, t2) =>
        .next (if role = .slave ∧ mine = true ∧ q = seq ∧ p2p = false then
          s.setPtpSlot n { v with reqAt := none, delay := ((t2 - t1) + (t4 - t3)) / 2 } else s)
      | _, _ => .next s
    | .pdelayReq seq =>
      if p2p then
        let s := s.ptpOut n port (.pdelayResp seq t)
        .next (s.ptpOut n port (.pdelayFollowUp seq (s.hostOut port)))
      else .next s
    | .pdelayResp seq t2 =>
      match z.sent with
      | some (q, _) => .next (if p2p = true ∧ q = seq then
          s.setPtpSlot n { v with peers := v.peers.set port { z with resp := some (t2, t) } } else s)
      | none => .next s
    | .pdelayRespOneStep seq turn =>
      match z.sent with
      | some (q, t1) => .next (if p2p = true ∧ q = seq then
          s.setPtpSlot n { v with peers := v.peers.set port { delay := ((t - t1) - turn) / 2 } } else s)
      | none => .next s
    | .pdelayFollowUp seq t3 =>
      match z.sent, z.resp with
      | some (q, t1), some (t2, t4) => .next (if p2p = true ∧ q = seq then
          s.setPtpSlot n { v with peers := v.peers.set port { delay := ((t4 - t1) - (t3 - t2)) / 2 } } else s)
      | _, _ => .next s

/-- The interval in ns of a logarithmic rate of −7 to 3 in two's complement. -/
def logInterval (code : Nat) : Nat := if code < 8 then 1000000000 * 2 ^ code else 1000000000 / 2 ^ (16 - code)

/-- What one port sends in a slot at the present instant: as master Announce each second and a two-step Sync at log_sync, as
slave Delay_Req at log_delay, and in the peer-to-peer profile Pdelay_Req at log_delay (R96, R108). The phase of the intervals is a
DESIGN CHOICE (log entry 7): multiples of the interval in elapsed time. -/
def State.ptpSend (s : State) (n p : Fin 2) : State :=
  let w := s.time.domain[n]
  let role := s.ptpPort n p
  let v := s.time.slots[n]
  let due := fun (ns : Nat) => s.now % ns == 0
  let seq := v.txSeq + 1
  let used := { v with txSeq := seq }
  if role = .disabled then s
  else
    let s := if decide (role = .master) && due 1000000000 then
        let ds := match v.parent with
          | some (_, m) => if s.isGm n then s.time.ownSet else { m.ds with stepsRemoved := m.ds.stepsRemoved + 1 }
          | none => s.time.ownSet
        s.ptpOut n p (.announce ds (sgn 16 (fld s.time.utc 15 0)) (bitAt s.time.utc 16))
      else s
    let s := if decide (role = .master) && due (logInterval (fld w 23 20)) then
        ((s.setPtpSlot n used).ptpOut n p (.sync seq)).ptpOut n p (.followUp seq (s.hostOut p + s.domainOfs n))
      else s
    if !due (logInterval (fld w 19 16)) then s
    else if bitAt w 30 then
      (s.setPtpSlot n { used with peers := v.peers.set p { v.peers[p] with sent := some (seq, s.hostOut p), resp := none } }).ptpOut
        n p (.pdelayReq seq)
    else if role = .slave then
      (s.setPtpSlot n { used with reqAt := some (seq, s.hostOut p) }).ptpOut n p (.delayReq seq)
    else s

/-- What PTP sends at the present instant; every interval is a multiple of 1/128 s (R96). -/
def State.ptpSends (s : State) : State :=
  if s.now % 7812500 ≠ 0 then s
  else (((s.ptpSend 0 0).ptpSend 0 1).ptpSend 1 0).ptpSend 1 1

/-- An automatic switch to a slot is allowed: it is locked and within ±20 ns of cell time (R100). -/
def TimeSt.maySwitch (t : TimeSt) (n : Fin 2) : Bool :=
  t.slots[n].locked && (match t.slots[n].offset with
    | some d => decide (d.natAbs ≤ 20)
    | none => false)

/-- What a slot has heard within the announce receipt timeout of 3 × 1 s. -/
def SlotServo.fresh (v : SlotServo) (now : Nat) : SlotServo :=
  { v with heard := v.heard.map (fun l => l.filter (fun x => decide (now < x.at_ + 3000000000))) }

/-- A slot without a reference: its announce receipt timeout has expired, or 8 Sync intervals have passed without a Sync (R94). While
another port still hears a master, that master takes over within the slot. -/
def State.slotLost (s : State) (n : Fin 2) : Bool :=
  let v := s.time.slots[n]
  (v.fresh s.now).parent.isNone || decide (v.lastSync + 8 * logInterval (fld s.time.domain[n] 23 20) ≤ s.now)

/-- The servo of a lost slot starts again; it keeps the masters that it still hears. -/
def SlotServo.silent (v : SlotServo) (now : Nat) : SlotServo :=
  let w := v.fresh now
  { heard := w.heard, listenFrom := if v.parent.isSome && w.parent.isNone then now else v.listenFrom
    lastSync := v.lastSync, restarted := v.restarted, txSeq := v.txSeq }

/-- PTP_SLOT_LOSS (R94, R99, R100): with automatic selection the other slot is used if R100 allows it. A standby's loss acts once the
device no longer follows its partner (R107). -/
def execPtpSlotLoss (slot : Fin 2) (s : State) : Host.Outcome State Fault Refusal :=
  let v := s.time.slots[slot]
  if !s.slotLost slot then .next (s.setPtpSlot slot (v.fresh s.now))
  else
    let s := s.setPtpSlot slot (v.silent s.now)
    if s.time.source ≠ 1 ∨ slot ≠ s.time.curSlot ∨ s.followsPair = true ∨ s.time.switchTo.isSome = true then .next s
    else if s.time.select = 2 ∧ s.time.maySwitch (1 - slot) = true then
      .next (s.setTime { s.time with switchTo := some (1 - slot, s.nextPlan) })
    else .next s.tbLost

/-- SLOT_SWITCH (R100): at the planning tick boundary, if the new slot still qualifies; its offset is slewed out. Otherwise a slot
in use that is lost is a lost reference. -/
def execSlotSwitch (s : State) : Host.Outcome State Fault Refusal :=
  match s.time.switchTo with
  | none => .next s
  | some (n, b) =>
    if s.time.cellNs < b then .next s
    else
      let ok := s.time.maySwitch n
      let s := s.setTime { s.time with switchTo := none }
      if ok then
        let s := s.setTime { s.time with curSlot := n, slew := s.time.slots[n].offset.getD 0 }
        .next (s.notice .slotSwitch n.val 0)
      else if s.slotLost s.time.curSlot then .next s.tbLost
      else .next s

/-- SLOT0_RETURN (R99): slot 0 has been locked for 60 s without a break. DESIGN CHOICE (log entry 27): so also in a HOLDOVER that the
loss of slot 1 began, which R100 ends by the return of the lost slot or a selection of the host, and R99 by this return. -/
def execSlot0Return (s : State) : Host.Outcome State Fault Refusal :=
  let long := match s.time.slots[(0 : Fin 2)].lockedAt with
    | some t => decide (t + 60000000000 ≤ s.now)
    | none => false
  if s.time.source == 1 && s.time.select == 2 && decide (s.time.curSlot = 1) && long && s.time.maySwitch 0 &&
      s.time.switchTo.isNone && !s.followsPair then
    .next (s.setTime { s.time with switchTo := some (0, s.nextPlan) })
  else .next s

/-! ### SYNC_IN, SYNC_OUT (R103 to R105) -/

/-- The distance of cell time from the nearest whole second, signed. -/
def ppsOffset (cellNs : Nat) : Int :=
  let r := cellNs % 1000000000
  if r ≤ 500000000 then r else (r : Int) - 1000000000

/-- SYNC_IN_EDGE (R104, R105): the capture, and with source 2 the offset measurement of an accepted edge; a standby follows the
active device and only captures (R107). -/
def execSyncInEdge (falling : Bool) (s : State) : Host.Outcome State Fault Refusal :=
  if !s.isReady rdTime || s.time.syncInEdge != falling then .next s
  else
    let s := s.setTime { s.time with captures := s.time.captures + 1, syncIn := BitVec.ofNat 64 s.stamp }
    if s.time.source ≠ 2 then .next s
    else
      let follows := s.followsPair
      let o := ppsOffset s.time.cellNs
      if 1000000 < o.natAbs then .next (s.setTime { s.time with rejects := satN 255 (s.time.rejects + 1) })
      else if follows then .next (s.setTime { s.time with lastPps := some s.now })
      else
        let first := decide (s.time.state = .freerun) || decide (s.time.state = .holdover)
        let s := if first then s.tbEnter .acquire else s
        let s := s.setTime { s.time with lastPps := some s.now }
        let fresh := first && !s.cellOn
        let t := s.measure (-o)
        if fresh then .next (t.setTime { t.time with cellNs := moveCell s.time.cellNs (-o), slew := 0, skipped := false })
        else .next t

/-- PPS_LOSS (R94): 3 s without an accepted edge; a standby follows its partner instead (R107). -/
def execPpsLoss (s : State) : Host.Outcome State Fault Refusal :=
  match s.time.lastPps with
  | some t => if s.time.source = 2 ∧ s.followsPair = false ∧ t + 3000000000 ≤ s.now then
      .next ((s.setTime { s.time with lastPps := none }).tbLost) else .next s
  | none => .next s

/-- SYNC_OUT_EDGE (R103): SYNC_OUT rises for min(width, period / 2) ns of cell time; only the active device of a twin drives
it. -/
def execSyncOutEdge (s : State) : Host.Outcome State Fault Refusal :=
  let per := s.time.outPer.toNat
  let ofs := s.time.outOfs.toNat
  if !s.isReady rdTime || per == 0 || !s.drivesSync then .next s
  else if s.time.cellNs % 1000000000 % per ≠ ofs ∧ (s.time.skipped = false ∨ (s.time.cellNs - 1) % 1000000000 % per ≠ ofs) then
    .next s
  else .next (s.setTime { s.time with outLeft := min s.time.outW.toNat (per / 2) })

/-- A write of TB_CTRL.source (R94): a change between 1 and 2 keeps the frequency correction and the lock history. -/
def State.setSource (s : State) (src : Nat) : State :=
  let old := s.time.source
  let s := s.setTime { s.time with ctrl := setFld s.time.ctrl 31 30 src }
  if old = src then s
  else
    let s := s.setTime { s.time with lastPps := none, switchTo := none }
    if src = 0 then s.tbEnter .freerun
    else if old = 0 then s
    else match s.time.state with
      | .acquire | .locked => s.tbEnter (if s.time.lockHeld then .holdover else .freerun)
      | _ => s

/-- TB_CTRL_SOURCE (R94, R108): 3 is reserved and changes nothing. -/
def execTbCtrlSource (src : BitVec 2) (s : State) : Host.Outcome State Fault Refusal :=
  if src = 3 then .next s else .next (s.setSource src.toNat)

/-- A TB_DOMAIN word is acceptable beside the other slot's (R108). -/
def domainOk (v other : Word) : Bool :=
  let sy := fld v 23 20
  let de := fld v 19 16
  (sy == 0 || decide (9 ≤ sy)) && (decide (de ≤ 3) || decide (9 ≤ de)) &&
  !(bitAt v 31 && bitAt other 31 && fld v 15 0 == fld other 15 0)

/-- A write of TB_DOMAINn restarts that slot's servo; cell time enters HOLDOVER if the slot is in use, until the slot locks
again (R108). -/
def State.setDomain (s : State) (n : Fin 2) (v : Word) : State :=
  let v := setFld v 28 24 0
  if v = s.time.domain[n] then s
  else
    let s := s.setTime { s.time with domain := s.time.domain.set n v
                                     slots := s.time.slots.set n { listenFrom := s.now, restarted := true } }
    if s.time.source = 1 ∧ n = s.time.curSlot then s.holdOver else s

/-- TB_DOMAIN (R108). -/
def execTbDomain (slot : Fin 2) (v : Word) (s : State) : Host.Outcome State Fault Refusal :=
  if domainOk v s.time.domain[1 - slot] then .next (s.setDomain slot v) else .next s

/-! ### Group 0x8_ -/

/-- The 12-byte time record. -/
def timeRecord (cellNs : Nat) : List Byte :=
  leBytes 6 (cellNs / 1000000000) ++ [0, 0] ++ leBytes 4 (cellNs % 1000000000)

/-- TIME_READ (R82, R92): payload and results describe the same instant. -/
def execTimeRead (q : Fin 16) (tag : Fin 1024) (s : State) : Host.Outcome State Fault Refusal :=
  .next (s.startPkt q tag 0x80 (fun p t =>
    t.finishOk p (w32 t.stamp) (w32 (t.stamp / 2 ^ 32)) (timeRecord t.time.cellNs)))

/-- The order-14 checks of TIME_SET (R82). -/
def State.timeSetCheck (s : State) (p : Pkt) : Option Verdict :=
  if s.cellOn || s.time.source == 1 then some busy
  else if p.payload.length ≠ 12 then some (badAt 0)
  else if !zeroed p.payload 6 2 then some (badAt 6)
  else if 999999999 < u32 p.payload 8 then some (badAt 8)
  else none

/-- TIME_SET (R82, R94): cell time is set and the time base is FREERUN without a lock. -/
def execTimeSet (q : Fin 16) (tag : Fin 1024) (s : State) : Host.Outcome State Fault Refusal :=
  .next (s.startPkt q tag 0x81 (fun p t =>
    match t.timeSetCheck p with
    | some v => t.finish p v
    | none =>
      let ns := leAt p.payload 0 6 * 1000000000 + u32 p.payload 8
      let t := (t.tbEnter .freerun)
      (t.setTime { t.time with cellNs := ns, lockHeld := false, slew := 0, skipped := false }).finishOk p))

/-- A host selection of a slot: the named slot is used whatever its offset (R98), which R95 removes; a slot without a
reference is a lost one (R94; log entry 5). DESIGN CHOICE (log entry 27): in ACQUIRE the count of 16 measurements goes on over a
change of slot, since R94 names no such end of it. -/
def State.useSlot (s : State) (n : Fin 2) : State :=
  let old := s.time.curSlot
  let s := s.setTime { s.time with curSlot := n, switchTo := none }
  let s := if old = n then s else s.notice .slotSwitch n.val 0
  if s.time.source ≠ 1 ∨ s.followsPair = true then s
  else if s.slotLost n then s.tbLost
  else if old = n then s
  else match s.time.state with
    | .locked | .acquire => s.correctPhase (s.time.slots[n].offset.getD 0)
    | _ => s

/-- TB_CTRL.select written (R98, R99): automatic selection goes to slot 0 where that is locked and R100 allows it. -/
def State.setSelect (s : State) (v : Nat) : State :=
  let s := s.setTime { s.time with ctrl := setFld s.time.ctrl 29 28 v }
  if v = 0 then s.useSlot 0
  else if v = 1 then s.useSlot 1
  else if s.time.source == 1 && decide (s.time.curSlot = 1) && s.time.maySwitch 0 && !s.followsPair && s.time.switchTo.isNone then
    s.setTime { s.time with switchTo := some (0, s.nextPlan) }
  else s

/-- PTP_SELECT (R98, R99): result word 0 is the slot in use. -/
def execPtpSelect (q : Fin 16) (tag : Fin 1024) (s : State) : Host.Outcome State Fault Refusal :=
  .next (s.startPkt q tag 0x82 (fun p t =>
    if 2 < p.p0.toNat then t.finish p (badAt atP0)
    else
      let t := t.setSelect p.p0.toNat
      t.finishOk p (w32 t.time.curSlot.val)))

/-- The period and offset rules of SYNC_OUT (R103). -/
def syncOutCheck (per ofs : Nat) : Option Verdict :=
  if per = 0 then none
  else if per < 1000 ∨ 1000000000 % per ≠ 0 then some (badAt atP0)
  else if per ≤ ofs then some (badAt atP1)
  else none

/-- SYNC_OUT_CFG (R82, R103). DEDUCED (log entry 52): passed on to the standby, it stores the period and the offset there too,
since either device may come to drive the edge. -/
def execSyncOutCfg (q : Fin 16) (tag : Fin 1024) (s : State) : Host.Outcome State Fault Refusal :=
  .next (s.startPkt q tag 0x83 (fun p t =>
    match syncOutCheck p.p0.toNat p.p1.toNat with
    | some v => t.finish p v
    | none => (t.setTime { t.time with outPer := p.p0, outOfs := p.p1 }).syncOutLow.finishOk p))

/-- SYNC_IN_READ (R104): the last capture. -/
def execSyncInRead (q : Fin 16) (tag : Fin 1024) (s : State) : Host.Outcome State Fault Refusal :=
  .next (s.startPkt q tag 0x84 (fun p t =>
    t.finishOk p (w32 t.time.syncIn.toNat) (w32 (t.time.syncIn.toNat / 2 ^ 32))))

end Sys2Proof.Machine
end

