-- ==== Sys2Proof/Machine/Ring.lean ====
section
/-! DEFINITION. The Ocnel ring (05_ocnel_ring.md): start-up (R141 to R145), the classification and removal of nodes
(R133 to R137), device output frames with their service frames, ranging rounds, breaks (R146), changes to a running
ring (R149, R150), and group 0x9_. -/

namespace Sys2Proof.Machine

/-! ### Nodes of a ring -/

/-- Insert a (hop, index, record) triple in hop order. -/
def insertHop (a : Nat × Nat × NodeRec) : List (Nat × Nat × NodeRec) → List (Nat × Nat × NodeRec)
  | [] => [a]
  | b :: r => if a.1 ≤ b.1 then a :: b :: r else b :: insertHop a r

/-- The nodes of a ring of a cell, ascending in hop: hop, record index, record. -/
def Cell.hops (c : Cell) (r : Nat) : List (Nat × Nat × NodeRec) :=
  ((c.ringNodes r).map (fun n => (n.2.hop, n.1, n.2))).foldr insertHop []

/-- The hop of device 1: one above the highest node hop (R110). -/
def Cell.partnerHop (c : Cell) (r : Nat) : Nat := maxOf ((c.hops r).map (·.1)) + 1

/-- A cell uses a ring. -/
def Cell.usesRing (c : Cell) (r : Nat) : Bool := c.nodes.any (fun n => n.ring == r)

/-- What the device keeps of a hop. -/
def RingSt.hop (x : RingSt) (h : Nat) : NodeSt := mget {} x.nodes h
/-- A hop replaced. -/
def RingSt.putHop (x : RingSt) (h : Nat) (n : NodeSt) : RingSt := { x with nodes := mput {} x.nodes h n }
def State.putHop (s : State) (r : Fin 4) (h : Nat) (n : NodeSt) : State := s.setRing r (s.rings[r].putHop h n)

/-- The start-up window in ns (RG_CTRL.sw_ms). -/
def State.windowNs (s : State) : Nat := fld s.rgCtrl 15 8 * 1000000

/-- The device is one of two devices of a twin cell. -/
def State.twinMode (s : State) : Bool := s.theCell.mode == 1

/-- The numbers of the states of a ring and of a node. -/
def RingState.code : RingState → Nat
  | .down => 0 | .listen => 1 | .coldstart => 2 | .backoff => 3 | .ranging => 4 | .config => 5 | .run => 6
def NodeState.code : NodeState → Nat
  | .absent => 0 | .ranging => 1 | .config => 2 | .run => 3 | .rerange => 4 | .removed => 5 | .mismatch => 6 | .readmit => 7

/-! ### Frames and lanes (R112 to R114, R119, R125)

Channel A leaves every device by its lane A and channel B by its lane B. -/

/-- A lane of a ring as a port of page 0x0200: 2 + 2r for lane A, 3 + 2r for lane B. -/
def lanePort (r : Fin 4) (laneB : Bool) : Fin 10 := ⟨2 + 2 * r.val + b2n laneB, by cases laneB <;> simp [b2n] <;> omega⟩

/-- The bytes of a lane's address in the boot configuration (R114, R401). -/
def State.laneBytes (s : State) (r : Fin 4) (laneB : Bool) : List Byte :=
  slice (wordBytes s.sys.bcfg) (16 + 6 * (lanePort r laneB).val) 6

/-- The destination address of a ring's frames (R114). -/
def ringDst (r : Fin 4) : List Byte := [0x03, 0x4F, 0x43, 0x00, 0x00, BitVec.ofNat 8 r.val]

/-- The EtherType of ring frames, most significant byte first. -/
def State.etherBytes (s : State) : List Byte := [BitVec.ofNat 8 (fld s.rgCtrl 31 24), BitVec.ofNat 8 (fld s.rgCtrl 23 16)]

/-- This device is device 1 of a twin cell: a participant that is no channel head (R110, R112). -/
def State.ringMember (s : State) : Bool := s.twinMode && s.twin.twinId

/-- This device's hop (R109, R110). -/
def State.ownHop (s : State) (r : Fin 4) : Nat := if s.ringMember then s.theCell.partnerHop r.val else 0

/-- The variable fields of the Ocnel header of a frame that the device sends (R114). -/
structure HdrFields where
  type  : Nat
  mgmt  : Nat := 0
  seq   : Word
  /-- Bytes 8–15: the head time, or turn. -/
  time  : Nat
  phase : Nat
  aux   : Nat := 0
  gen   : Nat
  deriving DecidableEq, Repr

/-- A frame from the destination address to the padding (R114). -/
def State.ringBytes (s : State) (r : Fin 4) (laneB : Bool) (f : HdrFields) (payload : List Byte) : List Byte :=
  let hdr := leBytes 1 (0x10 + f.type) ++ leBytes 1 (b2n laneB + 2 * r.val + 32 * f.mgmt) ++ leBytes 1 (s.ownHop r) ++ [0] ++
    leBytes 4 f.seq.toNat ++ leBytes 8 f.time ++ leBytes 2 payload.length ++ leBytes 1 f.phase ++ leBytes 1 f.aux ++ leBytes 2 f.gen
  let body := hdr ++ leBytes 4 (crc32c hdr) ++ payload
  ringDst r ++ s.laneBytes r laneB ++ s.etherBytes ++ body ++ List.replicate (46 - body.length) 0

/-- The cable-side departure of a frame that leaves a lane of this device at a cell time, in twentieths: the internal 18.0 ns and
TB_PCORR are added (R102). -/
def State.laneOut (s : State) (r : Fin 4) (laneB : Bool) (t : Nat) : Int :=
  20 * (t : Int) + 360 + pcorrOut s.time.pcorr[lanePort r laneB]

/-- A frame leaves a lane at a cell time; the departures of device copies are kept for ranging (R127). -/
def State.ringEmit (s : State) (r : Fin 4) (laneB : Bool) (at_ : Nat) (bs : List Byte) : State :=
  let x := s.rings[r]
  let dep := s.laneOut r laneB at_
  let x := if 2 < byteAt bs 14 % 16 then x
    else if laneB then { x with sentB := (dep :: x.sentB).take 8 } else { x with sentA := (dep :: x.sentA).take 8 }
  (s.setRing r x).emit (.ringFrame r.val laneB at_ bs)

/-- A frame is sent at a cell time, at once or when that instant comes. -/
def State.ringSendAt (s : State) (r : Fin 4) (laneB : Bool) (at_ : Nat) (bs : List Byte) : State :=
  if at_ ≤ s.stamp then s.ringEmit r laneB at_ bs
  else s.setRing r { s.rings[r] with sends := s.rings[r].sends ++ [(at_, laneB, bs)] }

/-- The delay in quarter nanoseconds from the head of a channel to this device's own position: 0 at the heads; for device 1 as
ranged, else as planned (R119, log entry 32). -/
def State.ownDelay (s : State) (r : Fin 4) (chB : Bool) : Nat :=
  if s.ringMember then ((if chB then s.rings[r].ownB else s.rings[r].ownA).getD (4 * s.cell.placement.rings[r].lPlan)) else 0

/-- Send a DATA, NULL or SERVICE frame of a slot with head time `head`: one copy on each channel, at head time + δ of the device's
own position (R113, R119, R125). -/
def State.sendCopies (s : State) (r : Fin 4) (f : HdrFields) (payload : List Byte) : State :=
  [false, true].foldl (fun s b => s.ringSendAt r b (f.time + s.ownDelay r b / 4) (s.ringBytes r b f payload)) s

/-- Send a start-up frame from a lane now; its time field is the present stamp (log entry 32). -/
def State.sendStart (s : State) (r : Fin 4) (laneB : Bool) (type aux : Nat) (payload : List Byte) : State :=
  let seq := s.seqNo
  s.ringEmit r laneB s.stamp (s.ringBytes r laneB ⟨type, 0, w32 seq, s.stamp, seq % s.phaseCount, aux, s.rings[r].gen.toNat⟩ payload)

/-- The cable-side time of a start of frame detected on a ring lane now: the internal 26.0 ns and TB_PCORR are subtracted (R102). -/
def State.laneIn (s : State) (r : Fin 4) (laneB : Bool) (frac : Nat) : Int :=
  20 * (s.stamp : Int) + frac - 520 - pcorrIn s.time.pcorr[lanePort r laneB]

/-! ### Configuration records (R130) -/

/-- The RING record of a ring. -/
def State.ringRecord (s : State) (c : Cell) (p : Placement) (r : Fin 4) : List Byte :=
  let t := servoNs c.servoCode
  [0xFF, 1] ++ leBytes 2 (fld s.rings[r].rcfg 31 20) ++ leBytes 4 t ++ leBytes 4 (fld s.rings[r].rcfg 19 0) ++
    leBytes 1 (1000000 / t) ++ leBytes 1 p.rings[r].adv ++ [0, 0]

/-- The phases of a node in a placement; empty when it speaks every servo cycle. -/
def Placement.phasesOf (p : Placement) (n : Nat) : List Nat :=
  match p.nodes.find? (fun x => x.node == n) with
  | some x => x.phases.map (·.1)
  | none => []

/-- The nodes whose outputs the device payload of a phase carries, in payload order: first those that speak every servo
cycle, then those of the phase, each ascending in record index (log entry 31). -/
def outputOrder (c : Cell) (p : Placement) (r phase : Nat) : List (Nat × NodeRec) :=
  let ns := c.ringNodes r
  ns.filter (fun n => (p.phasesOf n.1).isEmpty) ++ ns.filter (fun n => (p.phasesOf n.1).contains phase)

/-- Offset of a node's outputs in the device payload of a phase. -/
def outputOffset (c : Cell) (p : Placement) (r phase n : Nat) : Nat :=
  (((outputOrder c p r phase).takeWhile (fun x => x.1 != n)).map (fun x => x.2.outBytes)).sum

/-- The SLOT records of a node: one, or one for each phase where its starts or its places in the payload differ; wd_cycles 0 selects
3 (R16). -/
def slotRecords (c : Cell) (p : Placement) (n : Nat) (rec : NodeRec) : List (List Byte) :=
  match p.nodes.find? (fun x => x.node == n) with
  | none => []
  | some x =>
    let bytes := fun (phase step start : Nat) =>
      leBytes 1 rec.hop ++ [2] ++ leBytes 1 phase ++ leBytes 1 step ++ leBytes 4 start ++
        leBytes 2 (outputOffset c p rec.ring (if phase = 255 then 0 else phase) n) ++ leBytes 2 rec.outBytes ++
        leBytes 2 rec.inBytes ++ leBytes 1 (if rec.wdCycles = 0 then 3 else rec.wdCycles) ++ leBytes 1 rec.reaction
    match x.phases with
    | [] => [bytes 255 0 x.start]
    | f :: rest =>
      let place := fun (e : Nat × Nat) => (e.2, outputOffset c p rec.ring e.1 n)
      if rest.all (fun e => place e == place f) then
        [bytes f.1 (match rest with | [] => 0 | g :: _ => g.1 - f.1) f.2]
      else (f :: rest).map (fun e => bytes e.1 0 e.2)

/-- The DELAY record of a hop. -/
def delayRecord (h : Nat) (n : NodeSt) : List Byte :=
  leBytes 1 h ++ [3, 0, 0] ++ leBytes 4 (n.delA.getD 0xFFFFFFFF) ++ leBytes 4 (n.delB.getD 0xFFFFFFFF) ++ [0, 0, 0, 0]

/-- The ACTIVATE record of a generation and a boundary. -/
def activateRecord (gen : Word) (at_ : Nat) : List Byte :=
  [0xFF, 4] ++ leBytes 2 gen.toNat ++ leBytes 8 at_ ++ [0, 0, 0, 0]

/-- The SLOT record of device 1, whose slot follows device 0's (R120; log entry 32). -/
def partnerSlot (c : Cell) (p : Placement) (r : Fin 4) : List (List Byte) :=
  if c.mode = 1 then
    [leBytes 1 (c.partnerHop r.val) ++ [2, 0xFF, 0] ++ leBytes 4 (p.rings[r].sOut + p.rings[r].outLen) ++ List.replicate 8 0]
  else []

/-- RING and SLOT records of a ring. -/
def State.scheduleRecords (s : State) (c : Cell) (p : Placement) (r : Fin 4) : List (List Byte) :=
  s.ringRecord c p r :: (c.hops r.val).flatMap (fun h => slotRecords c p h.2.1 h.2.2) ++ partnerSlot c p r

/-- Queue records of a generation for the SERVICE frames, each to be sent twice (R131). -/
def RingSt.queueRecords (x : RingSt) (gen : Word) (rs : List (List Byte)) : RingSt :=
  { x with records := x.records ++ rs.map (fun b => (2, gen.toNat % 65536, b)) }

/-- CONFIG frames of up to 87 records (R145). -/
def configFrames : Nat → List (List Byte) → List (List (List Byte))
  | 0, _ => []
  | n + 1, rs => if rs.isEmpty then [] else rs.take 87 :: configFrames n (rs.drop 87)

/-! ### Start-up (R141 to R145) -/

/-- A ring goes down; a fault is reported with its cause (R141). -/
def State.ringDown (s : State) (r : Fin 4) (k : Option NoticeKind) (b : Nat) : State :=
  let x := s.rings[r]
  let s := s.setRing r { x with
    state := .down, activateAt := none, mgmt := [], records := [], configQ := [], sends := [], serviceAt := none
    broken := false, breakHop := 0xFF, head := false, partner := false
    nodes := x.nodes.map (fun e => (e.1, { e.2 with state := .absent, data := none })) }
  match k with
  | some k => s.notice k r.val b
  | none => s

/-- DOWN to LISTEN at the activation of a cell that uses the ring (R141). -/
def State.ringListen (s : State) (r : Fin 4) : State :=
  if s.isReady (rdRing r.val) then
    s.setRing r { s.rings[r] with state := .listen, windowAt := s.now, heard := false, collisions := 0, starter := true
                                  gen := s.cell.generation, mgmt := [], records := [], activateAt := none, hopCount := 0 }
  else s

/-- The hops that a starting device polls, in order: the nodes, then device 1 (R144). -/
def State.pollList (s : State) (r : Fin 4) : List Nat :=
  (s.theCell.hops r.val).map (·.1) ++
    (if s.twinMode && !s.twin.twinId then [s.theCell.partnerHop r.val] else [])

/-- Send the poll that is due: a RANGE_REQ of one hop from one lane (R144). -/
def State.sendPoll (s : State) (r : Fin 4) : State :=
  let x := s.rings[r]
  let s := s.setRing r { x with pollAt := s.now, pollDep := s.laneOut r x.pollB s.stamp }
  s.sendStart r x.pollB 3 x.pollHop []

/-- RANGING begins: counts clear, and a starting device sends its first poll. A hop counter above 254 takes the ring down
(R141). -/
def State.enterRanging (s : State) (r : Fin 4) (starter : Bool) : State :=
  let nodes := (s.theCell.hops r.val).foldl (fun (m : List (Nat × NodeSt)) h =>
    mput {} m h.1 { state := .ranging, node := h.2.1 }) []
  let nodes := if s.twinMode then mput {} nodes (s.theCell.partnerHop r.val) { state := .ranging } else nodes
  let s := s.setRing r { s.rings[r] with
    state := .ranging, starter := starter, nodes := nodes, pollHop := ((s.pollList r).head?).getD 0, pollB := false
    pollConf := false, loopA := 0xFFFFFFFF, loopB := 0xFFFFFFFF, heldA := none, heldB := none, sumA := (0, 0), sumB := (0, 0), slow := false
    heard := false, activateAt := none, ownA := none, ownB := none, slotAt := none, confGen := 0, confKinds := [] }
  if !starter then s
  else if 254 < s.rings[r].hopCount then s.ringDown r (some .ringFailure) 1
  else s.sendPoll r

/-- The next CONFIG frame goes out on both lanes, the following one 20 µs later; after the last each participant is polled
once (R145). -/
def State.sendConfig (s : State) (r : Fin 4) : State :=
  let x := s.rings[r]
  match x.configQ with
  | [] => s
  | f :: rest =>
    let s := s.setRing r { x with configQ := rest, configAt := s.now + 20000 }
    let s := (s.sendStart r false 6 f.length f.flatten).sendStart r true 6 f.length f.flatten
    if rest.isEmpty && s.rings[r].activateAt.isNone then s.sendPoll r else s

/-- CONFIG begins, unless a loop delay is above L_plan: records in CONFIG frames, then one poll of each hop (R145). -/
def State.enterConfig (s : State) (r : Fin 4) : State :=
  let x := s.rings[r]
  let lim := 4 * s.cell.placement.rings[r].lPlan
  let tooLong := fun (w : Word) => w != 0xFFFFFFFF && decide (lim < w.toNat)
  if tooLong x.loopA || tooLong x.loopB then s.ringDown r (some .ringFailure) 2
  else
    let nodes := x.nodes.map (fun e => (e.1, if e.2.state = .ranging then { e.2 with state := .config } else e.2))
    let recs := s.scheduleRecords s.theCell s.cell.placement r ++ nodes.map (fun e => delayRecord e.1 e.2)
    (s.setRing r { x with
      state := .config, pollConf := true, pollB := false, pollHop := ((s.pollList r).head?).getD 0, nodes := nodes
      configQ := configFrames (recs.length + 1) recs }).sendConfig r

/-- Every hop has been polled for its confirmation: unconfirmed ones are absent, and ACTIVATE names the first planning
tick boundary at least 2 ms ahead (R145). -/
def State.sendActivate (s : State) (r : Fin 4) : State :=
  let x := s.rings[r]
  let at_ := ceilDiv (s.stamp + 2000000) 1000000 * 1000000
  let nodes := x.nodes.map (fun e =>
    (e.1, if e.2.state = .config ∧ e.2.confirmed = false then { e.2 with state := .absent } else e.2))
  (s.setRing r { x with nodes := nodes, activateAt := some at_, configQ := [[activateRecord x.gen at_]] }).sendConfig r

/-- The hop after one in a list. -/
def hopAfter (h : Nat) : List Nat → Option Nat
  | [] => none
  | [_] => none
  | a :: b :: r => if a = h then some b else hopAfter h (b :: r)

/-- The next poll, or the end of the round of polls (R144, R145). -/
def State.nextPoll (s : State) (r : Fin 4) : State :=
  let x := s.rings[r]
  if !x.pollConf && !x.pollB then (s.setRing r { x with pollB := true }).sendPoll r
  else match hopAfter x.pollHop (s.pollList r) with
    | some h => (s.setRing r { x with pollHop := h, pollB := false }).sendPoll r
    | none => if x.pollConf then s.sendActivate r else s.enterConfig r

/-- A COLDSTART frame on both lanes, its hop counter 0; the next is due in 100 µs (R141, R143). -/
def State.sendCold (s : State) (r : Fin 4) : State :=
  ((s.setRing r { s.rings[r] with coldAt := s.now + 100000 }).sendStart r false 5 0 []).sendStart r true 5 0 []

/-- COLDSTART begins (R141). -/
def State.enterCold (s : State) (r : Fin 4) : State :=
  (s.setRing r { s.rings[r] with state := .coldstart, windowAt := s.now }).sendCold r

/-- RING_WINDOW_EXPIRY (R141): a window of LISTEN, COLDSTART or BACKOFF ends. -/
def execRingWindowExpiry (r : Fin 4) (s : State) : Host.Outcome State Fault Refusal :=
  let x := s.rings[r]
  let w := s.windowNs
  match x.state with
  | .listen =>
    if s.now < x.windowAt + w then .next s
    else if x.heard then .next (s.setRing r { x with windowAt := s.now, heard := false })
    else .next (s.enterCold r)
  | .coldstart => if s.now < x.windowAt + w then .next s else .next (s.enterRanging r true)
  | .backoff =>
    if s.ringMember then
      if s.now < x.collidedAt + 3 * w then .next s
      else if x.heard then .next (s.enterRanging r false)
      else .next (s.enterCold r)
    else if s.now < x.collidedAt + w then .next s
    else .next (s.enterCold r)
  | _ => .next s

/-- Frames of another device are heard while the ring is not started (R141). -/
def State.hearDevice (s : State) (r : Fin 4) (coldstart : Bool) : State :=
  let x := s.rings[r]
  match x.state with
  | .listen =>
    if s.twinMode then s.enterRanging r false else s.ringDown r (some .coldstartConflict) 0
  | .coldstart =>
    if !coldstart then s
    else
      let x := { x with state := .backoff, collisions := satN 15 (x.collisions + 1), collidedAt := s.now, heard := false }
      if 8 ≤ x.collisions then (s.setRing r x).ringDown r (some .coldstartConflict) 1 else s.setRing r x
  | .backoff => s.setRing r { x with heard := true }
  | _ => s

/-- Count an error of a ring: field [hi:lo] of RG_ERRCNT. -/
def State.ringError (s : State) (r : Fin 4) (hi lo : Nat) : State :=
  s.setRing r { s.rings[r] with errcnt := bump s.rings[r].errcnt hi lo 1 }

/-- A twin device forwards frames: device 1, and either device while it joins a ring that its partner has started, joins the pair or is
OUT (R112, R142, R372). -/
def State.forwards (s : State) (r : Fin 4) : Bool :=
  let x := s.rings[r]
  s.twin.state != .solo && (s.twin.twinId || s.twin.state == .join || s.twin.state == .out ||
    (!x.starter && (x.state == .ranging || x.state == .config)))

/-- A device that forwards does so cut-through, on channel A a COLDSTART with its hop counter raised by 1 and its header CRC renewed
(R112, R132, R143). -/
def State.ringForward (s : State) (r : Fin 4) (laneB : Bool) (frame : List Byte) : State :=
  if s.forwards r then
    let h := frame.drop 14
    let out_ := if laneB && byteAt h 0 == 0x15 && frame.take 6 == ringDst r then
        let hdr := h.take 19 ++ leBytes 1 (byteAt h 19 + 1) ++ slice h 20 2
        frame.take 14 ++ hdr ++ leBytes 4 (crc32c hdr) ++ h.drop 26
      else frame
    s.emit (.ringFrame r.val (!laneB) s.stamp out_)
  else s

/-- The Ocnel header and payload of a frame that is valid up to its generation (R114, R116); otherwise what is counted: the field
of RG_ERRCNT. -/
def State.ringCheck (s : State) (r : Fin 4) (fcsOk : Bool) (frame : List Byte) : Except (Nat × Nat) (List Byte) :=
  let h := frame.drop 14
  if !fcsOk then .error (31, 24)
  else if frame.take 6 != ringDst r || slice frame 12 2 != s.etherBytes then .error (15, 8)
  else if decide (h.length < 26) || crc32c (h.take 22) != u32 h 22 then .error (31, 24)
  else if byteAt h 0 / 16 ≠ 1 ∨ 6 < byteAt h 0 % 16 ∨ byteAt h 1 / 2 % 4 ≠ r.val then .error (15, 8)
  else .ok h

/-- The frame's source address is a lane of this device on this ring. -/
def State.ownSource (s : State) (r : Fin 4) (frame : List Byte) : Bool :=
  slice frame 6 6 == s.laneBytes r false || slice frame 6 6 == s.laneBytes r true

/-- A COLDSTART frame that arrives: the device's own with its hop counter (R141, R143), or another device's. -/
def State.takeCold (s : State) (r : Fin 4) (own : Bool) (h : List Byte) : State :=
  if !own then s.hearDevice r true
  else if (byteAt h 1).testBit 0 then s
  else
    let s := s.setRing r { s.rings[r] with hopCount := byteAt h 19 }
    if 254 < byteAt h 19 ∧ s.rings[r].state = .ranging then s.ringDown r (some .ringFailure) 1 else s

/-- COLDSTART (R141, R143, R144). -/
def execColdstart (r : Fin 4) (laneB fcsOk : Bool) (frame : List Byte) (s : State) : Host.Outcome State Fault Refusal :=
  let s := s.ringForward r laneB frame
  match s.ringCheck r fcsOk frame with
  | .error e => .next (s.ringError r e.1 e.2)
  | .ok h => .next (if byteAt h 0 % 16 = 5 then s.takeCold r (s.ownSource r frame) h else s)

/-- A reply to the poll under way: δ is half of the round trip less turn (R127, R144), or a confirmation (R145). In LISTEN it is a ring
frame heard (R141). -/
def State.takeRangeRsp (s : State) (r : Fin 4) (arr : Int) (frame h : List Byte) : State :=
  let x := s.rings[r]
  let hop := byteAt h 2
  if x.state = .listen then s.setRing r { x with heard := true }
  else if !x.starter || (decide (x.state ≠ .ranging) && decide (x.state ≠ .config)) || x.activateAt.isSome ||
      !x.configQ.isEmpty || hop != x.pollHop then s
  else
    let n := x.hop hop
    let right := match s.theCell.nodes[n.node]? with
      | some rec => decide (leAt frame 6 6 = rec.mac.toNat)
      | none => true
    let turn : Int := if u32 h 8 = 0xFFFFFFFF then 0 else u32 h 8
    let delay := ((arr - x.pollDep - 5 * turn) / 10).toNat
    let n := if !right then { n with state := .mismatch }
      else if x.pollConf then
        { n with confirmed := n.confirmed || ((byteAt h 19).testBit 3 && u16 h 20 == x.gen.toNat % 65536) }
      else if x.pollB then { n with delB := some delay } else { n with delA := some delay }
    (s.putHop r hop n).nextPoll r

/-- RANGE_RSP (R144, R145). -/
def execRangeRsp (r : Fin 4) (laneB : Bool) (frac : Fin 20) (fcsOk : Bool) (frame : List Byte) (s : State) :
    Host.Outcome State Fault Refusal :=
  let s := s.ringForward r laneB frame
  match s.ringCheck r fcsOk frame with
  | .error e => .next (s.ringError r e.1 e.2)
  | .ok h => .next (if byteAt h 0 % 16 = 4 then s.takeRangeRsp r (s.laneIn r laneB frac.val) frame h else s)

/-- RANGE_POLL_TIMEOUT (R144): 2 × L_plan + 10 µs without a reply; a hop that never replies is absent. Device 1 is polled
again every 100 µs until four windows after the collision. -/
def execRangePollTimeout (r : Fin 4) (s : State) : Host.Outcome State Fault Refusal :=
  let x := s.rings[r]
  let partner := s.twinMode && x.pollHop == s.theCell.partnerHop r.val && !s.twin.twinId
  let again := partner && !x.pollConf && decide (0 < x.collisions) && decide (s.now < x.collidedAt + 4 * s.windowNs)
  let poll := 2 * s.cell.placement.rings[r].lPlan + 10000
  let wait := if again then max 100000 poll else poll
  if !x.starter || (decide (x.state ≠ .ranging) && decide (x.state ≠ .config)) || x.activateAt.isSome ||
      !x.configQ.isEmpty || decide (s.now < x.pollAt + wait) then .next s
  else if again then .next (s.sendPoll r)
  else
    let n := x.hop x.pollHop
    let silent := !x.pollConf && x.pollB && n.delA.isNone && n.delB.isNone && decide (n.state = .ranging)
    .next ((if silent then s.putHop r x.pollHop { n with state := .absent } else s).nextPoll r)

/-- RING_ACTIVATE_BOUNDARY (R145): RUN begins, and the status is reported. -/
def execRingActivateBoundary (r : Fin 4) (s : State) : Host.Outcome State Fault Refusal :=
  let x := s.rings[r]
  match x.activateAt with
  | none => .next s
  | some t =>
    if x.state ≠ .config ∨ s.stamp < t then .next s
    else
      let nodes := x.nodes.map (fun e => (e.1, if e.2.state = .config then { e.2 with state := .run, run := 0 } else e.2))
      .next ((s.setRing r { x with
        state := .run, activateAt := none, collisions := 0, nodes := nodes, adv := s.cell.placement.rings[r].adv
        head := x.starter, missA := 0, missB := 0, backRun := 0, ownData := [], backA := [], backB := [], broken := false, breakHop := 0xFF }).notice .ringRun r.val 0)

/-! ### Node frames (R133 to R137) -/

/-- The rank of a result. -/
def SlotResult.rank : SlotResult → Nat
  | .onTime => 0 | .slotEdge => 1 | .slotLost => 2

/-- The class of a copy by its deviation from its expected arrival, in the unit of the guard (R133). -/
def classify (dev : Int) (g : Nat) : SlotResult :=
  if dev.natAbs ≤ g then .onTime else if dev.natAbs ≤ 2 * g then .slotEdge else .slotLost

/-- The mean of half round trips of a channel, in quarter nanoseconds. -/
def meanTrip (chB : Bool) (l : List (Bool × Nat)) : Option Nat :=
  let v := (l.filter (fun e => e.1 == chB)).map (·.2)
  if v.isEmpty then none else some (v.sum / v.length)

/-- A node takes part in the schedule. -/
def NodeSt.scheduled (n : NodeSt) : Bool := decide (n.state = .run) || decide (n.state = .rerange)

/-- Removal of a node (R137): REMOVE, the notice, its axes and its points. -/
def State.removeNode (s : State) (r : Fin 4) (h : Nat) (result : Nat) : State :=
  let x := s.rings[r]
  let n := x.hop h
  let s := s.setRing r { x.putHop h { n with state := .removed, data := none, result := none, nextReady := false } with
    errcnt := bump x.errcnt 7 0 1 }
  let s := (s.sendMgmt r 1 h).notice .nodeRemoved (256 * r.val + h) result
  match s.theCell.nodes[n.node]? with
  | none => s
  | some rec =>
    let s := s.removePoints n.node
    if rec.kind = 0 then (rec.axisList.take rec.naxes).foldl (fun s a => s.axisFault a 2) s else s

/-- A node is re-ranged from its last 8 cycles (R128, R135): new delays, and a DELAY record in the next SERVICE frame. -/
def RingSt.rerange (x : RingSt) (h : Nat) (st : NodeState) : RingSt :=
  let n := x.hop h
  let trips := (n.recent.take 8).flatten
  let n := { n with state := st, delA := (meanTrip false trips).orElse (fun _ => n.delA)
                    delB := (meanTrip true trips).orElse (fun _ => n.delB) }
  let x := x.putHop h n
  { x with records := (2, x.gen.toNat % 65536, delayRecord h n) :: x.records }

/-- The better of two results (R134). -/
def SlotResult.better (a b : SlotResult) : SlotResult := if a.rank ≤ b.rank then a else b

/-- A node's result for a cycle counts (R134, R135). DESIGN CHOICE (log entry 32): RERANGE ends with the next ON_TIME result, since
R135 names no end of it. -/
def State.countResult (s : State) (r : Fin 4) (h : Nat) (res : SlotResult) : State :=
  let n := s.rings[r].hop h
  match res with
  | .onTime => s.putHop r h { n with run := 0, state := if n.state = .rerange then .run else n.state }
  | _ =>
    let n : NodeSt := { n with
                        run := n.run + 1
                        edge := if res = .slotEdge then satN 0xFFFFFFFF (n.edge + 1) else n.edge
                        lost := if res = .slotLost then satN 0xFFFFFFFF (n.lost + 1) else n.lost }
    let s := s.putHop r h n
    if 16 ≤ n.run then s.removeNode r h res.rank
    else if n.run = 3 then s.setRing r (s.rings[r].rerange h .rerange) else s

/-- A result together with the partner's of the same cycle, where that is known: the better of the two (R134). -/
def NodeSt.agreed (n : NodeSt) (seq : Option Word) (own : SlotResult) : SlotResult :=
  match n.peer with
  | some (q, o) => if seq = some q then own.better o else own
  | none => own

/-- The cycle before the open one counts: the partner's result has come, or is awaited no longer (R134). -/
def State.closePrev (s : State) (r : Fin 4) (h : Nat) : State :=
  let n := s.rings[r].hop h
  match n.prev with
  | none => s
  | some (q, own) => (s.putHop r h { n with prev := none }).countResult r h (n.agreed (some q) own)

/-- A node's result of its open cycle is final: in a pair the better of its own and the partner's, where that is known (R134,
R135). -/
def State.closeCycle (s : State) (r : Fin 4) (h : Nat) : State :=
  let s := s.closePrev r h
  let n := s.rings[r].hop h
  if !n.live then s
  else
    let own := n.result.getD .slotLost
    let tell := if s.twin.state = .paired ∧ n.final = false then n.cycle.map (fun q => (q, own)) else n.own
    (s.putHop r h { n with live := false, own := tell }).countResult r h (n.agreed n.cycle own)

/-- No copy of the open cycle of a node was accepted: its delivery is missed (R133, R295). -/
def State.missOpen (s : State) (r : Fin 4) (h : Nat) : State :=
  let n := s.rings[r].hop h
  match n.cycle with
  | some q => if n.live && n.taken == 0 then (s.putHop r h { n with taken := 4 }).missDelivery n.node q else s
  | none => s

/-- Both copies of a node's frame have come, or their time is over: its own result is known. Alone that closes the cycle; in a
pair the partner's result is waited for until the next but one cycle of the node begins (R134). -/
def State.settleCycle (s : State) (r : Fin 4) (h : Nat) : State :=
  let s := s.missOpen r h
  let n := s.rings[r].hop h
  if !n.live then s
  else
    let own := n.cycle.map (fun q => (q, n.result.getD .slotLost))
    let s := s.putHop r h { n with final := true, own := own }
    if s.twin.state = .paired ∧ n.peer.map (·.1) ≠ n.cycle then s else s.closeCycle r h

/-- A new cycle of a node begins: one that is still open is closed, or in a pair kept for the partner's result, which comes with the
partner's next SUMMARY frame at the latest (R134). -/
def State.newCycle (s : State) (r : Fin 4) (h : Nat) (seq : Word) : State :=
  let s := (s.missOpen r h).closePrev r h
  let n := s.rings[r].hop h
  let s := if decide (s.twin.state = .paired) && n.live && n.peer.map (·.1) != n.cycle then
      let own := n.cycle.map (fun q => (q, n.result.getD .slotLost))
      s.putHop r h { n with live := false, prev := own, own := if n.final then n.own else own }
    else s.closeCycle r h
  let n := s.rings[r].hop h
  s.putHop r h { n with cycle := some seq, live := true, result := none, final := false, chans := 0, taken := 0
                        recent := ([] :: n.recent).take 8 }

/-- Whether a node speaks in a cycle. -/
def State.speaks (s : State) (node : Nat) (seq : Nat) : Bool :=
  let ph := s.phasesOf node
  ph.isEmpty || ph.contains (seq % s.phaseCount)

/-- What the first valid copy of a cycle and type gives: data for the loops and the delivery; a NULL frame leaves the inputs not
fresh (R117, R134, R294, R295). -/
def State.takeCopy (s : State) (r : Fin 4) (h : Nat) (rec : NodeRec) (seq : Word) (null fault : Bool)
    (payload : List Byte) : State :=
  let n := s.rings[r].hop h
  if null then
    let s := s.putHop r h { n with taken := n.taken ||| 2 }
    if n.taken = 0 then s.missDelivery n.node seq else s
  else
    let s := s.putHop r h { n with taken := n.taken ||| 1, data := some (seq, fault, payload) }
    let s := if fault then s else s.takeAxes rec seq payload
    s.takeDelivery n.node seq payload

/-- The head time of a node's slot in a cycle (R119). -/
def State.headTime (s : State) (r : Fin 4) (node seq : Nat) : Nat :=
  let sl := (s.cell.placement.nodes.find? (fun x => x.node == node)).getD ⟨0, [], 0, 0⟩
  let start := (((sl.phases.find? (fun e => e.1 == seq % s.phaseCount)).map (·.2))).getD sl.start
  seq * s.servo + s.shutterOf r + start

/-- The delay in quarter nanoseconds from the head of a channel to where this device takes its copies: L_c for device 0, as planned
until it is measured; δ_c of its own position for device 1 (R127, R129). -/
def State.arrivalDelay (s : State) (r : Fin 4) (chB : Bool) : Nat :=
  let x := s.rings[r]
  if s.ringMember then s.ownDelay r chB
  else
    (if chB then x.heldB else x.heldA).getD (4 * s.cell.placement.rings[r].lPlan)

/-- This device measures nodes on a lane: at the heads; device 1 from its lane B while it sends the SERVICE frames (R127, R148). -/
def State.measures (s : State) (r : Fin 4) (laneB : Bool) : Bool :=
  !s.ringMember || (s.rings[r].head && laneB)

/-- Half of the round trip of a node's copy that came in on a lane, in quarter nanoseconds: arrival less turn less the departure
of the device copy it answers, which is the one that fits the delay held best (R127; log entry 32). Device 1 adds δ_B of its own
position (R148). -/
def State.halfTrip (s : State) (r : Fin 4) (laneB : Bool) (arr : Int) (turn : Nat) (held : Option Nat) : Option Nat :=
  let x := s.rings[r]
  let base := if s.ringMember then s.ownDelay r true else 0
  let est := held.getD (4 * s.cell.placement.rings[r].lPlan) - base
  let off := fun (d : Int) => (arr - d - 5 * (turn : Int) - 10 * (est : Int)).natAbs
  let best := (if laneB then x.sentB else x.sentA).foldl (fun (b : Option Int) d => match b with
    | some o => if off d < off o then some d else some o
    | none => some d) none
  best.map (fun d => base + ((arr - d - 5 * (turn : Int)) / 10).toNat)

/-- A copy of a scheduled node's frame (R116, R117, R127, R129, R133, R134): `arr` is its arrival in twentieths. -/
def State.nodeCopy (s : State) (r : Fin 4) (laneB : Bool) (arr : Int) (bs : List Byte) : State :=
  let x := s.rings[r]
  let h := byteAt bs 3
  let chB := (byteAt bs 1).testBit 0
  let n := x.hop h
  match s.theCell.nodes[n.node]? with
  | none => s.ringError r 15 8
  | some rec =>
    let seq := wordAt bs 4
    let q := s.cycleStart seq / s.servo
    let fresh := decide ((w32 s.seqNo - seq).toNat < 8)
    let older := match n.cycle with
      | some c => decide (2 ^ 31 ≤ (seq - c).toNat)
      | none => false
    if older then s
    else if !fresh || !s.speaks n.node q then s.ringError r 15 8
    else
      let st := byteAt bs 19
      let s := if n.cycle = some seq then s else s.newCycle r h seq
      let n := s.rings[r].hop h
      if !n.scheduled then s
      else
        let dev := arr - (20 * (s.headTime r n.node q : Int) + 5 * (s.arrivalDelay r chB : Int))
        let res := classify dev (20 * fld x.rcfg 31 20)
        let trip := if u32 bs 8 = 0xFFFFFFFF ∨ res = .slotLost ∨ s.measures r laneB = false then []
          else ((s.halfTrip r laneB arr (u32 bs 8) (if laneB then n.delB else n.delA)).map (fun t => (laneB, t))).toList
        let n := { n with
          result := if n.live then some ((n.result.getD .slotLost).better res) else n.result
          chans := n.chans ||| (if chB then 2 else 1)
          nextReady := n.nextReady || (res != .slotLost && st.testBit 3)
          recent := match n.recent with
            | [] => [trip]
            | c :: l => (c ++ trip) :: l
          round := trip ++ n.round }
        let s := s.putHop r h n
        let null := byteAt bs 0 % 16 == 1
        let s := if res = .slotLost || (if null then n.taken / 2 % 2 else n.taken % 2) = 1 then s
          else s.takeCopy r h rec seq null (st.testBit 4) (slice bs 26 (u16 bs 16))
        if (s.rings[r].hop h).chans = 3 then s.settleCycle r h else s

/-- Records taken by a joining device from CONFIG frames, and DELAY records from SERVICE frames (R126, R130, R131, R142). -/
def State.takeRecords (s : State) (r : Fin 4) (gen : Nat) (recs : List (List Byte)) : State :=
  recs.foldl (fun s b =>
    let x := s.rings[r]
    let h := byteAt b 0
    let own := h == s.ownHop r
    let joins := decide (x.state = .config)
    let note := fun (x : RingSt) (k : Nat) => { x with confGen := gen, confKinds := if x.confKinds.contains k then x.confKinds else k :: x.confKinds }
    match byteAt b 1 with
    | 1 => if joins then s.setRing r (note { x with
        rcfg := setFld (setFld x.rcfg 31 20 (u16 b 2)) 19 0 (u32 b 8), adv := byteAt b 13 } 1) else s
    | 2 => if joins && own then s.setRing r (note { x with slotAt := some (u32 b 4) } 2) else s
    | 3 =>
      let n := x.hop h
      let x := x.putHop h { n with state := if joins then .config else n.state, delA := some (u32 b 4), delB := some (u32 b 8) }
      s.setRing r (if own then note { x with ownA := some (u32 b 4), ownB := some (u32 b 8) } 3 else x)
    | 4 => if joins then s.setRing r { x with gen := w32 (x.gen.toNat / 65536 * 65536 + u16 b 2), activateAt := some (leAt b 4 8) }
      else s
    | _ => s) s

/-- A joining device answers a poll of its hop towards the polling lane, with turn, the generation of its records, and whether it
holds a record of each kind (R142, R144, R145). -/
def State.answerPoll (s : State) (r : Fin 4) (laneB : Bool) (arr : Int) : State :=
  let x := s.rings[r]
  let dep := s.laneOut r laneB s.stamp
  let ready := x.confKinds.length == 3
  s.ringEmit r laneB s.stamp (s.ringBytes r laneB
    ⟨4, 0, w32 s.seqNo, ((dep - arr) / 5).toNat, s.seqNo % s.phaseCount, 8 * b2n ready, x.confGen⟩ [])

/-- A running frame of another generation is counted before the ring runs too (R116); start-up frames are not held to one. -/
def State.strayGen (s : State) (r : Fin 4) (type gen : Nat) : State :=
  if type ≤ 2 ∧ gen ≠ s.rings[r].gen.toNat % 65536 then s.ringError r 23 16 else s

/-- A DATA copy of a cycle has been round on a channel (R146). -/
def RingSt.cameBack (x : RingSt) (chB : Bool) (seq : Word) : RingSt :=
  if chB then { x with backB := (seq :: x.backB).take 32 } else { x with backA := (seq :: x.backA).take 32 }

/-- A frame of the twin partner or of a starting device (R116, R117, R142, R144, R148). A partner that is still heard on a ring
after the link is lost ends the pair: the standby goes out, the active goes on alone (R379). A DATA copy of device 0 shows
device 1 that the channel is whole (R146; log entry 32). -/
def State.deviceFrame (s : State) (r : Fin 4) (laneB : Bool) (arr : Int) (bs : List Byte) : State :=
  let type := byteAt bs 0 % 16
  let chB := (byteAt bs 1).testBit 0
  let s := if s.twinMode then (s.setTwin { s.twin with partnerRing := true, ringAt := s.now }).setRing r
      { s.rings[r] with partner := true, partnerAt := s.now }
    else s
  let s := if s.twinMode && decide (s.twin.state = .paired) && s.twin.linkLost then
      (if s.twin.active then s.pairTo .alone true else s.pairTo .out false) else s
  let x := s.rings[r]
  let gen := u16 bs 20
  let held := x.gen.toNat % 65536
  let late := decide (type ≤ 1) && decide (20 * (leAt bs 8 8 : Int) + 5 * (s.arrivalDelay r chB : Int) + 40 * (fld x.rcfg 31 20 : Int) < arr)
  match x.state with
  | .listen | .backoff | .coldstart => (s.strayGen r type gen).hearDevice r (type == 5)
  | .ranging | .config =>
    let s := s.strayGen r type gen
    if x.starter then s
    else if type = 3 ∧ byteAt bs 19 = s.ownHop r then s.answerPoll r laneB arr
    else if type = 6 then
      (s.setRing r { s.rings[r] with state := .config }).takeRecords r gen (chunks 16 (byteAt bs 19) (bs.drop 26))
    else s
  | .run =>
    if gen != held && !(type == 2 && gen == (held + 1) % 65536) then s.ringError r 23 16
    else if late then s
    else if type ≤ 1 then
      if s.ringMember then s.setRing r (x.cameBack chB (wordAt bs 4)) else s
    else if type = 2 ∧ gen = held then s.takeRecords r gen (chunks 16 (byteAt bs 19) (bs.drop 26))
    else s
  | .down => s

/-- The device's own frame comes back after one round of the loop: the loop delay L_c, on DATA and NULL frames (R127), the return of a
DATA copy (R146), or the hop counter (R143). DESIGN CHOICE (log entry 32): RG_RSTAT.slow stays set until the ring is ranged again,
as R151 does not say when it clears. -/
def State.ownFrame (s : State) (r : Fin 4) (arr : Int) (bs : List Byte) : State :=
  let x := s.rings[r]
  let chB := (byteAt bs 1).testBit 0
  let type := byteAt bs 0 % 16
  let l := ((arr - s.laneOut r chB (leAt bs 8 8)) / 5).toNat
  match type with
  | 0 | 1 =>
    if x.state ≠ .run then s
    else
      let add := fun (u : Nat × Nat) => (u.1 + l, u.2 + 1)
      let x := { x with slow := x.slow || decide (4 * s.cell.placement.rings[r].lPlan < l) }
      let x := if type = 0 then x.cameBack chB (wordAt bs 4) else x
      s.setRing r (if chB then { x with sumB := add x.sumB } else { x with sumA := add x.sumA })
  | 3 => if x.state ≠ .ranging then s
    else s.setRing r (if chB then { x with loopB := w32 l, heldB := some l } else { x with loopA := w32 l, heldA := some l })
  | 5 => s.takeCold r true bs
  | _ => s

/-- A node's frame: one of a removed or readmitted node is ignored and not counted (R137, R150); one of another generation is counted
whatever the state of the ring and of the node (R116). -/
def State.takeNodeFrame (s : State) (r : Fin 4) (laneB : Bool) (arr : Int) (bs : List Byte) : State :=
  let x := s.rings[r]
  let n := x.hop (byteAt bs 3)
  let known := n.node != 0xFFFF
  if decide (x.state = .run) && known && (decide (n.state = .removed) || decide (n.state = .readmit)) then s
  else
    let s := if x.state = .listen then s.setRing r { x with heard := true } else s
    if u16 bs 20 ≠ x.gen.toNat % 65536 then s.ringError r 23 16
    else if x.state ≠ .run then s
    else if known && (decide (n.state = .absent) || decide (n.state = .mismatch)) then s
    else if byteAt bs 0 % 16 ≤ 1 then s.nodeCopy r laneB arr bs
    else s.ringError r 15 8

/-- NODE_FRAME (R112 to R118, R133, R134): any ring frame but the start-up replies, of a node, of the partner or of the device
itself. -/
def execNodeFrame (r : Fin 4) (laneB : Bool) (frac : Fin 20) (fcsOk : Bool) (frame : List Byte) (s : State) :
    Host.Outcome State Fault Refusal :=
  let arr := s.laneIn r laneB frac.val
  let s := s.ringForward r laneB frame
  match s.ringCheck r fcsOk frame with
  | .error e => .next (s.ringError r e.1 e.2)
  | .ok h => .next (
    if s.ownSource r frame then s.ownFrame r arr h
    else if byteAt h 0 % 16 = 4 then s.takeRangeRsp r arr frame h
    else if byteAt h 3 = 0 then s.deviceFrame r laneB arr h
    else s.takeNodeFrame r laneB arr h)

/-- How long after its cable-side arrival a frame is detected on a lane at most, in ns rounded up (R102). -/
def State.laneLag (s : State) (r : Fin 4) (laneB : Bool) : Nat := ((539 + pcorrIn s.time.pcorr[lanePort r laneB]) / 20).toNat

/-- The time after a head time by which a copy that went round the ring, at most `extra` ns late, has been detected on both
channels. -/
def State.roundTime (s : State) (r : Fin 4) (extra : Nat) : Nat :=
  (max (s.arrivalDelay r false) (s.arrivalDelay r true) + 3) / 4 + extra + max (s.laneLag r false) (s.laneLag r true)

/-- The latest cycle of a node whose last accepted arrival has passed on both channels (R129, R133): head time + L_c + 2g at the
cable. -/
def State.deadlineCycle (s : State) (r : Fin 4) (n : NodeSt) : Option Nat :=
  let l := s.roundTime r (2 * fld s.rings[r].rcfg 31 20)
  ((List.range 40).find? (fun k => decide (k ≤ s.seqNo) && s.speaks n.node (s.seqNo - k) &&
    decide (s.headTime r n.node (s.seqNo - k) + l < s.stamp))).map (fun k => s.seqNo - k)

/-- SLOT_LOST_DEADLINE (R133, R134): the time of a node's copies is over; without an accepted one its result is SLOT_LOST and its
delivery is missed. -/
def execSlotLostDeadline (r : Fin 4) (hop : Nat) (s : State) : Host.Outcome State Fault Refusal :=
  let x := s.rings[r]
  let n := x.hop hop
  if x.state ≠ .run ∨ n.scheduled = false then .next s
  else match s.deadlineCycle r n with
  | none => .next s
  | some q =>
    let later := match n.cycle with
      | some c => decide (c ≠ w32 q) && decide ((c - w32 q).toNat < 2 ^ 31)
      | none => false
    if later then .next s
    else
      let s := if n.cycle = some (w32 q) then s else s.newCycle r hop (w32 q)
      let n := s.rings[r].hop hop
      if !n.scheduled || !n.live || n.final then .next s else .next (s.settleCycle r hop)

/-! ### Device output frames (R121, R138, R146, R177, R292, R297) -/

/-- Write nibble `k` of a byte string. -/
def putNibble (bs : List Byte) (k : Nat) (v : Nat) : List Byte :=
  let b := byteAt bs (k / 2)
  bs.set (k / 2) (BitVec.ofNat 8 (if k % 2 = 0 then b / 16 * 16 + v % 16 else b % 16 + 16 * (v % 16)))

/-- Replace bytes from an offset. -/
def putBytes (bs : List Byte) (o : Nat) (v : List Byte) : List Byte := bs.take o ++ v ++ bs.drop (o + v.length)

/-- The output area of a node: its axis output records (R177) and its output nibbles (R292). -/
def State.outputArea (s : State) (image : List (Nat × Nib)) (n : Nat) (rec : NodeRec) : List Byte :=
  let base := List.replicate rec.outBytes (0 : Byte)
  let base := if rec.kind = 0 then (numbered 0 (rec.axisList.take rec.naxes)).foldl (fun b e =>
      let x := s.loops.axes[f160 e.2]
      putBytes b (12 * e.1) (wordBytes [i32 x.cmd, i32 x.vff, i32 x.tff])) base else base
  (s.theCell.nodeRanges n 1).foldl (fun b r => foldOn (List.range r.2.count) b (fun b i =>
    let v := mget uncovered image (r.2.first + i)
    putNibble b (r.2.nibOff + i) (if 2 ≤ v.toNat % 4 then r.2.fallback else v.toNat))) base

/-- The output areas of a ring's cycle, each under its node. -/
def State.outputAreas (s : State) (r : Fin 4) (seq : Nat) : List (Nat × List Byte) :=
  let image := if s.nibble.frontSeq ≤ seq then s.nibble.front else s.nibble.frontWas
  (outputOrder s.theCell s.cell.placement r.val (seq % s.phaseCount)).map (fun n => (n.1, s.outputArea image n.1 n.2))

/-- The payload of a ring's device output frame in a cycle. -/
def State.outputPayload (s : State) (r : Fin 4) (seq : Nat) : List Byte :=
  (s.outputAreas r seq).flatMap (·.2)

/-- The axis commands that were to go out once more have done so: they are 0 from the next device frame (R194, R196). -/
def State.endCmds (s : State) (r : Fin 4) : State :=
  foldOn ((List.range 160).filter (fun a => s.loops.axes[f160 a].cmdOnce && decide (s.ringOfAxis a = some r))) s (fun s a =>
    s.setAxis (f160 a) { s.loops.axes[f160 a] with cmd := 0, cmdOnce := false })

/-- The SERVICE frame of a cycle: up to 16 or 32 records of one generation, each sent twice, by the device at the heads
(R123, R125, R129, R131). Sending the ACTIVATE of an announced generation starts the wait for next_ready (R149). -/
def State.sendService (s : State) (r : Fin 4) (head : Nat) (seq : Word) : State :=
  let x := s.rings[r]
  let n := if s.servo ≤ 62500 then 16 else 32
  match x.records with
  | [] => s
  | e :: _ =>
    let gen := e.2.1
    let now := (x.records.filter (fun e => e.2.1 == gen)).take n
    let left := (x.records.filter (fun e => e.2.1 == gen)).drop n ++ x.records.filter (fun e => e.2.1 != gen)
    let later := now.filterMap (fun e => if 1 < e.1 then some (e.1 - 1, e.2) else none)
    let act := gen != x.gen.toNat % 65536 && now.any (fun e => byteAt e.2.2 1 == 4)
    let s := s.setRing r { x with
      records := left ++ later
      nodes := if act then x.nodes.map (fun e => (e.1, { e.2 with nextReady := false })) else x.nodes }
    if !x.head || decide (s.twin.state = .out) then s
    else s.sendCopies r ⟨2, 0, seq, head, seq.toNat % s.phaseCount, now.length, gen⟩ (now.map (·.2.2)).flatten

/-- The break hop (R146): the highest hop whose frames come only on channel B; 0 when there is none. -/
def RingSt.findBreak (x : RingSt) : Nat :=
  maxOf ((x.nodes.filter (fun e => e.2.scheduled && e.2.chans == 2)).map (·.1))

/-- One cycle in which the device sent DATA is judged by the channels on which its copy has returned (R146). -/
def RingSt.judgeReturn (x : RingSt) (seq : Word) : RingSt :=
  let a := x.backA.contains seq
  let b := x.backB.contains seq
  { x with missA := if a then 0 else x.missA + 1, missB := if b then 0 else x.missB + 1
           backRun := if a && b then x.backRun + 1 else 0 }

/-- The check of the return of the device's own DATA copies: of the cycles whose copies can all be back by now (R146). Device 1 judges
by the copies of device 0 that pass it (log entry 32). -/
def State.checkReturn (s : State) (r : Fin 4) : State :=
  let x := s.rings[r]
  let due := fun (e : Nat × Word) => decide (e.1 + s.roundTime r (2 * fld x.rcfg 31 20) < s.stamp)
  let x := ((x.ownData.filter due).map (·.2)).foldl RingSt.judgeReturn x
  let x : RingSt := { x with
    ownData := x.ownData.filter (fun e => !due e)
    partner := x.partner && decide (s.now < x.partnerAt + 2 * s.servo) }
  if (2 ≤ x.missA ∨ 2 ≤ x.missB) ∧ x.broken = false then
    (s.setRing r { x with broken := true, breakHop := x.findBreak }).notice .breakSet r.val x.findBreak
  else if x.broken && decide (16 ≤ x.backRun) then
    (s.setRing r { x with broken := false, breakHop := 0xFF }).notice .breakClear r.val 0
  else s.setRing r x

/-- The device sends NULL frames while it joins a twin or is out, and from detection of a main-die fault until reset (R138, R372,
R377). DEDUCED (log entry 32): the main-die fault is channel 1's internal fault. -/
def State.sendsNull (s : State) : Bool :=
  s.safety.mainFault || decide (s.twin.state = .join) || decide (s.twin.state = .out) || (decide (s.twin.state = .check) && !s.twin.active)

/-- Offset of the device's own output slot from the shutter instant (R120, R121). -/
def State.outSlot (s : State) (r : Fin 4) : Nat :=
  let p := s.cell.placement.rings[r]
  if s.ringMember then s.rings[r].slotAt.getD (p.sOut + p.outLen) else p.sOut

/-! SUMMARY frames (R373), in a layout of the model's own: kind, ring, count, whether more loop frames follow, the cycle, and
the body. Kind 0: node slot results (hop, rank, cycle). Kind 1: loop slots of the ring's axes. Kind 2: one delivery. -/

/-- The loop slots of a ring's axes. -/
def State.ringSlots (s : State) (r : Nat) : List (Nat × Nat × LoopSlot) :=
  (List.range 16).flatMap (fun e => (List.range 32).filterMap (fun k =>
    let l := s.loops.engines[f16 e].slots[f32i k]
    match s.theCell.nodeOfAxis l.axis with
    | some n => if l.valid && n.2.ring == r then some (e, k, l) else none
    | none => none))

/-- The slot evaluated its sample of a cycle before its cut-off. -/
def LoopSlot.evaluatedIn (l : LoopSlot) (seq : Word) : Bool := l.lastSeq == some seq && l.missRun == 0

/-- A loop slot in a SUMMARY frame: engine, slot, receipt bit, miss run, then i, d, e_prev, f_prev and the output. -/
def slotEntry (seq : Word) (x : Nat × Nat × LoopSlot) : List Byte :=
  let l := x.2.2
  [BitVec.ofNat 8 x.1, BitVec.ofNat 8 x.2.1, BitVec.ofNat 8 (b2n (l.evaluatedIn seq)), BitVec.ofNat 8 (satN 255 l.missRun)] ++
    wordBytes [i32 l.i, i32 l.d, i32 l.e, i32 l.fPrev, i32 l.y]

/-- The body of SUMMARY frames of loop slots, up to 300 in each. -/
def slotFrames : Nat → List (List Byte) → List (Nat × List Byte)
  | 0, _ => []
  | n + 1, es => if es.length ≤ 300 then [(es.length, es.flatten)] else (300, (es.take 300).flatten) :: slotFrames n (es.drop 300)

/-- Send the SUMMARY frames of a ring and cycle (R134, R373): the results that have become known since the last ones, the
deliveries and the loop slots. -/
def State.sendSummary (s : State) (r : Fin 4) (seq : Word) : State :=
  let head := fun (seq : Word) (kind n more : Nat) => [BitVec.ofNat 8 kind, BitVec.ofNat 8 r.val, BitVec.ofNat 8 (n % 256), BitVec.ofNat 8 more] ++
    leBytes 4 seq.toNat
  let x := s.rings[r]
  let res := x.nodes.filterMap (fun e => e.2.own.map (fun o =>
    [BitVec.ofNat 8 e.1, BitVec.ofNat 8 o.2.rank] ++ leBytes 4 o.1.toNat))
  let s := s.setRing r { x with nodes := x.nodes.map (fun e => (e.1, { e.2 with own := none })) }
  let s := s.sendBenjo 2 (head seq 0 res.length 0 ++ res.flatten)
  let dels := s.nibble.deliveries.filter (fun d => (d.seq == seq || d.seq == seq - 1) && (match s.theCell.nodes[d.node]? with
    | some n => n.ring == r.val
    | none => false))
  let s := dels.foldl (fun s d => s.sendBenjo 2 (head d.seq 2 1 0 ++ leBytes 2 d.node ++ leBytes 2 d.data.length ++ d.data)) s
  let late := (s.ringSlots r.val).filter (fun x => x.2.2.lastSeq == some (seq - 1))
  let send := fun (s : State) (seq : Word) (last : Bool) (fs : List (Nat × List Byte)) =>
    (numbered 0 fs).foldl (fun (s : State) f =>
      s.sendBenjo 2 (head seq 1 f.2.1 (b2n (!last || decide (f.1 + 1 < fs.length))) ++ f.2.2)) s
  let s := if late.isEmpty then s else send s (seq - 1) false (slotFrames 16 (late.map (slotEntry (seq - 1))))
  send s seq true (slotFrames 16 ((s.ringSlots r.val).map (slotEntry seq)))

/-- DEVICE_OUTPUT_FRAME (R115, R121, R125, R138, R373): at the head time of the device's output slot the frame of the cycle is
sent with the management code that is due, the service window is set, and in a pair the SUMMARY goes out. Device 1's copy passes
device 0's head of channel B at its own head time, which serves ranging there (R127). -/
def execDeviceOutputFrame (r : Fin 4) (s : State) : Host.Outcome State Fault Refusal :=
  let x := s.rings[r]
  let p := s.cell.placement.rings[r]
  let ofs := s.shutterOf r + s.outSlot r
  if x.state ≠ .run ∨ s.cellOn = false ∨ s.stamp < ofs ∨ s.onGrid s.servo (ofs % s.servo) = false then .next s
  else
    let seq := (s.stamp - ofs) / s.servo
    let head := seq * s.servo + ofs
    let s := s.checkReturn r
    let x := s.rings[r]
    let null := s.sendsNull
    let (code, hop, rest) := match x.mgmt with
      | [] => (0, 0, [])
      | (c, h, k) :: m => if null then (0, 0, x.mgmt) else (c, h, if 1 < k then (c, h, k - 1) :: m else m)
    let twin := s.twinMode && !s.ringMember && x.partner
    let s := s.setRing r { x with
      mgmt := rest, cycle := w32 seq
      ownData := if null then x.ownData else x.ownData ++ [(head, w32 seq)]
      serviceAt := some (seq * s.servo + s.shutterOf r + p.window, w32 seq)
      sentB := if twin then (20 * ((head + p.outLen : Nat) : Int) :: x.sentB).take 8 else x.sentB }
    let f : HdrFields := ⟨b2n null, code, w32 seq, head, seq % s.phaseCount, hop, x.gen.toNat⟩
    let s := (s.sendCopies r f (if null then [] else s.outputPayload r seq)).endCmds r
    let key := r.val + 4 * (seq % 2 ^ 32)
    let areas := if null then [] else s.outputAreas r seq
    .next (if s.twin.state = .paired then
      let s := s.sendSummary r (w32 seq)
      (s.setTwin { s.twin with sent := ((key, areas) :: s.twin.sent).take 32 }).sendDigest key
    else s)

/-- What a ring sends by itself when its instant has come: copies that wait for their nominal instant, the SERVICE frame of the
cycle, COLDSTART frames and CONFIG frames (R119, R123, R141, R145). -/
def State.ringTick (s : State) (r : Fin 4) : State :=
  let x := s.rings[r]
  let s := if x.sends.isEmpty then s else
    let due := x.sends.filter (fun e => decide (e.1 ≤ s.stamp))
    due.foldl (fun s e => s.ringEmit r e.2.1 e.1 e.2.2) (s.setRing r { x with sends := x.sends.filter (fun e => decide (s.stamp < e.1)) })
  let s := match x.serviceAt with
    | some (t, q) => if t ≤ s.stamp then (s.setRing r { s.rings[r] with serviceAt := none }).sendService r t q else s
    | none => s
  let s := if x.state = .coldstart ∧ x.coldAt ≤ s.now then s.sendCold r else s
  if x.state = .config ∧ x.configQ ≠ [] ∧ x.configAt ≤ s.now then s.sendConfig r else s

/-! ### Ranging rounds (R128) -/

/-- A delay differs by more than 2 ns (8 quarter nanoseconds) from the one held. -/
def delayMoved (new old : Option Nat) : Bool :=
  match new, old with
  | some a, some b => decide (b + 8 < a) || decide (a + 8 < b)
  | some _, none => true
  | none, _ => false

/-- RANGING_ROUND (R128): at a sequence number that is a multiple of 1,024. A loop delay of which the round had no copy stays in force
for R129, so that a break changes no timing (R146). -/
def execRangingRound (r : Fin 4) (s : State) : Host.Outcome State Fault Refusal :=
  if s.rings[r].state ≠ .run ∨ s.onGrid s.servo 0 = false ∨ s.seqNo % 1024 ≠ 0 then .next s
  else
    let s := (s.rings[r].nodes.map (·.1)).foldl (fun s h =>
      let x := s.rings[r]
      let n := x.hop h
      let a := meanTrip false n.round
      let b := meanTrip true n.round
      if delayMoved a n.delA || delayMoved b n.delB then
        let n := { n with delA := a.orElse (fun _ => n.delA), delB := b.orElse (fun _ => n.delB), round := [] }
        s.setRing r ((x.putHop h n).queueRecords x.gen [delayRecord h n])
      else s.putHop r h { n with round := [] }) s
    let x := s.rings[r]
    let mean := fun (u : Nat × Nat) => if u.2 = 0 then (0xFFFFFFFF : Word) else w32 (u.1 / u.2)
    let hold := fun (u : Nat × Nat) (old : Option Nat) => if u.2 = 0 then old else some (u.1 / u.2)
    .next (s.setRing r { x with loopA := mean x.sumA, loopB := mean x.sumB, heldA := hold x.sumA x.heldA, heldB := hold x.sumB x.heldB
                                sumA := (0, 0), sumB := (0, 0) })

/-! ### Changes to a running ring (R149, R150) -/

/-- The records of a ring differ between two placed cells. -/
def State.ringChanges (s : State) (oc : Cell) (op : Placement) (nc : Cell) (np : Placement) (r : Fin 4) : Bool :=
  decide (s.scheduleRecords oc op r ≠ s.scheduleRecords nc np r) ||
    decide ((oc.hops r.val).map (fun h => h.2.2.mac) ≠ (nc.hops r.val).map (fun h => h.2.2.mac))

/-- The announcement of a new generation on each ring whose records change: the changed RING and SLOT records and ACTIVATE
(R149). -/
def State.announceRings (s : State) (nc : Cell) (np : Placement) (at_ : Nat) : State :=
  foldOn (List.range 4) s (fun s i =>
    let r := f4 i
    let x := s.rings[r]
    if x.state = .run && nc.usesRing i && s.ringChanges s.theCell s.cell.placement nc np r then
      let old := s.scheduleRecords s.theCell s.cell.placement r
      let gen := s.cell.generation + 1
      s.setRing r { x.queueRecords gen ((s.scheduleRecords nc np r).filter (fun b => !old.contains b) ++ [activateRecord gen at_]) with
        nodes := x.nodes.map (fun e => (e.1, { e.2 with nextReady := false })) }
    else s)

/-- The rings at the activation of a new cell (R141, R149): `oc` and `op` were in force before, `s` holds the new ones. -/
def State.activateRings (s : State) (oc : Option Cell) (op : Placement) : State :=
  let nc := s.theCell
  foldOn (List.range 4) s (fun s i =>
    let r := f4 i
    let x := s.rings[r]
    if !nc.usesRing i then (if x.state = .down then s else s.ringDown r none 0)
    else if x.state = .down then s.ringListen r
    else match oc with
    | none => s
    | some o =>
      if x.state ≠ .run then
        if o.usesRing i && !s.ringChanges o op nc s.cell.placement r then s else (s.ringDown r none 0).ringListen r
      else if !s.ringChanges o op nc s.cell.placement r then s
      else
        let hops := nc.hops i
        let nodes := hops.foldl (fun (m : List (Nat × NodeSt)) h =>
          let old := x.hop h.1
          let known := decide (old.node < 0xFFFF) &&
            decide ((o.nodes[old.node]?).map (·.mac) = some h.2.2.mac)
          mput {} m h.1 (if known then { old with node := h.2.1, cycle := none, live := false, result := none, prev := none }
            else { state := .run, node := h.2.1 })) []
        let nodes := if nc.mode = 1 then mput {} nodes (nc.partnerHop i) (x.hop (o.partnerHop i)) else nodes
        let s := s.setRing r { x with nodes := nodes, gen := s.cell.generation, adv := s.cell.placement.rings[r].adv }
        hops.foldl (fun s h =>
          let n := s.rings[r].hop h.1
          if n.scheduled && !n.nextReady then s.removeNode r h.1 2 else s) s)

/-- Readmitted nodes transmit again from this planning tick boundary (R150, R296); the cause of their axes' fault ends. -/
def State.readmitNodes (s : State) : State :=
  foldOn (List.range 4) s (fun s i =>
    let r := f4 i
    (s.rings[r].nodes.map (·.1)).foldl (fun s h =>
      let n := s.rings[r].hop h
      match n.state, n.readmitAt with
      | .readmit, some t =>
        if s.stamp < t then s
        else
          let s := s.putHop r h { n with
            state := .run, run := 0, readmitAt := none, readmitBy := none, cycle := none, live := false, result := none, prev := none, recent := [] }
          let s := s.readmitPoints n.node
          let s := match s.theCell.nodes[n.node]? with
            | some rec => if rec.kind = 0 then (rec.axisList.take rec.naxes).foldl (fun s a =>
                let x := s.loops.axes[f160 a]
                s.setAxis (f160 a) { x with causeHolds := x.causeHolds && x.cause != 2 }) s else s
            | none => s
          match n.readmitBy with
          | some (q, t) => s.finishTag q t ⟨stOk, 0, 0⟩
          | none => s
      | _, _ => s) s)

/-! ### Group 0x9_ -/

/-- A delay in whole nanoseconds, rounded; all ones when there is none. -/
def delayNs (d : Option Nat) : Nat :=
  match d with
  | some v => (v + 2) / 4
  | none => 0xFFFFFFFF

/-- The node status record of a hop (RING_STATUS, RG_NODE). -/
def nodeRecord (h : Nat) (n : NodeSt) (index : Nat) : List Byte :=
  leBytes 2 index ++ leBytes 1 h ++ leBytes 1 n.state.code ++ leBytes 4 n.edge ++ leBytes 4 n.lost ++
    leBytes 4 (delayNs n.delA)

/-- RING_STATUS: one record for each node record of the ring, ascending in hop. -/
def execRingStatus (q : Fin 16) (tag : Fin 1024) (s : State) : Host.Outcome State Fault Refusal :=
  .next (s.startPkt q tag 0x90 (fun p t =>
    if 3 < p.p0.toNat then t.finish p (badAt atP0)
    else
      let hs := t.theCell.hops p.p0.toNat
      t.finishOk p (w32 hs.length) 0 (hs.flatMap (fun h => nodeRecord h.1 (t.rings[f4 p.p0.toNat].hop h.1) h.2.1))))

/-- RING_RERANGE (R128): from the last 8 cycles of each node named that is in the schedule. -/
def execRingRerange (q : Fin 16) (tag : Fin 1024) (s : State) : Host.Outcome State Fault Refusal :=
  .next (s.startPkt q tag 0x91 (fun p t =>
    let h := p.p1.toNat
    if 3 < p.p0.toNat then t.finish p (badAt atP0)
    else
      let r := f4 p.p0.toNat
      let all := (t.theCell.hops r.val).map (·.1)
      if h ≠ 0xFF ∧ (h = 0 ∨ 254 < h ∨ ¬all.contains h) then t.finish p (badAt atP1)
      else
        let hs := (if h = 0xFF then all else [h]).filter (fun h => (t.rings[r].hop h).scheduled)
        let t := hs.foldl (fun t h => t.setRing r (t.rings[r].rerange h (t.rings[r].hop h).state)) t
        t.finishOk p (w32 hs.length)))

/-- NODE_READMIT (R83, R150): at a planning tick boundary 16 ticks ahead; the ring's RING record and the node's own records go with
it. DESIGN CHOICE (log entry 23): a node whose readmission is announced already is refused as one in the schedule. -/
def execNodeReadmit (q : Fin 16) (tag : Fin 1024) (s : State) : Host.Outcome State Fault Refusal :=
  .next (s.startPkt q tag 0x92 (fun p t =>
    match t.theCell.nodes[p.p0.toNat]? with
    | none => t.finish p (badAt atP0)
    | some rec =>
      let r := f4 rec.ring
      let n := t.rings[r].hop rec.hop
      if n.scheduled || decide (n.state = .readmit) then t.finish p (badAt atP0 (ident 3 p.p0.toNat))
      else
        let at_ := t.nextPlan % 2 ^ 64 + 16000000
        let n := { n with state := .readmit, node := p.p0.toNat, readmitAt := some at_, readmitBy := some (p.queue, p.tag)
                          run := 0, data := none }
        let gen := t.rings[r].gen
        let x := (t.rings[r].putHop rec.hop n).queueRecords gen
          (t.ringRecord t.theCell t.cell.placement r :: slotRecords t.theCell t.cell.placement p.p0.toNat rec ++
            [delayRecord rec.hop n, activateRecord gen at_])
        (t.setRing r x).sendMgmt r 3 rec.hop))

end Sys2Proof.Machine
end

