-- ==== Sys2Proof/Machine/Separation.lean ====
section
/-! DEFINITION. Speed and separation monitoring and safety links (14_separation_monitoring_and_safety_links.md, R344 to
R363). Both channels see the same frames (log entry 11); the places of a chain's points and axes are
free values of the two channels' arithmetic (log entry 40), and everything the spec computes from them is computed. -/

namespace Sys2Proof.Machine

/-! ### Links (R347 to R349) -/

/-- The node carries a link: a body sensor, or a drive or I/O block with the safety flag (R347). -/
def NodeRec.linked (r : NodeRec) : Bool := r.kind == 3 || ((r.kind == 0 || r.kind == 2) && r.flags.testBit 0)

/-- The body source record of a node: its index and record. -/
def Cell.sourceOf (c : Cell) (node : Nat) : Option (Nat × BodyRec) := (numbered 0 c.bodies).find? (fun b => b.2.node == node)

/-- Where a link expects its frame, its type, identity and expectation in µs (R347). -/
structure LinkCfg where
  offset : Nat
  type   : Nat
  conn   : Word
  wdUs   : Nat
  deriving DecidableEq, Repr

/-- The configuration of a node's link, none where SM_LCFG.en is 0 or the node has no link (R347). -/
def State.linkCfg (s : State) (node : Nat) : Option LinkCfg :=
  match s.theCell.nodes[node]? with
  | none => none
  | some r =>
    if r.kind = 3 then (s.theCell.sourceOf node).map (fun b => ⟨0, 1, b.2.connId, b.2.wdUs⟩)
    else if r.linked then
      let l := s.sep.linkOf node
      if bitAt l.cfg 31 then some ⟨fld l.cfg 30 20, if r.kind = 0 then 2 else 3, l.conn, 10 * fld l.cfg 19 4⟩ else none
    else none

/-- A frame of `len` bytes at `off` lies inside the input payload, outside the axis input records and the event area
(R347). -/
def Cell.framePlace (c : Cell) (node : Nat) (r : NodeRec) (off len : Nat) : Bool :=
  decide (off + len ≤ r.inBytes) &&
  (r.kind ≠ 0 || decide (12 * r.naxes ≤ off)) &&
  (!(c.nodeRanges node 0).any (fun p => p.2.flags.testBit 0) || decide (off + len ≤ c.eventArea node))

/-- The least frame of a link: the header, a body of its type and the CRC. -/
def Cell.frameLen (c : Cell) (node : Nat) (r : NodeRec) : Nat :=
  28 + (if r.kind = 0 then 8 * r.naxes else if r.kind = 2 then ((c.safetyPoints node).length + 1) / 2 else 0)

/-- The link is configured and its frame position keeps the rules (R347). -/
def State.linkUsable (s : State) (node : Nat) : Bool :=
  match s.linkCfg node, s.theCell.nodes[node]? with
  | some l, some r => r.kind == 3 || s.theCell.framePlace node r l.offset (s.theCell.frameLen node r)
  | _, _ => false

/-- Count a failure of checks 1 to 4, 5 or 6 and record it in the link (R348). -/
def State.frameFails (s : State) (node err : Nat) : State :=
  let l := s.sep.linkOf node
  let w := s.sep.cnt
  let w := if err ≤ 4 then bump w 31 24 1 else if err = 5 then bump w 23 16 1 else bump w 15 8 1
  s.setSep { s.sep with cnt := w, links := mput {} s.sep.links node { l with err := err } }

/-- The first failing check of R348 for a frame `f` with arrival `arr`; none when it passes. `part` is the stamp of the
source's incomplete list: its further parts carry the same stamp (R350, log entry 42). -/
def frameCheck (c : LinkCfg) (l : LinkSt) (placed : Bool) (part : Option Nat) (f : List Byte) (arr : Nat) : Option Nat :=
  let len := u16 f 2
  let stamp := leAt f 12 8
  if !placed || len < 28 || 1400 < len || byteAt f 0 / 16 ≠ 1 || byteAt f 0 % 16 ≠ c.type then some 1
  else if u32 f (len - 4) ≠ crcFrom 0x5AFE5AFE (f.take (len - 4)) then some 2
  else if wordAt f 4 ≠ c.conn then some 3
  else if u32 f 20 ≠ c.wdUs then some 4
  else
    let seqOk := match l.state, l.last with
      | .ok, some v => let d := (wordAt f 8 - v.seq).toNat; decide (1 ≤ d) && decide (d < 2 ^ 31)
      | _, _ => true
    if !seqOk then some 5
    else
      let newer := match l.last with
        | some v => decide (v.stamp < stamp) || part == some stamp
        | none => true
      if !newer || arr < stamp || c.wdUs * 1000 < arr - stamp then some 6 else none

/-! ### Body lists (R350, R351) -/

/-- The capsules of a body record: seven signed or unsigned values of 2 mm each. -/
def capsOf : Nat → List Byte → List (List Int)
  | 0, _ => []
  | n + 1, bs => ((List.range 6).map (fun k => sgn 16 (u16 bs (2 * k))) ++ [(u16 bs 12 : Int)]) :: capsOf n (bs.drop 14)

/-- The body records of one part; none where they do not fit the part. -/
def bodiesOf : Nat → List Byte → Option (List Body)
  | 0, _ => some []
  | n + 1, bs =>
    let k := byteAt bs 1 % 4 + 1
    if bs.length < 4 + 14 * k then none
    else (bodiesOf n (bs.drop (4 + 14 * k))).map (fun r => ⟨byteAt bs 0, u16 bs 2, capsOf k (bs.drop 4)⟩ :: r)

/-- No index occurs twice. -/
def distinctIdx : List Body → Bool
  | [] => true
  | b :: r => !r.any (fun x => x.index == b.index) && distinctIdx r

/-- The bodies of a complete list, or none where the whole list is discarded (R351). -/
def listOf (rec : BodyRec) (parts : List (List Byte)) : Option (List Body) :=
  match parts.foldl (fun (a : Option (List Body)) p => match a, bodiesOf (u16 p 0) (p.drop 4) with
      | some x, some y => some (x ++ y)
      | _, _ => none) (some []) with
  | none => none
  | some bs =>
    if distinctIdx bs && bs.all (fun b => decide (b.index < rec.maxBodies) && decide (b.caps.length ≤ rec.capsPerBody)) then
      some bs else none

/-- A source with its list updated by an accepted part; the flags say a discard and a complete list in error. -/
def SourceSt.takePart (x : SourceSt) (rec : BodyRec) (stamp arrival index count : Nat) (body : List Byte) :
    SourceSt × Bool × Bool :=
  let old := match x.parts with
    | some p => if p.1 = stamp then some p else none
    | none => none
  let lost := x.parts.isSome && old.isNone
  let p := old.getD (stamp, count, [])
  let ps := mins p.2.2 index body
  if (List.range p.2.1).all (fun i => ps.any (fun e => e.1 == i)) then
    match listOf rec ((List.range p.2.1).map (fun i => mget [] ps i)) with
    | some bs => ({ x with parts := none, bodies := bs, stamp := stamp, arrival := arrival, state := 2 }, lost, false)
    | none => ({ x with parts := none }, lost, true)
  else ({ x with parts := some (p.1, p.2.1, ps) }, lost, false)

/-- SAFETY_FRAME (R348): a node's input payload with the cell time at which its last byte arrived. -/
def execSafetyFrame (node : Nat) (arrival : Nat) (bytes : List Byte) (s : State) : Host.Outcome State Fault Refusal :=
  match s.linkCfg node, s.theCell.nodes[node]? with
  | some c, some r =>
    let f := bytes.drop c.offset
    let l := s.sep.linkOf node
    let placed := decide (u16 f 2 ≤ f.length) && (r.kind == 3 || s.theCell.framePlace node r c.offset (u16 f 2))
    let part := match s.theCell.sourceOf node with
      | some b => s.sep.sources[f16 b.1].parts.map (·.1)
      | none => none
    match frameCheck c l placed part f arrival with
    | some e => .next (s.frameFails node e)
    | none =>
      let seq := wordAt f 8
      let gap := match l.state, l.last with
        | .ok, some v => (seq - v.seq).toNat - 1
        | _, _ => 0
      let body := slice f 24 (u16 f 2 - 28)
      let v : LinkVal := { seq := seq, stamp := leAt f 12 8, arrival := arrival
                           values := if c.type = 1 then [] else wordsAt body 0 ((body.length + 3) / 4) }
      let s := s.setSep { s.sep with
        links := mput {} s.sep.links node { l with state := .ok, last := some v, gaps := satN 0xFFFF (l.gaps + gap) } }
      if c.type ≠ 1 then .next s
      else
        match s.theCell.sourceOf node with
        | none => .next s
        | some b =>
          let t := s.sep.sources[f16 b.1].takePart b.2 v.stamp arrival (byteAt f 1 / 16) (byteAt f 1 % 16 + 1) body
          let s := s.setSep { s.sep with
            sources := s.sep.sources.set (f16 b.1) t.1
            cnt := if t.2.1 then bump s.sep.cnt 23 16 1 else s.sep.cnt }
          .next (if t.2.2 then s.frameFails node 1 else s)
  | _, _ => .next s

/-! ### The protective separation distance (R353 to R355) -/

/-- The parameters of a pair: units per mm, v_h, T_r in ms, a_s, and the fixed terms C + Z_d + Z_r in mm. -/
structure SepPar where
  unit : Nat
  vh   : Nat
  tr   : Nat
  acc  : Nat
  fix  : Nat
  deriving DecidableEq, Repr

/-- S_p(v) in the channel's unit, each term rounded up (R353, R344). -/
def SepPar.sp (x : SepPar) (v : Nat) : Int :=
  ((ceilDiv (x.unit * x.vh * (x.tr * x.acc + 1000 * v)) (1000 * x.acc) + ceilDiv (x.unit * v * x.tr) 1000 +
    ceilDiv (x.unit * v * v) (2 * x.acc) + x.unit * x.fix : Nat) : Int)

/-- v_h over a time in ns, in the channel's unit, rounded up. -/
def SepPar.lost (x : SepPar) (ns : Nat) : Int := ((ceilDiv (x.unit * x.vh * ns) 1000000000 : Nat) : Int)

/-- The scale of one pair in units of 2⁻¹⁶, rounded down (R354): v_cap / v_full with v_cap from the cap distance `D`. -/
def SepPar.scale (x : SepPar) (D : Int) (vfull : Nat) : Nat :=
  let k := D - ((ceilDiv (x.unit * x.vh * x.tr) 1000 + x.unit * x.fix : Nat) : Int)
  if k ≤ 0 then 0
  else if vfull = 0 then 65536
  else
    let b := x.acc * x.tr + 1000 * x.vh
    let root := isqrt (65536 * 65536 * (b * b + 2 * k.toNat * x.acc * (1000000 / x.unit)))
    min 65536 ((root - 65536 * b) / (1000 * vfull))

/-- The pair demands a stop at speed `v` (R355). -/
def SepPar.tooNear (x : SepPar) (deff : Int) (v : Nat) : Bool := decide (deff < x.sp v)

/-- Whole mm of a distance, from 0 to 65,535. -/
def wholeMm (unit : Nat) (d : Int) : Nat := min 65535 (d / unit).toNat

/-! ### Intake (R358) -/

/-- Occupied body slots: slot, source index, body. -/
def State.bodySlots (s : State) : List (Nat × Nat × Body) :=
  (List.range (min 16 s.theCell.bodies.length)).flatMap (fun i =>
    (s.sep.sources[f16 i].bodies).map (fun b => (s.theCell.bodyBase i + b.index, i, b)))

/-- Zones of a kind that apply to a chain: zone index and record. -/
def Cell.zonesFor (c : Cell) (zkind chain : Nat) : List (Nat × ZoneRec) :=
  (numbered 0 c.zones).filter (fun z => z.2.zkind == zkind && z.2.chains.testBit chain)

/-- A lost link stops an index: reason 5 for any body source, reason 6 for safe positions of its axes (R349). -/
def State.lostReason (s : State) (c : Fin 16) : Nat :=
  let ns := (numbered 0 s.theCell.nodes).filter (fun n => n.2.linked && decide ((s.sep.linkOf n.1).state = .lost))
  if ns.any (fun n => n.2.kind == 3) then 5
  else if ns.any (fun n => n.2.kind == 0 && (s.indexAxes c).any (fun a => n.2.axisList.contains a.1)) then 6
  else 0

/-- A body source has delivered no complete list since activation (R363). -/
def State.sourceWaits (s : State) : Bool :=
  (List.range (min 16 s.theCell.bodies.length)).any (fun i => s.sep.sources[f16 i].state == 1)

/-- One body against a chain: effective distance, whole mm of the distance, scale, and the stops at v_r and at 0. -/
structure PairRes where
  key    : Nat
  deff   : Int
  mm     : Nat
  scale  : Nat
  stop   : Bool
  atRest : Bool
  deriving DecidableEq, Repr

/-- The pair of a body and a chain, with its shapes and speeds, in one channel. -/
def State.bodyPair (s : State) (ch : Nat) (r : ChainRec) (shapes : List (Nat × Seg)) (v : Nat × Nat) (b : Nat × Nat × Body) :
    PairRes :=
  let w := s.sep.chains[f16 r.chain].sep
  let unit := sepUnit ch
  let x : SepPar := { unit := unit, vh := max (fld s.sep.ctrl 23 12) b.2.2.speed, tr := fld w 31 22, acc := 100 * fld w 21 12
                      fix := fld w 11 2 + fld s.sep.sources[f16 b.2.1].zd 31 24 + fld s.sep.chains[f16 r.chain].z 31 24 }
  let d := bodyGap ch shapes b.2.2
  let deff := d - x.lost (s.stamp - s.sep.sources[f16 b.2.1].stamp)
  ⟨b.1, deff, wholeMm unit d, x.scale (deff - x.lost (fld s.sep.ctrl 11 6 * 1000000)) v.2, x.tooNear deff v.1, x.tooNear deff 0⟩

/-- The pair of a forbidden zone and a chain in one channel: v_h, age, C and Z_d are 0. -/
def State.zonePair (s : State) (ch : Nat) (r : ChainRec) (shapes : List (Nat × Seg)) (v : Nat × Nat) (z : Nat × ZoneRec) :
    PairRes :=
  let w := s.sep.chains[f16 r.chain].sep
  let unit := sepUnit ch
  let x : SepPar := { unit := unit, vh := 0, tr := fld w 31 22, acc := 100 * fld w 21 12
                      fix := fld s.sep.chains[f16 r.chain].z 31 24 }
  let d := zoneGap ch shapes z.2
  ⟨64 + z.1, d, wholeMm unit d, x.scale d v.2, x.tooNear d v.1, x.tooNear d 0⟩

/-- A body is inside a zone that applies to a chain (R356). -/
def State.insideZone (s : State) (ch zkind chain : Nat) : Bool :=
  (s.theCell.zonesFor zkind chain).any (fun z => s.bodySlots.any (fun b => b.2.2.inZone ch z.2))

/-- The nearest pair. -/
def nearest : List PairRes → Option PairRes
  | [] => none
  | x :: r => match nearest r with
    | some y => if y.deff < x.deff then some y else some x
    | none => some x

/-- One channel's result for a chain index (R353 to R358, R362, R363). -/
def State.sepResult (s : State) (ch : Nat) (c : Fin 16) : SepRes :=
  let lost := s.lostReason c
  match s.theCell.chainRec c.val with
  | none => { stop := decide (lost ≠ 0), reason := lost, remains := decide (lost ≠ 0) || s.sourceWaits }
  | some r =>
    let v := s.chainSpeeds r ch
    let shapes := s.chainShapes ch r
    let bodies := s.bodySlots.map (s.bodyPair ch r shapes v)
    let zones := (s.theCell.zonesFor 2 c.val).map (s.zonePair ch r shapes v)
    let restricted := s.insideZone ch 1 c.val
    let collab := s.insideZone ch 0 c.val
    let slow := s.safety.index[c].sls || collab
    let cap := (bodies ++ zones).foldl (fun m x => min m x.scale) 65536
    let sls := if slow && decide (v.2 ≠ 0) then 9 * fld s.safety.index[c].cfg 21 12 * 65536 / (10 * v.2) else 65536
    let reason := if bodies.any (·.stop) then 1 else if restricted then 2 else if zones.any (·.stop) then 3 else lost
    { stop := decide (reason ≠ 0), reason := reason, scale := min cap sls
      dist := match nearest (bodies ++ zones) with
        | some x => wholeMm (sepUnit ch) x.deff
        | none => 0xFFFF
      body := match nearest bodies with
        | some x => x.key
        | none => 0
      dists := (bodies ++ zones).map (fun x => (x.key, x.mm)), sls := collab
      remains := bodies.any (·.atRest) || restricted || zones.any (·.atRest) || decide (lost ≠ 0) || s.sourceWaits }

/-- Links whose expectation has passed, and links that are not usable, are lost (R347, R349); of each link that is OK the latest
accepted frame is taken (R358). -/
def State.checkLinks (s : State) : State :=
  (numbered 0 s.theCell.nodes).foldl (fun s n =>
    if !n.2.linked then s
    else
      let l := s.sep.linkOf n.1
      let over_ := match s.linkCfg n.1, l.last with
        | some c, some v => decide (l.state = .ok) && decide (v.arrival + c.wdUs * 1000 < s.stamp)
        | _, _ => false
      let l := if over_ || !s.linkUsable n.1 then { l with state := .lost } else l
      s.setSep { s.sep with links := mput {} s.sep.links n.1 { l with taken := if l.state = .ok then l.last else none } }) s

/-- Source status follows its link (SM_SRCSTAT). -/
def State.checkSources (s : State) : State :=
  (numbered 0 (s.theCell.bodies.take 16)).foldl (fun s b =>
    let x := s.sep.sources[f16 b.1]
    let lost := decide ((s.sep.linkOf b.2.node).state = .lost)
    s.setSep { s.sep with sources := s.sep.sources.set (f16 b.1) { x with
      state := if x.state = 1 then 1 else if lost then 3 else 2
      ageMs := if x.state = 1 then 0 else satN 0xFFFF ((s.stamp - x.stamp) / 1000000) } }) s

/-- SEPARATION_INTAKE (R358): at B_j + 100 µs. -/
def execSeparationIntake (s : State) : Host.Outcome State Fault Refusal :=
  if !(s.cellOn && s.onGrid 1000000 100000) then .next s
  else
    let s := s.checkLinks.checkSources
    let t := s
    .next (foldOn (List.range 16) s (fun s c =>
      s.setSep { s.sep with chains := vmod s.sep.chains (f16 c) (fun x =>
        { x with res1 := t.sepResult 1 (f16 c), res2 := t.sepResult 2 (f16 c) }) }))

/-! ### Decisions (R359 to R362) -/

/-- Differences d₂ − d₁ of the pairs that are compared (R360). -/
def SepChain.diffs (x : SepChain) : List Int :=
  x.res1.dists.filterMap (fun a => match x.res2.dists.find? (fun b => b.1 == a.1) with
    | some b => if a.2 = 65535 ∧ b.2 = 65535 then none else some ((b.2 : Int) - a.2)
    | none => none)

/-- The final decision of a chain index (R359, R360). A channel's stop demand stops the chain by itself; its scale and distances
reach the other channel with its heartbeat, and channel 1 writes the caps. -/
def State.sepDecide (s : State) (hb1 hb2 : Bool) (c : Fin 16) : State :=
  let x := s.sep.chains[c]
  let ds := if hb1 || hb2 then x.diffs else []
  let bad := ds.filter (fun d => decide ((fld s.sep.ctrl 31 24 : Int) < d))
  let xfail := !bad.isEmpty
  let y := { x with
    stop := x.res1.stop || x.res2.stop || xfail, by1 := x.res1.stop || xfail, by2 := x.res2.stop || xfail
    reason := if x.res1.stop then x.res1.reason else if x.res2.stop then x.res2.reason else if xfail then 4 else 0
    d1 := x.res1.dist, d2 := x.res2.dist, scale := if hb2 then min x.res1.scale x.res2.scale else x.res1.scale, sls := x.res1.sls || x.res2.sls, body := x.res1.body, xfail := xfail
    res1 := { x.res1 with remains := x.res1.remains || xfail } }
  let s := s.setSep { s.sep with
    chains := s.sep.chains.set c y, cnt := bump s.sep.cnt 7 0 bad.length, xmax := ds.foldl max s.sep.xmax }
  if y.stop then s.stopIndex c (s.stopCat c.val) 33 else s

/-- The cap of a joint in counts/s: s × v max / LP_AXSCALE, rounded down (R361). -/
def capCounts (scale : Nat) (vmax axscale : Word) : Int :=
  let n := scale * f32Sig vmax
  let d := 65536 * f32Sig axscale
  let e := f32Exp vmax - f32Exp axscale
  if d = 0 then 2 ^ 31 - 1
  else if 0 ≤ e then min (2 ^ 31 - 1) ((n * 2 ^ e.toNat / d : Nat) : Int)
  else min (2 ^ 31 - 1) ((n / (d * 2 ^ (-e).toNat) : Nat) : Int)

/-- A cap for the servo cycle boundary `at_`. Of those whose boundary no sample can still precede only the latest is kept. -/
def LoopSlot.addCap (l : LoopSlot) (at_ old : Nat) (cap : Option Int) : LoopSlot :=
  { l with newCap := ((dueOf l.newCap old).getLast?).toList ++ (notDue l.newCap old).filter (fun e => e.1 != at_) ++ [(at_, cap)] }

/-- Channel 1 writes the final caps, which apply at the next servo cycle boundary (R361). -/
def State.writeCaps (s : State) : State :=
  let at_ := (s.stamp / s.servo + 1) * s.servo
  let old := at_ - 8 * s.servo
  s.theCell.chains.foldl (fun s r =>
    let sc := s.sep.chains[f16 r.chain].scale
    (numbered 0 (r.joints.take r.axes)).foldl (fun s j =>
      let a := 8 * r.chain + j.1
      let cap := if 65536 ≤ sc then none else some (capCounts sc (j.2.limits.getD 2 0) s.loops.axes[f160 a].scale)
      (s.slotsOfAxis a).foldl (fun s p =>
        let l := s.loops.engines[f16 p.1].slots[f32i p.2]
        if l.kind = 3 then s.setSlot (f16 p.1) (f32i p.2) (l.addCap at_ old cap) else s) s) s) s

/-- The links and sources at an activation: those of unchanged nodes keep their state (log entry 41); a link that is not
usable is lost from activation (R347). `old` is none for CELL_LOAD. -/
def State.activateLinks (s : State) (old : Option Cell) (new : Cell) : State :=
  let sameNode := fun (n : Nat) => match old with
    | some o => decide (o.nodes[n]? = new.nodes[n]?) && decide (o.bodies.find? (fun b => b.node == n) = new.bodies.find? (fun b => b.node == n))
    | none => false
  let links := (List.range 1016).foldl (fun (m : List (Nat × LinkSt)) n =>
    let l := s.sep.linkOf n
    match new.nodes[n]? with
    | some r =>
      if !r.linked then mput {} m n { l with state := .notUsed, last := none, taken := none }
      else if sameNode n && decide (l.state ≠ .notUsed) then m
      else mput {} m n { l with state := .waiting, err := 0, gaps := 0, last := none, taken := none }
    | none => mput {} m n { l with state := .notUsed, last := none, taken := none }) s.sep.links
  let sources := foldOn (List.range 16) s.sep.sources (fun v i => vmod v (f16 i) (fun x =>
    match new.bodies[i]? with
    | none => { zd := x.zd }
    | some b =>
      let kept := match old with
        | some o => decide (o.bodies[i]? = some b) && sameNode b.node
        | none => false
      if kept then x else { zd := x.zd, state := 1 }))
  let s := s.setSep { s.sep with links := links, sources := sources }
  (numbered 0 new.nodes).foldl (fun s n =>
    if n.2.linked && !s.linkUsable n.1 then
      s.setSep { s.sep with links := mput {} s.sep.links n.1 { s.sep.linkOf n.1 with state := .lost } }
    else s) s

end Sys2Proof.Machine
end

