-- ==== Sys2Proof/Machine/Cells.lean ====
section
/-! DEFINITION. Cell commands and placement activation (01_cell_model_and_placement.md, R9 to R12, R26 to R33, R441; with
SCHED_SWAP of R77 and R219, KERNEL_BIND of R78 and R260, staging of R220 and R221, and the unit faults of R236 and
R268). -/

namespace Sys2Proof.Machine

/-! ### What a job places -/

/-- The kernels that stay bound under a job (R260): none under a CELL_LOAD; under a CELL_AMEND those whose object is
still there. -/
def Job.keepsKernel (j : Job) (obj : Word) : Bool :=
  match j.kind with
  | .load | .check => false
  | .amend => if idType obj = 5 then decide (idIndex obj < j.cell.loops.length) else decide (idIndex obj < j.cell.points.length)
  | _ => true

/-- The current images under a job (R219): a swap puts its own image in. -/
def State.jobCurrent (s : State) (j : Job) : List (Nat × Nat) := if j.kind = .swap then j.current else s.solver.currentList

/-- The chains that are shed before a job's placement (R31): CELL_LOAD and CELL_AMEND place every chain. -/
def State.jobShed (s : State) (j : Job) : BitVec 16 :=
  match j.kind with
  | .load | .amend | .check => 0
  | _ => match s.cell.regrade with
    | some r => if r.phase = .placing then s.cell.shed else r.placement.shed
    | none => s.cell.shed

/-- The placement inputs of a job (R17). -/
def State.jobIn (s : State) (j : Job) (shed : BitVec 16) : PlaceIn :=
  let x := s.placeIn j.cell (s.jobCurrent j) j.bind shed
  { x with kernels := x.kernels.filter (fun k => j.keepsKernel k.2.2) }

/-- Problems whose image or partitions a placement changes (R220). -/
def State.changedProblems (s : State) (p : Placement) : List (Nat × Nat × Nat × Nat) :=
  p.problems.filter (fun e =>
    let x := s.solver.probs[f4 e.1]
    !(x.active && x.first == e.2.1 && x.count == e.2.2.1 && x.sched == e.2.2.2))

/-! ### The commands (R9 to R12) -/

/-- The ready bits of the rings that an image uses (R69). -/
def Cell.ringBits (c : Cell) : List Nat := ((List.range 4).filter c.usesRing).map rdRing

/-- The rule table in force, or the one that waits for its swap, fails the checks on an amended cell: BUSY, naming the range of the
first failing rule (R305). -/
def State.tablesBusy (s : State) (old new : Cell) : Option Verdict :=
  ((s.nibble.rules :: (s.nibble.rulesNext.map (·.1)).toList).findSome? new.ruleErrors).map (fun e =>
    ⟨stBusy, 0, ident 4 ((((new.rangeOf e.2).orElse (fun _ => old.rangeOf e.2)).map (·.1)).getD 0)⟩)

/-- A CELL_AMEND that must wait (R175, R305). -/
def State.amendBusy (s : State) (old new : Cell) : Option Verdict :=
  if (alteredChains old new).any (fun c => match s.motion.chains[f16 c].state with
      | .idle | .hold | .fault | .shed => false
      | _ => true) then some busy
  else s.tablesBusy old new

/-- A whole image: validation (R14, R441), the rings' ready bits (R69), the safety rule (R11), the waits, and then
placement runs. -/
def State.takeCell (s : State) (p : Pkt) (kind : JobKind) (bs : List Byte) : State :=
  if decide (kind = .amend) && !s.cellOn then s.finish p (badAt 0)
  else match validate bs (if kind = .amend then s.cell.active else none) with
  | .error v => s.finish p v
  | .ok c =>
    match s.notReady c.ringBits with
    | some ms => s.finish p ⟨stNotReady, w32 ms, 0⟩
    | none =>
      let old := s.theCell
      let alters := altersSafety old c
      if decide (kind ≠ .check) && alters && p.queue != 14 then s.finish p ⟨stRefused, 0, 0⟩
      else match (if kind = .amend then s.amendBusy old c else none) with
        | some v => s.finish p v
        | none =>
          let j : Job := { kind := kind, queue := p.queue, tag := p.tag, cell := c, current := s.solver.currentList
                           bind := none, phase := .placing, altersSafety := alters }
          s.setCell { s.cell with job := some j }

/-- CELL_LOAD (R9, R10, R12). -/
def execCellLoad (q : Fin 16) (tag : Fin 1024) (s : State) : Host.Outcome State Fault Refusal :=
  .next (s.startPkt q tag 0x10 (fun p t => t.fragment .cell p t.cell.job.isSome (fun bs u => u.takeCell p .load bs)))

/-- CELL_AMEND (R441). -/
def execCellAmend (q : Fin 16) (tag : Fin 1024) (s : State) : Host.Outcome State Fault Refusal :=
  .next (s.startPkt q tag 0x11 (fun p t => t.fragment .cell p t.cell.job.isSome (fun bs u => u.takeCell p .amend bs)))

/-- CELL_CHECK (R10): validation and placement without activation. -/
def execCellCheck (q : Fin 16) (tag : Fin 1024) (s : State) : Host.Outcome State Fault Refusal :=
  .next (s.startPkt q tag 0x13 (fun p t => t.fragment .cell p t.cell.job.isSome (fun bs u => u.takeCell p .check bs)))

/-- The current images but that of a problem. -/
def State.othersCurrent (s : State) (g : SchedImage) : List (Nat × Nat) := s.solver.currentList.filter (fun e => e.1 != g.problem)

/-- A chain of an image is covered by the current image of another problem (R219). -/
def State.swapClash (s : State) (g : SchedImage) : Bool :=
  (s.othersCurrent g).any (fun e => match s.solver.images[f16 e.2] with
    | some o => decide (o.chainMask &&& g.chainMask ≠ 0)
    | none => false)

/-- SCHED_SWAP (R77, R219); with no cell active the problem's first solve is cold (R240). -/
def execSchedSwap (q : Fin 16) (tag : Fin 1024) (s : State) : Host.Outcome State Fault Refusal :=
  .next (s.startPkt q tag 0x41 (fun p t =>
    match t.solver.named p.p0 with
    | none => t.finish p (badAt atP0)
    | some g =>
      if t.swapClash g then t.finish p (badAt atP0)
      else if t.cell.job.isSome then t.finish p busy
      else if !t.cellOn then
        (t.setSolver { t.solver with
          current := t.solver.current.set (f4 g.problem) (some g.index)
          solves := vmod t.solver.solves (f4 g.problem) (fun x => { x with warm := none }) }).finishOk p
      else
        let j : Job := { kind := .swap, queue := p.queue, tag := p.tag, cell := t.theCell
                         current := t.othersCurrent g ++ [(g.problem, g.index)], bind := none, phase := .placing }
        t.setCell { t.cell with job := some j }))

/-- An identity names a loop or a point range of the cell. -/
def Cell.bindNames (c : Cell) (obj : Word) : Bool :=
  (idType obj == 5 && decide (idIndex obj < c.loops.length)) || (idType obj == 4 && decide (idIndex obj < c.points.length))

/-- The object of a KERNEL_BIND fits the kernel (R260). -/
def Cell.bindOk (c : Cell) (k : KernelImage) (obj : Word) : Bool :=
  if idType obj = 5 then k.bindKind == 0 && decide (idIndex obj < c.loops.length)
  else if idType obj = 4 then
    match c.points[idIndex obj]? with
    | some r => k.bindKind == 1 && r.dir == 0 && (k.rate != 1 || r.cls == 1)
    | none => false
  else false

/-- KERNEL_BIND (R78, R260): parameters, then the bindings, then R12. -/
def execKernelBind (q : Fin 16) (tag : Fin 1024) (s : State) : Host.Outcome State Fault Refusal :=
  .next (s.startPkt q tag 0x51 (fun p t =>
    let k := f64 p.p0.toNat
    let x := t.tiles.kernels[k]
    match (if 63 < p.p0.toNat then none else x.image) with
    | none => t.finish p (badAt atP0)
    | some im =>
      if !t.theCell.bindOk im p.p1 then t.finish p (badAt atP1 (if t.theCell.bindNames p.p1 then p.p1 else 0))
      else
        let taken := (List.range 64).any (fun i => i != k.val && t.tiles.kernels[f64 i].bind == some p.p1)
        let own := match x.state with
          | .bound => true
          | .faulted => x.bind != some p.p1
          | _ => false
        if taken || own || t.cell.job.isSome then t.finish p busy
        else
          let j : Job := { kind := .bind, queue := p.queue, tag := p.tag, cell := t.theCell
                           current := t.solver.currentList, bind := some (k.val, p.p1), phase := .placing }
          t.setCell { t.cell with job := some j }))

/-- PLACE_READ (R33): the header, then the records from param0 that fit a reply payload. -/
def execPlaceRead (q : Fin 16) (tag : Fin 1024) (s : State) : Host.Outcome State Fault Refusal :=
  .next (s.startPkt q tag 0x12 (fun p t =>
    let rs := t.cell.placement.records
    let want := if p.p1 = 0 then 16383 else min 16383 p.p1.toNat
    if rs.length < p.p0.toNat then t.finish p (badAt atP0)
    else
      let part := (rs.drop p.p0.toNat).take want
      let hdr := leBytes 4 (digestOf rs).toNat ++ leBytes 2 t.cell.engMask.toNat ++
        [BitVec.ofNat 8 t.cell.partMask.toNat, BitVec.ofNat 8 (ones 16 t.cell.tileMask.toNat)] ++
        leBytes 4 rs.length ++ leBytes 4 t.cell.generation.toNat
      t.finishOk p (w32 part.length) (w32 rs.length) (hdr ++ part.flatMap ReadRec.bytes)))

/-! ### Placement completes (R18, R26, R28, R30 to R32, R58) -/

/-- A job ends without activation. DESIGN CHOICE (log entry 33): the SERVICE records that its announcement queued are still sent, with
its generation, since no rule withdraws them. -/
def State.endJob (s : State) (j : Job) (v : Verdict) : State :=
  let s := s.dropStaged.dropJob
  let s := if decide (s.twin.state = .paired) && (announcedBy (some j)).isSome then s.sendHello s.cell.nextDigest else s
  s.finishTag j.queue j.tag v

/-- A placed job is announced (R28): a first cell and a degraded placement activate at the next planning tick
boundary, any other one 16 boundaries after the next; its problems are staged meanwhile (R220). In a pair the digests
are exchanged (R26). -/
def State.announceJob (s : State) (j : Job) : State :=
  let soon := !s.cellOn || j.degraded
  let tick := s.tickNo + (if soon then 1 else 17)
  let changed := if soon then [] else s.changedProblems j.placement
  let stage := changed.map (·.1)
  let s := s.dropStaged.stageProblems (changed.map (fun e => (e.1, s.solver.images[f16 e.2.2.2])))
  let s := if soon then s else s.withdrawSwap.announceRings j.cell j.placement (tick * 1000000)
  let s := s.setCell { s.cell with job := some { j with phase := .announced tick, toStage := stage } }
  if s.twin.state = .paired then s.sendHello s.cell.nextDigest else s

/-- Degraded placement of a job from a set of shed chains (R31): the placement, where shedding leaves one, and the chains shed
with their reasons. -/
def State.degradeJob (s : State) (j : Job) : Option Placement × List (Nat × Verdict) :=
  degrade 17 (s.jobIn j) (s.jobShed j) []

/-- Each shed is reported with the reason and the object of the attempt that failed (R31). -/
def State.reportShed (s : State) (log : List (Nat × Verdict)) : State :=
  log.foldl (fun s e => s.notice .chainShed (65536 * e.1 + e.2.w0.toNat % 65536) e.2.w1.toNat) s

/-- A chain goes out of service (R31): its protective stop, then SHED. -/
def State.takeOut (s : State) (c : Nat) : State := (s.motionStop34 (f16 c)).shedChain (f16 c)

/-- A degraded re-placement of the active cell completes (R30, R31); in a pair its digest goes to the partner (R26). -/
def State.placeRegrade (s : State) (j : Job) : State :=
  let d := s.degradeJob j
  let s := s.reportShed d.2
  match d.1 with
  | some p =>
    let s := if j.rejoin then s.withdrawSwap else s
    let s := s.setCell { s.cell with regrade := some { j with placement := p, degraded := true, phase := .announced (s.tickNo + (if j.rejoin then 17 else 1)) } }
    if s.twin.state = .paired then s.sendHello s.cell.nextDigest else s
  | none =>
    let s := s.setCell { s.cell with regrade := none, shed := BitVec.ofNat 16 0xFFFF }
    s.theCell.chains.foldl (fun s r => s.takeOut r.chain) s

/-- A placed command goes on (R12, R28, R58): a check ends with the digest, an image on queue 14 waits for presence, and
everything else is announced. -/
def State.placedJob (s : State) (j : Job) : State :=
  if j.kind = .check then s.endJob j ⟨stOk, j.placement.digest, 0⟩
  else if j.queue = 14 ∧ j.stale = false ∧ j.newImage = true then
    match s.host.queues[f16 j.queue].find j.tag with
    | none => s.announceJob j
    | some o =>
      if o.origin = .partner then
        (s.setQueue 14 (s.host.queues[14].setPhase o.tag .pending)).setCell { s.cell with job := some { j with phase := .presence } }
      else
        let s := (s.setCell { s.cell with job := some { j with phase := .presence } }).toPending o
        if s.isPending j.queue j.tag then s else s.setCell { s.cell with job := none }
  else s.announceJob { j with stale := false }

/-- The placement of a command completes. A new image that a changed mask has made infeasible is placed by shedding, since no
degradation leaves the old image in force (R32); its announcement is withdrawn and placed again the same way. -/
def State.placeJob (s : State) (j : Job) : State :=
  match (if j.degraded then .error ⟨stInternal, 0, 0⟩ else (s.jobIn j (s.jobShed j)).place) with
  | .ok p => s.placedJob { j with placement := p }
  | .error v =>
    if j.degraded || (j.remasked && j.newImage) then
      match s.degradeJob j with
      | (some p, log) =>
        let s := s.reportShed log
        let k := { j with placement := p, degraded := true }
        if j.degraded then s.announceJob k else s.placedJob k
      | (none, _) => s.endJob j (match (s.jobIn j (s.jobShed j)).place with
        | .error w => w
        | .ok _ => v)
    else s.endJob j v

/-- PLACEMENT_COMPLETE (R18): a degraded re-placement first, then the command's. -/
def execPlacementComplete (s : State) : Host.Outcome State Fault Refusal :=
  match s.cell.regrade with
  | some j => if j.phase = .placing then .next (s.placeRegrade j)
      else match s.cell.job with
        | some k => if k.phase = .placing then .next (s.placeJob k) else .next s
        | none => .next s
  | none => match s.cell.job with
    | some k => if k.phase = .placing then .next (s.placeJob k) else .next s
    | none => .next s

/-! ### Staging (R220, R221) -/

/-- An announced placement is withdrawn, and its command completes with INTERNAL (R220). -/
def State.withdraw (s : State) (j : Job) : State := s.endJob j ⟨stInternal, 0, 0⟩

/-- STAGING_COMPLETE (R220, R221) of a problem, once the arbiters of its new partitions have granted its staging (R281). -/
def execStagingComplete (p : Fin 4) (eccOk : Bool) (s : State) : Host.Outcome State Fault Refusal :=
  let placed := match s.cell.job with
    | some j => if j.toStage.contains p.val then some j else none
    | none => none
  let served := fun (l : List Nat) => l.all (fun i => s.servedUnit i 1)
  match placed with
  | some j =>
    if !served (j.placement.problems.flatMap (fun e => if e.1 = p.val then (List.range e.2.2.1).map (e.2.1 + ·) else [])) then .next s
    else if eccOk then .next (s.setCell { s.cell with job := some { j with toStage := j.toStage.filter (· != p.val) } })
    else .next (s.withdraw j)
  | none =>
    if s.solver.probs[p].staging && eccOk && served s.solver.probs[p].parts then
      .next (s.setProb p { s.solver.probs[p] with staging := false })
    else .next s

/-- STAGING_DEADLINE (R220): at B_a − 2 ms. -/
def execStagingDeadline (s : State) : Host.Outcome State Fault Refusal :=
  match s.cell.job with
  | some j =>
    match j.phase with
    | .announced a =>
      if !j.toStage.isEmpty && decide (a * 1000000 ≤ s.stamp + 2000000) then .next (s.withdraw j) else .next s
    | _ => .next s
  | none => .next s

/-! ### Activation (R28 to R32) -/

/-- The solver at an activation (R220, R221): current images, partitions, the live area flip with what staging wrote. The
warm-start copy carries over, but for a problem that degraded re-placement has moved to other partitions (R240). -/
def State.activateSolver (s : State) (j : Job) : State :=
  let changed := s.changedProblems j.placement
  let has := fun (i : Nat) => changed.any (fun e => e.1 == i)
  let s := s.stageProblems ((changed.filter (fun e => j.degraded || !s.solver.solves[f4 e.1].staged)).map (fun e =>
    (e.1, s.solver.images[f16 e.2.2.2])))
  let v := s.solver
  let probs := foldOn (List.range 4) v.probs (fun w i => vmod w (f4 i) (fun x =>
    match j.placement.problems.find? (fun e => e.1 == i) with
    | none => { x with active := false, staging := false, complete := none }
    | some e =>
      if has i then
        { x with active := true, first := e.2.1, count := e.2.2.1, sched := e.2.2.2, area := 1 - x.area
                 staging := j.degraded, complete := none }
      else x))
  let current := if j.kind = .swap then j.current.foldl (fun (w : Vector (Option Nat) 4) e => w.set (f4 e.1) (some e.2)) v.current
    else v.current
  let solves := foldOn (List.range 4) v.solves (fun w i => vmod w (f4 i) (fun x =>
    match j.placement.problems.find? (fun e => e.1 == i) with
    | none => { x with running := false }
    | some e =>
      if !has i then x
      else
        let o := v.probs[f4 i]
        let moved := j.degraded && o.active && (o.first != e.2.1 || o.count != e.2.2.1)
        (if moved then { x with warm := none } else x).flip))
  s.setSolver { v with probs := probs, current := current, solves := solves }

/-- A kernel starts again with the initial data of its image on a tile (R260, R262). -/
def KernelSt.restart (x : KernelSt) (tile : Nat) : KernelSt :=
  { x with state := .bound, cause := 0, tile := tile, waiting := none, valid := false
           window := (x.image.map (·.initial)).getD [] }

/-- A kernel on its new tile (R262, R266): its windows go with it, and an activation that waits; one that was running ends without
commit. A bound kernel whose tile is out of the resource mask restarts. -/
def KernelSt.moved (x : KernelSt) (tile : Nat) (lost running : Bool) : KernelSt :=
  if x.tile = tile then x
  else if lost && decide (x.state = .bound) then x.restart tile
  else { x with tile := tile, valid := x.valid && !running }

/-- A kernel is unbound (R260): what DX_KSTAT, DX_KCYC, DX_KSEQ and DX_KOUT hold of its runs stays (R269). -/
def KernelSt.unbound (x : KernelSt) (running : Bool) : KernelSt :=
  { x with
    state := if x.image.isSome then .stored else .empty, cause := 0, bind := none, tile := 0, waiting := none, window := []
    valid := x.valid && !running }

/-- The kernels at an activation (R260 to R262). -/
def State.activateKernels (s : State) (j : Job) : State :=
  let v := s.tiles
  let placeOfK := fun (k : Nat) => (j.placement.kernels.find? (fun e => e.1 == k)).map (·.2)
  let stays := fun (k : Nat) (x : KernelSt) => match x.bind with
    | some o => j.keepsKernel o && (match j.bind with
        | some b => b.1 != k
        | none => true) && (match placeOfK k with
        | some t => t == x.tile
        | none => true)
    | none => false
  let kernels := foldOn (List.range 64) v.kernels (fun w k => vmod w (f64 k) (fun x =>
    let running := v.tiles[f16 x.tile].busy && v.tiles[f16 x.tile].core.kernel == k
    let moved := match placeOfK k with
      | some t => x.moved t (s.cell.tileMask.getLsbD x.tile) running
      | none => x
    match j.bind, x.bind with
    | some b, _ => if b.1 = k then { (x.restart ((placeOfK k).getD 0)) with bind := some b.2 } else moved
    | none, none => x
    | none, some o => if j.keepsKernel o then moved else x.unbound running))
  let tiles := foldOn (List.range 16) v.tiles (fun w t => vmod w (f16 t) (fun x =>
    let busy := x.busy && stays x.core.kernel v.kernels[f64 x.core.kernel]
    let come := (List.range 64).filter (fun k =>
      let y := kernels[f64 k]
      !stays k v.kernels[f64 k] && y.waiting.isSome && y.tile == t)
    { x with queue := x.queue.filter (fun k => stays k v.kernels[f64 k]) ++ come, busy := busy }))
  s.setTiles { v with tiles := tiles, kernels := kernels }

/-- The chains and auxiliary axes at the activation of a loaded or amended cell (R31, R158, R171). Over a running cell the pieces
and solutions in force stay (R175); `had` says that a cell was active. -/
def State.activateChains (s : State) (had : Bool) (j : Job) : State :=
  let chains := foldOn (List.range 16) s.motion.chains (fun w c => vmod w (f16 c) (fun x =>
    match j.cell.chainRec c with
    | none => {}
    | some _ => if decide (x.state = .shed) && !j.placement.shed.getLsbD c then { x with state := .idle } else x))
  let auxCmd := (numbered 0 j.cell.aux).foldl (fun (w : Vector Word 32) a =>
    w.set (f32i a.1) (if a.2.kind = 0 then 0 else s.measuredPos (128 + a.1))) s.motion.auxCmd
  let m := s.motion
  let s := s.setMotion { m with
    chains := chains, auxCmd := auxCmd
    probs := if had then m.probs else Vector.replicate 4 {}
    bankCur := if had then m.bankCur else Vector.replicate 160 none
    bankNext := if had then m.bankNext else Vector.replicate 160 none }
  if j.altersSafety then s.enterBath 3 else s

/-- A placement takes effect (R28 to R32): first what reads the old placement, then the new one, then what follows. -/
def State.putInForce (s : State) (j : Job) : State :=
  let newCell := decide (j.kind = .load ∨ j.kind = .amend)
  let old := s.cell.active
  let oldPl := s.cell.placement
  let kept := if j.kind = .load then none else old
  let shedNew := (maskBits 16 j.placement.shed.toNat).filter (fun c => !s.cell.shed.getLsbD c)
  let s := s.activateEngines kept j.cell j.placement
  let s := s.activateKernels j
  let s := s.activateSolver j
  let s := if newCell then s.activateNibbles kept j.cell else s
  let s := s.setCell { s.cell with
    active := some j.cell, placement := j.placement, generation := s.cell.generation + 1, shed := j.placement.shed }
  let s := if newCell then ((s.activateChains old.isSome j).activateRings old oldPl).holdRemoved.activateLinks kept j.cell else s
  shedNew.foldl (fun s c => s.takeOut c) s

/-- A job is due at the present planning tick. -/
def State.jobDue (s : State) (j : Job) : Bool :=
  match j.phase with
  | .announced a => decide (a ≤ s.tickNo)
  | _ => false

/-- In a pair the partner has placed something else (R26). -/
def State.digestsDiffer (s : State) (j : Job) : Bool := decide (s.twin.state = .paired) && s.twin.peerDigest != j.placement.digest

/-- The standby leaves the pair over a placement digest (R26, R371). -/
def State.leavePair (s : State) : State :=
  if s.twin.active then s else (s.setTwin { s.twin with refuse := 4 }).pairTo .out false

/-- A placement in force is shown to the partner of a pair, with the digest that the partner compares (R26). -/
def State.showPlaced (s : State) : State :=
  if s.twin.state = .paired then
    let s := s.sendHello s.cell.placement.digest true
    if s.cell.nextPlaced.isSome then s.sendHello s.cell.nextDigest else s
  else s

/-- A due placement without a command takes effect (R30, R382). Where the digests of a pair differ the standby leaves; the active still
gives up the lost unit (R30), but drops a placement that was only to follow a join (R26). -/
def State.activateRegrade (s : State) (j : Job) : State :=
  let differ := s.digestsDiffer j
  let clear := fun (t : State) => t.setCell { t.cell with regrade := none }
  if differ && (!s.twin.active || j.rejoin) then (clear s).leavePair else (clear (s.putInForce j)).showPlaced

/-- ACTIVATION (R26, R28): at the announced planning tick boundary. -/
def execActivation (s : State) : Host.Outcome State Fault Refusal :=
  if !s.onGrid 1000000 0 then .next s
  else
    let s := match s.cell.regrade with
      | some j => if s.jobDue j then s.activateRegrade j else s
      | none => s
    match s.cell.job with
    | some j =>
      if !s.jobDue j then .next s
      else if s.digestsDiffer j then .next (s.endJob j ⟨stInternal, 0, 0⟩).leavePair
      else if let some v := (if j.kind = .amend then s.tablesBusy s.theCell j.cell else none) then .next (s.endJob j v)
      else
        let s := s.putInForce j
        let s := (s.setCell { s.cell with job := none }).showPlaced
        .next (s.finishTag j.queue j.tag ⟨stOk, j.placement.digest, 0⟩)
    | none => .next s

/-! ### Unit faults (R30, R236, R268) -/

/-- PARTITION_FAULT (R236). -/
def execPartitionFault (p : Fin 8) (s : State) : Host.Outcome State Fault Refusal :=
  let uses := fun (x : ProbSt) => x.active && decide (x.first ≤ p.val) && decide (p.val < x.first + x.count)
  let s := foldOn (List.range 4) s (fun s i =>
    if uses s.solver.probs[f4 i] && s.solver.solves[f4 i].running then s.notSolved (f4 i) 1 else s)
  if s.cell.partMask.getLsbD p.val then .next s
  else
    let s := s.setCell { s.cell with partMask := bvSet s.cell.partMask p.val }
    .next (s.latchUnit rdSolver (s.cell.partMask == 0xFF)).maskChanged

/-- TILE_FAULT (R268): every kernel of the tile ends without commit, and the tile is masked. With `selfTest` the tile fails its
self-test, before DSP is ready, and is masked without a fault. -/
def execTileFault (t : Fin 16) (selfTest : Bool) (s : State) : Host.Outcome State Fault Refusal :=
  if selfTest && (s.isReady rdDsp || s.sys.inReset) then .next s
  else
    let ks := s.kernelsOn t
    let s := s.cutRun t
    let x := s.tiles.tiles[t]
    let s := s.setTile t { x with faulted := x.faulted || !selfTest, busy := false, queue := [] }
    let s := ks.foldl (fun s k => s.setKernel (f64 k) { s.tiles.kernels[f64 k] with valid := false, waiting := none }) s
    if s.cell.tileMask.getLsbD t.val then .next s
    else
      let s := s.setCell { s.cell with tileMask := bvSet s.cell.tileMask t.val }
      .next (s.latchUnit rdDsp (s.cell.tileMask == 0xFFFF)).maskChanged

end Sys2Proof.Machine
end

