-- ==== Sys2Proof/Machine/Can.lean ====
section
/-! DEFINITION. The four CAN FD controllers (16_can_fd.md): configuration (R387), buffers (R388 to R391), transmission
and cancels (R392, R393), error confinement (R394), and group 0xA_. -/

namespace Sys2Proof.Machine

/-! ### State of a controller -/

/-- CN_CTRL.mode in force: 0 until the first CAN_CFG (R395). -/
def CanSt.mode (c : CanSt) : Nat := if c.configured then fld c.ctrl 31 30 else 0

/-- CN_BUFCFG.use. -/
def CanBuf.use (b : CanBuf) : Nat := fld b.cfg 31 30

/-- The number of a controller state. -/
def CanState.code : CanState → Nat
  | .active => 0 | .passive => 1 | .busOff => 2 | .off => 3

/-- A controller enters a state; each change is reported (R394). -/
def State.canEnter (s : State) (n : Fin 4) (st : CanState) : State :=
  let c := s.can[n]
  if c.state = st then s else (s.setCanN n { c with state := st }).notice .canState n.val st.code

/-- The error state that the counts give (R394); entering bus-off counts it and, with auto_rec, begins recovery. -/
def State.canConfine (s : State) (n : Fin 4) : State :=
  let c := s.can[n]
  match c.state with
  | .off | .busOff => s
  | _ =>
    if 255 < c.tecN then
      (s.setCanN n { c with cnt := bump c.cnt 15 8 1, recov := 0, recovering := bitAt c.ctrl 28, onBus := none }).canEnter n .busOff
    else s.canEnter n (if 127 < c.tecN ∨ 127 < c.recN then .passive else .active)

/-- The controller takes part in bus traffic: on, integrated and not in bus-off. -/
def CanSt.onLine (c : CanSt) : Bool :=
  decide (c.mode ≠ 0) && c.sync && !decide (c.state = .off) && !decide (c.state = .busOff)

/-- One buffer of a controller changed. -/
def State.canBuf (s : State) (n : Fin 4) (b : Fin 64) (f : CanBuf → CanBuf) : State :=
  s.setCanN n { s.can[n] with bufs := vmod s.can[n].bufs b f }

/-! ### Frame records -/

/-- Data bytes of a DLC. -/
def dlcBytes (d : Nat) : Nat := if d ≤ 8 then d else ([12, 16, 20, 24, 32, 48, 64] : List Nat).getD (d - 9) 64

/-- The frame of a 72-byte record. -/
def frameOf (r : List Byte) : CanFrame where
  id := BitVec.ofNat 29 (u32 r 0)
  ext := bitAt (wordAt r 0) 29
  rtr := bitAt (wordAt r 0) 30
  fd := (byteAt r 5).testBit 0
  brs := (byteAt r 5).testBit 1
  dlc := f16 (byteAt r 4)
  data := slice r 8 (dlcBytes (byteAt r 4))

/-- The 72-byte record of a frame. -/
def canRecord (f : CanFrame) : List Byte :=
  leBytes 4 (f.id.toNat + 2 ^ 29 * b2n f.ext + 2 ^ 30 * b2n f.rtr) ++
  [BitVec.ofNat 8 f.dlc.val, BitVec.ofNat 8 (b2n f.fd + 2 * b2n f.brs), 0, 0] ++
  (f.data ++ List.replicate 64 0).take 64

/-- Offending offsets of a frame record (the frame table, R386). -/
def frameErrors (c : CanSt) (r : List Byte) : List Nat :=
  let w := wordAt r 0
  let fd := (byteAt r 5).testBit 0
  let ok0 := !bitAt w 31 && !(bitAt w 30 && fd) && (bitAt w 29 || fld w 28 11 == 0)
  let ok4 := decide (byteAt r 4 ≤ 15) && (fd || decide (byteAt r 4 ≤ 8))
  let ok5 := decide (byteAt r 5 ≤ 3) && !(fd && !bitAt c.ctrl 29) && (fd || !(byteAt r 5).testBit 1)
  (if ok0 then [] else [0]) ++ (if ok4 then [] else [4]) ++ (if ok5 then [] else [5]) ++
    (if zeroed r 6 2 then [] else [6])

/-- The arbitration order of pending frames (R392), smaller first; the buffer index comes last. -/
def canKey (f : CanFrame) (b : Nat) : Nat :=
  let base := if f.ext then f.id.toNat / 2 ^ 18 else f.id.toNat % 2 ^ 11
  let extBits := if f.ext then f.id.toNat % 2 ^ 18 else 0
  ((((base * 2 + b2n f.ext) * 2 ^ 18 + extBits) * 2 + b2n f.rtr) * 64) + b

/-- What a device tells its partner about a controller, in a COMMAND frame (R369, R394): code 4, controller,
buffer, what happened (0 counts only, 1 a frame was stored, 2 a pending frame ended), both error counts, and the rest. The
active sends them; the end of a frame is also told by a device that finishes it after a proof swap (R378). -/
def State.canShare (s : State) (n : Fin 4) (b kind : Nat) (rest : List Byte) : State :=
  if s.pairActive || (decide (kind = 2) && decide (s.twin.state = .paired)) then
    s.sendBenjo 6 ([4, BitVec.ofNat 8 n.val, BitVec.ofNat 8 b, BitVec.ofNat 8 kind] ++ leBytes 2 s.can[n].tecN ++
      leBytes 2 s.can[n].recN ++ rest)
  else s

/-! ### Receive buffers (R388 to R391) -/

/-- A receive buffer accepts a frame. -/
def CanBuf.accepts (b : CanBuf) (f : CanFrame) : Bool :=
  b.use == 1 && bitAt b.cfg 29 == f.ext && ((f.id.toNat ^^^ fld b.cfg 28 0) &&& fld b.mask 28 0) == 0

/-- A frame arrives at a receive buffer (R390); and whether a frame was lost. -/
def CanBuf.store (b : CanBuf) (f : CanFrame) (stamp : DWord) : CanBuf × Bool :=
  match b.lock with
  | none => ({ b with frame := some (f, stamp), full := true, overrun := b.overrun || b.full }, b.full)
  | some _ => ({ b with shadow := some (f, stamp), overrun := b.overrun || b.shadow.isSome }, b.shadow.isSome)

/-- A buffer is released: a full shadow moves in, else the buffer is empty (R390). -/
def CanBuf.release (b : CanBuf) : CanBuf :=
  match b.shadow with
  | some x => { b with lock := none, frame := some x, full := true, shadow := none }
  | none => { b with lock := none, full := false }

/-- Store a received frame in the lowest buffer that accepts it (R388, R390). -/
def State.canStore (s : State) (n : Fin 4) (f : CanFrame) (stamp : DWord) : State :=
  let c := s.can[n]
  match (List.range 64).find? (fun i => (c.bufs[f64 i]).accepts f) with
  | none => s
  | some i =>
    let r := (c.bufs[f64 i]).store f stamp
    let s := s.setCanN n { c with bufs := c.bufs.set (f64 i) r.1, cnt := if r.2 then bump c.cnt 31 24 1 else c.cnt }
    s.canShare n i 1 (leBytes 8 stamp.toNat ++ canRecord f)

/-- A frame received without error lowers the receive error count; above 127 it returns to a value from 119 to 127,
which ISO 11898-1 leaves open. -/
def recAfterGood (rec free : Nat) : Nat := if 127 < rec then 119 + Config.freeNat free % 9 else rec - 1

/-- CAN_FRAME_RECEIVED (R388, R390, R394): an error-free frame at the end of its EOF. -/
def execCanFrameReceived (n : Fin 4) (f : CanFrame) (sof : DWord) (s : State) : Host.Outcome State Fault Refusal :=
  let c := s.can[n]
  if !c.onLine || (f.fd && !bitAt c.ctrl 29) then .next s
  else
    let s := (s.setCanN n { c with recN := recAfterGood c.recN s.free }).nextFree
    .next (((s.canStore n f sof).canConfine n).canShare n 0 0 [])

/-- Lock a receive buffer: a read of word 0 (R389). -/
def State.canLock (s : State) (n : Fin 4) (b : Fin 64) : State :=
  s.canBuf n b (fun x => if x.use = 1 ∧ x.lock.isNone then { x with lock := some s.now } else x)

/-- Release a receive buffer: a read of word 19 (R389). -/
def State.canRelease (s : State) (n : Fin 4) (b : Fin 64) : State :=
  s.canBuf n b (fun x => if x.lock.isSome then x.release else x)

/-- BUFFER_LOCK_READ (R389). -/
def execBufferLockRead (n : Fin 4) (b : Fin 64) (s : State) : Host.Outcome State Fault Refusal := .next (s.canLock n b)

/-- BUFFER_RELEASE_READ (R389, R390). -/
def execBufferReleaseRead (n : Fin 4) (b : Fin 64) (s : State) : Host.Outcome State Fault Refusal :=
  .next (s.canRelease n b)

/-- CAN_LOCK_TIMEOUT (R389): 10 ms after the read of word 0. -/
def execCanLockTimeout (n : Fin 4) (b : Fin 64) (s : State) : Host.Outcome State Fault Refusal :=
  match s.can[n].bufs[b].lock with
  | some t =>
    if t + 10000000 ≤ s.now then
      let s := s.canRelease n b
      .next (s.setCanN n { s.can[n] with cnt := bump s.can[n].cnt 23 16 1 })
    else .next s
  | none => .next s

/-- Controller and buffer of param0. -/
def canOf (p : Pkt) : Fin 4 := f4 p.p0.toNat
def bufOf (p : Pkt) : Fin 64 := f64 (fld p.p0 13 8)

/-- CAN_RX_READ (R389, R391): the frame and its stamp; the buffer is locked and released. -/
def execCanRxRead (q : Fin 16) (tag : Fin 1024) (s : State) : Host.Outcome State Fault Refusal :=
  .next (s.startPkt q tag 0xA2 (fun p t =>
    let b := t.can[canOf p].bufs[bufOf p]
    if b.use ≠ 1 then t.finish p (badAt atP0)
    else if !b.full || b.lock.isSome then t.finish p busy
    else match b.frame with
      | none => t.finish p busy
      | some (f, stamp) =>
        let t := t.canBuf (canOf p) (bufOf p) CanBuf.release
        t.finishOk p (w32 stamp.toNat) (w32 (stamp.toNat / 2 ^ 32)) (canRecord f)))

/-! ### Transmission (R392, R393) -/

/-- CAN_TX (R84, R386, R392): the frame is pending from here on. -/
def execCanTx (q : Fin 16) (tag : Fin 1024) (s : State) : Host.Outcome State Fault Refusal :=
  .next (s.startPkt q tag 0xA0 (fun p t =>
    let b := t.can[canOf p].bufs[bufOf p]
    if b.use ≠ 2 then t.finish p (badAt atP0)
    else if p.payload.length ≠ 72 then t.finish p (badAt 0)
    else match (frameErrors t.can[canOf p] p.payload).head? with
      | some o => t.finish p (badAt (w32 o))
      | none =>
        if b.tx.isSome then t.finish p busy
        else t.canBuf (canOf p) (bufOf p) (fun x =>
          { x with tx := some (frameOf p.payload, p.queue, p.tag), cancel := [], tried := false, retries := 0 })))

/-- The pending frame of a buffer ends: its CAN_TX completes, and each held CAN_CANCEL after that reply is written,
with the given outcome (R84). -/
def State.endTx (s : State) (n : Fin 4) (b : Fin 64) (v : Verdict) (outcome : Word) : State :=
  let x := s.can[n].bufs[b]
  match x.tx with
  | none => s
  | some (_, q, tag) =>
    let s := s.canBuf n b (fun x => { x with tx := none, cancel := [], tried := false })
    let ws := x.cancel.map (fun c => (c.1, c.2, outcome))
    match (if tag < 1024 then s.host.queues[f16 q].find tag else none) with
    | some p => s.finishN 17 p v [] false ws
    | none => ws.foldl (fun s w => s.finishTag w.1 w.2.1 ⟨stOk, w.2.2, 0⟩) s

/-- A frame leaves the bus unsent: a held cancel or the loss of its packet ends it, else it stays pending. -/
def State.leaveBus (s : State) (n : Fin 4) (b : Fin 64) : State :=
  let s := s.setCanN n { s.can[n] with onBus := none }
  let x := s.can[n].bufs[b]
  let lostPkt := match x.tx with
    | some (_, _, tag) => decide (1024 ≤ tag)
    | none => false
  if !x.cancel.isEmpty || lostPkt then (s.canShare n b.val 2 ([0] ++ leBytes 8 0)).endTx n b ⟨stAborted, 0, 0⟩ 0
  else s.canBuf n b (fun x => { x with tried := true })

/-- Buffers with a pending frame and their keys. -/
def CanSt.waiting (c : CanSt) : List (Nat × Nat) :=
  (List.range 64).filterMap (fun i => match c.bufs[f64 i].tx with
    | some (f, _, _) => some (canKey f i, i)
    | none => none)

/-- The waiting buffer with the smallest key. -/
def bestKey : List (Nat × Nat) → Option Nat
  | [] => none
  | e :: r => match bestKey r with
    | none => some e.2
    | some j => some (if r.all (fun o => decide (e.1 < o.1)) then e.2 else j)

/-- A stamp of this instant within ±25 ns (R395): the offset is a free value. -/
def State.canStamp (s : State) : DWord := BitVec.ofNat 64 (s.stamp + 2 ^ 64 + Config.freeNat s.free % 51 - 25)

/-- CAN_SOF_OPPORTUNITY (R392): the best pending frame starts. Only the active device of a twin transmits (R369). -/
def execCanSofOpportunity (n : Fin 4) (s : State) : Host.Outcome State Fault Refusal :=
  let c := s.can[n]
  if !c.onLine || decide (c.mode ≠ 1) || s.isStandby || c.onBus.isSome then .next s
  else match bestKey c.waiting with
    | none => .next s
    | some i =>
      let b := c.bufs[f64 i]
      let b := if b.tried then { b with retries := satN 65535 (b.retries + 1) } else b
      let s := (s.setCanN n { c with onBus := some ⟨i, s.canStamp, false⟩, bufs := c.bufs.set (f64 i) b }).nextFree
      .next (s.emit (.canSof n.val i))

/-- CAN_ARBITRATION_END (R392, R393): the sample point of the last arbitration bit. -/
def execCanArbitrationEnd (n : Fin 4) (won : Bool) (s : State) : Host.Outcome State Fault Refusal :=
  let c := s.can[n]
  match c.onBus with
  | none => .next s
  | some o =>
    if o.won then .next s
    else if won then .next (s.setCanN n { c with onBus := some { o with won := true } })
    else .next ((s.setCanN n { c with cnt := bump c.cnt 7 0 1 }).leaveBus n (f64 o.buf))

/-- CAN_FRAME_COMPLETE (R392, R393): EOF without error; CAN_TX completes with the stamp of its SOF. -/
def execCanFrameComplete (n : Fin 4) (s : State) : Host.Outcome State Fault Refusal :=
  let c := s.can[n]
  match c.onBus with
  | none => .next s
  | some o =>
    if !o.won then .next s
    else
      let s := s.setCanN n { c with onBus := none, tecN := c.tecN - 1 }
      let held := !(s.can[n].bufs[f64 o.buf]).cancel.isEmpty
      let s := s.canShare n o.buf 2 ([1] ++ leBytes 8 o.sof.toNat)
      .next ((s.endTx n (f64 o.buf) ⟨stOk, w32 o.sof.toNat, w32 (b2n held)⟩ 1).canConfine n)

/-- CAN_CANCEL (R84, R393): a frame not on the bus is cancelled at once; on the bus the cancel is held. The standby holds every
cancel until its partner says how the frame ended (R369). -/
def execCanCancel (q : Fin 16) (tag : Fin 1024) (s : State) : Host.Outcome State Fault Refusal :=
  .next (s.startPkt q tag 0xA1 (fun p t =>
    let c := t.can[canOf p]
    if (c.bufs[bufOf p]).tx.isNone then t.finish p (badAt atP0)
    else
      let t := t.canBuf (canOf p) (bufOf p) (fun x => { x with cancel := x.cancel ++ [(p.queue, p.tag)] })
      if decide (p.origin = .partner) || (match c.onBus with | some o => o.buf == (bufOf p).val | none => false) then t
      else (t.canShare (canOf p) (bufOf p).val 2 ([0] ++ leBytes 8 0)).endTx (canOf p) (bufOf p) ⟨stAborted, 0, 0⟩ 0))

/-- Cancels that were held for a lost partner's word take effect (R379, R393). -/
def State.settleCancels (s : State) : State :=
  foldOn (List.range 4) s (fun s n => foldOn (List.range 64) s (fun s b =>
    let c := s.can[f4 n]
    if (c.bufs[f64 b]).cancel.isEmpty || (match c.onBus with | some o => o.buf == b | none => false) then s
    else s.endTx (f4 n) (f64 b) ⟨stAborted, 0, 0⟩ 0))

/-! ### Configuration (R387) -/

/-- Prescaler × (1 + tseg1 + tseg2) of the nominal and the data phase: 80 MHz over the bit rate. -/
def nbtDivider (w : Word) : Nat := (fld w 31 24 + 1) * (fld w 23 16 + fld w 15 9 + 3)
def dbtDivider (w : Word) : Nat := (fld w 31 27 + 1) * (fld w 26 22 + fld w 21 18 + 3)

/-- The entries of a CAN_CFG payload: CN_BUFCFG and CN_BUFMASK of each buffer. -/
def canCfgEntry (p : List Byte) (b : Nat) : Word × Word := (wordAt p (16 + 8 * b), setFld (wordAt p (20 + 8 * b)) 31 29 0)

/-- Offending offsets of a CAN_CFG payload (R387). -/
def canCfgErrors (p : List Byte) : List Nat :=
  let nb := wordAt p 0
  let db := wordAt p 4
  (if 80 ≤ nbtDivider nb ∧ fld nb 8 2 ≤ fld nb 15 9 ∧ 1 ≤ fld nb 23 16 then [] else [0]) ++
  (if 10 ≤ dbtDivider db ∧ dbtDivider db ≤ nbtDivider nb ∧ fld db 17 14 ≤ fld db 21 18 then [] else [4]) ++
  (if fld (wordAt p 8) 31 30 ≠ 3 then [] else [8]) ++ (if zeroed p 12 4 then [] else [12]) ++
  (List.range 64).flatMap (fun b => if fld (canCfgEntry p b).1 31 30 ≠ 3 then [] else [16 + 8 * b])

/-- The controller after CAN_CFG: off the bus with its error counters and each buffer's flags full and overrun clear, the shadow
empty (R387). DESIGN CHOICE (log entry 55): R387 says 'both flags' and does not name them. -/
def CanSt.configure (c : CanSt) (p : List Byte) : CanSt :=
  { c with
    ctrl := setFld (wordAt p 8) 27 0 0, nbt := setFld (wordAt p 0) 1 0 0, dbt := setFld (wordAt p 4) 5 0 0
    sync := false, tecN := 0, recN := 0, recov := 0, recovering := false, onBus := none, configured := true
    bufs := foldOn (List.range 64) c.bufs (fun v b => vmod v (f64 b) (fun x =>
      { x with cfg := (canCfgEntry p b).1, mask := (canCfgEntry p b).2, full := false, overrun := false, shadow := none })) }

/-- CAN_CFG (R387). -/
def execCanCfg (q : Fin 16) (tag : Fin 1024) (s : State) : Host.Outcome State Fault Refusal :=
  .next (s.startPkt q tag 0xA3 (fun p t =>
    if p.payload.length ≠ 528 then t.finish p (badAt 0)
    else match (canCfgErrors p.payload).head? with
      | some o => t.finish p (badAt (w32 o))
      | none =>
        let c := t.can[canOf p]
        if !c.waiting.isEmpty then t.finish p busy
        else
          let t := t.setCanN (canOf p) (c.configure p.payload)
          (t.canEnter (canOf p) (if t.can[canOf p].mode = 0 then .off else .active)).finishOk p))

/-- A write of CN_CTRL (R395, R396): mode 0 takes the controller off the bus, and leaving it rejoins; `recover` starts
a recovery from bus-off (R394). Before the first CAN_CFG the controller stays in mode 0. -/
def State.setCanCtrl (s : State) (n : Fin 4) (v : Word) : State :=
  let c := s.can[n]
  let old := c.mode
  let new := if c.configured then fld v 31 30 else 0
  let w := setFld (setFld v 31 30 new) 27 0 0
  let begins := bitAt v 27 && decide (c.state = .busOff) && !c.recovering
  let c := { c with ctrl := w, recovering := c.recovering || begins, recov := if begins then 0 else c.recov }
  if new = 0 ∧ old ≠ 0 then
    let s := s.setCanN n { c with sync := false }
    (match c.onBus with
     | some o => s.leaveBus n (f64 o.buf)
     | none => s).canEnter n .off
  else if new ≠ 0 ∧ old = 0 then (s.setCanN n { c with sync := false }).canEnter n .active
  else s.setCanN n c

/-- CAN_BUS_INTEGRATION (R387): 11 consecutive recessive bits have been seen. -/
def execCanBusIntegration (n : Fin 4) (s : State) : Host.Outcome State Fault Refusal :=
  let c := s.can[n]
  if decide (c.mode = 0) || c.sync || decide (c.state = .busOff) || decide (c.state = .off) then .next s
  else .next (s.setCanN n { c with sync := true })

/-! ### Error confinement (R394) -/

/-- CAN_BUS_ERROR (R393, R394): the counts follow ISO 11898-1, and a frame on the bus is tried again later unless a
cancel is held. -/
def execCanBusError (n : Fin 4) (e : CanError) (lec : Fin 7) (s : State) : Host.Outcome State Fault Refusal :=
  let c := s.can[n]
  if !c.onLine || decide (lec.val = 0) || (decide (e = .transmitter) != c.onBus.isSome) then .next s
  else
    let c' := { c with lec := lec.val }
    match e, c.onBus with
    | .transmitter, some o =>
      .next ((((s.setCanN n { c' with tecN := c.tecN + 8 }).leaveBus n (f64 o.buf)).canConfine n).canShare n 0 0 [])
    | .receiver, _ => .next (((s.setCanN n { c' with recN := satN 255 (c.recN + 1) }).canConfine n).canShare n 0 0 [])
    | .receiverDominant, _ =>
      .next (((s.setCanN n { c' with recN := satN 255 (c.recN + 8) }).canConfine n).canShare n 0 0 [])
    | .transmitter, none => .next s

/-- RECOVER (R394): 1 written to CN_CTRL.recover. -/
def execRecover (n : Fin 4) (s : State) : Host.Outcome State Fault Refusal :=
  let c := s.can[n]
  if c.state = .busOff ∧ c.recovering = false then .next (s.setCanN n { c with recovering := true, recov := 0 })
  else .next s

/-- CAN_RECOVERY_COMPLETE (R394): 128 occurrences of 11 consecutive recessive bits. -/
def execCanRecoveryComplete (n : Fin 4) (s : State) : Host.Outcome State Fault Refusal :=
  let c := s.can[n]
  if c.state = .busOff ∧ c.recovering = true then
    .next ((s.setCanN n { c with recovering := false, recov := 128, tecN := 0, recN := 0 }).canEnter n .active)
  else .next s

/-! ### Page words (R396) -/

/-- CN_STAT, CN_ERRCNT and CN_BUFST. -/
def CanSt.statWord (c : CanSt) : Word :=
  w32 (c.state.code * 2 ^ 30 + b2n c.sync * 2 ^ 29 + c.lec * 256 + c.recov)
def CanSt.errWord (c : CanSt) : Word := w32 (satN 511 c.tecN * 2 ^ 23 + satN 255 c.recN * 256)
def CanBuf.statWord (b : CanBuf) : Word :=
  w32 (b2n b.full * 2 ^ 31 + b2n b.lock.isSome * 2 ^ 30 + b2n b.shadow.isSome * 2 ^ 29 + b2n b.overrun * 2 ^ 28 +
    b2n b.tx.isSome * 2 ^ 27 + b2n (!b.cancel.isEmpty) * 2 ^ 26 + b.retries)

/-- Word `w` of a buffer image (R389). -/
def CanBuf.imageWord (b : CanBuf) (w : Nat) : Word :=
  match b.frame with
  | none => 0
  | some (f, st) => if w < 18 then wordAt (canRecord f) (4 * w) else if w = 18 then w32 st.toNat else w32 (st.toNat / 2 ^ 32)

end Sys2Proof.Machine
end

