-- ==== Sys2Proof/Machine/Plan.lean ====
section
/-! DEFINITION. The reference stage of a planning tick (06_motion_pipeline.md, R154, R158 to R173; R245, R337, R381): the
words that apply from the boundary, the motion commands, the segments of every chain, and what else starts there. -/

namespace Sys2Proof.Machine

/-- A standby that has lost its active is active from this boundary on (R379). -/
def State.takeOver (s : State) : State :=
  match s.twin.becomeActiveAt with
  | some k => if k ≤ s.tickNo then
      let drove := s.drivesSync
      let s := s.setTwin { s.twin with active := s.twin.active || decide (s.twin.state = .alone), becomeActiveAt := none }
      s.passSync drove
    else s
  | none => s

/-- Bracket mode is entered at the first planning tick boundary of a device in ALONE with a cell (R30, R381). -/
def State.enterBracket (s : State) : State :=
  if decide (s.twin.state = .alone) && s.cellOn && !s.twin.bracket then
    (s.setTwin { s.twin with bracket := true }).maskChanged
  else s

/-- The stop kinds that the waiting commands bring to a chain (R160). -/
def MotionSt.stopsOf (m : MotionSt) (c : Nat) : List Nat :=
  m.cmds.filterMap (fun x => match x with
    | .stop _ _ mask k => if mask.getLsbD c then some k else none
    | .quick d => if d = c then some 0 else none
    | _ => none)

/-- A MOTION_RESUME waits for a chain. -/
def MotionSt.resumes (m : MotionSt) (c : Nat) : Bool :=
  m.cmds.any (fun x => match x with
    | .resume _ _ mask => mask.getLsbD c
    | _ => false)

/-- The latest feed that waits for a chain (R166). -/
def MotionSt.feedOf (m : MotionSt) (c : Nat) : Option Nat :=
  m.cmds.foldl (fun f x => match x with
    | .feed _ _ mask v => if mask.getLsbD c then some v else f
    | _ => f) none

/-- The most severe of the stop kinds: 2, then 0, then 1 (R160). -/
def worstStop (ks : List Nat) : Option Nat :=
  if ks.contains 2 then some 2 else if ks.contains 0 then some 0 else if ks.contains 1 then some 1 else none

/-- The commands of one chain are applied; a stop governs over a resume and over a feed (R75, R160). -/
def State.applyCmds (s : State) (m : MotionSt) (c : Fin 16) : State :=
  match worstStop (m.stopsOf c.val) with
  | some k => s.applyStop c k
  | none =>
    let s := match m.feedOf c.val with
      | some v => s.setChain c { s.motion.chains[c] with feedTo := v }
      | none => s
    if m.resumes c.val then s.applyResume c else s

/-! ### The path ahead (R155, R156, R172 to R174) -/

/-- The path time that a segment takes: that of its run at the record's scales; an APPROACH takes no less than its line at its
approach speed, so it moves at the lower of the two (R173). -/
def State.segSpan (s : State) (r : ChainRec) (run : List (List Byte)) (place : Nat) (start : List Word) : Word :=
  let seg := run.getD place []
  let t := Config.segmentSpan (segLimits r seg) start run place
  if segType seg = 5 then
    f32MaxW t (f32Div (pointDistance (s.targetPose r seg 1) (s.toolAt r start 1)) (wordAt seg 60))
  else t

/-- The path from a record on, up to the first BARRIER: each path segment with the planning ticks that a DWELL before it takes.
It starts at path time `t0` and joint positions `start`; `done` holds the earlier records of its run, which began at the poses
`org`. -/
def State.planFrom (s : State) (r : ChainRec) : Nat → List (List Byte) → List (List Byte) → Word → List Word → List Word →
    List (Nat × PlanSeg)
  | _, [], _, _, _, _ => []
  | wait, seg :: rest, done, t0, start, org =>
    if segType seg = 7 then []
    else if segType seg = 4 then s.planFrom r (wait + dwellTicks seg) rest [] t0 start (s.startPoses r start)
    else
      let run := done ++ runAhead (seg :: rest)
      let t1 := f32Add t0 (s.segSpan r run done.length start)
      let goesOn := match rest with
        | n :: _ => joins seg n
        | [] => false
      let target := s.segTarget r seg start 1
      (wait, ⟨run, done.length, t0, t1, start, org⟩) :: s.planFrom r wait rest (if goesOn then done ++ [seg] else []) t1 target
        (if goesOn then org else s.startPoses r target)

/-- The joint positions that a chain holds where it has no path: in a moving frame those of the pose that it keeps there (R172). -/
def State.restOf (s : State) (c : Fin 16) : List Word :=
  let x := s.motion.chains[c]
  match x.follow, s.theCell.chainRec c.val with
  | some f, some h => s.segTarget h f x.rest 1
  | _, _ => if x.rest = [] then s.pinnedPos c.val else x.rest

/-- The segments that a running chain has ahead of it; under MOTION_STOP kind 1 only the executing one (R167). -/
def State.planAhead (s : State) (c : Fin 16) (r : ChainRec) : List (Nat × PlanSeg) :=
  let x := s.motion.chains[c]
  let q := if x.stopKind = some 1 then x.queue.take 1 else x.queue
  match x.executing, q with
  | true, seg :: rest =>
    if segType seg = 4 then s.planFrom r (x.dwellEnd - s.tickNo) rest [] x.sigma (s.restOf c) (s.startPoses r (s.restOf c))
    else s.planFrom r 0 q x.runDone x.segFrom x.start x.origin
  | _, _ => []

/-- The path that a running chain moves along: its recovery move, then its segments up to the next DWELL or BARRIER (R168). -/
def State.planPath (s : State) (c : Fin 16) (r : ChainRec) : List PlanSeg :=
  s.motion.chains[c].recMove.toList ++ ((s.planAhead c r).filter (fun e => e.1 == 0)).map (·.2)

/-- The start, the arc point and the target of an ARC are collinear: the arc point lies within 1 mm of the line through the
others, taken exactly (R155). -/
def collinear (a m b : List Word) : Bool :=
  let i := fun (l : List Word) (k : Nat) => f32Floor (l.getD k 0) 149
  let u := fun (k : Nat) => i b k - i a k
  let v := fun (k : Nat) => i m k - i a k
  let x := fun (j k : Nat) => u j * v k - u k * v j
  decide ((x 1 2 * x 1 2 + x 2 0 * x 2 0 + x 0 1 * x 0 1) * 1000000 ≤ (u 0 * u 0 + u 1 * u 1 + u 2 * u 2) * 2 ^ 298)

/-- An ARC of the path is collinear as it would be run (R155, R174). -/
def State.arcBad (s : State) (r : ChainRec) (x : PlanSeg) : Bool :=
  decide (segType x.seg = 2) &&
    collinear (s.poseBefore r x x.place 1) (s.arcVia r x.seg 1) (s.targetPose r x.seg 1)

/-- The path time of a chain at a knot offset, at the feed in force; knot 1 is pinned. -/
def ChainSt.timeAt (x : ChainSt) (n : Nat) : Word :=
  f32Add x.sigma (f32Mul (f32OfInt ((n - 1 : Nat) : Int)) (feedStepTime x.feed))

/-- A planned segment has no solution at a path time and a knot offset: from its start on where it is a collinear ARC, else where
its pose has no inverse kinematic solution within the joint limits (R174). -/
def State.noSolution (s : State) (r : ChainRec) (x : PlanSeg) (t : Word) (knot : Nat) : Bool :=
  f32Le x.t0 t && (s.arcBad r x || (hasPose x.seg && f32Le t x.t1 &&
    (s.solveJoints r x.seg x.joints (s.pathPose r x t knot) knot).isNone))

/-- Planning ticks from the present boundary to the first knot without a solution, when it lies within 64 ticks (R174). -/
def State.badTicks (s : State) (c : Fin 16) (r : ChainRec) : Option Nat :=
  let x := s.motion.chains[c]
  let ahead := s.planAhead c r
  (List.range' 1 64).find? (fun n => ahead.any (fun e => decide (e.1 < n) && s.noSolution r e.2 (x.timeAt (n - e.1)) n))

/-- The axis of an executing TRACK has passed window_end in its direction of travel (R172). -/
def State.windowPassed (s : State) (seg : List Byte) : Bool :=
  let p := s.auxAt 0 (trackAxis seg) 1
  let v := s.auxAt 1 (trackAxis seg) 1
  (f32Lt 0 v && f32Lt (trackEnd seg) p) || (f32Lt v 0 && f32Lt p (trackEnd seg))

/-! ### Segments of a chain (R158, R163, R166, R169, R172 to R174) -/

/-- Arrival at a BARRIER (R169, R170): it counts from the boundary of this stage, and a later member takes the arrival time of
the first. A different mask under the same id faults every member that has reached the barrier. -/
def State.reachBarrier (s : State) (c : Fin 16) (r : List Byte) : State :=
  let x := s.motion.chains[c]
  if x.arrived.isSome then s
  else
    let first := (maskBits 16 (barMask r)).findSome? (fun m =>
      if s.hasReached m (barId r) (barMask r) then s.motion.chains[f16 m].arrived else none)
    let s := s.setChain c { x with arrived := some (first.getD s.time.cellNs) }
    let mem := fun (m : Nat) => match s.motion.chains[f16 m].atBarrier with
      | some o => barId o == barId r && ((barMask r).testBit m || (barMask o).testBit c.val)
      | none => false
    let clash := (List.range 16).any (fun m => mem m && (match s.motion.chains[f16 m].atBarrier with
      | some o => barMask o != barMask r
      | none => false))
    if clash then foldOn ((List.range 16).filter mem) s (fun s m => s.segFault (f16 m) .barrierMismatch) else s

/-- The next segment starts at path time `t0`, or the chain is IDLE with an empty queue at standstill (R158). A BARRIER is
reached as it starts; a chain that follows a moving axis does not stand. -/
def State.nextSegment (s : State) (c : Fin 16) (t0 : Word) : State :=
  let x := s.motion.chains[c]
  match x.queue with
  | [] =>
    let moves := match x.follow with
      | some r => !f32IsZero (s.auxAt 1 (trackAxis r) 1)
      | none => false
    s.setChain c { x with state := if moves then .run else .idle, executing := false, stopKind := none }
  | r :: _ =>
    let x : ChainSt := { x with state := .run, executing := true, contact := 0, arrived := none }
    let start := s.restOf c
    let held := if x.follow.isSome then start else x.rest
    if segType r = 7 then (s.setChain c { x with follow := none, rest := held }).reachBarrier c r
    else if segType r = 4 then s.setChain c { x with follow := none, rest := held, dwellEnd := s.tickNo + dwellTicks r }
    else
      match s.theCell.chainRec c.val with
      | none => s.setChain c x
      | some h => s.setChain c { x with
          follow := none, rest := held, segFrom := t0, start := start
          origin := if x.runDone.isEmpty then s.startPoses h start else x.origin
          segEnd := f32Add t0 (s.segSpan h (x.runDone ++ runAhead x.queue) x.runDone.length start) }

/-- The head segment is complete; kind 1 stops there (R158, R167). A path segment leaves the chain at its target, a TRACK in the
moving frame, and the next one goes on from its end. -/
def State.segmentDone (s : State) (c : Fin 16) (held : Option (List Word) := none) : State :=
  let x := s.motion.chains[c]
  match x.queue with
  | [] => s.nextSegment c x.sigma
  | r :: rest =>
    let goesOn := match rest with
      | n :: _ => joins r n
      | [] => false
    let target := match s.theCell.chainRec c.val with
      | some h => s.segTarget h r x.start 1
      | none => []
    let x' : ChainSt := { x with
      queue := rest, executing := false, arrived := none, runDone := if goesOn then x.runDone ++ [r] else []
      rest := if isPath r then held.getD target else x.rest
      follow := if segType r = 6 then some r else x.follow }
    if x.stopKind = some 1 then s.setChain c { x' with state := .hold, stopKind := none, follow := none }
    else (s.setChain c x').nextSegment c (if isPath r && held.isNone then x.segEnd else x.sigma)

/-- The path of a running chain is planned anew (R163). -/
def State.replan (s : State) (c : Fin 16) (r : ChainRec) : State :=
  let x := s.motion.chains[c]
  if x.state ≠ .run then s
  else
    let p := s.planPath c r
    s.setChain c { x with path := p, segEnd := match (if x.recMove.isSome then p.drop 1 else p) with
      | e :: _ => e.t1
      | [] => x.segEnd }

/-- The feed of a chain moves one tick towards the new feed (R166). -/
def State.moveFeed (s : State) (c : Fin 16) (r : ChainRec) : State :=
  let x := s.motion.chains[c]
  s.setChain c { x with feed := feedAfter (r.scaled f32One f32One f32One) x.feedTo 1 x.feed }

/-- A recovery move that has reached its end is over; the executing segment goes on from there (R168). -/
def ChainSt.endRecovery (x : ChainSt) : ChainSt :=
  match x.recMove with
  | none => x
  | some m => if f32Lt x.sigma m.t1 then x else { x with recMove := none, recovery := none }

/-- A knot without a solution lies ahead: a quick stop that ends before it, or a protective stop (R174). -/
def State.pathFault (s : State) (c : Fin 16) (n : Nat) : State :=
  let x := s.motion.chains[c]
  if !x.moving s.tickNo || decide (s.quickTicks c < n) then s.segFault c .pathUnreachable
  else (s.protect c .pathUnreachable).motionStop34 c

/-- The executing path segment of a running chain at the reference stage (R172, R173): an axis past its window, contact, or the
end of the segment. -/
def State.runPath (s : State) (c : Fin 16) (r : List Byte) : State :=
  let x := s.motion.chains[c]
  let there := !f32Lt x.sigma x.segEnd
  if segType r = 6 && !there && s.windowPassed r then s.segFault c .trackWindow
  else if segType r = 5 ∧ fld s.motion.chcfgIn[c] 31 16 ≤ x.contact then
    s.segmentDone c (some ((List.range 8).map (fun j => s.measuredPos (8 * c.val + j))))
  else if !there then s
  else if segType r = 5 then
    if bitAt s.motion.chcfgIn[c] 15 then s.segFault c .noContact
    else (s.notice .noContact c.val (segId r).toNat).segmentDone c
  else s.segmentDone c

/-- A running chain in the reference stage (R158, R168, R169, R174). -/
def State.runChain (s : State) (c : Fin 16) (h : ChainRec) : State :=
  let s := (s.setChain c s.motion.chains[c].endRecovery).replan c h
  let x := s.motion.chains[c]
  match s.badTicks c h with
  | some n => s.nextFree.pathFault c n
  | none =>
    let s := s.nextFree
    if x.recMove.isSome then s
    else match x.current with
      | none => s.nextSegment c x.sigma
      | some r =>
        if segType r = 7 then s.reachBarrier c r
        else if segType r = 4 then (if x.dwellEnd ≤ s.tickNo then s.segmentDone c else s)
        else s.runPath c r

/-- The work of one chain in the reference stage of tick `k` (R158). -/
def State.stageChain (s : State) (c : Fin 16) (h : ChainRec) : State :=
  let s := s.moveFeed c h
  let x := s.motion.chains[c]
  match x.state with
  | .idle => if x.queue.isEmpty then s else s.nextSegment c x.sigma
  | .stopping =>
    if s.tickNo < x.stopEnd then s
    else s.setChain c { x with stopKind := none, state :=
      if x.fault ≠ .none then .fault else if x.stopKind = some 2 then .idle else .hold }
  | .run => s.runChain c h
  | _ => s

/-- Every member of a barrier is there: all start their next segments at this boundary; a member that waits for another is in
WAIT_BARRIER (R158, R169). -/
def State.releaseBarriers (s : State) : State :=
  foldOn (List.range 16) s (fun s c =>
    match s.motion.chains[f16 c].atBarrier with
    | none => s
    | some r =>
      let mem := maskBits 16 (barMask r)
      if mem.all (fun m => s.hasReached m (barId r) (barMask r)) then
        foldOn mem s (fun s m => s.segmentDone (f16 m))
      else s.setChain (f16 c) { s.motion.chains[f16 c] with state := .waitBarrier })

/-- The BARRIER records that wait in the queues. -/
def State.barriers (s : State) : Nat :=
  (s.motion.chains.toList.map (fun x => (x.queue.filter (fun r => segType r == 7)).length)).sum

/-- Barriers are released until none is complete: a BARRIER that follows another is reached at the same boundary (R169). -/
def State.releaseAll (s : State) : State := foldOn (List.range (s.barriers + 1)) s (fun s _ => s.releaseBarriers)

/-- The APPROACH that a chain executes. -/
def ChainSt.approach (x : ChainSt) : Option (List Byte) :=
  match x.current with
  | some r => if segType r = 5 then some r else none
  | none => none

/-- The force limit of the executing APPROACH reaches the chain's force-limit loops (R173, R181). -/
def State.setForces (s : State) (c : Fin 16) : State :=
  let x := s.motion.chains[c]
  let limit := x.approach.map (fun r => torqueUnits (wordAt r 56))
  (List.range 8).foldl (fun s j => (s.slotsOfAxis (8 * c.val + j)).foldl (fun s p =>
    let l := s.loops.engines[f16 p.1].slots[f32i p.2]
    if l.kind ≠ 2 then s
    else s.setSlot (f16 p.1) (f32i p.2) { l with
      force := limit, selRun := if limit.isSome && x.contact == 0 then 0 else l.selRun }) s) s

/-- One chain in the reference stage; a chain under a brake test is not started (R337). -/
def State.stageOne (s : State) (c : Fin 16) : State :=
  match s.theCell.chainRec c.val with
  | none => s
  | some h => if s.safety.index[c].test.isSome then s else s.stageChain c h

/-- A motion command completes at the end of the stage that applies it (R160, R167). -/
def State.completeCmd (s : State) (m : MotionCmd) : State :=
  match m with
  | .stop q t mask _ =>
    let n := (chainsOf mask).foldl (fun n c => max n (s.motion.chains[f16 c].toRest s.tickNo)) 0
    s.finishTag q t ⟨stOk, w32 n, 0⟩
  | .resume q t _ => s.finishTag q t ⟨stOk, 0, 0⟩
  | .feed q t _ _ => s.finishTag q t ⟨stOk, 0, 0⟩
  | .quick _ => s

/-- What the reference set of a chain is formed from (R160, R163): a chain that runs or stops has a path, another one rests. -/
def State.refPath (s : State) (c : Fin 16) : RefPath :=
  let x := s.motion.chains[c]
  let limits := s.limitsOf c.val f32One f32One f32One
  let stops := decide (x.state = .stopping ∨ x.state = .protect) && decide (s.tickNo < x.stopEnd)
  let runs := decide (x.state = .run) && (x.current.map isPath).getD false
  { free := s.free + c.val, sigma := x.sigma, feed := x.feed, feedTo := x.feedTo, limits := limits
    stop := if stops then some (x.stopEnd - s.tickNo) else none
    path := if stops || runs then x.path else []
    rest := s.restOf c, follow := x.follow }

/-- The reference set of the tick: the chains' paths and the targets of the auxiliary axes as they stand (R160, R171). An axis
whose index is stopped comes to rest, whatever MO_AUXCMD says (R319). -/
def State.newReferences (s : State) : State :=
  let from_ := foldOn (List.range 32) s.motion.auxFrom (fun (v : Vector (List Word) 32) k => v.set (f32i k) (s.pinned (128 + k)))
  let refs := foldOn (List.range 16) s.motion.refs (fun (v : Vector RefPath 16) c => v.set (f16 c) (s.refPath (f16 c)))
  (s.setMotion { s.motion with
    refTick := s.tickNo, refShift := 0, refFree := s.free + 16, refs := refs, auxIn := s.motion.auxCmd, auxFrom := from_
    auxStopped := (List.range 16).flatMap (fun c =>
      if s.safety.index[f16 c].state = .run then [] else s.safety.auxOf c)
    }).setFree (s.free + 17)

/-- REFERENCE_STAGE (R159, R160): at B_k. -/
def execReferenceStage (s : State) : Host.Outcome State Fault Refusal :=
  if !s.onGrid 1000000 0 then .next s
  else
    let s := s.latchDue.takeOver.enterBracket
    let m := s.motion
    let s := s.setMotion { m with cmds := [] }
    let s := foldOn (List.range 16) s (fun s c => s.applyCmds m (f16 c))
    let s := foldOn (List.range 16) s (fun s c => s.stageOne (f16 c))
    let s := s.releaseAll
    let s := s.theCell.chains.foldl (fun s r => s.replan (f16 r.chain) r) s
    let s := foldOn (List.range 16) s (fun s c => s.setForces (f16 c))
    let s := s.newReferences
    let s := m.cmds.foldl (fun s x => s.completeCmd x) s
    let s := foldOn (List.range 16) s (fun s c => s.startBrakeTest (f16 c))
    .next s.readmitNodes

end Sys2Proof.Machine
end

