-- ==== Sys2Proof/Machine/PageRead.lean ====
section
/-! DEFINITION. What every word of the parameter pages reads as (R433 and the word map of each chapter). A page function
answers none for a word that its chapter does not list: such a word is reserved. -/

namespace Sys2Proof.Machine

/-! ### Supplies (R413) -/

/-- Time below warning within the last 100 ms, in µs (R413): ended spans and the one that runs. -/
def State.belowUs (s : State) : Nat :=
  let y := s.sys
  let spans := (match y.dipAt with
    | some t => [(t, s.now)]
    | none => []) ++ y.spans
  let lo := s.now - 100000000
  (spans.map (fun p => min p.2 s.now - max p.1 lo)).sum / 1000

/-! ### Word by word -/

/-- Page 0x0000 (R3, R407, R410, R419). -/
def State.page0000 (s : State) (o : Nat) : Option Word :=
  let y := s.sys
  match o with
  | 0 => some sysId
  | 1 => some (w32 y.ready.toNat)
  | 2 => some y.faultWord
  | 3 => some (w32 (2 ^ 29 * y.bootCause + 2 ^ 28 * y.slot + 2 ^ 27 * b2n y.fallback + 2 ^ 26 * b2n y.unprov +
      2 ^ 25 * b2n y.bcfgDefault + 256 * y.secVer + y.floor))
  | 4 => some y.fwver
  | _ => none

/-- Page 0x0001: the boot configuration record (R401). -/
def State.page0001 (s : State) (o : Nat) : Option Word := if o < 32 then some (s.sys.bcfg.getD o 0) else none

/-- HQ_PRESENCE. -/
def HostSt.presenceWord (h : HostSt) : Word :=
  match h.presence with
  | some w => w32 (2 ^ 24 + 2 ^ 17 * h.panelAddr.toNat + w.code)
  | none => w32 (2 ^ 17 * h.panelAddr.toNat + 0xFFFF)

/-- A word of one queue on page 0x0100. -/
def QueueSt.word (x : QueueSt) (k : Nat) : Word :=
  match k with
  | 0 => x.qcfg
  | 1 => x.qtags
  | 2 => w32 x.sqBase.toNat
  | 3 => w32 (x.sqBase.toNat / 2 ^ 32)
  | 4 => w32 x.cqBase.toNat
  | 5 => w32 (x.cqBase.toNat / 2 ^ 32)
  | 6 => x.qsize
  | _ => w32 (2 ^ 31 * b2n x.halted + 2 ^ 16 * x.lastErr + satN 0xFFFF x.outstanding)

/-- Page 0x0100. -/
def State.page0100 (s : State) (o : Nat) : Option Word :=
  let h := s.host
  match o with
  | 0 => some h.ctrl
  | 1 => some h.ip0
  | 2 => some h.ip1
  | 3 => some h.errcnt
  | 4 => some h.presenceWord
  | _ => if 0x40 ≤ o ∧ o < 0xC0 then some ((h.queues[f16 ((o - 0x40) / 8)]).word ((o - 0x40) % 8)) else none

/-- The offset of a slot as TB_OFSn shows it: saturating, and never the value that means no measurement (R108). -/
def ofsWord (d : Option Int) : Word :=
  match d with
  | none => 0x80000000
  | some v => i32 (max (-(2 ^ 31 - 1)) (min (2 ^ 31 - 1) v))

/-- TB_STATUS. -/
def State.tbStatus (s : State) : Word :=
  let t := s.time
  let far := fun (n : Fin 2) => t.slots[n].locked && (match t.slots[n].offset with
    | some d => decide (20 < d.natAbs)
    | none => false)
  let gm := t.source == 1 && s.isGm t.curSlot
  w32 (2 ^ 29 * t.state.code + 2 ^ 28 * t.curSlot.val + 2 ^ 27 * b2n t.slots[(1 : Fin 2)].locked +
    2 ^ 26 * b2n t.slots[(0 : Fin 2)].locked + 2 ^ 25 * b2n (far 0 || far 1) + 2 ^ 24 * b2n (t.slew != 0) + 2 ^ 23 * b2n gm)

/-- Page 0x0200. -/
def State.page0200 (s : State) (o : Nat) : Option Word :=
  let t := s.time
  match o with
  | 0x00 => some t.ctrl
  | 0x01 => some s.tbStatus
  | 0x02 => some t.domain[(0 : Fin 2)]
  | 0x03 => some t.domain[(1 : Fin 2)]
  | 0x04 => some (ofsWord t.slots[(0 : Fin 2)].offset)
  | 0x05 => some (ofsWord t.slots[(1 : Fin 2)].offset)
  | 0x06 => some t.gm
  | 0x07 => some t.utc
  | 0x08 => some (match t.holdFrom with
      | some a => w32 ((s.now - a) / 1000000000)
      | none => 0)
  | 0x09 => some (w32 (2 ^ 31 * b2n t.syncInEdge + 2 ^ 16 * t.rejects + t.captures.toNat))
  | 0x0A => some (w32 t.syncIn.toNat)
  | 0x0B => some (w32 (t.syncIn.toNat / 2 ^ 32))
  | 0x0C => some t.outPer
  | 0x0D => some t.outOfs
  | 0x0E => some t.outW
  | _ => if 0x10 ≤ o ∧ o < 0x1A then some t.pcorr[fin 10 (by decide) (o - 0x10)] else none

/-- RG_RSTAT. DESIGN CHOICE (log entry 32): a node in RERANGE still speaks in its slot and counts among the participants in RUN. -/
def RingSt.statWord (x : RingSt) : Word :=
  let nodes := (x.nodes.filter (fun n => n.2.scheduled && n.2.node != 0xFFFF)).length + b2n (x.partner && decide (x.state = .run))
  w32 (2 ^ 28 * x.state.code + 2 ^ 27 * b2n x.broken + 2 ^ 26 * b2n x.slow + 2 ^ 25 * b2n x.partner + 2 ^ 24 * b2n x.head +
    2 ^ 16 * x.breakHop + 2 ^ 8 * satN 255 nodes + 2 ^ 5 * (x.adv % 8) + satN 15 x.collisions)

/-- Pages 0x0300 to 0x0304 (R151). DESIGN CHOICE (log entry 32): outside RUN no cycle is the current one, and RG_CYCLE reads the cycle
of the last output frame, or 0. -/
def State.pageRing (s : State) (r : Fin 4) (o : Nat) : Option Word :=
  let x := s.rings[r]
  match o with
  | 0 => some x.rcfg
  | 1 => some x.statWord
  | 2 => some x.loopA
  | 3 => some x.loopB
  | 4 => some x.errcnt
  | 5 => some (if x.state = .run then w32 s.seqNo else x.cycle)
  | _ => none

/-- Pages 0x0310 to 0x031F: the node status record of a hop. DESIGN CHOICE (log entry 32): the device's own hop is no node of the ring
and reads ABSENT. -/
def State.pageNode (s : State) (r : Fin 4) (h k : Nat) : Word :=
  let n := s.rings[r].hop h
  let index := match (s.theCell.hops r.val).find? (fun e => e.1 == h) with
    | some e => e.2.1
    | none => 0xFFFF
  wordAt (nodeRecord h n index) (4 * k)

/-- MO_STAT. -/
def State.moStat (s : State) : Word :=
  let run := maxOf (s.motion.probs.toList.map (·.misses))
  w32 (2 ^ 28 * satN 15 run + 2 ^ 16 * s.motion.fallbacks +
    ((List.range 16).map (fun c => 2 ^ c * b2n (s.motion.chains[f16 c].moving s.tickNo))).sum)

/-- MO_CHSTAT. -/
def ChainSt.statWord (x : ChainSt) : Word :=
  w32 (2 ^ 29 * x.state.code + 2 ^ 26 * x.fault.code + 2 ^ 17 * x.queue.length + x.feed)

/-- Page 0x0400 (R176). -/
def State.page0400 (s : State) (o : Nat) : Option Word :=
  let m := s.motion
  if o = 0 then some m.ctrl
  else if o = 1 then some s.moStat
  else if o = 2 then some (w32 s.tickNo)
  else if o < 0x10 then none
  else if o < 0x40 then
    let c := f16 ((o - 0x10) / 3)
    some (if (o - 0x10) % 3 = 0 then m.chcfg[c] else if (o - 0x10) % 3 = 1 then m.chains[c].statWord else m.chains[c].curId)
  else if o < 0x60 then some m.auxCmd[f32i (o - 0x40)]
  else some m.axff[f160 (o - 0x60)]

/-- LP_ENG. -/
def EngineSt.word (g : EngineSt) : Word :=
  w32 (2 ^ 31 * b2n g.faulted + 2 ^ 30 * b2n g.masked + 2 ^ 16 * (g.slots.toList.filter (·.valid)).length + g.batchMax)

/-- LP_AXSTAT. -/
def State.axStat (s : State) (a : Nat) : Word :=
  let x := s.loops.axes[f160 a]
  let g := (s.loops.groups.find? (fun e => e.2.command && e.2.axis == a)).map (·.2)
  w32 (2 ^ 31 * b2n x.fault + 2 ^ 28 * x.cause + 2 ^ 26 * (g.map (·.selected)).getD 0 + 2 ^ 24 * (g.map (·.primary)).getD 0)

/-- LP_GRP. -/
def GroupSt.word (g : GroupSt) : Word :=
  let ho := g.handover.filter (·.started)
  w32 (2 ^ 30 * g.primary + 2 ^ 28 * g.selected + 2 ^ 27 * b2n ho.isSome + 2 ^ 26 * b2n g.clamped +
    (match ho with
     | some h => h.window - h.k
     | none => 0))

/-- The latest LP_CFG and LP_REF written to a slot (R200). -/
def LoopSlot.cfgWord (l : LoopSlot) : Word := (l.newCfg.getLast?.map (·.2)).getD l.cfg
def LoopSlot.refWord (l : LoopSlot) : Word :=
  if l.kind = 2 ∨ l.kind = 4 ∨ l.kind = 5 then (l.newRef.getLast?.map (·.2)).getD l.ref else i32 l.r

/-- A slot word (R200). -/
def LoopSlot.word (l : LoopSlot) (w : Nat) : Option Word :=
  match w with
  | 0 => some (w32 (2 ^ 31 * b2n l.valid + 2 ^ 28 * l.kind + 2 ^ 26 * l.member + 2 ^ 24 * l.copy + 2 ^ 16 * l.group + l.loop))
  | 1 => some l.cfgWord
  | 2 => some l.refWord
  | 3 => some l.kp
  | 4 => some l.ki
  | 5 => some l.kd
  | 6 => some l.df
  | 7 => some (i32 l.omin)
  | 8 => some (i32 l.omax)
  | 9 => some l.sflag
  | 10 => some (i32 l.i)
  | 11 => some (i32 l.y)
  | 12 => some (i32 l.e)
  | 13 => some (i32 l.d)
  | 14 => some (w32 (256 * satN 0xFFFFFF l.missTotal + satN 255 l.missRun))
  | 15 => some 0
  | _ => none

/-- Pages 0x0500 to 0x0504 (R200). -/
def State.pageLoop (s : State) (k o : Nat) : Option Word :=
  let v := s.loops
  match k with
  | 0 =>
    if o = 0 then some v.ctrl
    else if o = 1 then some (w32 (2 ^ 16 * v.misses + ((List.range 16).map (fun e =>
      2 ^ e * b2n (v.engines[f16 e].faulted || v.engines[f16 e].masked))).sum))
    else if 0x10 ≤ o ∧ o < 0x20 then some (v.engines[f16 (o - 0x10)]).word
    else none
  | 1 => if o < 160 then some (w32 (2 ^ 31 * b2n v.axes[f160 o].torqueCmd)) else none
  | 2 => if o < 160 then some v.axes[f160 o].scale else none
  | 3 => if o < 160 then some (s.axStat o) else none
  | _ => if o < 128 then some (v.groupOf o).word else none

/-- EN_SCHED and EN_PROB. -/
def SolverSt.schedWord (v : SolverSt) (i : Nat) : Word :=
  match v.images[f16 i] with
  | none => 0
  | some g => w32 (2 ^ 31 + 2 ^ 30 * b2n (v.isCurrent i) + 2 ^ 28 * g.problem + 2 ^ 24 * g.partitions + g.chainMask)
def State.probWord (s : State) (p : Nat) : Word :=
  let x := s.solver.probs[f4 p]
  let st := x.staging || (match s.cell.job with
    | some j => j.toStage.contains p
    | none => false)
  w32 (2 ^ 31 * b2n x.active + 2 ^ 28 * x.first + 2 ^ 24 * x.count + 2 ^ 20 * x.sched + 2 ^ 19 * x.area + 2 ^ 18 * b2n st)

/-- Page 0x0600 (R222). -/
def State.page0600 (s : State) (o : Nat) : Option Word :=
  let v := s.solver
  if o = 1 then some (w32 (2 ^ 16 * satN 0xFFFF v.asmMax + satN 0xFFFF v.asmLast))
  else if o = 2 then some v.err
  else if o = 3 then some v.loadErr
  else if o = 4 then some v.loadOfs
  else if o = 5 then some v.far
  else if 0x08 ≤ o ∧ o < 0x18 then some (v.schedWord (o - 0x08))
  else if 0x18 ≤ o ∧ o < 0x28 then some (match v.images[f16 (o - 0x18)] with
    | some g => g.family
    | none => 0)
  else if 0x30 ≤ o ∧ o < 0x34 then some (s.probWord (o - 0x30))
  else if 0x40 ≤ o ∧ o < 0x80 then some v.weights[f64 (o - 0x40)]
  else none

/-- Page 0x0601 (R245): SV_SCYC is the prediction of R232 at the counts in force. -/
def State.page0601 (s : State) (o : Nat) : Option Word :=
  let v := s.solver
  if o = 0 then some v.ctrl
  else if o = 1 then some v.stat
  else if 0x10 ≤ o ∧ o < 0x20 then some (match v.images[f16 (o - 0x10)] with
    | some g => w32 (g.predict (fld v.ctrlIn 31 24) (fld v.ctrlIn 23 16))
    | none => 0)
  else none

/-- Pages 0x0602 to 0x0605 (R245). -/
def SolveSt.word (x : SolveSt) (o : Nat) : Option Word :=
  match o with
  | 0 => some (w32 (2 ^ 24 * x.flags + x.repTick % 65536))
  | 1 => some x.rho
  | 2 => some x.sigma
  | 3 => some x.eqs
  | 4 => some x.floor
  | 5 => some x.rej
  | 6 => some (w32 x.cycLast)
  | 7 => some (w32 x.cycMax)
  | 8 => some x.cnt
  | _ => none

/-- Page 0x0700 (R269). -/
def State.page0700 (s : State) (o : Nat) : Option Word :=
  let v := s.tiles
  if o = 0 then some v.ctrl
  else if o = 1 then some (w32 (((List.range 16).map (fun t =>
    2 ^ (16 + t) * b2n (v.tiles[f16 t].faulted || s.cell.tileMask.getLsbD t) + 2 ^ t * b2n v.tiles[f16 t].memcfg)).sum))
  else if 0x10 ≤ o ∧ o < 0x20 then some (w32 (2 ^ 31 * b2n v.tiles[f16 (o - 0x10)].memcfg))
  else if 0x20 ≤ o ∧ o < 0x30 then some (s.tstatWord (f16 (o - 0x20)))
  else if 0x30 ≤ o ∧ o < 0x40 then some (v.tiles[f16 (o - 0x30)].teccWord)
  else none

/-- The number of a kernel state. -/
def KState.code : KState → Nat
  | .empty => 0 | .stored => 1 | .bound => 2 | .faulted => 3

/-- A word of page 0x0701 (R269). -/
def KernelSt.word (x : KernelSt) (k : Nat) : Word :=
  match k with
  | 0 => w32 (2 ^ 30 * x.state.code + 2 ^ 27 * x.cause + 2 ^ 26 * b2n x.gov + 2 ^ 25 * b2n x.sat + 2 ^ 24 * b2n x.valid +
      2 ^ 16 * satN 255 x.overruns + 2 ^ 12 * x.tile + satN 0xFFF x.skipped)
  | 1 => x.kseq
  | 2 => w32 (2 ^ 16 * satN 0xFFFF x.cycMax + satN 0xFFFF x.cycLast)
  | _ => x.bind.getD 0xFFFFFFFF

/-- AB_INST. -/
def State.instWord (s : State) (i : Nat) : Word :=
  let a := s.disp.arbs[fin 25 (by decide) i]
  let held := match a.holder with
    | some h => 2 ^ 30 + 2 ^ 28 * h.cls + 2 ^ 27 * b2n h.bg + 2 ^ 24 * h.index
    | none => 0
  w32 (2 ^ 31 * b2n (s.unitMasked i) + held + 2 ^ 16 * ((List.range 8).map (fun r =>
    2 ^ r * b2n (a.waiting.any (fun w => w.index == r)))).sum + satN 0xFFFF a.preempt)

/-- Page 0x0800 (R289). -/
def State.page0800 (s : State) (o : Nat) : Option Word :=
  let d := s.disp
  if o = 0 then some (w32 (2 ^ 16 * d.rlMax + satN 0xFFFF s.delayUsed))
  else if o = 1 then some (w32 (s.stamp / 1000))
  else if o = 2 then some d.late
  else if 0x10 ≤ o ∧ o < 0x16 then some d.bg[fin 6 (by decide) (o - 0x10)]
  else if 0x20 ≤ o ∧ o < 0x39 then some (s.instWord (o - 0x20))
  else if 0x40 ≤ o ∧ o < 0x48 then
    some (w32 (2 ^ 30 * (d.memcls[fin 8 (by decide) (o - 0x40)]).toNat + 2 ^ 29 * b2n (o == 0x45 || o == 0x46)))
  else none

/-- Page 0x0900 (R315). -/
def State.page0900 (s : State) (o : Nat) : Option Word :=
  let x := s.nibble
  match o with
  | 0 => some x.ctrl
  | 1 => some (w32 (2 ^ 14 * x.forcedCount))
  | 2 => some x.iocyc
  | 3 => some (w32 (2 ^ 24 * x.window + x.store.length))
  | 4 => some x.devcnt
  | 5 => some (w32 (2 ^ 15 * x.rules.length + satN 0x3FFF x.passMax))
  | 6 => some (w32 (2 ^ 16 * satN 0xFFFF x.misses + satN 0xFFFF x.heldFault.length))
  | _ => none

/-- The numbers of the safety states and of a brake test result. -/
def SafeState.code : SafeState → Nat
  | .sto => 0 | .ss1 => 1 | .run => 2
def BrkResult.code : BrkResult → Nat
  | .none => 0 | .pass => 1 | .fail => 2 | .aborted => 3

/-- SF_SINSTAT. -/
def PairSt.word (p : PairSt) : Word :=
  w32 (2 ^ 31 * b2n p.active + 2 ^ 30 * b2n p.lineA + 2 ^ 29 * b2n p.lineB + 2 ^ 27 * p.cause + p.faults)

/-- SF_CHSTAT and SF_BRKSTAT. -/
def IndexSt.chWord (x : IndexSt) : Word :=
  w32 (2 ^ 30 * x.state.code + 2 ^ 24 * x.cause + 2 ^ 23 * b2n x.sls + 2 ^ 22 * b2n x.manual)
def IndexSt.brkWord (x : IndexSt) (now : Nat) : Word :=
  w32 (2 ^ 30 * x.result.code + 2 ^ 29 * b2n x.test.isSome + 2 ^ 16 * x.hours now + x.tests.toNat)

/-- Page 0x0A00 (R342). -/
def State.page0A00 (s : State) (o : Nat) : Option Word :=
  let f := s.safety
  if o = 0 then some (w32 (2 ^ 31 * b2n f.cfgValid + 2 ^ 30 * b2n f.ch1Ok + 2 ^ 29 * b2n f.ch2Ok + 2 ^ 28 * b2n f.bath +
    2 ^ 27 * b2n f.estopActive + ((List.range 16).map (fun c => 2 ^ c * b2n (decide (f.index[f16 c].state = .run)))).sum))
  else if o = 1 then some f.cfgCrc
  else if o = 2 then some (w32 (2 ^ 24 * f.bathCause + f.entries))
  else if o = 3 then some (w32 (2 ^ 31 * b2n (f.srst.toList.any (·.pressed)) + 2 ^ 30 * b2n f.boot + 2 ^ 29 * b2n f.stuck + 2 ^ 24 * f.refused +
    f.accepted.toNat))
  else if o = 4 then some f.estopCfg
  else if o = 5 then some f.otest
  else if o = 6 then some 0
  else if o < 0x10 then none
  else if o < 0x20 then some f.sinCfg[f16 (o - 0x10)]
  else if o < 0x30 then some (f.sins[f16 (o - 0x20)]).word
  else if o < 0x40 then some (f.index[f16 (o - 0x30)]).cfg
  else if o < 0x50 then some (f.index[f16 (o - 0x40)]).chWord
  else if o < 0x60 then some (f.index[f16 (o - 0x50)]).brk
  else if o < 0x70 then some ((f.index[f16 (o - 0x60)]).brkWord s.time.cellNs)
  else if o < 0x90 then some f.funcs[f32i (o - 0x70)]
  else if o < 0x98 then some f.auxsto[fin 8 (by decide) (o - 0x90)]
  else none

/-- SM_CHSTAT and SM_CHDIST. -/
def SepChain.statWord (x : SepChain) : Word :=
  w32 (2 ^ 31 * b2n x.stop + 2 ^ 27 * x.reason + 2 ^ 21 * (x.body % 64) + 2 ^ 20 * b2n x.by2 + 2 ^ 19 * b2n x.by1 +
    2 ^ 18 * b2n x.sls + satN 0xFFFF x.scale)
def SepChain.distWord (x : SepChain) : Word := w32 (2 ^ 16 * x.d1 + x.d2)

/-- Source `i` has a complete list within its expectation: its link is not lost, and the list is no older than that
(SM_STAT.src_ok, log entry 42). -/
def State.sourceOk (s : State) (i : Nat) : Bool :=
  let x := s.sep.sources[f16 i]
  match s.theCell.bodies[i]? with
  | some b => decide (x.state = 2) && decide (s.stamp ≤ x.arrival + b.wdUs * 1000)
  | none => false

/-- Page 0x0B00 (R365). -/
def State.page0B00 (s : State) (o : Nat) : Option Word :=
  let p := s.sep
  let srcs := List.range (min 16 s.theCell.bodies.length)
  if o = 0 then some p.ctrl
  else if o = 1 then some (w32 (2 ^ 24 * satN 255 s.bodySlots.length +
    2 ^ 8 * (srcs.map (fun i => 2 ^ i * b2n (s.sourceOk i))).sum))
  else if o = 2 then some p.cnt
  else if o = 3 then some (w32 (2 ^ 16 * (i32 p.xmax).toNat % 2 ^ 32))
  else if 0x10 ≤ o ∧ o < 0x30 then
    some (if o % 2 = 0 then p.chains[f16 ((o - 0x10) / 2)].sep else p.chains[f16 ((o - 0x10) / 2)].z)
  else if 0x30 ≤ o ∧ o < 0x40 then some (p.chains[f16 (o - 0x30)]).statWord
  else if 0x40 ≤ o ∧ o < 0x50 then some (p.chains[f16 (o - 0x40)]).distWord
  else if 0x50 ≤ o ∧ o < 0x60 then some (p.sources[f16 (o - 0x50)]).zd
  else if 0x60 ≤ o ∧ o < 0x70 then
    let x := p.sources[f16 (o - 0x60)]
    some (w32 (2 ^ 30 * x.state + 2 ^ 23 * satN 127 x.bodies.length + x.ageMs))
  else none

/-- The number of a link state. -/
def LinkState.code : LinkState → Nat
  | .notUsed => 0 | .waiting => 1 | .ok => 2 | .lost => 3

/-- Pages 0x0B10 to 0x0B1F: the link of a node record (R365). -/
def State.pageLink (s : State) (n k : Nat) : Option Word :=
  let l := s.sep.linkOf n
  let src := match s.theCell.nodes[n]? with
    | some r => if r.kind = 3 then s.theCell.sourceOf n else none
    | none => none
  if 1016 ≤ n then none
  else match k with
  | 0 => some (match src with
      | some b => b.2.connId
      | none => l.conn)
  | 1 => some (match src with
      | some b => w32 (2 ^ 31 + 16 * satN 0xFFFF (ceilDiv b.2.wdUs 10))
      | none => l.cfg)
  | 2 => some (w32 (2 ^ 30 * l.state.code + 2 ^ 27 * l.err + l.gaps))
  | _ => some ((l.last.map (·.seq)).getD 0)

/-- The planning tick of the next proof swap: the announced one, else in a pair the one that is due (R383). -/
def State.nextSwap (s : State) : Option Nat :=
  match s.twin.swapTick with
  | some t => some t
  | none => if s.twin.state = .paired then some s.swapDue else none

/-- TW_SWAP (R383). -/
def State.swapWord (s : State) : Word :=
  match s.nextSwap with
  | some t => w32 t
  | none => 0xFFFFFFFF

/-- Page 0x0C00 (R383). -/
def State.page0C00 (s : State) (o : Nat) : Option Word :=
  match o with
  | 0 => some s.twin.cfg
  | 1 => some s.twStat
  | 2 => some s.swapWord
  | 3 => some s.twin.cnt
  | 4 => some s.twin.lerr
  | _ => none

/-- Pages 0x0D00 to 0x0D03 (R396). -/
def State.pageCan (s : State) (n : Fin 4) (o : Nat) : Option Word :=
  let c := s.can[n]
  match o with
  | 0 => some (setFld c.ctrl 26 26 (b2n s.isStandby))
  | 1 => some c.nbt
  | 2 => some c.dbt
  | 3 => some c.statWord
  | 4 => some c.errWord
  | 5 => some c.cnt
  | _ => none

/-- A word of the 32 words of a buffer (R396). -/
def CanBuf.word (b : CanBuf) (w : Nat) : Option Word :=
  if w < 20 then some (b.imageWord w)
  else if w = 20 then some b.cfg
  else if w = 21 then some b.mask
  else if w = 22 then some b.statWord
  else none

/-- Page 0x0E00 (R419). -/
def State.page0E00 (s : State) (o : Nat) : Option Word :=
  let y := s.sys
  match o with
  | 0 => some (w32 (2 ^ 31 * b2n y.caution + 2 ^ 30 * b2n (y.supplyStop && y.caution) + satN 8191 s.belowUs))
  | 1 => some (w32 (2 ^ 16 * y.nowMv + y.minMv))
  | 2 => some y.dip
  | 3 => some y.pwcnt
  | 4 => some (w32 (2 ^ 16 * y.slMv + 2 ^ 15 * b2n y.slFault))
  | _ => none

/-- The number of a capture state. -/
def CapState.code : CapState → Nat
  | .idle => 0 | .armed => 1 | .triggered => 2 | .held => 3

/-- Page 0x0F00 (R201). -/
def State.page0F00 (s : State) (o : Nat) : Option Word :=
  if 0x10 ≤ o ∧ o < 0x90 then
    some s.loops.engines[f16 ((o - 0x10) / 8)].trace.probes[fin 8 (by decide) ((o - 0x10) % 8)]
  else if 0x90 ≤ o ∧ o < 0xA0 then some s.loops.engines[f16 (o - 0x90)].trace.trig
  else if 0xA0 ≤ o ∧ o < 0xB0 then some s.loops.engines[f16 (o - 0xA0)].trace.level
  else if 0xB0 ≤ o ∧ o < 0xC0 then
    let t := s.loops.engines[f16 (o - 0xB0)].trace
    some (w32 (2 ^ 30 * t.state.code + 2 ^ 22 * t.missed + t.rows.length))
  else none

/-- What a word reads as, none when it is reserved (R433). -/
def State.wordOf (s : State) (pg o : Nat) : Option Word :=
  if pg = 0x0000 then s.page0000 o
  else if pg = 0x0001 then s.page0001 o
  else if pg = 0x0100 then s.page0100 o
  else if pg = 0x0200 then s.page0200 o
  else if pg = 0x0300 then (if o = 0 then some s.rgCtrl else none)
  else if 0x0301 ≤ pg ∧ pg ≤ 0x0304 then s.pageRing (f4 (pg - 0x0301)) o
  else if 0x0310 ≤ pg ∧ pg ≤ 0x031F then
    some (s.pageNode (f4 ((pg - 0x0310) / 4)) (64 * ((pg - 0x0310) % 4) + o / 4) (o % 4))
  else if pg = 0x0400 then s.page0400 o
  else if 0x0500 ≤ pg ∧ pg ≤ 0x0504 then s.pageLoop (pg - 0x0500) o
  else if 0x0510 ≤ pg ∧ pg ≤ 0x052F then
    (s.loops.engines[f16 ((pg - 0x0510) / 2)].slots[f32i (16 * ((pg - 0x0510) % 2) + o / 16)]).word (o % 16)
  else if pg = 0x0600 then s.page0600 o
  else if pg = 0x0601 then s.page0601 o
  else if 0x0602 ≤ pg ∧ pg ≤ 0x0605 then (s.solver.solves[f4 (pg - 0x0602)]).word o
  else if pg = 0x0700 then s.page0700 o
  else if pg = 0x0701 then some ((s.tiles.kernels[f64 (o / 4)]).word (o % 4))
  else if pg = 0x0702 ∨ pg = 0x0703 then
    some (s.tiles.kernels[f64 (32 * (pg - 0x0702) + o / 8)].out[fin 8 (by decide) (o % 8)])
  else if pg = 0x0800 then s.page0800 o
  else if pg = 0x0900 then s.page0900 o
  else if pg = 0x0A00 then s.page0A00 o
  else if pg = 0x0B00 then s.page0B00 o
  else if 0x0B10 ≤ pg ∧ pg ≤ 0x0B1F then s.pageLink (64 * (pg - 0x0B10) + o / 4) (o % 4)
  else if pg = 0x0C00 then s.page0C00 o
  else if 0x0D00 ≤ pg ∧ pg ≤ 0x0D03 then s.pageCan (f4 (pg - 0x0D00)) o
  else if 0x0D10 ≤ pg ∧ pg ≤ 0x0D2F then
    (s.can[f4 ((pg - 0x0D10) / 8)].bufs[f64 (8 * ((pg - 0x0D10) % 8) + o / 32)]).word (o % 32)
  else if pg = 0x0E00 then s.page0E00 o
  else if pg = 0x0F00 then s.page0F00 o
  else none

/-- A read of a word: reserved words read 0 (R433). -/
def State.readWord (s : State) (pg o : Nat) : Word := (s.wordOf pg o).getD 0

/-- `n` words from an offset. -/
def State.readWords (s : State) (pg : Nat) : Nat → Nat → List Word
  | _, 0 => []
  | o, n + 1 => s.readWord pg o :: s.readWords pg (o + 1) n

/-- What a read of a word does besides: word 0 of a receive buffer locks it, word 19 releases it (R389). -/
def State.readSide (s : State) (pg o : Nat) : State :=
  if 0x0D10 ≤ pg ∧ pg ≤ 0x0D2F then
    let n := f4 ((pg - 0x0D10) / 8)
    let b := f64 (8 * ((pg - 0x0D10) % 8) + o / 32)
    if o % 32 = 0 then s.canLock n b else if o % 32 = 19 then s.canRelease n b else s
  else s

/-- The effects of reading `n` words from an offset. -/
def State.readSides (s : State) (pg o n : Nat) : State := foldOn (List.range n) s (fun s i => s.readSide pg (o + i))

end Sys2Proof.Machine
end

