-- ==== Sys2Proof/Machine/PageWrite.lean ====
section
/-! DEFINITION. Writes of the parameter pages (R87, R433 to R436): the writable fields of every word with their access
codes, the values that the owning chapters refuse, and what a written word changes. -/

namespace Sys2Proof.Machine

/-! ### Access codes (R434, R435) -/

/-- How a write changes a field: RW; RW with a clear value; W1C bit by bit; W1C where a 1 in any bit clears the field. -/
inductive PAcc where
  | rw
  | clr (v : Nat)
  | w1c
  | w1cAny
  deriving DecidableEq, Repr

/-- A writable field [hi:lo] of a word. -/
structure PField where
  hi  : Nat
  lo  : Nat
  acc : PAcc
  deriving DecidableEq, Repr

/-- The word `w` after the field takes what the written word `v` asks for. -/
def PField.apply (f : PField) (v w : Word) : Word :=
  let x := fld v f.hi f.lo
  let o := fld w f.hi f.lo
  match f.acc with
  | .rw => setFld w f.hi f.lo x
  | .clr c => if x = c then setFld w f.hi f.lo c else w
  | .w1c => setFld w f.hi f.lo (o - (o &&& x))
  | .w1cAny => if x = 0 then w else setFld w f.hi f.lo 0

/-- A whole word read and written. -/
def wholeWord : List PField := [⟨31, 0, .rw⟩]

/-- The writable fields of a word; a word of RO fields only has none. RWP fields are not among them. -/
def fieldsOf (pg o : Nat) : List PField :=
  if pg = 0x0000 then (if o = 2 then [⟨31, 31, .w1c⟩, ⟨30, 30, .w1c⟩, ⟨20, 0, .w1c⟩] else [])
  else if pg = 0x0001 then (if 2 ≤ o ∧ o ≤ 18 then wholeWord else [])
  else if pg = 0x0100 then
    (if o = 0 then [⟨31, 16, .rw⟩, ⟨8, 8, .rw⟩, ⟨1, 1, .rw⟩, ⟨0, 0, .rw⟩]
     else if o = 1 ∨ o = 2 then wholeWord
     else if o = 3 then [⟨31, 24, .clr 0⟩, ⟨23, 16, .clr 0⟩, ⟨15, 8, .clr 0⟩, ⟨7, 0, .clr 0⟩]
     else if o = 4 then [⟨23, 17, .rw⟩]
     else match (o - 0x40) % 8 with
       | 0 => [⟨31, 31, .rw⟩, ⟨29, 28, .rw⟩, ⟨27, 26, .rw⟩, ⟨15, 0, .rw⟩]
       | 1 => [⟨25, 16, .rw⟩, ⟨10, 0, .rw⟩]
       | 2 | 4 => [⟨31, 12, .rw⟩]
       | 3 | 5 => wholeWord
       | 6 => [⟨15, 8, .rw⟩, ⟨7, 0, .rw⟩]
       | _ => [])
  else if pg = 0x0200 then
    (match o with
     | 0x00 => [⟨31, 30, .rw⟩, ⟨29, 28, .rw⟩, ⟨27, 27, .rw⟩, ⟨26, 25, .rw⟩, ⟨15, 8, .rw⟩]
     | 0x02 | 0x03 => [⟨31, 29, .rw⟩, ⟨23, 20, .rw⟩, ⟨19, 16, .rw⟩, ⟨15, 8, .rw⟩, ⟨7, 0, .rw⟩]
     | 0x06 => wholeWord
     | 0x07 => [⟨16, 16, .rw⟩, ⟨15, 0, .rw⟩]
     | 0x09 => [⟨31, 31, .rw⟩, ⟨23, 16, .w1cAny⟩]
     | 0x0C | 0x0D | 0x0E => wholeWord
     | _ => if 0x10 ≤ o then wholeWord else [])
  else if pg = 0x0300 then [⟨31, 16, .rw⟩, ⟨15, 8, .rw⟩]
  else if 0x0301 ≤ pg ∧ pg ≤ 0x0304 then
    (if o = 0 then [⟨31, 20, .rw⟩, ⟨19, 0, .rw⟩]
     else if o = 4 then [⟨31, 24, .clr 0⟩, ⟨23, 16, .clr 0⟩, ⟨15, 8, .clr 0⟩, ⟨7, 0, .clr 0⟩] else [])
  else if pg = 0x0400 then
    (if o = 0 then [⟨31, 28, .rw⟩, ⟨27, 20, .rw⟩, ⟨19, 12, .rw⟩]
     else if o = 1 then [⟨27, 16, .clr 0⟩]
     else if o < 0x10 then []
     else if o < 0x40 then (if (o - 0x10) % 3 = 0 then [⟨31, 16, .rw⟩, ⟨15, 15, .rw⟩] else [])
     else wholeWord)
  else if pg = 0x0500 then
    (if o = 0 then [⟨31, 28, .rw⟩] else if o = 1 then [⟨31, 16, .clr 0⟩] else [⟨15, 0, .clr 0⟩])
  else if pg = 0x0501 then [⟨31, 31, .rw⟩]
  else if pg = 0x0502 then wholeWord
  else if pg = 0x0504 then [⟨26, 26, .w1c⟩]
  else if 0x0510 ≤ pg ∧ pg ≤ 0x052F then
    (match o % 16 with
     | 1 => [⟨31, 24, .rw⟩]
     | 2 => wholeWord
     | 9 => [⟨31, 31, .w1c⟩, ⟨30, 30, .w1c⟩]
     | _ => [])
  else if pg = 0x0600 then
    (if o = 1 then [⟨31, 16, .clr 0⟩]
     else if o = 2 then [⟨31, 24, .clr 0⟩, ⟨23, 16, .clr 0⟩, ⟨15, 8, .clr 0⟩]
     else if o = 5 ∨ 0x40 ≤ o then wholeWord else [])
  else if pg = 0x0601 then
    (if o = 0 then [⟨31, 24, .rw⟩, ⟨23, 16, .rw⟩] else if o = 1 then [⟨31, 27, .w1c⟩] else [])
  else if 0x0602 ≤ pg ∧ pg ≤ 0x0605 then
    (if 1 ≤ o ∧ o ≤ 5 then wholeWord
     else if o = 7 then [⟨31, 0, .clr 0⟩]
     else if o = 8 then [⟨31, 24, .clr 0⟩, ⟨23, 16, .clr 0⟩, ⟨15, 8, .clr 0⟩, ⟨7, 0, .clr 0⟩] else [])
  else if pg = 0x0700 then
    (if o = 0 then [⟨31, 31, .rw⟩]
     else if 0x10 ≤ o ∧ o < 0x20 then [⟨31, 31, .rw⟩]
     else if 0x20 ≤ o ∧ o < 0x30 then [⟨30, 28, .w1c⟩]
     else if 0x30 ≤ o then [⟨31, 16, .clr 0⟩] else [])
  else if pg = 0x0701 then
    (match o % 4 with
     | 0 => [⟨26, 25, .w1c⟩, ⟨23, 16, .clr 0⟩, ⟨11, 0, .clr 0⟩]
     | 2 => [⟨31, 16, .clr 0⟩]
     | _ => [])
  else if pg = 0x0800 then
    (if o = 0 then [⟨31, 16, .clr 0⟩]
     else if o = 2 then [⟨31, 16, .clr 0⟩, ⟨15, 0, .clr 0⟩]
     else if 0x10 ≤ o ∧ o < 0x16 then [⟨31, 20, .rw⟩, ⟨19, 19, .rw⟩, ⟨15, 8, .clr 0⟩, ⟨7, 0, .clr 0⟩]
     else if 0x20 ≤ o ∧ o < 0x39 then [⟨15, 0, .clr 0⟩]
     else if 0x40 ≤ o then [⟨31, 30, .rw⟩] else [])
  else if pg = 0x0900 then
    (match o with
     | 0 => [⟨31, 28, .rw⟩]
     | 3 => [⟨31, 24, .rw⟩]
     | 4 => [⟨31, 16, .clr 0⟩, ⟨15, 8, .clr 0⟩, ⟨7, 0, .clr 0⟩]
     | 5 => [⟨13, 0, .clr 0⟩]
     | 6 => [⟨31, 16, .clr 0⟩]
     | _ => [])
  else if pg = 0x0A00 then (if o = 2 ∨ (0x20 ≤ o ∧ o < 0x30) then [⟨15, 0, .clr 0⟩] else [])
  else if pg = 0x0B00 then
    (if o = 2 then [⟨31, 24, .clr 0⟩, ⟨23, 16, .clr 0⟩, ⟨15, 8, .clr 0⟩, ⟨7, 0, .clr 0⟩]
     else if o = 3 then [⟨31, 16, .clr 0x8000⟩] else [])
  else if 0x0B10 ≤ pg ∧ pg ≤ 0x0B1F then (if o % 4 = 2 then [⟨15, 0, .clr 0⟩] else [])
  else if pg = 0x0C00 then
    (if o = 3 then [⟨31, 24, .clr 0⟩, ⟨23, 16, .clr 0⟩, ⟨15, 8, .clr 0⟩, ⟨7, 0, .clr 0⟩]
     else if o = 4 then [⟨31, 16, .clr 0⟩, ⟨15, 0, .clr 0⟩] else [])
  else if 0x0D00 ≤ pg ∧ pg ≤ 0x0D03 then
    (if o = 0 then [⟨31, 30, .rw⟩, ⟨29, 29, .rw⟩, ⟨28, 28, .rw⟩]
     else if o = 5 then [⟨31, 24, .clr 0⟩, ⟨23, 16, .clr 0⟩, ⟨15, 8, .clr 0⟩, ⟨7, 0, .clr 0⟩] else [])
  else if 0x0D10 ≤ pg ∧ pg ≤ 0x0D2F then (if o % 32 = 22 then [⟨28, 28, .w1c⟩] else [])
  else if pg = 0x0E00 then
    (if o = 1 then [⟨15, 0, .clr 0xFFFF⟩]
     else if o = 3 then [⟨31, 24, .clr 0⟩, ⟨23, 16, .clr 0⟩, ⟨15, 8, .clr 0⟩] else [])
  else if pg = 0x0F00 then
    (if o < 0x90 then [⟨31, 31, .rw⟩, ⟨30, 26, .rw⟩, ⟨25, 22, .rw⟩]
     else if o < 0xA0 then [⟨31, 29, .rw⟩, ⟨28, 26, .rw⟩, ⟨25, 25, .rw⟩, ⟨23, 23, .rw⟩, ⟨22, 17, .rw⟩, ⟨16, 8, .rw⟩, ⟨7, 0, .rw⟩]
     else if o < 0xB0 then wholeWord else [])
  else []

/-- The word after a write of `v` to the word that reads `old` (R87, R434, R435). -/
def mergeWord (pg o : Nat) (old v : Word) : Word := (fieldsOf pg o).foldl (fun w f => f.apply v w) old

/-- A word that holds an RWP field (the page map of R433). -/
def rwpWord (pg o : Nat) : Bool :=
  if pg = 0x0A00 then o == 4 || o == 5 || (0x10 ≤ o && o < 0x20) || (0x30 ≤ o && o < 0x40) || (0x50 ≤ o && o < 0x60) ||
    (0x70 ≤ o && o < 0x98)
  else if pg = 0x0B00 then o == 0 || (0x10 ≤ o && o < 0x30) || (0x50 ≤ o && o < 0x60)
  else if 0x0B10 ≤ pg ∧ pg ≤ 0x0B1F then decide (o % 4 ≤ 1) && decide (64 * (pg - 0x0B10) + o / 4 < 1016)
  else pg == 0x0C00 && o == 0

/-! ### What a written word changes -/

/-- The ring words are read (R55). -/
def QueueSt.latchRing (x : QueueSt) : QueueSt :=
  { x with sqBaseIn := x.sqBase, cqBaseIn := x.cqBase, sqLog2 := fld x.qsize 15 8, cqLog2 := fld x.qsize 7 0 }

/-- A word of a queue on page 0x0100. -/
def QueueSt.putWord (x : QueueSt) (k : Nat) (w : Word) : QueueSt :=
  match k with
  | 0 => { x with qcfg := w }
  | 1 => { x with qtags := w }
  | 2 => { x with sqBase := BitVec.ofNat 64 (x.sqBase.toNat / 2 ^ 32 * 2 ^ 32 + w.toNat) }
  | 3 => { x with sqBase := BitVec.ofNat 64 (w.toNat * 2 ^ 32 + x.sqBase.toNat % 2 ^ 32) }
  | 4 => { x with cqBase := BitVec.ofNat 64 (x.cqBase.toNat / 2 ^ 32 * 2 ^ 32 + w.toNat) }
  | 5 => { x with cqBase := BitVec.ofNat 64 (w.toNat * 2 ^ 32 + x.cqBase.toNat % 2 ^ 32) }
  | 6 => { x with qsize := w }
  | _ => x

/-- Page 0x0100. -/
def State.putHost (s : State) (o : Nat) (w : Word) : State :=
  let h := s.host
  match o with
  | 0 => s.setHost { h with ctrl := w }
  | 1 => s.setHost { h with ip0 := w }
  | 2 => s.setHost { h with ip1 := w }
  | 3 => s.setHost { h with errcnt := w }
  | 4 => s.setHost { h with panelAddr := BitVec.ofNat 7 (fld w 23 17) }
  | _ => if 0x40 ≤ o ∧ o < 0xC0 then
      let q := f16 ((o - 0x40) / 8)
      s.setQueue q (h.queues[q].putWord ((o - 0x40) % 8) w)
    else s

/-- Page 0x0200: the source and the selection act as their own commands do (R94, R98, R108). -/
def State.putTime (s : State) (o : Nat) (w : Word) : State :=
  let t := s.time
  match o with
  | 0x00 =>
    let s := s.setTime { t with ctrl := setFld (setFld w 31 30 (fld t.ctrl 31 30)) 29 28 (fld t.ctrl 29 28) }
    (s.setSource (fld w 31 30)).setSelect (fld w 29 28)
  | 0x02 => s.setDomain 0 w
  | 0x03 => s.setDomain 1 w
  | 0x06 => s.setTime { t with gm := w }
  | 0x07 => s.setTime { t with utc := w }
  | 0x09 => s.setTime { t with syncInEdge := bitAt w 31, rejects := fld w 23 16 }
  | 0x0C => (s.setTime { t with outPer := w }).syncOutLow
  | 0x0D => s.setTime { t with outOfs := w }
  | 0x0E => s.setTime { t with outW := w }
  | _ => if 0x10 ≤ o ∧ o < 0x1A then s.setTime { t with pcorr := t.pcorr.set (fin 10 (by decide) (o - 0x10)) w } else s

/-- Pages 0x0301 to 0x0304. -/
def RingSt.putWord (x : RingSt) (o : Nat) (w : Word) : RingSt :=
  if o = 0 then { x with rcfg := w } else if o = 4 then { x with errcnt := w } else x

/-- Page 0x0400 (R176). -/
def State.putMotion (s : State) (o : Nat) (w : Word) : State :=
  let m := s.motion
  if o = 0 then s.setMotion { m with ctrl := w }
  else if o = 1 then s.setMotion { m with fallbacks := fld w 27 16 }
  else if o < 0x10 then s
  else if o < 0x40 then
    (if (o - 0x10) % 3 = 0 then s.setMotion { m with chcfg := m.chcfg.set (f16 ((o - 0x10) / 3)) w } else s)
  else if o < 0x60 then s.setMotion { m with auxCmd := m.auxCmd.set (f32i (o - 0x40)) w }
  else s.setMotion { m with axff := m.axff.set (f160 (o - 0x60)) w }

/-- Pages 0x0500 to 0x0504. -/
def State.putLoop (s : State) (k o : Nat) (w : Word) : State :=
  let v := s.loops
  match k with
  | 0 =>
    if o = 0 then s.setLoops { v with ctrl := w }
    else if o = 1 then s.setLoops { v with misses := fld w 31 16 }
    else if 0x10 ≤ o ∧ o < 0x20 then s.setEngine (f16 (o - 0x10)) { v.engines[f16 (o - 0x10)] with batchMax := fld w 15 0 }
    else s
  | 1 => if o < 160 then s.setAxis (f160 o) { v.axes[f160 o] with torqueCmd := bitAt w 31 } else s
  | 2 => if o < 160 then s.setAxis (f160 o) { v.axes[f160 o] with scale := w } else s
  | 4 => if o < 128 then s.setLoops { v with groups := mput {} v.groups o { v.groupOf o with clamped := bitAt w 26 } } else s
  | _ => s

/-- A slot word of one slot: LP_CFG and LP_REF take effect at a servo cycle boundary (R200). -/
def LoopSlot.putWord (l : LoopSlot) (k : Nat) (at_ : Nat) (w : Word) : LoopSlot :=
  match k with
  | 1 => if l.valid then { l with newCfg := l.newCfg ++ [(at_, w)] } else { l with cfg := w }
  | 2 => if l.kind ≠ 2 ∧ l.kind ≠ 4 ∧ l.kind ≠ 5 then l
      else if l.valid then { l with newRef := l.newRef ++ [(at_, w)] } else { l with ref := w }
  | 9 => { l with deadlineMiss := bitAt w 31, hoClamped := bitAt w 30 }
  | _ => l

/-- A write of `v` to a slot word, for every copy of the slot's loop at the same servo cycle boundary; a W1C field clears each copy's
own flag (R196, R200). -/
def State.putSlotWord (s : State) (e k : Nat) (pg o : Nat) (v : Word) : State :=
  let l := s.loops.engines[f16 e].slots[f32i k]
  let at_ := s.loopBoundary l.axis 1
  let places := if l.valid then s.slotsOfLoop l.loop else [(e, k)]
  places.foldl (fun s p =>
    let x := s.loops.engines[f16 p.1].slots[f32i p.2]
    s.setSlot (f16 p.1) (f32i p.2) (x.putWord (o % 16) at_ (mergeWord pg o ((x.word (o % 16)).getD 0) v))) s

/-- Page 0x0600 and pages 0x0601 to 0x0605. -/
def State.putSolver (s : State) (k o : Nat) (w : Word) : State :=
  let v := s.solver
  if k = 0 then
    (if o = 1 then s.setSolver { v with asmMax := fld w 31 16 }
     else if o = 2 then s.setSolver { v with err := w }
     else if o = 5 then s.setSolver { v with far := w }
     else if 0x40 ≤ o ∧ o < 0x80 then s.setSolver { v with weights := v.weights.set (f64 (o - 0x40)) w } else s)
  else if k = 1 then
    (if o = 0 then s.setSolver { v with ctrl := w } else if o = 1 then s.setSolver { v with stat := w } else s)
  else
    let p := f4 (k - 2)
    let x := v.solves[p]
    s.setSolve p (match o with
      | 1 => { x with rho := w }
      | 2 => { x with sigma := w }
      | 3 => { x with eqs := w }
      | 4 => { x with floor := w }
      | 5 => { x with rej := w }
      | 7 => { x with cycMax := w.toNat }
      | 8 => { x with cnt := w }
      | _ => x)

/-- Page 0x0700 and page 0x0701. -/
def State.putTiles (s : State) (k o : Nat) (w : Word) : State :=
  let v := s.tiles
  if k = 0 then
    (if o = 0 then s.setTiles { v with ctrl := w }
     else if 0x10 ≤ o ∧ o < 0x20 then s.setTile (f16 (o - 0x10)) { v.tiles[f16 (o - 0x10)] with memcfg := bitAt w 31 }
     else if 0x20 ≤ o ∧ o < 0x30 then s.setTile (f16 (o - 0x20)) { v.tiles[f16 (o - 0x20)] with
       gov := bitAt w 30, sat := bitAt w 29, overrun := bitAt w 28 }
     else if 0x30 ≤ o ∧ o < 0x40 then s.setTile (f16 (o - 0x30)) { v.tiles[f16 (o - 0x30)] with corrected := fld w 31 16 }
     else s)
  else
    let x := v.kernels[f64 (o / 4)]
    (match o % 4 with
     | 0 => s.setKernel (f64 (o / 4)) { x with
         gov := bitAt w 26, sat := bitAt w 25, overruns := fld w 23 16, skipped := fld w 11 0 }
     | 2 => s.setKernel (f64 (o / 4)) { x with cycMax := fld w 31 16 }
     | _ => s)

/-- Page 0x0800. -/
def State.putDisp (s : State) (o : Nat) (w : Word) : State :=
  let d := s.disp
  if o = 0 then s.setDisp { d with rlMax := fld w 31 16 }
  else if o = 2 then s.setDisp { d with late := w }
  else if 0x10 ≤ o ∧ o < 0x16 then s.setDisp { d with bg := d.bg.set (fin 6 (by decide) (o - 0x10)) w }
  else if 0x20 ≤ o ∧ o < 0x39 then s.setDisp { d with
    arbs := vmod d.arbs (fin 25 (by decide) (o - 0x20)) (fun a => { a with preempt := fld w 15 0 }) }
  else if 0x40 ≤ o ∧ o < 0x48 then s.setMemcls (fin 8 (by decide) (o - 0x40)) (BitVec.ofNat 2 (fld w 31 30))
  else s

/-- Page 0x0900. -/
def State.putNibbles (s : State) (o : Nat) (w : Word) : State :=
  let x := s.nibble
  match o with
  | 0 => s.setNibble { x with ctrl := w }
  | 3 => s.setWindow (fld w 31 24)
  | 4 => s.setNibble { x with devcnt := w }
  | 5 => s.setNibble { x with passMax := fld w 13 0 }
  | 6 => s.setNibble { x with misses := fld w 31 16 }
  | _ => s

/-- Page 0x0A00 outside its RWP fields: counters, and the brake test requests (R337). -/
def State.putSafety (s : State) (o : Nat) (w v : Word) : State :=
  let f := s.safety
  if o = 2 then s.setSafety { f with entries := fld w 15 0 }
  else if o = 6 then s.requestBrakeTests (BitVec.ofNat 16 v.toNat)
  else if 0x20 ≤ o ∧ o < 0x30 then
    s.setSafety { f with sins := vmod f.sins (f16 (o - 0x20)) (fun p => { p with faults := fld w 15 0 }) }
  else s

/-- Page 0x0B00 and the link pages outside their RWP fields. -/
def State.putSep (s : State) (o : Nat) (w : Word) : State :=
  if o = 2 then s.setSep { s.sep with cnt := w }
  else if o = 3 then s.setSep { s.sep with xmax := sgn 16 (fld w 31 16) }
  else s
def State.putLink (s : State) (n k : Nat) (w : Word) : State :=
  if k = 2 then s.setSep { s.sep with links := mput {} s.sep.links n { s.sep.linkOf n with gaps := fld w 15 0 } } else s

/-- Pages 0x0D00 to 0x0D03; `v` is the written word, whose bit 27 starts a recovery (R394). -/
def State.putCan (s : State) (n : Fin 4) (o : Nat) (w v : Word) : State :=
  if o = 0 then s.setCanCtrl n (setFld (setFld w 26 26 0) 27 27 (fld v 27 27))
  else if o = 5 then s.setCanN n { s.can[n] with cnt := w }
  else s

/-- Page 0x0E00. -/
def State.putPower (s : State) (o : Nat) (w : Word) : State :=
  if o = 1 then s.setSys { s.sys with minMv := fld w 15 0 } else if o = 3 then s.setSys { s.sys with pwcnt := w } else s

/-- Page 0x0F00; bit 24 of a written TR_TRIG arms the capture (R198). -/
def State.putTrace (s : State) (o : Nat) (w v : Word) : State :=
  if 0x10 ≤ o ∧ o < 0x90 then
    let e := f16 ((o - 0x10) / 8)
    let g := s.loops.engines[e]
    s.setEngine e { g with trace := { g.trace with probes := g.trace.probes.set (fin 8 (by decide) ((o - 0x10) % 8)) w } }
  else if 0x90 ≤ o ∧ o < 0xA0 then
    let e := f16 (o - 0x90)
    let g := s.loops.engines[e]
    let s := s.setEngine e { g with trace := { g.trace with trig := w } }
    if bitAt v 24 then s.armTrace e else s
  else if 0xA0 ≤ o ∧ o < 0xB0 then
    let e := f16 (o - 0xA0)
    let g := s.loops.engines[e]
    s.setEngine e { g with trace := { g.trace with level := w } }
  else s

/-- SYS_FAULT (R410, R419). -/
def State.putFault (s : State) (w : Word) : State :=
  s.setSys { s.sys with fault := BitVec.ofNat 21 w.toNat, faultCaution := bitAt w 31, faultSupply := bitAt w 30 }

/-- The effect of a write of `v` to a word, queue resets and the storing of page 0x0001 apart. -/
def State.putWord (s : State) (pg o : Nat) (v : Word) : State :=
  let w := mergeWord pg o (s.readWord pg o) v
  if pg = 0x0000 then (if o = 2 then s.putFault w else s)
  else if pg = 0x0001 then s.setSys { s.sys with bcfg := s.sys.bcfg.set o w }
  else if pg = 0x0100 then s.putHost o w
  else if pg = 0x0200 then s.putTime o w
  else if pg = 0x0300 then s.setRgCtrl w
  else if 0x0301 ≤ pg ∧ pg ≤ 0x0304 then s.setRing (f4 (pg - 0x0301)) ((s.rings[f4 (pg - 0x0301)]).putWord o w)
  else if pg = 0x0400 then s.putMotion o w
  else if 0x0500 ≤ pg ∧ pg ≤ 0x0504 then s.putLoop (pg - 0x0500) o w
  else if 0x0510 ≤ pg ∧ pg ≤ 0x052F then s.putSlotWord ((pg - 0x0510) / 2) (16 * ((pg - 0x0510) % 2) + o / 16) pg o v
  else if 0x0600 ≤ pg ∧ pg ≤ 0x0605 then s.putSolver (pg - 0x0600) o w
  else if pg = 0x0700 ∨ pg = 0x0701 then s.putTiles (pg - 0x0700) o w
  else if pg = 0x0800 then s.putDisp o w
  else if pg = 0x0900 then s.putNibbles o w
  else if pg = 0x0A00 then s.putSafety o w v
  else if pg = 0x0B00 then s.putSep o w
  else if 0x0B10 ≤ pg ∧ pg ≤ 0x0B1F then s.putLink (64 * (pg - 0x0B10) + o / 4) (o % 4) w
  else if pg = 0x0C00 then
    (if o = 3 then s.setTwin { s.twin with cnt := w } else if o = 4 then s.setTwin { s.twin with lerr := w } else s)
  else if 0x0D00 ≤ pg ∧ pg ≤ 0x0D03 then s.putCan (f4 (pg - 0x0D00)) o w v
  else if 0x0D10 ≤ pg ∧ pg ≤ 0x0D2F then
    s.canBuf (f4 ((pg - 0x0D10) / 8)) (f64 (8 * ((pg - 0x0D10) % 8) + o / 32)) (fun b =>
      if o % 32 = 22 then { b with overrun := bitAt w 28 } else b)
  else if pg = 0x0E00 then s.putPower o w
  else if pg = 0x0F00 then s.putTrace o w v
  else s

/-! ### Values that are refused (R87) -/

/-- Normal, positive and finite in binary32. -/
def f32Normal (w : Word) : Bool := f32Finite w && !f32Neg? w && decide (f32ExpF w ≠ 0)
/-- Positive and finite in binary32. -/
def f32Positive (w : Word) : Bool := f32Finite w && !f32Neg? w && !f32IsZero w

/-- The tag range of a queue: first tag and count. -/
def QueueSt.tags (x : QueueSt) : Nat × Nat := (fld x.qtags 25 16, fld x.qtags 10 0)

/-- An enabled queue's range breaks R39. -/
def HostSt.breaksTags (h : HostSt) (q : Nat) : Bool :=
  let a := (h.queues[f16 q]).tags
  decide (1024 < a.1 + a.2) || (List.range 16).any (fun i =>
    let b := (h.queues[f16 i]).tags
    i != q && bitAt h.queues[f16 i].qcfg 31 && decide (0 < a.2) && decide (0 < b.2) && decide (a.1 < b.1 + b.2) &&
      decide (b.1 < a.1 + a.2))

/-- A value of page 0x0100 that is refused; `t` is the state with every word of the command written. -/
def hostBad (t : State) (o : Nat) (v : Word) : Bool :=
  if o < 0x40 then false
  else
    let q := (o - 0x40) / 8
    let x := t.host.queues[f16 q]
    match (o - 0x40) % 8 with
    | 0 => fld v 15 0 == 0 || decide (x.tags.2 < fld v 15 0) || (bitAt v 31 && t.host.breaksTags q)
    | 1 => decide (1024 < fld v 25 16 + fld v 10 0) || (bitAt x.qcfg 31 && t.host.breaksTags q)
    | 6 => decide (fld v 15 8 < 16) || decide (24 < fld v 15 8) || decide (fld v 7 0 < 20) || decide (24 < fld v 7 0)
    | _ => false

/-- A value of page 0x0200 that is refused (R103, R108); `named` are the offsets of the command. -/
def timeBad (t : State) (named : List Nat) (o : Nat) (v : Word) : Bool :=
  let per := t.time.outPer.toNat
  match o with
  | 0x00 => fld v 31 30 == 3 || fld v 29 28 == 3 || fld v 26 25 == 0 || decide (fld v 15 8 < 10)
  | 0x02 => !domainOk v t.time.domain[(1 : Fin 2)]
  | 0x03 => !domainOk v t.time.domain[(0 : Fin 2)]
  | 0x0C => per != 0 && (decide (per < 1000) || 1000000000 % per != 0 || (!named.contains 0x0D && decide (per ≤ t.time.outOfs.toNat)))
  | 0x0D => per != 0 && decide (per ≤ v.toNat)
  | 0x0E => decide (v.toNat < 8) || decide (500000000 < v.toNat)
  | _ => false

/-- A value of SV_CTRL would raise the prediction of a current problem above the limit (R233). DEDUCED: from what SV_CTRL last
held. -/
def SolverSt.raises (v : SolverSt) (w : Word) : Bool :=
  (List.range 16).any (fun i => v.isCurrent i && (match v.images[f16 i] with
    | some g =>
      let n := g.predict (fld w 31 24) (fld w 23 16)
      decide (837952 < n) && decide (g.predict (fld v.ctrl 31 24) (fld v.ctrl 23 16) < n)
    | none => false))

/-- A value that the owning chapter refuses with BAD_PARAM (R87). `s` is the state before the command, `t` the state
with all its words written, `named` the offsets it writes. -/
def wordBad (s t : State) (named : List Nat) (pg o : Nat) (v : Word) : Bool :=
  if pg = 0x0100 then hostBad t o v
  else if pg = 0x0200 then timeBad t named o v
  else if pg = 0x0300 then decide (fld v 15 8 < 2) || decide (64 < fld v 15 8)
  else if 0x0301 ≤ pg ∧ pg ≤ 0x0304 then
    o == 0 && (decide (fld v 31 20 < 160) || decide (2560 < fld v 31 20) || fld v 31 20 % 8 != 0 || fld v 19 0 % 8 != 0)
  else if pg = 0x0400 then
    (if o = 0 then decide (fld v 27 20 < 10) || decide (100 < fld v 27 20) || fld v 19 12 == 0 || decide (100 < fld v 19 12)
     else if 0x10 ≤ o ∧ o < 0x40 then (o - 0x10) % 3 == 0 && fld v 31 16 == 0
     else if 0x40 ≤ o ∧ o < 0x60 then !s.theCell.auxCmdOk (o - 0x40) v else false)
  else if pg = 0x0502 then !f32Positive v
  else if 0x0510 ≤ pg ∧ pg ≤ 0x052F then o % 16 == 1 && decide (5 ≤ fld v 26 24)
  else if pg = 0x0600 then (if o = 5 then !f32Positive v else decide (0x40 ≤ o) && !f32Finite v)
  else if pg = 0x0601 then o == 0 && (fld v 31 24 == 0 || fld v 23 16 == 0 || s.solver.raises v)
  else if 0x0602 ≤ pg ∧ pg ≤ 0x0605 then
    (match o with
     | 1 | 2 => !f32Normal v
     | 3 => !(f32Le 0x3F800000 v && f32Le v 0x49742400)
     | 4 => !(f32Normal v && f32Le v 0x3F800000)
     | 5 => !(f32Finite v && (f32IsZero v || !f32Neg? v))
     | _ => false)
  else if pg = 0x0800 then
    (if 0x10 ≤ o ∧ o < 0x16 then fld v 31 20 == 0 || (!bitAt v 19 && o != 0x15) else o == 0x45 || o == 0x46)
  else if pg = 0x0900 then o == 3 && (decide (fld v 31 24 < 2) || decide (200 < fld v 31 24))
  else if 0x0D00 ≤ pg ∧ pg ≤ 0x0D03 then o == 0 && fld v 31 30 == 3
  else if pg = 0x0F00 then
    (if o < 0x90 then decide (12 ≤ fld v 25 22)
     else if o < 0xA0 then
       decide (6 ≤ fld v 31 29) ||
       (if bitAt v 23 then decide (419424 < (fld v 16 8 + fld v 7 0) * 1024) else decide (1632 < (fld v 16 8 + fld v 7 0) * 16))
     else false)
  else false

/-- A write that must wait (HQ_QTAGS, R151, R200, R201, R269). -/
def State.wordBusy (s : State) (pg o : Nat) (v : Word) : Bool :=
  if pg = 0x0100 then
    decide (0x40 ≤ o) && (o - 0x40) % 8 == 1 && (let x := s.host.queues[f16 ((o - 0x40) / 8)]
      !x.inflight.isEmpty || x.replies.any (fun r => !r.interim && !r.dup))
  else if pg = 0x0300 then (List.range 4).any (fun r => decide (s.rings[f4 r].state ≠ .down))
  else if 0x0301 ≤ pg ∧ pg ≤ 0x0304 then o == 0 && s.cellOn && s.theCell.usesRing (pg - 0x0301)
  else if pg = 0x0501 ∨ pg = 0x0502 then s.cellOn
  else if pg = 0x0700 then decide (0x10 ≤ o) && decide (o < 0x20) && s.cellOn
  else if pg = 0x0F00 then
    (if o < 0x90 then decide (s.loops.engines[f16 ((o - 0x10) / 8)].trace.state ≠ .idle)
     else if o < 0xA0 then
       let c := s.loops.engines[f16 (o - 0x90)].trace
       decide (c.state ≠ .idle) && !(bitAt v 24 && decide (mergeWord pg o c.trig v = c.trig))
     else false)
  else false

/-! ### A command's words together (R87) -/

/-- The words of a command from its offset on. -/
def wordsFrom (o : Nat) : List Word → List (Nat × Word)
  | [] => []
  | w :: r => (o, w) :: wordsFrom (o + 1) r

/-- All words written. -/
def State.putWords (s : State) (pg : Nat) (ws : List (Nat × Word)) : State := ws.foldl (fun s w => s.putWord pg w.1 w.2) s

/-- The queue that a word resets: 1 written to reset_q (R55). -/
def resetsQueue (pg : Nat) (w : Nat × Word) : Option Nat :=
  if pg = 0x0100 ∧ 0x40 ≤ w.1 ∧ w.1 < 0xC0 ∧ (w.1 - 0x40) % 8 = 0 ∧ bitAt w.2 30 = true then some ((w.1 - 0x40) / 8) else none

/-- Why a write is refused (R73, R87): RWP words first, then the first bad word, then words that must wait. `own` is the
queue on which the command arrived. -/
def State.writeCheck (s : State) (own : Option Nat) (pg : Nat) (ws : List (Nat × Word)) : Option Verdict :=
  let t := s.putWords pg ws
  let first := (ws.head?.map (·.1)).getD 0
  let bad := fun (w : Nat × Word) => (s.wordOf pg w.1).isNone || wordBad s t (ws.map (·.1)) pg w.1 w.2 ||
    (match resetsQueue pg w with
     | some q => own == some q
     | none => false)
  if ws.any (fun w => rwpWord pg w.1) then some ⟨stRefused, 0, 0⟩
  else match ws.find? bad with
    | some w => some (badAt (w32 (4 * (w.1 - first))))
    | none => if ws.any (fun w => s.wordBusy pg w.1 w.2) then some busy else none

/-! ### The boot configuration record (R400, R401, R419) -/

/-- The copy that is read: the valid one with the higher sequence number, modulo 2³² (R400). -/
def newerCopy (a b : Copy) : Option Copy :=
  if a.valid ∧ b.valid then (if (a.seq - b.seq).toNat < 2 ^ 31 then some a else some b)
  else if a.valid then some a
  else if b.valid then some b
  else none

/-- A new record goes to the older copy: the pair of copies after the write (R400). -/
def writeCopy (a b : Copy) (c : Copy) : Copy × Copy :=
  if !a.valid then (c, b)
  else if !b.valid then (a, c)
  else if (a.seq - b.seq).toNat < 2 ^ 31 then (a, c) else (c, b)

/-- The sequence number that follows the copies'. -/
def nextSeq (a b : Copy) : Word := ((newerCopy a b).map (·.seq)).getD 0 + 1

/-- The 32 words of a record: magic, version and boot slot, the words from 2 to 29, sequence number, CRC (R401). -/
def bcfgRecord (words : List Word) (slot : Nat) (seq : Word) : List Word :=
  let body := [0x47464342, w32 (0x0100 + 65536 * slot)] ++ ((words.drop 2 ++ List.replicate 30 0).take 28) ++ [seq]
  body ++ [w32 (crc32c (wordBytes body))]

/-- The boot slot of a record. -/
def bootSlotOf (words : List Word) : Nat := fld (words.getD 1 0) 23 16

/-- A record written to flash: a new copy, and page 0x0001 holds it. -/
def State.commitBcfg (s : State) (words : List Word) (slot : Nat) : State :=
  let y := s.sys
  let seq := nextSeq y.bcfg0 y.bcfg1
  let rec_ := bcfgRecord words slot seq
  let c := writeCopy y.bcfg0 y.bcfg1 ⟨seq, true, rec_⟩
  s.setSys { y with bcfg0 := c.1, bcfg1 := c.2, bcfg := rec_ }

/-- Page 0x0001 has been written: a new copy is stored, after the supply-caution state where it is in force (R400). -/
def State.storeBcfg (s : State) : State :=
  if s.sys.caution then s.setSys { s.sys with writes := s.sys.writes ++ [.bcfg s.sys.bcfg] }
  else s.commitBcfg s.sys.bcfg (bootSlotOf s.sys.bcfg)

/-- The queues that are enabled now and were not in `old` read their ring words (R55), as they stand after the whole write. -/
def State.latchEnabled (s : State) (old : Vector QueueSt 16) : State :=
  foldOn (List.range 16) s (fun s q =>
    let y := s.host.queues[f16 q]
    if bitAt y.qcfg 31 && !bitAt old[f16 q].qcfg 31 then s.setQueue (f16 q) y.latchRing else s)

/-- The effect of the words of a write that passed its checks, its queue resets apart. -/
def State.writeWords (s : State) (pg : Nat) (ws : List (Nat × Word)) : State :=
  let t := s.latchDue.putWords pg ws
  if pg = 0x0001 then t.storeBcfg else if pg = 0x0100 then t.latchEnabled s.host.queues else t

/-- The queue resets of a write; the packet `by_` completes when all are done (R55). -/
def State.writeResets (s : State) (pg : Nat) (ws : List (Nat × Word)) (by_ : Option (Nat × Nat)) : State :=
  let qs := ws.filterMap (resetsQueue pg)
  let s := qs.foldl (fun s q => s.startReset (f16 q) []) s
  match by_ with
  | none => s
  | some w =>
    let wait := qs.filter (fun q => s.host.queues[f16 q].resetting)
    if wait.isEmpty then s.finishTag w.1 w.2 ⟨stOk, 0, 0⟩
    else wait.foldl (fun s q => s.setQueue (f16 q) { s.host.queues[f16 q] with resetBy := s.host.queues[f16 q].resetBy ++ [w] }) s

/-! ### Commands -/

/-- PARAM_READ (R87): result words 0 and 1 are the first two words. -/
def execParamRead (q : Fin 16) (tag : Fin 1024) (s : State) : Host.Outcome State Fault Refusal :=
  .next (s.startPkt q tag 0xE0 (fun p t =>
    match paramCheck p.p0 p.p1 with
    | some v => t.finish p v
    | none =>
      let pg := pageOf p.p0
      let ws := t.readWords pg (offsetOf p.p0) p.p1.toNat
      (t.readSides pg (offsetOf p.p0) p.p1.toNat).finishOk p (ws.getD 0 0) (ws.getD 1 0) (wordBytes ws)))

/-- PARAM_WRITE (R87, R89): all words together, or none. -/
def execParamWrite (q : Fin 16) (tag : Fin 1024) (s : State) : Host.Outcome State Fault Refusal :=
  .next (s.startPkt q tag 0xE1 (fun p t =>
    match paramCheck p.p0 p.p1 with
    | some v => t.finish p v
    | none =>
      if p.payload.length ≠ 4 * p.p1.toNat then t.finish p (badAt atP1)
      else
        let pg := pageOf p.p0
        let ws := wordsFrom (offsetOf p.p0) (wordsAt p.payload 0 p.p1.toNat)
        match t.writeCheck (some p.queue) pg ws with
        | some v => t.finish p v
        | none => (t.writeWords pg ws).writeResets pg ws (some (p.queue, p.tag))))

/-- BAR0_MIRROR_WRITE (R47, R408, R433): ignored before QUEUES, for a reserved word, and for a value that a PARAM_WRITE
would refuse. -/
def execBar0MirrorWrite (w : Fin 256) (v : Word) (s : State) : Host.Outcome State Fault Refusal :=
  if !s.isReady rdQueues then .next s
  else match s.writeCheck none 0x0100 [(w.val, v)] with
    | some _ => .next s
    | none => .next ((s.writeWords 0x0100 [(w.val, v)]).writeResets 0x0100 [(w.val, v)] none)

/-- SYS_BCFG (R419): a write of one word of page 0x0001. -/
def execSysBcfg (w : Fin 32) (v : Word) (s : State) : Host.Outcome State Fault Refusal :=
  .next (s.writeWords 0x0001 [(w.val, v)])

/-! ### Debug SPI port (R437 to R440) -/

/-- The bytes that answer a request: the status, the words of a read, and the CRC-32C. -/
def spiAnswer (status : Nat) (ws : List Word) : List Byte :=
  let body := BitVec.ofNat 8 status :: wordBytes ws
  body ++ leBytes 4 (crc32c body)

/-- Why a debug request is refused (R438 to R440). -/
def State.spiCheck (s : State) (req : List Byte) (keysOn : Bool) : Option Nat :=
  let cmd := byteAt req 0
  let pg := u16 req 1
  let o := byteAt req 3
  let n := byteAt req 4 + 1
  if !s.isReady rdQueues && !(cmd == 0x0B && (pg == 0x0000 || pg == 0x0E00)) then some stNotReady
  else if cmd ≠ 0x0B ∧ cmd ≠ 0x02 then some stBadOpcode
  else if 256 < o + n ∨ 0x1000 ≤ pg then some stBadParam
  else if cmd = 0x0B then none
  else if u32 req (5 + 4 * n) ≠ crc32c (req.take (5 + 4 * n)) then some stPayload
  else if !s.sys.dbgEn || bitAt s.sys.otp[(⟨16, by decide⟩ : Fin 17)] 1 || !keysOn then some stRefused
  else if s.twin.state = .paired ∨ s.twin.state = .join ∨ s.twin.state = .check then some stBusy
  else (s.writeCheck none pg (wordsFrom o (wordsAt req 5 n))).map (·.status)

/-- DEBUG_SPI_TRANSACTION (R437 to R440): a transaction that ends before its last request byte has no effect. -/
def execDebugSpiTransaction (req : List Byte) (keysOn100ms : Bool) (s : State) : Host.Outcome State Fault Refusal :=
  let n := byteAt req 4 + 1
  if s.sys.porstLow || decide (req.length < 5) || (byteAt req 0 == 0x02 && decide (req.length < 9 + 4 * n)) then .next s
  else match s.spiCheck req keysOn100ms with
    | some st => .next (s.emit (.spi (spiAnswer st [])))
    | none =>
      let pg := u16 req 1
      let o := byteAt req 3
      if byteAt req 0 = 0x0B then
        .next ((s.readSides pg o n).emit (.spi (spiAnswer stOk (s.readWords pg o n))))
      else
        let ws := wordsFrom o (wordsAt req 5 n)
        .next (((s.writeWords pg ws).writeResets pg ws none).emit (.spi (spiAnswer stOk [])))

end Sys2Proof.Machine
end

