-- ==== Sys2Proof/Machine/SafetyCycle.lean ====
section
/-! DEFINITION. The safety cycle boundary (R317, R335, R359, R361, R376), the safety configuration (R81, R331) and the two
presence-gated safety commands. -/

namespace Sys2Proof.Machine

/-! ### The safety configuration (R331) -/

/-- The words of the safety configuration: the RWP words of page 0x0A00 in page order, then two words for each safety
point assignment (point; function and inversion). -/
def SafetySt.configWords (f : SafetySt) : List Word :=
  [f.estopCfg, f.otest] ++ f.sinCfg.toList ++ f.index.toList.map (·.cfg) ++ f.index.toList.map (·.brk) ++ f.funcs.toList ++
    f.auxsto.toList ++ f.assigns.flatMap (fun (a : Nat × Nat × Bool) => [w32 a.1, w32 (a.2.1 + 65536 * b2n a.2.2)])

/-- SF_CFGCRC of a configuration: the CRC-32C over its stored bytes (R331). -/
def configCrc (ws : List Word) : Word := w32 (crc32c (Config.safetyLayout ws))

/-- The assignments that a list of word pairs holds. -/
def assignsOf : List Word → List (Nat × Nat × Bool)
  | a :: b :: r => (a.toNat, b.toNat % 65536, b.toNat.testBit 16) :: assignsOf r
  | _ => []

/-- Fill a vector from a list, element `i` from position `o + i`. -/
def fillFrom {n : Nat} (h : 0 < n) (v : Vector Word n) (ws : List Word) (o : Nat) : Vector Word n :=
  foldOn (List.range n) v (fun w i => w.set (fin n h i) (ws.getD (o + i) 0))

/-- The configuration of a list of words in force. -/
def SafetySt.loadWords (f : SafetySt) (ws : List Word) : SafetySt :=
  { f with
    estopCfg := ws.getD 0 0, otest := ws.getD 1 0, sinCfg := fillFrom (by decide) f.sinCfg ws 2
    index := foldOn (List.range 16) f.index (fun v c => vmod v (f16 c) (fun x =>
      { x with cfg := ws.getD (18 + c) 0, brk := ws.getD (34 + c) 0 }))
    funcs := fillFrom (by decide) f.funcs ws 50, auxsto := fillFrom (by decide) f.auxsto ws 82, assigns := assignsOf (ws.drop 90) }

/-- An input follows its line levels under the configuration in force (R321, R322). -/
def SafetySt.refreshInputs (f : SafetySt) : SafetySt :=
  { f with
    sins := foldOn (List.range 16) f.sins (fun v i => vmod v (f16 i) (fun p =>
      { p with active := !(p.idle (bitAt f.sinCfg[f16 i] 30)) || decide (p.cause ≠ 0) }))
    estop := { f.estop with active := !(f.estop.idle false) || decide (f.estop.cause ≠ 0) } }

/-- The configuration is stored in flash, and the packet that changed it completes with the new CRC (R81, R400). -/
def State.commitSafety (s : State) (q tag : Nat) (w0 : Word) : State :=
  let y := s.sys
  let seq := nextSeq y.safe0 y.safe1
  let c := writeCopy y.safe0 y.safe1 ⟨seq, true, s.safety.configWords⟩
  (s.setSys { y with safe0 := c.1, safe1 := c.2 }).finishTag q tag ⟨stOk, w0, s.safety.cfgCrc⟩

/-- A change of the safety configuration is in force: its CRC, stop bath cause 3, cause 9 where it enables an E-stop whose line is low
(R332), and the flash write, which waits while
the supply-caution state is in force (R81, R86, R330, R331, R400). -/
def State.configChanged (s : State) (q tag : Nat) (w0 : Word) : State :=
  let f := s.safety.refreshInputs
  let was := s.safety.estopActive
  let s := (s.setSafety { f with cfgCrc := configCrc f.configWords }).enterBath 3
  let s := if f.estopActive && !was then s.enterBath 9 else s
  if s.sys.caution then s.setSys { s.sys with writes := s.sys.writes ++ [.safetyCfg q tag w0] }
  else s.commitSafety q tag w0

/-- SAFETY_CONFIG_LOAD (R331): at the start of the main die the newer valid copy comes into force in both channels;
without one the configuration is not valid and the stop bath has cause 2. -/
def execSafetyConfigLoad (s : State) : Host.Outcome State Fault Refusal :=
  if s.sys.inReset || !s.sys.running || s.isReady rdSafetycpu then .next s
  else match newerCopy s.sys.safe0 s.sys.safe1 with
    | some c =>
      let f := (s.safety.loadWords c.words).refreshInputs
      let t := s.setSafety { f with cfgValid := true, cfgCrc := configCrc c.words }
      .next (if f.estopActive && !s.safety.estopActive then t.enterBath 9 else t)
    | none => .next ((s.setSafety { s.safety with cfgValid := false }).enterBath 2)

/-! ### SAFE_PARAM_SET and SAFE_POINT_ASSIGN: the checks (R81) -/

/-- A parameter record: page, word offset and value at offset `o` of the payload. -/
structure SafeRec where
  page  : Nat
  ofs   : Nat
  value : Word
  deriving DecidableEq, Repr

def safeRecAt (bs : List Byte) (i : Nat) : SafeRec := ⟨u16 bs (8 * i), byteAt bs (8 * i + 2), wordAt bs (8 * i + 4)⟩

/-- The reserved bits of an RWP word read zero (R342, R365). -/
def safeMask (r : SafeRec) : Word :=
  if r.page = 0x0A00 then
    (if r.ofs = 4 then 0xFFE00000 else if r.ofs = 5 then 0xFFFFF000
     else if r.ofs < 0x20 then 0xFFFFFF80 else if r.ofs < 0x70 then 0xFFFFFFFF
     else if r.ofs < 0x90 then 0xF000FFFF else 0xFFFFFFFF)
  else if r.page = 0x0B00 then
    (if r.ofs = 0 then 0xFFFFFFC0 else if r.ofs < 0x30 then (if r.ofs % 2 = 0 then 0xFFFFFFFC else 0xFF000000) else 0xFF000000)
  else if r.ofs % 4 = 0 then 0xFFFFFFFF else 0xFFFFFFF0

/-- A field lies in a range. -/
def fldIn (w : Word) (hi lo a b : Nat) : Bool := decide (a ≤ fld w hi lo) && decide (fld w hi lo ≤ b)

/-- A byte of SF_AUXSTO: bits [6:4] zero, and a mapped index that the cell does not use as a chain (R319). -/
def State.auxByteOk (s : State) (b : Nat) : Bool :=
  decide (b / 16 % 8 = 0) && (!(b.testBit 7) || (s.theCell.chainRec (b % 16)).isNone)

/-- Both channels accept the value of a record (R319, R342, R365). -/
def State.safeValueOk (s : State) (r : SafeRec) : Bool :=
  let v := r.value
  if r.page = 0x0A00 then
    (if r.ofs = 4 then fldIn v 30 21 4 1000
     else if r.ofs = 5 then fldIn v 31 24 10 50 && fldIn v 23 12 100 4000
     else if r.ofs < 0x20 then fldIn v 22 13 4 1000 && fldIn v 12 7 0 32
     else if r.ofs < 0x40 then fldIn v 31 22 10 1000 && fldIn v 21 12 10 1000 && fldIn v 11 8 0 10 && fldIn v 7 0 10 100
     else if r.ofs < 0x60 then fldIn v 31 24 0 168 && fldIn v 19 18 0 2 && fldIn v 17 11 10 100 && fldIn v 10 0 1 2047
     else if r.ofs < 0x90 then fldIn v 31 29 0 6
     else (List.range 4).all (fun k => s.auxByteOk (v.toNat / 2 ^ (8 * k) % 256)))
  else if r.page = 0x0B00 then
    (if r.ofs = 0 then fldIn v 31 24 1 255
     else if r.ofs < 0x30 then r.ofs % 2 == 1 || (fldIn v 31 22 1 1023 && fldIn v 21 12 1 1023)
     else true)
  else
    let n := 64 * (r.page - 0x0B10) + r.ofs / 4
    let kind3 := match s.theCell.nodes[n]? with
      | some x => x.kind == 3
      | none => false
    !kind3 && (r.ofs % 4 == 0 || (fldIn v 30 20 0 1372 && fldIn v 19 4 1 65535))

/-- The verdict on the first record that fails, in record order (R81). -/
def State.safeRecsBad (s : State) (bs : List Byte) (n : Nat) : Option Verdict :=
  (List.range n).findSome? (fun i =>
    let r := safeRecAt bs i
    if byteAt bs (8 * i + 3) ≠ 0 then some (badAt (w32 (8 * i + 3)))
    else if r.page = 0x0C00 ∨ rwpWord r.page r.ofs = false then some (badAt (w32 (8 * i)))
    else if s.safeValueOk r then none
    else some ⟨stRefused, 0, w32 i⟩)

/-- The verdict on the first assignment record that fails (R81, R325). -/
def State.assignRecsBad (s : State) (bs : List Byte) (n : Nat) : Option Verdict :=
  (List.range n).findSome? (fun i =>
    let pt := u32 bs (8 * i)
    let safe := s.theCell.points.any (fun r => decide (r.first ≤ pt) && decide (pt < r.first + r.count) && r.flags.testBit 1)
    let id := s.theCell.rangeIdent pt
    if !safe then some (badAt (w32 (8 * i)) id)
    else if 32 < u16 bs (8 * i + 4) then some (badAt (w32 (8 * i + 4)) id)
    else if 1 < byteAt bs (8 * i + 6) then some (badAt (w32 (8 * i + 6)) id)
    else if byteAt bs (8 * i + 7) ≠ 0 then some (badAt (w32 (8 * i + 7)) id)
    else none)

/-- A presence-gated command that has passed its checks becomes pending; on the standby it waits for the active's word
(R58, R369). -/
def State.toGate (s : State) (p : Pkt) : State :=
  if p.origin = .partner then s.setQueue (f16 p.queue) (s.host.queues[f16 p.queue].setPhase p.tag .pending)
  else s.toPending p

/-- SAFE_PARAM_SET (R81). -/
def execSafeParamSet (q : Fin 16) (tag : Fin 1024) (s : State) : Host.Outcome State Fault Refusal :=
  .next (s.startPkt q tag 0x70 (fun p t =>
    let n := p.p0.toNat
    if n = 0 ∨ 512 < n then t.finish p (badAt atP0)
    else if p.payload.length ≠ 8 * n then t.finish p (badAt 0)
    else match t.safeRecsBad p.payload n with
      | some v => t.finish p v
      | none => t.toGate p))

/-- SAFE_POINT_ASSIGN (R81, R325). -/
def execSafePointAssign (q : Fin 16) (tag : Fin 1024) (s : State) : Host.Outcome State Fault Refusal :=
  .next (s.startPkt q tag 0x71 (fun p t =>
    let n := p.p0.toNat
    if n = 0 ∨ 4096 < n then t.finish p (badAt atP0)
    else if p.payload.length ≠ 8 * n then t.finish p (badAt 0)
    else match t.assignRecsBad p.payload n with
      | some v => t.finish p v
      | none => t.toGate p))

/-! ### Their effect, at a safety cycle boundary (R81) -/

/-- An RWP word takes its value in both channels. -/
def State.putSafe (s : State) (r : SafeRec) : State :=
  let v := r.value &&& safeMask r
  let f := s.safety
  let p := s.sep
  if r.page = 0x0A00 then
    (if r.ofs = 4 then s.setSafety { f with estopCfg := v }
     else if r.ofs = 5 then s.setSafety { f with otest := v }
     else if r.ofs < 0x20 then s.setSafety { f with sinCfg := f.sinCfg.set (f16 (r.ofs - 0x10)) v }
     else if r.ofs < 0x40 then s.setIndex (f16 (r.ofs - 0x30)) { f.index[f16 (r.ofs - 0x30)] with cfg := v }
     else if r.ofs < 0x60 then s.setIndex (f16 (r.ofs - 0x50)) { f.index[f16 (r.ofs - 0x50)] with brk := v }
     else if r.ofs < 0x90 then s.setSafety { f with funcs := f.funcs.set (f32i (r.ofs - 0x70)) v }
     else s.setSafety { f with auxsto := f.auxsto.set (fin 8 (by decide) (r.ofs - 0x90)) v })
  else if r.page = 0x0B00 then
    (if r.ofs = 0 then s.setSep { p with ctrl := v }
     else if r.ofs < 0x30 then s.setSep { p with chains := vmod p.chains (f16 ((r.ofs - 0x10) / 2)) (fun x =>
       if r.ofs % 2 = 0 then { x with sep := v } else { x with z := v }) }
     else s.setSep { p with sources := vmod p.sources (f16 (r.ofs - 0x50)) (fun x => { x with zd := v }) })
  else
    let n := 64 * (r.page - 0x0B10) + r.ofs / 4
    let l := p.linkOf n
    s.setSep { p with links := mput {} p.links n (if r.ofs % 4 = 0 then { l with conn := v } else { l with cfg := v }) }

/-- An assignment record: a point has at most one assignment, and function 0 removes it. -/
def SafetySt.assign (f : SafetySt) (pt fn : Nat) (inv : Bool) : SafetySt :=
  let rest := f.assigns.filter (fun a => a.1 != pt)
  { f with assigns := if fn = 0 then rest else mins rest pt (fn, inv) }

/-- An accepted safety command takes effect. -/
def State.applySafe (s : State) (p : Pkt) : State :=
  let n := p.p0.toNat
  let s := if p.opcode = 0x70 then (List.range n).foldl (fun s i => s.putSafe (safeRecAt p.payload i)) s
    else s.setSafety ((List.range n).foldl (fun f i =>
      f.assign (u32 p.payload (8 * i)) (u16 p.payload (8 * i + 4)) ((byteAt p.payload (8 * i + 6)).testBit 0)) s.safety)
  s.configChanged p.queue p.tag (w32 n)

/-- The accepted safety commands of queue 14, in arrival order. A command whose flash write waits is not applied again. -/
def State.applySafes (s : State) : State :=
  let waits := fun (p : Pkt) => s.sys.writes.any (fun w => match w with
    | .safetyCfg q t _ => q == p.queue && t == p.tag
    | _ => false)
  ((s.host.queues[(14 : Fin 16)].inflight).filter (fun p => (p.opcode == 0x70 || p.opcode == 0x71) &&
    decide (p.phase = Phase.started) && !waits p)).foldl (fun s p => s.applySafe p) s

/-! ### Heartbeats (R317) -/

/-- The heartbeats of a boundary: `hb1` and `hb2` say whether the heartbeat of channel 1 and of channel 2 arrived. -/
def State.heartbeats (s : State) (hb1 hb2 digestsEqual : Bool) : State :=
  let f := s.safety
  let m1 := if hb1 then 0 else satN 255 (f.hbMiss1 + 1)
  let m2 := if hb2 then 0 else satN 255 (f.hbMiss2 + 1)
  let d := if hb1 && hb2 && !digestsEqual then satN 255 (f.digDiff + 1) else 0
  let s := s.setSafety { f with hbMiss1 := m1, hbMiss2 := m2, digDiff := d }
  let s := if m1 = 2 ∨ m2 = 2 then (s.enterBath 7).dropBrakes else s
  if d = 3 then s.enterBath 6 else s

/-! ### The partner's channels (R376) -/

/-- The two devices act as a pair at the safety cycle boundary. -/
def State.inPair (s : State) : Bool := decide (s.twin.state = .paired) || decide (s.twin.state = .check)

/-- The demand of an index: 0 in RUN or once a kind-3 stop has ended, else its cause, plus 128 for category 1. -/
def State.demandOf (s : State) (c : Fin 16) : Nat :=
  let x := s.safety.index[c]
  let ended := decide (1 ≤ x.cause) && decide (x.cause ≤ 32) && funcKind (s.safety.funcWord x.cause) == 3 && !s.safety.isActive x.cause
  match x.state with
  | .run => 0
  | .ss1 => 128 + x.cause
  | .sto => if ended then 0 else x.cause

/-- The payload of a SAFETY frame of a channel, in a layout of the model's own: channel, stop bath, SRST_N candidate, zero,
the planning tick, the kind-6 candidates, and the 16 demands. -/
def State.safetyFrame (s : State) (ch : Nat) : List Byte :=
  let funcs := s.twin.candSent.2.foldl (fun m f => m + 2 ^ (f - 1)) 0
  [BitVec.ofNat 8 ch, BitVec.ofNat 8 (b2n s.safety.bath), BitVec.ofNat 8 (b2n s.twin.candSent.1), 0] ++ leBytes 4 s.tickNo ++
    leBytes 4 funcs ++ (List.range 16).map (fun c => BitVec.ofNat 8 (s.demandOf (f16 c)))

/-- What a SAFETY frame holds. -/
def peerSafetyOf (bs : List Byte) : PeerSafety :=
  { cycle := u32 bs 4, demands := (slice bs 12 16).map (·.toNat), bath := byteAt bs 1 != 0, srst := byteAt bs 2 != 0
    funcs := wordAt bs 8 }

/-- Adopt the demands of one channel of the partner. -/
def State.adoptDemands (s : State) (p : Option PeerSafety) : State :=
  match p with
  | none => s
  | some p => foldOn (List.range 16) s (fun s c =>
      let d := p.demands.getD c 0
      if d = 0 then s else s.stopIndex (f16 c) (if d < 128 then 0 else 1) (d % 128))

/-- Both channels of the partner found a candidate at the last boundary. -/
def State.peersAgree (s : State) (f : PeerSafety → Bool) : Bool :=
  let was := fun (p : Option PeerSafety) => match p with
    | some p => p.cycle == (s.tickNo + 2 ^ 32 - 1) % 2 ^ 32 && f p
    | none => false
  was s.twin.peer1 && was s.twin.peer2

/-- Some channel of the partner found a candidate at the last boundary. -/
def State.peersHave (s : State) (f : PeerSafety → Bool) : Bool :=
  let was := fun (p : Option PeerSafety) => match p with
    | some p => p.cycle == (s.tickNo + 2 ^ 32 - 1) % 2 ^ 32 && f p
    | none => false
  was s.twin.peer1 || was s.twin.peer2

/-- The resets of a pair: what all four channels found at the last boundary is judged, anything else is refused with
reason 5, and the new candidates go to the partner (R376). -/
def State.judgePaired (s : State) : State :=
  let own := s.twin.candSent
  let srst := own.1 && s.peersAgree (·.srst)
  let part := !srst && (own.1 || s.peersHave (·.srst))
  let both := fun (f : Nat) => s.peersAgree (fun p => p.funcs.toNat.testBit (f - 1))
  let odd := own.2.any (fun f => !both f) ||
    (List.range 32).any (fun i => !own.2.contains (i + 1) && s.peersHave (fun p => p.funcs.toNat.testBit i))
  let found := s.safety.pressFound
  let s := s.setTwin { s.twin with candSent := (found == some 0, s.safety.funcCand) }
  let s := s.setSafety { s.safety.pressTaken with funcCand := [] }
  let s := match found with
    | some (r + 1) => s.refuseReset (r + 1)
    | _ => s
  let s := if srst then s.judgeReset (List.range 16) true else if part then s.refuseReset 5 else s
  let s := (own.2.filter both).foldl (fun s f => s.judgeReset (maskBits 16 (fld (s.safety.funcWord f) 15 0)) false) s
  let s := if odd then s.refuseReset 5 else s
  (s.sendBenjo 5 (s.safetyFrame 1)).sendBenjo 5 (s.safetyFrame 2)

/-! ### The boundary -/

/-- The separation decisions and the caps of channel 1 (R359 to R361). -/
def State.sepBoundary (s : State) (hb1 hb2 : Bool) : State :=
  if s.cellOn then (foldOn (List.range 16) s (fun s c => s.sepDecide hb1 hb2 (f16 c))).writeCaps else s

/-- SAFETY_CYCLE_BOUNDARY (R317, R327, R329, R335, R359, R376): on the 1 ms grid. Heartbeats are exchanged once both channels
are ready; what they carry is adopted before the digests are formed and compared. -/
def execSafetyCycleBoundary (hb1 hb2 digestsEqual : Bool) (s : State) : Host.Outcome State Fault Refusal :=
  if !s.onGrid 1000000 0 then .next s
  else
    let ready := s.isReady rdSafetycpu && s.isReady rdSafelight
    let s := s.applySafes.sepBoundary (ready && hb1) (ready && hb2)
    let s := (if ready then s.heartbeats hb1 hb2 digestsEqual else s).evalFuncs
    let s := foldOn (List.range 16) s (fun s c => (s.ss1Cycle (f16 c)).slsCycle (f16 c))
    .next (if s.inPair then ((s.adoptDemands s.twin.peer1).adoptDemands s.twin.peer2).judgePaired else s.judgeResets)

end Sys2Proof.Machine
end

