-- ==== Sys2Proof/Machine/Sys.lean ====
section
/-! DEFINITION. Bring-up, supplies and reset (17_bringup_power_reset.md, R397 to R418; thermal limits of R425): main-die
reset and boot, readiness, supply events, and the firmware and OTP commands of group 0xD_ up to presence. -/

namespace Sys2Proof.Machine

/-! ### Main-die reset (R397, R398, R414, R417, R418) -/

/-- Safelight through a main-die reset: it keeps the line levels, input faults, brake causes and the hours since the last
brake test, and holds the stop bath; what the main die shows of it starts again. Cell time starts again, and with it what is
counted from a discrepancy or from a test that fell due. -/
def SafetySt.afterReset (f : SafetySt) (cellNs : Nat) : SafetySt :=
  { ch2Ok := f.ch2Ok, srst := #v[{}, { f.srst[(1 : Fin 2)] with since := 0 }], boot := f.boot, stuck := f.stuck
    outFaults := f.outFaults
    estop := { f.estop with faults := 0, since := f.estop.since.map (fun _ => 0) }
    sins := foldOn (List.range 16) f.sins (fun v i => vmod v (f16 i) (fun p =>
      { p with faults := 0, since := p.since.map (fun _ => 0) }))
    index := foldOn (List.range 16) (Vector.replicate 16 {}) (fun v c => vmod v (f16 c) (fun x =>
      let o := f.index[f16 c]
      { x with brakeFault := o.brakeFault, overdue := o.overdue, due := o.due.map (fun _ => 0), closeAt := o.closeAt
               sinceH := o.hours cellNs })) }

/-- The slots after a reset: one that was being programmed holds what had been written, which the spec does not say (R406). -/
def SysSt.torn (y : SysSt) (free : Nat) : SysSt :=
  match y.burning with
  | none => y
  | some _ => if y.slot = 0 then { y with fw1 := some ⟨Config.tornImage free⟩ } else { y with fw0 := some ⟨Config.tornImage free⟩ }

/-- What the system part keeps through a main-die reset: flash, OTP, the supply monitors and Safelight's supply. -/
def SysSt.afterReset (y : SysSt) (cause : Nat) : SysSt :=
  { supplyStop := y.supplyStop, stopSeen := y.stopSeen, inReset := true, porstLow := y.porstLow, coreHold := y.coreHold, wdHold := y.wdHold, nextCause := cause
    ready := y.ready &&& 1, bcfg0 := y.bcfg0, bcfg1 := y.bcfg1, safe0 := y.safe0, safe1 := y.safe1, pers0 := y.pers0
    pers1 := y.pers1, fw0 := y.fw0, fw1 := y.fw1, otp := y.otp, dipAt := y.dipAt, dipStamp := y.dipStamp, deep := y.deep
    keptDip := y.keptDip, aboveAt := y.aboveAt, nowMv := y.nowMv, slMv := y.slMv, slFault := y.slFault, spans := y.spans
    slUp := y.slUp, slGoodAt := y.slGoodAt }

/-- Main-die reset begins: every enable goes, the stop bath has cause 1, and the main die's state is that of reset
(R330, R417, R418). `fast` closes the brakes at once. -/
def State.holdReset (s : State) (cause : Nat) (fast : Bool) : State :=
  let s := s.setSafety { s.safety with ch1Ok := false }
  let s := (s.enterBath 1).driveAll
  let s := if fast then s.dropBrakes else s
  { State.reset with
    pending := s.pending, now := s.now, free := s.free + 1, out := s.out
    safety := s.safety.afterReset s.time.cellNs, sys := (s.sys.torn s.free).afterReset cause }

/-- PORST_N (R398, R417): low for at least 5 µs is a reset, whose release boots with cause 1. -/
def execPorstN (low : Bool) (ns : Nat) (s : State) : Host.Outcome State Fault Refusal :=
  if low then
    if ns < 5000 ∨ s.sys.porstLow = true then .next s
    else
      let s := s.holdReset 1 true
      .next (s.setSys { s.sys with porstLow := true })
  else .next (s.setSys { s.sys with porstLow := false })

/-- FIRMWARE_WATCHDOG (R398): the hold lasts 10 µs, and the boot shows cause 4. -/
def execFirmwareWatchdog (s : State) : Host.Outcome State Fault Refusal :=
  if s.sys.inReset || !s.sys.running then .next s
  else
    let s := s.holdReset 4 true
    .next (s.setSys { s.sys with wdHold := some s.now })

/-- None of the conditions of R398 holds. -/
def State.resetReleased (s : State) : Bool :=
  let y := s.sys
  !y.porstLow && (y.coreHold.isNone || (y.dipAt.isNone && decide (y.aboveAt + 1000000 ≤ s.now))) &&
    (match y.wdHold with
     | some t => decide (t + 10000 ≤ s.now)
     | none => true)

/-! ### Boot (R401 to R404) -/

/-- The number of bits set among the low `n` bits. -/
def bitCount (n m : Nat) : Nat := ((List.range n).filter (fun i => m.testBit i)).length

/-- The OTP key hash is all zero. -/
def SysSt.keyBlank (y : SysSt) : Bool := (y.otp.toList.take 12).all (· == 0)
/-- The key hash words. -/
def SysSt.keyHash (y : SysSt) : List Word := y.otp.toList.take 12
/-- The rollback floor: the bits set in OTP words 12 to 15. -/
def SysSt.rollback (y : SysSt) : Nat := ((y.otp.toList.drop 12).take 4).foldl (fun n w => n + bitCount 32 w.toNat) 0

/-- The key and the signature of an image are right: the hash of pubkey is that in OTP, unless that is blank, and the signature
holds over header bytes 0 to 131 followed by the body (R403). DESIGN CHOICE (log entry 18): OTP word i holds bytes 4i to 4i + 3 of the
hash, the first in its low bits, since the spec gives no order. -/
def SysSt.signed (y : SysSt) (b : List Byte) : Bool :=
  let key := slice b 32 97
  (y.keyBlank || wordsAt (sha384 key) 0 12 == y.keyHash) &&
    ecdsaValid key (slice b 132 48) (slice b 180 48) (sha384 (b.take 132 ++ b.drop 256))

/-- A slot or the staged image holds a valid image (R402, R403). -/
def SysSt.imageValid (y : SysSt) (im : FwImage) : Bool :=
  let b := im.bytes
  decide (256 ≤ b.length) && decide (b.length ≤ 16777216) && u32 b 0 == 0x57464652 && u16 b 4 == 0x0100 &&
    byteAt b 7 == 0 && zeroed b 16 16 && zeroed b 129 3 && zeroed b 228 28 && decide (byteAt b 6 ≤ 128) &&
    decide (256 + u32 b 12 = b.length) && decide (y.rollback ≤ byteAt b 6) && y.signed b

/-- The image in a slot. -/
def SysSt.slotImage (y : SysSt) (n : Nat) : Option FwImage := if n = 0 then y.fw0 else y.fw1
/-- A slot holds a valid image. -/
def SysSt.slotValid (y : SysSt) (n : Nat) : Bool :=
  match y.slotImage n with
  | some im => y.imageValid im
  | none => false

/-- The slot that boots and whether it is the fallback; none where neither is valid (R403, R404). -/
def SysSt.bootChoice (y : SysSt) (first : Nat) : Option (Nat × Bool) :=
  if y.slotValid first then some (first, false)
  else if y.slotValid (1 - first) then some (1 - first, true)
  else none

/-- Page 0x0001 without a valid copy: zero but for the ten default addresses 02-52-46-00-0t-pp (R401). -/
def defaultBcfg (twinId : Bool) : List Word :=
  let macs := (List.range 10).flatMap (fun p => ([0x02, 0x52, 0x46, 0x00, BitVec.ofNat 8 (b2n twinId), BitVec.ofNat 8 p] : List Byte))
  wordsAt (List.replicate 16 (0 : Byte) ++ macs ++ List.replicate 52 (0 : Byte)) 0 32

/-- MAIN_DIE_RESET_RELEASE (R397 to R404, R428): the first instant at which nothing holds reset. The straps are sampled, the
boot configuration and TW_CFG are read, and the boot ROM starts the first valid image, if there is one. -/
def execMainDieResetRelease (twinId dbgEn : Bool) (s : State) : Host.Outcome State Fault Refusal :=
  if !s.sys.inReset || !s.resetReleased then .next s
  else
    let y := s.sys
    let rec_ := newerCopy y.bcfg0 y.bcfg1
    let words := (rec_.map (·.words)).getD (defaultBcfg twinId)
    let first := (rec_.map (fun c => bootSlotOf c.words)).getD 0 % 2
    let boot := y.bootChoice first
    let im := (boot.bind (fun b => y.slotImage b.1)).getD {}
    let y := { y with
      inReset := false, coreHold := none, wdHold := none, running := boot.isSome, releasedAt := s.now
      bootCause := y.nextCause, slot := ((boot.map (·.1)).getD 0), fallback := (boot.map (·.2)).getD true
      unprov := y.keyBlank, bcfgDefault := rec_.isNone, bcfg := words, dbgEn := dbgEn
      secVer := byteAt im.bytes 6, floor := if boot.isSome then y.rollback else 0, fwver := wordAt im.bytes 8
      nowMv := Config.freeNat s.free % 65536, keptDip := if boot.isSome then none else y.keptDip }
    let cfg := (((newerCopy y.pers0 y.pers1).map (fun c => c.words.getD 0 0x003C0000)).getD 0x003C0000)
    let s := match boot, s.sys.keptDip with
      | some _, some d => s.logRec 0x21 d.1 d.2.1 d.2.2
      | _, _ => s
    let s := (s.setSys y).nextFree
    let s := s.setHost { s.host with ip0 := words.getD 2 0, ip1 := words.getD 3 0 }
    .next (s.setTwin { s.twin with
      cfg := cfg, twinId := twinId, state := if fld cfg 31 30 = 1 then .alone else .solo, active := true })

/-! ### Readiness (R404, R407, R408, R410) -/

/-- A channel starts: its first sample of SRST_N is to come (R334). -/
def State.channelStarts (s : State) (ch : Fin 2) : State :=
  s.setSafety { s.safety with srst := s.safety.srst.set ch { since := s.time.cellNs } }

/-- A function may report its start-up test (R331, R397, R404, R407). -/
def State.mayReport (s : State) (f : Nat) : Bool :=
  if f = rdSafelight then s.sys.slUp && decide (s.sys.slGoodAt + 2000000 ≤ s.now)
  else !s.sys.inReset && (s.sys.running || f == rdTime) && (f != rdSafetycpu || s.safety.cfgValid)

/-- No unit of LOOP, SOLVER or DSP is left in the resource mask (R407). -/
def State.noUnits (s : State) (f : Nat) : Bool :=
  (f == rdLoop && s.cell.engMask == 0xFFFF) || (f == rdSolver && s.cell.partMask == 0xFF) ||
    (f == rdDsp && s.cell.tileMask == 0xFFFF)

/-- FUNCTION_READY (R407, R410): a function that passes its start-up test is ready; one that fails it latches its fault. DSP passes
when every unmasked tile has (R268). A bit that has cleared since the release returns only after a main-die reset (R409). -/
def execFunctionReady (f : Fin 21) (pass : Bool) (s : State) : Host.Outcome State Fault Refusal :=
  let y := s.sys
  let again := f.val == rdSafelight && !s.safety.ch2Ok
  if !s.mayReport f.val || (y.ready.getLsbD f.val && !again) then .next s
  else if !pass || s.noUnits f.val then .next (s.setSys { y with fault := bvSet y.fault f.val })
  else
    let s := if y.dropped.getLsbD f.val then s else s.setSys { y with ready := bvSet y.ready f.val }
    let s := if f.val = rdSafelight then (s.setSafety { s.safety with ch2Ok := true }).channelStarts 1
      else if f.val = rdSafetycpu then (s.setSafety { s.safety with ch1Ok := true }).channelStarts 0 else s
    .next (if f.val = rdTwin then s.sendHello s.cell.nextDigest else s)

/-! ### VDD_CORE (R411 to R415) -/

/-- VDD_CORE_DIP (R411): the filtered crossing below warning. -/
def execVddCoreDip (s : State) : Host.Outcome State Fault Refusal :=
  let y := s.sys
  if y.dipAt.isSome then .next s
  else .next ((s.setSys { y with
    dipAt := some s.now, dipStamp := s.stamp, deep := false, stopSeen := y.stopSeen && decide (5000 ≤ s.belowUs), pwcnt := bump y.pwcnt 31 24 1
    nowMv := Config.freeNat s.free % 65536 }).nextFree)

/-- SUPPLY_CAUTION_ENTRY (R412): at the 50th µs of a dip. -/
def execSupplyCautionEntry (s : State) : Host.Outcome State Fault Refusal :=
  let y := s.sys
  match y.dipAt with
  | none => .next s
  | some t =>
    if y.caution || y.inReset || decide (s.now < t + 50000) then .next s
    else .next (s.setSys { y with caution := true, faultCaution := true, pwcnt := bump y.pwcnt 23 16 1 })

/-- Spans that still reach into the last 100 ms. -/
def recentSpans (now : Nat) (l : List (Nat × Nat)) : List (Nat × Nat) := l.filter (fun p => decide (now < p.2 + 100000000))

/-- DIP_END (R413, R415): the crossing back above warning. A dip that stayed above the reset level gives PW_DIP and a log
record of kind 0x21; one that reached it is logged after the restart. -/
def execDipEnd (minMv : Nat) (s : State) : Host.Outcome State Fault Refusal :=
  let y := s.sys
  match y.dipAt with
  | none => .next s
  | some t =>
    let us := (s.now - t) / 1000
    let y := { y with dipAt := none, deep := false, aboveAt := s.now, spans := (t, s.now) :: recentSpans s.now y.spans
                      nowMv := Config.freeNat s.free % 65536 }
    if s.sys.deep then .next (s.setSys { y with keptDip := some (y.dipStamp, us, minMv) }).nextFree
    else if y.inReset then .next (s.setSys y).nextFree
    else
      let y := { y with minMv := min y.minMv minMv, dip := w32 (65536 * minMv + satN 65535 us) }
      .next (((s.setSys y).nextFree).logRec 0x21 y.dipStamp us minMv)

/-- SUPPLY_STOP (R413): the total below warning has reached 5,000 µs within 100 ms in the monitor of a channel. The second
monitor to reach it finds cause 10 entered. -/
def execSupplyStop (_ch : Fin 2) (s : State) : Host.Outcome State Fault Refusal :=
  let y := s.sys
  if y.stopSeen || y.inReset || decide (s.belowUs < 5000) then .next s
  else .next ((s.setSys { y with
    supplyStop := true, stopSeen := true, faultSupply := true, pwcnt := bump y.pwcnt 15 8 1 }).enterBath 10)

/-- VDD_CORE_RESET_LEVEL (R398, R414): every enable goes, brakes close after brk_delay, and the main die resets with
cause 2. -/
def execVddCoreResetLevel (s : State) : Host.Outcome State Fault Refusal :=
  let t := s.holdReset 2 false
  .next (t.setSys { t.sys with
    coreHold := some s.now, deep := true, dipAt := some (s.sys.dipAt.getD s.now)
    dipStamp := if s.sys.dipAt.isSome then s.sys.dipStamp else s.stamp })

/-! ### VDD_SL (R397, R416) -/

/-- VDD_SL_LOW (R416): below 1.140 V for 20 µs or more channel 2 has an internal fault; below 1.080 V Safelight is held in
reset, and every output is off. -/
def execVddSlLow (reset : Bool) (ns : Nat) (s : State) : Host.Outcome State Fault Refusal :=
  let y := { s.sys with slMv := Config.freeNat s.free % 65536 }
  if reset then
    let had := y.ready.getLsbD rdSafelight
    let y := { y with slUp := false, slFault := true, ready := bvClr y.ready rdSafelight
                      dropped := if had && !y.inReset then bvSet y.dropped rdSafelight else y.dropped
                      fault := if had && !y.inReset then bvSet y.fault rdSafelight else y.fault }
    .next (((s.setSys y).nextFree).channelFault 1)
  else if ns < 20000 ∨ s.sys.slUp = false then .next s
  else .next (((s.setSys { y with slFault := true }).nextFree).channelFault 1)

/-- VDD_SL_GOOD (R397, R416): above 1.14 V. Safelight that was held in reset restarts with stop bath cause 1. -/
def execVddSlGood (s : State) : Host.Outcome State Fault Refusal :=
  let y := { s.sys with slMv := Config.freeNat s.free % 65536 }
  if y.slUp then .next (s.setSys y).nextFree
  else
    let s := (s.setSys { y with slUp := true, slGoodAt := s.now, slFault := false }).nextFree
    .next (if s.now = 0 then s else s.enterBath 1)

/-! ### Temperature (R425) -/

/-- THERMAL_LIMIT (R425). -/
def execThermalLimit (e : ThermalEvent) (s : State) : Host.Outcome State Fault Refusal :=
  let y := s.sys
  match e with
  | .gradeMaximum =>
    let due := match y.thermalAt with
      | some t => decide (t + 1000000000 ≤ s.now)
      | none => true
    if due && !y.inReset then
      .next (((s.setSys { y with thermalAt := some s.now }).notice .thermal 0 0).logRec 0x22 s.stamp 0 0)
    else .next s
  | .faultLimit =>
    if y.hot then .next s else .next ((s.setSys { y with hot := true }).channelFault 0)
  | .cooled =>
    if y.hot then
      let s := s.setSys { y with hot := false }
      .next (if s.isReady rdSafetycpu && !s.safety.intFault1 then s.setSafety { s.safety with ch1Ok := true } else s)
    else .next s
  | .safelight => .next (s.channelFault 1)

/-! ### Firmware and OTP (R86, R402 to R406) -/

/-- FW_STAGE (R9, R10, R406): fragments of a firmware image; an image whose length does not follow from its header is refused at the
place of body_len, and a new image must be verified again. -/
def execFwStage (q : Fin 16) (tag : Fin 1024) (s : State) : Host.Outcome State Fault Refusal :=
  .next (s.startPkt q tag 0xD0 (fun p t => t.fragment .fw p t.sys.burning.isSome (fun bs u =>
    if bs.length ≠ 256 + u32 bs 12 then u.finish p (badAt 12) else (u.setSys { u.sys with staged := some ⟨bs⟩, verified := false, programmed := false }).finishOk p)))

/-- FW_VERIFY (R403, R406): result word 1 is 0 for a valid image, whose programming then starts. -/
def execFwVerify (q : Fin 16) (tag : Fin 1024) (s : State) : Host.Outcome State Fault Refusal :=
  .next (s.startPkt q tag 0xD1 (fun p t =>
    match t.sys.staged with
    | none => t.finish p (badAt 0)
    | some im =>
      if t.sys.burning.isSome then t.finish p busy
      else if t.sys.imageValid im then
        (t.setSys { t.sys with verified := true, burning := some im, programmed := false }).finishOk p (wordAt im.bytes 8) 0
      else (t.setSys { t.sys with verified := false }).finishOk p (wordAt im.bytes 8) 1))

/-- FW_PROGRAM_COMPLETE (R400, R406): the slot that does not run holds the verified image. -/
def execFwProgramComplete (s : State) : Host.Outcome State Fault Refusal :=
  let y := s.sys
  match y.burning with
  | none => .next s
  | some im =>
    if y.caution then .next s
    else
      let y := { y with burning := none, programmed := true }
      .next (s.setSys (if y.slot = 0 then { y with fw1 := some im } else { y with fw0 := some im }))

/-- FW_ACTIVATE (R86, R406): the checks before the window opens. -/
def execFwActivate (q : Fin 16) (tag : Fin 1024) (s : State) : Host.Outcome State Fault Refusal :=
  .next (s.startPkt q tag 0xD2 (fun p t =>
    if !t.sys.verified || t.sys.staged.isNone then t.finish p (badAt 0)
    else if t.sys.burning.isSome || (bitAt p.p0 0 && t.cellOn) then t.finish p busy
    else t.toGate p))

/-- The verdict on the first OTP record that fails (R86, R405), with the words that the earlier ones leave. -/
def otpRecsBad (bs : List Byte) : Nat → Nat → Vector Word 17 → Option Verdict
  | 0, _, _ => none
  | n + 1, i, otp =>
    let w := u32 bs (8 * i)
    let v := wordAt bs (8 * i + 4)
    let locked := bitAt otp[(⟨16, by decide⟩ : Fin 17)] 0
    if 16 < w ∨ (w < 12 ∧ locked = true) then some (badAt (w32 (8 * i)))
    else
      let old := otp[fin 17 (by decide) w]
      if old &&& ~~~v ≠ 0 then some (badAt (w32 (8 * i + 4)))
      else otpRecsBad bs n (i + 1) (otp.set (fin 17 (by decide) w) v)

/-- OTP_PROGRAM (R86, R405): the checks before the window opens. -/
def execOtpProgram (q : Fin 16) (tag : Fin 1024) (s : State) : Host.Outcome State Fault Refusal :=
  .next (s.startPkt q tag 0xD3 (fun p t =>
    if p.payload.length ≠ 8 * p.p0.toNat then t.finish p (badAt 0)
    else match otpRecsBad p.payload p.p0.toNat 0 t.sys.otp with
      | some v => t.finish p v
      | none => t.toGate p))

/-! ### Flash and OTP writes (R86, R400) -/

/-- Program one OTP word: bits only rise, and words 0 to 11 are read-only once lock bit 0 is set (R86, R405). -/
def burn (v : Vector Word 17) (r : Nat × Word) : Vector Word 17 :=
  let w := fin 17 (by decide) r.1
  if w.val < 12 ∧ bitAt v[(⟨16, by decide⟩ : Fin 17)] 0 = true then v else v.set w (v[w] ||| r.2)

/-- A write that is due is carried out, and its packet completes (R86, R400, R405, R406). -/
def State.commitWrite (s : State) (w : FlashWrite) : State :=
  match w with
  | .bcfg ws => s.commitBcfg ws (bootSlotOf ws)
  | .safetyCfg q tag w0 => s.commitSafety q tag w0
  | .twinCfg q tag =>
    let y := s.sys
    let c := writeCopy y.pers0 y.pers1 ⟨nextSeq y.pers0 y.pers1, true, [s.twin.cfg]⟩
    (s.setSys { y with pers0 := c.1, pers1 := c.2 }).finishTag q tag ⟨stOk, 0, 0⟩
  | .otp q tag recs =>
    let otp := recs.foldl burn s.sys.otp
    (s.setSys { s.sys with otp := otp }).finishTag q tag ⟨stOk, w32 recs.length, 0⟩
  | .bootSlot q tag restart =>
    let v := ((s.sys.staged.map (fun im => wordAt im.bytes 8)).getD 0)
    let s := s.commitBcfg s.sys.bcfg (1 - s.sys.slot)
    let s := if restart then s.setSys { s.sys with restartAfter := some (q, tag) } else s
    s.finishTag q tag ⟨stOk, v, 0⟩

/-- A write happens now, or waits while the supply-caution state is in force. -/
def State.flashWrite (s : State) (w : FlashWrite) : State :=
  if s.sys.caution then s.setSys { s.sys with writes := s.sys.writes ++ [w] } else s.commitWrite w

/-- SUPPLY_CAUTION_END (R412): 100 ms above warning without a break; the waiting writes are carried out in order. -/
def execSupplyCautionEnd (s : State) : Host.Outcome State Fault Refusal :=
  let y := s.sys
  if !y.caution || y.dipAt.isSome || decide (s.now < y.aboveAt + 100000000) then .next s
  else .next (y.writes.foldl (fun s w => s.commitWrite w) (s.setSys { y with caution := false, writes := [] }))

/-- REPLY_WRITE (R35, R36, R48, R49): the next reply is written if it fits; the reply of an FW_ACTIVATE that restarts the
firmware is followed by a main-die reset with cause 3 (R406). -/
def execReplyWrite (q : Fin 16) (s : State) : Host.Outcome State Fault Refusal :=
  let t := s.writeReply q
  match t.sys.restartAfter with
  | some (rq, tag) =>
    if decide (rq = q.val) && !t.inFlight rq tag && !(t.host.queues[q].replies.any (fun r => r.pkt.tag == tag)) then
      .next (t.holdReset 3 true)
    else .next t
  | none => .next t

end Sys2Proof.Machine
end

