-- ==== Sys2Proof/Machine/Presence.lean ====
section
/-! DEFINITION. The end of the presence window (R61 to R64, R412) and the execution of an accepted command (R64): the safety
commands, cells, roles, firmware and OTP. -/

namespace Sys2Proof.Machine

/-! ### TWIN_ROLE_CFG (R383) -/

/-- TW_CFG of a role configuration. -/
def roleWord (bs : List Byte) : Word :=
  w32 (2 ^ 30 * (byteAt bs 0 % 4) + 2 ^ 29 * (byteAt bs 1 % 2) + 2 ^ 16 * (u16 bs 2 % 2048))

/-- The verdict on the first field of a role configuration that fails. -/
def roleBad (bs : List Byte) : Option Verdict :=
  if bs.length ≠ 16 ∨ 2 < byteAt bs 0 then some (badAt 0)
  else if 1 < byteAt bs 1 then some (badAt 1)
  else if u16 bs 2 < 5 ∨ 1440 < u16 bs 2 then some (badAt 2)
  else if !zeroed bs 4 12 then some (badAt 4)
  else none

/-- TWIN_ROLE_CFG (R383): the checks before the window opens. -/
def execTwinRoleCfg (q : Fin 16) (tag : Fin 1024) (s : State) : Host.Outcome State Fault Refusal :=
  .next (s.startPkt q tag 0xB1 (fun p t =>
    match roleBad p.payload with
    | some v => t.finish p v
    | none =>
      if t.cellOn && decide (byteAt p.payload 0 ≠ fld t.twin.cfg 31 30) then t.finish p busy
      else t.toGate p))

/-! ### Acceptance (R62, R64) -/

/-- An accepted command executes. A placed image is announced, or placed again where the masked set has changed since
(R30, R64); the safety commands take effect at the next safety cycle boundary (R81). -/
def State.accept (s : State) (p : Pkt) : State :=
  let s := s.setQueue (f16 p.queue) (s.host.queues[f16 p.queue].setPhase p.tag Phase.started)
  if p.opcode = 0xB1 then
    (s.setTwin { s.twin with cfg := roleWord p.payload }).flashWrite (.twinCfg p.queue p.tag)
  else if p.opcode = 0xD2 then s.flashWrite (.bootSlot p.queue p.tag (bitAt p.p0 0))
  else if p.opcode = 0xD3 then
    s.flashWrite (.otp p.queue p.tag ((List.range p.p0.toNat).map (fun i => (u32 p.payload (8 * i), wordAt p.payload (8 * i + 4)))))
  else if p.opcode = 0x10 ∨ p.opcode = 0x11 then
    match s.cell.job with
    | some j =>
      if decide (j.phase = JobPhase.presence) && j.queue == p.queue && j.tag == p.tag then
        if j.stale then s.setCell { s.cell with job := some { j with phase := .placing } } else s.announceJob j
      else s
    | none => s
  else s

/-- ACCEPT_N_RELEASE (R62, R63, R412): a press of at least 50 samples that began inside the window after ACCEPT_N had been
seen high there is judged at its release; the reasons come in the order 3, 2, 4, 1, 5. DESIGN CHOICE (log entry 25): the
spec gives no phase of the 1 ms sampling grid, so the sample of the release may fall at any instant. -/
def execAcceptNRelease (b : Press) (s : State) : Host.Outcome State Fault Refusal :=
  match s.host.presence with
  | none => .next s
  | some w =>
    if s.gateOver then .next s.expireGate
    else if b.low < 50 ∨ b.inWindow = false ∨ b.seenHigh50 = false ∨ s.time.cellNs < w.opened + 1000000 * b.low then .next s
    else if !b.sealOk then .next (s.denyGate 0x44 stPresDenied 3)
    else if 100 < b.disagree then .next (s.denyGate 0x44 stPresDenied 2)
    else if 5000 < b.low then .next (s.denyGate 0x44 stPresDenied 4)
    else if !b.keysOn then .next (s.denyGate 0x44 stPresDenied 1)
    else if s.sys.caution then .next (s.denyGate 0x44 stPresDenied 5)
    else match s.gated with
      | none => .next (s.closePresence 0x41)
      | some p => .next ((s.closePresence 0x41).accept p)

/-- PRESENCE_DENIED (R63): a seal failure, a key disagreement of more than 100 samples, or ACCEPT_N low for more than
5,000 ms in a press that began inside the window after ACCEPT_N had been seen high for 50 ms there, in the order 3, 2, 4. -/
def execPresenceDenied (sealBad : Bool) (disagree low : Nat) (seenHigh50 : Bool) (s : State) : Host.Outcome State Fault Refusal :=
  match s.host.presence with
  | none => .next s
  | some w =>
    if s.gateOver then .next s.expireGate
    else if sealBad then .next (s.denyGate 0x44 stPresDenied 3)
    else if 100 < disagree then .next (s.denyGate 0x44 stPresDenied 2)
    else if 5000 < low ∧ seenHigh50 = true ∧ w.opened + 1000000 * (low + 50) ≤ s.time.cellNs then .next (s.denyGate 0x44 stPresDenied 4)
    else .next s

/-- PRESENCE_TIMEOUT (R64): 60,000 ms after the window opened. An acceptance that came before is not undone (R280). -/
def execPresenceTimeout (s : State) : Host.Outcome State Fault Refusal :=
  .next (s.onExpiry (fun e => e.user == 0) (fun s => match s.host.presence with
    | none => s
    | some w => if s.time.cellNs < w.opened + 60000000000 then s else s.denyGate 0x54 stPresTimeout 0))

/-- PANEL_CLEAR (R61): the final message has stood for 5 s. -/
def execPanelClear (s : State) : Host.Outcome State Fault Refusal :=
  .next (s.onExpiry (DelayEntry.ofUser 8 5) (fun s => match s.host.panelAt with
    | none => s
    | some t => if s.host.presence.isSome || decide (s.time.cellNs < t + 5000000000) then s else s.showPanel [] none))

end Sys2Proof.Machine
end

