-- ==== Sys2Proof/Machine/Twin.lean ====
section
/-! DEFINITION. Twin operation (15_twin_operation.md, R366 to R384): frames of the Benjo link, pair formation, running in
step, divergence, proof swaps, and the loss and rejoining of a partner. The payload layouts of SUMMARY, SAFETY, COMMAND,
SWAP, TIME, STATE and CHECK frames are the model's own. -/

namespace Sys2Proof.Machine

/-! ### Pair formation (R371, R372) -/

/-- The pair state that a code names. -/
def pairStateOf (n : Nat) : PairState :=
  match n with
  | 0 => .solo | 1 => .alone | 2 => .join | 3 => .paired | 4 => .check | _ => .out

/-- Device 0 has the channel heads of the running rings again, and sends the SERVICE frames (R148). -/
def State.giveHeads (s : State) : State :=
  s.setRings (s.rings.map (fun x => { x with head := decide (x.state = .run) && !s.twin.twinId }))

/-- A pair forms: the swap interval runs from here (R378), and a running cell is placed under twin rules again, to activate 16
planning ticks after its announcement (R382). -/
def State.formPair (s : State) (active : Bool) : State :=
  let s := s.setTwin { s.twin with lastSwap := s.time.cellNs, candSent := (false, []), safetyAt := s.now
                                   ownDigests := [], peerDigests := [], ownSolves := [], peerSolve := [], sent := [], sums := [], leftOut := [], peer1 := none, peer2 := none }
  let s := (s.pairTo .paired active).giveHeads
  if s.cellOn then s.setCell { s.cell with regrade := some { s.regradeJob with rejoin := true } } else s

/-- The refuse code that a HELLO frame gives (R372). -/
def TwinSt.refuseOf (t : TwinSt) (fw crc : Word) : Nat :=
  if t.peerId = t.twinId then 1
  else if t.peerFw ≠ fw then 2
  else if t.peerCrc ≠ crc then 3
  else if t.peerState = .out then 5
  else 0

/-- A HELLO frame (R367, R371, R372). A pair is not formed and no role changes while a presence-gated command pends (R64);
the next HELLO frame does it. DESIGN CHOICE (log entry 58): R371 gives PAIRED no change for a partner that has gone to OUT, so the
device stays in PAIRED, has the heads, and waits for no confirmation. -/
def State.takeHello (s : State) (b : List Byte) : State :=
  let t := { s.twin with
    peerId := byteAt b 0 != 0, peerState := pairStateOf (byteAt b 1), peerCell := byteAt b 2 != 0
    peerFw := wordAt b 4, peerCrc := wordAt b 8, peerDigest := wordAt b 12, peerStat := wordAt b 16 }
  let refuse := t.refuseOf s.sys.fwver s.safety.cfgCrc
  let s := s.setTwin (if t.state = .solo then t else { t with refuse := refuse })
  match t.state with
  | .alone =>
    if s.roleHeld then s
    else if refuse ≠ 0 ∨ t.peerState = .solo then s
    else if s.cellOn then
      if t.peerState = .paired then s.formPair true
      else if t.peerCell && decide (t.peerState = .alone) && t.twinId then s.pairTo .out false
      else s
    else if t.peerCell then (s.setTwin { s.twin with resync := 0 }).pairTo .join false
    else s.formPair (t.twinId == (fld t.cfg 29 29 == 1))
  | .paired =>
    if t.peerState = .check then s.diverge
    else if t.peerState = .out then s.confirmAll.takeHeads
    else if byteAt b 3 = 1 ∧ t.active = false ∧ t.peerDigest ≠ s.dueDigest then (s.setTwin { s.twin with refuse := 4 }).pairTo .out false
    else s
  | _ => s

/-! ### Running in step (R134, R373 to R375) -/

/-- The partner's results of a ring (hop, rank, cycle): each node's result is the better of the two (R134). -/
def State.takeResults (s : State) (r : Fin 4) (bs : List Byte) : State :=
  (chunks 6 (bs.length / 6) bs).foldl (fun (s : State) (e : List Byte) =>
    let h := byteAt e 0
    let n := s.rings[r].hop h
    let res : SlotResult := if byteAt e 1 = 0 then .onTime else if byteAt e 1 = 1 then .slotEdge else .slotLost
    let seq := wordAt e 2
    let s := s.putHop r h { n with peer := some (seq, res) }
    let s := if n.prev.map (·.1) = some seq then s.closePrev r h else s
    if n.live && n.final && n.cycle == some seq then s.closeCycle r h else s) s

/-- One loop slot of a SUMMARY frame (R373): a sample that only the partner evaluated brings the partner's state of the slot,
and a sample that one device missed leaves its node out of the cycle's digest. -/
def State.takeSlot (s : State) (r : Fin 4) (seq : Word) (b : List Byte) : State :=
  let e := f16 (byteAt b 0)
  let k := f32i (byteAt b 1)
  let theirs := byteAt b 2 != 0
  let l := s.loops.engines[e].slots[k]
  let own := l.evaluatedIn seq
  if !l.valid || theirs == own then s
  else
    let s := match s.theCell.nodeOfAxis l.axis with
      | some n => s.setTwin { s.twin with leftOut := ((r.val + 4 * seq.toNat, n.1) :: s.twin.leftOut).take 4096 }
      | none => s
    let vs := (List.range 5).map (fun i => sgn 32 (u32 b (4 + 4 * i)))
    if !theirs then s
    else if l.lastSeq == some seq then
      (s.setSlot e k (l.adopted vs (byteAt b 3))).setTwin { s.twin with cnt := bump s.twin.cnt 23 16 1 }
    else s.setSlot e k { l with peer := some (seq, vs, byteAt b 3) }

/-- A delivery of the partner that this device does not hold (R373): it is taken with its events, as the device's own
deliveries are (R308). -/
def State.takePeerDelivery (s : State) (seq : Word) (bs : List Byte) : State :=
  s.takeDelivery (u16 bs 0) seq (slice bs 4 (u16 bs 2))

/-- A SUMMARY frame (R373). -/
def State.takeSummary (s : State) (b : List Byte) : State :=
  let r := f4 (byteAt b 1)
  let seq := wordAt b 4
  let body := b.drop 8
  match byteAt b 0 with
  | 0 => s.takeResults r body
  | 1 =>
    let s := (chunks 24 (body.length / 24) body).foldl (fun s e => s.takeSlot r seq e) s
    if byteAt b 3 ≠ 0 then s
    else
      let key := r.val + 4 * seq.toNat
      (s.setTwin { s.twin with sums := (key :: s.twin.sums).take 32 }).sendDigest key
  | _ => s.takePeerDelivery seq body

/-- A DIGEST frame (R374, R375). -/
def State.takeDigest (s : State) (b : List Byte) : State :=
  let key := byteAt b 0 + 4 * u32 b 1
  let s := s.setTwin { s.twin with peerDigests := remember s.twin.peerDigests key (wordAt b 5) }
  if differAt s.twin.ownDigests s.twin.peerDigests key then s.diverge else s

/-- A SOLVE frame (R374, R375). -/
def State.takeSolve (s : State) (b : List Byte) : State :=
  let key := byteAt b 0 + 4 * u32 b 4
  let s := s.setTwin { s.twin with peerSolve := remember s.twin.peerSolve key (wordAt b 8) }
  if differAt s.twin.ownSolves s.twin.peerSolve key then (s.takeBack (f4 (byteAt b 0))).diverge else s

/-- A SAFETY frame (R376). -/
def State.takeSafety (s : State) (b : List Byte) : State :=
  let p := peerSafetyOf b
  let t := { s.twin with safetyAt := s.now }
  s.setTwin (if byteAt b 0 = 1 then { t with peer1 := some p } else { t with peer2 := some p })

/-! ### Commands of the active (R369) -/

/-- The in-flight packet that a COMMAND frame brings to the standby. -/
def partnerPkt (b : List Byte) (now index : Nat) : Pkt where
  opcode := byteAt b 1
  ordered := (byteAt b 2).testBit 0
  fence := (byteAt b 2).testBit 1
  tag := partnerTag (u16 b 4 % 1024)
  queue := u16 b 6 % 16
  qbyte := u16 b 6 % 16
  cls := byteAt b 3
  deadline := 0
  p0 := wordAt b 8
  p1 := wordAt b 12
  seq := wordAt b 16
  payload := b.drop 28
  arrival := now
  index := index
  credit := false
  origin := .partner
  phase := .accepted
  bound := leAt b 20 8

/-- A controller's counts, a stored frame, or the end of a pending frame, as the active had it (R369, R394). -/
def State.takeCan (s : State) (b : List Byte) : State :=
  let n := f4 (byteAt b 1)
  let i := f64 (byteAt b 2)
  let s := (s.setCanN n { s.can[n] with tecN := u16 b 4, recN := u16 b 6 }).canConfine n
  match byteAt b 3 with
  | 1 =>
    let x := (frameOf (slice b 16 72), BitVec.ofNat 64 (leAt b 8 8))
    s.canBuf n i (fun y => if y.lock.isSome then { y with shadow := some x } else { y with frame := some x, full := true })
  | 2 =>
    if byteAt b 8 = 1 then
      let held := !(s.can[n].bufs[i]).cancel.isEmpty
      s.endTx n i ⟨stOk, wordAt b 9, w32 (b2n held)⟩ 1
    else s.endTx n i ⟨stAborted, 0, 0⟩ 0
  | _ => s

/-- A packet of the active that has not passed the presence window leaves the standby (R64). -/
def State.dropPartner (s : State) (q : Fin 16) (p : Pkt) : State := (if s.beforeGate p then s.dropJob else s).dropTag q p.tag

/-- A packet of the active that has not passed the presence window. -/
def State.partnerGated (s : State) (p : Pkt) : Bool :=
  decide (p.origin = .partner) && (decide (p.phase = Phase.pending) || s.beforeGate p)

/-- A COMMAND frame (R369). -/
def State.takeCommand (s : State) (b : List Byte) : State :=
  let q := f16 (u16 b 6)
  let tag := u16 b 4
  let x := s.host.queues[q]
  match byteAt b 0 with
  | 0 =>
    s.setQueue q { x with inflight := x.inflight ++ [partnerPkt b s.time.cellNs x.nextIndex], nextIndex := x.nextIndex + 1 }
  | 1 =>
    s.setQueue q { x with
      replies := x.replies.map (fun (r : Reply) => if r.pkt.tag == tag then { r with confirmed := true } else r)
      inflight := x.inflight.map (fun (p : Pkt) => if p.tag == tag then { p with confirmed := true } else p) }
  | 2 =>
    match x.find (partnerTag tag) with
    | some p => if decide (p.origin = .partner) && decide (p.phase = Phase.pending) then s.accept p else s
    | none => s
  | 3 =>
    match x.find (partnerTag tag) with
    | some p => if s.partnerGated p then (s.dropPartner q p).sendBenjo 6 (p.about 1) else s
    | none => s
  | 5 => if s.twin.active then s else s.dropDelivered (f16 (byteAt b 1)) tag
  | 4 => if s.twin.active && byteAt b 3 != 2 then s else s.takeCan b
  | _ => s

/-! ### Frames of the link (R367, R368) -/

/-- A frame's length, header CRC and payload CRC are right. -/
def benjoOk (bs : List Byte) : Bool :=
  let len := u16 bs 2
  decide (16 ≤ bs.length) && u32 bs 12 == crc32c (bs.take 12) && decide (len ≤ 8192) &&
    decide (bs.length = 16 + len + (if len = 0 then 0 else 4)) &&
    (len == 0 || u32 bs (16 + len) == crc32c (slice bs 16 len))

/-- Count a discarded frame of a lane. -/
def State.laneError (s : State) (lane : Fin 2) : State :=
  s.setTwin { s.twin with lerr := if lane.val = 0 then bump s.twin.lerr 15 0 1 else bump s.twin.lerr 31 16 1 }

/-- A lane has delivered a valid frame; when the link comes up the device says who it is. -/
def State.laneUp (s : State) (lane : Fin 2) : State :=
  let t := s.twin
  let was := t.linkLost
  let s := s.setTwin (if lane.val = 0 then { t with lane0 := true, laneAt0 := s.now } else { t with lane1 := true, laneAt1 := s.now })
  if was then s.sendHello s.cell.nextDigest else s

/-- The message of a frame. -/
def State.takeBenjo (s : State) (type : Nat) (b : List Byte) : State :=
  let paired := decide (s.twin.state = .paired)
  let standby := !s.twin.active && (s.inPair || decide (s.twin.state = .join))
  match type with
  | 1 => s.takeHello b
  | 2 => if paired then s.takeSummary b else s
  | 3 => if paired then s.takeDigest b else s
  | 4 => if s.comparing then s.takeSolve b else s
  | 5 => if s.inPair then s.takeSafety b else s
  | 6 => if s.inPair then s.takeCommand b else s
  | 7 => if standby then s.correctPhase ((leAt b 0 8 : Int) + Config.benjoDelay - s.stamp) else s
  | 8 => if paired && !s.twin.active then
      s.setTwin { s.twin with swapTick := (if byteAt b 0 = 0 then some (u32 b 4) else none), swapAgain := byteAt b 0 != 0 } else s
  | 10 => if s.twin.state = .check then s.setTwin { s.twin with peerCheck := some (byteAt b 0 != 0) } else s
  | 9 => if s.twin.state = .join then s.setTwin { s.twin with resync := min 100 (byteAt b 0) } else s
  | _ => s

/-- BENJO_FRAME (R367): a frame that fails a CRC, or of a reserved type, is counted and discarded; of the two copies of a
frame the first valid one counts, and each STATE frame is sent once. -/
def execBenjoFrame (lane : Fin 2) (bytes : List Byte) (s : State) : Host.Outcome State Fault Refusal :=
  if !s.isReady rdTwin then .next s
  else if !benjoOk bytes then .next (s.laneError lane)
  else
    let s := s.laneUp lane
    let type := byteAt bytes 0
    let seq := wordAt bytes 4
    if 10 < type then .next (s.laneError lane)
    else if type ≠ 9 ∧ s.twin.seen.contains (type, seq) = true then .next s
    else
      let s := s.setTwin { s.twin with seen := ((type, seq) :: s.twin.seen).take 64 }
      .next (s.takeBenjo type (slice bytes 16 (u16 bytes 2)))

/-! ### Loss of lanes and of the partner (R367, R376, R379, R380) -/

/-- The device holds no cell any more. -/
def State.dropCell (s : State) : State :=
  let c := s.cell
  let s := s.setCell { c with active := none, job := none, regrade := none, placement := {}, shed := 0 }
  let engines := foldOn (List.range 16) s.loops.engines (fun v e => vmod v (f16 e) (fun g =>
    { g with slots := Vector.replicate 32 {} }))
  let s := s.setLoops { s.loops with engines := engines, groups := [], axes := Vector.replicate 160 {} }
  let s := s.setMotion { s.motion with chains := Vector.replicate 16 {}, cmds := [] }
  let s := s.setSolver { s.solver with probs := Vector.replicate 4 {} }
  let s := s.setNibble { s.nibble with front := [], back := [], deliveries := [], missed := [], rules := [] }
  foldOn (List.range 4) s (fun s r => s.ringDown (f4 r) none 0)

/-- BENJO_LANE_DOWN (R367, R380): 20 µs without a valid frame. A device that joins returns to ALONE without a cell. -/
def execBenjoLaneDown (lane : Fin 2) (s : State) : Host.Outcome State Fault Refusal :=
  let t := s.twin
  let up := if lane.val = 0 then t.lane0 else t.lane1
  let since := if lane.val = 0 then t.laneAt0 else t.laneAt1
  if !up || decide (s.now < since + 20000) then .next s
  else
    let s := s.setTwin (if lane.val = 0 then { t with lane0 := false } else { t with lane1 := false })
    if !s.twin.linkLost then .next s
    else
      let s := s.setTwin { s.twin with seen := [] }
      .next (if s.twin.state = .join then (s.setTwin { s.twin with resync := 0 }).dropCell.pairTo .alone true else s)

/-- The standby goes on alone: it is active from the next planning tick boundary. Commands of the lost active that wait for presence
are gone, and so are its EVT_ARM packets, whose replies the host never gets (R379): events are held again (R66). -/
def State.survive (s : State) : State :=
  let standby := !s.twin.active
  let waiting := (s.host.queues[(14 : Fin 16)].inflight).filter s.partnerGated
  let s := waiting.foldl (fun s p => s.dropPartner 14 p) s
  let armed := (s.host.queues[(15 : Fin 16)].inflight).filter (fun p => decide (p.origin = .partner) && p.opcode == 0x61)
  let s := armed.foldl (fun s p => s.dropTag 15 p.tag) s
  let s := if standby then s.setTwin { s.twin with becomeActiveAt := some (s.tickNo + 1) } else s
  s.settleCancels.pairTo .alone (!standby)

/-- PARTNER_LOST (R379): the link is lost, and no frame of the partner has come on any ring for 2 servo cycles. -/
def execPartnerLost (s : State) : Host.Outcome State Fault Refusal :=
  let t := s.twin
  if t.state ≠ .paired ∨ t.linkLost = false ∨ s.now < t.ringAt + 2 * s.servo then .next s
  else
    let s := s.survive
    .next (s.setTwin { s.twin with partnerRing := false, cnt := bump s.twin.cnt 7 0 1 })

/-- SAFETY_FRAME_LOSS (R376): no SAFETY frame for 2 safety cycles while the partner is heard on a ring. -/
def execSafetyFrameLoss (s : State) : Host.Outcome State Fault Refusal :=
  let t := s.twin
  if t.state = .paired ∧ t.active = false ∧ s.partnerHeard = true ∧ t.safetyAt + 2000000 ≤ s.now then
    .next (s.pairTo .out false)
  else .next s

/-! ### Self-test (R377) -/

/-- This device's own self-test has ended: its result goes to the partner in a CHECK frame (R377). -/
def State.ownResult (s : State) (own : Option Bool) : State :=
  match own, s.twin.ownCheck with
  | some pass, none =>
    (s.setTwin { s.twin with ownCheck := some pass, selftest := if pass then 1 else 2 }).sendBenjo 10 [BitVec.ofNat 8 (b2n pass)]
  | _, _ => s

/-- SELF_TEST_RESULT (R377): `own` is the result of this device's self-test where it has just ended. At a planning tick
boundary, once both results are known or 60 ms have passed, the outcome is applied; a device without a result is treated as
failed. A pending presence-gated command defers it (R64). -/
def execSelfTestResult (own : Option Bool) (s : State) : Host.Outcome State Fault Refusal :=
  if s.twin.state ≠ .check then .next s
  else
    let s := s.ownResult own
    let t := s.twin
    let known := t.ownCheck.isSome && t.peerCheck.isSome
    if s.roleHeld = true ∨ s.onGrid 1000000 0 = false ∨ (known = false ∧ s.now < t.checkAt + 60000000) then .next s
    else
      let pass := t.ownCheck.getD false
      let other := t.peerCheck.getD false
      let s := if pass then s else s.setTwin { s.twin with selftest := 2 }
      if t.active then
        if pass then .next (s.pairTo .alone true)
        else if other then .next (s.pairTo .out false)
        else .next ((s.enterBath 4).pairTo .out false)
      else if pass && other then .next ((s.setTwin { s.twin with resync := 0 }).pairTo .join false)
      else if pass then .next (s.pairTo .alone true)
      else if other then .next (s.pairTo .out false)
      else .next ((s.enterBath 4).pairTo .out false)

/-! ### Proof swap (R378) -/

/-- A swap is announced for a planning tick (R378). -/
def State.announceSwap (s : State) (tick : Nat) : State :=
  (s.setTwin { s.twin with swapTick := some tick, swapAgain := false }).sendBenjo 8 ([0, 0, 0, 0] ++ leBytes 4 tick)

/-- PROOF_SWAP_DUE (R378): at a planning tick boundary, 16 ticks ahead of the due tick, or after a withdrawal once its cause
has ended. -/
def execProofSwapDue (s : State) : Host.Outcome State Fault Refusal :=
  if !s.onGrid 1000000 0 then .next s
  else .next (s.onExpiry (fun e => e.user == 1) (fun s =>
    if s.pairActive && s.twin.swapTick.isNone && !s.swapBlocked && (s.twin.swapAgain || decide (s.swapDue ≤ s.tickNo + 16)) then
      s.announceSwap (s.tickNo + 16)
    else s))

/-- PROOF_SWAP_NOW (R85, R378): outside a pair, and while one is outstanding, it completes with BUSY. -/
def execProofSwapNow (q : Fin 16) (tag : Fin 1024) (s : State) : Host.Outcome State Fault Refusal :=
  .next (s.startPkt q tag 0xB2 (fun p t =>
    if p.origin = .partner then t.finishOk p
    else if !t.pairActive || t.twin.swapReply.isSome then t.finish p busy
    else
      let t := t.setTwin { t.twin with swapReply := some (p.queue, p.tag) }
      if t.twin.swapTick.isSome then t
      else if t.swapBlocked then t.setTwin { t.twin with swapAgain := true }
      else t.announceSwap (t.tickNo + (if t.onGrid 1000000 0 then 16 else 17))))

/-- PROOF_SWAP (R85, R378): at the announced boundary the reply of PROOF_SWAP_NOW is formed, and the roles exchange. -/
def execProofSwap (s : State) : Host.Outcome State Fault Refusal :=
  match s.twin.swapTick with
  | none => .next s
  | some k =>
    if s.twin.state ≠ .paired ∨ s.onGrid 1000000 0 = false ∨ s.tickNo < k then .next s
    else
      let s := match s.twin.swapReply with
        | some w => s.finishTag w.1 w.2 ⟨stOk, w32 k, 0⟩
        | none => s
      let drove := s.twin.active
      let s := s.setTwin { s.twin with
        active := !s.twin.active, swapTick := none, swapAgain := false, swapReply := none, lastSwap := s.time.cellNs
        cnt := bump s.twin.cnt 15 8 1 }
      .next (s.passSync drove)

/-! ### Resynchronisation (R380, R382) -/

/-- The state of the partner that resynchronisation copies: a free value. -/
opaque partnerState : Nat → Option State

/-- The rings of a device that joins a running partner: where the partner's runs, its schedule, generation, nodes and measured delays are
taken, and the ring runs from the instant of the pair on (R142, R148). -/
def adoptRings (own theirs : Vector RingSt 4) : Vector RingSt 4 :=
  foldOn (List.range 4) own (fun v i =>
    let o := theirs[f4 i]
    if o.state = .run then vmod v (f4 i) (fun x =>
      { x with state := .run, rcfg := o.rcfg, gen := o.gen, adv := o.adv, starter := o.starter, heldA := o.heldA, heldB := o.heldB
               ownA := o.ownA, ownB := o.ownB, slotAt := o.slotAt, partner := true, broken := o.broken, breakHop := o.breakHop
               ownData := [], backA := [], backB := [], missA := 0, missB := 0, backRun := 0
               nodes := o.nodes.map (fun e => (e.1, { e.2 with live := false, cycle := none, result := none, own := none, peer := none, prev := none })) })
    else v)

/-- The partner's separation state, with the RWP words of this device (R365, R380). -/
def SepSt.adopted (own theirs : SepSt) : SepSt :=
  let keys := (theirs.links.map (·.1)) ++ ((own.links.map (·.1)).filter (fun n => !theirs.links.any (fun e => e.1 == n)))
  { theirs with
    ctrl := own.ctrl
    sources := foldOn (List.range 16) theirs.sources (fun v i => vmod v (f16 i) (fun x => { x with zd := own.sources[f16 i].zd }))
    chains := foldOn (List.range 16) theirs.chains (fun v c => vmod v (f16 c) (fun x =>
      { x with sep := own.chains[f16 c].sep, z := own.chains[f16 c].z }))
    links := keys.foldl (fun m n => mput {} m n { theirs.linkOf n with conn := (own.linkOf n).conn, cfg := (own.linkOf n).cfg }) theirs.links }

/-- The parts of the partner's state that R380 names: parameter pages except RWP words, cell, stores, loop slots, motion, the
solver's copies, the nibble plane, event histories and the safety chain states. -/
def State.adopt (s t : State) : State :=
  let f := s.safety
  let index := foldOn (List.range 16) f.index (fun v c => vmod v (f16 c) (fun x =>
    let o := t.safety.index[f16 c]
    { x with state := o.state, cause := o.cause, sls := o.sls, manual := o.manual, brakeFault := o.brakeFault, overdue := o.overdue
             needsReset := o.needsReset }))
  let s := s.setSafety { f with index := index, bath := t.safety.bath, bathCause := t.safety.bathCause }
  let s := ((((s.setCell t.cell).setMotion t.motion).setLoops t.loops).setSolver t.solver).setTiles t.tiles
  let s := (((s.setDisp t.disp).setNibble t.nibble).setSep (s.sep.adopted t.sep)).setCan t.can
  let s := s.setRings (adoptRings s.rings t.rings)
  let s := s.setTime { s.time with ctrl := t.time.ctrl, domain := t.time.domain, gm := t.time.gm, utc := t.time.utc, outPer := t.time.outPer
                                   outOfs := t.time.outOfs, outW := t.time.outW, pcorr := t.time.pcorr }
  (s.setHost { s.host with ctrl := t.host.ctrl, panelAddr := t.host.panelAddr, subs := t.host.subs }).driveAll

/-- RESYNC_COMPLETE (R148, R371, R380, R382): from this planning tick boundary on the joining device is the standby, in step with its
partner, and device 0 has the heads of the running rings. -/
def execResyncComplete (s : State) : Host.Outcome State Fault Refusal :=
  if s.twin.state ≠ .join ∨ s.twin.linkLost = true ∨ s.onGrid 1000000 0 = false then .next s
  else
    let t := match partnerState s.free with
      | some o => if o.memWf then s.adopt o else s
      | none => s
    let t := t.nextFree
    .next ((t.setTwin { t.twin with resync := 100 }).formPair false)

/-! ### TWIN_STATUS (R384) -/

/-- Minutes to the next proof swap, rounded up; all ones when none is scheduled. -/
def State.swapMinutes (s : State) : Word :=
  match s.nextSwap with
  | none => 0xFFFFFFFF
  | some k => w32 (((k - s.tickNo) + 59999) / 60000)

/-- TWIN_STATUS (R384). -/
def execTwinStatus (q : Fin 16) (tag : Fin 1024) (s : State) : Host.Outcome State Fault Refusal :=
  .next (s.startPkt q tag 0xB0 (fun p t =>
    t.finishOk p t.twStat t.swapMinutes (wordBytes [t.twStat, t.twin.peerStat, t.twin.cfg, t.swapWord, t.twin.cnt, t.twin.lerr,
      t.twin.peerFw, t.twin.peerCrc, t.twin.peerDigest] ++ List.replicate 28 0)))

end Sys2Proof.Machine
end

