-- ==== Sys2Proof/Machine/Cycle.lean ====
section
/-! DEFINITION. One TIME cycle of 1 ns with no command waiting (R90, log entry 2), and what the block does by itself in it: the
dispatcher hands out its work (R272, R274), the rings send what is due (R119, R123, R141, R145), PTP sends its messages (R96),
and the Benjo link its idle and TIME frames (R107, R367). -/

namespace Sys2Proof.Machine

/-- What the block sends and hands out by itself at the present instant. -/
def State.byItself (s : State) : State :=
  (foldOn (List.range 4) (s.dispatch.ptpSends) (fun s r => s.ringTick (f4 r))).sendIdle.sendTime.sendState

/-- One TIME cycle passes. -/
def State.cycle (s : State) : State := s.tick.byItself

end Sys2Proof.Machine
end

