-- ==== Sys2Proof/Machine/Deadlines.lean ====
section
/-! DEFINITION. Packet deadlines (R43, R56): a packet that has not started in time is checked as its opcode's row checks it, and then
completes without effect. -/

namespace Sys2Proof.Machine

/-- The row of an opcode, for the packet of a queue and tag (R38). -/
def rowOf (op : Nat) (q : Fin 16) (tag : Fin 1024) (s : State) : Host.Outcome State Fault Refusal :=
  match op with
  | 0x00 => execPing q tag s
  | 0x01 => execReadyRead q tag s
  | 0x02 => execAbort q tag s
  | 0x03 => execQueueReset q tag s
  | 0x04 => execLogRead q tag s
  | 0x10 => execCellLoad q tag s
  | 0x11 => execCellAmend q tag s
  | 0x12 => execPlaceRead q tag s
  | 0x13 => execCellCheck q tag s
  | 0x20 => execSegPush q tag s
  | 0x21 => execMotionStop q tag s
  | 0x22 => execMotionResume q tag s
  | 0x23 => execSegqStatus q tag s
  | 0x24 => execOverrideSet q tag s
  | 0x30 => execLoopCoeffSet q tag s
  | 0x31 => execLoopHandover q tag s
  | 0x32 => execProbeSet q tag s
  | 0x33 => execLoopStateRead q tag s
  | 0x40 => execSchedLoad q tag s
  | 0x41 => execSchedSwap q tag s
  | 0x42 => execSchedUnload q tag s
  | 0x43 => execSolverReport q tag s
  | 0x50 => execKernelLoad q tag s
  | 0x51 => execKernelBind q tag s
  | 0x52 => execKernelUnload q tag s
  | 0x53 => execTileStatus q tag s
  | 0x60 => execEvtSubscribe q tag s
  | 0x61 => execEvtArm q tag s
  | 0x62 => execEvtCancel q tag s
  | 0x63 => execPointForce q tag s
  | 0x64 => execPointWrite q tag s
  | 0x65 => execPointRead q tag s
  | 0x66 => execRuleLoad q tag s
  | 0x70 => execSafeParamSet q tag s
  | 0x71 => execSafePointAssign q tag s
  | 0x80 => execTimeRead q tag s
  | 0x81 => execTimeSet q tag s
  | 0x82 => execPtpSelect q tag s
  | 0x83 => execSyncOutCfg q tag s
  | 0x84 => execSyncInRead q tag s
  | 0x90 => execRingStatus q tag s
  | 0x91 => execRingRerange q tag s
  | 0x92 => execNodeReadmit q tag s
  | 0xA0 => execCanTx q tag s
  | 0xA1 => execCanCancel q tag s
  | 0xA2 => execCanRxRead q tag s
  | 0xA3 => execCanCfg q tag s
  | 0xB0 => execTwinStatus q tag s
  | 0xB1 => execTwinRoleCfg q tag s
  | 0xB2 => execProofSwapNow q tag s
  | 0xC0 => execTraceUpload q tag s
  | 0xC1 => execTraceTrigger q tag s
  | 0xC2 => execTraceRelease q tag s
  | 0xD0 => execFwStage q tag s
  | 0xD1 => execFwVerify q tag s
  | 0xD2 => execFwActivate q tag s
  | 0xD3 => execOtpProgram q tag s
  | 0xE0 => execParamRead q tag s
  | 0xE1 => execParamWrite q tag s
  | _ => .next s

/-- The packets of a queue with no fence among them. -/
def QueueSt.unfenced (x : QueueSt) : QueueSt := { x with inflight := x.inflight.map (fun p => { p with fence := false }) }

/-- The dispatcher with a packet's command step current on core 0, for the checks of a packet that has not started. -/
def DispSt.trying (d : DispSt) (p : Pkt) : DispSt := { d with workers := d.workers.set 0 { d.workers[0] with cur := some (p.workItem, 0) } }

/-- PACKET_DEADLINE (R43, R56): a packet that has not started by arrival + deadline completes without effect: with the status of its
opcode's own checks (order 14) where one fails, else with DEADLINE_MISSED (order 15). A fence and a wait for a core do not keep it
from these. -/
def execPacketDeadline (q : Fin 16) (tag : Fin 1024) (s0 : State) : Host.Outcome State Fault Refusal :=
  let mine := fun (e : DelayEntry) => e.ofUser 3 q.val && e.b == tag.val
  if !s0.expired mine then .next s0
  else
    let s := s0.entryRun mine
    match s.host.queues[q].find tag with
    | some p =>
      if decide (p.phase = Phase.accepted) && p.late s.time.cellNs then
        match rowOf p.opcode q tag ((s.setQueue q s.host.queues[q].unfenced).setDisp (s.disp.trying p)) with
        | .next t =>
          if (t.host.queues[q].find tag).isSome then .next (s.finish p ⟨stDeadline, 0, 0⟩)
          else .next ((t.setQueue q { t.host.queues[q] with inflight := (s.host.queues[q].remove tag).inflight }).setDisp
            { t.disp with workers := s.disp.workers })
        | o => o
      else .next s
    | none => .next s

end Sys2Proof.Machine
end

