-- ==== Sys2Proof/Machine/Dispatch.lean ====
section
/-! DEFINITION. The dispatch: one arm for each command of `Instr`, each a call of its own meaning. -/

namespace Sys2Proof.Machine

/-- The effect of one command on everything but the queue of commands. -/
def exec (i : Instr) (s : State) : Host.Outcome State Fault Refusal :=
  match i with
  | .sqDoorbell q tail mem => Sys2Proof.Machine.execSqDoorbell q tail mem s
  | .cqDoorbell q head => Sys2Proof.Machine.execCqDoorbell q head s
  | .replyWrite q => Sys2Proof.Machine.execReplyWrite q s
  | .msixModerationExpiry q => Sys2Proof.Machine.execMsixModerationExpiry q s
  | .udpDatagram port src dstPort data => Sys2Proof.Machine.execUdpDatagram port src dstPort data s
  | .reassemblyTimeout q seq => Sys2Proof.Machine.execReassemblyTimeout q seq s
  | .packetDeadline q tag => Sys2Proof.Machine.execPacketDeadline q tag s
  | .partialImageTimeout st => Sys2Proof.Machine.execPartialImageTimeout st s
  | .resetQ q => Sys2Proof.Machine.execResetQ q s
  | .ping q tag => Sys2Proof.Machine.execPing q tag s
  | .readyRead q tag => Sys2Proof.Machine.execReadyRead q tag s
  | .abort q tag => Sys2Proof.Machine.execAbort q tag s
  | .queueReset q tag => Sys2Proof.Machine.execQueueReset q tag s
  | .logRead q tag => Sys2Proof.Machine.execLogRead q tag s
  | .cellLoad q tag => Sys2Proof.Machine.execCellLoad q tag s
  | .cellAmend q tag => Sys2Proof.Machine.execCellAmend q tag s
  | .placeRead q tag => Sys2Proof.Machine.execPlaceRead q tag s
  | .cellCheck q tag => Sys2Proof.Machine.execCellCheck q tag s
  | .segPush q tag => Sys2Proof.Machine.execSegPush q tag s
  | .motionStop q tag => Sys2Proof.Machine.execMotionStop q tag s
  | .motionResume q tag => Sys2Proof.Machine.execMotionResume q tag s
  | .segqStatus q tag => Sys2Proof.Machine.execSegqStatus q tag s
  | .overrideSet q tag => Sys2Proof.Machine.execOverrideSet q tag s
  | .loopCoeffSet q tag => Sys2Proof.Machine.execLoopCoeffSet q tag s
  | .loopHandover q tag => Sys2Proof.Machine.execLoopHandover q tag s
  | .probeSet q tag => Sys2Proof.Machine.execProbeSet q tag s
  | .loopStateRead q tag => Sys2Proof.Machine.execLoopStateRead q tag s
  | .schedLoad q tag => Sys2Proof.Machine.execSchedLoad q tag s
  | .schedSwap q tag => Sys2Proof.Machine.execSchedSwap q tag s
  | .schedUnload q tag => Sys2Proof.Machine.execSchedUnload q tag s
  | .solverReport q tag => Sys2Proof.Machine.execSolverReport q tag s
  | .kernelLoad q tag => Sys2Proof.Machine.execKernelLoad q tag s
  | .kernelBind q tag => Sys2Proof.Machine.execKernelBind q tag s
  | .kernelUnload q tag => Sys2Proof.Machine.execKernelUnload q tag s
  | .tileStatus q tag => Sys2Proof.Machine.execTileStatus q tag s
  | .evtSubscribe q tag => Sys2Proof.Machine.execEvtSubscribe q tag s
  | .evtArm q tag => Sys2Proof.Machine.execEvtArm q tag s
  | .evtCancel q tag => Sys2Proof.Machine.execEvtCancel q tag s
  | .evtHoldExpiry sub => Sys2Proof.Machine.execEvtHoldExpiry sub s
  | .pointForce q tag => Sys2Proof.Machine.execPointForce q tag s
  | .pointWrite q tag => Sys2Proof.Machine.execPointWrite q tag s
  | .pointRead q tag => Sys2Proof.Machine.execPointRead q tag s
  | .ruleLoad q tag => Sys2Proof.Machine.execRuleLoad q tag s
  | .safeParamSet q tag => Sys2Proof.Machine.execSafeParamSet q tag s
  | .safePointAssign q tag => Sys2Proof.Machine.execSafePointAssign q tag s
  | .timeRead q tag => Sys2Proof.Machine.execTimeRead q tag s
  | .timeSet q tag => Sys2Proof.Machine.execTimeSet q tag s
  | .ptpSelect q tag => Sys2Proof.Machine.execPtpSelect q tag s
  | .syncOutCfg q tag => Sys2Proof.Machine.execSyncOutCfg q tag s
  | .syncInRead q tag => Sys2Proof.Machine.execSyncInRead q tag s
  | .ringStatus q tag => Sys2Proof.Machine.execRingStatus q tag s
  | .ringRerange q tag => Sys2Proof.Machine.execRingRerange q tag s
  | .nodeReadmit q tag => Sys2Proof.Machine.execNodeReadmit q tag s
  | .canTx q tag => Sys2Proof.Machine.execCanTx q tag s
  | .canCancel q tag => Sys2Proof.Machine.execCanCancel q tag s
  | .canRxRead q tag => Sys2Proof.Machine.execCanRxRead q tag s
  | .canCfg q tag => Sys2Proof.Machine.execCanCfg q tag s
  | .twinStatus q tag => Sys2Proof.Machine.execTwinStatus q tag s
  | .twinRoleCfg q tag => Sys2Proof.Machine.execTwinRoleCfg q tag s
  | .proofSwapNow q tag => Sys2Proof.Machine.execProofSwapNow q tag s
  | .traceUpload q tag => Sys2Proof.Machine.execTraceUpload q tag s
  | .traceTrigger q tag => Sys2Proof.Machine.execTraceTrigger q tag s
  | .traceRelease q tag => Sys2Proof.Machine.execTraceRelease q tag s
  | .arm e => Sys2Proof.Machine.execArm e s
  | .fwStage q tag => Sys2Proof.Machine.execFwStage q tag s
  | .fwVerify q tag => Sys2Proof.Machine.execFwVerify q tag s
  | .fwProgramComplete => Sys2Proof.Machine.execFwProgramComplete s
  | .fwActivate q tag => Sys2Proof.Machine.execFwActivate q tag s
  | .otpProgram q tag => Sys2Proof.Machine.execOtpProgram q tag s
  | .paramRead q tag => Sys2Proof.Machine.execParamRead q tag s
  | .paramWrite q tag => Sys2Proof.Machine.execParamWrite q tag s
  | .bar0MirrorWrite w v => Sys2Proof.Machine.execBar0MirrorWrite w v s
  | .debugSpiTransaction req keysOn100ms => Sys2Proof.Machine.execDebugSpiTransaction req keysOn100ms s
  | .acceptNRelease p => Sys2Proof.Machine.execAcceptNRelease p s
  | .presenceDenied sealBad disagree low seenHigh50 => Sys2Proof.Machine.execPresenceDenied sealBad disagree low seenHigh50 s
  | .presenceTimeout => Sys2Proof.Machine.execPresenceTimeout s
  | .panelClear => Sys2Proof.Machine.execPanelClear s
  | .placementComplete => Sys2Proof.Machine.execPlacementComplete s
  | .activation => Sys2Proof.Machine.execActivation s
  | .stagingComplete p eccOk => Sys2Proof.Machine.execStagingComplete p eccOk s
  | .stagingDeadline => Sys2Proof.Machine.execStagingDeadline s
  | .loopEngineFault e masked => Sys2Proof.Machine.execLoopEngineFault e masked s
  | .partitionFault p => Sys2Proof.Machine.execPartitionFault p s
  | .tileFault t selfTest => Sys2Proof.Machine.execTileFault t selfTest s
  | .ptpMessage port m => Sys2Proof.Machine.execPtpMessage port m s
  | .ptpSlotLoss slot => Sys2Proof.Machine.execPtpSlotLoss slot s
  | .slotSwitch => Sys2Proof.Machine.execSlotSwitch s
  | .slot0Return => Sys2Proof.Machine.execSlot0Return s
  | .syncInEdge falling => Sys2Proof.Machine.execSyncInEdge falling s
  | .ppsLoss => Sys2Proof.Machine.execPpsLoss s
  | .syncOutEdge => Sys2Proof.Machine.execSyncOutEdge s
  | .tbCtrlSource src => Sys2Proof.Machine.execTbCtrlSource src s
  | .tbDomain slot v => Sys2Proof.Machine.execTbDomain slot v s
  | .ringWindowExpiry r => Sys2Proof.Machine.execRingWindowExpiry r s
  | .coldstart r laneB fcsOk frame => Sys2Proof.Machine.execColdstart r laneB fcsOk frame s
  | .rangeRsp r laneB frac fcsOk frame => Sys2Proof.Machine.execRangeRsp r laneB frac fcsOk frame s
  | .rangePollTimeout r => Sys2Proof.Machine.execRangePollTimeout r s
  | .ringActivateBoundary r => Sys2Proof.Machine.execRingActivateBoundary r s
  | .nodeFrame r laneB frac fcsOk frame => Sys2Proof.Machine.execNodeFrame r laneB frac fcsOk frame s
  | .deviceOutputFrame r => Sys2Proof.Machine.execDeviceOutputFrame r s
  | .rangingRound r => Sys2Proof.Machine.execRangingRound r s
  | .referenceStage => Sys2Proof.Machine.execReferenceStage s
  | .barrierTimeout c => Sys2Proof.Machine.execBarrierTimeout c s
  | .assembly => Sys2Proof.Machine.execAssembly s
  | .solveRequest p => Sys2Proof.Machine.execSolveRequest p s
  | .solveOverrun p => Sys2Proof.Machine.execSolveOverrun p s
  | .distribution => Sys2Proof.Machine.execDistribution s
  | .setpointEvaluation a => Sys2Proof.Machine.execSetpointEvaluation a s
  | .loopBatch node => Sys2Proof.Machine.execLoopBatch node s
  | .loopCutoffMiss e slot => Sys2Proof.Machine.execLoopCutoffMiss e slot s
  | .moAuxcmd k v => Sys2Proof.Machine.execMoAuxcmd k v s
  | .kernelActivation t => Sys2Proof.Machine.execKernelActivation t s
  | .kernelOverrun t => Sys2Proof.Machine.execKernelOverrun t s
  | .interruptEntry t => Sys2Proof.Machine.execInterruptEntry t s
  | .tNop t => Sys2Proof.Machine.execTNop t s
  | .tMac t => Sys2Proof.Machine.execTMac t s
  | .tMpy t => Sys2Proof.Machine.execTMpy t s
  | .tMac4 t => Sys2Proof.Machine.execTMac4 t s
  | .tMpy4 t => Sys2Proof.Machine.execTMpy4 t s
  | .tClra t => Sys2Proof.Machine.execTClra t s
  | .tAdda t => Sys2Proof.Machine.execTAdda t s
  | .tSha t => Sys2Proof.Machine.execTSha t s
  | .tLda t => Sys2Proof.Machine.execTLda t s
  | .tSth t => Sys2Proof.Machine.execTSth t s
  | .tStl t => Sys2Proof.Machine.execTStl t s
  | .tStg t => Sys2Proof.Machine.execTStg t s
  | .tAdd t => Sys2Proof.Machine.execTAdd t s
  | .tSub t => Sys2Proof.Machine.execTSub t s
  | .tAdds t => Sys2Proof.Machine.execTAdds t s
  | .tSubs t => Sys2Proof.Machine.execTSubs t s
  | .tAnd t => Sys2Proof.Machine.execTAnd t s
  | .tOr t => Sys2Proof.Machine.execTOr t s
  | .tXor t => Sys2Proof.Machine.execTXor t s
  | .tAsh t => Sys2Proof.Machine.execTAsh t s
  | .tLsh t => Sys2Proof.Machine.execTLsh t s
  | .tAbs t => Sys2Proof.Machine.execTAbs t s
  | .tNeg t => Sys2Proof.Machine.execTNeg t s
  | .tMin t => Sys2Proof.Machine.execTMin t s
  | .tMax t => Sys2Proof.Machine.execTMax t s
  | .tCls t => Sys2Proof.Machine.execTCls t s
  | .tCmp t => Sys2Proof.Machine.execTCmp t s
  | .tSel t => Sys2Proof.Machine.execTSel t s
  | .tMov t => Sys2Proof.Machine.execTMov t s
  | .tMovi t => Sys2Proof.Machine.execTMovi t s
  | .tAddi t => Sys2Proof.Machine.execTAddi t s
  | .tModi t => Sys2Proof.Machine.execTModi t s
  | .tBxclr t => Sys2Proof.Machine.execTBxclr t s
  | .tBxupd t => Sys2Proof.Machine.execTBxupd t s
  | .tBr t => Sys2Proof.Machine.execTBr t s
  | .tCall t => Sys2Proof.Machine.execTCall t s
  | .tRet t => Sys2Proof.Machine.execTRet t s
  | .tDbnz t => Sys2Proof.Machine.execTDbnz t s
  | .tLoop t => Sys2Proof.Machine.execTLoop t s
  | .tReti t => Sys2Proof.Machine.execTReti t s
  | .tEnd t corrected => Sys2Proof.Machine.execTEnd t corrected s
  | .tSwi t => Sys2Proof.Machine.execTSwi t s
  | .lHalt p corrected => Sys2Proof.Machine.execLHalt p corrected s
  | .lSpmv p => Sys2Proof.Machine.execLSpmv p s
  | .lAxpy p => Sys2Proof.Machine.execLAxpy p s
  | .lDot p => Sys2Proof.Machine.execLDot p s
  | .lSdiv p => Sys2Proof.Machine.execLSdiv p s
  | .lBsolve p => Sys2Proof.Machine.execLBsolve p s
  | .lFactor p => Sys2Proof.Machine.execLFactor p s
  | .lProj p => Sys2Proof.Machine.execLProj p s
  | .lCopy p => Sys2Proof.Machine.execLCopy p s
  | .lOuter p => Sys2Proof.Machine.execLOuter p s
  | .lInner p => Sys2Proof.Machine.execLInner p s
  | .lEnd p => Sys2Proof.Machine.execLEnd p s
  | .lSync p => Sys2Proof.Machine.execLSync p s
  | .lWarm p => Sys2Proof.Machine.execLWarm p s
  | .lEmit p => Sys2Proof.Machine.execLEmit p s
  | .delayTick => Sys2Proof.Machine.execDelayTick s
  | .arbitrationRound idx reqs release => Sys2Proof.Machine.execArbitrationRound idx reqs release s
  | .abMemcls r cls => Sys2Proof.Machine.execAbMemcls r cls s
  | .backgroundPromotion b unit => Sys2Proof.Machine.execBackgroundPromotion b unit s
  | .backgroundStep b unit corrected => Sys2Proof.Machine.execBackgroundStep b unit corrected s
  | .imageSwap => Sys2Proof.Machine.execImageSwap s
  | .rulePass => Sys2Proof.Machine.execRulePass s
  | .developerTick => Sys2Proof.Machine.execDeveloperTick s
  | .npDev window => Sys2Proof.Machine.execNpDev window s
  | .safetyCycleBoundary hb1 hb2 digestsEqual => Sys2Proof.Machine.execSafetyCycleBoundary hb1 hb2 digestsEqual s
  | .separationIntake => Sys2Proof.Machine.execSeparationIntake s
  | .safetyFrame node arrival bytes => Sys2Proof.Machine.execSafetyFrame node arrival bytes s
  | .safeInputChange idx lineB level samples => Sys2Proof.Machine.execSafeInputChange idx lineB level samples s
  | .discrepancyTimeout idx => Sys2Proof.Machine.execDiscrepancyTimeout idx s
  | .testPulseCheck k a b => Sys2Proof.Machine.execTestPulseCheck k a b s
  | .outputTestPulse p lineB ch highInPulse lowOutside => Sys2Proof.Machine.execOutputTestPulse p lineB ch highInPulse lowOutside s
  | .estopChange lineB level samples => Sys2Proof.Machine.execEstopChange lineB level samples s
  | .srstNPress ch samples => Sys2Proof.Machine.execSrstNPress ch samples s
  | .srstNRelease ch samples => Sys2Proof.Machine.execSrstNRelease ch samples s
  | .resetStuck => Sys2Proof.Machine.execResetStuck s
  | .ss1Timeout c => Sys2Proof.Machine.execSs1Timeout c s
  | .brakeFeedbackMismatch p released ms => Sys2Proof.Machine.execBrakeFeedbackMismatch p released ms s
  | .brakeTestDue c => Sys2Proof.Machine.execBrakeTestDue c s
  | .sfBrkreq v => Sys2Proof.Machine.execSfBrkreq v s
  | .brakeTestStep c fbClosed disp1 disp2 => Sys2Proof.Machine.execBrakeTestStep c fbClosed disp1 disp2 s
  | .brakeTestOverdue c => Sys2Proof.Machine.execBrakeTestOverdue c s
  | .safetyConfigLoad => Sys2Proof.Machine.execSafetyConfigLoad s
  | .benjoFrame lane bytes => Sys2Proof.Machine.execBenjoFrame lane bytes s
  | .benjoLaneDown lane => Sys2Proof.Machine.execBenjoLaneDown lane s
  | .partnerLost => Sys2Proof.Machine.execPartnerLost s
  | .safetyFrameLoss => Sys2Proof.Machine.execSafetyFrameLoss s
  | .selfTestResult own => Sys2Proof.Machine.execSelfTestResult own s
  | .proofSwapDue => Sys2Proof.Machine.execProofSwapDue s
  | .proofSwap => Sys2Proof.Machine.execProofSwap s
  | .resyncComplete => Sys2Proof.Machine.execResyncComplete s
  | .canFrameReceived n f sof => Sys2Proof.Machine.execCanFrameReceived n f sof s
  | .canSofOpportunity n => Sys2Proof.Machine.execCanSofOpportunity n s
  | .canFrameComplete n => Sys2Proof.Machine.execCanFrameComplete n s
  | .canBusError n e lec => Sys2Proof.Machine.execCanBusError n e lec s
  | .recover n => Sys2Proof.Machine.execRecover n s
  | .canRecoveryComplete n => Sys2Proof.Machine.execCanRecoveryComplete n s
  | .bufferLockRead n b => Sys2Proof.Machine.execBufferLockRead n b s
  | .bufferReleaseRead n b => Sys2Proof.Machine.execBufferReleaseRead n b s
  | .canLockTimeout n b => Sys2Proof.Machine.execCanLockTimeout n b s
  | .porstN low ns => Sys2Proof.Machine.execPorstN low ns s
  | .mainDieResetRelease twinId dbgEn => Sys2Proof.Machine.execMainDieResetRelease twinId dbgEn s
  | .functionReady f pass => Sys2Proof.Machine.execFunctionReady f pass s
  | .firmwareWatchdog => Sys2Proof.Machine.execFirmwareWatchdog s
  | .vddCoreDip => Sys2Proof.Machine.execVddCoreDip s
  | .supplyCautionEntry => Sys2Proof.Machine.execSupplyCautionEntry s
  | .dipEnd minMv => Sys2Proof.Machine.execDipEnd minMv s
  | .supplyCautionEnd => Sys2Proof.Machine.execSupplyCautionEnd s
  | .supplyStop ch => Sys2Proof.Machine.execSupplyStop ch s
  | .vddCoreResetLevel => Sys2Proof.Machine.execVddCoreResetLevel s
  | .vddSlLow reset ns => Sys2Proof.Machine.execVddSlLow reset ns s
  | .vddSlGood => Sys2Proof.Machine.execVddSlGood s
  | .thermalLimit e => Sys2Proof.Machine.execThermalLimit e s
  | .sysBcfg w v => Sys2Proof.Machine.execSysBcfg w v s
  | .channelInternalFault ch => Sys2Proof.Machine.execChannelInternalFault ch s
  | .slotLostDeadline r hop => Sys2Proof.Machine.execSlotLostDeadline r hop s
  | .canBusIntegration n => Sys2Proof.Machine.execCanBusIntegration n s
  | .canArbitrationEnd n won => Sys2Proof.Machine.execCanArbitrationEnd n won s
  | .srstNOpen => Sys2Proof.Machine.execSrstNOpen s

end Sys2Proof.Machine
end

