-- ==== Sys2Proof/Safety.lean ====
section
/-! DEFINITION. What claims call safe, in terms of the state: where torque and brakes are permitted, what an OTP word may
do, and canonical forms of sparse data. -/

namespace Sys2Proof.Machine

/-- A channel enables an STO pair only outside STO, or while STO is lifted for a brake test of its own (R318, R328, R337). -/
def State.IndexSafe (s : State) (c : Fin 16) : Prop :=
  (s.safety.en1.getLsbD c.val = true ∨ s.safety.en2.getLsbD c.val = true) →
    s.safety.index[c].state ≠ .sto ∨ s.safety.index[c].lifted = true

/-- Every index is safe. -/
def State.TorqueSafe (s : State) : Prop := ∀ c : Fin 16, s.IndexSafe c

/-- The lock bit that freezes the key hash (R405). -/
def State.otpLocked (s : State) : Bool := bitAt s.sys.otp[(⟨16, by decide⟩ : Fin 17)] 0

/-- The key hash words hold given values and are locked (R403, R405). -/
def State.KeyFrozen (k : Fin 12 → Word) (s : State) : Prop :=
  s.otpLocked = true ∧ ∀ w : Fin 12, s.sys.otp[(⟨w.val, by omega⟩ : Fin 17)] = k w

/-- No OTP bit that is set in `s` is clear in `t` (R86). -/
def otpRises (s t : State) : Prop :=
  ∀ (w : Fin 17) (i : Nat), s.sys.otp[w].getLsbD i = true → t.sys.otp[w].getLsbD i = true

/-- The packet of a queue and tag that the row of an opcode names may start, and its deadline has not passed: the one way
in which a command of the opcode table begins (R35, R41, R43). -/
def State.Begins (s : State) (q : Fin 16) (tag : Fin 1024) (op : Nat) (p : Pkt) : Prop :=
  s.candidatePkt q tag op = some p ∧ p.late s.time.cellNs = false

/-- The row of an opcode completes with an effect: whenever its packet begins and `pre` holds of the started packet and
the state, exec answers the state that `eff` gives, which the active of a pair passes on to the standby (R369). -/
def Completes (c : Fin 16 → Fin 1024 → Instr) (op : Nat) (pre : Pkt → State → Prop) (eff : Pkt → State → State) : Prop :=
  ∀ (q : Fin 16) (tag : Fin 1024) (s : State) (p : Pkt), s.Begins q tag op p → pre p.begun (s.begun q p) →
    exec (c q tag) s = .next (s.passOn q p (eff p.begun (s.begun q p)))

/-- The row of an opcode answers a next state of which something holds: whenever its packet begins and `pre` holds of the
started packet and the state, exec answers the state `u` that the active of a pair passes on (R369), and `post` holds of the
packet, the state after the start and `u`. -/
def Answers (c : Fin 16 → Fin 1024 → Instr) (op : Nat) (pre : Pkt → State → Prop) (post : Pkt → State → State → Prop) : Prop :=
  ∀ (q : Fin 16) (tag : Fin 1024) (s : State) (p : Pkt), s.Begins q tag op p → pre p.begun (s.begun q p) →
    ∃ u, exec (c q tag) s = .next (s.passOn q p u) ∧ post p.begun (s.begun q p) u

/-- A row that carries an image in fragments (R9, R10): an earlier fragment is held and completes with OK, a refused one
completes with its verdict and may discard what is held, and the last one goes on with the whole image. -/
def TakesFragments (c : Fin 16 → Fin 1024 → Instr) (op : Nat) (st : Stream) (busy : State → Bool)
    (whole : Pkt → List Byte → State → State) : Prop :=
  (∀ b, Completes c op (fun p t => judgeFrag (t.cell.partOf st) st p (busy t) = .stored b) (fun p t =>
    (t.setCell { t.cell with partials := t.cell.partials.filter (fun i => !decide (i.stream = st)) ++
      [⟨st, p.queue, p.opcode, b, p.p1.toNat, t.time.cellNs⟩] }).finishOk p)) ∧
  (∀ v, Completes c op (fun p t => judgeFrag (t.cell.partOf st) st p (busy t) = .bad v false) (fun p t => t.finish p v)) ∧
  (∀ v, Completes c op (fun p t => judgeFrag (t.cell.partOf st) st p (busy t) = .bad v true)
    (fun p t => (t.dropPart st).finish p v)) ∧
  (∀ b, Completes c op (fun p t => judgeFrag (t.cell.partOf st) st p (busy t) = .whole b) (fun p t => whole p b (t.dropPart st)))

/-- A lane instruction row runs `f` on the solve of its problem where that instruction is next, adds its cost and goes on; what the
solve sets is latched in SV_STAT and counted at once (R228, R232, R245). -/
def LaneStep (c : Fin 4 → Instr) (op : Nat) (f : State → Fin 4 → SchedImage → LaneInstr → SolveSt → SolveSt) : Prop :=
  ∀ (p : Fin 4) (s : State) (g : SchedImage) (i : LaneInstr), s.nextLane p op = some (g, i) →
    let v := f s p g i s.solver.solves[p]
    exec (c p) s = .next (s.noteSolve p { v with cycles := v.cycles + g.cost i, pc := v.pc + 1 })

/-- The registers after the memory slots of an instruction: loads and detections first, then the post-updates (R250, R251). -/
def Core.afterSlots (old : Core) (m : List (Nat × Word)) (ks : List Nat) : Core :=
  ks.foldl (fun c j => c.slotUpdate j) (ks.foldl (fun c j => c.slotWrite old m j) old)

/-- A tile instruction row, where that instruction is next (R250, R256, R265): an access outside the windows is a kernel fault
of cause 2; otherwise the stores are made, and `f` on the registers before and after the slots gives the new registers, whose
cycle count grows by one, the stall and what `f` adds; a fault that `f` names, or a PC that leaves the program, is a kernel fault. -/
def TileStep (c : Fin 16 → Instr) (op : Nat) (f : Core → DWord → Core → OpOut) : Prop :=
  ∀ (t : Fin 16) (s : State) (k : Fin 64) (im : KernelImage) (w : DWord), s.nextIns t = some (k, im, w) → insOp w = op →
    let x := s.tiles.tiles[t]
    let y := s.tiles.kernels[k]
    let o := f x.core w (x.core.afterSlots y.window (insSlots w))
    let u := s.setKernel k { y with window := (insSlots w).foldl (fun m j => x.core.slotStoreTo m j) y.window }
    ((insSlots w).any (fun j => slotEn j && !im.inWindow (x.core.slotAddr j)) = true →
      exec (c t) s = .next (s.kernelFault t 2)) ∧
    ((insSlots w).any (fun j => slotEn j && !im.inWindow (x.core.slotAddr j)) = false →
      (∀ n, o.fault = some n → exec (c t) s = .next (u.kernelFault t n)) ∧
      (o.fault = none →
        let d := { o.core with cyc := x.core.cyc + 1 + x.core.stall im (insSlots w) + o.extra }
        let v := (u.setTile t { x with core := d }).sticky t { o with core := d }
        let e := v.tiles.tiles[t].core.follow v.tiles.tiles[t].core.pc o.target
        let z := v.setTile t { v.tiles.tiles[t] with core := e }
        exec (c t) s = .next (if e.pc < im.program.length then z else z.kernelFault t 3)))

/-- The queue, tag and opcode of a command that is a packet of the command reference; none for the events of the block. -/
def packetOf : Instr → Option (Fin 16 × Fin 1024 × Nat)
  | .ping q tag => some (q, tag, 0x00)
  | .readyRead q tag => some (q, tag, 0x01)
  | .abort q tag => some (q, tag, 0x02)
  | .queueReset q tag => some (q, tag, 0x03)
  | .logRead q tag => some (q, tag, 0x04)
  | .cellLoad q tag => some (q, tag, 0x10)
  | .cellAmend q tag => some (q, tag, 0x11)
  | .placeRead q tag => some (q, tag, 0x12)
  | .cellCheck q tag => some (q, tag, 0x13)
  | .segPush q tag => some (q, tag, 0x20)
  | .motionStop q tag => some (q, tag, 0x21)
  | .motionResume q tag => some (q, tag, 0x22)
  | .segqStatus q tag => some (q, tag, 0x23)
  | .overrideSet q tag => some (q, tag, 0x24)
  | .loopCoeffSet q tag => some (q, tag, 0x30)
  | .loopHandover q tag => some (q, tag, 0x31)
  | .probeSet q tag => some (q, tag, 0x32)
  | .loopStateRead q tag => some (q, tag, 0x33)
  | .schedLoad q tag => some (q, tag, 0x40)
  | .schedSwap q tag => some (q, tag, 0x41)
  | .schedUnload q tag => some (q, tag, 0x42)
  | .solverReport q tag => some (q, tag, 0x43)
  | .kernelLoad q tag => some (q, tag, 0x50)
  | .kernelBind q tag => some (q, tag, 0x51)
  | .kernelUnload q tag => some (q, tag, 0x52)
  | .tileStatus q tag => some (q, tag, 0x53)
  | .evtSubscribe q tag => some (q, tag, 0x60)
  | .evtArm q tag => some (q, tag, 0x61)
  | .evtCancel q tag => some (q, tag, 0x62)
  | .pointForce q tag => some (q, tag, 0x63)
  | .pointWrite q tag => some (q, tag, 0x64)
  | .pointRead q tag => some (q, tag, 0x65)
  | .ruleLoad q tag => some (q, tag, 0x66)
  | .safeParamSet q tag => some (q, tag, 0x70)
  | .safePointAssign q tag => some (q, tag, 0x71)
  | .timeRead q tag => some (q, tag, 0x80)
  | .timeSet q tag => some (q, tag, 0x81)
  | .ptpSelect q tag => some (q, tag, 0x82)
  | .syncOutCfg q tag => some (q, tag, 0x83)
  | .syncInRead q tag => some (q, tag, 0x84)
  | .ringStatus q tag => some (q, tag, 0x90)
  | .ringRerange q tag => some (q, tag, 0x91)
  | .nodeReadmit q tag => some (q, tag, 0x92)
  | .canTx q tag => some (q, tag, 0xA0)
  | .canCancel q tag => some (q, tag, 0xA1)
  | .canRxRead q tag => some (q, tag, 0xA2)
  | .canCfg q tag => some (q, tag, 0xA3)
  | .twinStatus q tag => some (q, tag, 0xB0)
  | .twinRoleCfg q tag => some (q, tag, 0xB1)
  | .proofSwapNow q tag => some (q, tag, 0xB2)
  | .traceUpload q tag => some (q, tag, 0xC0)
  | .traceTrigger q tag => some (q, tag, 0xC1)
  | .traceRelease q tag => some (q, tag, 0xC2)
  | .fwStage q tag => some (q, tag, 0xD0)
  | .fwVerify q tag => some (q, tag, 0xD1)
  | .fwActivate q tag => some (q, tag, 0xD2)
  | .otpProgram q tag => some (q, tag, 0xD3)
  | .paramRead q tag => some (q, tag, 0xE0)
  | .paramWrite q tag => some (q, tag, 0xE1)
  | _ => none

/-- Nothing but replies: the queues, what completing a queue reset drops, the count of held replies, and what is sent to the
standby; every other part of the state is as it was (R36, R55, R278, R369). -/
def State.repliesOnly (s t : State) : Prop :=
  ∃ (qs : Vector QueueSt 16) (ps : List Partial) (late w : Word) (l : List Out),
    t = { s with
      host := { s.host with queues := qs }, cell := { s.cell with partials := ps }
      disp := { s.disp with late := late }, twin := { s.twin with txSeq := w }, out := l ++ s.out }

end Sys2Proof.Machine
end

