-- ==== Sys2Proof/Certificates/Slice0/Obligations.lean ====
section
/-! DEFINITION. The statements about the block, for the provers: each docstring names what it states and on which rules of
spec/ it rests. -/

open Sys2Proof Sys2Proof.Machine

/-- A step runs the command at the front of the queue. With the command c at the front of the queue, step is exec of c
on the state with the rest of the queue, for every c and every state. (Derived from R89.) -/
def Obligations.StepRunsFront : Prop :=
  ∀ (s : State) (c : Instr) (rest : List Instr), s.pending = c :: rest → step s = exec c (s.setPending rest)

/-- An empty queue lets one TIME cycle pass (the model's choice, log entry 2). With no command waiting, step answers the
state one TIME cycle later: elapsed time is 1 ns more, cell time advances unless TIME is not ready, in which case the
clock leaves all else as it was, and then the dispatcher, the PTP ports, the four rings and the Benjo link do by
themselves what is due at that instant. (Derived from R90, R96, R119, R274, R367.) -/
def Obligations.EmptyQueuePassesACycle : Prop :=
  ∀ s : State, s.pending = [] → step s = .next s.cycle ∧ s.cycle = s.tick.byItself ∧ s.cycle.now = s.now + 1 ∧
    (s.isReady rdTime = false → s.tick = s.setNow (s.now + 1))

/-- Every command answers a next state. No command of the opcode table faults or is refused: for every command and every
state, reachable or not, exec answers a next state. Where the rules leave a point open, the clauses follow the model's
choice (log entries 8 and 9). (Derived from R89, R94, R371.) -/
def Obligations.EveryCommandAnswers : Prop :=
  ∀ (c : Instr) (s : State), ∃ t, exec c s = .next t

/-- The queue is first in, first out, and only an idle step moves time. Every step takes exactly the command at the
front and leaves the rest of the queue as it was, and elapsed time moves by 1 ns at an idle step and by nothing at a
command: no command adds, drops or reorders commands. Where the rules leave a point open, the clauses follow the model's
choice (log entry 2). (Derived from R90.) -/
def Obligations.StepIsFifo : Prop :=
  ∀ s t : State, step s = .next t →
    (s.pending = [] → t.pending = [] ∧ t.now = s.now + 1) ∧
    (∀ (c : Instr) (rest : List Instr), s.pending = c :: rest → t.pending = rest ∧ t.now = s.now)

/-- No step clears an OTP bit. Whatever the command, an OTP bit that is set before a step is set after it. (Derived from
R86, R403, R405.) -/
def Obligations.OtpBitsOnlyRise : Prop :=
  ∀ s t : State, step s = .next t → otpRises s t

/-- Once locked, the key hash never changes. From every state in which lock bit 0 is set and the key hash words hold
given values, each step leaves the lock bit set and the words at those values. (Derived from R405.) -/
def Obligations.KeyHashStaysLocked : Prop :=
  ∀ (k : Fin 12 → Word) (s t : State), s.KeyFrozen k → step s = .next t → t.KeyFrozen k

/-- No step enables torque for an index at STO. If no channel enables the STO pair of an index at STO but for a brake
test that lifts it, then so it is after every step. (Derived from R318, R328, R337.) -/
def Obligations.TorqueStaysSafe : Prop :=
  ∀ s t : State, s.TorqueSafe → step s = .next t → t.TorqueSafe

/-- Every step keeps the RAMs in canonical form. The nibble images and the kernel data windows list each address once,
in order, and no address at what it reads as unlisted, after every step from such a state. (Derived from R261, R291,
R293.) -/
def Obligations.RamsStayCanonical : Prop :=
  ∀ s t : State, s.memWf = true → step s = .next t → t.memWf = true

/-- Only swaps, activations and losses of the cell change the front image. Every command but IMAGE_SWAP, ACTIVATION, the
four that can reset the main die, RESYNC_COMPLETE and BENJO_LANE_DOWN leaves every nibble of the front image as it was:
deliveries, rule results and host records become visible at the next swap. (Derived from R293.) -/
def Obligations.FrontImageFrozen : Prop :=
  ∀ (c : Instr) (s t : State), exec c s = .next t →
    (match c with
     | .imageSwap | .activation | .resyncComplete | .benjoLaneDown _ | .porstN _ _ | .firmwareWatchdog | .vddCoreResetLevel
     | .replyWrite _ => False
     | _ => True) →
    ∀ pt : Nat, t.nibble.frontAt pt = s.nibble.frontAt pt

/-- The state after reset is safe. At reset the queue is empty, the RAMs are canonical, every chain index is at STO in
the stop bath with cause 1, neither channel enables a pair, and SYS_READY is clear. Where the rules leave a point open,
the clauses follow the model's choice (log entry 1). (Derived from R330, R397, R407.) -/
def Obligations.ResetIsSafe : Prop :=
  State.reset.pending = [] ∧ State.reset.memWf = true ∧ State.reset.TorqueSafe ∧
    State.reset.safety.bath = true ∧ State.reset.safety.bathCause = 1 ∧
    (∀ c : Fin 16, State.reset.safety.index[c].state = .sto) ∧ State.reset.safety.en1 = 0 ∧ State.reset.safety.en2 = 0 ∧
    State.reset.sys.ready = 0

/-- PING, READY_READ, ABORT, QUEUE_RESET and LOG_READ complete. PING answers SYS_ID and the firmware version; READY_READ
answers SYS_READY and SYS_FAULT; ABORT of a tag that is in flight and has started, or whose final reply waits, reports
outcome 1, ABORT of any other tag in flight, a queue-14 cell image still in validation, placement or its presence window
among them, ends that packet and waits for its reply, and ABORT of no tag reports outcome 2, each after a presence
window that is over has ended its command; QUEUE_RESET starts the reset of another queue, and of its own queue or of
none it is BAD_PARAM at param0; LOG_READ answers the records from param0 and is BAD_PARAM at param1 for a count of 0 or
above 4,096. Where the rules leave a point open, the clauses follow the model's choice (log entries 15 and 26). (Derived
from R67, R410, R72, R73.) -/
def Obligations.HostCommandsComplete : Prop :=
  Completes Instr.ping 0x00 (fun _ _ => True)
    (fun p t => t.finishOk p sysId t.sys.fwver) ∧
  Completes Instr.readyRead 0x01 (fun _ _ => True)
    (fun p t => t.finishOk p (w32 t.sys.ready.toNat) t.sys.faultWord) ∧
  (∀ o, Completes Instr.abort 0x02 (fun p t => t.expireGate.findTag (p.p0.toNat % 1024) = some o ∧ o.phase = .started ∧ t.expireGate.beforeGate o = false)
    (fun p t => t.expireGate.finishOk p 1)) ∧
  Completes Instr.abort 0x02 (fun p t => t.expireGate.findTag (p.p0.toNat % 1024) = none ∧ t.expireGate.replyWaits (p.p0.toNat % 1024) = true)
    (fun p t => t.expireGate.finishOk p 1) ∧
  Completes Instr.abort 0x02 (fun p t => t.expireGate.findTag (p.p0.toNat % 1024) = none ∧ t.expireGate.replyWaits (p.p0.toNat % 1024) = false)
    (fun p t => t.expireGate.finishOk p 2) ∧
  (∀ o, Completes Instr.abort 0x02 (fun p t => t.expireGate.findTag (p.p0.toNat % 1024) = some o ∧ (o.phase ≠ .started ∨ t.expireGate.beforeGate o = true))
    (fun p t => t.expireGate.abortTarget o p)) ∧
  Completes Instr.queueReset 0x03 (fun p _ => p.p0.toNat ≤ 15 ∧ p.p0.toNat ≠ p.queue)
    (fun p t => t.startReset (f16 p.p0.toNat) [(p.queue, p.tag)]) ∧
  Completes Instr.queueReset 0x03 (fun p _ => 15 < p.p0.toNat ∨ p.p0.toNat = p.queue)
    (fun p t => t.finish p (badAt atP0)) ∧
  Completes Instr.logRead 0x04 (fun p _ => 1 ≤ p.p1.toNat ∧ p.p1.toNat ≤ 4096)
    (fun p t => t.finishOk p (w32 ((t.host.log.drop p.p0.toNat).take p.p1.toNat).length) (w32 t.host.log.length) (((t.host.log.drop p.p0.toNat).take p.p1.toNat).flatMap logRecord)) ∧
  Completes Instr.logRead 0x04 (fun p _ => p.p1.toNat = 0 ∨ 4096 < p.p1.toNat)
    (fun p t => t.finish p (badAt atP1))

/-- The seven opcodes that carry images take fragments. CELL_LOAD, CELL_AMEND, CELL_CHECK, SCHED_LOAD, KERNEL_LOAD,
RULE_LOAD and FW_STAGE hold an earlier fragment and complete it with OK, complete a refused one with its verdict,
dropping the partial image where the rule says so, and at the last fragment use the partial image up and go on with the
whole image; the unit counts as busy for the cell stream while a placement command runs, for RULE_LOAD while a table
waits for its swap and for FW_STAGE while an image is programmed; a firmware image whose length is not that of its
header and body is BAD_PARAM at offset 12. Where the rules leave a point open, the clauses follow the model's choice
(log entries 10 and 20). (Derived from R9, R10, R12, R218, R260, R304, R406.) -/
def Obligations.FragmentsAreCollected : Prop :=
  TakesFragments Instr.cellLoad 0x10 .cell (fun t => t.cell.job.isSome) (fun p b u => u.takeCell p .load b) ∧
  TakesFragments Instr.cellAmend 0x11 .cell (fun t => t.cell.job.isSome) (fun p b u => u.takeCell p .amend b) ∧
  TakesFragments Instr.cellCheck 0x13 .cell (fun t => t.cell.job.isSome) (fun p b u => u.takeCell p .check b) ∧
  TakesFragments Instr.schedLoad 0x40 .sched (fun _ => false) (fun p b u => u.storeSched p b) ∧
  TakesFragments Instr.kernelLoad 0x50 .kernel (fun _ => false) (fun p b u =>
    match kernelCheck b with
    | some v => u.finish p v
    | none =>
      let x := u.tiles.kernels[f64 (byteAt b 6)]
      match x.state with
      | .bound => u.finish p busy
      | .faulted => (u.setKernel (f64 (byteAt b 6)) { x with image := some (kernelOf b) }).finishOk p (w32 (f64 (byteAt b 6)).val)
      | _ => (u.setKernel (f64 (byteAt b 6)) { x with image := some (kernelOf b), state := .stored }).finishOk p
          (w32 (f64 (byteAt b 6)).val)) ∧
  TakesFragments Instr.ruleLoad 0x66 .rule (fun t => t.nibble.rulesNext.isSome) (fun p b u =>
    match u.ruleCheck b with
    | .error v => u.finish p v
    | .ok rs => u.setNibble { u.nibble with rulesNext := some (rs, p.queue, p.tag) }) ∧
  TakesFragments Instr.fwStage 0xD0 .fw (fun t => t.sys.burning.isSome) (fun p b u =>
    if b.length ≠ 256 + u32 b 12 then u.finish p (badAt 12)
    else (u.setSys { u.sys with staged := some ⟨b⟩, verified := false, programmed := false }).finishOk p)

/-- Which fragment an image stream takes, and how it refuses the others. With no partial image in its stream, a fragment
at offset 0 within the length limits is held when its end lies before the total length and is the whole image when it
reaches it, one at another offset is BAD_PARAM at param0, and a total length outside the limits or below the end of the
fragment is BAD_PARAM at param1; with a partial image of the same queue and opcode, the fragment at its end is appended,
one at offset 0 begins the image anew, any other offset is BAD_PARAM at param0 and discards it, and a total length that
differs, leaves the limits or lies below the end of the fragment is BAD_PARAM at param1 and discards it; a stream that
holds the partial image of another queue or opcode answers BUSY and keeps it, as does a last fragment, and any fragment
of a rule table, that meets a busy unit. Where the rules leave a point open, the clauses follow the model's choice (log
entries 10 and 20). (Derived from R9, R10, R12.) -/
def Obligations.FragmentOrder : Prop :=
  ∀ (st : Stream) (p : Pkt) (i : Partial),
    (p.p0 = 0 → (streamLimits st).1 ≤ p.p1.toNat → p.p1.toNat ≤ (streamLimits st).2 →
      (p.payload.length < p.p1.toNat → judgeFrag none st p false = .stored p.payload) ∧
      (p.payload.length = p.p1.toNat → judgeFrag none st p false = .whole p.payload) ∧
      (p.p1.toNat < p.payload.length → judgeFrag none st p false = .bad (badAt atP1) true)) ∧
    (p.p0 ≠ 0 → judgeFrag none st p false = .bad (badAt atP0) false) ∧
    (p.p0 = 0 → (p.p1.toNat < (streamLimits st).1 ∨ (streamLimits st).2 < p.p1.toNat) →
      judgeFrag none st p false = .bad (badAt atP1) true) ∧
    (i.queue = p.queue → i.opcode = p.opcode → p.p0 ≠ 0 →
      (p.p0.toNat ≠ i.bytes.length → judgeFrag (some i) st p false = .bad (badAt atP0) true) ∧
      (p.p0.toNat = i.bytes.length → (p.p1.toNat < (streamLimits st).1 ∨ (streamLimits st).2 < p.p1.toNat ∨
          p.p1.toNat < p.p0.toNat + p.payload.length) → judgeFrag (some i) st p false = .bad (badAt atP1) true) ∧
      (p.p0.toNat = i.bytes.length → (streamLimits st).1 ≤ p.p1.toNat → p.p1.toNat ≤ (streamLimits st).2 →
        p.p0.toNat + p.payload.length ≤ p.p1.toNat →
        (i.total ≠ p.p1.toNat → judgeFrag (some i) st p false = .bad (badAt atP1) true) ∧
        (i.total = p.p1.toNat → judgeFrag (some i) st p false =
          if p.p0.toNat + p.payload.length = p.p1.toNat then .whole (i.bytes ++ p.payload) else .stored (i.bytes ++ p.payload)))) ∧
    (∀ b, i.queue ≠ p.queue ∨ i.opcode ≠ p.opcode → judgeFrag (some i) st p b = .bad busy false) ∧
    (i.queue = p.queue → i.opcode = p.opcode → p.p0 = 0 → judgeFrag (some i) st p false = judgeFrag none st p false) ∧
    (i.queue = p.queue → i.opcode = p.opcode → (p.lastFrag = true ∨ st = .rule) →
      judgeFrag (some i) st p true = .bad busy false ∧ judgeFrag none st p true = .bad busy false)

/-- What the last fragment of a cell image starts. A whole image completes with the verdict of validation when it breaks
a rule; CELL_AMEND without an active cell is BAD_PARAM; with a ring whose ready bit is clear it is NOT_READY; a
CELL_LOAD or CELL_AMEND that alters a safety object on a queue other than 14 is SAFETY_REFUSED and leaves the active
cell as it was; a CELL_AMEND that must wait for its chains or the rule table completes with that verdict; otherwise the
placement job of the command starts, and the command stays in flight. Where the rules leave a point open, the clauses
follow the model's choice (log entries 20 and 37). (Derived from R11, R14, R69, R441, R175, R305.) -/
def Obligations.CellImageIsTaken : Prop :=
  ∀ (s : State) (p : Pkt) (k : JobKind) (b : List Byte) (c : Cell),
    (k = .amend → s.cell.active = none → s.takeCell p k b = s.finish p (badAt 0)) ∧
    (∀ v, (k ≠ .amend ∨ s.cellOn = true) → validate b (if k = .amend then s.cell.active else none) = .error v →
      s.takeCell p k b = s.finish p v) ∧
    ((k ≠ .amend ∨ s.cellOn = true) → validate b (if k = .amend then s.cell.active else none) = .ok c →
      (∀ ms, s.notReady c.ringBits = some ms → s.takeCell p k b = s.finish p ⟨stNotReady, w32 ms, 0⟩) ∧
      (s.notReady c.ringBits = none →
        (k ≠ .check → altersSafety s.theCell c = true → p.queue ≠ 14 →
          s.takeCell p k b = s.finish p ⟨stRefused, 0, 0⟩ ∧ (s.takeCell p k b).cell.active = s.cell.active) ∧
        ((k = .check ∨ altersSafety s.theCell c = false ∨ p.queue = 14) → (k = .amend → s.amendBusy s.theCell c = none) →
          s.takeCell p k b = s.setCell { s.cell with job := some {
            kind := k, queue := p.queue, tag := p.tag, cell := c, current := s.solver.currentList, bind := none
            phase := .placing, altersSafety := altersSafety s.theCell c } }) ∧
        (∀ v, k = .amend → (altersSafety s.theCell c = false ∨ p.queue = 14) → s.amendBusy s.theCell c = some v →
          s.takeCell p k b = s.finish p v)))

/-- PLACE_READ reads the active placement. From param0 up to the number of records, PLACE_READ answers the 16-byte
header and at most param1 records (0 asks for as many as a reply holds); a param0 beyond the end is BAD_PARAM at param0.
Where the rules leave a point open, the clauses follow the model's choice (log entries 23 and 59). (Derived from R12,
R33.) -/
def Obligations.PlaceReadAnswers : Prop :=
  Completes Instr.placeRead 0x12 (fun p t => p.p0.toNat ≤ t.cell.placement.records.length)
    (fun p t => 
    let rs := t.cell.placement.records
    let part := (rs.drop p.p0.toNat).take (if p.p1 = 0 then 16383 else min 16383 p.p1.toNat)
    t.finishOk p (w32 part.length) (w32 rs.length)
      (leBytes 4 (digestOf rs).toNat ++ leBytes 2 t.cell.engMask.toNat ++ [BitVec.ofNat 8 t.cell.partMask.toNat,
        BitVec.ofNat 8 (ones 16 t.cell.tileMask.toNat)] ++ leBytes 4 rs.length ++ leBytes 4 t.cell.generation.toNat ++
        part.flatMap ReadRec.bytes)) ∧
  Completes Instr.placeRead 0x12 (fun p t => t.cell.placement.records.length < p.p0.toNat)
    (fun p t => t.finish p (badAt atP0))

/-- The motion commands complete or wait for the reference stage. SEG_PUSH appends all its records, with any quaternion
normalised, to the queue of its chain and answers the count and the free entries, or completes with the verdict of its
checks and appends none; MOTION_STOP, MOTION_RESUME and OVERRIDE_SET with chains of the cell and parameters in range
wait, in flight, for the reference stage, and otherwise are BAD_PARAM at the parameter, BUSY during a brake test or
SAFETY_REFUSED for a chain that may not resume; SEGQ_STATUS answers the used entries and the segment executing. Where
the rules leave a point open, the clauses follow the model's choice (log entry 34). (Derived from R74, R75, R152, R160,
R166, R167, R168, R337.) -/
def Obligations.MotionCommandsComplete : Prop :=
  (∀ (q : Fin 16) (tag : Fin 1024) (s : State) (p : Pkt), s.Begins q tag 0x20 p → s.segPushFirst p = true →
    (∀ v, (s.begun q p).segPushCheck p.begun = some v →
      exec (.segPush q tag) s = .next (s.passOn q p ((s.begun q p).finish p.begun v))) ∧
    ((s.begun q p).segPushCheck p.begun = none →
      let c := f16 (p.p0.toNat % 16)
      let t := s.begun q p
      let u := t.setChain c { t.motion.chains[c] with
        queue := t.motion.chains[c].queue ++ (segRecords p.p1.toNat p.payload).map segStored }
      exec (.segPush q tag) s = .next (s.passOn q p
        (u.finishOk p.begun p.p1 (w32 (256 - u.motion.chains[c].queue.length)))))) ∧
  Completes Instr.motionStop 0x21 (fun p t => t.theCell.hasChains (chainMask p).toNat = true ∧ p.p1.toNat ≤ 2)
    (fun p t => t.addMotionCmd (.stop p.queue p.tag (chainMask p) p.p1.toNat)) ∧
  Completes Instr.motionStop 0x21 (fun p t => t.theCell.hasChains (chainMask p).toNat = false)
    (fun p t => t.finish p (badAt atP0)) ∧
  Completes Instr.motionStop 0x21 (fun p t => t.theCell.hasChains (chainMask p).toNat = true ∧ 2 < p.p1.toNat)
    (fun p t => t.finish p (badAt atP1)) ∧
  Completes Instr.motionResume 0x22 (fun p t => t.theCell.hasChains (chainMask p).toNat = true ∧
      (chainsOf (chainMask p)).all (fun c => t.safety.index[f16 c].test.isNone && !t.resumeRefused c) = true)
    (fun p t => t.addMotionCmd (.resume p.queue p.tag (chainMask p))) ∧
  Completes Instr.motionResume 0x22 (fun p t => t.theCell.hasChains (chainMask p).toNat = false)
    (fun p t => t.finish p (badAt atP0)) ∧
  Completes Instr.motionResume 0x22 (fun p t => t.theCell.hasChains (chainMask p).toNat = true ∧
      (chainsOf (chainMask p)).any (fun c => t.safety.index[f16 c].test.isSome) = true)
    (fun p t => t.finish p busy) ∧
  Completes Instr.motionResume 0x22 (fun p t => t.theCell.hasChains (chainMask p).toNat = true ∧
      (chainsOf (chainMask p)).any (fun c => t.safety.index[f16 c].test.isSome) = false ∧
      (chainsOf (chainMask p)).any t.resumeRefused = true)
    (fun p t => t.finish p ⟨stRefused, 0, 0⟩) ∧
  (∀ ch, Completes Instr.segqStatus 0x23 (fun p t => t.theCell.chainRec (p.p0.toNat % 16) = some ch)
    (fun p t => t.finishOk p (w32 t.motion.chains[f16 ch.chain].queue.length) t.motion.chains[f16 ch.chain].curId)) ∧
  Completes Instr.segqStatus 0x23 (fun p t => t.theCell.chainRec (p.p0.toNat % 16) = none)
    (fun p t => t.finish p (badAt atP0)) ∧
  Completes Instr.overrideSet 0x24 (fun p t => t.theCell.hasChains (chainMask p).toNat = true ∧ p.p1.toNat ≤ 65536)
    (fun p t => t.addMotionCmd (.feed p.queue p.tag (chainMask p) p.p1.toNat)) ∧
  Completes Instr.overrideSet 0x24 (fun p t => t.theCell.hasChains (chainMask p).toNat = false)
    (fun p t => t.finish p (badAt atP0)) ∧
  Completes Instr.overrideSet 0x24 (fun p t => t.theCell.hasChains (chainMask p).toNat = true ∧ 65536 < p.p1.toNat)
    (fun p t => t.finish p (badAt atP1))

/-- SEG_PUSH is all or nothing, and says why not. A chain that the cell does not have is BAD_PARAM at param0; a shed
chain is SAFETY_REFUSED; a count of 0 or above 256, or a payload that is not 96 bytes a record, is BAD_PARAM at param1
with the identity of the chain; a record that breaks a rule is BAD_PARAM at its payload byte with that identity; too few
free entries is BUSY with their number in result word 1; and in none of these cases does the queue of the chain change.
An accepted push leaves at most 256 entries used. Where the rules leave a point open, the clauses follow the model's
choice (log entries 24 and 34). (Derived from R74, R152, R154, R155, R156.) -/
def Obligations.SegPushChecks : Prop :=
  ∀ (s : State) (p : Pkt) (ch : ChainRec),
    (s.theCell.chainRec (p.p0.toNat % 16) = none → s.segPushCheck p = some (badAt atP0)) ∧
    (s.theCell.chainRec (p.p0.toNat % 16) = some ch →
      let x := s.motion.chains[f16 (p.p0.toNat % 16)]
      (x.state = .shed → s.segPushCheck p = some ⟨stRefused, 0, 0⟩) ∧
      (x.state ≠ .shed → (p.p1.toNat = 0 ∨ 256 < p.p1.toNat ∨ p.payload.length ≠ 96 * p.p1.toNat) →
        s.segPushCheck p = some (badAt atP1 (ident 1 (p.p0.toNat % 16)))) ∧
      (x.state ≠ .shed → 1 ≤ p.p1.toNat → p.p1.toNat ≤ 256 → p.payload.length = 96 * p.p1.toNat →
        (∀ o, segFirstBad s.theCell ch 0 (segRecords p.p1.toNat p.payload) = some o →
          s.segPushCheck p = some (badAt (w32 o) (ident 1 (p.p0.toNat % 16)))) ∧
        (segFirstBad s.theCell ch 0 (segRecords p.p1.toNat p.payload) = none →
          s.segPushCheck p = if 256 - x.queue.length < p.p1.toNat then some ⟨stBusy, 0, w32 (256 - x.queue.length)⟩ else none))) ∧
    (s.segPushCheck p = none →
      (s.motion.chains[f16 (p.p0.toNat % 16)].queue ++ segRecords p.p1.toNat p.payload).length ≤ 256)

/-- LOOP_COEFF_SET, LOOP_HANDOVER, PROBE_SET and LOOP_STATE_READ complete or wait for their boundary. LOOP_COEFF_SET of
a placed loop with six valid words gives every slot of the loop the set, to apply at the first shutter instant at least
2 µs away, and waits; a wrong object, length or word is BAD_PARAM at its place, with the identity of the loop.
LOOP_HANDOVER that passes its checks gives the group the handover. PROBE_SET on an IDLE engine stores the probe word
without its reserved bits; LOOP_STATE_READ answers the state of the first copy. Where the rules leave a point open, the
clauses follow the model's choice (log entries 23 and 35). (Derived from R68, R76, R180, R183, R190, R200, R201.) -/
def Obligations.LoopCommandsComplete : Prop :=
  (∀ (i : Nat) (l : LoopRec), Completes Instr.loopCoeffSet 0x30 (fun p t => t.loopNamed p.p0 = some (i, l) ∧ p.payload.length = 24 ∧
      lowest (coeffErrors (wordsAt p.payload 0 6) ((t.slotsOfLoop i).any (fun e =>
        (t.loops.engines[f16 e.1].slots[f32i e.2]).limits (t.loops.groupOf (t.loops.engines[f16 e.1].slots[f32i e.2]).key).command))) = none)
    (fun p t => (t.slotsOfLoop i).foldl (fun u e =>
      let x := u.loops.engines[f16 e.1].slots[f32i e.2]
      u.setSlot (f16 e.1) (f32i e.2) { x with
        newCoeff := x.newCoeff ++ [⟨wordsAt p.payload 0 6, t.loopBoundary l.axis, p.queue, p.tag⟩] }) t)) ∧
  Completes Instr.loopCoeffSet 0x30 (fun p t => t.loopNamed p.p0 = none)
    (fun p t => t.finish p (badAt atP0)) ∧
  (∀ (i : Nat) (l : LoopRec), Completes Instr.loopCoeffSet 0x30 (fun p t => t.loopNamed p.p0 = some (i, l) ∧ p.payload.length ≠ 24)
    (fun p t => t.finish p (badAt 0 (ident 5 i)))) ∧
  (∀ (i : Nat) (l : LoopRec) (o : Nat), Completes Instr.loopCoeffSet 0x30 (fun p t => t.loopNamed p.p0 = some (i, l) ∧ p.payload.length = 24 ∧
      lowest (coeffErrors (wordsAt p.payload 0 6) ((t.slotsOfLoop i).any (fun e =>
        (t.loops.engines[f16 e.1].slots[f32i e.2]).limits (t.loops.groupOf (t.loops.engines[f16 e.1].slots[f32i e.2]).key).command))) = some o)
    (fun p t => t.finish p (badAt (w32 (4 * o)) (ident 5 i)))) ∧
  Completes Instr.loopHandover 0x31 (fun p t => t.handoverCheck p = none)
    (fun p t => t.setGroup p.p0.toNat { t.loops.groupOf p.p0.toNat with
      handover := some { member := fld p.p1 1 0, window := fld p.p1 31 16, k := 0,
                         at_ := t.loopBoundary (t.loops.groupOf p.p0.toNat).axis, rho := 0, started := false,
                         queue := p.queue, tag := p.tag } }) ∧
  (∀ v, Completes Instr.loopHandover 0x31 (fun p t => t.handoverCheck p = some v)
    (fun p t => t.finish p v)) ∧
  Completes Instr.probeSet 0x32 (fun p t => fld p.p0 7 4 = 0 ∧ fld p.p0 31 11 = 0 ∧ fld p.p1 25 22 < 12 ∧
      t.loops.engines[f16 p.p0.toNat].trace.state = .idle)
    (fun p t => 
      let g := t.loops.engines[f16 p.p0.toNat]
      (t.setEngine (f16 p.p0.toNat) { g with trace := { g.trace with
        probes := g.trace.probes.set (fin 8 (by decide) (fld p.p0 10 8)) (probeWord p.p1) } }).finishOk p) ∧
  Completes Instr.probeSet 0x32 (fun p _ => fld p.p0 7 4 ≠ 0 ∨ fld p.p0 31 11 ≠ 0)
    (fun p t => t.finish p (badAt atP0)) ∧
  Completes Instr.probeSet 0x32 (fun p _ => fld p.p0 7 4 = 0 ∧ fld p.p0 31 11 = 0 ∧ 12 ≤ fld p.p1 25 22)
    (fun p t => t.finish p (badAt atP1)) ∧
  Completes Instr.probeSet 0x32 (fun p t => fld p.p0 7 4 = 0 ∧ fld p.p0 31 11 = 0 ∧ fld p.p1 25 22 < 12 ∧
      t.loops.engines[f16 p.p0.toNat].trace.state ≠ .idle)
    (fun p t => t.finish p busy) ∧
  (∀ (i : Nat) (l : LoopRec) (e : Nat × Nat), Completes Instr.loopStateRead 0x33 (fun p t => t.loopNamed p.p0 = some (i, l) ∧ (t.slotsOfLoop i).head? = some e)
    (fun p t => t.finishOk p (i32 (t.loops.engines[f16 e.1].slots[f32i e.2]).y) (t.loops.engines[f16 e.1].slots[f32i e.2]).sflag
      (loopRecord (t.loops.engines[f16 e.1].slots[f32i e.2]) (t.loops.groupOf (t.loops.engines[f16 e.1].slots[f32i e.2]).key).output))) ∧
  Completes Instr.loopStateRead 0x33 (fun p t => t.loopNamed p.p0 = none)
    (fun p t => t.finish p (badAt atP0))

/-- TRACE_UPLOAD, TRACE_TRIGGER and TRACE_RELEASE complete. TRACE_UPLOAD of a HELD capture answers the bytes from param1
on, and is BUSY while the capture is in another state, BAD_PARAM at param0 for an engine above 15 and at param1 beyond
the end; TRACE_TRIGGER triggers every ARMED engine of its mask and leaves the others; TRACE_RELEASE releases the capture
of its engine. Where the rules leave a point open, the clauses follow the model's choice (log entries 30 and 35).
(Derived from R198, R199.) -/
def Obligations.TraceCommandsComplete : Prop :=
  Completes Instr.traceUpload 0xC0 (fun p t => p.p0.toNat ≤ 15 ∧ t.loops.engines[f16 p.p0.toNat].trace.state = .held ∧
      p.p1.toNat ≤ 16 + 40 * t.loops.engines[f16 p.p0.toNat].trace.rows.length)
    (fun p t => 
      let c := t.loops.engines[f16 p.p0.toNat].trace
      let bs := (c.bytes.drop p.p1.toNat).take 262144
      t.finishOk p (w32 bs.length) (w32 (16 + 40 * c.rows.length)) bs) ∧
  Completes Instr.traceUpload 0xC0 (fun p _ => 15 < p.p0.toNat)
    (fun p t => t.finish p (badAt atP0)) ∧
  Completes Instr.traceUpload 0xC0 (fun p t => p.p0.toNat ≤ 15 ∧ t.loops.engines[f16 p.p0.toNat].trace.state ≠ .held)
    (fun p t => t.finish p busy) ∧
  Completes Instr.traceUpload 0xC0 (fun p t => p.p0.toNat ≤ 15 ∧ t.loops.engines[f16 p.p0.toNat].trace.state = .held ∧
      16 + 40 * t.loops.engines[f16 p.p0.toNat].trace.rows.length < p.p1.toNat)
    (fun p t => t.finish p (badAt atP1)) ∧
  Completes Instr.traceTrigger 0xC1 (fun p _ => p.p0.toNat ≤ 65535)
    (fun p t => (foldOn (maskBits 16 p.p0.toNat) t (fun u e =>
      if u.loops.engines[f16 e].trace.state = .armed then
        u.setEngine (f16 e) { u.loops.engines[f16 e] with trace := u.loops.engines[f16 e].trace.trigger 7 u.cell.generation }
      else u)).finishOk p) ∧
  Completes Instr.traceTrigger 0xC1 (fun p _ => 65535 < p.p0.toNat)
    (fun p t => t.finish p (badAt atP0)) ∧
  Completes Instr.traceRelease 0xC2 (fun p _ => p.p0.toNat ≤ 15)
    (fun p t => (t.setEngine (f16 p.p0.toNat) { t.loops.engines[f16 p.p0.toNat] with
      trace := t.loops.engines[f16 p.p0.toNat].trace.release t.cell.generation }).finishOk p) ∧
  Completes Instr.traceRelease 0xC2 (fun p _ => 15 < p.p0.toNat)
    (fun p t => t.finish p (badAt atP0))

/-- SCHED_SWAP, SCHED_UNLOAD and SOLVER_REPORT complete or start their placement. SCHED_SWAP of a stored image whose
chains no other current image covers makes it current at once while no cell is active, without a warm-start copy, and
otherwise starts a placement with it; SCHED_UNLOAD clears a stored image and its currency, and is BUSY for a current one
while a cell is active; SOLVER_REPORT answers the 64-byte record of the latest completed tick of a problem with an image
under the active cell, and any other is BAD_PARAM at param0. Where the rules leave a point open, the clauses follow the
model's choice (log entry 37). (Derived from R12, R77, R218, R219, R240, R244.) -/
def Obligations.ScheduleCommandsComplete : Prop :=
  (∀ g, Completes Instr.schedSwap 0x41 (fun p t => t.solver.named p.p0 = some g ∧ t.swapClash g = false ∧ t.cell.job = none ∧ t.cellOn = false)
    (fun p t => (t.setSolver { t.solver with
      current := t.solver.current.set (f4 g.problem) (some g.index),
      solves := vmod t.solver.solves (f4 g.problem) (fun x => { x with warm := none }) }).finishOk p)) ∧
  (∀ g, Completes Instr.schedSwap 0x41 (fun p t => t.solver.named p.p0 = some g ∧ t.swapClash g = false ∧ t.cell.job = none ∧ t.cellOn = true)
    (fun p t => t.setCell { t.cell with job := some {
      kind := .swap, queue := p.queue, tag := p.tag, cell := t.theCell,
      current := t.othersCurrent g ++ [(g.problem, g.index)], bind := none, phase := .placing } })) ∧
  Completes Instr.schedSwap 0x41 (fun p t => t.solver.named p.p0 = none)
    (fun p t => t.finish p (badAt atP0)) ∧
  (∀ g, Completes Instr.schedSwap 0x41 (fun p t => t.solver.named p.p0 = some g ∧ t.swapClash g = true)
    (fun p t => t.finish p (badAt atP0))) ∧
  (∀ g, Completes Instr.schedSwap 0x41 (fun p t => t.solver.named p.p0 = some g ∧ t.swapClash g = false ∧ t.cell.job ≠ none)
    (fun p t => t.finish p busy)) ∧
  (∀ g, Completes Instr.schedUnload 0x42 (fun p t => t.solver.named p.p0 = some g ∧ (t.solver.isCurrent g.index && t.cellOn) = false)
    (fun p t => (t.setSolver { t.solver with
      images := t.solver.images.set (f16 g.index) none,
      current := foldOn (List.range 4) t.solver.current (fun v i =>
        vmod v (f4 i) (fun c => if c = some g.index then none else c)) }).finishOk p)) ∧
  Completes Instr.schedUnload 0x42 (fun p t => t.solver.named p.p0 = none)
    (fun p t => t.finish p (badAt atP0)) ∧
  (∀ g, Completes Instr.schedUnload 0x42 (fun p t => t.solver.named p.p0 = some g ∧ t.solver.isCurrent g.index = true ∧ t.cellOn = true)
    (fun p t => t.finish p busy)) ∧
  Completes Instr.solverReport 0x43 (fun p t => p.p0.toNat ≤ 3 ∧ t.cellOn = true ∧ (t.imageOf (f4 p.p0.toNat)).isNone = false)
    (fun p t => t.finishOk p (w32 t.solver.solves[f4 p.p0.toNat].recTick) 0
      ((t.solver.solves[f4 p.p0.toNat].record ++ List.replicate 64 0).take 64)) ∧
  Completes Instr.solverReport 0x43 (fun p t => 3 < p.p0.toNat ∨ t.cellOn = false ∨ (t.imageOf (f4 p.p0.toNat)).isNone = true)
    (fun p t => t.finish p (badAt atP0))

/-- KERNEL_BIND, KERNEL_UNLOAD and TILE_STATUS complete or start their placement. KERNEL_BIND of a stored kernel to an
object that fits it and that no other kernel has starts a placement while none runs; without an image it is BAD_PARAM at
param0, for a wrong object at param1, and BUSY when the object is taken, the kernel is bound already or a placement
runs. KERNEL_UNLOAD takes the image and the window of a stored kernel, its counters and sticky flags staying, is
BAD_PARAM for an empty one and BUSY for a bound or faulted one. TILE_STATUS answers the record of its tile. Where the
rules leave a point open, the clauses follow the model's choice (log entry 37). (Derived from R12, R78, R260, R270.) -/
def Obligations.KernelCommandsComplete : Prop :=
  (∀ im, Completes Instr.kernelBind 0x51 (fun p t => p.p0.toNat ≤ 63 ∧ t.tiles.kernels[f64 p.p0.toNat].image = some im ∧ t.theCell.bindOk im p.p1 = true ∧
      (List.range 64).any (fun i => i != (f64 p.p0.toNat).val && t.tiles.kernels[f64 i].bind == some p.p1) = false ∧
      (t.tiles.kernels[f64 p.p0.toNat].state = .stored ∨ t.tiles.kernels[f64 p.p0.toNat].state = .empty ∨
        (t.tiles.kernels[f64 p.p0.toNat].state = .faulted ∧ t.tiles.kernels[f64 p.p0.toNat].bind = some p.p1)) ∧ t.cell.job = none)
    (fun p t => t.setCell { t.cell with job := some {
      kind := .bind, queue := p.queue, tag := p.tag, cell := t.theCell, current := t.solver.currentList,
      bind := some ((f64 p.p0.toNat).val, p.p1), phase := .placing } })) ∧
  Completes Instr.kernelBind 0x51 (fun p t => 63 < p.p0.toNat ∨ t.tiles.kernels[f64 p.p0.toNat].image = none)
    (fun p t => t.finish p (badAt atP0)) ∧
  (∀ im, Completes Instr.kernelBind 0x51 (fun p t => p.p0.toNat ≤ 63 ∧ t.tiles.kernels[f64 p.p0.toNat].image = some im ∧ t.theCell.bindOk im p.p1 = false)
    (fun p t => t.finish p (badAt atP1 (if t.theCell.bindNames p.p1 then p.p1 else 0)))) ∧
  (∀ im, Completes Instr.kernelBind 0x51 (fun p t => p.p0.toNat ≤ 63 ∧ t.tiles.kernels[f64 p.p0.toNat].image = some im ∧ t.theCell.bindOk im p.p1 = true ∧
      ((List.range 64).any (fun i => i != (f64 p.p0.toNat).val && t.tiles.kernels[f64 i].bind == some p.p1) = true ∨ t.tiles.kernels[f64 p.p0.toNat].state = .bound ∨
        (t.tiles.kernels[f64 p.p0.toNat].state = .faulted ∧ t.tiles.kernels[f64 p.p0.toNat].bind ≠ some p.p1) ∨ t.cell.job ≠ none))
    (fun p t => t.finish p busy)) ∧
  Completes Instr.kernelUnload 0x52 (fun p t => p.p0.toNat ≤ 63 ∧ t.tiles.kernels[f64 p.p0.toNat].state = .stored)
    (fun p t => (t.setKernel (f64 p.p0.toNat) { t.tiles.kernels[f64 p.p0.toNat] with image := none, state := .empty, window := [] }).finishOk p) ∧
  Completes Instr.kernelUnload 0x52 (fun p t => 63 < p.p0.toNat ∨ t.tiles.kernels[f64 p.p0.toNat].state = .empty)
    (fun p t => t.finish p (badAt atP0)) ∧
  Completes Instr.kernelUnload 0x52 (fun p t => p.p0.toNat ≤ 63 ∧ (t.tiles.kernels[f64 p.p0.toNat].state = .bound ∨ t.tiles.kernels[f64 p.p0.toNat].state = .faulted))
    (fun p t => t.finish p busy) ∧
  Completes Instr.tileStatus 0x53 (fun p _ => p.p0.toNat ≤ 15)
    (fun p t => t.finishOk p (w32 (satN 0xFFFFF (t.tileLoad (f16 p.p0.toNat)))) 0 (t.tileRecord (f16 p.p0.toNat))) ∧
  Completes Instr.tileStatus 0x53 (fun p _ => 15 < p.p0.toNat)
    (fun p t => t.finish p (badAt atP0))

/-- EVT_SUBSCRIBE, EVT_ARM and EVT_CANCEL complete or wait for events. EVT_SUBSCRIBE of a free subscription 1 to 15 with
valid entries creates it and answers its number; an existing one is BUSY, and a wrong number or entry is BAD_PARAM at
its place. EVT_ARM, once no earlier EVT_ARM of its subscription waits to start, on queue 15 for an existing subscription
and a size of 1,024 to 262,144 waits for events, which held ones give at once; on another queue it is BAD_PARAM, as for
a wrong number or size at its parameter. EVT_CANCEL ends the armed packets with ABORTED and then the subscription. Where
the rules leave a point open, the clauses follow the model's choice (log entry 38). (Derived from R65, R66, R79, R313.)
-/
def Obligations.EventCommandsComplete : Prop :=
  Completes Instr.evtSubscribe 0x60 (fun p t => 1 ≤ p.p0.toNat ∧ p.p0.toNat ≤ 15 ∧ subscribeError p.payload = none ∧ t.host.subs[f16 p.p0.toNat].present = false)
    (fun p t => (t.setSub (f16 p.p0.toNat)
      { present := true, entries := subEntries p.payload (u16 p.payload 0), dropLate := (byteAt p.payload 2).testBit 0 }).finishOk p p.p0) ∧
  Completes Instr.evtSubscribe 0x60 (fun p _ => p.p0.toNat = 0 ∨ 15 < p.p0.toNat)
    (fun p t => t.finish p (badAt atP0)) ∧
  (∀ o, Completes Instr.evtSubscribe 0x60 (fun p _ => 1 ≤ p.p0.toNat ∧ p.p0.toNat ≤ 15 ∧ subscribeError p.payload = some o)
    (fun p t => t.finish p (badAt (w32 o)))) ∧
  Completes Instr.evtSubscribe 0x60 (fun p t => 1 ≤ p.p0.toNat ∧ p.p0.toNat ≤ 15 ∧ subscribeError p.payload = none ∧ t.host.subs[f16 p.p0.toNat].present = true)
    (fun p t => t.finish p busy) ∧
  (∀ (q : Fin 16) (tag : Fin 1024) (s : State) (p : Pkt), s.Begins q tag 0x61 p → s.evtArmFirst p = true →
    let t := s.begun q p
    let sub := t.host.subs[f16 p.p0.toNat]
    (p.queue = 15 → p.p0.toNat ≤ 15 → sub.present = true → 1024 ≤ p.p1.toNat → p.p1.toNat ≤ 262144 →
      exec (.evtArm q tag) s = .next (s.passOn q p (t.deliverSub (f16 p.p0.toNat)))) ∧
    (p.queue ≠ 15 → exec (.evtArm q tag) s = .next (s.passOn q p (t.finish p.begun (badAt 0)))) ∧
    (p.queue = 15 → (15 < p.p0.toNat ∨ sub.present = false) →
      exec (.evtArm q tag) s = .next (s.passOn q p (t.finish p.begun (badAt atP0)))) ∧
    (p.queue = 15 → p.p0.toNat ≤ 15 → sub.present = true → (p.p1.toNat < 1024 ∨ 262144 < p.p1.toNat) →
      exec (.evtArm q tag) s = .next (s.passOn q p (t.finish p.begun (badAt atP1))))) ∧
  Completes Instr.evtCancel 0x62 (fun p t => 1 ≤ p.p0.toNat ∧ p.p0.toNat ≤ 15 ∧ t.host.subs[f16 p.p0.toNat].present = true)
    (fun p t => (((t.armed (f16 p.p0.toNat).val).foldl (fun s a => s.finish a ⟨stAborted, 0, 0⟩) t).setSub (f16 p.p0.toNat) {}).finishOk p) ∧
  Completes Instr.evtCancel 0x62 (fun p t => p.p0.toNat = 0 ∨ 15 < p.p0.toNat ∨ t.host.subs[f16 p.p0.toNat].present = false)
    (fun p t => t.finish p (badAt atP0))

/-- POINT_READ, POINT_FORCE and POINT_WRITE complete or wait for their swap. POINT_READ answers the nibbles of the front
image, two a byte, with its I/O cycle count, and is BAD_PARAM at param0 for a first point above 131,071 and at param1
for a count of 0 or a span beyond the last point. POINT_FORCE and POINT_WRITE that pass their record checks wait for the
swap at which their records take effect together, and otherwise complete with the verdict of the checks and apply no
record. Where the rules leave a point open, the clauses follow the model's choice (log entries 23 and 38). (Derived from
R80, R293, R299.) -/
def Obligations.PointCommandsComplete : Prop :=
  Completes Instr.pointRead 0x65 (fun p _ => p.p0.toNat ≤ 131071 ∧ 1 ≤ p.p1.toNat ∧ p.p0.toNat + p.p1.toNat ≤ 131072)
    (fun p t => t.finishOk p t.nibble.iocyc 0 (packNibs ((List.range p.p1.toNat).map (fun i => t.nibble.frontAt (p.p0.toNat + i))))) ∧
  Completes Instr.pointRead 0x65 (fun p _ => 131071 < p.p0.toNat)
    (fun p t => t.finish p (badAt atP0)) ∧
  Completes Instr.pointRead 0x65 (fun p _ => p.p0.toNat ≤ 131071 ∧ (p.p1.toNat = 0 ∨ 131072 < p.p0.toNat + p.p1.toNat))
    (fun p t => t.finish p (badAt atP1)) ∧
  Completes Instr.pointForce 0x63 (fun p _ => p.payload.length ≠ 8 * p.p0.toNat)
    (fun p t => t.finish p (badAt atP0)) ∧
  (∀ v, Completes Instr.pointForce 0x63 (fun p t => p.payload.length = 8 * p.p0.toNat ∧ firstVerdict (t.pointRecBad true) (numbered 0 (chunks 8 p.p0.toNat p.payload)) = some v)
    (fun p t => t.finish p v)) ∧
  Completes Instr.pointForce 0x63 (fun p t => p.payload.length = 8 * p.p0.toNat ∧ firstVerdict (t.pointRecBad true) (numbered 0 (chunks 8 p.p0.toNat p.payload)) = none)
    (fun p t => 
      let recs := chunks 8 p.p0.toNat p.payload
      t.setNibble { t.nibble with cmds := t.nibble.cmds ++ [⟨p.queue, p.tag, true, t.theCell.allFast recs,
        recs.map (fun r => (u32 r 0, BitVec.ofNat 2 (byteAt r 4), byteAt r 5))⟩] }) ∧
  Completes Instr.pointWrite 0x64 (fun p _ => p.payload.length ≠ 8 * p.p0.toNat)
    (fun p t => t.finish p (badAt atP0)) ∧
  (∀ v, Completes Instr.pointWrite 0x64 (fun p t => p.payload.length = 8 * p.p0.toNat ∧ firstVerdict (t.pointRecBad false) (numbered 0 (chunks 8 p.p0.toNat p.payload)) = some v)
    (fun p t => t.finish p v)) ∧
  Completes Instr.pointWrite 0x64 (fun p t => p.payload.length = 8 * p.p0.toNat ∧ firstVerdict (t.pointRecBad false) (numbered 0 (chunks 8 p.p0.toNat p.payload)) = none)
    (fun p t => 
      let recs := chunks 8 p.p0.toNat p.payload
      t.setNibble { t.nibble with cmds := t.nibble.cmds ++ [⟨p.queue, p.tag, false, t.theCell.allFast recs,
        recs.map (fun r => (u32 r 0, BitVec.ofNat 2 (byteAt r 4), byteAt r 5))⟩] })

/-- SAFE_PARAM_SET and SAFE_POINT_ASSIGN are checked and then wait for presence. Each is BAD_PARAM at param0 for a count
of 0 or above its maximum, BAD_PARAM at payload byte 0 for a payload that is not 8 bytes a record, and completes with
the verdict of its record checks; otherwise it goes on to the presence gate. Where the rules leave a point open, the
clauses follow the model's choice (log entries 23 and 45). (Derived from R58, R68, R70, R81, R325.) -/
def Obligations.GatedSafetyCommandsCheckFirst : Prop :=
  Completes Instr.safeParamSet 0x70 (fun p _ => p.p0.toNat = 0 ∨ 512 < p.p0.toNat)
    (fun p t => t.finish p (badAt atP0)) ∧
  Completes Instr.safeParamSet 0x70 (fun p _ => 1 ≤ p.p0.toNat ∧ p.p0.toNat ≤ 512 ∧ p.payload.length ≠ 8 * p.p0.toNat)
    (fun p t => t.finish p (badAt 0)) ∧
  (∀ v, Completes Instr.safeParamSet 0x70 (fun p t => 1 ≤ p.p0.toNat ∧ p.p0.toNat ≤ 512 ∧ p.payload.length = 8 * p.p0.toNat ∧ t.safeRecsBad p.payload p.p0.toNat = some v)
    (fun p t => t.finish p v)) ∧
  Completes Instr.safeParamSet 0x70 (fun p t => 1 ≤ p.p0.toNat ∧ p.p0.toNat ≤ 512 ∧ p.payload.length = 8 * p.p0.toNat ∧ t.safeRecsBad p.payload p.p0.toNat = none)
    (fun p t => t.toGate p) ∧
  Completes Instr.safePointAssign 0x71 (fun p _ => p.p0.toNat = 0 ∨ 4096 < p.p0.toNat)
    (fun p t => t.finish p (badAt atP0)) ∧
  Completes Instr.safePointAssign 0x71 (fun p _ => 1 ≤ p.p0.toNat ∧ p.p0.toNat ≤ 4096 ∧ p.payload.length ≠ 8 * p.p0.toNat)
    (fun p t => t.finish p (badAt 0)) ∧
  (∀ v, Completes Instr.safePointAssign 0x71 (fun p t => 1 ≤ p.p0.toNat ∧ p.p0.toNat ≤ 4096 ∧ p.payload.length = 8 * p.p0.toNat ∧ t.assignRecsBad p.payload p.p0.toNat = some v)
    (fun p t => t.finish p v)) ∧
  Completes Instr.safePointAssign 0x71 (fun p t => 1 ≤ p.p0.toNat ∧ p.p0.toNat ≤ 4096 ∧ p.payload.length = 8 * p.p0.toNat ∧ t.assignRecsBad p.payload p.p0.toNat = none)
    (fun p t => t.toGate p)

/-- TIME_READ, TIME_SET, PTP_SELECT, SYNC_OUT_CFG and SYNC_IN_READ complete. TIME_READ answers the event stamp in its
results and the time record of the same instant; TIME_SET that passes its checks sets cell time and puts the time base
into FREERUN without a lock, and otherwise completes with the verdict of the checks; PTP_SELECT with 0, 1 or 2 selects
and answers the slot in use, and with another value is BAD_PARAM; SYNC_OUT_CFG stores a period and an offset that pass
their checks, and a period of 0 takes a running pulse down; SYNC_IN_READ answers the last capture. Where the rules leave
a point open, the clauses follow the model's choice (log entries 5, 27 and 52). (Derived from R82, R91, R92, R98, R103,
R104.) -/
def Obligations.TimeCommandsComplete : Prop :=
  Completes Instr.timeRead 0x80 (fun _ _ => True)
    (fun p t => t.finishOk p (w32 t.stamp) (w32 (t.stamp / 2 ^ 32)) (timeRecord t.time.cellNs)) ∧
  Completes Instr.timeSet 0x81 (fun p t => t.timeSetCheck p = none)
    (fun p t => 
      let v := t.tbEnter .freerun
      (v.setTime { v.time with
        cellNs := leAt p.payload 0 6 * 1000000000 + u32 p.payload 8, lockHeld := false, slew := 0, skipped := false }).finishOk p) ∧
  (∀ v, Completes Instr.timeSet 0x81 (fun p t => t.timeSetCheck p = some v)
    (fun p t => t.finish p v)) ∧
  Completes Instr.ptpSelect 0x82 (fun p _ => p.p0.toNat ≤ 2)
    (fun p t => (t.setSelect p.p0.toNat).finishOk p (w32 (t.setSelect p.p0.toNat).time.curSlot.val)) ∧
  Completes Instr.ptpSelect 0x82 (fun p _ => 2 < p.p0.toNat)
    (fun p t => t.finish p (badAt atP0)) ∧
  Completes Instr.syncOutCfg 0x83 (fun p _ => syncOutCheck p.p0.toNat p.p1.toNat = none)
    (fun p t => (t.setTime { t.time with outPer := p.p0, outOfs := p.p1 }).syncOutLow.finishOk p) ∧
  (∀ v, Completes Instr.syncOutCfg 0x83 (fun p _ => syncOutCheck p.p0.toNat p.p1.toNat = some v)
    (fun p t => t.finish p v)) ∧
  Completes Instr.syncInRead 0x84 (fun _ _ => True)
    (fun p t => t.finishOk p (w32 t.time.syncIn.toNat) (w32 (t.time.syncIn.toNat / 2 ^ 32)))

/-- When TIME_SET is refused, and what it sets. While a cell is active or a PTP domain is the selected source TIME_SET
is BUSY, and a nanoseconds value above 999,999,999 in a payload of the right length is BAD_PARAM at payload byte 8; a
TIME_SET that passes leaves cell time at seconds times 1,000,000,000 plus nanoseconds, the state FREERUN, no lock and
nothing to slew. Where the rules leave a point open, the clauses follow the model's choice (log entries 23 and 27).
(Derived from R82, R94.) -/
def Obligations.TimeSetChecks : Prop :=
  (∀ (s : State) (p : Pkt),
    (s.cellOn = true ∨ s.time.source = 1 → s.timeSetCheck p = some busy) ∧
    (s.cellOn = false → s.time.source ≠ 1 → p.payload.length = 12 → zeroed p.payload 6 2 = true →
      999999999 < u32 p.payload 8 → s.timeSetCheck p = some (badAt 8))) ∧
  (∀ (q : Fin 16) (tag : Fin 1024) (s : State) (p : Pkt), s.Begins q tag 0x81 p → s.timeSetCheck p = none →
    ∃ t, exec (.timeSet q tag) s = .next t ∧ t.time.state = .freerun ∧ t.time.lockHeld = false ∧ t.time.slew = 0 ∧
      t.time.cellNs = leAt p.payload 0 6 * 1000000000 + u32 p.payload 8 ∧ u32 p.payload 8 ≤ 999999999)

/-- RING_STATUS, RING_RERANGE and NODE_READMIT complete or wait for their boundary. RING_STATUS answers one record for
each node record of its ring; RING_RERANGE takes new delays of the scheduled nodes it names and answers their number; a
ring above 3 is BAD_PARAM at param0 and a hop that is not on the ring at param1. NODE_READMIT of a node that is neither
scheduled nor being readmitted puts it into READMIT at a planning tick boundary 16 ticks after the next, queues the
record of the ring, its slot, delay and ACTIVATE records and READMIT, and waits; any other is BAD_PARAM at param0, with
its identity where it is a node. Where the rules leave a point open, the clauses follow the model's choice (log entries
23 and 33). (Derived from R83, R128, R150.) -/
def Obligations.RingCommandsComplete : Prop :=
  Completes Instr.ringStatus 0x90 (fun p _ => p.p0.toNat ≤ 3)
    (fun p t => t.finishOk p (w32 (t.theCell.hops p.p0.toNat).length) 0 ((t.theCell.hops p.p0.toNat).flatMap (fun h =>
      nodeRecord h.1 (t.rings[f4 p.p0.toNat].hop h.1) h.2.1))) ∧
  Completes Instr.ringStatus 0x90 (fun p _ => 3 < p.p0.toNat)
    (fun p t => t.finish p (badAt atP0)) ∧
  Completes Instr.ringRerange 0x91 (fun p t => p.p0.toNat ≤ 3 ∧ (p.p1.toNat = 0xFF ∨ (1 ≤ p.p1.toNat ∧ p.p1.toNat ≤ 254 ∧ ((t.theCell.hops (f4 p.p0.toNat).val).map (·.1)).contains p.p1.toNat = true)))
    (fun p t => 
      let r := f4 p.p0.toNat
      let hs := (if p.p1.toNat = 0xFF then (t.theCell.hops (f4 p.p0.toNat).val).map (·.1) else [p.p1.toNat]).filter
        (fun h => (t.rings[r].hop h).scheduled)
      (hs.foldl (fun v h => v.setRing r (v.rings[r].rerange h (v.rings[r].hop h).state)) t).finishOk p (w32 hs.length)) ∧
  Completes Instr.ringRerange 0x91 (fun p _ => 3 < p.p0.toNat)
    (fun p t => t.finish p (badAt atP0)) ∧
  Completes Instr.ringRerange 0x91 (fun p t => p.p0.toNat ≤ 3 ∧ p.p1.toNat ≠ 0xFF ∧ (p.p1.toNat = 0 ∨ 254 < p.p1.toNat ∨ ¬ ((t.theCell.hops (f4 p.p0.toNat).val).map (·.1)).contains p.p1.toNat = true))
    (fun p t => t.finish p (badAt atP1)) ∧
  (∀ rec, Completes Instr.nodeReadmit 0x92 (fun p t => t.theCell.nodes[p.p0.toNat]? = some rec ∧
      (t.rings[f4 rec.ring].hop rec.hop).scheduled = false ∧ (t.rings[f4 rec.ring].hop rec.hop).state ≠ .readmit)
    (fun p t => 
      let r := f4 rec.ring
      let b := t.nextPlan % 2 ^ 64 + 16000000
      let n := { t.rings[r].hop rec.hop with
        state := .readmit, node := p.p0.toNat, readmitAt := some b, readmitBy := some (p.queue, p.tag), run := 0, data := none }
      (t.setRing r ((t.rings[r].putHop rec.hop n).queueRecords t.rings[r].gen
        (t.ringRecord t.theCell t.cell.placement r :: slotRecords t.theCell t.cell.placement p.p0.toNat rec ++
          [delayRecord rec.hop n, activateRecord t.rings[r].gen b]))).sendMgmt r 3 rec.hop)) ∧
  Completes Instr.nodeReadmit 0x92 (fun p t => t.theCell.nodes[p.p0.toNat]? = none)
    (fun p t => t.finish p (badAt atP0)) ∧
  (∀ rec, Completes Instr.nodeReadmit 0x92 (fun p t => t.theCell.nodes[p.p0.toNat]? = some rec ∧
      ((t.rings[f4 rec.ring].hop rec.hop).scheduled = true ∨ (t.rings[f4 rec.ring].hop rec.hop).state = .readmit))
    (fun p t => t.finish p (badAt atP0 (ident 3 p.p0.toNat))))

/-- CAN_TX, CAN_CANCEL, CAN_RX_READ and CAN_CFG complete or make a frame wait. CAN_TX of a valid record to a free
transmit buffer makes the frame pending; a buffer that does not transmit is BAD_PARAM at param0, a record that breaks a
rule at its byte, and a buffer with an unfinished frame is BUSY. CAN_CANCEL of a pending frame that is not on the bus
ends its CAN_TX with ABORTED and tells the partner; of one on the bus, and one that the active of the pair passed on, it
is held; of no frame it is BAD_PARAM. CAN_RX_READ of a full receive buffer that is not locked answers the frame and its
stamp and releases the buffer. CAN_CFG of valid words while no frame waits configures the controller. Where the rules
leave a point open, the clauses follow the model's choice (log entry 55). (Derived from R68, R84, R386, R387, R389,
R391, R393.) -/
def Obligations.CanCommandsComplete : Prop :=
  Completes Instr.canTx 0xA0 (fun p t => t.can[canOf p].bufs[bufOf p].use = 2 ∧ p.payload.length = 72 ∧ frameErrors t.can[canOf p] p.payload = [] ∧ t.can[canOf p].bufs[bufOf p].tx = none)
    (fun p t => t.canBuf (canOf p) (bufOf p) (fun x =>
      { x with tx := some (frameOf p.payload, p.queue, p.tag), cancel := [], tried := false, retries := 0 })) ∧
  Completes Instr.canTx 0xA0 (fun p t => t.can[canOf p].bufs[bufOf p].use ≠ 2)
    (fun p t => t.finish p (badAt atP0)) ∧
  Completes Instr.canTx 0xA0 (fun p t => t.can[canOf p].bufs[bufOf p].use = 2 ∧ p.payload.length ≠ 72)
    (fun p t => t.finish p (badAt 0)) ∧
  (∀ o, Completes Instr.canTx 0xA0 (fun p t => t.can[canOf p].bufs[bufOf p].use = 2 ∧ p.payload.length = 72 ∧ (frameErrors t.can[canOf p] p.payload).head? = some o)
    (fun p t => t.finish p (badAt (w32 o)))) ∧
  Completes Instr.canTx 0xA0 (fun p t => t.can[canOf p].bufs[bufOf p].use = 2 ∧ p.payload.length = 72 ∧ frameErrors t.can[canOf p] p.payload = [] ∧ t.can[canOf p].bufs[bufOf p].tx ≠ none)
    (fun p t => t.finish p busy) ∧
  Completes Instr.canCancel 0xA1 (fun p t => p.origin ≠ .partner ∧ t.can[canOf p].bufs[bufOf p].tx ≠ none ∧ (∀ o, t.can[canOf p].onBus = some o → o.buf ≠ (bufOf p).val))
    (fun p t => ((t.canBuf (canOf p) (bufOf p) (fun x => { x with cancel := x.cancel ++ [(p.queue, p.tag)] })).canShare
      (canOf p) (bufOf p).val 2 ([0] ++ leBytes 8 0)).endTx (canOf p) (bufOf p) ⟨stAborted, 0, 0⟩ 0) ∧
  Completes Instr.canCancel 0xA1 (fun p t => t.can[canOf p].bufs[bufOf p].tx ≠ none ∧ (p.origin = .partner ∨ ∃ o, t.can[canOf p].onBus = some o ∧ o.buf = (bufOf p).val))
    (fun p t => t.canBuf (canOf p) (bufOf p) (fun x => { x with cancel := x.cancel ++ [(p.queue, p.tag)] })) ∧
  Completes Instr.canCancel 0xA1 (fun p t => t.can[canOf p].bufs[bufOf p].tx = none)
    (fun p t => t.finish p (badAt atP0)) ∧
  (∀ (f : CanFrame) (w : DWord), Completes Instr.canRxRead 0xA2 (fun p t => t.can[canOf p].bufs[bufOf p].use = 1 ∧ t.can[canOf p].bufs[bufOf p].full = true ∧ t.can[canOf p].bufs[bufOf p].lock = none ∧ t.can[canOf p].bufs[bufOf p].frame = some (f, w))
    (fun p t => (t.canBuf (canOf p) (bufOf p) CanBuf.release).finishOk p (w32 w.toNat) (w32 (w.toNat / 2 ^ 32)) (canRecord f))) ∧
  Completes Instr.canCfg 0xA3 (fun p t => p.payload.length = 528 ∧ canCfgErrors p.payload = [] ∧ t.can[canOf p].waiting = [])
    (fun p t => 
      let v := t.setCanN (canOf p) (t.can[canOf p].configure p.payload)
      (v.canEnter (canOf p) (if v.can[canOf p].mode = 0 then .off else .active)).finishOk p) ∧
  Completes Instr.canCfg 0xA3 (fun p _ => p.payload.length ≠ 528)
    (fun p t => t.finish p (badAt 0)) ∧
  (∀ o, Completes Instr.canCfg 0xA3 (fun p _ => p.payload.length = 528 ∧ (canCfgErrors p.payload).head? = some o)
    (fun p t => t.finish p (badAt (w32 o)))) ∧
  Completes Instr.canCfg 0xA3 (fun p t => p.payload.length = 528 ∧ canCfgErrors p.payload = [] ∧ t.can[canOf p].waiting ≠ [])
    (fun p t => t.finish p busy)

/-- TWIN_STATUS, TWIN_ROLE_CFG and PROOF_SWAP_NOW complete or wait. TWIN_STATUS answers TW_STAT, the minutes to the next
due swap and the status record; TWIN_ROLE_CFG with valid words that keeps the mode of an active cell goes on to the
presence gate, with a wrong word completes with its verdict, and with another mode while a cell is active is BUSY;
PROOF_SWAP_NOW on a device outside a pair, or while one is outstanding, is BUSY, and on the active of a pair waits for
the swap that is announced, that it announces, or that is announced once what blocks it has ended. Where the rules leave
a point open, the clauses follow the model's choice (log entries 45 and 58). (Derived from R85, R378, R383, R384.) -/
def Obligations.TwinCommandsComplete : Prop :=
  Completes Instr.twinStatus 0xB0 (fun _ _ => True)
    (fun p t => t.finishOk p t.twStat t.swapMinutes (wordBytes [t.twStat, t.twin.peerStat, t.twin.cfg, t.swapWord,
      t.twin.cnt, t.twin.lerr, t.twin.peerFw, t.twin.peerCrc, t.twin.peerDigest] ++ List.replicate 28 0)) ∧
  (∀ v, Completes Instr.twinRoleCfg 0xB1 (fun p _ => roleBad p.payload = some v)
    (fun p t => t.finish p v)) ∧
  Completes Instr.twinRoleCfg 0xB1 (fun p t => roleBad p.payload = none ∧ t.cellOn = true ∧ byteAt p.payload 0 ≠ fld t.twin.cfg 31 30)
    (fun p t => t.finish p busy) ∧
  Completes Instr.twinRoleCfg 0xB1 (fun p t => roleBad p.payload = none ∧ (t.cellOn = false ∨ byteAt p.payload 0 = fld t.twin.cfg 31 30))
    (fun p t => t.toGate p) ∧
  Completes Instr.proofSwapNow 0xB2 (fun p t => p.origin ≠ .partner ∧ (t.pairActive = false ∨ t.twin.swapReply ≠ none))
    (fun p t => t.finish p busy) ∧
  Completes Instr.proofSwapNow 0xB2 (fun p _ => p.origin = .partner)
    (fun p t => t.finishOk p) ∧
  Completes Instr.proofSwapNow 0xB2 (fun p t => p.origin ≠ .partner ∧ t.pairActive = true ∧ t.twin.swapReply = none ∧ t.twin.swapTick ≠ none)
    (fun p t => t.setTwin { t.twin with swapReply := some (p.queue, p.tag) }) ∧
  Completes Instr.proofSwapNow 0xB2 (fun p t => p.origin ≠ .partner ∧ t.pairActive = true ∧ t.twin.swapReply = none ∧ t.twin.swapTick = none ∧
      (t.setTwin { t.twin with swapReply := some (p.queue, p.tag) }).swapBlocked = true)
    (fun p t => t.setTwin { t.twin with swapReply := some (p.queue, p.tag), swapAgain := true }) ∧
  Completes Instr.proofSwapNow 0xB2 (fun p t => p.origin ≠ .partner ∧ t.pairActive = true ∧ t.twin.swapReply = none ∧ t.twin.swapTick = none ∧
      (t.setTwin { t.twin with swapReply := some (p.queue, p.tag) }).swapBlocked = false)
    (fun p t => (t.setTwin { t.twin with swapReply := some (p.queue, p.tag) }).announceSwap
      (t.tickNo + (if t.onGrid 1000000 0 then 16 else 17)))

/-- FW_VERIFY, FW_ACTIVATE and OTP_PROGRAM complete or wait for presence. FW_VERIFY of a staged image answers its
version with result word 1 = 0 and starts programming it when the image is valid, answers 1 when it is not, is BAD_PARAM
without a staged image and BUSY while one is programmed. FW_ACTIVATE without a verified staged image is BAD_PARAM, while
programming or with bit 0 set and a cell active BUSY, and otherwise goes on to the presence gate. OTP_PROGRAM with a
payload of 8 bytes a record and records that rise only free bits goes on to the presence gate, and is otherwise refused
before the window opens. Where the rules leave a point open, the clauses follow the model's choice (log entries 18 and
49). (Derived from R58, R70, R86, R403, R405, R406.) -/
def Obligations.FirmwareCommandsComplete : Prop :=
  (∀ im, Completes Instr.fwVerify 0xD1 (fun _ t => t.sys.staged = some im ∧ t.sys.burning = none ∧ t.sys.imageValid im = true)
    (fun p t => (t.setSys { t.sys with verified := true, burning := some im, programmed := false }).finishOk p (wordAt im.bytes 8) 0)) ∧
  (∀ im, Completes Instr.fwVerify 0xD1 (fun _ t => t.sys.staged = some im ∧ t.sys.burning = none ∧ t.sys.imageValid im = false)
    (fun p t => (t.setSys { t.sys with verified := false }).finishOk p (wordAt im.bytes 8) 1)) ∧
  Completes Instr.fwVerify 0xD1 (fun _ t => t.sys.staged = none)
    (fun p t => t.finish p (badAt 0)) ∧
  Completes Instr.fwVerify 0xD1 (fun _ t => t.sys.staged ≠ none ∧ t.sys.burning ≠ none)
    (fun p t => t.finish p busy) ∧
  Completes Instr.fwActivate 0xD2 (fun p t => t.sys.verified = true ∧ t.sys.staged ≠ none ∧ t.sys.burning = none ∧ (bitAt p.p0 0 && t.cellOn) = false)
    (fun p t => t.toGate p) ∧
  Completes Instr.fwActivate 0xD2 (fun _ t => t.sys.verified = false ∨ t.sys.staged = none)
    (fun p t => t.finish p (badAt 0)) ∧
  Completes Instr.fwActivate 0xD2 (fun p t => t.sys.verified = true ∧ t.sys.staged ≠ none ∧ (t.sys.burning ≠ none ∨ (bitAt p.p0 0 && t.cellOn) = true))
    (fun p t => t.finish p busy) ∧
  Completes Instr.otpProgram 0xD3 (fun p t => p.payload.length = 8 * p.p0.toNat ∧ otpRecsBad p.payload p.p0.toNat 0 t.sys.otp = none)
    (fun p t => t.toGate p) ∧
  Completes Instr.otpProgram 0xD3 (fun p _ => p.payload.length ≠ 8 * p.p0.toNat)
    (fun p t => t.finish p (badAt 0)) ∧
  (∀ v, Completes Instr.otpProgram 0xD3 (fun p t => p.payload.length = 8 * p.p0.toNat ∧ otpRecsBad p.payload p.p0.toNat 0 t.sys.otp = some v)
    (fun p t => t.finish p v))

/-- PARAM_READ and PARAM_WRITE complete. With a location and a count in range, PARAM_READ answers the words of the page
from the offset on, the first two also as results, with what reading them does; PARAM_WRITE with a payload of exactly
count words that the page accepts writes all of them and starts the resets they ask for; a location or count out of
range completes with the verdict of the location check, and a refused write with that of the words and writes none.
Where the rules leave a point open, the clauses follow the model's choice (log entries 23 and 59). (Derived from R87,
R433, R436.) -/
def Obligations.ParameterCommandsComplete : Prop :=
  (∀ v, Completes Instr.paramRead 0xE0 (fun p _ => paramCheck p.p0 p.p1 = some v)
    (fun p t => t.finish p v)) ∧
  Completes Instr.paramRead 0xE0 (fun p _ => paramCheck p.p0 p.p1 = none)
    (fun p t => 
      let ws := t.readWords (pageOf p.p0) (offsetOf p.p0) p.p1.toNat
      (t.readSides (pageOf p.p0) (offsetOf p.p0) p.p1.toNat).finishOk p (ws.getD 0 0) (ws.getD 1 0) (wordBytes ws)) ∧
  (∀ v, Completes Instr.paramWrite 0xE1 (fun p _ => paramCheck p.p0 p.p1 = some v)
    (fun p t => t.finish p v)) ∧
  Completes Instr.paramWrite 0xE1 (fun p _ => paramCheck p.p0 p.p1 = none ∧ p.payload.length ≠ 4 * p.p1.toNat)
    (fun p t => t.finish p (badAt atP1)) ∧
  (∀ v, Completes Instr.paramWrite 0xE1 (fun p t => paramCheck p.p0 p.p1 = none ∧ p.payload.length = 4 * p.p1.toNat ∧
      t.writeCheck (some p.queue) (pageOf p.p0) (wordsFrom (offsetOf p.p0) (wordsAt p.payload 0 p.p1.toNat)) = some v)
    (fun p t => t.finish p v)) ∧
  Completes Instr.paramWrite 0xE1 (fun p t => paramCheck p.p0 p.p1 = none ∧ p.payload.length = 4 * p.p1.toNat ∧
      t.writeCheck (some p.queue) (pageOf p.p0) (wordsFrom (offsetOf p.p0) (wordsAt p.payload 0 p.p1.toNat)) = none)
    (fun p t => 
      let ws := wordsFrom (offsetOf p.p0) (wordsAt p.payload 0 p.p1.toNat)
      (t.writeWords (pageOf p.p0) ws).writeResets (pageOf p.p0) ws (some (p.queue, p.tag)))

/-- What the events of the host interface do. Once QUEUES is ready a doorbell stores its pointer and fetching goes on,
and RESET_Q resets its queue. A delay entry acts once DELAY_TICK has found it due and its item stands in a worker slot:
that of a moderated vector raises it again 2 µs after the last raise if replies have come since. A one-segment datagram
of the bound endpoint to an enabled queue is handed over whole; a reassembly whose first segment is 20 ms old goes and
is counted. A packet that has not started by its deadline is judged by its row: one whose parameters the row refuses
completes with that status, and one that the row would still run completes with DEADLINE_MISSED. A partial image without
a fragment for 10 s is discarded with a notice. REPLY_WRITE writes the next reply, and that of an FW_ACTIVATE that
restarts is followed by a main-die reset. Where the rules leave a point open, the clauses follow the model's choice (log
entries 10, 23, 26 and 50). (Derived from R10, R43, R48, R49, R51, R52, R53, R55, R406, R408.) -/
def Obligations.HostEventsComplete : Prop :=
  ∀ (s : State) (q : Fin 16),
    (∀ (tail : Nat) (mem : List Byte), s.isReady rdQueues = true →
      let x := s.host.queues[q]
      exec (.sqDoorbell q tail mem) s = .next ((s.setQueue q { x with
        sqTail := tail, sqMem := mem.take ((tail % 2 ^ x.sqLog2 + 2 ^ x.sqLog2 - x.sqHead) % 2 ^ x.sqLog2) }).fetch q)) ∧
    (∀ head : Nat, s.isReady rdQueues = true →
      exec (.cqDoorbell q head) s = .next ((s.setQueue q { s.host.queues[q] with cqHead := head }).fetch q)) ∧
    (s.isReady rdQueues = true → exec (.resetQ q) s = .next (s.startReset q [])) ∧
    (∀ t, s.host.queues[q].msixAt = some t → t + 2000 ≤ s.time.cellNs → s.host.queues[q].cqTail ≠ s.host.queues[q].msixTail →
      s.expired (DelayEntry.ofUser 6 q.val) = true →
      exec (.msixModerationExpiry q) s = .next ((s.entryRun (DelayEntry.ofUser 6 q.val)).raiseMsix q)) ∧
    (s.expired (DelayEntry.ofUser 6 q.val) = false → exec (.msixModerationExpiry q) s = .next s) ∧
    (∀ (port : Fin 2) (src : Endpoint) (dst : Nat) (data : List Byte), s.isReady rdQueues = true → s.isReady rdEth = true →
      bitAt s.host.ctrl port.val = true → (if port.val = 0 then s.host.ip0 else s.host.ip1) ≠ 0 →
      dst = fld s.host.ctrl 31 16 + q.val → bitAt s.host.queues[q].qcfg 31 = true → s.host.queues[q].onPort port = true →
      s.host.queues[q].resetting = false → (s.host.queues[q].bound = none ∨ s.host.queues[q].bound = some src) →
      8 ≤ data.length → u16 data 0 = 0 → u16 data 2 = 1 → data.length - 8 ≤ s.host.segLen → s.host.assembling = [] →
      exec (.udpDatagram port src dst data) s = .next (s.udpPacket q port src (data.drop 8))) ∧
    (∀ seq : Word,
      let due := fun (a : Assembly) => a.queue == q.val && a.seq == seq && decide (a.first + 20000000 ≤ s.time.cellNs)
      let mine := fun (e : DelayEntry) => e.ofUser 4 q.val && e.b == seq.toNat
      (s.expired mine = true → exec (.reassemblyTimeout q seq) s = .next ((s.entryRun mine).setHost { s.host with
        assembling := s.host.assembling.filter (fun a => !due a),
        errcnt := bump s.host.errcnt 23 16 (s.host.assembling.filter due).length })) ∧
      (s.expired mine = false → exec (.reassemblyTimeout q seq) s = .next s)) ∧
    (∀ (tag : Fin 1024) (p : Pkt), s.host.queues[q].find tag = some p → p.phase = .accepted → p.late s.time.cellNs = true →
      let mine := fun (e : DelayEntry) => e.ofUser 3 q.val && e.b == tag.val
      let u := s.entryRun mine
      s.expired mine = true →
      (∀ t, rowOf p.opcode q tag ((u.setQueue q u.host.queues[q].unfenced).setDisp (u.disp.trying p)) = .next t →
        (t.host.queues[q].find tag ≠ none → exec (.packetDeadline q tag) s = .next (u.finish p ⟨stDeadline, 0, 0⟩)) ∧
        (t.host.queues[q].find tag = none → exec (.packetDeadline q tag) s = .next
          ((t.setQueue q { t.host.queues[q] with inflight := (u.host.queues[q].remove tag).inflight }).setDisp
            { t.disp with workers := u.disp.workers })))) ∧
    (∀ (st : Stream) (i : Partial), s.cell.partOf st = some i → i.last + 10000000000 ≤ s.time.cellNs →
      let mine := DelayEntry.ofUser 8 (streamNo st)
      s.expired mine = true → exec (.partialImageTimeout st) s =
        .next (((s.entryRun mine).dropPart st).notice .partialImage (streamNo st) i.queue)) ∧
    ((s.writeReply q).sys.restartAfter = none →
      exec (.replyWrite q) s = .next (s.writeReply q)) ∧
    (∀ tag, (s.writeReply q).sys.restartAfter = some (q.val, tag) → (s.writeReply q).inFlight q.val tag = false →
      ((s.writeReply q).host.queues[q].replies.any (fun r => r.pkt.tag == tag)) = false →
      exec (.replyWrite q) s = .next ((s.writeReply q).holdReset 3 true))

/-- What writes and reads from outside the packets do to the pages. A write through the BAR0 mirror that a PARAM_WRITE
would accept writes its word and starts the reset it asks for; SYS_BCFG writes one word of page 0x0001; a debug SPI read
answers the words with what reading them does, a debug write that passes its checks writes all words, and a request that
a check refuses answers its status and has no other effect. Where the rules leave a point open, the clauses follow the
model's choice (log entry 59). (Derived from R47, R408, R419, R433, R437, R438, R439, R440.) -/
def Obligations.PageEventsComplete : Prop :=
  ∀ s : State,
    (∀ (w : Fin 256) (v : Word), s.isReady rdQueues = true → s.writeCheck none 0x0100 [(w.val, v)] = none →
      exec (.bar0MirrorWrite w v) s = .next ((s.writeWords 0x0100 [(w.val, v)]).writeResets 0x0100 [(w.val, v)] none)) ∧
    (∀ (w : Fin 256) (v : Word), s.isReady rdQueues = false → exec (.bar0MirrorWrite w v) s = .next s) ∧
    (∀ (w : Fin 32) (v : Word), exec (.sysBcfg w v) s = .next (s.writeWords 0x0001 [(w.val, v)])) ∧
    (∀ (req : List Byte) (keys : Bool), s.sys.porstLow = false → 5 ≤ req.length →
      (byteAt req 0 = 0x02 → 9 + 4 * (byteAt req 4 + 1) ≤ req.length) →
      (∀ st, s.spiCheck req keys = some st →
        exec (.debugSpiTransaction req keys) s = .next (s.emit (.spi (spiAnswer st [])))) ∧
      (s.spiCheck req keys = none → byteAt req 0 = 0x0B →
        exec (.debugSpiTransaction req keys) s = .next
          ((s.readSides (u16 req 1) (byteAt req 3) (byteAt req 4 + 1)).emit (.spi (spiAnswer stOk
            (s.readWords (u16 req 1) (byteAt req 3) (byteAt req 4 + 1)))))) ∧
      (s.spiCheck req keys = none → byteAt req 0 ≠ 0x0B →
        let ws := wordsFrom (byteAt req 3) (wordsAt req 5 (byteAt req 4 + 1))
        exec (.debugSpiTransaction req keys) s = .next
          (((s.writeWords (u16 req 1) ws).writeResets (u16 req 1) ws none).emit (.spi (spiAnswer stOk [])))))

/-- How the presence window ends. With a window open: a press of at least 50 ms that began inside it after ACCEPT_N had
been seen high, with the seal closed, keys that did not disagree for more than 100 ms, both keys on, no longer than 5 s
and no supply caution, accepts the pending command; the same press is denied with reason 3, 2, 4, 1 or 5 where one of
these fails, in that order; a seal failure, a key disagreement of more than 100 ms or a longer press denies with reason
3, 2 or 4; and 60 s after it opened the command completes with PRESENCE_TIMEOUT, at its delay entry or, after that time,
at whatever else would end the window. PANEL_CLEAR clears a final message that has stood for 5 s. Where the rules leave
a point open, the clauses follow the model's choice (log entries 10, 25 and 50). (Derived from R61, R62, R63, R64,
R412.) -/
def Obligations.PresenceEventsComplete : Prop :=
  ∀ (s : State) (w : Presence), s.host.presence = some w →
    (∀ b : Press, 50 ≤ b.low → b.inWindow = true → b.seenHigh50 = true →
      s.time.cellNs ≤ w.opened + 60000000000 → w.opened + 1000000 * b.low ≤ s.time.cellNs →
      exec (.acceptNRelease b) s = .next (
        if b.sealOk = false then s.denyGate 0x44 stPresDenied 3
        else if 100 < b.disagree then s.denyGate 0x44 stPresDenied 2
        else if 5000 < b.low then s.denyGate 0x44 stPresDenied 4
        else if b.keysOn = false then s.denyGate 0x44 stPresDenied 1
        else if s.sys.caution = true then s.denyGate 0x44 stPresDenied 5
        else match s.gated with
          | none => s.closePresence 0x41
          | some p => (s.closePresence 0x41).accept p)) ∧
    (w.opened + 60000000000 < s.time.cellNs →
      (∀ b : Press, exec (.acceptNRelease b) s = .next (s.denyGate 0x54 stPresTimeout 0)) ∧
      (∀ (x h : Bool) (d l : Nat), exec (.presenceDenied x d l h) s = .next (s.denyGate 0x54 stPresTimeout 0))) ∧
    (s.time.cellNs ≤ w.opened + 60000000000 → ∀ (d l : Nat) (h : Bool), exec (.presenceDenied true d l h) s = .next (s.denyGate 0x44 stPresDenied 3)) ∧
    (s.time.cellNs ≤ w.opened + 60000000000 → ∀ (d l : Nat) (h : Bool), 100 < d → exec (.presenceDenied false d l h) s = .next (s.denyGate 0x44 stPresDenied 2)) ∧
    (s.time.cellNs ≤ w.opened + 60000000000 → ∀ (d l : Nat), d ≤ 100 → 5000 < l → w.opened + 1000000 * (l + 50) ≤ s.time.cellNs →
      exec (.presenceDenied false d l true) s = .next (s.denyGate 0x44 stPresDenied 4)) ∧
    (w.opened + 60000000000 ≤ s.time.cellNs → s.expired (fun e => e.user == 0) = true →
      exec .presenceTimeout s = .next ((s.entryRun (fun e => e.user == 0)).denyGate 0x54 stPresTimeout 0)) ∧
    (s.expired (fun e => e.user == 0) = false → exec .presenceTimeout s = .next s) ∧
    (∀ t : Nat, t + 5000000000 ≤ s.time.cellNs → s.expired (DelayEntry.ofUser 8 5) = true →
      let u := s.setHost { s.host with presence := none, panelAt := some t }
      exec .panelClear u = .next ((u.entryRun (DelayEntry.ofUser 8 5)).showPanel [] none))

/-- What placement, staging, activation and the faults of units do. A placement that runs completes: a degraded one of
the active cell first, then that of the command. STAGING_COMPLETE, once the arbiters of its partitions have served the
staging, strikes its problem off the announced placement or ends the staging of a re-placed one, and withdraws the
placement after an uncorrectable error; at the deadline a placement with problems left to stage is withdrawn. At its
announced boundary a placement of a command comes into force and the command completes with OK and the digest; where the
digests differ in PAIRED it does not, and where its cell leaves a rule table with an error it answers BUSY. A
re-placement comes into force at its boundary too, but where the digests differ the standby leaves for OUT, and one that
follows a join does not come into force. A fault of an engine, a partition that no running problem uses, or a tile masks
it, once; a tile that fails its self-test is masked before DSP is ready. Where the rules leave a point open, the clauses
follow the model's choice (log entries 37 and 53). (Derived from R18, R26, R28, R30, R31, R220, R221, R236, R268.) -/
def Obligations.PlacementEventsComplete : Prop :=
  ∀ s : State,
    (∀ j, s.cell.regrade = some j → j.phase = .placing → exec .placementComplete s = .next (s.placeRegrade j)) ∧
    (∀ j, s.cell.regrade = none → s.cell.job = some j → j.phase = .placing →
      exec .placementComplete s = .next (s.placeJob j)) ∧
    (∀ (p : Fin 4) (j : Job), s.cell.job = some j → j.toStage.contains p.val = true →
      (j.placement.problems.flatMap (fun e => if e.1 = p.val then (List.range e.2.2.1).map (e.2.1 + ·) else [])).all
        (fun i => s.servedUnit i 1) = true →
      exec (.stagingComplete p true) s = .next (s.setCell { s.cell with
        job := some { j with toStage := j.toStage.filter (· != p.val) } }) ∧
      exec (.stagingComplete p false) s = .next (s.endJob j ⟨stInternal, 0, 0⟩)) ∧
    (∀ p : Fin 4, s.cell.job = none → s.solver.probs[p].staging = true →
      s.solver.probs[p].parts.all (fun i => s.servedUnit i 1) = true →
      exec (.stagingComplete p true) s = .next (s.setProb p { s.solver.probs[p] with staging := false })) ∧
    (∀ (j : Job) (a : Nat), s.cell.job = some j → j.phase = .announced a → j.toStage ≠ [] →
      a * 1000000 ≤ s.stamp + 2000000 → exec .stagingDeadline s = .next (s.endJob j ⟨stInternal, 0, 0⟩)) ∧
    (∀ (j : Job) (a : Nat), s.cell.regrade = none → s.cell.job = some j → j.phase = .announced a →
      s.onGrid 1000000 0 = true → a ≤ s.tickNo →
      (s.digestsDiffer j = true → exec .activation s = .next (s.endJob j ⟨stInternal, 0, 0⟩).leavePair) ∧
      (s.digestsDiffer j = false → (j.kind ≠ .amend ∨ s.tablesBusy s.theCell j.cell = none) →
        let t := s.putInForce j
        exec .activation s = .next ((t.setCell { t.cell with job := none }).showPlaced.finishTag j.queue j.tag
          ⟨stOk, j.placement.digest, 0⟩)) ∧
      (∀ v, s.digestsDiffer j = false → j.kind = .amend → s.tablesBusy s.theCell j.cell = some v →
        exec .activation s = .next (s.endJob j v))) ∧
    (∀ j : Job, s.cell.regrade = some j → s.cell.job = none → s.jobDue j = true → s.onGrid 1000000 0 = true →
      let clear := fun (t : State) => t.setCell { t.cell with regrade := none }
      ((s.digestsDiffer j = false ∨ (s.twin.active = true ∧ j.rejoin = false)) → (clear (s.putInForce j)).showPlaced.cell.job = none →
        exec .activation s = .next (clear (s.putInForce j)).showPlaced) ∧
      (s.digestsDiffer j = true → (s.twin.active = false ∨ j.rejoin = true) → (clear s).leavePair.cell.job = none →
        exec .activation s = .next (clear s).leavePair)) ∧
    (s.onGrid 1000000 0 = false → exec .activation s = .next s) ∧
    (∀ (e : Fin 16) (m : Bool), exec (.loopEngineFault e m) s = .next (s.engineLost e m)) ∧
    (∀ p : Fin 8, s.cell.partMask.getLsbD p.val = false → (∀ i : Fin 4, s.solver.solves[i].running = false) →
      let t := s.setCell { s.cell with partMask := bvSet s.cell.partMask p.val }
      exec (.partitionFault p) s = .next (t.latchUnit rdSolver (t.cell.partMask == 0xFF)).maskChanged) ∧
    (∀ (k : Fin 16) (b : Bool), s.cell.tileMask.getLsbD k.val = false → s.kernelsOn k = [] → s.tiles.tiles[k].busy = false →
      (b = true → s.isReady rdDsp = false ∧ s.sys.inReset = false) →
      let x := s.tiles.tiles[k]
      let t := s.setTile k { x with faulted := x.faulted || !b, busy := false, queue := [] }
      let u := t.setCell { t.cell with tileMask := bvSet t.cell.tileMask k.val }
      exec (.tileFault k b) s = .next (u.latchUnit rdDsp (u.cell.tileMask == 0xFFFF)).maskChanged) ∧
    (∀ k : Fin 16, (s.isReady rdDsp = true ∨ s.sys.inReset = true) → exec (.tileFault k true) s = .next s)

/-- What the events of cell time do. Once TIME is ready, a SYNC_IN edge of the selected direction is captured and
counted; under source 2 it is also the reference: an edge more than 1 ms off is rejected and counted, a standby only
notes it, and any other steers the time base, which enters ACQUIRE from FREERUN and HOLDOVER, where without a cell cell
time takes the time of the edge at once. SYNC_OUT rises when cell time meets its offset in its period on the device that
drives it. 3 s without an accepted edge under source 2 lose the reference. A lost PTP slot keeps only the masters still
heard; where it was in use, the other slot is switched to at the next planning tick boundary when that is allowed, and
otherwise the reference is lost. A decided switch takes place at its boundary if the new slot still qualifies, and if it
does not, a slot in use without a master loses the reference. Slot 0 that has been locked for 60 s is returned to. A PTP
message of an unsupported kind is discarded and counted; an Announce is kept with its source, which is qualified by a
second one within 4 s, a one-step Sync of the master on its port is measured, and a two-step Sync is measured at its
Follow_Up; Delay_Req and Pdelay_Req are answered and their answers give the delay. A new source or domain word is taken
unless its value is reserved. Where the rules leave a point open, the clauses follow the model's choice (log entries 5,
7, 27 and 52). (Derived from R91, R94, R95, R96, R99, R100, R103, R104, R105, R107, R108.) -/
def Obligations.TimeEventsComplete : Prop :=
  ∀ s : State,
    (∀ edge : Bool, s.isReady rdTime = true → s.time.syncInEdge = edge →
      let t := s.setTime { s.time with captures := s.time.captures + 1, syncIn := BitVec.ofNat 64 s.stamp }
      let o := ppsOffset s.time.cellNs
      let u := fun (v : State) => v.setTime { v.time with lastPps := some s.now }
      (s.time.source ≠ 2 → exec (.syncInEdge edge) s = .next t) ∧
      (s.time.source = 2 → 1000000 < o.natAbs →
        exec (.syncInEdge edge) s = .next (t.setTime { t.time with rejects := satN 255 (t.time.rejects + 1) })) ∧
      (s.time.source = 2 → o.natAbs ≤ 1000000 → s.followsPair = true → exec (.syncInEdge edge) s = .next (u t)) ∧
      (s.time.source = 2 → o.natAbs ≤ 1000000 → s.followsPair = false → (s.time.state = .acquire ∨ s.time.state = .locked) →
        exec (.syncInEdge edge) s = .next ((u t).measure (-o))) ∧
      (s.time.source = 2 → o.natAbs ≤ 1000000 → s.followsPair = false → (s.time.state = .freerun ∨ s.time.state = .holdover) →
        (s.cellOn = true → exec (.syncInEdge edge) s = .next ((u (t.tbEnter .acquire)).measure (-o))) ∧
        (s.cellOn = false → let v := u (t.tbEnter .acquire)
          exec (.syncInEdge edge) s = .next ((v.measure (-o)).setTime { (v.measure (-o)).time with
            cellNs := moveCell v.time.cellNs (-o), slew := 0, skipped := false })))) ∧
    (∀ edge : Bool, (s.isReady rdTime = false ∨ s.time.syncInEdge ≠ edge) → exec (.syncInEdge edge) s = .next s) ∧
    (∀ slot : Fin 2, s.slotLost slot = false →
      exec (.ptpSlotLoss slot) s = .next (s.setPtpSlot slot (s.time.slots[slot].fresh s.now))) ∧
    (s.time.switchTo = none → exec .slotSwitch s = .next s) ∧
    (∀ (n : Fin 2) (b : Nat), s.time.switchTo = some (n, b) → s.time.cellNs < b → exec .slotSwitch s = .next s) ∧
    ((s.time.source ≠ 1 ∨ s.time.select ≠ 2 ∨ s.time.curSlot ≠ 1 ∨ s.time.slots[(0 : Fin 2)].lockedAt = none ∨
        s.time.maySwitch 0 = false ∨ s.time.switchTo ≠ none ∨ s.followsPair = true) → exec .slot0Return s = .next s) ∧
    (s.isReady rdTime = true → s.time.outPer ≠ 0 → s.drivesSync = true →
      s.time.cellNs % 1000000000 % s.time.outPer.toNat = s.time.outOfs.toNat →
      exec .syncOutEdge s = .next (s.setTime { s.time with outLeft := min s.time.outW.toNat (s.time.outPer.toNat / 2) })) ∧
    (∀ t, s.time.lastPps = some t → s.time.source = 2 → s.followsPair = false → t + 3000000000 ≤ s.now →
      exec .ppsLoss s = .next (s.setTime { s.time with lastPps := none }).tbLost) ∧
    (∀ slot : Fin 2, s.slotLost slot = true →
      let t := s.setPtpSlot slot (s.time.slots[slot].silent s.now)
      ((s.time.source ≠ 1 ∨ slot ≠ s.time.curSlot ∨ s.followsPair = true ∨ s.time.switchTo ≠ none) →
        exec (.ptpSlotLoss slot) s = .next t) ∧
      (s.time.source = 1 → slot = s.time.curSlot → s.followsPair = false → s.time.switchTo = none →
        (s.time.select = 2 → t.time.maySwitch (1 - slot) = true →
          exec (.ptpSlotLoss slot) s = .next (t.setTime { t.time with switchTo := some (1 - slot, s.nextPlan) })) ∧
        ((s.time.select ≠ 2 ∨ t.time.maySwitch (1 - slot) = false) → exec (.ptpSlotLoss slot) s = .next t.tbLost))) ∧
    (∀ (n : Fin 2) (b : Nat), s.time.switchTo = some (n, b) → b ≤ s.time.cellNs →
      let t := s.setTime { s.time with switchTo := none }
      (s.time.maySwitch n = true → exec .slotSwitch s = .next ((t.setTime { t.time with
        curSlot := n, slew := s.time.slots[n].offset.getD 0 }).notice .slotSwitch n.val 0)) ∧
      (s.time.maySwitch n = false → t.slotLost s.time.curSlot = false → exec .slotSwitch s = .next t) ∧
      (s.time.maySwitch n = false → t.slotLost s.time.curSlot = true → exec .slotSwitch s = .next t.tbLost)) ∧
    (∀ t, s.time.source = 1 → s.time.select = 2 → s.time.curSlot = 1 → s.time.slots[(0 : Fin 2)].lockedAt = some t →
      t + 60000000000 ≤ s.now → s.time.maySwitch 0 = true → s.time.switchTo = none → s.followsPair = false →
      exec .slot0Return s = .next (s.setTime { s.time with switchTo := some (0, s.nextPlan) })) ∧
    (∀ (port : Fin 2) (m : PtpMsg), s.ptpOn port m.l2 = true →
      (m.kind = .unsupported →
        exec (.ptpMessage port m) s = .next (s.setTime { s.time with ptpDiscarded := s.time.ptpDiscarded + 1 })) ∧
      (∀ n : Fin 2, s.slotOf m = some n →
        let v := s.time.slots[n]
        let arrival := s.hostIn port m.frac.val
        let fromMaster := fun (v : SlotServo) => ∃ b, v.best port = some b ∧ b.source = m.source
        (∀ (ds : PtpDataset) (utc : Int) (valid : Bool), m.kind = .announce ds utc valid → n ≠ s.time.curSlot →
          exec (.ptpMessage port m) s = .next (s.setPtpSlot n { v with
            heard := v.heard.set port (v.heard[port].filter (·.source != m.source) ++ [⟨ds, s.now, m.source,
              match v.heard[port].find? (·.source == m.source) with
              | some o => o.qual || decide (s.now < o.at_ + 4000000000)
              | none => false⟩])
            lastSync := if v.parent.isNone then s.now else v.lastSync })) ∧
        (∀ (seq : BitVec 16) (t1 : Int), m.kind = .sync seq (some t1) → s.ptpPort n port = .slave → fromMaster v →
          exec (.ptpMessage port m) s = .next (s.syncDone n port t1 arrival)) ∧
        (∀ seq : BitVec 16, m.kind = .sync seq none → s.ptpPort n port = .slave → fromMaster v →
          exec (.ptpMessage port m) s = .next (s.setPtpSlot n { v with syncAt := some (seq, arrival) })) ∧
        (∀ (seq : BitVec 16) (t1 t2 : Int), m.kind = .followUp seq t1 → v.syncAt = some (seq, t2) →
          s.ptpPort n port = .slave → fromMaster v →
          exec (.ptpMessage port m) s = .next (s.syncDone n port t1 t2)) ∧
        (∀ seq : BitVec 16, m.kind = .delayReq seq → s.ptpPort n port = .master → bitAt s.time.domain[n] 30 = false →
          exec (.ptpMessage port m) s = .next (s.ptpOut n port (.delayResp seq (arrival + s.domainOfs n)))) ∧
        (∀ (seq : BitVec 16) (t1 t2 t3 t4 : Int), m.kind = .delayResp seq t4 → v.reqAt = some (seq, t3) → v.syncPair = some (t1, t2) →
          s.ptpPort n port = .slave → fromMaster v → bitAt s.time.domain[n] 30 = false →
          exec (.ptpMessage port m) s = .next (s.setPtpSlot n { v with reqAt := none, delay := ((t2 - t1) + (t4 - t3)) / 2 })) ∧
        (∀ seq : BitVec 16, m.kind = .pdelayReq seq → bitAt s.time.domain[n] 30 = true →
          exec (.ptpMessage port m) s = .next ((s.ptpOut n port (.pdelayResp seq arrival)).ptpOut n port
            (.pdelayFollowUp seq (s.hostOut port)))) ∧
        (∀ (seq : BitVec 16) (t1 t2 t3 t4 : Int), m.kind = .pdelayFollowUp seq t3 → v.peers[port].sent = some (seq, t1) →
          v.peers[port].resp = some (t2, t4) → bitAt s.time.domain[n] 30 = true →
          exec (.ptpMessage port m) s = .next (s.setPtpSlot n { v with
            peers := v.peers.set port { delay := ((t4 - t1) - (t3 - t2)) / 2 } })) ∧
        (∀ (seq : BitVec 16) (turn t1 : Int), m.kind = .pdelayRespOneStep seq turn → v.peers[port].sent = some (seq, t1) →
          bitAt s.time.domain[n] 30 = true →
          exec (.ptpMessage port m) s = .next (s.setPtpSlot n { v with
            peers := v.peers.set port { delay := ((arrival - t1) - turn) / 2 } })))) ∧
    (∀ src : BitVec 2, src ≠ 3 →
      let t := s.setTime { s.time with ctrl := setFld s.time.ctrl 31 30 src.toNat }
      let u := t.setTime { t.time with lastPps := none, switchTo := none }
      (s.time.source = src.toNat → exec (.tbCtrlSource src) s = .next t) ∧
      (s.time.source ≠ src.toNat → src = 0 → exec (.tbCtrlSource src) s = .next (u.tbEnter .freerun)) ∧
      (s.time.source ≠ src.toNat → s.time.source = 0 → exec (.tbCtrlSource src) s = .next u) ∧
      (s.time.source ≠ src.toNat → src ≠ 0 → s.time.source ≠ 0 → (s.time.state = .acquire ∨ s.time.state = .locked) →
        exec (.tbCtrlSource src) s = .next (u.tbEnter (if s.time.lockHeld = true then .holdover else .freerun)))) ∧
    exec (.tbCtrlSource 3) s = .next s ∧
    (∀ (slot : Fin 2) (v : Word), domainOk v s.time.domain[1 - slot] = true → setFld v 28 24 0 ≠ s.time.domain[slot] →
      let t := s.setTime { s.time with
        domain := s.time.domain.set slot (setFld v 28 24 0)
        slots := s.time.slots.set slot { listenFrom := s.now, restarted := true } }
      ((s.time.source ≠ 1 ∨ slot ≠ s.time.curSlot) → exec (.tbDomain slot v) s = .next t) ∧
      (s.time.source = 1 → slot = s.time.curSlot → exec (.tbDomain slot v) s = .next t.holdOver))

/-- What each lane instruction of a solve does. Where it is the next instruction of a running solve, each lane
instruction changes only the solve of its problem: SPMV, AXPY, DOT, SDIV, BSOLVE, FACTOR, PROJ, COPY and WARM compute
their vectors, scalars and factors in binary32, OUTER and INNER open a loop with their count, END goes back to the body
while iterations are left, SYNC computes nothing and EMIT keeps x; each then adds its cost and goes on, and pivot,
overflow and mismatch are latched in SV_STAT as soon as they are set. HALT writes the report and the counters of the
solve and releases its partitions. Where the rules leave a point open, the clauses follow the model's choice (log
entries 29 and 53). (Derived from R225, R226, R227, R228, R229, R230, R231, R232, R234, R237, R244, R245.) -/
def Obligations.LaneInstructionsComplete : Prop :=
  LaneStep Instr.lSpmv opSpmv (fun s p g i v =>
    let m := i.flags % 4
    let outS := if m = 1 then 1 else 0
    let inS := if m = 2 then 1 else 0
    let a := v.vec g i.a inS
    let start : NumVec := ⟨if i.acc then v.vec g i.dst outS else List.replicate (g.sizeOf outS) 0, 0⟩
    let r := if m = 0 then spP (s.pVals p g) i.neg a start else spA (s.aVals p g) (m == 2) i.neg a start
    (v.setVec i.dst r.vals).count r.sat) ∧
  LaneStep Instr.lAxpy opAxpy (fun _ _ g i v =>
    let sp := g.laneSpace i
    let a := v.vec g i.a sp
    let b := v.vec g i.b sp
    let r := nMap (fun k n =>
      let c := b.getD k 0
      nFma (v.scalarFor g i.s sp k) (a.getD k 0) ⟨if i.neg then f32Neg c else c, n⟩) (List.range (g.sizeOf sp)) 0
    let r := accumulate i.acc (v.vec g i.dst sp) r
    (v.setVec i.dst r.vals).count r.sat) ∧
  LaneStep Instr.lDot opDot (fun _ _ g i v =>
    let sp := g.laneSpace i
    let r := g.dot sp (v.vec g i.a sp) (v.vec g i.b sp) 0
    let inner := match v.loops with
      | l :: _ => !l.outer
      | [] => false
    let v := { v with scal := v.scal.set (f16 i.dst) r.val }
    (if inner then { v with gammaEnd := r.val } else { v with gammaPre := r.val }).count r.sat) ∧
  LaneStep Instr.lSdiv opSdiv (fun _ _ _ i v =>
    let a := v.scalar i.a
    let b := v.scalar i.b
    let r : Sys2Proof.Machine.Num := if f32IsZero b then
        (if f32IsZero a then ⟨0, 0⟩ else ⟨f32Pack (f32Neg? a != f32Neg? b) 0x7F7FFFFF, 0⟩)
      else nDiv a b 0
    let zero := f32IsZero b && !f32IsZero a
    let v := { v with scal := v.scal.set (f16 i.dst) (if i.neg then f32Neg r.val else r.val) }
    let v := v.count r.sat
    { v with ovf := v.ovf || zero }) ∧
  LaneStep Instr.lBsolve opBsolve (fun _ _ g i v =>
    let a := v.vec g i.a 0
    let r : NumVec := (g.blocks.zip v.mem.factors).foldl (fun x e =>
      let y := solveBlock e.2.1 e.2.2 ((a.drop e.1.1).take e.1.2) e.1.2 x.sat
      ⟨x.vals ++ y.vals, y.sat⟩) ⟨[], 0⟩
    (v.setVec i.dst r.vals).count r.sat) ∧
  LaneStep Instr.lFactor opFactor (fun s p g _ v =>
    let fs : List Factor := g.blocks.map (fun b => factorBlock v g (s.pVals p g) (s.aVals p g) b.1 b.2)
    let fl := (fs.map (fun (f : Factor) => f.floored)).sum
    let v := { v with mem.factors := fs.map (fun (f : Factor) => (f.l, f.d)), floored := v.floored + fl, pivot := v.pivot || decide (0 < fl) }
    v.count ((fs.map (fun (f : Factor) => f.sat)).sum)) ∧
  LaneStep Instr.lProj opProj (fun _ _ g i v =>
    let sp := g.laneSpace i
    let r := projVec (v.vec g i.a sp) (v.vec g i.b sp) (v.vec g i.c sp) (g.sizeOf sp)
    { (v.setVec i.dst r.1) with inverted := satN 65535 (v.inverted + r.2) }) ∧
  LaneStep Instr.lCopy opCopy (fun _ _ g i v => v.setVec i.dst (v.vec g i.a (g.laneSpace i))) ∧
  LaneStep Instr.lOuter opOuter (fun s _ _ i v =>
    let n := loopCount i.count (fld s.solver.ctrlIn 31 24)
    { v with loops := ⟨v.pc + 1, n, true⟩ :: v.loops, outerRun := n }) ∧
  LaneStep Instr.lInner opInner (fun s _ _ i v =>
    let n := loopCount i.count (fld s.solver.ctrlIn 23 16)
    { v with loops := ⟨v.pc + 1, n, false⟩ :: v.loops, innerRun := n, gammaStart := v.gammaPre, gammaEnd := v.gammaPre }) ∧
  LaneStep Instr.lEnd opEnd (fun _ _ _ _ v =>
    match v.loops with
    | [] => v
    | l :: r => if 1 < l.left then { v with loops := { l with left := l.left - 1 } :: r, pc := l.body - 1 }
      else { v with loops := r }) ∧
  LaneStep Instr.lSync opSync (fun _ _ _ _ v => v) ∧
  LaneStep Instr.lEmit opEmit (fun _ _ g _ v => { v with emitted := v.vec g (g.role 4) 0 }) ∧
  LaneStep Instr.lWarm opWarm (fun s p g _ v =>
    let copy := match v.warm with
      | some c => if c.family = g.family then some c else none
      | none => none
    let d := v.tick - ((copy.map (·.tick)).getD v.tick)
    let vx : List (Word × Option Word) := g.vars.map (fun e => (e.1, copy.bind (fun c => warmValue c.x e.1 d)))
    let vy : List (Option Word) := g.cons.map (fun e => copy.bind (fun c => warmValue c.y e.1 d))
    let x := vx.map (fun e => e.2.getD (s.coldValue e.1))
    let y := vy.map (fun e => e.getD 0)
    let ax := spA (s.aVals p g) false false x ⟨List.replicate g.nCon 0, 0⟩
    let z := projVec ax.vals (v.vec g (g.role 2) 1) (v.vec g (g.role 3) 1) g.nCon
    let v := (v.setVec (g.role 4) x).setVec (g.role 5) y
    let v := if g.role 6 = 0xFF then v else v.setVec (g.role 6) z.1
    let v := { v with
      cold := copy.isNone, mismatch := v.warm.isSome && copy.isNone
      varMatched := (vx.filter (fun (e : Word × Option Word) => e.2.isSome)).length
      conMatched := (vy.filter (fun (e : Option Word) => e.isSome)).length
      inverted := satN 65535 (v.inverted + z.2) }
    v.count ax.sat) ∧
  (∀ (p : Fin 4) (n : Nat) (s : State) (g : SchedImage) (i : LaneInstr), s.nextLane p opHalt = some (g, i) →
    let nums := s.reportNumbers p g s.solver.solves[p]
    let v : SolveSt := { s.solver.solves[p].count nums.sat with
      cycles := s.solver.solves[p].cycles + g.cost i + g.reportCost, halted := true }
    let w : SolveSt := { v with
      report := reportBytes v nums.vals v.flagByte 0 g.family, flags := v.flagByte, repTick := v.tick
      cycLast := v.cycles, cycMax := max v.cycMax v.cycles }
    exec (.lHalt p n) s = .next (((s.noteSolve p w).corrected p n).releaseParts s.solver.probs[p]))

/-- A lane instruction does nothing but in its place. A lane instruction of a problem whose solve does not run, has
halted, does not hold its partitions, or has another instruction next leaves the state as it is, and no lane instruction
ever changes anything but the solves of its own problem and SV_STAT; HALT also changes the arbiters, as it releases its
partitions. Where the rules leave a point open, the clauses follow the model's choice (log entry 53). (Derived from
R228, R231, R234.) -/
def Obligations.LaneOnlyWhereItIsNext : Prop :=
  ∀ (p : Fin 4) (n : Nat) (s : State), ∀ x ∈ [(opSpmv, Instr.lSpmv p), (opAxpy, .lAxpy p), (opDot, .lDot p), (opSdiv, .lSdiv p),
      (opBsolve, .lBsolve p), (opFactor, .lFactor p), (opProj, .lProj p), (opCopy, .lCopy p), (opOuter, .lOuter p),
      (opInner, .lInner p), (opEnd, .lEnd p), (opSync, .lSync p), (opWarm, .lWarm p), (opEmit, .lEmit p), (opHalt, .lHalt p n)],
    (s.nextLane p x.1 = none → exec x.2 s = .next s) ∧
    (∀ t, exec x.2 s = .next t →
      t = (s.setSolver { s.solver with solves := s.solver.solves.set p t.solver.solves[p], stat := t.solver.stat }).setDisp
        { s.disp with arbs := t.disp.arbs } ∧
      (x.1 ≠ opHalt → t.disp = s.disp))

/-- What assembly, the solve request, the overrun and distribution do. With a cell active: at 80 µs of a planning tick
the words written before its boundary are latched if they were not, a reference stage that has not ended is counted
late, the snapshot is taken and every current image is assembled in ascending problem index, complete where phase 5 ends
within the assembly budget; at 230 µs a problem whose assembly is complete requests its partitions and starts its solve
with its scalars loaded, and one whose assembly is not, or one of whose partitions is masked, is not solved; from 930 µs
on a solve that has not halted is stopped; at 930 µs every problem is settled and the auxiliary banks are formed. Where
the rules leave a point open, the clauses follow the model's choice (log entry 53). (Derived from R159, R161, R208,
R227, R234, R235, R236, R241, R243.) -/
def Obligations.SolverEventsComplete : Prop :=
  ∀ s : State, s.cellOn = true →
    (s.onGrid 1000000 80000 = true →
      let late := s.latchDue.lateStage
      let t := late.setSolver { late.solver with snapshot := late.takeSnapshot }
      let img := fun (p : Nat) => t.imageOf (f4 p)
      let start := t.theCell.assemblyStart ((List.range 4).filterMap img)
      let r := (List.range 4).foldl (fun (x : State × Nat) p => match img p with
        | none => x
        | some g => (x.1.assembleOne (f4 p) g (decide (150000 < start + ceilDiv (x.2 + g.live) 32 + 500)), x.2 + g.live)) (t, 0)
      let u := satN 65535 ((start + ceilDiv r.2 32 + 500) / 4)
      exec .assembly s = .next (r.1.setSolver { r.1.solver with asmLast := u, asmMax := max r.1.solver.asmMax u })) ∧
    (∀ (p : Fin 4) (g : SchedImage), s.onGrid 1000000 230000 = true → s.imageOf p = some g →
      s.solver.probs[p].complete = some s.tickNo → s.solver.probs[p].staging = false →
      s.partsDown s.solver.probs[p] = false →
      ∃ u, exec (.solveRequest p) s = .next u ∧ u.solver.solves[p].running = true ∧ u.solver.solves[p].halted = false ∧
        u.solver.solves[p].pc = 0 ∧ u.solver.solves[p].tick = s.tickNo ∧ u.solver.solves[p].loops = [] ∧
        u.solver.solves[p].scal[0] = s.solver.solves[p].rhoIn ∧ u.solver.solves[p].scal[2] = s.solver.solves[p].sigmaIn ∧
        u.solver.solves[p].scal[3] = f32One ∧ u.solver.solves[p].mem = s.solver.solves[p].mem ∧
        200 ≤ u.solver.solves[p].cycles ∧ u.solver.solves[p].cycles ≤ 2248 ∧
        u.disp = (s.requestParts s.solver.probs[p]).disp) ∧
    (∀ (p : Fin 4) (g : SchedImage), s.onGrid 1000000 230000 = true → s.imageOf p = some g →
      (s.solver.probs[p].complete ≠ some s.tickNo ∨ s.solver.probs[p].staging = true ∨
        s.partsDown s.solver.probs[p] = true) →
      exec (.solveRequest p) s = .next (s.notSolved p 1)) ∧
    (∀ p : Fin 4, 930000 ≤ s.stamp % 1000000 → exec (.solveOverrun p) s = .next (s.overrun p)) ∧
    (s.onGrid 1000000 930000 = true →
      exec .distribution s = .next (foldOn (List.range 4) s (fun t p => (t.overrun (f4 p)).settle (f4 p))).auxBanks)

/-- What each tile instruction does where it is next. Each of the 42 tile instructions, where it is the next one of the
activation running on its tile, makes its memory accesses, computes its result from the registers before it, adds its
cycles and goes on to the address that program flow gives; an access outside the windows, a RETI outside a handler or a
PC outside the program is a kernel fault; END within the declared cycles commits the eight output words with the
sequence number of its input, ends the activation and adds the errors its reads corrected to the count of the tile; an
END past the declared cycles commits nothing, as its activation has been overrun. Where the rules leave a point open,
the clauses follow the model's choice (log entry 39). (Derived from R250, R255, R256, R258, R261, R263, R265.) -/
def Obligations.TileInstructionsComplete : Prop :=
  TileStep Instr.tNop 0x00 opNop ∧
  TileStep Instr.tMac 0x01 opMac ∧
  TileStep Instr.tMpy 0x02 opMpy ∧
  TileStep Instr.tMac4 0x03 opMac4 ∧
  TileStep Instr.tMpy4 0x04 opMpy4 ∧
  TileStep Instr.tClra 0x05 opClra ∧
  TileStep Instr.tAdda 0x06 opAdda ∧
  TileStep Instr.tSha 0x07 opSha ∧
  TileStep Instr.tLda 0x08 opLda ∧
  TileStep Instr.tSth 0x09 opSth ∧
  TileStep Instr.tStl 0x0A opStl ∧
  TileStep Instr.tStg 0x0B opStg ∧
  TileStep Instr.tAdd 0x10 opAdd ∧
  TileStep Instr.tSub 0x11 opSub ∧
  TileStep Instr.tAdds 0x12 opAdds ∧
  TileStep Instr.tSubs 0x13 opSubs ∧
  TileStep Instr.tAnd 0x14 opAnd ∧
  TileStep Instr.tOr 0x15 opOr ∧
  TileStep Instr.tXor 0x16 opXor ∧
  TileStep Instr.tAsh 0x17 opAsh ∧
  TileStep Instr.tLsh 0x18 opLsh ∧
  TileStep Instr.tAbs 0x19 opAbs ∧
  TileStep Instr.tNeg 0x1A opNeg ∧
  TileStep Instr.tMin 0x1B opMin ∧
  TileStep Instr.tMax 0x1C opMax ∧
  TileStep Instr.tCls 0x1D opCls ∧
  TileStep Instr.tCmp 0x1E opCmp ∧
  TileStep Instr.tSel 0x1F opSel ∧
  TileStep Instr.tMov 0x20 opMov ∧
  TileStep Instr.tMovi 0x21 opMovi ∧
  TileStep Instr.tAddi 0x22 opAddi ∧
  TileStep Instr.tModi 0x23 opModi ∧
  TileStep Instr.tBxclr 0x24 opBxclr ∧
  TileStep Instr.tBxupd 0x25 opBxupd ∧
  TileStep Instr.tBr 0x30 opBr ∧
  TileStep Instr.tCall 0x31 opCall ∧
  TileStep Instr.tRet 0x32 opRet ∧
  TileStep Instr.tDbnz 0x33 opDbnz ∧
  TileStep Instr.tLoop 0x34 opLoop ∧
  TileStep Instr.tReti 0x35 opReti ∧
  TileStep Instr.tSwi 0x37 opSwi ∧
  (∀ (t : Fin 16) (n : Nat) (s : State) (k : Fin 64) (im : KernelImage) (w : DWord), s.nextIns t = some (k, im, w) → insOp w = 0x36 →
    (insSlots w).any (fun j => slotEn j && !im.inWindow (s.tiles.tiles[t].core.slotAddr j)) = false →
    let x := s.tiles.tiles[t]
    let y := s.tiles.kernels[k]
    let c := { x.core.afterSlots y.window (insSlots w) with cyc := x.core.cyc + 1 + x.core.stall im (insSlots w) }
    let m := (insSlots w).foldl (fun m j => x.core.slotStoreTo m j) y.window
    let u := ((s.setKernel k { y with window := m }).setTile t { x with core := c }).sticky t { core := c }
    (im.cycles < c.cyc → exec (.tEnd t n) s = .next u) ∧
    (c.cyc ≤ im.cycles → exec (.tEnd t n) s = .next ((u.commit t im).setTile t { (u.commit t im).tiles.tiles[t] with
      corrected := satN 65535 ((u.commit t im).tiles.tiles[t].corrected + n) })))

/-- The results and flags of tile arithmetic. ADD and SUB give the sum and difference modulo 2^32 with N the top bit, Z
zero, C the carry out of an addition and V signed overflow; ADDS and SUBS clamp to the signed 32-bit range and set the
saturation flag exactly where they clamp; an accumulator takes an exact result inside ±2^79 as it is, and outside it
raises guard overflow and takes the nearest end, or the value modulo 2^80 with MODE.wrap; CLS counts the sign bits less
one, 31 for 0 and for all ones. Where the rules leave a point open, the clauses follow the model's choice (log entry
39). (Derived from R246, R247, R248, R253, R255.) -/
def Obligations.TileAluResults : Prop :=
  (∀ a b : Word,
    (aluAdd a b false).val = a + b ∧ (aluSub a b false).val = a - b ∧
    (aluAdd a b false).n = (a + b).msb ∧ (aluAdd a b false).z = (a + b == 0) ∧ (aluSub a b false).z = (a == b) ∧
    (aluAdd a b false).c = decide (2 ^ 32 ≤ a.toNat + b.toNat) ∧
    (aluAdd a b false).v = decide (a.toInt + b.toInt < -(2 ^ 31) ∨ 2 ^ 31 ≤ a.toInt + b.toInt) ∧
    (aluSub a b false).v = decide (a.toInt - b.toInt < -(2 ^ 31) ∨ 2 ^ 31 ≤ a.toInt - b.toInt) ∧
    (aluAdd a b false).sat = false ∧
    (aluAdd a b true).val.toInt = max (-(2 ^ 31)) (min (2 ^ 31 - 1) (a.toInt + b.toInt)) ∧
    (aluSub a b true).val.toInt = max (-(2 ^ 31)) (min (2 ^ 31 - 1) (a.toInt - b.toInt)) ∧
    (aluAdd a b true).sat = decide (a.toInt + b.toInt < -(2 ^ 31) ∨ 2 ^ 31 ≤ a.toInt + b.toInt)) ∧
  (∀ (x : Int) (wrap : Bool),
    (accOf x wrap).2 = decide (x < -(2 ^ 79) ∨ 2 ^ 79 ≤ x) ∧
    (accOf x false).1.toInt = max (-(2 ^ 79)) (min (2 ^ 79 - 1) x) ∧
    (accOf x true).1 = BitVec.ofInt 80 x) ∧
  cls32 0 = 31 ∧ cls32 0xFFFFFFFF = 31 ∧ (∀ a : Word, cls32 a = cls32 (~~~a) ∧ cls32 a ≤ 31)

/-- What a tile instruction leaves as it was. Whatever a tile instruction does, even a kernel fault, it changes only its
own tile, the kernel that runs on it, the device notices and, with a kernel fault, the count of free values: every other
tile and kernel and every other part of the state is as it was, and the image and the binding of the running kernel too.
Where the rules leave a point open, the clauses follow the model's choice (log entry 39). (Derived from R255, R258,
R261, R265.) -/
def Obligations.TileFrame : Prop :=
  ∀ (t : Fin 16) (n : Nat) (s u : State), ∀ c ∈ [Instr.tNop t, .tMac t, .tMpy t, .tMac4 t, .tMpy4 t, .tClra t, .tAdda t, .tSha t, .tLda t, .tSth t, .tStl t, .tStg t, .tAdd t, .tSub t, .tAdds t, .tSubs t, .tAnd t, .tOr t, .tXor t, .tAsh t, .tLsh t, .tAbs t, .tNeg t, .tMin t, .tMax t, .tCls t, .tCmp t, .tSel t, .tMov t, .tMovi t, .tAddi t, .tModi t, .tBxclr t, .tBxupd t, .tBr t, .tCall t, .tRet t, .tDbnz t, .tLoop t, .tReti t, .tSwi t, .tEnd t n],
    exec c s = .next u →
    u = { s with tiles := u.tiles, free := u.free, host := { s.host with notices := u.host.notices, subs := u.host.subs } } ∧
    u.tiles.ctrl = s.tiles.ctrl ∧
    (∀ j : Fin 16, j ≠ t → u.tiles.tiles[j] = s.tiles.tiles[j]) ∧
    (∀ j : Fin 64, j ≠ f64 s.tiles.tiles[t].core.kernel → u.tiles.kernels[j] = s.tiles.kernels[j]) ∧
    (∀ j : Fin 64, u.tiles.kernels[j].image = s.tiles.kernels[j].image ∧ u.tiles.kernels[j].bind = s.tiles.kernels[j].bind)

/-- What activation, overrun and interrupt entry do on a tile. An idle tile whose arbiter has granted it takes the
activation that came first: its bound kernel starts at PC 0 with the mode and interrupt enables of its image, TST with
only interrupts enabled, BX 31 and no cycles, its input block in the window, and the other registers free values; an
activation that reaches its declared cycles ends without a commit and is counted, with the errors its reads corrected;
an interrupt that is due between instructions saves PC and TST, disables interrupts and enters the handler in 4 cycles.
Where the rules leave a point open, the clauses follow the model's choice (log entries 4 and 39). (Derived from R257,
R258, R263, R265.) -/
def Obligations.TileEventsComplete : Prop :=
  ∀ (t : Fin 16) (s : State),
    (∀ (k : Nat) (rest : List Nat) (im : KernelImage) (seq : Word) (block : List Word),
      s.tiles.tiles[t].busy = false → s.tiles.tiles[t].faulted = false → s.tiles.tiles[t].queue = k :: rest →
      s.holdsUnit (8 + t.val) 0 = true →
      s.tiles.kernels[f64 k].state = .bound → s.tiles.kernels[f64 k].image = some im →
      s.tiles.kernels[f64 k].waiting = some (seq, block) → im.holds im.inOff block.length = true →
      ∃ u, exec (.kernelActivation t) s = .next u ∧ u.tiles.tiles[t].busy = true ∧ u.tiles.tiles[t].queue = rest ∧
        u.tiles.tiles[t].core.pc = 0 ∧ u.tiles.tiles[t].core.mode = BitVec.ofNat 8 im.mode ∧
        u.tiles.tiles[t].core.ien = BitVec.ofNat 3 im.ien ∧ u.tiles.tiles[t].core.tst = 0x0200 ∧
        u.tiles.tiles[t].core.bx = 31 ∧ u.tiles.tiles[t].core.cyc = 0 ∧ u.tiles.tiles[t].core.kseq = seq ∧
        u.tiles.kernels[f64 k].waiting = none ∧
        u.tiles.kernels[f64 k].window = (numbered 0 block).foldl (fun m e => mput 0 m (im.inOff + e.1) e.2)
          s.tiles.kernels[f64 k].window) ∧
    ((s.tiles.tiles[t].busy || s.tiles.tiles[t].faulted || s.tiles.tiles[t].queue.isEmpty || !s.holdsUnit (8 + t.val) 0) = true →
      exec (.kernelActivation t) s = .next s) ∧
    (∀ im, s.tiles.kernels[f64 s.tiles.tiles[t].core.kernel].image = some im → s.tiles.tiles[t].busy = true →
      let x := s.tiles.tiles[t]
      let k := f64 x.core.kernel
      let y := s.tiles.kernels[k]
      (im.cycles ≤ x.core.cyc →
        exec (.kernelOverrun t) s = .next (((s.cutRun t).setKernel k { y with
          overruns := satN 255 (y.overruns + 1), valid := false, cycLast := satN 65535 x.core.cyc,
          cycMax := max y.cycMax (satN 65535 x.core.cyc) }).setTile t { (s.cutRun t).tiles.tiles[t] with
            busy := false, overrun := true })) ∧
      (x.core.cyc < im.cycles → x.core.interruptDue im = true →
        exec (.interruptEntry t) s = .next (s.setTile t { x with core := { x.core with
          ipc := w32 x.core.pc, istat := x.core.tst, tst := bvClr x.core.tst 9, pc := im.ivec,
          cyc := x.core.cyc + 4, inHandler := true } })))

/-- What the reference stage, the barrier timeout and MO_AUXCMD do. REFERENCE_STAGE, at a planning tick boundary,
latches the words written since the last one, takes every waiting motion command, applies it to its chains, runs the
segments of every chain, releases the barriers whose members have all come, plans the references of every chain and
completes the commands; between boundaries it does nothing. When the delay entry of a barrier runs at its timeout, in
cell time from the arrival of a member, every waiting member takes the barrier fault; before the timeout only the entry
goes, and without a due entry nothing happens. A valid MO_AUXCMD is the new target of its auxiliary axis, an invalid one
changes nothing. Where the rules leave a point open, the clauses follow the model's choice (log entries 10, 34 and 50).
(Derived from R154, R158, R159, R160, R166, R167, R170, R171, R176.) -/
def Obligations.MotionEventsComplete : Prop :=
  ∀ s : State,
    (s.onGrid 1000000 0 = true →
      let t := s.latchDue.takeOver.enterBracket
      let a := foldOn (List.range 16) (t.setMotion { t.motion with cmds := [] }) (fun u c => u.applyCmds t.motion (f16 c))
      let b := (foldOn (List.range 16) a (fun u c => u.stageOne (f16 c))).releaseAll
      let p := b.theCell.chains.foldl (fun u r => u.replan (f16 r.chain) r) b
      let c := (foldOn (List.range 16) p (fun u c => u.setForces (f16 c))).newReferences
      let d := t.motion.cmds.foldl (fun u x => u.completeCmd x) c
      exec .referenceStage s = .next (foldOn (List.range 16) d (fun u c => u.startBrakeTest (f16 c))).readmitNodes) ∧
    (s.onGrid 1000000 0 = false → exec .referenceStage s = .next s) ∧
    (∀ (c : Fin 16) (r : List Byte), s.motion.chains[c].atBarrier = some r →
      s.expired (DelayEntry.ofUser 7 c.val) = true →
      let u := s.entryRun (DelayEntry.ofUser 7 c.val)
      let mem := (maskBits 16 (barMask r)).filter (fun m => u.hasReached m (barId r) (barMask r))
      let late := fun m : Nat => ∃ o a, s.motion.chains[f16 m].current = some o ∧ s.motion.chains[f16 m].arrived = some a ∧
        barTimeout o ≠ 0 ∧ a + barTimeout o * 1000000 ≤ s.time.cellNs
      ((∃ m ∈ mem, late m) → exec (.barrierTimeout c) s = .next (foldOn mem u (fun u m => u.barrierOut (f16 m)))) ∧
      ((∀ m ∈ mem, ¬ late m) → exec (.barrierTimeout c) s = .next u)) ∧
    (∀ c : Fin 16, s.expired (DelayEntry.ofUser 7 c.val) = false → exec (.barrierTimeout c) s = .next s) ∧
    (∀ (k : Fin 32) (v : Word), s.theCell.auxCmdOk k.val v = false → exec (.moAuxcmd k v) s = .next s) ∧
    (∀ (k : Fin 32) (v : Word), s.theCell.auxCmdOk k.val v = true →
      exec (.moAuxcmd k v) s = .next (s.setMotion { s.motion with auxCmd := s.motion.auxCmd.set k v }))

/-- What setpoints, loop batches, missed cut-offs and ARM do. 2 µs before a shutter instant SETPOINT_EVALUATION puts the
setpoint of the instant into its axis, the old one becoming the previous; a batch of a drive node occupies the engines
of all its axes and evaluates the loops of every axis of the node on its latest accepted copy, and activates in
ascending order the kernels bound to the loops whose sample came in time; a cut-off that passes without valid feedback
of a healthy axis is a miss of the slot, and of a primary also a step of the handover of its group; on a faulted axis
the missing sample is counted off and keeps a missed-feedback cause in place, and on an axis under brake test it is
counted off; ARM arms the capture of its engine. Where the rules leave a point open, the clauses follow the model's
choice (log entry 35). (Derived from R165, R177, R181, R193, R195, R198.) -/
def Obligations.LoopEventsComplete : Prop :=
  ∀ s : State,
    (∀ (a : Fin 160) (r : Fin 4), s.cellOn = true → s.ringOfAxis a.val = some r → s.shutterOf r ≤ s.stamp + 2000 →
      (s.stamp + 2000 - s.shutterOf r) % s.servo = 0 →
      let sp := s.setpointAt a (w32 ((s.stamp + 2000 - s.shutterOf r) / s.servo)) (s.stamp + 2000)
      let x := s.loops.axes[a]
      let t := s.setAxis a { x with
        setPrev := x.setCur, setCur := some sp, vff := sw sp.vff, tff := if s.suspended a.val then x.tff else sw sp.tff }
      exec (.setpointEvaluation a) s = .next ((t.setFree (s.free + 3)).coeffsWhileFaulted a.val (s.stamp + 2000))) ∧
    (∀ (a : Fin 160) (r : Fin 4), (s.cellOn = false ∨ s.stamp + 2000 < s.shutterOf r ∨
        (s.stamp + 2000 - s.shutterOf r) % s.servo ≠ 0) → s.ringOfAxis a.val = some r →
      exec (.setpointEvaluation a) s = .next s) ∧
    (∀ (k : Nat) (n : NodeRec) (seq : Word) (bs : List Byte), s.cellOn = true → s.theCell.nodes[k]? = some n → n.kind = 0 →
      (mget {} s.rings[f4 n.ring].nodes n.hop).data = some (seq, false, bs) →
      let at_ := s.cycleStart seq + s.shutterOf (f4 n.ring)
      let axes := n.axisList.take n.naxes
      let fed := axes.filter (fun a => !s.loops.axes[f160 a].fault && !s.suspended a)
      let loops := (axes.flatMap (fun a => s.freshSlots a seq)).map (fun p => s.loops.engines[f16 p.1].slots[f32i p.2].loop)
      exec (.loopBatch k) s = .next ((axes.foldl (fun u a =>
        u.axisBatch a (axisIn bs (axisOffset n a)) seq at_) (s.spans (fed.flatMap (fun a => s.batchSlots a seq)))).activateLoops
          n loops seq bs)) ∧
    (∀ (k : Nat) (n : NodeRec) (seq : Word) (bs : List Byte), s.theCell.nodes[k]? = some n →
      (mget {} s.rings[f4 n.ring].nodes n.hop).data = some (seq, true, bs) → exec (.loopBatch k) s = .next s) ∧
    (∀ (e : Fin 16) (k : Fin 32) (r : Fin 4) (n : Nat) (q : Word),
      let l := s.loops.engines[e].slots[k]
      let x := s.loops.axes[f160 l.axis]
      l.valid = true → s.loops.engines[e].faulted = false → s.loops.engines[e].masked = false →
      s.ringOfAxis l.axis = some r → s.rings[r].state = .run → s.suspended l.axis = false →
      s.pastCutoff (s.cutoffOffset l.loop l.axis) = some n → l.missed n = some q →
      (x.fault = false → exec (.loopCutoffMiss e k) s = .next (if l.primary && l.copy == 0
        then (s.slotMiss e k q).advanceHandover l.key else s.slotMiss e k q)) ∧
      (x.fault = true → exec (.loopCutoffMiss e k) s = .next ((s.setSlot e k { l with lastSeq := some q }).setAxis
        (f160 l.axis) { x with causeHolds := x.causeHolds || x.cause == 1 }))) ∧
    (∀ (e : Fin 16) (k : Fin 32) (r : Fin 4) (n : Nat) (q : Word),
      let l := s.loops.engines[e].slots[k]
      l.valid = true → s.loops.engines[e].faulted = false → s.loops.engines[e].masked = false →
      s.ringOfAxis l.axis = some r → s.rings[r].state = .run → s.suspended l.axis = true →
      s.pastCutoff (s.cutoffOffset l.loop l.axis) = some n → l.missed n = some q →
      exec (.loopCutoffMiss e k) s = .next (s.setSlot e k { l with lastSeq := some q })) ∧
    (∀ (e : Fin 16) (k : Fin 32),
      let l := s.loops.engines[e].slots[k]
      (l.valid = false ∨ s.pastCutoff (s.cutoffOffset l.loop l.axis) = none ∨
        ∃ n, s.pastCutoff (s.cutoffOffset l.loop l.axis) = some n ∧ l.missed n = none) →
      exec (.loopCutoffMiss e k) s = .next s) ∧
    (∀ e : Fin 16, exec (.arm e) s = .next (s.setEngine e { s.loops.engines[e] with
      trace := s.loops.engines[e].trace.arm s.cell.generation }))

/-- What the start-up and slot events of a ring do. The window of LISTEN ends in a COLDSTART of the device when no other
device was heard and opens again when one was, that of COLDSTART ends in RANGING, and that of BACKOFF in a new
COLDSTART, or in RANGING behind the partner that a twin device heard. A frame that fails a check is forwarded by device
1 of a twin all the same and only counted. Another device is heard by its COLDSTART; the own one with more than 254 hops
fails a ring in RANGING. A reply of the polled hop gives its delay from arrival, departure and turn-around, and the next
poll goes out; a hop that never replies is absent. At the announced boundary a ring in CONFIG is in RUN, with its nodes
in CONFIG. A valid frame goes to its own rule: the device's own, a range reply, another device's, or a copy of a node. A
scheduled node whose cycle is still open at its deadline is settled as lost, which misses its delivery if no copy was
taken. At its slot the device sends the frame of its cycle with the management code due, or NULL with none, and the
SERVICE slot is set; in PAIRED the SUMMARY of the cycle follows, and the digest once the SUMMARY of the partner is there
too; after 1,024 cycles the loop delays are the means of the round. Where the rules leave a point open, the clauses
follow the model's choice (log entries 32 and 33). (Derived from R112, R116, R121, R127, R128, R133, R138, R141, R143,
R144, R145.) -/
def Obligations.RingEventsComplete : Prop :=
  ∀ (r : Fin 4) (s : State),
    (let x := s.rings[r]
     let w := s.windowNs
     (x.state = .listen →
      (s.now < x.windowAt + w → exec (.ringWindowExpiry r) s = .next s) ∧
      (x.windowAt + w ≤ s.now → exec (.ringWindowExpiry r) s = .next (if x.heard
        then s.setRing r { x with windowAt := s.now, heard := false } else s.enterCold r))) ∧
     (x.state = .coldstart →
      (s.now < x.windowAt + w → exec (.ringWindowExpiry r) s = .next s) ∧
      (x.windowAt + w ≤ s.now → exec (.ringWindowExpiry r) s = .next (s.enterRanging r true))) ∧
     (x.state = .backoff →
      (s.ringMember = false →
        (s.now < x.collidedAt + w → exec (.ringWindowExpiry r) s = .next s) ∧
        (x.collidedAt + w ≤ s.now → exec (.ringWindowExpiry r) s = .next (s.enterCold r))) ∧
      (s.ringMember = true →
        (s.now < x.collidedAt + 3 * w → exec (.ringWindowExpiry r) s = .next s) ∧
        (x.collidedAt + 3 * w ≤ s.now → exec (.ringWindowExpiry r) s = .next (if x.heard
          then s.enterRanging r false else s.enterCold r)))) ∧
     ((x.state = .ranging ∨ x.state = .config ∨ x.state = .run ∨ x.state = .down) →
      exec (.ringWindowExpiry r) s = .next s)) ∧
    (∀ (b ok : Bool) (bytes : List Byte) (e : Nat × Nat), s.ringCheck r ok bytes = .error e →
      exec (.coldstart r b ok bytes) s = .next ((s.ringForward r b bytes).ringError r e.1 e.2)) ∧
    (∀ (b ok : Bool) (bytes h : List Byte), s.ringCheck r ok bytes = .ok h → byteAt h 0 % 16 = 5 →
      let t := s.ringForward r b bytes
      let u := t.setRing r { t.rings[r] with hopCount := byteAt h 19 }
      (s.ownSource r bytes = false → exec (.coldstart r b ok bytes) s = .next (t.hearDevice r true)) ∧
      (s.ownSource r bytes = true → (byteAt h 1).testBit 0 = true → exec (.coldstart r b ok bytes) s = .next t) ∧
      (s.ownSource r bytes = true → (byteAt h 1).testBit 0 = false → exec (.coldstart r b ok bytes) s = .next
        (if 254 < byteAt h 19 ∧ u.rings[r].state = .ranging then u.ringDown r (some .ringFailure) 1 else u))) ∧
    (∀ (b ok : Bool) (f : Fin 20) (bytes : List Byte) (e : Nat × Nat), s.ringCheck r ok bytes = .error e →
      exec (.rangeRsp r b f ok bytes) s = .next ((s.ringForward r b bytes).ringError r e.1 e.2)) ∧
    (∀ (b ok : Bool) (f : Fin 20) (bytes h : List Byte) (rec : NodeRec), s.ringCheck r ok bytes = .ok h →
      byteAt h 0 % 16 = 4 → s.rings[r].starter = true → s.rings[r].state = .ranging → s.rings[r].activateAt = none →
      s.rings[r].configQ = [] → byteAt h 2 = s.rings[r].pollHop → s.rings[r].pollConf = false →
      s.theCell.nodes[(s.rings[r].hop (byteAt h 2)).node]? = some rec → leAt bytes 6 6 = rec.mac.toNat →
      let t := s.ringForward r b bytes
      let turn : Int := if u32 h 8 = 0xFFFFFFFF then 0 else u32 h 8
      let d := ((s.laneIn r b f.val - s.rings[r].pollDep - 5 * turn) / 10).toNat
      let n := s.rings[r].hop (byteAt h 2)
      exec (.rangeRsp r b f ok bytes) s = .next ((t.putHop r (byteAt h 2) (if s.rings[r].pollB
        then { n with delB := some d } else { n with delA := some d })).nextPoll r)) ∧
    (s.rings[r].starter = true → (s.rings[r].state = .ranging ∨ s.rings[r].state = .config) →
      s.rings[r].activateAt = none → s.rings[r].configQ = [] → s.twinMode = false →
      let n := s.rings[r].hop s.rings[r].pollHop
      let due := s.rings[r].pollAt + (2 * s.cell.placement.rings[r].lPlan + 10000)
      (s.now < due → exec (.rangePollTimeout r) s = .next s) ∧
      (due ≤ s.now → exec (.rangePollTimeout r) s = .next ((if s.rings[r].pollConf = false ∧ s.rings[r].pollB = true ∧
          n.delA = none ∧ n.delB = none ∧ n.state = .ranging
        then s.putHop r s.rings[r].pollHop { n with state := .absent } else s).nextPoll r))) ∧
    (∀ t, s.rings[r].activateAt = some t →
      (s.rings[r].state = .config → t ≤ s.stamp →
        exec (.ringActivateBoundary r) s = .next ((s.setRing r { s.rings[r] with
          state := .run, activateAt := none, collisions := 0, adv := s.cell.placement.rings[r].adv
          nodes := s.rings[r].nodes.map (fun e =>
            (e.1, if e.2.state = .config then { e.2 with state := .run, run := 0 } else e.2))
          head := s.rings[r].starter, missA := 0, missB := 0, backRun := 0, ownData := [], backA := [], backB := [], broken := false
          breakHop := 0xFF
          }).notice .ringRun r.val 0)) ∧
      ((s.rings[r].state ≠ .config ∨ s.stamp < t) → exec (.ringActivateBoundary r) s = .next s)) ∧
    (s.rings[r].activateAt = none → exec (.ringActivateBoundary r) s = .next s) ∧
    (∀ (b ok : Bool) (f : Fin 20) (bytes : List Byte) (e : Nat × Nat), s.ringCheck r ok bytes = .error e →
      exec (.nodeFrame r b f ok bytes) s = .next ((s.ringForward r b bytes).ringError r e.1 e.2)) ∧
    (∀ (b ok : Bool) (f : Fin 20) (bytes h : List Byte), s.ringCheck r ok bytes = .ok h →
      let t := s.ringForward r b bytes
      let at_ := s.laneIn r b f.val
      (s.ownSource r bytes = true → exec (.nodeFrame r b f ok bytes) s = .next (t.ownFrame r at_ h)) ∧
      (s.ownSource r bytes = false → byteAt h 0 % 16 = 4 →
        exec (.nodeFrame r b f ok bytes) s = .next (t.takeRangeRsp r at_ bytes h)) ∧
      (s.ownSource r bytes = false → byteAt h 0 % 16 ≠ 4 → byteAt h 3 = 0 →
        exec (.nodeFrame r b f ok bytes) s = .next (t.deviceFrame r b at_ h)) ∧
      (s.ownSource r bytes = false → byteAt h 0 % 16 ≤ 1 → byteAt h 3 ≠ 0 → s.rings[r].state = .run →
        ((s.rings[r].hop (byteAt h 3)).state = .run ∨ (s.rings[r].hop (byteAt h 3)).state = .rerange) →
        (u16 h 20 = s.rings[r].gen.toNat % 65536 →
          exec (.nodeFrame r b f ok bytes) s = .next (t.nodeCopy r b at_ h)) ∧
        (u16 h 20 ≠ s.rings[r].gen.toNat % 65536 →
          exec (.nodeFrame r b f ok bytes) s = .next (t.ringError r 23 16)))) ∧
    (∀ (hop q : Nat), s.rings[r].state = .run → (s.rings[r].hop hop).scheduled = true →
      s.deadlineCycle r (s.rings[r].hop hop) = some q →
      (∀ c, (s.rings[r].hop hop).cycle = some c → c = w32 q ∨ 2 ^ 31 ≤ (c - w32 q).toNat) →
      let t := if (s.rings[r].hop hop).cycle = some (w32 q) then s else s.newCycle r hop (w32 q)
      let n := t.rings[r].hop hop
      (n.scheduled = true → n.live = true → n.final = false → exec (.slotLostDeadline r hop) s = .next
        (t.settleCycle r hop)) ∧
      ((n.scheduled = false ∨ n.live = false ∨ n.final = true) → exec (.slotLostDeadline r hop) s = .next t)) ∧
    (∀ hop : Nat, (s.rings[r].state ≠ .run ∨ (s.rings[r].hop hop).scheduled = false ∨
        s.deadlineCycle r (s.rings[r].hop hop) = none) → exec (.slotLostDeadline r hop) s = .next s) ∧
    (let o := s.shutterOf r + s.outSlot r
     let d := s.cell.placement.rings[r]
     (s.rings[r].state = .run → s.cellOn = true → o ≤ s.stamp → s.onGrid s.servo (o % s.servo) = true →
      let seq := (s.stamp - o) / s.servo
      let head := seq * s.servo + o
      let t := s.checkReturn r
      let null := t.sendsNull
      let code := match t.rings[r].mgmt with
        | [] => (0, 0, [])
        | (c, h, k) :: m => if null then (0, 0, t.rings[r].mgmt) else (c, h, if 1 < k then (c, h, k - 1) :: m else m)
      let u := t.setRing r { t.rings[r] with
        mgmt := code.2.2, cycle := w32 seq, ownData := (if null then t.rings[r].ownData else t.rings[r].ownData ++ [(head, w32 seq)])
        serviceAt := some (seq * s.servo + s.shutterOf r + d.window, w32 seq)
        sentB := if t.twinMode && !t.ringMember && t.rings[r].partner
          then (20 * ((head + d.outLen : Nat) : Int) :: t.rings[r].sentB).take 8 else t.rings[r].sentB }
      let v := (u.sendCopies r ⟨b2n null, code.1, w32 seq, head, seq % t.phaseCount, code.2.1, t.rings[r].gen.toNat⟩
        (if null then [] else u.outputPayload r seq)).endCmds r
      let key := r.val + 4 * (seq % 2 ^ 32)
      let areas := if null then [] else v.outputAreas r seq
      exec (.deviceOutputFrame r) s = .next (if v.twin.state = .paired
        then let w := v.sendSummary r (w32 seq)
          (w.setTwin { w.twin with sent := ((key, areas) :: w.twin.sent).take 32 }).sendDigest key
        else v)) ∧
     ((s.rings[r].state ≠ .run ∨ s.cellOn = false ∨ s.stamp < o ∨ s.onGrid s.servo (o % s.servo) = false) →
      exec (.deviceOutputFrame r) s = .next s)) ∧
    (s.rings[r].state = .run → s.onGrid s.servo 0 = true → s.seqNo % 1024 = 0 →
      let mean := fun (u : Nat × Nat) => if u.2 = 0 then (0xFFFFFFFF : Word) else w32 (u.1 / u.2)
      ∃ u, exec (.rangingRound r) s = .next u ∧ u.rings[r].loopA = mean s.rings[r].sumA ∧
        u.rings[r].loopB = mean s.rings[r].sumB ∧ u.rings[r].sumA = (0, 0) ∧ u.rings[r].sumB = (0, 0) ∧
        u.rings[r].state = .run ∧ ∀ o : Fin 4, o ≠ r → u.rings[o] = s.rings[o]) ∧
    ((s.rings[r].state ≠ .run ∨ s.onGrid s.servo 0 = false ∨ s.seqNo % 1024 ≠ 0) → exec (.rangingRound r) s = .next s)

/-- What the events of the dispatcher and its arbiters do. At a 1 µs tick every delay entry that is due is enqueued in
insertion order, the late ones counted, and the ready lists and slots of the workers are filled; between ticks nothing
happens. A round takes the new requests of an arbiter and grants, and a masked unit refuses all; the class word of a
requester other than 5 and 6 is set. A background task whose limit has passed on a unit is counted and promoted once, or
counted and reported for the re-calibration of a lane. A step of a task that holds its unit, or stands in a slot of its
core, completes: the slot is free again, the errors it corrected are counted where they were found, and the arbiter of
the unit has its preemption point; without the unit nothing happens. Where the rules leave a point open, the clauses
follow the model's choice (log entries 50, 51 and 52). (Derived from R279, R281, R282, R284, R285, R286, R287, R288.) -/
def Obligations.DispatcherEventsComplete : Prop :=
  ∀ s : State,
    (s.onGrid 1000 0 = true →
      let due := fun (e : DelayEntry) => decide (e.tick * 1000 ≤ s.time.cellNs)
      exec .delayTick s = .next (s.setDisp { s.disp with
        delay := s.delayList.filter (fun e => !due e), fired := s.disp.fired ++ s.delayList.filter due
        late := bump s.disp.late 31 16 ((s.delayList.filter due).filter (fun e => decide (e.tick * 1000 + 1000 < s.time.cellNs))).length
        }).dispatch) ∧
    (s.onGrid 1000 0 = false → exec .delayTick s = .next s) ∧
    (∀ (i : Fin 25) (reqs : List (Fin 8)) (rel : Bool),
      (s.unitMasked i.val = true → exec (.arbitrationRound i reqs rel) s =
        .next (s.setArb i.val { s.arb i.val with holder := none, waiting := [] })) ∧
      (s.unitMasked i.val = false → exec (.arbitrationRound i reqs rel) s = .next (s.setArb i.val
        ((reqs.foldl (fun a r => s.newRequest i.val a r.val) (s.newClasses i.val (s.arb i.val))).round rel)))) ∧
    (∀ (r : Fin 8) (cls : BitVec 2), r ≠ 5 → r ≠ 6 → exec (.abMemcls r cls) s = .next (s.setMemcls r cls)) ∧
    (∀ (r : Fin 8) (cls : BitVec 2), (r = 5 ∨ r = 6) → exec (.abMemcls r cls) s = .next s) ∧
    (∀ (b : Fin 6) (u : Fin 25),
      let d := s.disp
      let key := 32 * b.val + u.val
      let due := d.lastOf b.val u.val + fld d.bg[b] 31 20 * 1000000
      ((taskUnit b.val u.val = false ∨ d.enabled b = false ∨ s.now < due) →
        exec (.backgroundPromotion b u) s = .next s) ∧
      (taskUnit b.val u.val = true → d.enabled b = true → due ≤ s.now →
        (b.val = 3 → exec (.backgroundPromotion b u) s = .next ((s.setDisp { d with
          bg := d.bg.set b (bump d.bg[b] 7 0 1), lastStep := mput 0 d.lastStep key s.now }).notice .recalMissed u.val 0)) ∧
        (b.val ≠ 3 → d.promoted.contains key = true → exec (.backgroundPromotion b u) s = .next s) ∧
        (b.val ≠ 3 → d.promoted.contains key = false →
          let t := s.setDisp { d with bg := d.bg.set b (bump d.bg[b] 15 8 1), promoted := d.promoted ++ [key] }
          exec (.backgroundPromotion b u) s = .next (if onCore b.val u.val = true then t else t.askUnit u.val (requesterFor b.val))))) ∧
    (∀ (b : Fin 6) (u : Fin 25) (n : Nat),
      let d := s.disp
      let key := 32 * b.val + u.val
      let core := onCore b.val u.val = true
      let holds := (b.val = 3 ∧ s.laneIdle u.val = true) ∨ (b.val ≠ 3 ∧ core ∧ d.current (.task b.val u.val) = true) ∨
        (b.val ≠ 3 ∧ ¬ core ∧ s.holdsUnit u.val (requesterFor b.val) = true)
      ((taskUnit b.val u.val = false ∨ d.enabled b = false ∨ ¬ holds) →
        exec (.backgroundStep b u n) s = .next s) ∧
      (taskUnit b.val u.val = true → d.enabled b = true → holds →
        let done := fun (v : Worker) => { v with cur := v.cur.filter (fun c => decide (c.1.target ≠ .task b.val u.val)) }
        let t := (s.setDisp { d with
          lastStep := mput 0 d.lastStep key s.now, promoted := d.promoted.filter (· != key)
          workers := d.workers.map done }).scrubbed b.val u.val n
        ((b.val = 3 ∨ core) → exec (.backgroundStep b u n) s = .next t) ∧
        (b.val ≠ 3 → ¬ core → exec (.backgroundStep b u n) s = .next (t.stepDone u.val (requesterFor b.val)))))

/-- What the image swap, the rule pass, the Developer tick and the other events of the plane do. IMAGE_SWAP at a servo
cycle boundary writes the trace rows, takes a new rule table and window in force at an I/O cycle boundary, puts the
deliveries, misses, due point commands and removals that wait into the back image, the last start of a point governing,
makes it the front image, completes the commands and activates what the changed points start; before NIBBLE is ready it
writes the trace rows alone; RULE_PASS 1 µs after a boundary evaluates the rules of the next phase group; DEVELOPER_TICK
releases every event whose window has passed and every late one, in key order; a window of 2 to 200 is taken.
EVT_HOLD_EXPIRY, where its delay entry is due, completes the first armed packet of a subscription with the records that
fit, when the next would not fit or the oldest was released 1 ms ago, and says how many events were dropped, which an
active device of a pair also tells its standby; with nothing armed, nothing held or neither reached, and on a standby,
only the entry goes. Where the rules leave a point open, the clauses follow the model's choice (log entries 38 and 50).
(Derived from R65, R80, R293, R296, R302, R309, R310, R312.) -/
def Obligations.NibbleEventsComplete : Prop :=
  ∀ s : State,
    (s.isReady rdNibble = true → s.onGrid s.servo 0 = true →
      let t := s.traceRows
      let io := t.onGrid 1000000 0
      let table := if io then t.nibble.rulesNext else none
      let a := t.setNibble { t.nibble with
        windowIn := if io then t.nibble.window else t.nibble.windowIn
        rules := (table.map (·.1)).getD t.nibble.rules
        rulesNext := if io then none else t.nibble.rulesNext }
      let b := match table with
        | some (rs, q, tag) => a.finishTag q tag ⟨stOk, w32 rs.length, 0⟩
        | none => a
      let moved := b.nibble.missed.foldl State.swapMiss (b.nibble.deliveries.foldl State.swapDelivery
        (b.setNibble { b.nibble with deliveries := [], missed := [] }))
      let now := moved.nibble.cmds.filter moved.cmdDue
      let v := moved.setNibble { (governing now).foldl (fun (x : NibbleSt) m => x.applyCmd t.theCell m) moved.nibble with
        cmds := moved.nibble.cmds.filter (fun m => !moved.cmdDue m) }
      let x := v.nibble.clearRemoved t.theCell
      let u := v.setNibble { x with
        front := x.back, frontWas := x.front, frontSeq := v.stamp / v.servo
        iocyc := if io then w32 (v.stamp / 1000000) else x.iocyc }
      exec .imageSwap s = .next ((now.foldl (fun u m => u.finishTag m.queue m.tag ⟨stOk, w32 m.recs.length, 0⟩) u).activatePoints
        (b.nibble.deliveries ++ b.nibble.missed))) ∧
    (s.onGrid s.servo 0 = true → s.isReady rdNibble = false → exec .imageSwap s = .next s.traceRows) ∧
    (s.onGrid s.servo 0 = false → exec .imageSwap s = .next s) ∧
    (s.cellOn = true → s.isReady rdNibble = true → s.onGrid s.servo 1000 = true →
      let rs := s.nibble.rules.filter (fun r => s.inGroup r ((s.seqNo + 1) % s.phaseCount))
      let x := s.nibble.pass s.theCell rs []
      exec .rulePass s = .next (s.setNibble { x with passMax := satN 16383 (max x.passMax (64 + ceilDiv rs.length 8)) })) ∧
    ((s.cellOn = false ∨ s.isReady rdNibble = false ∨ s.onGrid s.servo 1000 = false) → exec .rulePass s = .next s) ∧
    (s.isReady rdNibble = true → s.onGrid 1000 0 = true →
      let due := fun (e : Ev) => decide (e.stamp + s.nibble.windowIn * 10000 ≤ s.stamp)
      exec .developerTick s = .next ((s.nibble.lateQ.foldr insertEv (s.nibble.store.filter due)).foldl (fun u e => u.release e)
        (s.setNibble { s.nibble with store := s.nibble.store.filter (fun e => !due e), lateQ := [] }))) ∧
    ((s.isReady rdNibble = false ∨ s.onGrid 1000 0 = false) → exec .developerTick s = .next s) ∧
    (∀ w : BitVec 8, 2 ≤ w.toNat → w.toNat ≤ 200 → exec (.npDev w) s = .next (s.setWindow w.toNat)) ∧
    (∀ w : BitVec 8, (w.toNat < 2 ∨ 200 < w.toNat) → exec (.npDev w) s = .next s) ∧
    (∀ k : Fin 16, s.expired (DelayEntry.ofUser 5 k.val) = false → exec (.evtHoldExpiry k) s = .next s) ∧
    (∀ k : Fin 16, s.expired (DelayEntry.ofUser 5 k.val) = true →
      (s.isStandby = true ∨ s.armed k.val = [] ∨ (s.host.subs[k]).held = []) →
      exec (.evtHoldExpiry k) s = .next (s.entryRun (DelayEntry.ofUser 5 k.val))) ∧
    (∀ (k : Fin 16) (p : Pkt) (ps : List Pkt) (e : EvRec) (es : List EvRec), s.armed k.val = p :: ps →
      s.expired (DelayEntry.ofUser 5 k.val) = true → s.isStandby = false →
      let t := s.entryRun (DelayEntry.ofUser 5 k.val)
      (s.host.subs[k]).held = e :: es →
      let b := s.host.subs[k]
      let take := armedTake p.p1.toNat b.held 0
      let size := (take.map (fun r => r.bytes.length)).sum
      let more := ((b.held.drop take.length).head?.map (fun r => r.bytes.length)).getD
        ((take.getLast?.map (fun r => r.bytes.length)).getD 0)
      ((p.p1.toNat < size + more ∨ e.released + 1000000 ≤ s.time.cellNs) → exec (.evtHoldExpiry k) s =
        .next (let v := t.setSub k { b with held := b.held.drop take.length, dropped := 0 }
          (if v.pairActive then v.sendBenjo 6 ([5, BitVec.ofNat 8 k.val, 0, 0] ++ leBytes 2 take.length ++ [0, 0]) else v).finishN 17 p
          ⟨stOk, w32 take.length, w32 b.dropped⟩ (take.flatMap (·.bytes)) (decide (b.dropped ≠ 0)) [])) ∧
      (size + more ≤ p.p1.toNat → s.time.cellNs < e.released + 1000000 → exec (.evtHoldExpiry k) s = .next t))

/-- What the safe inputs, test pulses, the E-stop and SRST_N do. A change of an enabled line that has held for its
filter samples is taken at a 250 µs point and the functions are judged again; a second change that stays out beyond the
discrepancy time faults the input; a wrong level 125 µs after a sample point faults its input; a scheduled output test
pulse of an enabled line is emitted, noted and, where the readback is wrong, enters the stop bath with cause 8; a right
one clears the line, as does a line of a pair that is off and reads low; a change that makes the E-stop active enters
the stop bath with cause 9. Each channel filters SRST_N at its 250 µs points: a press of two samples begins and one of a
single sample does not, a channel whose first sample since it started is low holds the boot flag, and a filtered release
leaves in its channel what the press was, 0 for 100 ms to 3,000 ms, reason 1 or 2 outside and reason 4 while a stuck
flag is set; a press of 30 s is stuck and reported, and 100 ms of high in both channels clears both flags and makes the
press of a function possible again. An event whose condition is not met changes nothing. That an output line which
passes is no longer at fault is the model's choice (log entry 14). Where the rules leave a point open, the clauses
follow the model's choice (log entries 10, 11 and 14). (Derived from R320, R321, R322, R323, R324, R332, R333, R334.) -/
def Obligations.SafetyInputEventsComplete : Prop :=
  ∀ s : State,
    (∀ (i : Fin 16) (lineB level : Bool) (n : Nat), bitAt s.safety.sinCfg[i] 31 = true → s.onGrid 250000 0 = true →
      fld s.safety.sinCfg[i] 26 23 + 1 ≤ n →
      (if lineB then s.safety.sins[i].lineB else s.safety.sins[i].lineA) ≠ level →
      let w := s.safety.sinCfg[i]
      exec (.safeInputChange i lineB level n) s = .next (s.setSafety { s.safety with
        sins := s.safety.sins.set i (s.safety.sins[i].change lineB level (bitAt w 30) (fld w 22 13 * 1000000) s.time.cellNs) }).evalFuncs) ∧
    (∀ (i : Fin 16) (lineB level : Bool) (n : Nat), (bitAt s.safety.sinCfg[i] 31 = false ∨ s.onGrid 250000 0 = false ∨
        n < fld s.safety.sinCfg[i] 26 23 + 1 ∨
        (if lineB then s.safety.sins[i].lineB else s.safety.sins[i].lineA) = level) →
      exec (.safeInputChange i lineB level n) s = .next s) ∧
    (∀ (i : Fin 16) (t : Nat), s.safety.sins[i].since = some t →
      t + fld s.safety.sinCfg[i] 22 13 * 1000000 + 250000 ≤ s.time.cellNs →
      exec (.discrepancyTimeout (some i)) s = .next (s.setSafety { s.safety with
        sins := s.safety.sins.set i (s.safety.sins[i].fault (bitAt s.safety.sinCfg[i] 30) 1) }).evalFuncs) ∧
    (∀ i : Fin 16, (∀ t, s.safety.sins[i].since = some t →
        s.time.cellNs < t + fld s.safety.sinCfg[i] 22 13 * 1000000 + 250000) →
      exec (.discrepancyTimeout (some i)) s = .next s) ∧
    (∀ t : Nat, s.safety.estop.since = some t → t + fld s.safety.estopCfg 30 21 * 1000000 + 50000 ≤ s.time.cellNs →
      exec (.discrepancyTimeout none) s = .next (s.setSafety { s.safety with estop := s.safety.estop.fault false 1 })) ∧
    (∀ (k : Fin 4) (a b : BitVec 16), s.onGrid 100000000 (k.val * 250000 + 125000) = true →
      let bad := fun (i : Nat) =>
        let w := s.safety.sinCfg[f16 i]
        let p := s.safety.sins[f16 i]
        let wrong := fun (filtered : Bool) (t : Nat) (level : Bool) => filtered && s.tpulse t != level
        bitAt w 31 && bitAt w 29 &&
          (wrong p.lineA (fld w 28 27) (a.getLsbD i) || wrong p.lineB ((fld w 28 27 + 1) % 4) (b.getLsbD i))
      exec (.testPulseCheck k a b) s = .next (foldOn ((List.range 16).filter bad) s (fun u i => u.setSafety { u.safety with
        sins := vmod u.safety.sins (f16 i) (fun p => p.fault (bitAt u.safety.sinCfg[f16 i] 30) 2) })).evalFuncs) ∧
    (∀ (p : Fin 16) (lineB : Bool) (ch : Fin 2) (high low : Bool),
      let own := if ch.val = 0 then s.safety.ch1Ok else s.safety.ch2Ok
      let others := s.safety.outFaults.filter (fun o => o != (p.val, lineB))
      let key := (p.val, lineB, ch.val)
      let noted := fun (l : List (Nat × Bool)) => (s.setSafety { s.safety with
        outTests := (key, s.testInterval, s.tickNo) :: s.safety.outTests.filter (fun t => t.1 != key)
        outFaults := l }).emit (.darkPulse p.val lineB ch.val (fld s.safety.otest 23 12))
      (own = true → s.stoOn p = true → s.mayPulse p.val lineB ch.val = true →
        ((high || low) = true → exec (.outputTestPulse p lineB ch high low) s =
          .next ((noted (others ++ [(p.val, lineB)])).enterBath 8)) ∧
        ((high || low) = false → exec (.outputTestPulse p lineB ch high low) s = .next (noted others))) ∧
      (own = true → s.stoOn p = false → high = false →
        exec (.outputTestPulse p lineB ch high low) s = .next (s.setSafety { s.safety with outFaults := others })) ∧
      ((own = false ∨ (s.stoOn p = false ∧ high = true) ∨ (s.stoOn p = true ∧ s.mayPulse p.val lineB ch.val = false)) →
        exec (.outputTestPulse p lineB ch high low) s = .next s)) ∧
    (∀ (lineB level : Bool) (n : Nat), bitAt s.safety.estopCfg 31 = true → s.onGrid 50000 0 = true → 4 ≤ n →
      (if lineB then s.safety.estop.lineB else s.safety.estop.lineA) ≠ level →
      let p := s.safety.estop.change lineB level false (fld s.safety.estopCfg 30 21 * 1000000) s.time.cellNs
      (p.active = true → s.safety.estop.active = false →
        exec (.estopChange lineB level n) s = .next ((s.setSafety { s.safety with estop := p }).enterBath 9)) ∧
      (p.active = false ∨ s.safety.estop.active = true →
        exec (.estopChange lineB level n) s = .next (s.setSafety { s.safety with estop := p }))) ∧
    (∀ (lineB level : Bool) (n : Nat), (bitAt s.safety.estopCfg 31 = false ∨ s.onGrid 50000 0 = false ∨ n < 4 ∨
        (if lineB then s.safety.estop.lineB else s.safety.estop.lineA) = level) →
      exec (.estopChange lineB level n) s = .next s) ∧
    (∀ (ch : Fin 2) (n : Nat),
      let x := s.safety.srst[ch]
      let low := s.time.cellNs + 250000 - 250000 * n
      let boot := s.safety.boot || (x.first && decide (low ≤ ceilDiv x.since 250000 * 250000))
      (s.onGrid 250000 0 = true → x.pressed = false →
        (n = 1 → exec (.srstNPress ch n) s = .next (s.setSafety { s.safety with
          boot := boot, srst := s.safety.srst.set ch { x with first := false } })) ∧
        (2 ≤ n → exec (.srstNPress ch n) s = .next (s.setSafety { s.safety with
          boot := boot, srst := s.safety.srst.set ch { x with first := false, pressed := true, since := s.time.cellNs } }))) ∧
      ((s.onGrid 250000 0 = false ∨ n = 0 ∨ x.pressed = true) → exec (.srstNPress ch n) s = .next s) ∧
      (s.onGrid 250000 0 = true → x.pressed = true → 2 ≤ n →
        let held := s.time.cellNs - x.since
        let left := fun (r : Nat) => s.setSafety { s.safety with
          srst := s.safety.srst.set ch { x with pressed := false, since := s.time.cellNs, found := some r } }
        (s.safety.boot = true ∨ s.safety.stuck = true → exec (.srstNRelease ch n) s = .next (left 4)) ∧
        (s.safety.boot = false → s.safety.stuck = false →
          (held < 100000000 → exec (.srstNRelease ch n) s = .next (left 1)) ∧
          (100000000 ≤ held → held ≤ 3000000000 → exec (.srstNRelease ch n) s = .next (left 0)) ∧
          (3000000000 < held → exec (.srstNRelease ch n) s = .next (left 2)))) ∧
      ((s.onGrid 250000 0 = false ∨ n < 2 ∨ x.pressed = false) → exec (.srstNRelease ch n) s = .next s)) ∧
    (s.safety.stuck = false → (∃ x ∈ s.safety.srst.toList, x.pressed = true ∧ x.since + 30000000000 ≤ s.time.cellNs) →
      exec .resetStuck s = .next ((s.setSafety { s.safety with stuck := true }).notice .resetStuck 0 0)) ∧
    ((s.safety.stuck = true ∨ ∀ x ∈ s.safety.srst.toList, x.pressed = true → s.time.cellNs < x.since + 30000000000) →
      exec .resetStuck s = .next s) ∧
    ((∀ x ∈ s.safety.srst.toList, x.pressed = false ∧ x.since + 100000000 ≤ s.time.cellNs) →
      exec .srstNOpen s = .next (s.setSafety { s.safety with boot := false, stuck := false, funcPress := [] })) ∧
    ((∃ x ∈ s.safety.srst.toList, x.pressed = true ∨ s.time.cellNs < x.since + 100000000) → exec .srstNOpen s = .next s)

/-- What stops, brakes, channels, the configuration and the safety cycle do. SS1 ends in STO with its cause after
ss1_ms. A brake whose feedback differs from its output for more than 20 ms is a brake fault. A brake test falls due
after its interval, an SF_BRKREQ asks for one on each index whose bit is 1, a step whose time has come is taken with its
torque ramp, and a test that has been due for the grace time stops its index in category 0 with cause 37 at standstill.
An internal fault of a channel takes its enables and enters the stop bath with cause 4 or 5 while every brake closes.
The newer valid copy of the safety configuration comes into force at the start of the main die, where an E-stop that it
makes active enters the stop bath with cause 9, and without one the stop bath has cause 2. At a safety cycle boundary
the accepted safety commands take effect, the separation decides on the results of the channels that sent a heartbeat,
the heartbeats and digests are judged, then the functions, and SS1, SLS and the resets are judged. A safety frame of a
linked node that fails a check is counted and recorded with the check, one that passes becomes the last of its link, and
one of a human source is also taken as a part of its set. At 100 µs of a safety cycle the links and sources are judged
and both channels compute their results. Where the rules leave a point open, the clauses follow the model's choice (log
entries 12, 13, 45, 50 and 60). (Derived from R81, R317, R327, R329, R331, R335, R336, R337, R338, R339, R348, R358.) -/
def Obligations.SafetyFunctionEventsComplete : Prop :=
  ∀ s : State,
    (∀ (c : Fin 16) (t : Nat), s.safety.index[c].ss1At = some t → s.safety.index[c].state = .ss1 →
      t + fld s.safety.index[c].cfg 31 22 * 1000000 ≤ s.now →
      exec (.ss1Timeout c) s = .next (s.toSto c s.safety.index[c].cause false)) ∧
    (∀ c : Fin 16, (s.safety.index[c].state ≠ .ss1 ∨ s.safety.index[c].ss1At = none) → exec (.ss1Timeout c) s = .next s) ∧
    (∀ (c : Fin 16) (shown : Bool) (ms : Nat), 20 < ms → shown ≠ s.brakeOpen c → exec (.brakeFeedbackMismatch c shown ms) s =
      .next ((s.setIndex c { s.safety.index[c] with brakeFault := true }).stopIndex c 0 36)) ∧
    (∀ (c : Fin 16) (shown : Bool) (ms : Nat), (ms ≤ 20 ∨ shown = s.brakeOpen c) →
      exec (.brakeFeedbackMismatch c shown ms) s = .next s) ∧
    (∀ c : Fin 16, s.expired (DelayEntry.ofUser 2 c.val) = true →
      let u := s.entryRun (DelayEntry.ofUser 2 c.val)
      let x := s.safety.index[c]
      (fld x.brk 31 24 ≠ 0 → x.due = none → fld x.brk 31 24 ≤ x.hours s.time.cellNs →
        exec (.brakeTestDue c) s = .next (u.setIndex c { x with due := some s.time.cellNs })) ∧
      ((fld x.brk 31 24 = 0 ∨ x.due ≠ none ∨ x.hours s.time.cellNs < fld x.brk 31 24) →
        exec (.brakeTestDue c) s = .next u)) ∧
    (∀ c : Fin 16, s.expired (DelayEntry.ofUser 2 c.val) = false → exec (.brakeTestDue c) s = .next s) ∧
    (∀ v : BitVec 16, exec (.sfBrkreq v) s = .next (foldOn (chainsOf v) s (fun u c =>
      u.setIndex (f16 c) { u.safety.index[f16 c] with req := true }))) ∧
    (∀ (c : Fin 16) (fb : Bool) (d1 d2 : Nat) (t : BrkTest), s.safety.index[c].test = some t →
      let x := s.safety.index[c]
      let el := s.now - t.start
      let ofs := if t.second then 1050000000 else 0
      let dir := fld x.brk 19 18
      let sign : Int := if dir = 1 ∨ t.second = true then -1 else 1
      let go := fun (n : Nat) (u : State) => u.setIndex c { u.safety.index[c] with test := some { t with step := n } }
      let tooFar := fld x.brk 10 0 < max d1 d2
      let ms : Int := ((el - ofs) / 1000000 : Nat)
      let inward := fun (k : Int) => sign * k + (if t.second then 50 - k else 0)
      ((t.step = 3 ∧ tooFar) → exec (.brakeTestStep c fb d1 d2) s = .next (s.endBrakeTest c false)) ∧
      ((t.step ≠ 3 ∧ tooFar ∧ x.lifted = true) → exec (.brakeTestStep c fb d1 d2) s = .next (s.toSto c x.cause false)) ∧
      ((x.lifted = false ∨ ¬ tooFar) →
        (t.step = 0 → fb = true → el ≤ 20000000 → exec (.brakeTestStep c fb d1 d2) s = .next (go 1 s)) ∧
        (t.step = 0 → fb = false → el < 20000000 → exec (.brakeTestStep c fb d1 d2) s = .next s) ∧
        (t.step = 0 → (20000000 < el ∨ (el = 20000000 ∧ fb = false)) →
          exec (.brakeTestStep c fb d1 d2) s = .next (((s.abortTest c).drive c).brakeFault c)) ∧
        (t.step = 1 → 200000000 + ofs ≤ el → exec (.brakeTestStep c fb d1 d2) s =
          .next (go 2 (s.setTestTorque c (inward (min 50 (ms - 200)))))) ∧
        (t.step = 2 → el < 250000000 + ofs →
          exec (.brakeTestStep c fb d1 d2) s = .next (s.setTestTorque c (inward (ms - 200)))) ∧
        (t.step = 2 → 250000000 + ofs ≤ el →
          exec (.brakeTestStep c fb d1 d2) s = .next (go 3 (s.setTestTorque c (sign * 50)))) ∧
        (t.step = 3 → ¬ tooFar → 1250000000 + ofs ≤ el → dir = 2 → t.second = false → exec (.brakeTestStep c fb d1 d2) s =
          .next (s.setIndex c { x with test := some { t with step := 1, second := true } })) ∧
        (t.step = 3 → ¬ tooFar → 1250000000 + ofs ≤ el → (dir ≠ 2 ∨ t.second = true) →
          exec (.brakeTestStep c fb d1 d2) s = .next (go 4 (s.setTestTorque c (sign * max 0 (1300 - ms))))) ∧
        (t.step = 4 → el < 1300000000 + ofs →
          exec (.brakeTestStep c fb d1 d2) s = .next (s.setTestTorque c (sign * (1300 - ms)))) ∧
        (t.step = 4 → 1300000000 + ofs ≤ el →
          exec (.brakeTestStep c fb d1 d2) s = .next (go 5 ((s.setTestTorque c 0).restartLoops c))) ∧
        (5 ≤ t.step → 1400000000 + ofs ≤ el → exec (.brakeTestStep c fb d1 d2) s = .next (s.endBrakeTest c true)))) ∧
    (∀ (c : Fin 16) (t : Nat), s.safety.index[c].due = some t → s.safety.index[c].overdue = false →
      s.safety.index[c].test = none → t + fld s.safety.index[c].brk 23 20 * 3600000000000 ≤ s.time.cellNs →
      s.motion.chains[c].moving s.tickNo = false →
      exec (.brakeTestOverdue c) s = .next ((s.setIndex c { s.safety.index[c] with overdue := true }).stopIndex c 0 37)) ∧
    (∀ c : Fin 16, (s.safety.index[c].due = none ∨ s.safety.index[c].overdue = true ∨ s.safety.index[c].test ≠ none ∨
        s.motion.chains[c].moving s.tickNo = true) → exec (.brakeTestOverdue c) s = .next s) ∧
    (∀ (c : Fin 16) (fb : Bool) (d1 d2 : Nat), s.safety.index[c].test = none →
      exec (.brakeTestStep c fb d1 d2) s = .next s) ∧
    (exec (.channelInternalFault 0) s = .next
      (let t := ((s.setSafety { s.safety with ch1Ok := false, mainFault := true }).enterBath 4).driveAll.dropBrakes
       t.setSafety { t.safety with intFault1 := true })) ∧
    (exec (.channelInternalFault 1) s = .next ((s.setSafety { s.safety with ch2Ok := false }).enterBath 5).driveAll.dropBrakes) ∧
    (s.sys.inReset = false → s.sys.running = true → s.isReady rdSafetycpu = false →
      (∀ c, newerCopy s.sys.safe0 s.sys.safe1 = some c →
        let f := (s.safety.loadWords c.words).refreshInputs
        let t := s.setSafety { f with cfgValid := true, cfgCrc := configCrc c.words }
        exec .safetyConfigLoad s = .next (if f.estopActive && !s.safety.estopActive then t.enterBath 9 else t)) ∧
      (newerCopy s.sys.safe0 s.sys.safe1 = none →
        exec .safetyConfigLoad s = .next ((s.setSafety { s.safety with cfgValid := false }).enterBath 2))) ∧
    ((s.sys.inReset = true ∨ s.sys.running = false ∨ s.isReady rdSafetycpu = true) →
      exec .safetyConfigLoad s = .next s) ∧
    (∀ a b d : Bool, s.onGrid 1000000 0 = true →
      let ready := s.isReady rdSafetycpu && s.isReady rdSafelight
      let t := s.applySafes.sepBoundary (ready && a) (ready && b)
      let y := (if ready then t.heartbeats a b d else t).evalFuncs
      let z := foldOn (List.range 16) y (fun u c => (u.ss1Cycle (f16 c)).slsCycle (f16 c))
      exec (.safetyCycleBoundary a b d) s = .next (if z.inPair
        then ((z.adoptDemands z.twin.peer1).adoptDemands z.twin.peer2).judgePaired else z.judgeResets)) ∧
    (∀ a b d : Bool, s.onGrid 1000000 0 = false → exec (.safetyCycleBoundary a b d) s = .next s) ∧
    (s.cellOn = true → s.onGrid 1000000 100000 = true →
      let t := s.checkLinks.checkSources
      exec .separationIntake s = .next (foldOn (List.range 16) t (fun u c =>
        u.setSep { u.sep with chains := vmod u.sep.chains (f16 c) (fun x =>
          { x with res1 := t.sepResult 1 (f16 c), res2 := t.sepResult 2 (f16 c) }) }))) ∧
    ((s.cellOn = false ∨ s.onGrid 1000000 100000 = false) → exec .separationIntake s = .next s) ∧
    (∀ (node : Nat) (arrival : Nat) (bytes : List Byte), (s.linkCfg node = none ∨ s.theCell.nodes[node]? = none) →
      exec (.safetyFrame node arrival bytes) s = .next s) ∧
    (∀ (node : Nat) (arrival : Nat) (bytes : List Byte) (c : LinkCfg) (r : NodeRec),
      s.linkCfg node = some c → s.theCell.nodes[node]? = some r →
      let f := bytes.drop c.offset
      let l := s.sep.linkOf node
      let placed := decide (u16 f 2 ≤ f.length) && (r.kind == 3 || s.theCell.framePlace node r c.offset (u16 f 2))
      let part := (s.theCell.sourceOf node).bind (fun b => s.sep.sources[f16 b.1].parts.map (·.1))
      (∀ e, frameCheck c l placed part f arrival = some e →
        exec (.safetyFrame node arrival bytes) s = .next (s.frameFails node e)) ∧
      (frameCheck c l placed part f arrival = none → c.type ≠ 1 → (l.state ≠ .ok ∨ l.last = none) →
        let body := slice f 24 (u16 f 2 - 28)
        exec (.safetyFrame node arrival bytes) s = .next (s.setSep { s.sep with
          links := mput {} s.sep.links node { l with
            state := .ok
            gaps := satN 0xFFFF l.gaps
            last := some { seq := wordAt f 8, stamp := leAt f 12 8, arrival := arrival
                           values := wordsAt body 0 ((body.length + 3) / 4) } } })) ∧
      (frameCheck c l placed part f arrival = none → c.type = 1 →
        let gap := if l.state = .ok then ((l.last.map (fun v => (wordAt f 8 - v.seq).toNat - 1)).getD 0) else 0
        let t := s.setSep { s.sep with
          links := mput {} s.sep.links node { l with
            state := .ok
            last := some { seq := wordAt f 8, stamp := leAt f 12 8, arrival := arrival, values := [] }
            gaps := satN 0xFFFF (l.gaps + gap) } }
        (s.theCell.sourceOf node = none → exec (.safetyFrame node arrival bytes) s = .next t) ∧
        (∀ b, s.theCell.sourceOf node = some b →
          let p := s.sep.sources[f16 b.1].takePart b.2 (leAt f 12 8) arrival (byteAt f 1 / 16) (byteAt f 1 % 16 + 1)
            (slice f 24 (u16 f 2 - 28))
          let u := t.setSep { t.sep with
            sources := t.sep.sources.set (f16 b.1) p.1, cnt := if p.2.1 then bump t.sep.cnt 23 16 1 else t.sep.cnt }
          exec (.safetyFrame node arrival bytes) s = .next (if p.2.2 then u.frameFails node 1 else u))) ∧
      (∀ v, frameCheck c l placed part f arrival = none → c.type ≠ 1 → l.state = .ok → l.last = some v →
        let body := slice f 24 (u16 f 2 - 28)
        exec (.safetyFrame node arrival bytes) s = .next (s.setSep { s.sep with
          links := mput {} s.sep.links node { l with
            state := .ok
            gaps := satN 0xFFFF (l.gaps + ((wordAt f 8 - v.seq).toNat - 1))
            last := some { seq := wordAt f 8, stamp := leAt f 12 8, arrival := arrival
                           values := wordsAt body 0 ((body.length + 3) / 4) } } })))

/-- What the frames and events of the twin link do. Before TWIN is ready a Benjo frame does nothing; one that fails its
checks or has a reserved type is counted on its lane; a valid one brings its lane up and, unless it is the second copy
of a frame already taken, is taken by its type. A lane that was silent for 20 µs goes down, and a joining device whose
link is lost returns to ALONE without a cell. With the link lost and the partner silent on every ring for 2 servo cycles
the device goes on alone; a standby that has no SAFETY frame for 2 safety cycles while the partner is heard goes OUT.
The first result of the own self-test is kept and sent to the partner; at a tick boundary, with both results known or 60
ms after the check began and no role change held back, the roles are decided as R377 says. A due proof swap is announced
16 ticks ahead and exchanges the roles at its tick, and with them SYNC_OUT. A device that has resynchronised is, at a
planning tick boundary, the standby of a pair, with the content of the partner's state left free. Where the rules leave
a point open, the clauses follow the model's choice (log entries 50, 56 and 58). (Derived from R85, R367, R371, R376,
R377, R378, R379, R380.) -/
def Obligations.TwinEventsComplete : Prop :=
  ∀ s : State,
    (∀ (lane : Fin 2) (b : List Byte),
      (s.isReady rdTwin = false → exec (.benjoFrame lane b) s = .next s) ∧
      (s.isReady rdTwin = true → benjoOk b = false → exec (.benjoFrame lane b) s = .next (s.laneError lane)) ∧
      (s.isReady rdTwin = true → benjoOk b = true → 10 < byteAt b 0 →
        exec (.benjoFrame lane b) s = .next ((s.laneUp lane).laneError lane)) ∧
      (s.isReady rdTwin = true → benjoOk b = true → byteAt b 0 ≤ 10 →
        let t := s.laneUp lane
        let k := (byteAt b 0, wordAt b 4)
        (byteAt b 0 ≠ 9 → t.twin.seen.contains k = true → exec (.benjoFrame lane b) s = .next t) ∧
        ((byteAt b 0 = 9 ∨ t.twin.seen.contains k = false) → exec (.benjoFrame lane b) s =
          .next ((t.setTwin { t.twin with seen := (k :: t.twin.seen).take 64 }).takeBenjo (byteAt b 0) (slice b 16 (u16 b 2)))))) ∧
    (∀ lane : Fin 2,
      let up := if lane.val = 0 then s.twin.lane0 else s.twin.lane1
      let since := if lane.val = 0 then s.twin.laneAt0 else s.twin.laneAt1
      let t := s.setTwin (if lane.val = 0 then { s.twin with lane0 := false } else { s.twin with lane1 := false })
      let u := t.setTwin { t.twin with seen := [] }
      ((up = false ∨ s.now < since + 20000) → exec (.benjoLaneDown lane) s = .next s) ∧
      (up = true → since + 20000 ≤ s.now →
        (t.twin.linkLost = false → exec (.benjoLaneDown lane) s = .next t) ∧
        (t.twin.linkLost = true → s.twin.state ≠ .join → exec (.benjoLaneDown lane) s = .next u) ∧
        (t.twin.linkLost = true → s.twin.state = .join → exec (.benjoLaneDown lane) s =
          .next ((u.setTwin { u.twin with resync := 0 }).dropCell.pairTo .alone true)))) ∧
    (s.twin.state = .paired → s.twin.linkLost = true → s.twin.ringAt + 2 * s.servo ≤ s.now →
      let t := s.survive
      exec .partnerLost s = .next (t.setTwin { t.twin with partnerRing := false, cnt := bump t.twin.cnt 7 0 1 })) ∧
    (s.twin.state = .paired → s.twin.active = false → s.partnerHeard = true → s.twin.safetyAt + 2000000 ≤ s.now →
      exec .safetyFrameLoss s = .next (s.pairTo .out false)) ∧
    ((s.twin.state ≠ .paired ∨ s.twin.linkLost = false ∨ s.now < s.twin.ringAt + 2 * s.servo) →
      exec .partnerLost s = .next s) ∧
    ((s.twin.state ≠ .paired ∨ s.twin.active = true ∨ s.partnerHeard = false ∨ s.now < s.twin.safetyAt + 2000000) →
      exec .safetyFrameLoss s = .next s) ∧
    (∀ own : Option Bool, s.twin.state ≠ .check → exec (.selfTestResult own) s = .next s) ∧
    (∀ own : Option Bool, s.twin.state = .check →
      let t := match own, s.twin.ownCheck with
        | some pass, none => (s.setTwin { s.twin with ownCheck := some pass, selftest := if pass then 1 else 2 }).sendBenjo 10
            [BitVec.ofNat 8 (b2n pass)]
        | _, _ => s
      let known := t.twin.ownCheck.isSome && t.twin.peerCheck.isSome
      ((t.roleHeld = true ∨ t.onGrid 1000000 0 = false ∨ (known = false ∧ t.now < t.twin.checkAt + 60000000)) →
        exec (.selfTestResult own) s = .next t) ∧
      (t.roleHeld = false → t.onGrid 1000000 0 = true → (known = true ∨ t.twin.checkAt + 60000000 ≤ t.now) →
        (t.twin.ownCheck = some true →
          (t.twin.active = true ∨ t.twin.peerCheck ≠ some true → exec (.selfTestResult own) s = .next (t.pairTo .alone true)) ∧
          (t.twin.active = false → t.twin.peerCheck = some true → exec (.selfTestResult own) s =
            .next ((t.setTwin { t.twin with resync := 0 }).pairTo .join false))) ∧
        (t.twin.ownCheck ≠ some true →
          let u := t.setTwin { t.twin with selftest := 2 }
          (t.twin.peerCheck = some true → exec (.selfTestResult own) s = .next (u.pairTo .out false)) ∧
          (t.twin.peerCheck ≠ some true → exec (.selfTestResult own) s = .next ((u.enterBath 4).pairTo .out false))))) ∧
    (let mine := fun (e : DelayEntry) => e.user == 1
     (s.onGrid 1000000 0 = true → s.expired mine = true → s.pairActive = true → s.twin.swapTick = none → s.swapBlocked = false →
      (s.twin.swapAgain = true ∨ s.swapDue ≤ s.tickNo + 16) →
      exec .proofSwapDue s = .next ((s.entryRun mine).announceSwap (s.tickNo + 16))) ∧
     (s.onGrid 1000000 0 = true → s.expired mine = true →
      (s.pairActive = false ∨ s.twin.swapTick.isSome = true ∨ s.swapBlocked = true ∨
        (s.twin.swapAgain = false ∧ s.tickNo + 16 < s.swapDue)) → exec .proofSwapDue s = .next (s.entryRun mine)) ∧
     ((s.onGrid 1000000 0 = false ∨ s.expired mine = false) → exec .proofSwapDue s = .next s)) ∧
    ((s.twin.swapTick = none ∨ s.twin.state ≠ .paired ∨ s.onGrid 1000000 0 = false ∨ ∃ k, s.twin.swapTick = some k ∧ s.tickNo < k) →
      exec .proofSwap s = .next s) ∧
    (∀ k : Nat, s.twin.swapTick = some k → s.twin.state = .paired → s.onGrid 1000000 0 = true → k ≤ s.tickNo →
      s.twin.swapReply = none → exec .proofSwap s = .next ((s.setTwin { s.twin with
        active := !s.twin.active, swapTick := none, swapAgain := false, swapReply := none, lastSwap := s.time.cellNs
        cnt := bump s.twin.cnt 15 8 1 }).passSync s.twin.active)) ∧
    (∀ (k q tag : Nat), s.twin.swapTick = some k → s.twin.state = .paired → s.onGrid 1000000 0 = true → k ≤ s.tickNo →
      s.twin.swapReply = some (q, tag) →
      let t := s.finishTag q tag ⟨stOk, w32 k, 0⟩
      exec .proofSwap s = .next ((t.setTwin { t.twin with
        active := !t.twin.active, swapTick := none, swapAgain := false, swapReply := none, lastSwap := t.time.cellNs
        cnt := bump t.twin.cnt 15 8 1 }).passSync t.twin.active)) ∧
    (s.twin.state = .join → s.twin.linkLost = false → s.onGrid 1000000 0 = true → ∃ t, exec .resyncComplete s = .next t ∧ t.twin.state = .paired ∧
      t.twin.active = false ∧ t.twin.resync = 100) ∧
    ((s.twin.state ≠ .join ∨ s.twin.linkLost = true ∨ s.onGrid 1000000 0 = false) → exec .resyncComplete s = .next s)

/-- What the events of a CAN controller do. A received frame of a controller that takes part in the bus lowers the
receive error count and goes to its buffer; a read of word 0 locks a receive buffer and one of word 19 releases it, as
10 ms do; at an SOF opportunity of an idle bus the pending frame first in arbitration order starts; lost arbitration is
counted and the frame stays pending or ends where its cancel is held; EOF without error completes the CAN_TX with the
stamp of its SOF. Errors raise the counts by 8, 1 or 8 and the state follows the counts; bus-off ends after a recovery
that RECOVER begins, with both counts 0; integration lets a controller take part. An event whose condition is not met
changes nothing. Where the rules leave a point open, the clauses follow the model's choice (log entries 54 and 55).
(Derived from R84, R387, R388, R389, R390, R392, R393, R394.) -/
def Obligations.CanEventsComplete : Prop :=
  ∀ (s : State) (n : Fin 4),
    (∀ (f : CanFrame) (sof : DWord), s.can[n].onLine = true → (f.fd = false ∨ bitAt s.can[n].ctrl 29 = true) →
      let t := (s.setCanN n { s.can[n] with recN := recAfterGood s.can[n].recN s.free }).nextFree
      exec (.canFrameReceived n f sof) s = .next (((t.canStore n f sof).canConfine n).canShare n 0 0 [])) ∧
    (∀ b : Fin 64, exec (.bufferLockRead n b) s = .next (s.canBuf n b (fun x =>
      if x.use = 1 ∧ x.lock.isNone then { x with lock := some s.now } else x))) ∧
    (∀ b : Fin 64, exec (.bufferReleaseRead n b) s = .next (s.canBuf n b (fun x => if x.lock.isSome then x.release else x))) ∧
    (∀ (b : Fin 64) (t : Nat), s.can[n].bufs[b].lock = some t → t + 10000000 ≤ s.now →
      let u := s.canBuf n b (fun x => if x.lock.isSome then x.release else x)
      exec (.canLockTimeout n b) s = .next (u.setCanN n { u.can[n] with cnt := bump u.can[n].cnt 23 16 1 })) ∧
    (∀ i : Nat, s.can[n].onLine = true → s.can[n].mode = 1 → s.isStandby = false → s.can[n].onBus = none →
      bestKey s.can[n].waiting = some i →
      let b := s.can[n].bufs[f64 i]
      exec (.canSofOpportunity n) s = .next ((s.setCanN n { s.can[n] with
        onBus := some ⟨i, s.canStamp, false⟩
        bufs := s.can[n].bufs.set (f64 i) (if b.tried then { b with retries := satN 65535 (b.retries + 1) } else b)
          }).nextFree.emit (.canSof n.val i))) ∧
    (∀ o : CanOnBus, s.can[n].onBus = some o → o.won = false →
      exec (.canArbitrationEnd n true) s = .next (s.setCanN n { s.can[n] with onBus := some { o with won := true } }) ∧
      exec (.canArbitrationEnd n false) s =
        .next ((s.setCanN n { s.can[n] with cnt := bump s.can[n].cnt 7 0 1 }).leaveBus n (f64 o.buf))) ∧
    (∀ o : CanOnBus, s.can[n].onBus = some o → o.won = true →
      let t := s.setCanN n { s.can[n] with onBus := none, tecN := s.can[n].tecN - 1 }
      let held := !(t.can[n].bufs[f64 o.buf]).cancel.isEmpty
      exec (.canFrameComplete n) s = .next (((t.canShare n o.buf 2 ([1] ++ leBytes 8 o.sof.toNat)).endTx n (f64 o.buf)
        ⟨stOk, w32 o.sof.toNat, w32 (b2n held)⟩ 1).canConfine n)) ∧
    (∀ lec : Fin 7, lec.val ≠ 0 → s.can[n].onLine = true →
      (∀ o : CanOnBus, s.can[n].onBus = some o → exec (.canBusError n .transmitter lec) s =
        .next ((((s.setCanN n { s.can[n] with lec := lec.val, tecN := s.can[n].tecN + 8 }).leaveBus n (f64 o.buf)).canConfine n
          ).canShare n 0 0 [])) ∧
      (s.can[n].onBus = none →
        exec (.canBusError n .receiver lec) s = .next (((s.setCanN n { s.can[n] with
          lec := lec.val, recN := satN 255 (s.can[n].recN + 1) }).canConfine n).canShare n 0 0 []) ∧
        exec (.canBusError n .receiverDominant lec) s = .next (((s.setCanN n { s.can[n] with
          lec := lec.val, recN := satN 255 (s.can[n].recN + 8) }).canConfine n).canShare n 0 0 []))) ∧
    (s.can[n].state = .busOff → s.can[n].recovering = false →
      exec (.recover n) s = .next (s.setCanN n { s.can[n] with recovering := true, recov := 0 })) ∧
    (s.can[n].state = .busOff → s.can[n].recovering = true →
      exec (.canRecoveryComplete n) s = .next ((s.setCanN n { s.can[n] with
        recovering := false, recov := 128, tecN := 0, recN := 0 }).canEnter n .active)) ∧
    (s.can[n].mode ≠ 0 → s.can[n].sync = false → s.can[n].state ≠ .busOff → s.can[n].state ≠ .off →
      exec (.canBusIntegration n) s = .next (s.setCanN n { s.can[n] with sync := true })) ∧
    (∀ (f : CanFrame) (sof : DWord), (s.can[n].onLine = false ∨ (f.fd = true ∧ bitAt s.can[n].ctrl 29 = false)) →
      exec (.canFrameReceived n f sof) s = .next s) ∧
    (∀ b : Fin 64, (∀ t, s.can[n].bufs[b].lock = some t → s.now < t + 10000000) →
      exec (.canLockTimeout n b) s = .next s) ∧
    ((s.can[n].onLine = false ∨ s.can[n].mode ≠ 1 ∨ s.isStandby = true ∨ s.can[n].onBus ≠ none ∨
        bestKey s.can[n].waiting = none) → exec (.canSofOpportunity n) s = .next s) ∧
    (∀ w : Bool, (∀ o, s.can[n].onBus = some o → o.won = true) → exec (.canArbitrationEnd n w) s = .next s) ∧
    ((∀ o, s.can[n].onBus = some o → o.won = false) → exec (.canFrameComplete n) s = .next s) ∧
    (∀ (e : CanError) (lec : Fin 7), (s.can[n].onLine = false ∨ lec.val = 0 ∨
        (e = .transmitter ∧ s.can[n].onBus = none) ∨ (e ≠ .transmitter ∧ s.can[n].onBus ≠ none)) →
      exec (.canBusError n e lec) s = .next s) ∧
    ((s.can[n].state ≠ .busOff ∨ s.can[n].recovering = true) → exec (.recover n) s = .next s) ∧
    ((s.can[n].state ≠ .busOff ∨ s.can[n].recovering = false) → exec (.canRecoveryComplete n) s = .next s) ∧
    ((s.can[n].mode = 0 ∨ s.can[n].sync = true ∨ s.can[n].state = .busOff ∨ s.can[n].state = .off) →
      exec (.canBusIntegration n) s = .next s)

/-- What reset, boot, supplies, temperature and flash programming do. PORST_N low for 5 µs resets the main die with
cause 1 and the firmware watchdog with cause 4; once nothing holds reset, the boot ROM leaves reset. A function that
passes its start-up test is ready, and one that fails it, or whose units are all masked, latches its fault. A dip of
VDD_CORE is counted, after 50 µs the caution state begins, it ends 100 ms after the supply is good again and the waiting
writes are carried out, 5,000 µs below the level in 100 ms enter the stop bath with cause 10, and the reset level resets
the main die with cause 2. VDD_SL below its limits puts channel 2 in an internal fault; a Safelight that restarts holds
stop bath cause 1. A fault temperature puts channel 1 in an internal fault until it has cooled. A verified image fills
the slot that does not run. An event whose condition is not met changes nothing. Where the rules leave a point open, the
clauses follow the model's choice (log entries 46, 48 and 49). (Derived from R397, R398, R404, R406, R407, R410, R411,
R412, R413, R414, R416, R425.) -/
def Obligations.SupplyEventsComplete : Prop :=
  ∀ s : State,
    (∀ ns : Nat, 5000 ≤ ns → s.sys.porstLow = false →
      let t := s.holdReset 1 true
      exec (.porstN true ns) s = .next (t.setSys { t.sys with porstLow := true })) ∧
    (∀ ns : Nat, (ns < 5000 ∨ s.sys.porstLow = true) → exec (.porstN true ns) s = .next s) ∧
    (∀ ns : Nat, exec (.porstN false ns) s = .next (s.setSys { s.sys with porstLow := false })) ∧
    (s.sys.inReset = false → s.sys.running = true →
      let t := s.holdReset 4 true
      exec .firmwareWatchdog s = .next (t.setSys { t.sys with wdHold := some t.now })) ∧
    (∀ twinId dbgEn : Bool, s.sys.inReset = true → s.resetReleased = true → ∃ t,
      exec (.mainDieResetRelease twinId dbgEn) s = .next t ∧ t.sys.inReset = false ∧ t.sys.bootCause = s.sys.nextCause ∧
      t.sys.releasedAt = s.now ∧ t.twin.twinId = twinId ∧ t.twin.active = true ∧ t.sys.dbgEn = dbgEn) ∧
    ((s.sys.inReset = true ∨ s.sys.running = false) → exec .firmwareWatchdog s = .next s) ∧
    (∀ twinId dbgEn : Bool, (s.sys.inReset = false ∨ s.resetReleased = false) →
      exec (.mainDieResetRelease twinId dbgEn) s = .next s) ∧
    (∀ (f : Fin 21) (pass : Bool), (s.mayReport f.val = false ∨ (s.sys.ready.getLsbD f.val = true ∧
        (f.val ≠ rdSafelight ∨ s.safety.ch2Ok = true))) → exec (.functionReady f pass) s = .next s) ∧
    (∀ f : Fin 21, s.mayReport f.val = true → s.sys.ready.getLsbD f.val = false → s.noUnits f.val = true →
      exec (.functionReady f true) s = .next (s.setSys { s.sys with fault := bvSet s.sys.fault f.val })) ∧
    (∀ f : Fin 21, f.val ≠ rdSafelight → f.val ≠ rdSafetycpu → f.val ≠ rdTwin → s.mayReport f.val = true → s.noUnits f.val = false →
      s.sys.ready.getLsbD f.val = false → s.sys.dropped.getLsbD f.val = false →
      exec (.functionReady f true) s = .next (s.setSys { s.sys with ready := bvSet s.sys.ready f.val }) ∧
      exec (.functionReady f false) s = .next (s.setSys { s.sys with fault := bvSet s.sys.fault f.val })) ∧
    (∀ f : Fin 21, s.mayReport f.val = true → s.sys.ready.getLsbD f.val = false →
      let t := if s.sys.dropped.getLsbD f.val then s else s.setSys { s.sys with ready := bvSet s.sys.ready f.val }
      (f.val = rdSafelight → exec (.functionReady f true) s =
        .next ((t.setSafety { t.safety with ch2Ok := true }).channelStarts 1)) ∧
      (f.val = rdSafetycpu → exec (.functionReady f true) s =
        .next ((t.setSafety { t.safety with ch1Ok := true }).channelStarts 0)) ∧
      (f.val = rdTwin → exec (.functionReady f true) s = .next (t.sendHello t.cell.nextDigest))) ∧
    (s.sys.dipAt = none → exec .vddCoreDip s = .next (s.setSys { s.sys with
      dipAt := some s.now, dipStamp := s.stamp, deep := false
      stopSeen := s.sys.stopSeen && decide (5000 ≤ s.belowUs), pwcnt := bump s.sys.pwcnt 31 24 1
      nowMv := Config.freeNat s.free % 65536 }).nextFree) ∧
    (s.sys.dipAt ≠ none → exec .vddCoreDip s = .next s) ∧
    ((s.sys.dipAt = none ∨ s.sys.caution = true ∨ s.sys.inReset = true) → exec .supplyCautionEntry s = .next s) ∧
    (∀ n : Nat, s.sys.dipAt = none → exec (.dipEnd n) s = .next s) ∧
    (∀ t : Nat, s.sys.dipAt = some t → s.sys.caution = false → s.sys.inReset = false → t + 50000 ≤ s.now →
      exec .supplyCautionEntry s = .next (s.setSys { s.sys with
        caution := true, faultCaution := true, pwcnt := bump s.sys.pwcnt 23 16 1 })) ∧
    (∀ (t minMv : Nat), s.sys.dipAt = some t → s.sys.deep = false → s.sys.inReset = false →
      let us := (s.now - t) / 1000
      ∃ u, exec (.dipEnd minMv) s = .next u ∧ u.sys.dipAt = none ∧ u.sys.dip = w32 (65536 * minMv + satN 65535 us) ∧
        u.sys.minMv = min s.sys.minMv minMv) ∧
    (s.sys.caution = true → s.sys.dipAt = none → s.sys.aboveAt + 100000000 ≤ s.now →
      exec .supplyCautionEnd s = .next (s.sys.writes.foldl (fun u w => u.commitWrite w)
        (s.setSys { s.sys with caution := false, writes := [] }))) ∧
    ((s.sys.caution = false ∨ s.sys.dipAt ≠ none ∨ s.now < s.sys.aboveAt + 100000000) →
      exec .supplyCautionEnd s = .next s) ∧
    (∀ ch : Fin 2, (s.sys.stopSeen = true ∨ s.sys.inReset = true ∨ s.belowUs < 5000) →
      exec (.supplyStop ch) s = .next s) ∧
    (∀ ch : Fin 2, s.sys.stopSeen = false → s.sys.inReset = false → 5000 ≤ s.belowUs →
      exec (.supplyStop ch) s = .next ((s.setSys { s.sys with
        supplyStop := true, stopSeen := true, faultSupply := true, pwcnt := bump s.sys.pwcnt 15 8 1 }).enterBath 10)) ∧
    (∃ t, exec .vddCoreResetLevel s = .next t ∧ t.sys.coreHold = some s.now ∧ t.sys.inReset = true ∧
      t.sys.nextCause = 2 ∧ t.safety.en1 = 0) ∧
    (∀ ns : Nat, 20000 ≤ ns → s.sys.slUp = true → exec (.vddSlLow false ns) s =
      .next ((s.setSys { s.sys with slMv := Config.freeNat s.free % 65536, slFault := true }).nextFree.channelFault 1)) ∧
    (∀ ns : Nat, (ns < 20000 ∨ s.sys.slUp = false) → exec (.vddSlLow false ns) s = .next s) ∧
    (∀ ns : Nat, ∃ t, exec (.vddSlLow true ns) s = .next t ∧ t.sys.slUp = false ∧ t.safety.ch2Ok = false ∧ t.safety.en2 = 0) ∧
    (s.sys.slUp = true → exec .vddSlGood s = .next (s.setSys { s.sys with slMv := Config.freeNat s.free % 65536 }).nextFree) ∧
    (s.sys.slUp = false → s.now ≠ 0 → exec .vddSlGood s = .next ((s.setSys { s.sys with
      slMv := Config.freeNat s.free % 65536, slUp := true, slGoodAt := s.now, slFault := false }).nextFree.enterBath 1)) ∧
    (s.sys.hot = false → exec (.thermalLimit .faultLimit) s = .next ((s.setSys { s.sys with hot := true }).channelFault 0)) ∧
    (exec (.thermalLimit .safelight) s = .next (s.channelFault 1)) ∧
    (s.sys.hot = true → s.isReady rdSafetycpu = true → s.safety.intFault1 = false → exec (.thermalLimit .cooled) s =
      .next ((s.setSys { s.sys with hot := false }).setSafety { s.safety with ch1Ok := true })) ∧
    (s.sys.hot = false → exec (.thermalLimit .cooled) s = .next s) ∧
    (s.sys.hot = true → exec (.thermalLimit .faultLimit) s = .next s) ∧
    (s.sys.thermalAt = none → s.sys.inReset = false → exec (.thermalLimit .gradeMaximum) s =
      .next (((s.setSys { s.sys with thermalAt := some s.now }).notice .thermal 0 0).logRec 0x22 s.stamp 0 0)) ∧
    (∀ im : FwImage, s.sys.burning = some im → s.sys.caution = false → exec .fwProgramComplete s = .next (s.setSys
      (if s.sys.slot = 0 then { s.sys with burning := none, programmed := true, fw1 := some im }
       else { s.sys with burning := none, programmed := true, fw0 := some im }))) ∧
    ((s.sys.burning = none ∨ s.sys.caution = true) → exec .fwProgramComplete s = .next s)

/-- When CAN_RX_READ is refused. CAN_RX_READ of a buffer that is not a receive buffer completes with BAD_PARAM, which
names param0; of a receive buffer that is empty or locked by another reader it completes with BUSY. (States R391.) -/
def Obligations.CanRxReadRefusals : Prop :=
  Completes Instr.canRxRead 0xA2 (fun p t => t.can[canOf p].bufs[bufOf p].use ≠ 1)
    (fun p t => t.finish p (badAt atP0)) ∧
  Completes Instr.canRxRead 0xA2 (fun p t => t.can[canOf p].bufs[bufOf p].use = 1 ∧ (t.can[canOf p].bufs[bufOf p].full = false ∨ t.can[canOf p].bufs[bufOf p].lock ≠ none))
    (fun p t => t.finish p busy)

/-- Which CAN_TX records are refused. A CAN_TX record that sets FD with CN_CTRL.fd_en at 0, bit-rate switch without FD,
remote with FD, a DLC above 8 without FD, or extended clear with a non-zero identifier bit of 28 to 11 completes with
BAD_PARAM at the byte offset of the identifier word, the DLC or the flags; the record's fields are read at their places
in its 72 bytes. (States R386.) -/
def Obligations.CanTxRecordRefusals : Prop :=
  Answers Instr.canTx 0xA0
    (fun p t =>
      let w := wordAt p.payload 0
      let dlc := byteAt p.payload 4
      let fd := (byteAt p.payload 5).testBit 0
      let brs := (byteAt p.payload 5).testBit 1
      t.can[canOf p].bufs[bufOf p].use = 2 ∧ p.payload.length = 72 ∧
      ((fd = true ∧ bitAt t.can[canOf p].ctrl 29 = false) ∨ (brs = true ∧ fd = false) ∨ (bitAt w 30 = true ∧ fd = true) ∨
        (8 < dlc ∧ fd = false) ∨ (bitAt w 29 = false ∧ fld w 28 11 ≠ 0)))
    (fun p t u => ∃ o : Nat, (o = 0 ∨ o = 4 ∨ o = 5) ∧ u = t.finish p (badAt (w32 o)))

/-- Where a received CAN frame is stored. A received frame of a controller that takes part in the bus is stored in the
lowest of its 64 buffers that is a receive buffer whose ext bit matches and for which (id XOR filter) AND mask is 0, as
CanBuf.store says, and no other buffer changes; a frame that matches no buffer changes none. (States R388.) -/
def Obligations.CanFrameGoesToItsBuffer : Prop :=
  ∀ (s : State) (n : Fin 4) (f : CanFrame) (sof : DWord), s.can[n].onLine = true →
    (f.fd = false ∨ bitAt s.can[n].ctrl 29 = true) →
    let fits := fun (i : Fin 64) =>
      let b := s.can[n].bufs[i]
      fld b.cfg 31 30 = 1 ∧ bitAt b.cfg 29 = f.ext ∧ (f.id.toNat ^^^ fld b.cfg 28 0) &&& fld b.mask 28 0 = 0
    ∃ t, exec (.canFrameReceived n f sof) s = .next t ∧
      (∀ i : Fin 64, fits i → (∀ j : Fin 64, j < i → ¬ fits j) →
        t.can[n].bufs[i] = (s.can[n].bufs[i].store f sof).1 ∧
        ∀ j : Fin 64, j ≠ i → t.can[n].bufs[j] = s.can[n].bufs[j]) ∧
      ((∀ i : Fin 64, ¬ fits i) → t.can[n].bufs = s.can[n].bufs)

/-- What completing a packet does to its queue. Completing a packet of the host on a queue that is not under reset takes
its tag from the packets in flight and adds one final reply with its status, the result words that the spec gives and
its payload to the queue's replies, and no other queue changes; on a queue under reset in which other packets are in
flight the tag goes and there is no reply. A completion with INTERNAL also writes a log record with its fault code.
Where the rules leave a point open, the clauses follow the model's choice (log entry 15). (Derived from R37, R39, R55.)
-/
def Obligations.CompletionAddsOneReply : Prop :=
  ∀ (s : State) (p : Pkt) (v : Verdict) (b : List Byte), p.origin ≠ .partner →
    let q := f16 p.queue
    let x := s.host.queues[q]
    let t := s.finish p v b
    (x.resetting = false →
      t.host.queues[q].inflight = x.inflight.filter (fun o => o.tag != p.tag) ∧
      (∃ r : Reply, t.host.queues[q].replies = x.replies ++ [r] ∧ r.pkt = p ∧ r.status = v.status ∧ r.interim = false ∧
        r.dup = false ∧ (p.givesW0 v = true → r.w0 = v.w0) ∧ (p.givesW1 v = true → r.w1 = v.w1) ∧ r.payload = b ∧ r.waiters = []) ∧
      ∀ k : Fin 16, k ≠ q → t.host.queues[k] = s.host.queues[k]) ∧
    (x.resetting = true → (∃ o ∈ x.inflight, o.tag ≠ p.tag) →
      t = (if v.status = stInternal then (s.dropTag q p.tag).logRec 0x0F (s.openWord p 0).toNat p.queue p.tag
        else s.dropTag q p.tag))

/-- How a presence-gated command becomes pending. During the supply-caution state it completes with SAFETY_REFUSED and
result word 1 = 5, whether or not another command is pending; while one is pending it completes with BUSY; otherwise the
device takes a code from 0 to 9,999 other than the previous one, the window opens now, the panel shows P, the four
digits and a question mark, and on a queue that is not under reset an interim reply PENDING_PRESENCE carries the code in
result word 0. (Derived from R58, R59, R60, R61, R412.) -/
def Obligations.PresenceWindowOpens : Prop :=
  ∀ (s : State) (p : Pkt), p.origin ≠ .partner →
    (s.sys.caution = true → s.toPending p = s.finish p ⟨stRefused, 0, 5⟩) ∧
    (s.sys.caution = false → s.host.presence ≠ none → s.toPending p = s.finish p busy) ∧
    (s.sys.caution = false → s.host.presence = none → ∃ code : Nat, code ≤ 9999 ∧ s.host.lastCode ≠ some code ∧
      (s.toPending p).host.presence = some ⟨p.queue, p.tag, p.opcode, code, s.time.cellNs⟩ ∧
      (s.toPending p).host.lastCode = some code ∧
      (s.toPending p).host.panel = [0x50, BitVec.ofNat 8 (48 + code / 1000 % 10), BitVec.ofNat 8 (48 + code / 100 % 10),
        BitVec.ofNat 8 (48 + code / 10 % 10), BitVec.ofNat 8 (48 + code % 10), 0x3F] ∧
      (s.host.queues[f16 p.queue].resetting = false → ∃ r : Reply,
        (s.toPending p).host.queues[f16 p.queue].replies = s.host.queues[f16 p.queue].replies ++ [r] ∧ r.pkt = p ∧
        r.status = stPending ∧ r.interim = true ∧ r.w0 = w32 code))

/-- A command whose packet may not start, and one past its deadline. Every row of the table that is a packet of a queue
and tag has one effect on the started packet, and: where no such packet of that opcode may start, nothing changes; a
SEG_PUSH also waits for the earlier SEG_PUSHes of its chain, an EVT_ARM for the earlier ones of its subscription; a
packet whose deadline has passed and which the checks of its effect do not refuse completes with DEADLINE_MISSED and has
no other effect; and every other packet has the effect, which the active of a pair passes on. Where the rules leave a
point open, the clauses follow the model's choice (log entries 9, 23, 24 and 50). (Derived from R35, R41, R43, R56, R65,
R74.) -/
def Obligations.PacketsThatMayNotStart : Prop :=
  ∀ (c : Instr) (q : Fin 16) (tag : Fin 1024) (op : Nat), packetOf c = some (q, tag, op) →
    ∃ f : Pkt → State → State, ∀ s : State,
      let waits := fun p : Pkt => (op = 0x20 ∧ s.segPushFirst p = false) ∨ (op = 0x61 ∧ s.evtArmFirst p = false)
      (s.candidatePkt q tag op = none → exec c s = .next s) ∧
      (∀ p, s.candidatePkt q tag op = some p → waits p → exec c s = .next s) ∧
      (∀ p, s.candidatePkt q tag op = some p → ¬ waits p →
        let t := f p.begun (s.begun q p)
        (p.late s.time.cellNs = true → t.refused q p = false → exec c s = .next (s.finish p ⟨stDeadline, 0, 0⟩)) ∧
        ((p.late s.time.cellNs = false ∨ t.refused q p = true) → exec c s = .next (s.passOn q p t)))

/-- The commands that read change nothing but replies. PING, READY_READ, LOG_READ, PLACE_READ, SEGQ_STATUS,
LOOP_STATE_READ, SOLVER_REPORT, TILE_STATUS, POINT_READ, TIME_READ, SYNC_IN_READ, RING_STATUS, TWIN_STATUS and
TRACE_UPLOAD always answer a next state, and it differs from the state before at most in the queues and their replies,
in what completing a queue reset drops, and in what the active of a pair sends. Where the rules leave a point open, the
clauses follow the model's choice (log entry 15). (Derived from R12, R36, R67, R82, R384, R410.) -/
def Obligations.ReadsOnlyReply : Prop :=
  ∀ (c : Instr) (q : Fin 16) (tag : Fin 1024) (s : State),
    c ∈ [Instr.ping q tag, .readyRead q tag, .logRead q tag, .placeRead q tag, .segqStatus q tag, .loopStateRead q tag,
      .solverReport q tag, .tileStatus q tag, .pointRead q tag, .timeRead q tag, .syncInRead q tag, .ringStatus q tag,
      .twinStatus q tag, .traceUpload q tag] →
    ∃ t, exec c s = .next t ∧ s.repliesOnly t
end

