-- ==== Sys2Proof/Laws/State.lean ====
section
/-! SUPPORT. The small lemmas of the state: what each setter writes and what it leaves as it was. -/

namespace Sys2Proof.Machine

/-! ### `setPending` -/

@[simp] theorem State.setPending_pending (s : State) (x : List Instr) : (s.setPending x).pending = x := rfl
@[simp] theorem State.setPending_now (s : State) (x : List Instr) : (s.setPending x).now = s.now := rfl
@[simp] theorem State.setPending_free (s : State) (x : List Instr) : (s.setPending x).free = s.free := rfl
@[simp] theorem State.setPending_out (s : State) (x : List Instr) : (s.setPending x).out = s.out := rfl
@[simp] theorem State.setPending_host (s : State) (x : List Instr) : (s.setPending x).host = s.host := rfl
@[simp] theorem State.setPending_cell (s : State) (x : List Instr) : (s.setPending x).cell = s.cell := rfl
@[simp] theorem State.setPending_time (s : State) (x : List Instr) : (s.setPending x).time = s.time := rfl
@[simp] theorem State.setPending_rings (s : State) (x : List Instr) : (s.setPending x).rings = s.rings := rfl
@[simp] theorem State.setPending_rgCtrl (s : State) (x : List Instr) : (s.setPending x).rgCtrl = s.rgCtrl := rfl
@[simp] theorem State.setPending_motion (s : State) (x : List Instr) : (s.setPending x).motion = s.motion := rfl
@[simp] theorem State.setPending_loops (s : State) (x : List Instr) : (s.setPending x).loops = s.loops := rfl
@[simp] theorem State.setPending_solver (s : State) (x : List Instr) : (s.setPending x).solver = s.solver := rfl
@[simp] theorem State.setPending_tiles (s : State) (x : List Instr) : (s.setPending x).tiles = s.tiles := rfl
@[simp] theorem State.setPending_disp (s : State) (x : List Instr) : (s.setPending x).disp = s.disp := rfl
@[simp] theorem State.setPending_nibble (s : State) (x : List Instr) : (s.setPending x).nibble = s.nibble := rfl
@[simp] theorem State.setPending_safety (s : State) (x : List Instr) : (s.setPending x).safety = s.safety := rfl
@[simp] theorem State.setPending_sep (s : State) (x : List Instr) : (s.setPending x).sep = s.sep := rfl
@[simp] theorem State.setPending_twin (s : State) (x : List Instr) : (s.setPending x).twin = s.twin := rfl
@[simp] theorem State.setPending_can (s : State) (x : List Instr) : (s.setPending x).can = s.can := rfl
@[simp] theorem State.setPending_sys (s : State) (x : List Instr) : (s.setPending x).sys = s.sys := rfl

/-! ### `setNow` -/

@[simp] theorem State.setNow_pending (s : State) (x : Nat) : (s.setNow x).pending = s.pending := rfl
@[simp] theorem State.setNow_now (s : State) (x : Nat) : (s.setNow x).now = x := rfl
@[simp] theorem State.setNow_free (s : State) (x : Nat) : (s.setNow x).free = s.free := rfl
@[simp] theorem State.setNow_out (s : State) (x : Nat) : (s.setNow x).out = s.out := rfl
@[simp] theorem State.setNow_host (s : State) (x : Nat) : (s.setNow x).host = s.host := rfl
@[simp] theorem State.setNow_cell (s : State) (x : Nat) : (s.setNow x).cell = s.cell := rfl
@[simp] theorem State.setNow_time (s : State) (x : Nat) : (s.setNow x).time = s.time := rfl
@[simp] theorem State.setNow_rings (s : State) (x : Nat) : (s.setNow x).rings = s.rings := rfl
@[simp] theorem State.setNow_rgCtrl (s : State) (x : Nat) : (s.setNow x).rgCtrl = s.rgCtrl := rfl
@[simp] theorem State.setNow_motion (s : State) (x : Nat) : (s.setNow x).motion = s.motion := rfl
@[simp] theorem State.setNow_loops (s : State) (x : Nat) : (s.setNow x).loops = s.loops := rfl
@[simp] theorem State.setNow_solver (s : State) (x : Nat) : (s.setNow x).solver = s.solver := rfl
@[simp] theorem State.setNow_tiles (s : State) (x : Nat) : (s.setNow x).tiles = s.tiles := rfl
@[simp] theorem State.setNow_disp (s : State) (x : Nat) : (s.setNow x).disp = s.disp := rfl
@[simp] theorem State.setNow_nibble (s : State) (x : Nat) : (s.setNow x).nibble = s.nibble := rfl
@[simp] theorem State.setNow_safety (s : State) (x : Nat) : (s.setNow x).safety = s.safety := rfl
@[simp] theorem State.setNow_sep (s : State) (x : Nat) : (s.setNow x).sep = s.sep := rfl
@[simp] theorem State.setNow_twin (s : State) (x : Nat) : (s.setNow x).twin = s.twin := rfl
@[simp] theorem State.setNow_can (s : State) (x : Nat) : (s.setNow x).can = s.can := rfl
@[simp] theorem State.setNow_sys (s : State) (x : Nat) : (s.setNow x).sys = s.sys := rfl

/-! ### `setFree` -/

@[simp] theorem State.setFree_pending (s : State) (x : Nat) : (s.setFree x).pending = s.pending := rfl
@[simp] theorem State.setFree_now (s : State) (x : Nat) : (s.setFree x).now = s.now := rfl
@[simp] theorem State.setFree_free (s : State) (x : Nat) : (s.setFree x).free = x := rfl
@[simp] theorem State.setFree_out (s : State) (x : Nat) : (s.setFree x).out = s.out := rfl
@[simp] theorem State.setFree_host (s : State) (x : Nat) : (s.setFree x).host = s.host := rfl
@[simp] theorem State.setFree_cell (s : State) (x : Nat) : (s.setFree x).cell = s.cell := rfl
@[simp] theorem State.setFree_time (s : State) (x : Nat) : (s.setFree x).time = s.time := rfl
@[simp] theorem State.setFree_rings (s : State) (x : Nat) : (s.setFree x).rings = s.rings := rfl
@[simp] theorem State.setFree_rgCtrl (s : State) (x : Nat) : (s.setFree x).rgCtrl = s.rgCtrl := rfl
@[simp] theorem State.setFree_motion (s : State) (x : Nat) : (s.setFree x).motion = s.motion := rfl
@[simp] theorem State.setFree_loops (s : State) (x : Nat) : (s.setFree x).loops = s.loops := rfl
@[simp] theorem State.setFree_solver (s : State) (x : Nat) : (s.setFree x).solver = s.solver := rfl
@[simp] theorem State.setFree_tiles (s : State) (x : Nat) : (s.setFree x).tiles = s.tiles := rfl
@[simp] theorem State.setFree_disp (s : State) (x : Nat) : (s.setFree x).disp = s.disp := rfl
@[simp] theorem State.setFree_nibble (s : State) (x : Nat) : (s.setFree x).nibble = s.nibble := rfl
@[simp] theorem State.setFree_safety (s : State) (x : Nat) : (s.setFree x).safety = s.safety := rfl
@[simp] theorem State.setFree_sep (s : State) (x : Nat) : (s.setFree x).sep = s.sep := rfl
@[simp] theorem State.setFree_twin (s : State) (x : Nat) : (s.setFree x).twin = s.twin := rfl
@[simp] theorem State.setFree_can (s : State) (x : Nat) : (s.setFree x).can = s.can := rfl
@[simp] theorem State.setFree_sys (s : State) (x : Nat) : (s.setFree x).sys = s.sys := rfl

/-! ### `setOut` -/

@[simp] theorem State.setOut_pending (s : State) (x : List Out) : (s.setOut x).pending = s.pending := rfl
@[simp] theorem State.setOut_now (s : State) (x : List Out) : (s.setOut x).now = s.now := rfl
@[simp] theorem State.setOut_free (s : State) (x : List Out) : (s.setOut x).free = s.free := rfl
@[simp] theorem State.setOut_out (s : State) (x : List Out) : (s.setOut x).out = x := rfl
@[simp] theorem State.setOut_host (s : State) (x : List Out) : (s.setOut x).host = s.host := rfl
@[simp] theorem State.setOut_cell (s : State) (x : List Out) : (s.setOut x).cell = s.cell := rfl
@[simp] theorem State.setOut_time (s : State) (x : List Out) : (s.setOut x).time = s.time := rfl
@[simp] theorem State.setOut_rings (s : State) (x : List Out) : (s.setOut x).rings = s.rings := rfl
@[simp] theorem State.setOut_rgCtrl (s : State) (x : List Out) : (s.setOut x).rgCtrl = s.rgCtrl := rfl
@[simp] theorem State.setOut_motion (s : State) (x : List Out) : (s.setOut x).motion = s.motion := rfl
@[simp] theorem State.setOut_loops (s : State) (x : List Out) : (s.setOut x).loops = s.loops := rfl
@[simp] theorem State.setOut_solver (s : State) (x : List Out) : (s.setOut x).solver = s.solver := rfl
@[simp] theorem State.setOut_tiles (s : State) (x : List Out) : (s.setOut x).tiles = s.tiles := rfl
@[simp] theorem State.setOut_disp (s : State) (x : List Out) : (s.setOut x).disp = s.disp := rfl
@[simp] theorem State.setOut_nibble (s : State) (x : List Out) : (s.setOut x).nibble = s.nibble := rfl
@[simp] theorem State.setOut_safety (s : State) (x : List Out) : (s.setOut x).safety = s.safety := rfl
@[simp] theorem State.setOut_sep (s : State) (x : List Out) : (s.setOut x).sep = s.sep := rfl
@[simp] theorem State.setOut_twin (s : State) (x : List Out) : (s.setOut x).twin = s.twin := rfl
@[simp] theorem State.setOut_can (s : State) (x : List Out) : (s.setOut x).can = s.can := rfl
@[simp] theorem State.setOut_sys (s : State) (x : List Out) : (s.setOut x).sys = s.sys := rfl

/-! ### `setHost` -/

@[simp] theorem State.setHost_pending (s : State) (x : HostSt) : (s.setHost x).pending = s.pending := rfl
@[simp] theorem State.setHost_now (s : State) (x : HostSt) : (s.setHost x).now = s.now := rfl
@[simp] theorem State.setHost_free (s : State) (x : HostSt) : (s.setHost x).free = s.free := rfl
@[simp] theorem State.setHost_out (s : State) (x : HostSt) : (s.setHost x).out = s.out := rfl
@[simp] theorem State.setHost_host (s : State) (x : HostSt) : (s.setHost x).host = x := rfl
@[simp] theorem State.setHost_cell (s : State) (x : HostSt) : (s.setHost x).cell = s.cell := rfl
@[simp] theorem State.setHost_time (s : State) (x : HostSt) : (s.setHost x).time = s.time := rfl
@[simp] theorem State.setHost_rings (s : State) (x : HostSt) : (s.setHost x).rings = s.rings := rfl
@[simp] theorem State.setHost_rgCtrl (s : State) (x : HostSt) : (s.setHost x).rgCtrl = s.rgCtrl := rfl
@[simp] theorem State.setHost_motion (s : State) (x : HostSt) : (s.setHost x).motion = s.motion := rfl
@[simp] theorem State.setHost_loops (s : State) (x : HostSt) : (s.setHost x).loops = s.loops := rfl
@[simp] theorem State.setHost_solver (s : State) (x : HostSt) : (s.setHost x).solver = s.solver := rfl
@[simp] theorem State.setHost_tiles (s : State) (x : HostSt) : (s.setHost x).tiles = s.tiles := rfl
@[simp] theorem State.setHost_disp (s : State) (x : HostSt) : (s.setHost x).disp = s.disp := rfl
@[simp] theorem State.setHost_nibble (s : State) (x : HostSt) : (s.setHost x).nibble = s.nibble := rfl
@[simp] theorem State.setHost_safety (s : State) (x : HostSt) : (s.setHost x).safety = s.safety := rfl
@[simp] theorem State.setHost_sep (s : State) (x : HostSt) : (s.setHost x).sep = s.sep := rfl
@[simp] theorem State.setHost_twin (s : State) (x : HostSt) : (s.setHost x).twin = s.twin := rfl
@[simp] theorem State.setHost_can (s : State) (x : HostSt) : (s.setHost x).can = s.can := rfl
@[simp] theorem State.setHost_sys (s : State) (x : HostSt) : (s.setHost x).sys = s.sys := rfl

/-! ### `setCell` -/

@[simp] theorem State.setCell_pending (s : State) (x : CellSt) : (s.setCell x).pending = s.pending := rfl
@[simp] theorem State.setCell_now (s : State) (x : CellSt) : (s.setCell x).now = s.now := rfl
@[simp] theorem State.setCell_free (s : State) (x : CellSt) : (s.setCell x).free = s.free := rfl
@[simp] theorem State.setCell_out (s : State) (x : CellSt) : (s.setCell x).out = s.out := rfl
@[simp] theorem State.setCell_host (s : State) (x : CellSt) : (s.setCell x).host = s.host := rfl
@[simp] theorem State.setCell_cell (s : State) (x : CellSt) : (s.setCell x).cell = x := rfl
@[simp] theorem State.setCell_time (s : State) (x : CellSt) : (s.setCell x).time = s.time := rfl
@[simp] theorem State.setCell_rings (s : State) (x : CellSt) : (s.setCell x).rings = s.rings := rfl
@[simp] theorem State.setCell_rgCtrl (s : State) (x : CellSt) : (s.setCell x).rgCtrl = s.rgCtrl := rfl
@[simp] theorem State.setCell_motion (s : State) (x : CellSt) : (s.setCell x).motion = s.motion := rfl
@[simp] theorem State.setCell_loops (s : State) (x : CellSt) : (s.setCell x).loops = s.loops := rfl
@[simp] theorem State.setCell_solver (s : State) (x : CellSt) : (s.setCell x).solver = s.solver := rfl
@[simp] theorem State.setCell_tiles (s : State) (x : CellSt) : (s.setCell x).tiles = s.tiles := rfl
@[simp] theorem State.setCell_disp (s : State) (x : CellSt) : (s.setCell x).disp = s.disp := rfl
@[simp] theorem State.setCell_nibble (s : State) (x : CellSt) : (s.setCell x).nibble = s.nibble := rfl
@[simp] theorem State.setCell_safety (s : State) (x : CellSt) : (s.setCell x).safety = s.safety := rfl
@[simp] theorem State.setCell_sep (s : State) (x : CellSt) : (s.setCell x).sep = s.sep := rfl
@[simp] theorem State.setCell_twin (s : State) (x : CellSt) : (s.setCell x).twin = s.twin := rfl
@[simp] theorem State.setCell_can (s : State) (x : CellSt) : (s.setCell x).can = s.can := rfl
@[simp] theorem State.setCell_sys (s : State) (x : CellSt) : (s.setCell x).sys = s.sys := rfl

/-! ### `setTime` -/

@[simp] theorem State.setTime_pending (s : State) (x : TimeSt) : (s.setTime x).pending = s.pending := rfl
@[simp] theorem State.setTime_now (s : State) (x : TimeSt) : (s.setTime x).now = s.now := rfl
@[simp] theorem State.setTime_free (s : State) (x : TimeSt) : (s.setTime x).free = s.free := rfl
@[simp] theorem State.setTime_out (s : State) (x : TimeSt) : (s.setTime x).out = s.out := rfl
@[simp] theorem State.setTime_host (s : State) (x : TimeSt) : (s.setTime x).host = s.host := rfl
@[simp] theorem State.setTime_cell (s : State) (x : TimeSt) : (s.setTime x).cell = s.cell := rfl
@[simp] theorem State.setTime_time (s : State) (x : TimeSt) : (s.setTime x).time = x := rfl
@[simp] theorem State.setTime_rings (s : State) (x : TimeSt) : (s.setTime x).rings = s.rings := rfl
@[simp] theorem State.setTime_rgCtrl (s : State) (x : TimeSt) : (s.setTime x).rgCtrl = s.rgCtrl := rfl
@[simp] theorem State.setTime_motion (s : State) (x : TimeSt) : (s.setTime x).motion = s.motion := rfl
@[simp] theorem State.setTime_loops (s : State) (x : TimeSt) : (s.setTime x).loops = s.loops := rfl
@[simp] theorem State.setTime_solver (s : State) (x : TimeSt) : (s.setTime x).solver = s.solver := rfl
@[simp] theorem State.setTime_tiles (s : State) (x : TimeSt) : (s.setTime x).tiles = s.tiles := rfl
@[simp] theorem State.setTime_disp (s : State) (x : TimeSt) : (s.setTime x).disp = s.disp := rfl
@[simp] theorem State.setTime_nibble (s : State) (x : TimeSt) : (s.setTime x).nibble = s.nibble := rfl
@[simp] theorem State.setTime_safety (s : State) (x : TimeSt) : (s.setTime x).safety = s.safety := rfl
@[simp] theorem State.setTime_sep (s : State) (x : TimeSt) : (s.setTime x).sep = s.sep := rfl
@[simp] theorem State.setTime_twin (s : State) (x : TimeSt) : (s.setTime x).twin = s.twin := rfl
@[simp] theorem State.setTime_can (s : State) (x : TimeSt) : (s.setTime x).can = s.can := rfl
@[simp] theorem State.setTime_sys (s : State) (x : TimeSt) : (s.setTime x).sys = s.sys := rfl

/-! ### `setRings` -/

@[simp] theorem State.setRings_pending (s : State) (x : Vector RingSt 4) : (s.setRings x).pending = s.pending := rfl
@[simp] theorem State.setRings_now (s : State) (x : Vector RingSt 4) : (s.setRings x).now = s.now := rfl
@[simp] theorem State.setRings_free (s : State) (x : Vector RingSt 4) : (s.setRings x).free = s.free := rfl
@[simp] theorem State.setRings_out (s : State) (x : Vector RingSt 4) : (s.setRings x).out = s.out := rfl
@[simp] theorem State.setRings_host (s : State) (x : Vector RingSt 4) : (s.setRings x).host = s.host := rfl
@[simp] theorem State.setRings_cell (s : State) (x : Vector RingSt 4) : (s.setRings x).cell = s.cell := rfl
@[simp] theorem State.setRings_time (s : State) (x : Vector RingSt 4) : (s.setRings x).time = s.time := rfl
@[simp] theorem State.setRings_rings (s : State) (x : Vector RingSt 4) : (s.setRings x).rings = x := rfl
@[simp] theorem State.setRings_rgCtrl (s : State) (x : Vector RingSt 4) : (s.setRings x).rgCtrl = s.rgCtrl := rfl
@[simp] theorem State.setRings_motion (s : State) (x : Vector RingSt 4) : (s.setRings x).motion = s.motion := rfl
@[simp] theorem State.setRings_loops (s : State) (x : Vector RingSt 4) : (s.setRings x).loops = s.loops := rfl
@[simp] theorem State.setRings_solver (s : State) (x : Vector RingSt 4) : (s.setRings x).solver = s.solver := rfl
@[simp] theorem State.setRings_tiles (s : State) (x : Vector RingSt 4) : (s.setRings x).tiles = s.tiles := rfl
@[simp] theorem State.setRings_disp (s : State) (x : Vector RingSt 4) : (s.setRings x).disp = s.disp := rfl
@[simp] theorem State.setRings_nibble (s : State) (x : Vector RingSt 4) : (s.setRings x).nibble = s.nibble := rfl
@[simp] theorem State.setRings_safety (s : State) (x : Vector RingSt 4) : (s.setRings x).safety = s.safety := rfl
@[simp] theorem State.setRings_sep (s : State) (x : Vector RingSt 4) : (s.setRings x).sep = s.sep := rfl
@[simp] theorem State.setRings_twin (s : State) (x : Vector RingSt 4) : (s.setRings x).twin = s.twin := rfl
@[simp] theorem State.setRings_can (s : State) (x : Vector RingSt 4) : (s.setRings x).can = s.can := rfl
@[simp] theorem State.setRings_sys (s : State) (x : Vector RingSt 4) : (s.setRings x).sys = s.sys := rfl

/-! ### `setRgCtrl` -/

@[simp] theorem State.setRgCtrl_pending (s : State) (x : Word) : (s.setRgCtrl x).pending = s.pending := rfl
@[simp] theorem State.setRgCtrl_now (s : State) (x : Word) : (s.setRgCtrl x).now = s.now := rfl
@[simp] theorem State.setRgCtrl_free (s : State) (x : Word) : (s.setRgCtrl x).free = s.free := rfl
@[simp] theorem State.setRgCtrl_out (s : State) (x : Word) : (s.setRgCtrl x).out = s.out := rfl
@[simp] theorem State.setRgCtrl_host (s : State) (x : Word) : (s.setRgCtrl x).host = s.host := rfl
@[simp] theorem State.setRgCtrl_cell (s : State) (x : Word) : (s.setRgCtrl x).cell = s.cell := rfl
@[simp] theorem State.setRgCtrl_time (s : State) (x : Word) : (s.setRgCtrl x).time = s.time := rfl
@[simp] theorem State.setRgCtrl_rings (s : State) (x : Word) : (s.setRgCtrl x).rings = s.rings := rfl
@[simp] theorem State.setRgCtrl_rgCtrl (s : State) (x : Word) : (s.setRgCtrl x).rgCtrl = x := rfl
@[simp] theorem State.setRgCtrl_motion (s : State) (x : Word) : (s.setRgCtrl x).motion = s.motion := rfl
@[simp] theorem State.setRgCtrl_loops (s : State) (x : Word) : (s.setRgCtrl x).loops = s.loops := rfl
@[simp] theorem State.setRgCtrl_solver (s : State) (x : Word) : (s.setRgCtrl x).solver = s.solver := rfl
@[simp] theorem State.setRgCtrl_tiles (s : State) (x : Word) : (s.setRgCtrl x).tiles = s.tiles := rfl
@[simp] theorem State.setRgCtrl_disp (s : State) (x : Word) : (s.setRgCtrl x).disp = s.disp := rfl
@[simp] theorem State.setRgCtrl_nibble (s : State) (x : Word) : (s.setRgCtrl x).nibble = s.nibble := rfl
@[simp] theorem State.setRgCtrl_safety (s : State) (x : Word) : (s.setRgCtrl x).safety = s.safety := rfl
@[simp] theorem State.setRgCtrl_sep (s : State) (x : Word) : (s.setRgCtrl x).sep = s.sep := rfl
@[simp] theorem State.setRgCtrl_twin (s : State) (x : Word) : (s.setRgCtrl x).twin = s.twin := rfl
@[simp] theorem State.setRgCtrl_can (s : State) (x : Word) : (s.setRgCtrl x).can = s.can := rfl
@[simp] theorem State.setRgCtrl_sys (s : State) (x : Word) : (s.setRgCtrl x).sys = s.sys := rfl

/-! ### `setMotion` -/

@[simp] theorem State.setMotion_pending (s : State) (x : MotionSt) : (s.setMotion x).pending = s.pending := rfl
@[simp] theorem State.setMotion_now (s : State) (x : MotionSt) : (s.setMotion x).now = s.now := rfl
@[simp] theorem State.setMotion_free (s : State) (x : MotionSt) : (s.setMotion x).free = s.free := rfl
@[simp] theorem State.setMotion_out (s : State) (x : MotionSt) : (s.setMotion x).out = s.out := rfl
@[simp] theorem State.setMotion_host (s : State) (x : MotionSt) : (s.setMotion x).host = s.host := rfl
@[simp] theorem State.setMotion_cell (s : State) (x : MotionSt) : (s.setMotion x).cell = s.cell := rfl
@[simp] theorem State.setMotion_time (s : State) (x : MotionSt) : (s.setMotion x).time = s.time := rfl
@[simp] theorem State.setMotion_rings (s : State) (x : MotionSt) : (s.setMotion x).rings = s.rings := rfl
@[simp] theorem State.setMotion_rgCtrl (s : State) (x : MotionSt) : (s.setMotion x).rgCtrl = s.rgCtrl := rfl
@[simp] theorem State.setMotion_motion (s : State) (x : MotionSt) : (s.setMotion x).motion = x := rfl
@[simp] theorem State.setMotion_loops (s : State) (x : MotionSt) : (s.setMotion x).loops = s.loops := rfl
@[simp] theorem State.setMotion_solver (s : State) (x : MotionSt) : (s.setMotion x).solver = s.solver := rfl
@[simp] theorem State.setMotion_tiles (s : State) (x : MotionSt) : (s.setMotion x).tiles = s.tiles := rfl
@[simp] theorem State.setMotion_disp (s : State) (x : MotionSt) : (s.setMotion x).disp = s.disp := rfl
@[simp] theorem State.setMotion_nibble (s : State) (x : MotionSt) : (s.setMotion x).nibble = s.nibble := rfl
@[simp] theorem State.setMotion_safety (s : State) (x : MotionSt) : (s.setMotion x).safety = s.safety := rfl
@[simp] theorem State.setMotion_sep (s : State) (x : MotionSt) : (s.setMotion x).sep = s.sep := rfl
@[simp] theorem State.setMotion_twin (s : State) (x : MotionSt) : (s.setMotion x).twin = s.twin := rfl
@[simp] theorem State.setMotion_can (s : State) (x : MotionSt) : (s.setMotion x).can = s.can := rfl
@[simp] theorem State.setMotion_sys (s : State) (x : MotionSt) : (s.setMotion x).sys = s.sys := rfl

/-! ### `setLoops` -/

@[simp] theorem State.setLoops_pending (s : State) (x : LoopSt) : (s.setLoops x).pending = s.pending := rfl
@[simp] theorem State.setLoops_now (s : State) (x : LoopSt) : (s.setLoops x).now = s.now := rfl
@[simp] theorem State.setLoops_free (s : State) (x : LoopSt) : (s.setLoops x).free = s.free := rfl
@[simp] theorem State.setLoops_out (s : State) (x : LoopSt) : (s.setLoops x).out = s.out := rfl
@[simp] theorem State.setLoops_host (s : State) (x : LoopSt) : (s.setLoops x).host = s.host := rfl
@[simp] theorem State.setLoops_cell (s : State) (x : LoopSt) : (s.setLoops x).cell = s.cell := rfl
@[simp] theorem State.setLoops_time (s : State) (x : LoopSt) : (s.setLoops x).time = s.time := rfl
@[simp] theorem State.setLoops_rings (s : State) (x : LoopSt) : (s.setLoops x).rings = s.rings := rfl
@[simp] theorem State.setLoops_rgCtrl (s : State) (x : LoopSt) : (s.setLoops x).rgCtrl = s.rgCtrl := rfl
@[simp] theorem State.setLoops_motion (s : State) (x : LoopSt) : (s.setLoops x).motion = s.motion := rfl
@[simp] theorem State.setLoops_loops (s : State) (x : LoopSt) : (s.setLoops x).loops = x := rfl
@[simp] theorem State.setLoops_solver (s : State) (x : LoopSt) : (s.setLoops x).solver = s.solver := rfl
@[simp] theorem State.setLoops_tiles (s : State) (x : LoopSt) : (s.setLoops x).tiles = s.tiles := rfl
@[simp] theorem State.setLoops_disp (s : State) (x : LoopSt) : (s.setLoops x).disp = s.disp := rfl
@[simp] theorem State.setLoops_nibble (s : State) (x : LoopSt) : (s.setLoops x).nibble = s.nibble := rfl
@[simp] theorem State.setLoops_safety (s : State) (x : LoopSt) : (s.setLoops x).safety = s.safety := rfl
@[simp] theorem State.setLoops_sep (s : State) (x : LoopSt) : (s.setLoops x).sep = s.sep := rfl
@[simp] theorem State.setLoops_twin (s : State) (x : LoopSt) : (s.setLoops x).twin = s.twin := rfl
@[simp] theorem State.setLoops_can (s : State) (x : LoopSt) : (s.setLoops x).can = s.can := rfl
@[simp] theorem State.setLoops_sys (s : State) (x : LoopSt) : (s.setLoops x).sys = s.sys := rfl

/-! ### `setSolver` -/

@[simp] theorem State.setSolver_pending (s : State) (x : SolverSt) : (s.setSolver x).pending = s.pending := rfl
@[simp] theorem State.setSolver_now (s : State) (x : SolverSt) : (s.setSolver x).now = s.now := rfl
@[simp] theorem State.setSolver_free (s : State) (x : SolverSt) : (s.setSolver x).free = s.free := rfl
@[simp] theorem State.setSolver_out (s : State) (x : SolverSt) : (s.setSolver x).out = s.out := rfl
@[simp] theorem State.setSolver_host (s : State) (x : SolverSt) : (s.setSolver x).host = s.host := rfl
@[simp] theorem State.setSolver_cell (s : State) (x : SolverSt) : (s.setSolver x).cell = s.cell := rfl
@[simp] theorem State.setSolver_time (s : State) (x : SolverSt) : (s.setSolver x).time = s.time := rfl
@[simp] theorem State.setSolver_rings (s : State) (x : SolverSt) : (s.setSolver x).rings = s.rings := rfl
@[simp] theorem State.setSolver_rgCtrl (s : State) (x : SolverSt) : (s.setSolver x).rgCtrl = s.rgCtrl := rfl
@[simp] theorem State.setSolver_motion (s : State) (x : SolverSt) : (s.setSolver x).motion = s.motion := rfl
@[simp] theorem State.setSolver_loops (s : State) (x : SolverSt) : (s.setSolver x).loops = s.loops := rfl
@[simp] theorem State.setSolver_solver (s : State) (x : SolverSt) : (s.setSolver x).solver = x := rfl
@[simp] theorem State.setSolver_tiles (s : State) (x : SolverSt) : (s.setSolver x).tiles = s.tiles := rfl
@[simp] theorem State.setSolver_disp (s : State) (x : SolverSt) : (s.setSolver x).disp = s.disp := rfl
@[simp] theorem State.setSolver_nibble (s : State) (x : SolverSt) : (s.setSolver x).nibble = s.nibble := rfl
@[simp] theorem State.setSolver_safety (s : State) (x : SolverSt) : (s.setSolver x).safety = s.safety := rfl
@[simp] theorem State.setSolver_sep (s : State) (x : SolverSt) : (s.setSolver x).sep = s.sep := rfl
@[simp] theorem State.setSolver_twin (s : State) (x : SolverSt) : (s.setSolver x).twin = s.twin := rfl
@[simp] theorem State.setSolver_can (s : State) (x : SolverSt) : (s.setSolver x).can = s.can := rfl
@[simp] theorem State.setSolver_sys (s : State) (x : SolverSt) : (s.setSolver x).sys = s.sys := rfl

/-! ### `setTiles` -/

@[simp] theorem State.setTiles_pending (s : State) (x : TilesSt) : (s.setTiles x).pending = s.pending := rfl
@[simp] theorem State.setTiles_now (s : State) (x : TilesSt) : (s.setTiles x).now = s.now := rfl
@[simp] theorem State.setTiles_free (s : State) (x : TilesSt) : (s.setTiles x).free = s.free := rfl
@[simp] theorem State.setTiles_out (s : State) (x : TilesSt) : (s.setTiles x).out = s.out := rfl
@[simp] theorem State.setTiles_host (s : State) (x : TilesSt) : (s.setTiles x).host = s.host := rfl
@[simp] theorem State.setTiles_cell (s : State) (x : TilesSt) : (s.setTiles x).cell = s.cell := rfl
@[simp] theorem State.setTiles_time (s : State) (x : TilesSt) : (s.setTiles x).time = s.time := rfl
@[simp] theorem State.setTiles_rings (s : State) (x : TilesSt) : (s.setTiles x).rings = s.rings := rfl
@[simp] theorem State.setTiles_rgCtrl (s : State) (x : TilesSt) : (s.setTiles x).rgCtrl = s.rgCtrl := rfl
@[simp] theorem State.setTiles_motion (s : State) (x : TilesSt) : (s.setTiles x).motion = s.motion := rfl
@[simp] theorem State.setTiles_loops (s : State) (x : TilesSt) : (s.setTiles x).loops = s.loops := rfl
@[simp] theorem State.setTiles_solver (s : State) (x : TilesSt) : (s.setTiles x).solver = s.solver := rfl
@[simp] theorem State.setTiles_tiles (s : State) (x : TilesSt) : (s.setTiles x).tiles = x := rfl
@[simp] theorem State.setTiles_disp (s : State) (x : TilesSt) : (s.setTiles x).disp = s.disp := rfl
@[simp] theorem State.setTiles_nibble (s : State) (x : TilesSt) : (s.setTiles x).nibble = s.nibble := rfl
@[simp] theorem State.setTiles_safety (s : State) (x : TilesSt) : (s.setTiles x).safety = s.safety := rfl
@[simp] theorem State.setTiles_sep (s : State) (x : TilesSt) : (s.setTiles x).sep = s.sep := rfl
@[simp] theorem State.setTiles_twin (s : State) (x : TilesSt) : (s.setTiles x).twin = s.twin := rfl
@[simp] theorem State.setTiles_can (s : State) (x : TilesSt) : (s.setTiles x).can = s.can := rfl
@[simp] theorem State.setTiles_sys (s : State) (x : TilesSt) : (s.setTiles x).sys = s.sys := rfl

/-! ### `setDisp` -/

@[simp] theorem State.setDisp_pending (s : State) (x : DispSt) : (s.setDisp x).pending = s.pending := rfl
@[simp] theorem State.setDisp_now (s : State) (x : DispSt) : (s.setDisp x).now = s.now := rfl
@[simp] theorem State.setDisp_free (s : State) (x : DispSt) : (s.setDisp x).free = s.free := rfl
@[simp] theorem State.setDisp_out (s : State) (x : DispSt) : (s.setDisp x).out = s.out := rfl
@[simp] theorem State.setDisp_host (s : State) (x : DispSt) : (s.setDisp x).host = s.host := rfl
@[simp] theorem State.setDisp_cell (s : State) (x : DispSt) : (s.setDisp x).cell = s.cell := rfl
@[simp] theorem State.setDisp_time (s : State) (x : DispSt) : (s.setDisp x).time = s.time := rfl
@[simp] theorem State.setDisp_rings (s : State) (x : DispSt) : (s.setDisp x).rings = s.rings := rfl
@[simp] theorem State.setDisp_rgCtrl (s : State) (x : DispSt) : (s.setDisp x).rgCtrl = s.rgCtrl := rfl
@[simp] theorem State.setDisp_motion (s : State) (x : DispSt) : (s.setDisp x).motion = s.motion := rfl
@[simp] theorem State.setDisp_loops (s : State) (x : DispSt) : (s.setDisp x).loops = s.loops := rfl
@[simp] theorem State.setDisp_solver (s : State) (x : DispSt) : (s.setDisp x).solver = s.solver := rfl
@[simp] theorem State.setDisp_tiles (s : State) (x : DispSt) : (s.setDisp x).tiles = s.tiles := rfl
@[simp] theorem State.setDisp_disp (s : State) (x : DispSt) : (s.setDisp x).disp = x := rfl
@[simp] theorem State.setDisp_nibble (s : State) (x : DispSt) : (s.setDisp x).nibble = s.nibble := rfl
@[simp] theorem State.setDisp_safety (s : State) (x : DispSt) : (s.setDisp x).safety = s.safety := rfl
@[simp] theorem State.setDisp_sep (s : State) (x : DispSt) : (s.setDisp x).sep = s.sep := rfl
@[simp] theorem State.setDisp_twin (s : State) (x : DispSt) : (s.setDisp x).twin = s.twin := rfl
@[simp] theorem State.setDisp_can (s : State) (x : DispSt) : (s.setDisp x).can = s.can := rfl
@[simp] theorem State.setDisp_sys (s : State) (x : DispSt) : (s.setDisp x).sys = s.sys := rfl

/-! ### `setNibble` -/

@[simp] theorem State.setNibble_pending (s : State) (x : NibbleSt) : (s.setNibble x).pending = s.pending := rfl
@[simp] theorem State.setNibble_now (s : State) (x : NibbleSt) : (s.setNibble x).now = s.now := rfl
@[simp] theorem State.setNibble_free (s : State) (x : NibbleSt) : (s.setNibble x).free = s.free := rfl
@[simp] theorem State.setNibble_out (s : State) (x : NibbleSt) : (s.setNibble x).out = s.out := rfl
@[simp] theorem State.setNibble_host (s : State) (x : NibbleSt) : (s.setNibble x).host = s.host := rfl
@[simp] theorem State.setNibble_cell (s : State) (x : NibbleSt) : (s.setNibble x).cell = s.cell := rfl
@[simp] theorem State.setNibble_time (s : State) (x : NibbleSt) : (s.setNibble x).time = s.time := rfl
@[simp] theorem State.setNibble_rings (s : State) (x : NibbleSt) : (s.setNibble x).rings = s.rings := rfl
@[simp] theorem State.setNibble_rgCtrl (s : State) (x : NibbleSt) : (s.setNibble x).rgCtrl = s.rgCtrl := rfl
@[simp] theorem State.setNibble_motion (s : State) (x : NibbleSt) : (s.setNibble x).motion = s.motion := rfl
@[simp] theorem State.setNibble_loops (s : State) (x : NibbleSt) : (s.setNibble x).loops = s.loops := rfl
@[simp] theorem State.setNibble_solver (s : State) (x : NibbleSt) : (s.setNibble x).solver = s.solver := rfl
@[simp] theorem State.setNibble_tiles (s : State) (x : NibbleSt) : (s.setNibble x).tiles = s.tiles := rfl
@[simp] theorem State.setNibble_disp (s : State) (x : NibbleSt) : (s.setNibble x).disp = s.disp := rfl
@[simp] theorem State.setNibble_nibble (s : State) (x : NibbleSt) : (s.setNibble x).nibble = x := rfl
@[simp] theorem State.setNibble_safety (s : State) (x : NibbleSt) : (s.setNibble x).safety = s.safety := rfl
@[simp] theorem State.setNibble_sep (s : State) (x : NibbleSt) : (s.setNibble x).sep = s.sep := rfl
@[simp] theorem State.setNibble_twin (s : State) (x : NibbleSt) : (s.setNibble x).twin = s.twin := rfl
@[simp] theorem State.setNibble_can (s : State) (x : NibbleSt) : (s.setNibble x).can = s.can := rfl
@[simp] theorem State.setNibble_sys (s : State) (x : NibbleSt) : (s.setNibble x).sys = s.sys := rfl

/-! ### `setSafety` -/

@[simp] theorem State.setSafety_pending (s : State) (x : SafetySt) : (s.setSafety x).pending = s.pending := rfl
@[simp] theorem State.setSafety_now (s : State) (x : SafetySt) : (s.setSafety x).now = s.now := rfl
@[simp] theorem State.setSafety_free (s : State) (x : SafetySt) : (s.setSafety x).free = s.free := rfl
@[simp] theorem State.setSafety_out (s : State) (x : SafetySt) : (s.setSafety x).out = s.out := rfl
@[simp] theorem State.setSafety_host (s : State) (x : SafetySt) : (s.setSafety x).host = s.host := rfl
@[simp] theorem State.setSafety_cell (s : State) (x : SafetySt) : (s.setSafety x).cell = s.cell := rfl
@[simp] theorem State.setSafety_time (s : State) (x : SafetySt) : (s.setSafety x).time = s.time := rfl
@[simp] theorem State.setSafety_rings (s : State) (x : SafetySt) : (s.setSafety x).rings = s.rings := rfl
@[simp] theorem State.setSafety_rgCtrl (s : State) (x : SafetySt) : (s.setSafety x).rgCtrl = s.rgCtrl := rfl
@[simp] theorem State.setSafety_motion (s : State) (x : SafetySt) : (s.setSafety x).motion = s.motion := rfl
@[simp] theorem State.setSafety_loops (s : State) (x : SafetySt) : (s.setSafety x).loops = s.loops := rfl
@[simp] theorem State.setSafety_solver (s : State) (x : SafetySt) : (s.setSafety x).solver = s.solver := rfl
@[simp] theorem State.setSafety_tiles (s : State) (x : SafetySt) : (s.setSafety x).tiles = s.tiles := rfl
@[simp] theorem State.setSafety_disp (s : State) (x : SafetySt) : (s.setSafety x).disp = s.disp := rfl
@[simp] theorem State.setSafety_nibble (s : State) (x : SafetySt) : (s.setSafety x).nibble = s.nibble := rfl
@[simp] theorem State.setSafety_safety (s : State) (x : SafetySt) : (s.setSafety x).safety = x := rfl
@[simp] theorem State.setSafety_sep (s : State) (x : SafetySt) : (s.setSafety x).sep = s.sep := rfl
@[simp] theorem State.setSafety_twin (s : State) (x : SafetySt) : (s.setSafety x).twin = s.twin := rfl
@[simp] theorem State.setSafety_can (s : State) (x : SafetySt) : (s.setSafety x).can = s.can := rfl
@[simp] theorem State.setSafety_sys (s : State) (x : SafetySt) : (s.setSafety x).sys = s.sys := rfl

/-! ### `setSep` -/

@[simp] theorem State.setSep_pending (s : State) (x : SepSt) : (s.setSep x).pending = s.pending := rfl
@[simp] theorem State.setSep_now (s : State) (x : SepSt) : (s.setSep x).now = s.now := rfl
@[simp] theorem State.setSep_free (s : State) (x : SepSt) : (s.setSep x).free = s.free := rfl
@[simp] theorem State.setSep_out (s : State) (x : SepSt) : (s.setSep x).out = s.out := rfl
@[simp] theorem State.setSep_host (s : State) (x : SepSt) : (s.setSep x).host = s.host := rfl
@[simp] theorem State.setSep_cell (s : State) (x : SepSt) : (s.setSep x).cell = s.cell := rfl
@[simp] theorem State.setSep_time (s : State) (x : SepSt) : (s.setSep x).time = s.time := rfl
@[simp] theorem State.setSep_rings (s : State) (x : SepSt) : (s.setSep x).rings = s.rings := rfl
@[simp] theorem State.setSep_rgCtrl (s : State) (x : SepSt) : (s.setSep x).rgCtrl = s.rgCtrl := rfl
@[simp] theorem State.setSep_motion (s : State) (x : SepSt) : (s.setSep x).motion = s.motion := rfl
@[simp] theorem State.setSep_loops (s : State) (x : SepSt) : (s.setSep x).loops = s.loops := rfl
@[simp] theorem State.setSep_solver (s : State) (x : SepSt) : (s.setSep x).solver = s.solver := rfl
@[simp] theorem State.setSep_tiles (s : State) (x : SepSt) : (s.setSep x).tiles = s.tiles := rfl
@[simp] theorem State.setSep_disp (s : State) (x : SepSt) : (s.setSep x).disp = s.disp := rfl
@[simp] theorem State.setSep_nibble (s : State) (x : SepSt) : (s.setSep x).nibble = s.nibble := rfl
@[simp] theorem State.setSep_safety (s : State) (x : SepSt) : (s.setSep x).safety = s.safety := rfl
@[simp] theorem State.setSep_sep (s : State) (x : SepSt) : (s.setSep x).sep = x := rfl
@[simp] theorem State.setSep_twin (s : State) (x : SepSt) : (s.setSep x).twin = s.twin := rfl
@[simp] theorem State.setSep_can (s : State) (x : SepSt) : (s.setSep x).can = s.can := rfl
@[simp] theorem State.setSep_sys (s : State) (x : SepSt) : (s.setSep x).sys = s.sys := rfl

/-! ### `setTwin` -/

@[simp] theorem State.setTwin_pending (s : State) (x : TwinSt) : (s.setTwin x).pending = s.pending := rfl
@[simp] theorem State.setTwin_now (s : State) (x : TwinSt) : (s.setTwin x).now = s.now := rfl
@[simp] theorem State.setTwin_free (s : State) (x : TwinSt) : (s.setTwin x).free = s.free := rfl
@[simp] theorem State.setTwin_out (s : State) (x : TwinSt) : (s.setTwin x).out = s.out := rfl
@[simp] theorem State.setTwin_host (s : State) (x : TwinSt) : (s.setTwin x).host = s.host := rfl
@[simp] theorem State.setTwin_cell (s : State) (x : TwinSt) : (s.setTwin x).cell = s.cell := rfl
@[simp] theorem State.setTwin_time (s : State) (x : TwinSt) : (s.setTwin x).time = s.time := rfl
@[simp] theorem State.setTwin_rings (s : State) (x : TwinSt) : (s.setTwin x).rings = s.rings := rfl
@[simp] theorem State.setTwin_rgCtrl (s : State) (x : TwinSt) : (s.setTwin x).rgCtrl = s.rgCtrl := rfl
@[simp] theorem State.setTwin_motion (s : State) (x : TwinSt) : (s.setTwin x).motion = s.motion := rfl
@[simp] theorem State.setTwin_loops (s : State) (x : TwinSt) : (s.setTwin x).loops = s.loops := rfl
@[simp] theorem State.setTwin_solver (s : State) (x : TwinSt) : (s.setTwin x).solver = s.solver := rfl
@[simp] theorem State.setTwin_tiles (s : State) (x : TwinSt) : (s.setTwin x).tiles = s.tiles := rfl
@[simp] theorem State.setTwin_disp (s : State) (x : TwinSt) : (s.setTwin x).disp = s.disp := rfl
@[simp] theorem State.setTwin_nibble (s : State) (x : TwinSt) : (s.setTwin x).nibble = s.nibble := rfl
@[simp] theorem State.setTwin_safety (s : State) (x : TwinSt) : (s.setTwin x).safety = s.safety := rfl
@[simp] theorem State.setTwin_sep (s : State) (x : TwinSt) : (s.setTwin x).sep = s.sep := rfl
@[simp] theorem State.setTwin_twin (s : State) (x : TwinSt) : (s.setTwin x).twin = x := rfl
@[simp] theorem State.setTwin_can (s : State) (x : TwinSt) : (s.setTwin x).can = s.can := rfl
@[simp] theorem State.setTwin_sys (s : State) (x : TwinSt) : (s.setTwin x).sys = s.sys := rfl

/-! ### `setCan` -/

@[simp] theorem State.setCan_pending (s : State) (x : Vector CanSt 4) : (s.setCan x).pending = s.pending := rfl
@[simp] theorem State.setCan_now (s : State) (x : Vector CanSt 4) : (s.setCan x).now = s.now := rfl
@[simp] theorem State.setCan_free (s : State) (x : Vector CanSt 4) : (s.setCan x).free = s.free := rfl
@[simp] theorem State.setCan_out (s : State) (x : Vector CanSt 4) : (s.setCan x).out = s.out := rfl
@[simp] theorem State.setCan_host (s : State) (x : Vector CanSt 4) : (s.setCan x).host = s.host := rfl
@[simp] theorem State.setCan_cell (s : State) (x : Vector CanSt 4) : (s.setCan x).cell = s.cell := rfl
@[simp] theorem State.setCan_time (s : State) (x : Vector CanSt 4) : (s.setCan x).time = s.time := rfl
@[simp] theorem State.setCan_rings (s : State) (x : Vector CanSt 4) : (s.setCan x).rings = s.rings := rfl
@[simp] theorem State.setCan_rgCtrl (s : State) (x : Vector CanSt 4) : (s.setCan x).rgCtrl = s.rgCtrl := rfl
@[simp] theorem State.setCan_motion (s : State) (x : Vector CanSt 4) : (s.setCan x).motion = s.motion := rfl
@[simp] theorem State.setCan_loops (s : State) (x : Vector CanSt 4) : (s.setCan x).loops = s.loops := rfl
@[simp] theorem State.setCan_solver (s : State) (x : Vector CanSt 4) : (s.setCan x).solver = s.solver := rfl
@[simp] theorem State.setCan_tiles (s : State) (x : Vector CanSt 4) : (s.setCan x).tiles = s.tiles := rfl
@[simp] theorem State.setCan_disp (s : State) (x : Vector CanSt 4) : (s.setCan x).disp = s.disp := rfl
@[simp] theorem State.setCan_nibble (s : State) (x : Vector CanSt 4) : (s.setCan x).nibble = s.nibble := rfl
@[simp] theorem State.setCan_safety (s : State) (x : Vector CanSt 4) : (s.setCan x).safety = s.safety := rfl
@[simp] theorem State.setCan_sep (s : State) (x : Vector CanSt 4) : (s.setCan x).sep = s.sep := rfl
@[simp] theorem State.setCan_twin (s : State) (x : Vector CanSt 4) : (s.setCan x).twin = s.twin := rfl
@[simp] theorem State.setCan_can (s : State) (x : Vector CanSt 4) : (s.setCan x).can = x := rfl
@[simp] theorem State.setCan_sys (s : State) (x : Vector CanSt 4) : (s.setCan x).sys = s.sys := rfl

/-! ### `setSys` -/

@[simp] theorem State.setSys_pending (s : State) (x : SysSt) : (s.setSys x).pending = s.pending := rfl
@[simp] theorem State.setSys_now (s : State) (x : SysSt) : (s.setSys x).now = s.now := rfl
@[simp] theorem State.setSys_free (s : State) (x : SysSt) : (s.setSys x).free = s.free := rfl
@[simp] theorem State.setSys_out (s : State) (x : SysSt) : (s.setSys x).out = s.out := rfl
@[simp] theorem State.setSys_host (s : State) (x : SysSt) : (s.setSys x).host = s.host := rfl
@[simp] theorem State.setSys_cell (s : State) (x : SysSt) : (s.setSys x).cell = s.cell := rfl
@[simp] theorem State.setSys_time (s : State) (x : SysSt) : (s.setSys x).time = s.time := rfl
@[simp] theorem State.setSys_rings (s : State) (x : SysSt) : (s.setSys x).rings = s.rings := rfl
@[simp] theorem State.setSys_rgCtrl (s : State) (x : SysSt) : (s.setSys x).rgCtrl = s.rgCtrl := rfl
@[simp] theorem State.setSys_motion (s : State) (x : SysSt) : (s.setSys x).motion = s.motion := rfl
@[simp] theorem State.setSys_loops (s : State) (x : SysSt) : (s.setSys x).loops = s.loops := rfl
@[simp] theorem State.setSys_solver (s : State) (x : SysSt) : (s.setSys x).solver = s.solver := rfl
@[simp] theorem State.setSys_tiles (s : State) (x : SysSt) : (s.setSys x).tiles = s.tiles := rfl
@[simp] theorem State.setSys_disp (s : State) (x : SysSt) : (s.setSys x).disp = s.disp := rfl
@[simp] theorem State.setSys_nibble (s : State) (x : SysSt) : (s.setSys x).nibble = s.nibble := rfl
@[simp] theorem State.setSys_safety (s : State) (x : SysSt) : (s.setSys x).safety = s.safety := rfl
@[simp] theorem State.setSys_sep (s : State) (x : SysSt) : (s.setSys x).sep = s.sep := rfl
@[simp] theorem State.setSys_twin (s : State) (x : SysSt) : (s.setSys x).twin = s.twin := rfl
@[simp] theorem State.setSys_can (s : State) (x : SysSt) : (s.setSys x).can = s.can := rfl
@[simp] theorem State.setSys_sys (s : State) (x : SysSt) : (s.setSys x).sys = x := rfl

/-! ### `setQueue` -/

@[simp] theorem State.setQueue_pending (s : State) (q : Fin 16) (x : QueueSt) :
    (s.setQueue q x).pending = s.pending := rfl
@[simp] theorem State.setQueue_now (s : State) (q : Fin 16) (x : QueueSt) :
    (s.setQueue q x).now = s.now := rfl
@[simp] theorem State.setQueue_free (s : State) (q : Fin 16) (x : QueueSt) :
    (s.setQueue q x).free = s.free := rfl
@[simp] theorem State.setQueue_out (s : State) (q : Fin 16) (x : QueueSt) :
    (s.setQueue q x).out = s.out := rfl
@[simp] theorem State.setQueue_host (s : State) (q : Fin 16) (x : QueueSt) :
    (s.setQueue q x).host = { s.host with queues := s.host.queues.set q x } := rfl
@[simp] theorem State.setQueue_cell (s : State) (q : Fin 16) (x : QueueSt) :
    (s.setQueue q x).cell = s.cell := rfl
@[simp] theorem State.setQueue_time (s : State) (q : Fin 16) (x : QueueSt) :
    (s.setQueue q x).time = s.time := rfl
@[simp] theorem State.setQueue_rings (s : State) (q : Fin 16) (x : QueueSt) :
    (s.setQueue q x).rings = s.rings := rfl
@[simp] theorem State.setQueue_rgCtrl (s : State) (q : Fin 16) (x : QueueSt) :
    (s.setQueue q x).rgCtrl = s.rgCtrl := rfl
@[simp] theorem State.setQueue_motion (s : State) (q : Fin 16) (x : QueueSt) :
    (s.setQueue q x).motion = s.motion := rfl
@[simp] theorem State.setQueue_loops (s : State) (q : Fin 16) (x : QueueSt) :
    (s.setQueue q x).loops = s.loops := rfl
@[simp] theorem State.setQueue_solver (s : State) (q : Fin 16) (x : QueueSt) :
    (s.setQueue q x).solver = s.solver := rfl
@[simp] theorem State.setQueue_tiles (s : State) (q : Fin 16) (x : QueueSt) :
    (s.setQueue q x).tiles = s.tiles := rfl
@[simp] theorem State.setQueue_disp (s : State) (q : Fin 16) (x : QueueSt) :
    (s.setQueue q x).disp = s.disp := rfl
@[simp] theorem State.setQueue_nibble (s : State) (q : Fin 16) (x : QueueSt) :
    (s.setQueue q x).nibble = s.nibble := rfl
@[simp] theorem State.setQueue_safety (s : State) (q : Fin 16) (x : QueueSt) :
    (s.setQueue q x).safety = s.safety := rfl
@[simp] theorem State.setQueue_sep (s : State) (q : Fin 16) (x : QueueSt) :
    (s.setQueue q x).sep = s.sep := rfl
@[simp] theorem State.setQueue_twin (s : State) (q : Fin 16) (x : QueueSt) :
    (s.setQueue q x).twin = s.twin := rfl
@[simp] theorem State.setQueue_can (s : State) (q : Fin 16) (x : QueueSt) :
    (s.setQueue q x).can = s.can := rfl
@[simp] theorem State.setQueue_sys (s : State) (q : Fin 16) (x : QueueSt) :
    (s.setQueue q x).sys = s.sys := rfl

/-! ### `setSub` -/

@[simp] theorem State.setSub_pending (s : State) (k : Fin 16) (x : SubSt) :
    (s.setSub k x).pending = s.pending := rfl
@[simp] theorem State.setSub_now (s : State) (k : Fin 16) (x : SubSt) :
    (s.setSub k x).now = s.now := rfl
@[simp] theorem State.setSub_free (s : State) (k : Fin 16) (x : SubSt) :
    (s.setSub k x).free = s.free := rfl
@[simp] theorem State.setSub_out (s : State) (k : Fin 16) (x : SubSt) :
    (s.setSub k x).out = s.out := rfl
@[simp] theorem State.setSub_host (s : State) (k : Fin 16) (x : SubSt) :
    (s.setSub k x).host = { s.host with subs := s.host.subs.set k x } := rfl
@[simp] theorem State.setSub_cell (s : State) (k : Fin 16) (x : SubSt) :
    (s.setSub k x).cell = s.cell := rfl
@[simp] theorem State.setSub_time (s : State) (k : Fin 16) (x : SubSt) :
    (s.setSub k x).time = s.time := rfl
@[simp] theorem State.setSub_rings (s : State) (k : Fin 16) (x : SubSt) :
    (s.setSub k x).rings = s.rings := rfl
@[simp] theorem State.setSub_rgCtrl (s : State) (k : Fin 16) (x : SubSt) :
    (s.setSub k x).rgCtrl = s.rgCtrl := rfl
@[simp] theorem State.setSub_motion (s : State) (k : Fin 16) (x : SubSt) :
    (s.setSub k x).motion = s.motion := rfl
@[simp] theorem State.setSub_loops (s : State) (k : Fin 16) (x : SubSt) :
    (s.setSub k x).loops = s.loops := rfl
@[simp] theorem State.setSub_solver (s : State) (k : Fin 16) (x : SubSt) :
    (s.setSub k x).solver = s.solver := rfl
@[simp] theorem State.setSub_tiles (s : State) (k : Fin 16) (x : SubSt) :
    (s.setSub k x).tiles = s.tiles := rfl
@[simp] theorem State.setSub_disp (s : State) (k : Fin 16) (x : SubSt) :
    (s.setSub k x).disp = s.disp := rfl
@[simp] theorem State.setSub_nibble (s : State) (k : Fin 16) (x : SubSt) :
    (s.setSub k x).nibble = s.nibble := rfl
@[simp] theorem State.setSub_safety (s : State) (k : Fin 16) (x : SubSt) :
    (s.setSub k x).safety = s.safety := rfl
@[simp] theorem State.setSub_sep (s : State) (k : Fin 16) (x : SubSt) :
    (s.setSub k x).sep = s.sep := rfl
@[simp] theorem State.setSub_twin (s : State) (k : Fin 16) (x : SubSt) :
    (s.setSub k x).twin = s.twin := rfl
@[simp] theorem State.setSub_can (s : State) (k : Fin 16) (x : SubSt) :
    (s.setSub k x).can = s.can := rfl
@[simp] theorem State.setSub_sys (s : State) (k : Fin 16) (x : SubSt) :
    (s.setSub k x).sys = s.sys := rfl

/-! ### `setChain` -/

@[simp] theorem State.setChain_pending (s : State) (c : Fin 16) (x : ChainSt) :
    (s.setChain c x).pending = s.pending := rfl
@[simp] theorem State.setChain_now (s : State) (c : Fin 16) (x : ChainSt) :
    (s.setChain c x).now = s.now := rfl
@[simp] theorem State.setChain_free (s : State) (c : Fin 16) (x : ChainSt) :
    (s.setChain c x).free = s.free := rfl
@[simp] theorem State.setChain_out (s : State) (c : Fin 16) (x : ChainSt) :
    (s.setChain c x).out = s.out := rfl
@[simp] theorem State.setChain_host (s : State) (c : Fin 16) (x : ChainSt) :
    (s.setChain c x).host = s.host := rfl
@[simp] theorem State.setChain_cell (s : State) (c : Fin 16) (x : ChainSt) :
    (s.setChain c x).cell = s.cell := rfl
@[simp] theorem State.setChain_time (s : State) (c : Fin 16) (x : ChainSt) :
    (s.setChain c x).time = s.time := rfl
@[simp] theorem State.setChain_rings (s : State) (c : Fin 16) (x : ChainSt) :
    (s.setChain c x).rings = s.rings := rfl
@[simp] theorem State.setChain_rgCtrl (s : State) (c : Fin 16) (x : ChainSt) :
    (s.setChain c x).rgCtrl = s.rgCtrl := rfl
@[simp] theorem State.setChain_motion (s : State) (c : Fin 16) (x : ChainSt) :
    (s.setChain c x).motion = { s.motion with chains := s.motion.chains.set c x } := rfl
@[simp] theorem State.setChain_loops (s : State) (c : Fin 16) (x : ChainSt) :
    (s.setChain c x).loops = s.loops := rfl
@[simp] theorem State.setChain_solver (s : State) (c : Fin 16) (x : ChainSt) :
    (s.setChain c x).solver = s.solver := rfl
@[simp] theorem State.setChain_tiles (s : State) (c : Fin 16) (x : ChainSt) :
    (s.setChain c x).tiles = s.tiles := rfl
@[simp] theorem State.setChain_disp (s : State) (c : Fin 16) (x : ChainSt) :
    (s.setChain c x).disp = s.disp := rfl
@[simp] theorem State.setChain_nibble (s : State) (c : Fin 16) (x : ChainSt) :
    (s.setChain c x).nibble = s.nibble := rfl
@[simp] theorem State.setChain_safety (s : State) (c : Fin 16) (x : ChainSt) :
    (s.setChain c x).safety = s.safety := rfl
@[simp] theorem State.setChain_sep (s : State) (c : Fin 16) (x : ChainSt) :
    (s.setChain c x).sep = s.sep := rfl
@[simp] theorem State.setChain_twin (s : State) (c : Fin 16) (x : ChainSt) :
    (s.setChain c x).twin = s.twin := rfl
@[simp] theorem State.setChain_can (s : State) (c : Fin 16) (x : ChainSt) :
    (s.setChain c x).can = s.can := rfl
@[simp] theorem State.setChain_sys (s : State) (c : Fin 16) (x : ChainSt) :
    (s.setChain c x).sys = s.sys := rfl

/-! ### `setIndex` -/

@[simp] theorem State.setIndex_pending (s : State) (c : Fin 16) (x : IndexSt) :
    (s.setIndex c x).pending = s.pending := rfl
@[simp] theorem State.setIndex_now (s : State) (c : Fin 16) (x : IndexSt) :
    (s.setIndex c x).now = s.now := rfl
@[simp] theorem State.setIndex_free (s : State) (c : Fin 16) (x : IndexSt) :
    (s.setIndex c x).free = s.free := rfl
@[simp] theorem State.setIndex_out (s : State) (c : Fin 16) (x : IndexSt) :
    (s.setIndex c x).out = s.out := rfl
@[simp] theorem State.setIndex_host (s : State) (c : Fin 16) (x : IndexSt) :
    (s.setIndex c x).host = s.host := rfl
@[simp] theorem State.setIndex_cell (s : State) (c : Fin 16) (x : IndexSt) :
    (s.setIndex c x).cell = s.cell := rfl
@[simp] theorem State.setIndex_time (s : State) (c : Fin 16) (x : IndexSt) :
    (s.setIndex c x).time = s.time := rfl
@[simp] theorem State.setIndex_rings (s : State) (c : Fin 16) (x : IndexSt) :
    (s.setIndex c x).rings = s.rings := rfl
@[simp] theorem State.setIndex_rgCtrl (s : State) (c : Fin 16) (x : IndexSt) :
    (s.setIndex c x).rgCtrl = s.rgCtrl := rfl
@[simp] theorem State.setIndex_motion (s : State) (c : Fin 16) (x : IndexSt) :
    (s.setIndex c x).motion = s.motion := rfl
@[simp] theorem State.setIndex_loops (s : State) (c : Fin 16) (x : IndexSt) :
    (s.setIndex c x).loops = s.loops := rfl
@[simp] theorem State.setIndex_solver (s : State) (c : Fin 16) (x : IndexSt) :
    (s.setIndex c x).solver = s.solver := rfl
@[simp] theorem State.setIndex_tiles (s : State) (c : Fin 16) (x : IndexSt) :
    (s.setIndex c x).tiles = s.tiles := rfl
@[simp] theorem State.setIndex_disp (s : State) (c : Fin 16) (x : IndexSt) :
    (s.setIndex c x).disp = s.disp := rfl
@[simp] theorem State.setIndex_nibble (s : State) (c : Fin 16) (x : IndexSt) :
    (s.setIndex c x).nibble = s.nibble := rfl
@[simp] theorem State.setIndex_safety (s : State) (c : Fin 16) (x : IndexSt) :
    (s.setIndex c x).safety = { s.safety with index := s.safety.index.set c x } := rfl
@[simp] theorem State.setIndex_sep (s : State) (c : Fin 16) (x : IndexSt) :
    (s.setIndex c x).sep = s.sep := rfl
@[simp] theorem State.setIndex_twin (s : State) (c : Fin 16) (x : IndexSt) :
    (s.setIndex c x).twin = s.twin := rfl
@[simp] theorem State.setIndex_can (s : State) (c : Fin 16) (x : IndexSt) :
    (s.setIndex c x).can = s.can := rfl
@[simp] theorem State.setIndex_sys (s : State) (c : Fin 16) (x : IndexSt) :
    (s.setIndex c x).sys = s.sys := rfl

/-! ### `setRing` -/

@[simp] theorem State.setRing_pending (s : State) (r : Fin 4) (x : RingSt) :
    (s.setRing r x).pending = s.pending := rfl
@[simp] theorem State.setRing_now (s : State) (r : Fin 4) (x : RingSt) :
    (s.setRing r x).now = s.now := rfl
@[simp] theorem State.setRing_free (s : State) (r : Fin 4) (x : RingSt) :
    (s.setRing r x).free = s.free := rfl
@[simp] theorem State.setRing_out (s : State) (r : Fin 4) (x : RingSt) :
    (s.setRing r x).out = s.out := rfl
@[simp] theorem State.setRing_host (s : State) (r : Fin 4) (x : RingSt) :
    (s.setRing r x).host = s.host := rfl
@[simp] theorem State.setRing_cell (s : State) (r : Fin 4) (x : RingSt) :
    (s.setRing r x).cell = s.cell := rfl
@[simp] theorem State.setRing_time (s : State) (r : Fin 4) (x : RingSt) :
    (s.setRing r x).time = s.time := rfl
@[simp] theorem State.setRing_rings (s : State) (r : Fin 4) (x : RingSt) :
    (s.setRing r x).rings = s.rings.set r x := rfl
@[simp] theorem State.setRing_rgCtrl (s : State) (r : Fin 4) (x : RingSt) :
    (s.setRing r x).rgCtrl = s.rgCtrl := rfl
@[simp] theorem State.setRing_motion (s : State) (r : Fin 4) (x : RingSt) :
    (s.setRing r x).motion = s.motion := rfl
@[simp] theorem State.setRing_loops (s : State) (r : Fin 4) (x : RingSt) :
    (s.setRing r x).loops = s.loops := rfl
@[simp] theorem State.setRing_solver (s : State) (r : Fin 4) (x : RingSt) :
    (s.setRing r x).solver = s.solver := rfl
@[simp] theorem State.setRing_tiles (s : State) (r : Fin 4) (x : RingSt) :
    (s.setRing r x).tiles = s.tiles := rfl
@[simp] theorem State.setRing_disp (s : State) (r : Fin 4) (x : RingSt) :
    (s.setRing r x).disp = s.disp := rfl
@[simp] theorem State.setRing_nibble (s : State) (r : Fin 4) (x : RingSt) :
    (s.setRing r x).nibble = s.nibble := rfl
@[simp] theorem State.setRing_safety (s : State) (r : Fin 4) (x : RingSt) :
    (s.setRing r x).safety = s.safety := rfl
@[simp] theorem State.setRing_sep (s : State) (r : Fin 4) (x : RingSt) :
    (s.setRing r x).sep = s.sep := rfl
@[simp] theorem State.setRing_twin (s : State) (r : Fin 4) (x : RingSt) :
    (s.setRing r x).twin = s.twin := rfl
@[simp] theorem State.setRing_can (s : State) (r : Fin 4) (x : RingSt) :
    (s.setRing r x).can = s.can := rfl
@[simp] theorem State.setRing_sys (s : State) (r : Fin 4) (x : RingSt) :
    (s.setRing r x).sys = s.sys := rfl

/-! ### `setCanN` -/

@[simp] theorem State.setCanN_pending (s : State) (n : Fin 4) (x : CanSt) :
    (s.setCanN n x).pending = s.pending := rfl
@[simp] theorem State.setCanN_now (s : State) (n : Fin 4) (x : CanSt) :
    (s.setCanN n x).now = s.now := rfl
@[simp] theorem State.setCanN_free (s : State) (n : Fin 4) (x : CanSt) :
    (s.setCanN n x).free = s.free := rfl
@[simp] theorem State.setCanN_out (s : State) (n : Fin 4) (x : CanSt) :
    (s.setCanN n x).out = s.out := rfl
@[simp] theorem State.setCanN_host (s : State) (n : Fin 4) (x : CanSt) :
    (s.setCanN n x).host = s.host := rfl
@[simp] theorem State.setCanN_cell (s : State) (n : Fin 4) (x : CanSt) :
    (s.setCanN n x).cell = s.cell := rfl
@[simp] theorem State.setCanN_time (s : State) (n : Fin 4) (x : CanSt) :
    (s.setCanN n x).time = s.time := rfl
@[simp] theorem State.setCanN_rings (s : State) (n : Fin 4) (x : CanSt) :
    (s.setCanN n x).rings = s.rings := rfl
@[simp] theorem State.setCanN_rgCtrl (s : State) (n : Fin 4) (x : CanSt) :
    (s.setCanN n x).rgCtrl = s.rgCtrl := rfl
@[simp] theorem State.setCanN_motion (s : State) (n : Fin 4) (x : CanSt) :
    (s.setCanN n x).motion = s.motion := rfl
@[simp] theorem State.setCanN_loops (s : State) (n : Fin 4) (x : CanSt) :
    (s.setCanN n x).loops = s.loops := rfl
@[simp] theorem State.setCanN_solver (s : State) (n : Fin 4) (x : CanSt) :
    (s.setCanN n x).solver = s.solver := rfl
@[simp] theorem State.setCanN_tiles (s : State) (n : Fin 4) (x : CanSt) :
    (s.setCanN n x).tiles = s.tiles := rfl
@[simp] theorem State.setCanN_disp (s : State) (n : Fin 4) (x : CanSt) :
    (s.setCanN n x).disp = s.disp := rfl
@[simp] theorem State.setCanN_nibble (s : State) (n : Fin 4) (x : CanSt) :
    (s.setCanN n x).nibble = s.nibble := rfl
@[simp] theorem State.setCanN_safety (s : State) (n : Fin 4) (x : CanSt) :
    (s.setCanN n x).safety = s.safety := rfl
@[simp] theorem State.setCanN_sep (s : State) (n : Fin 4) (x : CanSt) :
    (s.setCanN n x).sep = s.sep := rfl
@[simp] theorem State.setCanN_twin (s : State) (n : Fin 4) (x : CanSt) :
    (s.setCanN n x).twin = s.twin := rfl
@[simp] theorem State.setCanN_can (s : State) (n : Fin 4) (x : CanSt) :
    (s.setCanN n x).can = s.can.set n x := rfl
@[simp] theorem State.setCanN_sys (s : State) (n : Fin 4) (x : CanSt) :
    (s.setCanN n x).sys = s.sys := rfl

/-! ### `setAxis` -/

@[simp] theorem State.setAxis_pending (s : State) (a : Fin 160) (x : AxisSt) :
    (s.setAxis a x).pending = s.pending := rfl
@[simp] theorem State.setAxis_now (s : State) (a : Fin 160) (x : AxisSt) :
    (s.setAxis a x).now = s.now := rfl
@[simp] theorem State.setAxis_free (s : State) (a : Fin 160) (x : AxisSt) :
    (s.setAxis a x).free = s.free := rfl
@[simp] theorem State.setAxis_out (s : State) (a : Fin 160) (x : AxisSt) :
    (s.setAxis a x).out = s.out := rfl
@[simp] theorem State.setAxis_host (s : State) (a : Fin 160) (x : AxisSt) :
    (s.setAxis a x).host = s.host := rfl
@[simp] theorem State.setAxis_cell (s : State) (a : Fin 160) (x : AxisSt) :
    (s.setAxis a x).cell = s.cell := rfl
@[simp] theorem State.setAxis_time (s : State) (a : Fin 160) (x : AxisSt) :
    (s.setAxis a x).time = s.time := rfl
@[simp] theorem State.setAxis_rings (s : State) (a : Fin 160) (x : AxisSt) :
    (s.setAxis a x).rings = s.rings := rfl
@[simp] theorem State.setAxis_rgCtrl (s : State) (a : Fin 160) (x : AxisSt) :
    (s.setAxis a x).rgCtrl = s.rgCtrl := rfl
@[simp] theorem State.setAxis_motion (s : State) (a : Fin 160) (x : AxisSt) :
    (s.setAxis a x).motion = s.motion := rfl
@[simp] theorem State.setAxis_loops (s : State) (a : Fin 160) (x : AxisSt) :
    (s.setAxis a x).loops = { s.loops with axes := s.loops.axes.set a x } := rfl
@[simp] theorem State.setAxis_solver (s : State) (a : Fin 160) (x : AxisSt) :
    (s.setAxis a x).solver = s.solver := rfl
@[simp] theorem State.setAxis_tiles (s : State) (a : Fin 160) (x : AxisSt) :
    (s.setAxis a x).tiles = s.tiles := rfl
@[simp] theorem State.setAxis_disp (s : State) (a : Fin 160) (x : AxisSt) :
    (s.setAxis a x).disp = s.disp := rfl
@[simp] theorem State.setAxis_nibble (s : State) (a : Fin 160) (x : AxisSt) :
    (s.setAxis a x).nibble = s.nibble := rfl
@[simp] theorem State.setAxis_safety (s : State) (a : Fin 160) (x : AxisSt) :
    (s.setAxis a x).safety = s.safety := rfl
@[simp] theorem State.setAxis_sep (s : State) (a : Fin 160) (x : AxisSt) :
    (s.setAxis a x).sep = s.sep := rfl
@[simp] theorem State.setAxis_twin (s : State) (a : Fin 160) (x : AxisSt) :
    (s.setAxis a x).twin = s.twin := rfl
@[simp] theorem State.setAxis_can (s : State) (a : Fin 160) (x : AxisSt) :
    (s.setAxis a x).can = s.can := rfl
@[simp] theorem State.setAxis_sys (s : State) (a : Fin 160) (x : AxisSt) :
    (s.setAxis a x).sys = s.sys := rfl

/-! ### `setTile` -/

@[simp] theorem State.setTile_pending (s : State) (t : Fin 16) (x : TileSt) :
    (s.setTile t x).pending = s.pending := rfl
@[simp] theorem State.setTile_now (s : State) (t : Fin 16) (x : TileSt) :
    (s.setTile t x).now = s.now := rfl
@[simp] theorem State.setTile_free (s : State) (t : Fin 16) (x : TileSt) :
    (s.setTile t x).free = s.free := rfl
@[simp] theorem State.setTile_out (s : State) (t : Fin 16) (x : TileSt) :
    (s.setTile t x).out = s.out := rfl
@[simp] theorem State.setTile_host (s : State) (t : Fin 16) (x : TileSt) :
    (s.setTile t x).host = s.host := rfl
@[simp] theorem State.setTile_cell (s : State) (t : Fin 16) (x : TileSt) :
    (s.setTile t x).cell = s.cell := rfl
@[simp] theorem State.setTile_time (s : State) (t : Fin 16) (x : TileSt) :
    (s.setTile t x).time = s.time := rfl
@[simp] theorem State.setTile_rings (s : State) (t : Fin 16) (x : TileSt) :
    (s.setTile t x).rings = s.rings := rfl
@[simp] theorem State.setTile_rgCtrl (s : State) (t : Fin 16) (x : TileSt) :
    (s.setTile t x).rgCtrl = s.rgCtrl := rfl
@[simp] theorem State.setTile_motion (s : State) (t : Fin 16) (x : TileSt) :
    (s.setTile t x).motion = s.motion := rfl
@[simp] theorem State.setTile_loops (s : State) (t : Fin 16) (x : TileSt) :
    (s.setTile t x).loops = s.loops := rfl
@[simp] theorem State.setTile_solver (s : State) (t : Fin 16) (x : TileSt) :
    (s.setTile t x).solver = s.solver := rfl
@[simp] theorem State.setTile_tiles (s : State) (t : Fin 16) (x : TileSt) :
    (s.setTile t x).tiles = { s.tiles with tiles := s.tiles.tiles.set t x } := rfl
@[simp] theorem State.setTile_disp (s : State) (t : Fin 16) (x : TileSt) :
    (s.setTile t x).disp = s.disp := rfl
@[simp] theorem State.setTile_nibble (s : State) (t : Fin 16) (x : TileSt) :
    (s.setTile t x).nibble = s.nibble := rfl
@[simp] theorem State.setTile_safety (s : State) (t : Fin 16) (x : TileSt) :
    (s.setTile t x).safety = s.safety := rfl
@[simp] theorem State.setTile_sep (s : State) (t : Fin 16) (x : TileSt) :
    (s.setTile t x).sep = s.sep := rfl
@[simp] theorem State.setTile_twin (s : State) (t : Fin 16) (x : TileSt) :
    (s.setTile t x).twin = s.twin := rfl
@[simp] theorem State.setTile_can (s : State) (t : Fin 16) (x : TileSt) :
    (s.setTile t x).can = s.can := rfl
@[simp] theorem State.setTile_sys (s : State) (t : Fin 16) (x : TileSt) :
    (s.setTile t x).sys = s.sys := rfl

/-! ### `setKernel` -/

@[simp] theorem State.setKernel_pending (s : State) (k : Fin 64) (x : KernelSt) :
    (s.setKernel k x).pending = s.pending := rfl
@[simp] theorem State.setKernel_now (s : State) (k : Fin 64) (x : KernelSt) :
    (s.setKernel k x).now = s.now := rfl
@[simp] theorem State.setKernel_free (s : State) (k : Fin 64) (x : KernelSt) :
    (s.setKernel k x).free = s.free := rfl
@[simp] theorem State.setKernel_out (s : State) (k : Fin 64) (x : KernelSt) :
    (s.setKernel k x).out = s.out := rfl
@[simp] theorem State.setKernel_host (s : State) (k : Fin 64) (x : KernelSt) :
    (s.setKernel k x).host = s.host := rfl
@[simp] theorem State.setKernel_cell (s : State) (k : Fin 64) (x : KernelSt) :
    (s.setKernel k x).cell = s.cell := rfl
@[simp] theorem State.setKernel_time (s : State) (k : Fin 64) (x : KernelSt) :
    (s.setKernel k x).time = s.time := rfl
@[simp] theorem State.setKernel_rings (s : State) (k : Fin 64) (x : KernelSt) :
    (s.setKernel k x).rings = s.rings := rfl
@[simp] theorem State.setKernel_rgCtrl (s : State) (k : Fin 64) (x : KernelSt) :
    (s.setKernel k x).rgCtrl = s.rgCtrl := rfl
@[simp] theorem State.setKernel_motion (s : State) (k : Fin 64) (x : KernelSt) :
    (s.setKernel k x).motion = s.motion := rfl
@[simp] theorem State.setKernel_loops (s : State) (k : Fin 64) (x : KernelSt) :
    (s.setKernel k x).loops = s.loops := rfl
@[simp] theorem State.setKernel_solver (s : State) (k : Fin 64) (x : KernelSt) :
    (s.setKernel k x).solver = s.solver := rfl
@[simp] theorem State.setKernel_tiles (s : State) (k : Fin 64) (x : KernelSt) :
    (s.setKernel k x).tiles = { s.tiles with kernels := s.tiles.kernels.set k x } := rfl
@[simp] theorem State.setKernel_disp (s : State) (k : Fin 64) (x : KernelSt) :
    (s.setKernel k x).disp = s.disp := rfl
@[simp] theorem State.setKernel_nibble (s : State) (k : Fin 64) (x : KernelSt) :
    (s.setKernel k x).nibble = s.nibble := rfl
@[simp] theorem State.setKernel_safety (s : State) (k : Fin 64) (x : KernelSt) :
    (s.setKernel k x).safety = s.safety := rfl
@[simp] theorem State.setKernel_sep (s : State) (k : Fin 64) (x : KernelSt) :
    (s.setKernel k x).sep = s.sep := rfl
@[simp] theorem State.setKernel_twin (s : State) (k : Fin 64) (x : KernelSt) :
    (s.setKernel k x).twin = s.twin := rfl
@[simp] theorem State.setKernel_can (s : State) (k : Fin 64) (x : KernelSt) :
    (s.setKernel k x).can = s.can := rfl
@[simp] theorem State.setKernel_sys (s : State) (k : Fin 64) (x : KernelSt) :
    (s.setKernel k x).sys = s.sys := rfl

/-! ### `setSolve` -/

@[simp] theorem State.setSolve_pending (s : State) (p : Fin 4) (x : SolveSt) :
    (s.setSolve p x).pending = s.pending := rfl
@[simp] theorem State.setSolve_now (s : State) (p : Fin 4) (x : SolveSt) :
    (s.setSolve p x).now = s.now := rfl
@[simp] theorem State.setSolve_free (s : State) (p : Fin 4) (x : SolveSt) :
    (s.setSolve p x).free = s.free := rfl
@[simp] theorem State.setSolve_out (s : State) (p : Fin 4) (x : SolveSt) :
    (s.setSolve p x).out = s.out := rfl
@[simp] theorem State.setSolve_host (s : State) (p : Fin 4) (x : SolveSt) :
    (s.setSolve p x).host = s.host := rfl
@[simp] theorem State.setSolve_cell (s : State) (p : Fin 4) (x : SolveSt) :
    (s.setSolve p x).cell = s.cell := rfl
@[simp] theorem State.setSolve_time (s : State) (p : Fin 4) (x : SolveSt) :
    (s.setSolve p x).time = s.time := rfl
@[simp] theorem State.setSolve_rings (s : State) (p : Fin 4) (x : SolveSt) :
    (s.setSolve p x).rings = s.rings := rfl
@[simp] theorem State.setSolve_rgCtrl (s : State) (p : Fin 4) (x : SolveSt) :
    (s.setSolve p x).rgCtrl = s.rgCtrl := rfl
@[simp] theorem State.setSolve_motion (s : State) (p : Fin 4) (x : SolveSt) :
    (s.setSolve p x).motion = s.motion := rfl
@[simp] theorem State.setSolve_loops (s : State) (p : Fin 4) (x : SolveSt) :
    (s.setSolve p x).loops = s.loops := rfl
@[simp] theorem State.setSolve_solver (s : State) (p : Fin 4) (x : SolveSt) :
    (s.setSolve p x).solver = { s.solver with solves := s.solver.solves.set p x } := rfl
@[simp] theorem State.setSolve_tiles (s : State) (p : Fin 4) (x : SolveSt) :
    (s.setSolve p x).tiles = s.tiles := rfl
@[simp] theorem State.setSolve_disp (s : State) (p : Fin 4) (x : SolveSt) :
    (s.setSolve p x).disp = s.disp := rfl
@[simp] theorem State.setSolve_nibble (s : State) (p : Fin 4) (x : SolveSt) :
    (s.setSolve p x).nibble = s.nibble := rfl
@[simp] theorem State.setSolve_safety (s : State) (p : Fin 4) (x : SolveSt) :
    (s.setSolve p x).safety = s.safety := rfl
@[simp] theorem State.setSolve_sep (s : State) (p : Fin 4) (x : SolveSt) :
    (s.setSolve p x).sep = s.sep := rfl
@[simp] theorem State.setSolve_twin (s : State) (p : Fin 4) (x : SolveSt) :
    (s.setSolve p x).twin = s.twin := rfl
@[simp] theorem State.setSolve_can (s : State) (p : Fin 4) (x : SolveSt) :
    (s.setSolve p x).can = s.can := rfl
@[simp] theorem State.setSolve_sys (s : State) (p : Fin 4) (x : SolveSt) :
    (s.setSolve p x).sys = s.sys := rfl

/-! ### `setProb` -/

@[simp] theorem State.setProb_pending (s : State) (p : Fin 4) (x : ProbSt) :
    (s.setProb p x).pending = s.pending := rfl
@[simp] theorem State.setProb_now (s : State) (p : Fin 4) (x : ProbSt) :
    (s.setProb p x).now = s.now := rfl
@[simp] theorem State.setProb_free (s : State) (p : Fin 4) (x : ProbSt) :
    (s.setProb p x).free = s.free := rfl
@[simp] theorem State.setProb_out (s : State) (p : Fin 4) (x : ProbSt) :
    (s.setProb p x).out = s.out := rfl
@[simp] theorem State.setProb_host (s : State) (p : Fin 4) (x : ProbSt) :
    (s.setProb p x).host = s.host := rfl
@[simp] theorem State.setProb_cell (s : State) (p : Fin 4) (x : ProbSt) :
    (s.setProb p x).cell = s.cell := rfl
@[simp] theorem State.setProb_time (s : State) (p : Fin 4) (x : ProbSt) :
    (s.setProb p x).time = s.time := rfl
@[simp] theorem State.setProb_rings (s : State) (p : Fin 4) (x : ProbSt) :
    (s.setProb p x).rings = s.rings := rfl
@[simp] theorem State.setProb_rgCtrl (s : State) (p : Fin 4) (x : ProbSt) :
    (s.setProb p x).rgCtrl = s.rgCtrl := rfl
@[simp] theorem State.setProb_motion (s : State) (p : Fin 4) (x : ProbSt) :
    (s.setProb p x).motion = s.motion := rfl
@[simp] theorem State.setProb_loops (s : State) (p : Fin 4) (x : ProbSt) :
    (s.setProb p x).loops = s.loops := rfl
@[simp] theorem State.setProb_solver (s : State) (p : Fin 4) (x : ProbSt) :
    (s.setProb p x).solver = { s.solver with probs := s.solver.probs.set p x } := rfl
@[simp] theorem State.setProb_tiles (s : State) (p : Fin 4) (x : ProbSt) :
    (s.setProb p x).tiles = s.tiles := rfl
@[simp] theorem State.setProb_disp (s : State) (p : Fin 4) (x : ProbSt) :
    (s.setProb p x).disp = s.disp := rfl
@[simp] theorem State.setProb_nibble (s : State) (p : Fin 4) (x : ProbSt) :
    (s.setProb p x).nibble = s.nibble := rfl
@[simp] theorem State.setProb_safety (s : State) (p : Fin 4) (x : ProbSt) :
    (s.setProb p x).safety = s.safety := rfl
@[simp] theorem State.setProb_sep (s : State) (p : Fin 4) (x : ProbSt) :
    (s.setProb p x).sep = s.sep := rfl
@[simp] theorem State.setProb_twin (s : State) (p : Fin 4) (x : ProbSt) :
    (s.setProb p x).twin = s.twin := rfl
@[simp] theorem State.setProb_can (s : State) (p : Fin 4) (x : ProbSt) :
    (s.setProb p x).can = s.can := rfl
@[simp] theorem State.setProb_sys (s : State) (p : Fin 4) (x : ProbSt) :
    (s.setProb p x).sys = s.sys := rfl

/-! ### `setEngine` -/

@[simp] theorem State.setEngine_pending (s : State) (e : Fin 16) (x : EngineSt) :
    (s.setEngine e x).pending = s.pending := rfl
@[simp] theorem State.setEngine_now (s : State) (e : Fin 16) (x : EngineSt) :
    (s.setEngine e x).now = s.now := rfl
@[simp] theorem State.setEngine_free (s : State) (e : Fin 16) (x : EngineSt) :
    (s.setEngine e x).free = s.free := rfl
@[simp] theorem State.setEngine_out (s : State) (e : Fin 16) (x : EngineSt) :
    (s.setEngine e x).out = s.out := rfl
@[simp] theorem State.setEngine_host (s : State) (e : Fin 16) (x : EngineSt) :
    (s.setEngine e x).host = s.host := rfl
@[simp] theorem State.setEngine_cell (s : State) (e : Fin 16) (x : EngineSt) :
    (s.setEngine e x).cell = s.cell := rfl
@[simp] theorem State.setEngine_time (s : State) (e : Fin 16) (x : EngineSt) :
    (s.setEngine e x).time = s.time := rfl
@[simp] theorem State.setEngine_rings (s : State) (e : Fin 16) (x : EngineSt) :
    (s.setEngine e x).rings = s.rings := rfl
@[simp] theorem State.setEngine_rgCtrl (s : State) (e : Fin 16) (x : EngineSt) :
    (s.setEngine e x).rgCtrl = s.rgCtrl := rfl
@[simp] theorem State.setEngine_motion (s : State) (e : Fin 16) (x : EngineSt) :
    (s.setEngine e x).motion = s.motion := rfl
@[simp] theorem State.setEngine_loops (s : State) (e : Fin 16) (x : EngineSt) :
    (s.setEngine e x).loops = { s.loops with engines := s.loops.engines.set e x } := rfl
@[simp] theorem State.setEngine_solver (s : State) (e : Fin 16) (x : EngineSt) :
    (s.setEngine e x).solver = s.solver := rfl
@[simp] theorem State.setEngine_tiles (s : State) (e : Fin 16) (x : EngineSt) :
    (s.setEngine e x).tiles = s.tiles := rfl
@[simp] theorem State.setEngine_disp (s : State) (e : Fin 16) (x : EngineSt) :
    (s.setEngine e x).disp = s.disp := rfl
@[simp] theorem State.setEngine_nibble (s : State) (e : Fin 16) (x : EngineSt) :
    (s.setEngine e x).nibble = s.nibble := rfl
@[simp] theorem State.setEngine_safety (s : State) (e : Fin 16) (x : EngineSt) :
    (s.setEngine e x).safety = s.safety := rfl
@[simp] theorem State.setEngine_sep (s : State) (e : Fin 16) (x : EngineSt) :
    (s.setEngine e x).sep = s.sep := rfl
@[simp] theorem State.setEngine_twin (s : State) (e : Fin 16) (x : EngineSt) :
    (s.setEngine e x).twin = s.twin := rfl
@[simp] theorem State.setEngine_can (s : State) (e : Fin 16) (x : EngineSt) :
    (s.setEngine e x).can = s.can := rfl
@[simp] theorem State.setEngine_sys (s : State) (e : Fin 16) (x : EngineSt) :
    (s.setEngine e x).sys = s.sys := rfl

/-! ### `setSlot`, `emit` and `nextFree` -/

@[simp] theorem State.setSlot_pending (s : State) (e : Fin 16) (k : Fin 32) (x : LoopSlot) : (s.setSlot e k x).pending = s.pending := rfl
@[simp] theorem State.setSlot_now (s : State) (e : Fin 16) (k : Fin 32) (x : LoopSlot) : (s.setSlot e k x).now = s.now := rfl
@[simp] theorem State.setSlot_free (s : State) (e : Fin 16) (k : Fin 32) (x : LoopSlot) : (s.setSlot e k x).free = s.free := rfl
@[simp] theorem State.setSlot_out (s : State) (e : Fin 16) (k : Fin 32) (x : LoopSlot) : (s.setSlot e k x).out = s.out := rfl
@[simp] theorem State.setSlot_host (s : State) (e : Fin 16) (k : Fin 32) (x : LoopSlot) : (s.setSlot e k x).host = s.host := rfl
@[simp] theorem State.setSlot_cell (s : State) (e : Fin 16) (k : Fin 32) (x : LoopSlot) : (s.setSlot e k x).cell = s.cell := rfl
@[simp] theorem State.setSlot_time (s : State) (e : Fin 16) (k : Fin 32) (x : LoopSlot) : (s.setSlot e k x).time = s.time := rfl
@[simp] theorem State.setSlot_rings (s : State) (e : Fin 16) (k : Fin 32) (x : LoopSlot) : (s.setSlot e k x).rings = s.rings := rfl
@[simp] theorem State.setSlot_rgCtrl (s : State) (e : Fin 16) (k : Fin 32) (x : LoopSlot) : (s.setSlot e k x).rgCtrl = s.rgCtrl := rfl
@[simp] theorem State.setSlot_motion (s : State) (e : Fin 16) (k : Fin 32) (x : LoopSlot) : (s.setSlot e k x).motion = s.motion := rfl
@[simp] theorem State.setSlot_solver (s : State) (e : Fin 16) (k : Fin 32) (x : LoopSlot) : (s.setSlot e k x).solver = s.solver := rfl
@[simp] theorem State.setSlot_tiles (s : State) (e : Fin 16) (k : Fin 32) (x : LoopSlot) : (s.setSlot e k x).tiles = s.tiles := rfl
@[simp] theorem State.setSlot_disp (s : State) (e : Fin 16) (k : Fin 32) (x : LoopSlot) : (s.setSlot e k x).disp = s.disp := rfl
@[simp] theorem State.setSlot_nibble (s : State) (e : Fin 16) (k : Fin 32) (x : LoopSlot) : (s.setSlot e k x).nibble = s.nibble := rfl
@[simp] theorem State.setSlot_safety (s : State) (e : Fin 16) (k : Fin 32) (x : LoopSlot) : (s.setSlot e k x).safety = s.safety := rfl
@[simp] theorem State.setSlot_sep (s : State) (e : Fin 16) (k : Fin 32) (x : LoopSlot) : (s.setSlot e k x).sep = s.sep := rfl
@[simp] theorem State.setSlot_twin (s : State) (e : Fin 16) (k : Fin 32) (x : LoopSlot) : (s.setSlot e k x).twin = s.twin := rfl
@[simp] theorem State.setSlot_can (s : State) (e : Fin 16) (k : Fin 32) (x : LoopSlot) : (s.setSlot e k x).can = s.can := rfl
@[simp] theorem State.setSlot_sys (s : State) (e : Fin 16) (k : Fin 32) (x : LoopSlot) : (s.setSlot e k x).sys = s.sys := rfl
@[simp] theorem State.emit_pending (s : State) (o : Out) : (s.emit o).pending = s.pending := rfl
@[simp] theorem State.emit_now (s : State) (o : Out) : (s.emit o).now = s.now := rfl
@[simp] theorem State.emit_free (s : State) (o : Out) : (s.emit o).free = s.free := rfl
@[simp] theorem State.emit_out (s : State) (o : Out) : (s.emit o).out = o :: s.out := rfl
@[simp] theorem State.emit_host (s : State) (o : Out) : (s.emit o).host = s.host := rfl
@[simp] theorem State.emit_cell (s : State) (o : Out) : (s.emit o).cell = s.cell := rfl
@[simp] theorem State.emit_time (s : State) (o : Out) : (s.emit o).time = s.time := rfl
@[simp] theorem State.emit_rings (s : State) (o : Out) : (s.emit o).rings = s.rings := rfl
@[simp] theorem State.emit_rgCtrl (s : State) (o : Out) : (s.emit o).rgCtrl = s.rgCtrl := rfl
@[simp] theorem State.emit_motion (s : State) (o : Out) : (s.emit o).motion = s.motion := rfl
@[simp] theorem State.emit_loops (s : State) (o : Out) : (s.emit o).loops = s.loops := rfl
@[simp] theorem State.emit_solver (s : State) (o : Out) : (s.emit o).solver = s.solver := rfl
@[simp] theorem State.emit_tiles (s : State) (o : Out) : (s.emit o).tiles = s.tiles := rfl
@[simp] theorem State.emit_disp (s : State) (o : Out) : (s.emit o).disp = s.disp := rfl
@[simp] theorem State.emit_nibble (s : State) (o : Out) : (s.emit o).nibble = s.nibble := rfl
@[simp] theorem State.emit_safety (s : State) (o : Out) : (s.emit o).safety = s.safety := rfl
@[simp] theorem State.emit_sep (s : State) (o : Out) : (s.emit o).sep = s.sep := rfl
@[simp] theorem State.emit_twin (s : State) (o : Out) : (s.emit o).twin = s.twin := rfl
@[simp] theorem State.emit_can (s : State) (o : Out) : (s.emit o).can = s.can := rfl
@[simp] theorem State.emit_sys (s : State) (o : Out) : (s.emit o).sys = s.sys := rfl
@[simp] theorem State.nextFree_pending (s : State) : s.nextFree.pending = s.pending := rfl
@[simp] theorem State.nextFree_now (s : State) : s.nextFree.now = s.now := rfl
@[simp] theorem State.nextFree_free (s : State) : s.nextFree.free = s.free + 1 := rfl
@[simp] theorem State.nextFree_out (s : State) : s.nextFree.out = s.out := rfl
@[simp] theorem State.nextFree_host (s : State) : s.nextFree.host = s.host := rfl
@[simp] theorem State.nextFree_cell (s : State) : s.nextFree.cell = s.cell := rfl
@[simp] theorem State.nextFree_time (s : State) : s.nextFree.time = s.time := rfl
@[simp] theorem State.nextFree_rings (s : State) : s.nextFree.rings = s.rings := rfl
@[simp] theorem State.nextFree_rgCtrl (s : State) : s.nextFree.rgCtrl = s.rgCtrl := rfl
@[simp] theorem State.nextFree_motion (s : State) : s.nextFree.motion = s.motion := rfl
@[simp] theorem State.nextFree_loops (s : State) : s.nextFree.loops = s.loops := rfl
@[simp] theorem State.nextFree_solver (s : State) : s.nextFree.solver = s.solver := rfl
@[simp] theorem State.nextFree_tiles (s : State) : s.nextFree.tiles = s.tiles := rfl
@[simp] theorem State.nextFree_disp (s : State) : s.nextFree.disp = s.disp := rfl
@[simp] theorem State.nextFree_nibble (s : State) : s.nextFree.nibble = s.nibble := rfl
@[simp] theorem State.nextFree_safety (s : State) : s.nextFree.safety = s.safety := rfl
@[simp] theorem State.nextFree_sep (s : State) : s.nextFree.sep = s.sep := rfl
@[simp] theorem State.nextFree_twin (s : State) : s.nextFree.twin = s.twin := rfl
@[simp] theorem State.nextFree_can (s : State) : s.nextFree.can = s.can := rfl
@[simp] theorem State.nextFree_sys (s : State) : s.nextFree.sys = s.sys := rfl

end Sys2Proof.Machine
end

