-- ==== Sys2Proof/Laws/Maps.lean ====
section
/-! SUPPORT. The sparse maps: what a read gives after a write, and that every write keeps the canonical form. -/

namespace Sys2Proof.Machine

/-- The first key of a map, if it has one, is at least `k`. -/
def headGe {α : Type} (k : Nat) (m : List (Nat × α)) : Prop := ∀ e, m.head? = some e → k ≤ e.1

theorem mwf_cons {α : Type} [DecidableEq α] {d : α} {j : Nat} {v : α} {r : List (Nat × α)} :
    mwf d ((j, v) :: r) = true ↔ v ≠ d ∧ headGe (j + 1) r ∧ mwf d r = true := by
  cases r with
  | nil => simp [mwf, headGe]
  | cons e r =>
    obtain ⟨k, w⟩ := e
    simp only [mwf, headGe, Bool.and_eq_true, decide_eq_true_eq, List.head?_cons, Option.some.injEq, forall_eq', Nat.succ_le_iff]
    tauto

theorem headGe_mono {α : Type} {k j : Nat} {m : List (Nat × α)} (h : headGe k m) (hj : j ≤ k) : headGe j m :=
  fun e he => Nat.le_trans hj (h e he)

/-- In a canonical map every key is at least the first. -/
theorem mget_below {α : Type} [DecidableEq α] {d : α} {k : Nat} {m : List (Nat × α)} (hm : mwf d m = true)
    (h : headGe (k + 1) m) : mget d m k = d := by
  induction m with
  | nil => rfl
  | cons e r ih =>
    obtain ⟨j, v⟩ := e
    have hj : k + 1 ≤ j := h _ rfl
    obtain ⟨-, h2, h3⟩ := mwf_cons.1 hm
    have hne : j ≠ k := by omega
    simp only [mget, hne, if_false]
    exact ih h3 (headGe_mono h2 (by omega))

/-! ### Insertion -/

theorem headGe_mins {α : Type} {m : List (Nat × α)} {k j : Nat} {v : α} (h : headGe j m) (hk : j ≤ k) :
    headGe j (mins m k v) := by
  intro e he
  cases m with
  | nil =>
    simp only [mins, List.head?_cons, Option.some.injEq] at he
    exact he ▸ hk
  | cons f r =>
    obtain ⟨i, w⟩ := f
    have hi : j ≤ i := h _ rfl
    simp only [mins] at he
    split at he
    · exact (Option.some.inj he) ▸ hk
    · split at he
      · exact (Option.some.inj he) ▸ hk
      · exact (Option.some.inj he) ▸ hi

theorem mins_mwf {α : Type} [DecidableEq α] {d : α} {m : List (Nat × α)} {k : Nat} {v : α} (hv : v ≠ d)
    (hm : mwf d m = true) : mwf d (mins m k v) = true := by
  induction m with
  | nil => simpa [mins, mwf] using hv
  | cons e r ih =>
    obtain ⟨j, w⟩ := e
    obtain ⟨h1, h2, h3⟩ := mwf_cons.1 hm
    simp only [mins]
    split
    · rename_i hlt
      exact mwf_cons.2 ⟨hv, fun e he => by cases he; exact hlt, hm⟩
    · split
      · rename_i hnl hjk
        exact mwf_cons.2 ⟨hv, hjk ▸ h2, h3⟩
      · rename_i hnl hne
        exact mwf_cons.2 ⟨h1, headGe_mins h2 (by omega), ih h3⟩

theorem mget_mins {α : Type} {d : α} {m : List (Nat × α)} {k j : Nat} {v : α} :
    mget d (mins m k v) j = if k = j then v else mget d m j := by
  induction m with
  | nil =>
    simp only [mins, mget]
  | cons e r ih =>
    obtain ⟨i, w⟩ := e
    simp only [mins]
    split
    · simp only [mget]
    · split
      · rename_i hik
        subst hik
        simp only [mget]
        split <;> rfl
      · rename_i hik
        simp only [mget, ih]
        split
        · rename_i hij
          subst hij
          rw [if_neg (fun h => hik h.symm)]
        · rfl

/-! ### Removal -/

theorem headGe_mdel {α : Type} [DecidableEq α] {d : α} {m : List (Nat × α)} {k j : Nat} (hm : mwf d m = true)
    (h : headGe j m) : headGe j (mdel m k) := by
  cases m with
  | nil => exact h
  | cons e r =>
    obtain ⟨i, w⟩ := e
    have hi : j ≤ i := h _ rfl
    obtain ⟨-, h2, -⟩ := mwf_cons.1 hm
    simp only [mdel]
    split
    · exact headGe_mono h2 (by omega)
    · exact fun e he => by cases he; exact hi

theorem mdel_mwf {α : Type} [DecidableEq α] {d : α} {m : List (Nat × α)} {k : Nat} (hm : mwf d m = true) :
    mwf d (mdel m k) = true := by
  induction m with
  | nil => rfl
  | cons e r ih =>
    obtain ⟨j, w⟩ := e
    obtain ⟨h1, h2, h3⟩ := mwf_cons.1 hm
    simp only [mdel]
    split
    · exact h3
    · exact mwf_cons.2 ⟨h1, headGe_mdel h3 h2, ih h3⟩

theorem mget_mdel {α : Type} [DecidableEq α] {d : α} {m : List (Nat × α)} {k j : Nat} (hm : mwf d m = true) :
    mget d (mdel m k) j = if k = j then d else mget d m j := by
  induction m with
  | nil => simp only [mdel, mget, ite_self]
  | cons e r ih =>
    obtain ⟨i, w⟩ := e
    obtain ⟨-, h2, h3⟩ := mwf_cons.1 hm
    simp only [mdel]
    split
    · rename_i hik
      subst hik
      by_cases hij : i = j
      · subst hij
        rw [if_pos rfl, mget_below h3 h2]
      · simp only [mget, hij, if_false]
    · rename_i hik
      simp only [mget, ih h3]
      split
      · rename_i hij
        subst hij
        rw [if_neg (fun h => hik h.symm)]
      · rfl

/-! ### Writes -/

/-- A write keeps the canonical form. -/
theorem mput_mwf {α : Type} [DecidableEq α] {d : α} {m : List (Nat × α)} (k : Nat) (v : α) (hm : mwf d m = true) :
    mwf d (mput d m k v) = true := by
  unfold mput
  split
  · exact mdel_mwf hm
  · exact mins_mwf ‹_› hm

/-- A read after a write: the value written at its key, and every other key as before. -/
theorem mget_mput {α : Type} [DecidableEq α] {d : α} {m : List (Nat × α)} (k j : Nat) (v : α) (hm : mwf d m = true) :
    mget d (mput d m k v) j = if k = j then v else mget d m j := by
  unfold mput
  split
  · rename_i hv
    rw [mget_mdel hm, hv]
  · exact mget_mins

/-- A fold of writes keeps the canonical form. -/
theorem foldl_mwf {α β : Type} [DecidableEq α] {d : α} (l : List β) (g : List (Nat × α) → β → List (Nat × α))
    (m : List (Nat × α)) (hm : mwf d m = true) (hg : ∀ m x, mwf d m = true → mwf d (g m x) = true) :
    mwf d (l.foldl g m) = true := by
  induction l generalizing m with
  | nil => exact hm
  | cons a r ih => exact ih _ (hg _ _ hm)

end Sys2Proof.Machine
end

