-- ==== Sys2Proof/Laws/Mem.lean ====
section
/-! SUPPORT. The canonical form of the RAMs (the nibble images and the kernels' windows): every operation keeps it. One lemma
per operation. -/

namespace Sys2Proof.Machine

set_option linter.unreachableTactic false
set_option linter.unusedTactic false
set_option linter.unusedSimpArgs false

/-- Two values are the same: equality in a form that a proof search does not evaluate. -/
structure SameAs {α : Type} (a b : α) : Prop where
  eq : a = b

theorem SameAs.refl {α : Type} (a : α) : SameAs a a := ⟨rfl⟩

theorem memWf_iff {s : State} : s.memWf = true ↔ mwf (3 : Nib) s.nibble.front = true ∧
    mwf (3 : Nib) s.nibble.back = true ∧ ∀ k : Fin 64, mwf (0 : Word) s.tiles.kernels[k].window = true := by
  unfold State.memWf
  rw [Bool.and_eq_true, Bool.and_eq_true, List.all_eq_true, and_assoc]
  refine and_congr_right fun _ => and_congr_right fun _ => ⟨fun h k => h _ ?_, fun h x hx => ?_⟩
  · exact Vector.mem_toList_iff.2 (Vector.getElem_mem k.isLt)
  · obtain ⟨i, hi, rfl⟩ := Vector.mem_iff_getElem.1 (Vector.mem_toList_iff.1 hx)
    exact h ⟨i, hi⟩

theorem memWf_ite {c : Prop} [Decidable c] {s t : State} (hs : s.memWf) (ht : t.memWf) : (if c then s else t).memWf := by
  split <;> assumption

theorem memWf_foldl {α : Type} (l : List α) (g : State → α → State) (s : State) (h : s.memWf)
    (hg : ∀ s x, s.memWf → (g s x).memWf) : (l.foldl g s).memWf := by
  induction l generalizing s with
  | nil => exact h
  | cons a r ih => exact ih _ (hg _ _ h)

theorem memWf_foldOn (l : List Nat) (s : State) (g : State → Nat → State) (h : s.memWf)
    (hg : ∀ s x, s.memWf → (g s x).memWf) : (foldOn l s g).memWf := memWf_foldl l g s h hg

/-- Writes to the nibble plane that leave the images. -/
theorem State.setNibble_memWf (s : State) (x : NibbleSt) (h : s.memWf) (hf : SameAs x.front s.nibble.front)
    (hb : SameAs x.back s.nibble.back) : (s.setNibble x).memWf := by
  have := memWf_iff.1 h
  exact memWf_iff.2 ⟨hf.eq ▸ this.1, hb.eq ▸ this.2.1, this.2.2⟩

/-- Writes to the nibble plane whose images are canonical. -/
theorem State.setImages_memWf (s : State) (x : NibbleSt) (h : s.memWf) (hf : mwf (3 : Nib) x.front = true)
    (hb : mwf (3 : Nib) x.back = true) : (s.setNibble x).memWf := memWf_iff.2 ⟨hf, hb, (memWf_iff.1 h).2.2⟩

/-- Writes to the tiles that leave the kernels. -/
theorem State.setTiles_memWf (s : State) (x : TilesSt) (h : s.memWf) (hk : SameAs x.kernels s.tiles.kernels) :
    (s.setTiles x).memWf := by
  have := memWf_iff.1 h
  exact memWf_iff.2 ⟨this.1, this.2.1, hk.eq ▸ this.2.2⟩

/-- A kernel whose window is canonical. -/
theorem State.setKernel_window (s : State) (k : Fin 64) (x : KernelSt) (h : s.memWf) (hw : mwf (0 : Word) x.window = true) :
    (s.setKernel k x).memWf := by
  have := memWf_iff.1 h
  refine memWf_iff.2 ⟨this.1, this.2.1, fun j => ?_⟩
  simp only [State.setKernel_tiles]
  by_cases e : k = j
  · subst e
    simpa using hw
  · have e' : k.val ≠ j.val := fun q => e (Fin.ext q)
    simpa [Vector.getElem_set, e'] using this.2.2 j

/-- A kernel whose window stays as it was. -/
theorem State.setKernel_memWf (s : State) (k : Fin 64) (x : KernelSt) (h : s.memWf)
    (hw : SameAs x.window s.tiles.kernels[k].window) : (s.setKernel k x).memWf :=
  s.setKernel_window k x h (hw.eq ▸ (memWf_iff.1 h).2.2 k)

/-! ### Operations of Ops -/

theorem State.setPending_memWf (s : State) (x : List Instr) (h : s.memWf) :
    (State.setPending s x).memWf := by
  exact h

theorem State.setNow_memWf (s : State) (x : Nat) (h : s.memWf) :
    (State.setNow s x).memWf := by
  exact h

theorem State.setFree_memWf (s : State) (x : Nat) (h : s.memWf) :
    (State.setFree s x).memWf := by
  exact h

theorem State.setOut_memWf (s : State) (x : List Out) (h : s.memWf) :
    (State.setOut s x).memWf := by
  exact h

theorem State.setHost_memWf (s : State) (x : HostSt) (h : s.memWf) :
    (State.setHost s x).memWf := by
  exact h

theorem State.setCell_memWf (s : State) (x : CellSt) (h : s.memWf) :
    (State.setCell s x).memWf := by
  exact h

theorem State.setTime_memWf (s : State) (x : TimeSt) (h : s.memWf) :
    (State.setTime s x).memWf := by
  exact h

theorem State.setRings_memWf (s : State) (x : Vector RingSt 4) (h : s.memWf) :
    (State.setRings s x).memWf := by
  exact h

theorem State.setRgCtrl_memWf (s : State) (x : Word) (h : s.memWf) :
    (State.setRgCtrl s x).memWf := by
  exact h

theorem State.setMotion_memWf (s : State) (x : MotionSt) (h : s.memWf) :
    (State.setMotion s x).memWf := by
  exact h

theorem State.setLoops_memWf (s : State) (x : LoopSt) (h : s.memWf) :
    (State.setLoops s x).memWf := by
  exact h

theorem State.setSolver_memWf (s : State) (x : SolverSt) (h : s.memWf) :
    (State.setSolver s x).memWf := by
  exact h

theorem State.setDisp_memWf (s : State) (x : DispSt) (h : s.memWf) :
    (State.setDisp s x).memWf := by
  exact h

theorem State.setSafety_memWf (s : State) (x : SafetySt) (h : s.memWf) :
    (State.setSafety s x).memWf := by
  exact h

theorem State.setSep_memWf (s : State) (x : SepSt) (h : s.memWf) :
    (State.setSep s x).memWf := by
  exact h

theorem State.setTwin_memWf (s : State) (x : TwinSt) (h : s.memWf) :
    (State.setTwin s x).memWf := by
  exact h

theorem State.setCan_memWf (s : State) (x : Vector CanSt 4) (h : s.memWf) :
    (State.setCan s x).memWf := by
  exact h

theorem State.setSys_memWf (s : State) (x : SysSt) (h : s.memWf) :
    (State.setSys s x).memWf := by
  exact h

theorem State.setQueue_memWf (s : State) (q : Fin 16) (x : QueueSt) (h : s.memWf) :
    (State.setQueue s q x).memWf := by
  exact h

theorem State.setChain_memWf (s : State) (c : Fin 16) (x : ChainSt) (h : s.memWf) :
    (State.setChain s c x).memWf := by
  exact h

theorem State.setIndex_memWf (s : State) (c : Fin 16) (x : IndexSt) (h : s.memWf) :
    (State.setIndex s c x).memWf := by
  exact h

theorem State.setRing_memWf (s : State) (r : Fin 4) (x : RingSt) (h : s.memWf) :
    (State.setRing s r x).memWf := by
  exact h

theorem State.setCanN_memWf (s : State) (n : Fin 4) (x : CanSt) (h : s.memWf) :
    (State.setCanN s n x).memWf := by
  exact h

theorem State.setAxis_memWf (s : State) (a : Fin 160) (x : AxisSt) (h : s.memWf) :
    (State.setAxis s a x).memWf := by
  exact h

theorem State.setTile_memWf (s : State) (t : Fin 16) (x : TileSt) (h : s.memWf) :
    (State.setTile s t x).memWf := by
  exact h

theorem State.setSolve_memWf (s : State) (p : Fin 4) (x : SolveSt) (h : s.memWf) :
    (State.setSolve s p x).memWf := by
  exact h

theorem State.setProb_memWf (s : State) (p : Fin 4) (x : ProbSt) (h : s.memWf) :
    (State.setProb s p x).memWf := by
  exact h

theorem State.setSub_memWf (s : State) (k : Fin 16) (x : SubSt) (h : s.memWf) :
    (State.setSub s k x).memWf := by
  exact h

theorem State.setEngine_memWf (s : State) (e : Fin 16) (x : EngineSt) (h : s.memWf) :
    (State.setEngine s e x).memWf := by
  exact h

theorem State.setSlot_memWf (s : State) (e : Fin 16) (k : Fin 32) (x : LoopSlot) (h : s.memWf) :
    (State.setSlot s e k x).memWf := by
  exact h

theorem State.emit_memWf (s : State) (o : Out) (h : s.memWf) :
    (State.emit s o).memWf := by
  exact h

theorem State.nextFree_memWf (s : State) (h : s.memWf) :
    (State.nextFree s).memWf := by
  exact h

theorem State.notice_memWf (s : State) (k : NoticeKind) (a b : Nat) (h : s.memWf) :
    (State.notice s k a b).memWf := by
  exact h

theorem State.logRec_memWf (s : State) (kind a b c : Nat) (h : s.memWf) :
    (State.logRec s kind a b c).memWf := by
  exact h

theorem State.sendBenjo_memWf (s : State) (type : Nat) (payload : List Byte) (h : s.memWf) :
    (State.sendBenjo s type payload).memWf := by
  exact h

theorem State.reply_memWf (s : State) (p : Pkt) (v : Verdict) (payload : List Byte) (lost : Bool) (waiters : List (Nat × Nat × Word)) (h : s.memWf) :
    (State.reply s p v payload lost waiters).memWf := by
  unfold State.reply
  dsimp only
  repeat' (first | with_reducible assumption | (with_reducible apply State.logRec_memWf) | (with_reducible apply State.sendBenjo_memWf) | (with_reducible apply State.setDisp_memWf) | (with_reducible apply State.setQueue_memWf) | (with_reducible refine memWf_ite ?_ ?_) | exact SameAs.refl _ | split)

theorem State.dropTag_memWf (s : State) (q : Fin 16) (tag : Nat) (h : s.memWf) :
    (State.dropTag s q tag).memWf := by
  exact h

theorem State.finishN_memWf (fuel : Nat) (s : State) (p : Pkt) (v : Verdict) (payload : List Byte) (lost : Bool) (waiters : List (Nat × Nat × Word)) (h : s.memWf) :
    (State.finishN fuel s p v payload lost waiters).memWf := by
  induction fuel generalizing s p v payload lost waiters with
  | zero =>
    unfold State.finishN
    exact State.reply_memWf _ _ _ _ _ _ (State.dropTag_memWf _ _ _ h)
  | succ n ih =>
    unfold State.finishN
    try dsimp only
    repeat' (first | (with_reducible apply ih) | with_reducible assumption | (with_reducible apply State.dropTag_memWf) | (with_reducible apply State.reply_memWf) | (with_reducible apply State.setCell_memWf) | (with_reducible apply State.setQueue_memWf) | (with_reducible refine memWf_ite ?_ ?_) | (with_reducible refine memWf_foldl _ _ _ ?_ (fun s x hS => ?_)) | exact SameAs.refl _ | split)

theorem State.finish_memWf (s : State) (p : Pkt) (v : Verdict) (payload : List Byte) (h : s.memWf) :
    (State.finish s p v payload).memWf := by
  unfold State.finish
  repeat' (first | with_reducible assumption | (with_reducible apply State.finishN_memWf) | exact SameAs.refl _ | split)

theorem State.finishOk_memWf (s : State) (p : Pkt) (w0 w1 : Word) (payload : List Byte) (h : s.memWf) :
    (State.finishOk s p w0 w1 payload).memWf := by
  unfold State.finishOk
  repeat' (first | with_reducible assumption | (with_reducible apply State.finish_memWf) | exact SameAs.refl _ | split)

theorem State.interim_memWf (s : State) (p : Pkt) (code : Nat) (h : s.memWf) :
    (State.interim s p code).memWf := by
  unfold State.interim
  dsimp only
  repeat' (first | with_reducible assumption | (with_reducible apply State.setQueue_memWf) | (with_reducible refine memWf_ite ?_ ?_) | exact SameAs.refl _ | split)

theorem State.finishTag_memWf (s : State) (q tag : Nat) (v : Verdict) (payload : List Byte) (h : s.memWf) :
    (State.finishTag s q tag v payload).memWf := by
  unfold State.finishTag
  repeat' (first | with_reducible assumption | (with_reducible apply State.finish_memWf) | exact SameAs.refl _ | split)

theorem State.entryRun_memWf (s : State) (f : DelayEntry → Bool) (h : s.memWf) :
    (State.entryRun s f).memWf := by
  exact h

theorem State.onExpiry_memWf (s : State) (f : DelayEntry → Bool) (g : State → State) (h : s.memWf)
    (hg : ∀ t, t.memWf → (g t).memWf) : (s.onExpiry f g).memWf := by
  unfold State.onExpiry
  split
  · exact hg _ (State.entryRun_memWf _ _ h)
  · exact h

theorem State.passOn_memWf (s : State) (q : Fin 16) (p : Pkt) (t : State) (h : t.memWf) :
    (s.passOn q p t).memWf := by
  unfold State.passOn
  dsimp only
  split
  · split
    · exact State.setTime_memWf _ _ h
    · exact h
  · split
    · exact State.sendBenjo_memWf _ _ _ (State.setQueue_memWf _ _ _ h)
    · exact h

theorem State.begun_memWf (s : State) (q : Fin 16) (p : Pkt) (h : s.memWf) :
    (State.begun s q p).memWf := by
  unfold State.begun
  dsimp only
  repeat' (first | with_reducible assumption | (with_reducible apply State.setQueue_memWf) | (with_reducible apply State.setTime_memWf) | (with_reducible refine memWf_ite ?_ ?_) | exact SameAs.refl _ | split)

theorem State.startPkt_memWf (s : State) (q : Fin 16) (tag : Fin 1024) (op : Nat) (f : Pkt → State → State)
    (h : s.memWf) (hf : ∀ p t, t.memWf → (f p t).memWf) : (s.startPkt q tag op f).memWf := by
  unfold State.startPkt
  split
  · exact h
  · dsimp only
    split
    · exact State.finish_memWf _ _ _ _ h
    · exact State.passOn_memWf _ _ _ _ (hf _ _ (State.begun_memWf _ _ _ h))

theorem State.latchUnit_memWf (s : State) (b : Nat) (gone : Bool) (h : s.memWf) :
    (State.latchUnit s b gone).memWf := by
  unfold State.latchUnit
  dsimp only
  repeat' (first | with_reducible assumption | (with_reducible apply State.setSys_memWf) | (with_reducible refine memWf_ite ?_ ?_) | exact SameAs.refl _ | split)

/-! ### Operations of Operands -/

theorem State.sendMgmt_memWf (s : State) (ring : Fin 4) (code hop : Nat) (h : s.memWf) :
    (State.sendMgmt s ring code hop).memWf := by
  exact h

theorem State.dropPart_memWf (s : State) (st : Stream) (h : s.memWf) :
    (State.dropPart s st).memWf := by
  exact h

theorem State.fragment_memWf (s : State) (st : Stream) (p : Pkt) (busyLast : Bool) (whole : List Byte → State → State)
    (h : s.memWf) (hw : ∀ bs t, t.memWf → (whole bs t).memWf) : (s.fragment st p busyLast whole).memWf := by
  unfold State.fragment
  try dsimp only
  repeat' (first | (with_reducible apply hw) | with_reducible assumption | (with_reducible apply State.dropPart_memWf) | (with_reducible apply State.finish_memWf) | (with_reducible apply State.finishOk_memWf) | (with_reducible apply State.setCell_memWf) | exact SameAs.refl _ | split)

/-! ### Operations of Arbiter -/

theorem State.setArb_memWf (s : State) (i : Nat) (a : ArbSt) (h : s.memWf) :
    (State.setArb s i a).memWf := by
  exact h

theorem State.askUnit_memWf (s : State) (i r : Nat) (h : s.memWf) :
    (State.askUnit s i r).memWf := by
  unfold State.askUnit
  dsimp only
  repeat' (first | with_reducible assumption | (with_reducible apply State.setArb_memWf) | (with_reducible refine memWf_ite ?_ ?_) | exact SameAs.refl _ | split)

theorem State.leaveUnit_memWf (s : State) (i r : Nat) (h : s.memWf) :
    (State.leaveUnit s i r).memWf := by
  exact h

theorem State.arbitrate_memWf (s : State) (i : Nat) (h : s.memWf) :
    (State.arbitrate s i).memWf := by
  unfold State.arbitrate
  dsimp only
  repeat' (first | with_reducible assumption | (with_reducible apply State.askUnit_memWf) | (with_reducible apply State.leaveUnit_memWf) | (with_reducible apply State.setArb_memWf) | (with_reducible refine memWf_ite ?_ ?_) | (with_reducible refine memWf_foldl _ _ _ ?_ (fun s x hS => ?_)) | exact SameAs.refl _ | split)

/-! ### Operations of Pair -/

theorem State.sendHello_memWf (s : State) (digest : Word) (act : Bool) (h : s.memWf) :
    (State.sendHello s digest act).memWf := by
  exact h

theorem State.sendIdle_memWf (s : State) (h : s.memWf) :
    (State.sendIdle s).memWf := by
  unfold State.sendIdle
  repeat' (first | with_reducible assumption | (with_reducible apply State.sendBenjo_memWf) | (with_reducible refine memWf_ite ?_ ?_) | exact SameAs.refl _ | split)

theorem State.sendTime_memWf (s : State) (h : s.memWf) :
    (State.sendTime s).memWf := by
  unfold State.sendTime
  repeat' (first | with_reducible assumption | (with_reducible apply State.sendBenjo_memWf) | (with_reducible refine memWf_ite ?_ ?_) | exact SameAs.refl _ | split)

theorem State.sendOnce_memWf (s : State) (type : Nat) (payload : List Byte) (h : s.memWf) :
    (State.sendOnce s type payload).memWf := by
  exact h

theorem State.sendState_memWf (s : State) (h : s.memWf) :
    (State.sendState s).memWf := by
  unfold State.sendState
  repeat' (first | with_reducible assumption | (with_reducible apply State.nextFree_memWf) | (with_reducible apply State.sendOnce_memWf) | (with_reducible refine memWf_ite ?_ ?_) | exact SameAs.refl _ | split)

theorem State.withdrawSwap_memWf (s : State) (h : s.memWf) :
    (State.withdrawSwap s).memWf := by
  unfold State.withdrawSwap
  dsimp only
  repeat' (first | with_reducible assumption | (with_reducible apply State.sendBenjo_memWf) | (with_reducible apply State.setTwin_memWf) | (with_reducible refine memWf_ite ?_ ?_) | exact SameAs.refl _ | split)

theorem State.confirmAll_memWf (s : State) (h : s.memWf) :
    (State.confirmAll s).memWf := by
  unfold State.confirmAll
  dsimp only
  repeat' (first | with_reducible assumption | (with_reducible apply State.setQueue_memWf) | (with_reducible refine memWf_foldOn _ _ _ ?_ (fun s x hS => ?_)) | exact SameAs.refl _ | split)

theorem State.takeHeads_memWf (s : State) (h : s.memWf) :
    (State.takeHeads s).memWf := by
  exact h

theorem State.syncOutLow_memWf (s : State) (h : s.memWf) :
    (State.syncOutLow s).memWf := by
  unfold State.syncOutLow
  dsimp only
  repeat' (first | with_reducible assumption | (with_reducible apply State.setTime_memWf) | (with_reducible refine memWf_ite ?_ ?_) | exact SameAs.refl _ | split)

theorem State.passSync_memWf (s : State) (drove : Bool) (h : s.memWf) :
    (State.passSync s drove).memWf := by
  unfold State.passSync
  dsimp only
  repeat' (first | with_reducible assumption | (with_reducible apply State.setTime_memWf) | (with_reducible refine memWf_ite ?_ ?_) | exact SameAs.refl _ | split)

theorem State.pairTo_memWf (s : State) (st : PairState) (active : Bool) (h : s.memWf) :
    (State.pairTo s st active).memWf := by
  unfold State.pairTo
  dsimp only
  repeat' (first | with_reducible assumption | (with_reducible apply State.confirmAll_memWf) | (with_reducible apply State.notice_memWf) | (with_reducible apply State.passSync_memWf) | (with_reducible apply State.sendHello_memWf) | (with_reducible apply State.setRings_memWf) | (with_reducible apply State.setSafety_memWf) | (with_reducible apply State.setTwin_memWf) | (with_reducible apply State.takeHeads_memWf) | (with_reducible apply State.withdrawSwap_memWf) | (with_reducible refine memWf_ite ?_ ?_) | exact SameAs.refl _ | split)

theorem State.diverge_memWf (s : State) (h : s.memWf) :
    (State.diverge s).memWf := by
  unfold State.diverge
  dsimp only
  repeat' (first | with_reducible assumption | (with_reducible apply State.pairTo_memWf) | (with_reducible apply State.setTwin_memWf) | (with_reducible refine memWf_ite ?_ ?_) | exact SameAs.refl _ | split)

theorem State.sendDigest_memWf (s : State) (key : Nat) (h : s.memWf) :
    (State.sendDigest s key).memWf := by
  unfold State.sendDigest
  dsimp only
  repeat' (first | with_reducible assumption | (with_reducible apply State.diverge_memWf) | (with_reducible apply State.sendBenjo_memWf) | (with_reducible apply State.setTwin_memWf) | (with_reducible refine memWf_ite ?_ ?_) | exact SameAs.refl _ | split)

/-! ### Operations of Host -/

theorem State.intake_memWf (s : State) (q : Fin 16) (hdr payload : List Byte) (crcOk : Bool) (origin : Origin) (h : s.memWf) :
    (State.intake s q hdr payload crcOk origin).memWf := by
  unfold State.intake
  dsimp only
  repeat' (first | with_reducible assumption | (with_reducible apply State.reply_memWf) | (with_reducible apply State.setQueue_memWf) | (with_reducible refine memWf_ite ?_ ?_) | exact SameAs.refl _ | split)

theorem State.haltQueue_memWf (s : State) (q : Fin 16) (err : Nat) (h : s.memWf) :
    (State.haltQueue s q err).memWf := by
  exact h

theorem State.fetchN_memWf (n : Nat) (s : State) (q : Fin 16) (h : s.memWf) : (State.fetchN n s q).memWf := by
  induction n generalizing s with
  | zero => exact h
  | succ n ih =>
    unfold State.fetchN
    try dsimp only
    repeat' (first | (with_reducible apply ih) | (with_reducible apply State.intake_memWf) | (with_reducible apply State.haltQueue_memWf) | (with_reducible apply State.setQueue_memWf) | with_reducible assumption | exact SameAs.refl _ | split)

theorem State.fetch_memWf (s : State) (q : Fin 16) (h : s.memWf) : (State.fetch s q).memWf := by
  exact State.fetchN_memWf _ _ _ h

theorem State.raiseMsix_memWf (s : State) (q : Fin 16) (h : s.memWf) :
    (State.raiseMsix s q).memWf := by
  unfold State.raiseMsix
  dsimp only
  repeat' (first | with_reducible assumption | (with_reducible apply State.emit_memWf) | (with_reducible apply State.setQueue_memWf) | (with_reducible refine memWf_ite ?_ ?_) | exact SameAs.refl _ | split)

theorem State.putOut_memWf (s : State) (q : Fin 16) (r : Reply) (h : s.memWf) :
    (State.putOut s q r).memWf := by
  unfold State.putOut
  dsimp only
  repeat' (first | with_reducible assumption | (with_reducible apply State.emit_memWf) | (with_reducible apply State.raiseMsix_memWf) | (with_reducible apply State.reply_memWf) | (with_reducible apply State.setQueue_memWf) | (with_reducible refine memWf_ite ?_ ?_) | (with_reducible refine memWf_foldl _ _ _ ?_ (fun s x hS => ?_)) | exact SameAs.refl _ | split)

theorem State.writeReply_memWf (s : State) (q : Fin 16) (h : s.memWf) :
    (State.writeReply s q).memWf := by
  unfold State.writeReply
  dsimp only
  repeat' (first | with_reducible assumption | (with_reducible apply State.fetch_memWf) | (with_reducible apply State.finishTag_memWf) | (with_reducible apply State.putOut_memWf) | (with_reducible apply State.setQueue_memWf) | (with_reducible refine memWf_ite ?_ ?_) | (with_reducible refine memWf_foldl _ _ _ ?_ (fun s x hS => ?_)) | exact SameAs.refl _ | split)

theorem State.countErr_memWf (s : State) (hi lo : Nat) (h : s.memWf) :
    (State.countErr s hi lo).memWf := by
  exact h

theorem State.udpPacket_memWf (s : State) (q : Fin 16) (port : Fin 2) (src : Endpoint) (bs : List Byte) (h : s.memWf) :
    (State.udpPacket s q port src bs).memWf := by
  unfold State.udpPacket
  dsimp only
  repeat' (first | with_reducible assumption | (with_reducible apply State.countErr_memWf) | (with_reducible apply State.intake_memWf) | (with_reducible apply State.reply_memWf) | (with_reducible apply State.setQueue_memWf) | (with_reducible refine memWf_ite ?_ ?_) | exact SameAs.refl _ | split)

theorem State.dropJob_memWf (s : State) (h : s.memWf) :
    (State.dropJob s).memWf := by
  exact h

theorem State.dropImage_memWf (s : State) (o : Pkt) (h : s.memWf) :
    (State.dropImage s o).memWf := by
  unfold State.dropImage
  repeat' (first | with_reducible assumption | (with_reducible apply State.dropJob_memWf) | (with_reducible apply State.sendBenjo_memWf) | (with_reducible refine memWf_ite ?_ ?_) | exact SameAs.refl _ | split)

theorem State.showPanel_memWf (s : State) (bs : List Byte) (at_ : Option Nat) (h : s.memWf) :
    (State.showPanel s bs at_).memWf := by
  unfold State.showPanel
  dsimp only
  repeat' (first | with_reducible assumption | (with_reducible apply State.emit_memWf) | (with_reducible apply State.setHost_memWf) | (with_reducible refine memWf_ite ?_ ?_) | exact SameAs.refl _ | split)

theorem State.toPending_memWf (s : State) (p : Pkt) (h : s.memWf) :
    (State.toPending s p).memWf := by
  unfold State.toPending
  dsimp only
  repeat' (first | with_reducible assumption | (with_reducible apply State.finish_memWf) | (with_reducible apply State.interim_memWf) | (with_reducible apply State.nextFree_memWf) | (with_reducible apply State.setHost_memWf) | (with_reducible apply State.setQueue_memWf) | (with_reducible apply State.showPanel_memWf) | (with_reducible apply State.withdrawSwap_memWf) | (with_reducible refine memWf_ite ?_ ?_) | exact SameAs.refl _ | split)

theorem State.closePresence_memWf (s : State) (last : Byte) (h : s.memWf) :
    (State.closePresence s last).memWf := by
  unfold State.closePresence
  dsimp only
  repeat' (first | with_reducible assumption | (with_reducible apply State.dropJob_memWf) | (with_reducible apply State.sendBenjo_memWf) | (with_reducible apply State.setHost_memWf) | (with_reducible apply State.showPanel_memWf) | (with_reducible refine memWf_ite ?_ ?_) | exact SameAs.refl _ | split)

theorem State.denyGate_memWf (s : State) (last : Byte) (status : Nat) (reason : Word) (h : s.memWf) :
    (State.denyGate s last status reason).memWf := by
  unfold State.denyGate
  repeat' (first | with_reducible assumption | (with_reducible apply State.closePresence_memWf) | (with_reducible apply State.finish_memWf) | exact SameAs.refl _ | split)

theorem State.expireGate_memWf (s : State) (h : s.memWf) :
    (State.expireGate s).memWf := by
  unfold State.expireGate
  repeat' (first | with_reducible assumption | (with_reducible apply State.denyGate_memWf) | (with_reducible refine memWf_ite ?_ ?_) | exact SameAs.refl _ | split)

theorem State.canForget_memWf (s : State) (q tag : Nat) (h : s.memWf) :
    (State.canForget s q tag).memWf := by
  exact h

theorem State.startReset_memWf (s : State) (q : Fin 16) (by_ : List (Nat × Nat)) (h : s.memWf) :
    (State.startReset s q by_).memWf := by
  unfold State.startReset
  dsimp only
  repeat' (first | with_reducible assumption | (with_reducible apply State.canForget_memWf) | (with_reducible apply State.closePresence_memWf) | (with_reducible apply State.dropImage_memWf) | (with_reducible apply State.expireGate_memWf) | (with_reducible apply State.finishTag_memWf) | (with_reducible apply State.setCell_memWf) | (with_reducible apply State.setQueue_memWf) | (with_reducible refine memWf_ite ?_ ?_) | (with_reducible refine memWf_foldl _ _ _ ?_ (fun s x hS => ?_)) | exact SameAs.refl _ | split)

theorem State.abortTarget_memWf (s : State) (o p : Pkt) (h : s.memWf) :
    (State.abortTarget s o p).memWf := by
  unfold State.abortTarget
  dsimp only
  repeat' (first | with_reducible assumption | (with_reducible apply State.closePresence_memWf) | (with_reducible apply State.dropImage_memWf) | (with_reducible apply State.dropPart_memWf) | (with_reducible apply State.finishN_memWf) | (with_reducible refine memWf_ite ?_ ?_) | exact SameAs.refl _ | split)

/-! ### Operations of Time -/

theorem State.tick_memWf (s : State) (h : s.memWf) :
    (State.tick s).memWf := by
  unfold State.tick
  dsimp only
  repeat' (first | with_reducible assumption | (with_reducible apply State.setNow_memWf) | (with_reducible apply State.setTime_memWf) | (with_reducible refine memWf_ite ?_ ?_) | exact SameAs.refl _ | split)

theorem State.tbEnter_memWf (s : State) (st : TbState) (h : s.memWf) :
    (State.tbEnter s st).memWf := by
  unfold State.tbEnter
  dsimp only
  repeat' (first | with_reducible assumption | (with_reducible apply State.notice_memWf) | (with_reducible apply State.setTime_memWf) | (with_reducible refine memWf_ite ?_ ?_) | exact SameAs.refl _ | split)

theorem State.holdOver_memWf (s : State) (h : s.memWf) :
    (State.holdOver s).memWf := by
  unfold State.holdOver
  dsimp only
  repeat' (first | with_reducible assumption | (with_reducible apply State.nextFree_memWf) | (with_reducible apply State.setTime_memWf) | (with_reducible apply State.tbEnter_memWf) | (with_reducible refine memWf_ite ?_ ?_) | exact SameAs.refl _ | split)

theorem State.tbLost_memWf (s : State) (h : s.memWf) :
    (State.tbLost s).memWf := by
  unfold State.tbLost
  repeat' (first | with_reducible assumption | (with_reducible apply State.holdOver_memWf) | (with_reducible apply State.tbEnter_memWf) | (with_reducible refine memWf_ite ?_ ?_) | exact SameAs.refl _ | split)

theorem State.correctPhase_memWf (s : State) (d : Int) (h : s.memWf) :
    (State.correctPhase s d).memWf := by
  unfold State.correctPhase
  dsimp only
  repeat' (first | with_reducible assumption | (with_reducible apply State.setTime_memWf) | (with_reducible refine memWf_ite ?_ ?_) | exact SameAs.refl _ | split)

theorem State.measure_memWf (s : State) (d : Int) (h : s.memWf) :
    (State.measure s d).memWf := by
  unfold State.measure
  dsimp only
  repeat' (first | with_reducible assumption | (with_reducible apply State.correctPhase_memWf) | (with_reducible apply State.nextFree_memWf) | (with_reducible apply State.setTime_memWf) | (with_reducible apply State.tbEnter_memWf) | (with_reducible refine memWf_ite ?_ ?_) | exact SameAs.refl _ | split)

theorem State.setPtpSlot_memWf (s : State) (n : Fin 2) (v : SlotServo) (h : s.memWf) :
    (State.setPtpSlot s n v).memWf := by
  exact h

theorem State.syncDone_memWf (s : State) (n p : Fin 2) (t1 t2 : Int) (h : s.memWf) :
    (State.syncDone s n p t1 t2).memWf := by
  unfold State.syncDone
  dsimp only
  repeat' (first | with_reducible assumption | (with_reducible apply State.measure_memWf) | (with_reducible apply State.setPtpSlot_memWf) | (with_reducible apply State.tbEnter_memWf) | (with_reducible refine memWf_ite ?_ ?_) | exact SameAs.refl _ | split)

theorem State.ptpOut_memWf (s : State) (n p : Fin 2) (m : PtpOut) (h : s.memWf) :
    (State.ptpOut s n p m).memWf := by
  exact h

theorem State.takeAnnounce_memWf (s : State) (n p : Fin 2) (source : BitVec 80) (ds : PtpDataset) (utc : Int) (valid : Bool) (h : s.memWf) :
    (State.takeAnnounce s n p source ds utc valid).memWf := by
  unfold State.takeAnnounce
  dsimp only
  repeat' (first | with_reducible assumption | (with_reducible apply State.setPtpSlot_memWf) | (with_reducible apply State.setTime_memWf) | (with_reducible refine memWf_ite ?_ ?_) | exact SameAs.refl _ | split)

theorem State.ptpSend_memWf (s : State) (n p : Fin 2) (h : s.memWf) :
    (State.ptpSend s n p).memWf := by
  unfold State.ptpSend
  dsimp only
  repeat' (first | with_reducible assumption | (with_reducible apply State.ptpOut_memWf) | (with_reducible apply State.setPtpSlot_memWf) | (with_reducible refine memWf_ite ?_ ?_) | exact SameAs.refl _ | split)

theorem State.ptpSends_memWf (s : State) (h : s.memWf) :
    (State.ptpSends s).memWf := by
  unfold State.ptpSends
  repeat' (first | with_reducible assumption | (with_reducible apply State.ptpSend_memWf) | (with_reducible refine memWf_ite ?_ ?_) | exact SameAs.refl _ | split)

theorem State.setSource_memWf (s : State) (src : Nat) (h : s.memWf) :
    (State.setSource s src).memWf := by
  unfold State.setSource
  dsimp only
  repeat' (first | with_reducible assumption | (with_reducible apply State.setTime_memWf) | (with_reducible apply State.tbEnter_memWf) | (with_reducible refine memWf_ite ?_ ?_) | exact SameAs.refl _ | split)

theorem State.setDomain_memWf (s : State) (n : Fin 2) (v : Word) (h : s.memWf) :
    (State.setDomain s n v).memWf := by
  unfold State.setDomain
  dsimp only
  repeat' (first | with_reducible assumption | (with_reducible apply State.holdOver_memWf) | (with_reducible apply State.setTime_memWf) | (with_reducible refine memWf_ite ?_ ?_) | exact SameAs.refl _ | split)

theorem State.useSlot_memWf (s : State) (n : Fin 2) (h : s.memWf) :
    (State.useSlot s n).memWf := by
  unfold State.useSlot
  dsimp only
  repeat' (first | with_reducible assumption | (with_reducible apply State.correctPhase_memWf) | (with_reducible apply State.notice_memWf) | (with_reducible apply State.setTime_memWf) | (with_reducible apply State.tbLost_memWf) | (with_reducible refine memWf_ite ?_ ?_) | exact SameAs.refl _ | split)

theorem State.setSelect_memWf (s : State) (v : Nat) (h : s.memWf) :
    (State.setSelect s v).memWf := by
  unfold State.setSelect
  dsimp only
  repeat' (first | with_reducible assumption | (with_reducible apply State.setTime_memWf) | (with_reducible apply State.useSlot_memWf) | (with_reducible refine memWf_ite ?_ ?_) | exact SameAs.refl _ | split)

/-! ### Operations of Motion -/

theorem State.protect_memWf (s : State) (c : Fin 16) (code : ChFault) (h : s.memWf) :
    (State.protect s c code).memWf := by
  unfold State.protect
  dsimp only
  repeat' (first | with_reducible assumption | (with_reducible apply State.nextFree_memWf) | (with_reducible apply State.notice_memWf) | (with_reducible apply State.setChain_memWf) | (with_reducible refine memWf_ite ?_ ?_) | exact SameAs.refl _ | split)

theorem State.segFault_memWf (s : State) (c : Fin 16) (f : ChFault) (h : s.memWf) :
    (State.segFault s c f).memWf := by
  exact h

theorem State.barrierOut_memWf (s : State) (c : Fin 16) (h : s.memWf) :
    (State.barrierOut s c).memWf := by
  exact h

theorem State.cancelBarriers_memWf (s : State) (c : Nat) (flushed : List (List Byte)) (h : s.memWf) :
    (State.cancelBarriers s c flushed).memWf := by
  unfold State.cancelBarriers
  dsimp only
  repeat' (first | with_reducible assumption | (with_reducible apply State.barrierOut_memWf) | (with_reducible refine memWf_ite ?_ ?_) | (with_reducible refine memWf_foldOn _ _ _ ?_ (fun s x hS => ?_)) | exact SameAs.refl _ | split)

theorem State.flush_memWf (s : State) (c : Fin 16) (h : s.memWf) :
    (State.flush s c).memWf := by
  unfold State.flush
  dsimp only
  repeat' (first | with_reducible assumption | (with_reducible apply State.cancelBarriers_memWf) | (with_reducible apply State.setChain_memWf) | exact SameAs.refl _ | split)

theorem State.shedChain_memWf (s : State) (c : Fin 16) (h : s.memWf) :
    (State.shedChain s c).memWf := by
  unfold State.shedChain
  dsimp only
  repeat' (first | with_reducible assumption | (with_reducible apply State.setChain_memWf) | exact SameAs.refl _ | split)

theorem State.applyStop_memWf (s : State) (c : Fin 16) (kind : Nat) (h : s.memWf) :
    (State.applyStop s c kind).memWf := by
  unfold State.applyStop
  dsimp only
  repeat' (first | with_reducible assumption | (with_reducible apply State.flush_memWf) | (with_reducible apply State.nextFree_memWf) | (with_reducible apply State.protect_memWf) | (with_reducible apply State.setChain_memWf) | (with_reducible refine memWf_ite ?_ ?_) | exact SameAs.refl _ | split)

theorem State.applyResume_memWf (s : State) (c : Fin 16) (h : s.memWf) :
    (State.applyResume s c).memWf := by
  unfold State.applyResume
  dsimp only
  repeat' (first | with_reducible assumption | (with_reducible apply State.setChain_memWf) | (with_reducible refine memWf_ite ?_ ?_) | exact SameAs.refl _ | split)

theorem State.addMotionCmd_memWf (s : State) (m : MotionCmd) (h : s.memWf) :
    (State.addMotionCmd s m).memWf := by
  exact h

/-! ### Operations of Safety -/

theorem State.drive_memWf (s : State) (c : Fin 16) (h : s.memWf) :
    (State.drive s c).memWf := by
  exact h

theorem State.setTestTorque_memWf (s : State) (c : Fin 16) (num : Int) (h : s.memWf) :
    (State.setTestTorque s c num).memWf := by
  unfold State.setTestTorque
  dsimp only
  repeat' (first | with_reducible assumption | (with_reducible apply State.setAxis_memWf) | (with_reducible refine memWf_ite ?_ ?_) | (with_reducible refine memWf_foldOn _ _ _ ?_ (fun s x hS => ?_)) | exact SameAs.refl _ | split)

theorem State.restartAxes_memWf (s : State) (axes : List Nat) (h : s.memWf) :
    (State.restartAxes s axes).memWf := by
  unfold State.restartAxes
  dsimp only
  repeat' (first | with_reducible assumption | (with_reducible apply State.setLoops_memWf) | (with_reducible refine memWf_ite ?_ ?_) | (with_reducible refine memWf_foldOn _ _ _ ?_ (fun s x hS => ?_)) | exact SameAs.refl _ | split)

theorem State.restartLoops_memWf (s : State) (c : Fin 16) (h : s.memWf) :
    (State.restartLoops s c).memWf := by
  unfold State.restartLoops
  repeat' (first | with_reducible assumption | (with_reducible apply State.restartAxes_memWf) | exact SameAs.refl _ | split)

theorem State.abortTest_memWf (s : State) (c : Fin 16) (h : s.memWf) :
    (State.abortTest s c).memWf := by
  unfold State.abortTest
  dsimp only
  repeat' (first | with_reducible assumption | (with_reducible apply State.notice_memWf) | (with_reducible apply State.restartLoops_memWf) | (with_reducible apply State.setIndex_memWf) | (with_reducible apply State.setTestTorque_memWf) | exact SameAs.refl _ | split)

theorem State.toSto_memWf (s : State) (c : Fin 16) (cause : Nat) (fast : Bool) (h : s.memWf) :
    (State.toSto s c cause fast).memWf := by
  unfold State.toSto
  dsimp only
  repeat' (first | with_reducible assumption | (with_reducible apply State.abortTest_memWf) | (with_reducible apply State.drive_memWf) | (with_reducible apply State.protect_memWf) | (with_reducible apply State.setIndex_memWf) | (with_reducible refine memWf_ite ?_ ?_) | exact SameAs.refl _ | split)

theorem State.toSs1_memWf (s : State) (c : Fin 16) (cause : Nat) (h : s.memWf) :
    (State.toSs1 s c cause).memWf := by
  unfold State.toSs1
  dsimp only
  repeat' (first | with_reducible assumption | (with_reducible apply State.abortTest_memWf) | (with_reducible apply State.addMotionCmd_memWf) | (with_reducible apply State.drive_memWf) | (with_reducible apply State.protect_memWf) | (with_reducible apply State.setIndex_memWf) | exact SameAs.refl _ | split)

theorem State.stopIndex_memWf (s : State) (c : Fin 16) (cat cause : Nat) (fast : Bool) (h : s.memWf) :
    (State.stopIndex s c cat cause fast).memWf := by
  unfold State.stopIndex
  dsimp only
  repeat' (first | with_reducible assumption | (with_reducible apply State.setIndex_memWf) | (with_reducible apply State.toSs1_memWf) | (with_reducible apply State.toSto_memWf) | (with_reducible refine memWf_ite ?_ ?_) | exact SameAs.refl _ | split)

theorem State.motionStop34_memWf (s : State) (c : Fin 16) (h : s.memWf) :
    (State.motionStop34 s c).memWf := by
  unfold State.motionStop34
  repeat' (first | with_reducible assumption | (with_reducible apply State.stopIndex_memWf) | exact SameAs.refl _ | split)

theorem State.enterBath_memWf (s : State) (cause : Nat) (h : s.memWf) :
    (State.enterBath s cause).memWf := by
  unfold State.enterBath
  dsimp only
  repeat' (first | with_reducible assumption | (with_reducible apply State.setSafety_memWf) | (with_reducible apply State.stopIndex_memWf) | (with_reducible refine memWf_foldOn _ _ _ ?_ (fun s x hS => ?_)) | exact SameAs.refl _ | split)

theorem State.applyFuncs_memWf (s : State) (c : Fin 16) (old : BitVec 32) (h : s.memWf) :
    (State.applyFuncs s c old).memWf := by
  unfold State.applyFuncs
  dsimp only
  repeat' (first | with_reducible assumption | (with_reducible apply State.setIndex_memWf) | (with_reducible apply State.stopIndex_memWf) | (with_reducible refine memWf_ite ?_ ?_) | (with_reducible refine memWf_foldl _ _ _ ?_ (fun s x hS => ?_)) | exact SameAs.refl _ | split)

theorem State.releaseNodes_memWf (s : State) (c : Fin 16) (h : s.memWf) :
    (State.releaseNodes s c).memWf := by
  unfold State.releaseNodes
  dsimp only
  repeat' (first | with_reducible assumption | (with_reducible apply State.sendMgmt_memWf) | (with_reducible refine memWf_ite ?_ ?_) | (with_reducible refine memWf_foldl _ _ _ ?_ (fun s x hS => ?_)) | exact SameAs.refl _ | split)

theorem State.clearAxisFaults_memWf (s : State) (axes : List Nat) (h : s.memWf) :
    (State.clearAxisFaults s axes).memWf := by
  unfold State.clearAxisFaults
  dsimp only
  repeat' (first | with_reducible assumption | (with_reducible apply State.restartAxes_memWf) | (with_reducible apply State.setAxis_memWf) | (with_reducible refine memWf_ite ?_ ?_) | (with_reducible refine memWf_foldl _ _ _ ?_ (fun s x hS => ?_)) | exact SameAs.refl _ | split)

theorem State.toRun_memWf (s : State) (c : Fin 16) (h : s.memWf) :
    (State.toRun s c).memWf := by
  unfold State.toRun
  dsimp only
  repeat' (first | with_reducible assumption | (with_reducible apply State.drive_memWf) | (with_reducible apply State.setChain_memWf) | (with_reducible apply State.setIndex_memWf) | exact SameAs.refl _ | split)

theorem State.refuseReset_memWf (s : State) (reason : Nat) (h : s.memWf) :
    (State.refuseReset s reason).memWf := by
  exact h

theorem State.evalFuncs_memWf (s : State) (h : s.memWf) :
    (State.evalFuncs s).memWf := by
  unfold State.evalFuncs
  dsimp only
  repeat' (first | with_reducible assumption | (with_reducible apply State.applyFuncs_memWf) | (with_reducible apply State.refuseReset_memWf) | (with_reducible apply State.setSafety_memWf) | (with_reducible apply State.toRun_memWf) | (with_reducible refine memWf_ite ?_ ?_) | (with_reducible refine memWf_foldOn _ _ _ ?_ (fun s x hS => ?_)) | exact SameAs.refl _ | split)

theorem State.clearPairs_memWf (s : State) (h : s.memWf) :
    (State.clearPairs s).memWf := by
  exact h

theorem State.judgeReset_memWf (s : State) (chains : List Nat) (srst : Bool) (h : s.memWf) :
    (State.judgeReset s chains srst).memWf := by
  unfold State.judgeReset
  dsimp only
  repeat' (first | with_reducible assumption | (with_reducible apply State.clearAxisFaults_memWf) | (with_reducible apply State.clearPairs_memWf) | (with_reducible apply State.refuseReset_memWf) | (with_reducible apply State.releaseNodes_memWf) | (with_reducible apply State.setChain_memWf) | (with_reducible apply State.setSafety_memWf) | (with_reducible apply State.setSys_memWf) | (with_reducible apply State.toRun_memWf) | (with_reducible refine memWf_ite ?_ ?_) | (with_reducible refine memWf_foldOn _ _ _ ?_ (fun s x hS => ?_)) | exact SameAs.refl _ | split)

theorem State.judgeResets_memWf (s : State) (h : s.memWf) :
    (State.judgeResets s).memWf := by
  unfold State.judgeResets
  dsimp only
  repeat' (first | with_reducible assumption | (with_reducible apply State.judgeReset_memWf) | (with_reducible apply State.refuseReset_memWf) | (with_reducible apply State.setSafety_memWf) | (with_reducible refine memWf_foldl _ _ _ ?_ (fun s x hS => ?_)) | exact SameAs.refl _ | split)

theorem State.ss1Cycle_memWf (s : State) (c : Fin 16) (h : s.memWf) :
    (State.ss1Cycle s c).memWf := by
  unfold State.ss1Cycle
  dsimp only
  repeat' (first | with_reducible assumption | (with_reducible apply State.setIndex_memWf) | (with_reducible apply State.toSto_memWf) | (with_reducible refine memWf_ite ?_ ?_) | exact SameAs.refl _ | split)

theorem State.slsCycle_memWf (s : State) (c : Fin 16) (h : s.memWf) :
    (State.slsCycle s c).memWf := by
  unfold State.slsCycle
  dsimp only
  repeat' (first | with_reducible assumption | (with_reducible apply State.setIndex_memWf) | (with_reducible apply State.stopIndex_memWf) | (with_reducible refine memWf_ite ?_ ?_) | exact SameAs.refl _ | split)

theorem State.brakeFault_memWf (s : State) (c : Fin 16) (h : s.memWf) :
    (State.brakeFault s c).memWf := by
  unfold State.brakeFault
  dsimp only
  repeat' (first | with_reducible assumption | (with_reducible apply State.setIndex_memWf) | (with_reducible apply State.stopIndex_memWf) | exact SameAs.refl _ | split)

theorem State.requestBrakeTests_memWf (s : State) (v : BitVec 16) (h : s.memWf) :
    (State.requestBrakeTests s v).memWf := by
  unfold State.requestBrakeTests
  dsimp only
  repeat' (first | with_reducible assumption | (with_reducible apply State.setIndex_memWf) | (with_reducible refine memWf_foldOn _ _ _ ?_ (fun s x hS => ?_)) | exact SameAs.refl _ | split)

theorem State.startBrakeTest_memWf (s : State) (c : Fin 16) (h : s.memWf) :
    (State.startBrakeTest s c).memWf := by
  unfold State.startBrakeTest
  dsimp only
  repeat' (first | with_reducible assumption | (with_reducible apply State.drive_memWf) | (with_reducible apply State.setIndex_memWf) | (with_reducible refine memWf_ite ?_ ?_) | exact SameAs.refl _ | split)

theorem State.endBrakeTest_memWf (s : State) (c : Fin 16) (pass : Bool) (h : s.memWf) :
    (State.endBrakeTest s c pass).memWf := by
  unfold State.endBrakeTest
  dsimp only
  repeat' (first | with_reducible assumption | (with_reducible apply State.brakeFault_memWf) | (with_reducible apply State.drive_memWf) | (with_reducible apply State.notice_memWf) | (with_reducible apply State.restartLoops_memWf) | (with_reducible apply State.setIndex_memWf) | (with_reducible apply State.setTestTorque_memWf) | (with_reducible apply State.toRun_memWf) | (with_reducible refine memWf_ite ?_ ?_) | exact SameAs.refl _ | split)

theorem State.driveAll_memWf (s : State) (h : s.memWf) :
    (State.driveAll s).memWf := by
  unfold State.driveAll
  repeat' (first | with_reducible assumption | (with_reducible apply State.drive_memWf) | (with_reducible refine memWf_foldOn _ _ _ ?_ (fun s x hS => ?_)) | exact SameAs.refl _ | split)

theorem State.dropBrakes_memWf (s : State) (h : s.memWf) :
    (State.dropBrakes s).memWf := by
  unfold State.dropBrakes
  dsimp only
  repeat' (first | with_reducible assumption | (with_reducible apply State.setIndex_memWf) | (with_reducible refine memWf_foldOn _ _ _ ?_ (fun s x hS => ?_)) | exact SameAs.refl _ | split)

theorem State.channelFault_memWf (s : State) (ch : Fin 2) (h : s.memWf) :
    (State.channelFault s ch).memWf := by
  unfold State.channelFault
  dsimp only
  repeat' (first | with_reducible assumption | (with_reducible apply State.driveAll_memWf) | (with_reducible apply State.dropBrakes_memWf) | (with_reducible apply State.enterBath_memWf) | (with_reducible apply State.setSafety_memWf) | (with_reducible refine memWf_ite ?_ ?_) | exact SameAs.refl _ | split)

/-! ### Operations of SchedImage -/

theorem State.storeSched_memWf (s : State) (p : Pkt) (bs : List Byte) (h : s.memWf) :
    (State.storeSched s p bs).memWf := by
  unfold State.storeSched
  dsimp only
  repeat' (first | with_reducible assumption | (with_reducible apply State.finish_memWf) | (with_reducible apply State.finishOk_memWf) | (with_reducible apply State.setSolver_memWf) | (with_reducible refine memWf_ite ?_ ?_) | exact SameAs.refl _ | split)

/-! ### Operations of Tiles -/

theorem State.tileErrors_memWf (s : State) (t : Fin 16) (n : Nat) (h : s.memWf) :
    (State.tileErrors s t n).memWf := by
  exact h

theorem State.cutRun_memWf (s : State) (t : Fin 16) (h : s.memWf) :
    (State.cutRun s t).memWf := by
  unfold State.cutRun
  repeat' (first | with_reducible assumption | (with_reducible apply State.nextFree_memWf) | (with_reducible apply State.tileErrors_memWf) | (with_reducible refine memWf_ite ?_ ?_) | exact SameAs.refl _ | split)

theorem State.kernelFault_memWf (s : State) (t : Fin 16) (cause : Nat) (h : s.memWf) :
    (State.kernelFault s t cause).memWf := by
  unfold State.kernelFault
  dsimp only
  repeat' (first | with_reducible assumption | (with_reducible apply State.cutRun_memWf) | (with_reducible apply State.notice_memWf) | (with_reducible apply State.setKernel_memWf) | (with_reducible apply State.setTile_memWf) | exact SameAs.refl _ | split)

theorem State.sticky_memWf (s : State) (t : Fin 16) (o : OpOut) (h : s.memWf) :
    (State.sticky s t o).memWf := by
  unfold State.sticky
  dsimp only
  repeat' (first | with_reducible assumption | (with_reducible apply State.notice_memWf) | (with_reducible apply State.setKernel_memWf) | (with_reducible apply State.setTile_memWf) | (with_reducible refine memWf_ite ?_ ?_) | exact SameAs.refl _ | split)

theorem Core.slotStoreTo_mwf (c : Core) (m : List (Nat × Word)) (k : Nat) (h : mwf (0 : Word) m = true) :
    mwf (0 : Word) (c.slotStoreTo m k) = true := by
  unfold Core.slotStoreTo
  split
  · exact mput_mwf _ _ h
  · exact h

theorem State.tileRun_memWf (s : State) (t : Fin 16) (op : Nat) (f : Core → DWord → Core → OpOut)
    (fin : State → KernelImage → OpOut → State) (h : s.memWf) (hf : ∀ s im o, s.memWf → (fin s im o).memWf) :
    (s.tileRun t op f fin).memWf := by
  unfold State.tileRun
  try dsimp only
  repeat' (first | (with_reducible apply hf) | (with_reducible refine State.setKernel_window _ _ _ ?_ (foldl_mwf _ _ _ ((memWf_iff.1 h).2.2 _) (fun m j hm => Core.slotStoreTo_mwf _ _ _ hm))) | with_reducible assumption | (with_reducible apply State.kernelFault_memWf) | (with_reducible apply State.setKernel_memWf) | (with_reducible apply State.setTile_memWf) | (with_reducible apply State.sticky_memWf) | (with_reducible refine memWf_ite ?_ ?_) | (with_reducible refine memWf_foldl _ _ _ ?_ (fun s x hS => ?_)) | exact SameAs.refl _ | split)

theorem State.tileOp_memWf (s : State) (t : Fin 16) (op : Nat) (f : Core → DWord → Core → OpOut) (h : s.memWf) :
    (State.tileOp s t op f).memWf := by
  refine State.tileRun_memWf _ _ _ _ _ h (fun s im o h => ?_)
  try dsimp only
  repeat' (first | with_reducible assumption | (with_reducible apply State.kernelFault_memWf) | (with_reducible apply State.setTile_memWf) | (with_reducible apply State.tileRun_memWf) | (with_reducible refine memWf_ite ?_ ?_) | exact SameAs.refl _ | split)

theorem State.activate_memWf (s : State) (k : Fin 64) (seq : Word) (block : List Word) (h : s.memWf) :
    (State.activate s k seq block).memWf := by
  unfold State.activate
  dsimp only
  repeat' (first | with_reducible assumption | (with_reducible apply State.setKernel_memWf) | (with_reducible apply State.setTile_memWf) | (with_reducible refine memWf_ite ?_ ?_) | exact SameAs.refl _ | split)

theorem State.commit_memWf (s : State) (t : Fin 16) (im : KernelImage) (h : s.memWf) :
    (State.commit s t im).memWf := by
  unfold State.commit
  dsimp only
  repeat' (first | with_reducible assumption | (with_reducible apply State.setKernel_memWf) | (with_reducible apply State.setTile_memWf) | (with_reducible refine memWf_foldOn _ _ _ ?_ (fun s x hS => ?_)) | exact SameAs.refl _ | split)

/-! ### Operations of Solver -/

theorem State.requestParts_memWf (s : State) (x : ProbSt) (h : s.memWf) :
    (State.requestParts s x).memWf := by
  unfold State.requestParts
  repeat' (first | with_reducible assumption | (with_reducible apply State.askUnit_memWf) | (with_reducible refine memWf_foldl _ _ _ ?_ (fun s x hS => ?_)) | exact SameAs.refl _ | split)

theorem State.releaseParts_memWf (s : State) (x : ProbSt) (h : s.memWf) :
    (State.releaseParts s x).memWf := by
  unfold State.releaseParts
  repeat' (first | with_reducible assumption | (with_reducible apply State.leaveUnit_memWf) | (with_reducible refine memWf_foldl _ _ _ ?_ (fun s x hS => ?_)) | exact SameAs.refl _ | split)

theorem State.noteSolve_memWf (s : State) (p : Fin 4) (v : SolveSt) (h : s.memWf) :
    (State.noteSolve s p v).memWf := by
  exact h

theorem State.laneOp_memWf (s : State) (p : Fin 4) (op : Nat) (f : SchedImage → LaneInstr → SolveSt → SolveSt) (h : s.memWf) :
    (State.laneOp s p op f).memWf := by
  unfold State.laneOp
  dsimp only
  repeat' (first | with_reducible assumption | (with_reducible apply State.noteSolve_memWf) | exact SameAs.refl _ | split)

theorem State.latchPlan_memWf (s : State) (h : s.memWf) :
    (State.latchPlan s).memWf := by
  exact h

theorem State.latchDue_memWf (s : State) (h : s.memWf) :
    (State.latchDue s).memWf := by
  unfold State.latchDue
  repeat' (first | with_reducible assumption | (with_reducible apply State.latchPlan_memWf) | (with_reducible refine memWf_ite ?_ ?_) | exact SameAs.refl _ | split)

theorem State.lateStage_memWf (s : State) (h : s.memWf) :
    (State.lateStage s).memWf := by
  unfold State.lateStage
  dsimp only
  repeat' (first | with_reducible assumption | (with_reducible apply State.setMotion_memWf) | (with_reducible refine memWf_ite ?_ ?_) | exact SameAs.refl _ | split)

theorem State.stageProblems_memWf (s : State) (ps : List (Nat × Option SchedImage)) (h : s.memWf) :
    (State.stageProblems s ps).memWf := by
  unfold State.stageProblems
  dsimp only
  repeat' (first | with_reducible assumption | (with_reducible apply State.setFree_memWf) | (with_reducible apply State.setSolve_memWf) | (with_reducible refine memWf_foldl _ _ _ ?_ (fun s x hS => ?_)) | exact SameAs.refl _ | split)

theorem State.dropStaged_memWf (s : State) (h : s.memWf) :
    (State.dropStaged s).memWf := by
  exact h

theorem State.assembleOne_memWf (s : State) (p : Fin 4) (g : SchedImage) (late : Bool) (h : s.memWf) :
    (State.assembleOne s p g late).memWf := by
  unfold State.assembleOne
  dsimp only
  repeat' (first | with_reducible assumption | (with_reducible apply State.setProb_memWf) | (with_reducible apply State.setSolve_memWf) | (with_reducible apply State.setSolver_memWf) | (with_reducible refine memWf_ite ?_ ?_) | (with_reducible refine memWf_foldl _ _ _ ?_ (fun s x hS => ?_)) | exact SameAs.refl _ | split)

theorem State.corrected_memWf (s : State) (p : Fin 4) (n : Nat) (h : s.memWf) :
    (State.corrected s p n).memWf := by
  exact h

theorem State.notSolved_memWf (s : State) (p : Fin 4) (flags : Nat) (h : s.memWf) :
    (State.notSolved s p flags).memWf := by
  unfold State.notSolved
  dsimp only
  repeat' (first | with_reducible assumption | (with_reducible apply State.corrected_memWf) | (with_reducible apply State.nextFree_memWf) | (with_reducible apply State.releaseParts_memWf) | (with_reducible apply State.setSolve_memWf) | (with_reducible refine memWf_ite ?_ ?_) | exact SameAs.refl _ | split)

theorem State.overrun_memWf (s : State) (p : Fin 4) (h : s.memWf) :
    (State.overrun s p).memWf := by
  unfold State.overrun
  dsimp only
  repeat' (first | with_reducible assumption | (with_reducible apply State.notSolved_memWf) | (with_reducible apply State.setSolver_memWf) | (with_reducible refine memWf_ite ?_ ?_) | exact SameAs.refl _ | split)

theorem State.newBank_memWf (s : State) (axis : Nat) (k0 k1 : List Word) (h : s.memWf) :
    (State.newBank s axis k0 k1).memWf := by
  exact h

theorem State.solveMiss_memWf (s : State) (p : Fin 4) (g : SchedImage) (h : s.memWf) :
    (State.solveMiss s p g).memWf := by
  unfold State.solveMiss
  dsimp only
  repeat' (first | with_reducible assumption | (with_reducible apply State.motionStop34_memWf) | (with_reducible apply State.newBank_memWf) | (with_reducible apply State.protect_memWf) | (with_reducible apply State.setChain_memWf) | (with_reducible apply State.setMotion_memWf) | (with_reducible refine memWf_ite ?_ ?_) | (with_reducible refine memWf_foldl _ _ _ ?_ (fun s x hS => ?_)) | exact SameAs.refl _ | split)

theorem State.distribute_memWf (s : State) (p : Fin 4) (g : SchedImage) (h : s.memWf) :
    (State.distribute s p g).memWf := by
  unfold State.distribute
  dsimp only
  repeat' (first | with_reducible assumption | (with_reducible apply State.newBank_memWf) | (with_reducible apply State.setChain_memWf) | (with_reducible apply State.setMotion_memWf) | (with_reducible apply State.setSolve_memWf) | (with_reducible apply State.tick_memWf) | (with_reducible refine memWf_foldl _ _ _ ?_ (fun s x hS => ?_)) | exact SameAs.refl _ | split)

theorem State.distributeKept_memWf (s : State) (p : Fin 4) (g : SchedImage) (h : s.memWf) :
    (State.distributeKept s p g).memWf := by
  unfold State.distributeKept
  dsimp only
  repeat' (first | with_reducible assumption | (with_reducible apply State.distribute_memWf) | (with_reducible apply State.setSolve_memWf) | exact SameAs.refl _ | split)

theorem State.takeBack_memWf (s : State) (p : Fin 4) (h : s.memWf) :
    (State.takeBack s p).memWf := by
  unfold State.takeBack
  dsimp only
  repeat' (first | with_reducible assumption | (with_reducible apply State.setChain_memWf) | (with_reducible apply State.setMotion_memWf) | (with_reducible apply State.setSolve_memWf) | (with_reducible apply State.solveMiss_memWf) | (with_reducible apply State.tick_memWf) | (with_reducible refine memWf_ite ?_ ?_) | (with_reducible refine memWf_foldl _ _ _ ?_ (fun s x hS => ?_)) | exact SameAs.refl _ | split)

theorem State.sendSolve_memWf (s : State) (key : Nat) (x : List Word) (h : s.memWf) :
    (State.sendSolve s key x).memWf := by
  exact h

theorem State.settleSolve_memWf (s : State) (p : Fin 4) (h : s.memWf) :
    (State.settleSolve s p).memWf := by
  unfold State.settleSolve
  dsimp only
  repeat' (first | with_reducible assumption | (with_reducible apply State.distribute_memWf) | (with_reducible apply State.distributeKept_memWf) | (with_reducible apply State.diverge_memWf) | (with_reducible apply State.notSolved_memWf) | (with_reducible apply State.sendSolve_memWf) | (with_reducible apply State.setSolve_memWf) | (with_reducible apply State.setSolver_memWf) | (with_reducible apply State.solveMiss_memWf) | (with_reducible apply State.tick_memWf) | (with_reducible refine memWf_ite ?_ ?_) | exact SameAs.refl _ | split)

theorem State.keepRecord_memWf (s : State) (p : Fin 4) (h : s.memWf) :
    (State.keepRecord s p).memWf := by
  exact h

theorem State.settle_memWf (s : State) (p : Fin 4) (h : s.memWf) :
    (State.settle s p).memWf := by
  unfold State.settle
  repeat' (first | with_reducible assumption | (with_reducible apply State.keepRecord_memWf) | (with_reducible apply State.settleSolve_memWf) | (with_reducible refine memWf_ite ?_ ?_) | exact SameAs.refl _ | split)

theorem State.auxBanks_memWf (s : State) (h : s.memWf) :
    (State.auxBanks s).memWf := by
  unfold State.auxBanks
  repeat' (first | with_reducible assumption | (with_reducible apply State.newBank_memWf) | (with_reducible refine memWf_foldOn _ _ _ ?_ (fun s x hS => ?_)) | exact SameAs.refl _ | split)

/-! ### Operations of Can -/

theorem State.canEnter_memWf (s : State) (n : Fin 4) (st : CanState) (h : s.memWf) :
    (State.canEnter s n st).memWf := by
  unfold State.canEnter
  dsimp only
  repeat' (first | with_reducible assumption | (with_reducible apply State.notice_memWf) | (with_reducible apply State.setCanN_memWf) | (with_reducible refine memWf_ite ?_ ?_) | exact SameAs.refl _ | split)

theorem State.canConfine_memWf (s : State) (n : Fin 4) (h : s.memWf) :
    (State.canConfine s n).memWf := by
  unfold State.canConfine
  dsimp only
  repeat' (first | with_reducible assumption | (with_reducible apply State.canEnter_memWf) | (with_reducible apply State.setCanN_memWf) | (with_reducible refine memWf_ite ?_ ?_) | exact SameAs.refl _ | split)

theorem State.canBuf_memWf (s : State) (n : Fin 4) (b : Fin 64) (f : CanBuf → CanBuf) (h : s.memWf) :
    (State.canBuf s n b f).memWf := by
  exact h

theorem State.canShare_memWf (s : State) (n : Fin 4) (b kind : Nat) (rest : List Byte) (h : s.memWf) :
    (State.canShare s n b kind rest).memWf := by
  unfold State.canShare
  repeat' (first | with_reducible assumption | (with_reducible apply State.sendBenjo_memWf) | (with_reducible refine memWf_ite ?_ ?_) | exact SameAs.refl _ | split)

theorem State.canStore_memWf (s : State) (n : Fin 4) (f : CanFrame) (stamp : DWord) (h : s.memWf) :
    (State.canStore s n f stamp).memWf := by
  unfold State.canStore
  dsimp only
  repeat' (first | with_reducible assumption | (with_reducible apply State.canShare_memWf) | (with_reducible apply State.setCanN_memWf) | (with_reducible refine memWf_ite ?_ ?_) | exact SameAs.refl _ | split)

theorem State.canLock_memWf (s : State) (n : Fin 4) (b : Fin 64) (h : s.memWf) :
    (State.canLock s n b).memWf := by
  exact h

theorem State.canRelease_memWf (s : State) (n : Fin 4) (b : Fin 64) (h : s.memWf) :
    (State.canRelease s n b).memWf := by
  exact h

theorem State.endTx_memWf (s : State) (n : Fin 4) (b : Fin 64) (v : Verdict) (outcome : Word) (h : s.memWf) :
    (State.endTx s n b v outcome).memWf := by
  unfold State.endTx
  dsimp only
  repeat' (first | with_reducible assumption | (with_reducible apply State.canBuf_memWf) | (with_reducible apply State.finishN_memWf) | (with_reducible apply State.finishTag_memWf) | (with_reducible refine memWf_ite ?_ ?_) | (with_reducible refine memWf_foldl _ _ _ ?_ (fun s x hS => ?_)) | exact SameAs.refl _ | split)

theorem State.leaveBus_memWf (s : State) (n : Fin 4) (b : Fin 64) (h : s.memWf) :
    (State.leaveBus s n b).memWf := by
  unfold State.leaveBus
  dsimp only
  repeat' (first | with_reducible assumption | (with_reducible apply State.canBuf_memWf) | (with_reducible apply State.canShare_memWf) | (with_reducible apply State.endTx_memWf) | (with_reducible apply State.setCanN_memWf) | (with_reducible refine memWf_ite ?_ ?_) | exact SameAs.refl _ | split)

theorem State.settleCancels_memWf (s : State) (h : s.memWf) :
    (State.settleCancels s).memWf := by
  unfold State.settleCancels
  dsimp only
  repeat' (first | with_reducible assumption | (with_reducible apply State.endTx_memWf) | (with_reducible refine memWf_ite ?_ ?_) | (with_reducible refine memWf_foldOn _ _ _ ?_ (fun s x hS => ?_)) | exact SameAs.refl _ | split)

theorem State.setCanCtrl_memWf (s : State) (n : Fin 4) (v : Word) (h : s.memWf) :
    (State.setCanCtrl s n v).memWf := by
  unfold State.setCanCtrl
  dsimp only
  repeat' (first | with_reducible assumption | (with_reducible apply State.canEnter_memWf) | (with_reducible apply State.leaveBus_memWf) | (with_reducible apply State.setCanN_memWf) | (with_reducible refine memWf_ite ?_ ?_) | exact SameAs.refl _ | split)

/-! ### Operations of Loops -/

theorem State.traceEvent_memWf (s : State) (e : Fin 16) (source : Nat) (h : s.memWf) :
    (State.traceEvent s e source).memWf := by
  unfold State.traceEvent
  dsimp only
  repeat' (first | with_reducible assumption | (with_reducible apply State.setEngine_memWf) | (with_reducible refine memWf_ite ?_ ?_) | exact SameAs.refl _ | split)

theorem State.traceRow_memWf (s : State) (e : Fin 16) (seq : Word) (h : s.memWf) :
    (State.traceRow s e seq).memWf := by
  unfold State.traceRow
  dsimp only
  repeat' (first | with_reducible assumption | (with_reducible apply State.setEngine_memWf) | (with_reducible refine memWf_ite ?_ ?_) | exact SameAs.refl _ | split)

theorem State.armTrace_memWf (s : State) (e : Fin 16) (h : s.memWf) :
    (State.armTrace s e).memWf := by
  exact h

theorem State.setGroup_memWf (s : State) (k : Nat) (g : GroupSt) (h : s.memWf) :
    (State.setGroup s k g).memWf := by
  exact h

theorem State.markPrimary_memWf (s : State) (key m : Nat) (h : s.memWf) :
    (State.markPrimary s key m).memWf := by
  unfold State.markPrimary
  dsimp only
  repeat' (first | with_reducible assumption | (with_reducible apply State.setLoops_memWf) | (with_reducible refine memWf_ite ?_ ?_) | (with_reducible refine memWf_foldOn _ _ _ ?_ (fun s x hS => ?_)) | exact SameAs.refl _ | split)

theorem State.endHandover_memWf (s : State) (key : Nat) (faulted : Bool) (h : s.memWf) :
    (State.endHandover s key faulted).memWf := by
  unfold State.endHandover
  dsimp only
  repeat' (first | with_reducible assumption | (with_reducible apply State.finishTag_memWf) | (with_reducible apply State.markPrimary_memWf) | (with_reducible apply State.setGroup_memWf) | exact SameAs.refl _ | split)

theorem State.axisFault_memWf (s : State) (a : Nat) (cause : Nat) (once : Bool) (h : s.memWf) :
    (State.axisFault s a cause once).memWf := by
  unfold State.axisFault
  dsimp only
  repeat' (first | with_reducible assumption | (with_reducible apply State.endHandover_memWf) | (with_reducible apply State.motionStop34_memWf) | (with_reducible apply State.notice_memWf) | (with_reducible apply State.protect_memWf) | (with_reducible apply State.setAxis_memWf) | (with_reducible apply State.traceEvent_memWf) | (with_reducible refine memWf_ite ?_ ?_) | (with_reducible refine memWf_foldOn _ _ _ ?_ (fun s x hS => ?_)) | (with_reducible refine memWf_foldl _ _ _ ?_ (fun s x hS => ?_)) | exact SameAs.refl _ | split)

theorem State.slotMiss_memWf (s : State) (e : Fin 16) (k : Fin 32) (seq : Word) (h : s.memWf) :
    (State.slotMiss s e k seq).memWf := by
  unfold State.slotMiss
  dsimp only
  repeat' (first | with_reducible assumption | (with_reducible apply State.axisFault_memWf) | (with_reducible apply State.setLoops_memWf) | (with_reducible apply State.setSlot_memWf) | (with_reducible apply State.setTwin_memWf) | (with_reducible apply State.traceEvent_memWf) | (with_reducible refine memWf_ite ?_ ?_) | exact SameAs.refl _ | split)

theorem State.advanceHandover_memWf (s : State) (key : Nat) (h : s.memWf) :
    (State.advanceHandover s key).memWf := by
  unfold State.advanceHandover
  dsimp only
  repeat' (first | with_reducible assumption | (with_reducible apply State.endHandover_memWf) | (with_reducible apply State.setGroup_memWf) | (with_reducible refine memWf_ite ?_ ?_) | exact SameAs.refl _ | split)

theorem State.traceRows_memWf (s : State) (h : s.memWf) :
    (State.traceRows s).memWf := by
  unfold State.traceRows
  repeat' (first | with_reducible assumption | (with_reducible apply State.traceRow_memWf) | (with_reducible refine memWf_ite ?_ ?_) | (with_reducible refine memWf_foldOn _ _ _ ?_ (fun s x hS => ?_)) | exact SameAs.refl _ | split)

theorem State.completeCoeffs_memWf (s : State) (l : LoopSlot) (t : Nat) (h : s.memWf) :
    (State.completeCoeffs s l t).memWf := by
  unfold State.completeCoeffs
  repeat' (first | with_reducible assumption | (with_reducible apply State.finishTag_memWf) | (with_reducible refine memWf_ite ?_ ?_) | (with_reducible refine memWf_foldl _ _ _ ?_ (fun s x hS => ?_)) | exact SameAs.refl _ | split)

theorem State.maskChanged_memWf (s : State) (h : s.memWf) :
    (State.maskChanged s).memWf := by
  exact h

theorem State.engineLost_memWf (s : State) (e : Fin 16) (masked : Bool) (h : s.memWf) :
    (State.engineLost s e masked).memWf := by
  unfold State.engineLost
  dsimp only
  repeat' (first | with_reducible assumption | (with_reducible apply State.axisFault_memWf) | (with_reducible apply State.latchUnit_memWf) | (with_reducible apply State.maskChanged_memWf) | (with_reducible apply State.setCell_memWf) | (with_reducible apply State.setEngine_memWf) | (with_reducible refine memWf_ite ?_ ?_) | (with_reducible refine memWf_foldl _ _ _ ?_ (fun s x hS => ?_)) | exact SameAs.refl _ | split)

theorem State.evalGroup_memWf (s : State) (key : Nat) (fresh : List (Nat × Nat)) (m : AxisIn) (sp : Setpoint) (seq : Word) (t : Nat) (h : s.memWf) :
    (State.evalGroup s key fresh m sp seq t).memWf := by
  unfold State.evalGroup
  dsimp only
  repeat' (first | with_reducible assumption | (with_reducible apply State.advanceHandover_memWf) | (with_reducible apply State.axisFault_memWf) | (with_reducible apply State.completeCoeffs_memWf) | (with_reducible apply State.engineLost_memWf) | (with_reducible apply State.setAxis_memWf) | (with_reducible apply State.setGroup_memWf) | (with_reducible apply State.setSlot_memWf) | (with_reducible apply State.slotMiss_memWf) | (with_reducible apply State.traceEvent_memWf) | (with_reducible refine memWf_ite ?_ ?_) | (with_reducible refine memWf_foldl _ _ _ ?_ (fun s x hS => ?_)) | exact SameAs.refl _ | split)

theorem State.spans_memWf (s : State) (slots : List (Nat × Nat)) (h : s.memWf) :
    (State.spans s slots).memWf := by
  unfold State.spans
  repeat' (first | with_reducible assumption | (with_reducible apply State.setEngine_memWf) | (with_reducible refine memWf_foldOn _ _ _ ?_ (fun s x hS => ?_)) | exact SameAs.refl _ | split)

theorem State.activateLoops_memWf (s : State) (n : NodeRec) (loops : List Nat) (seq : Word) (bs : List Byte) (h : s.memWf) :
    (State.activateLoops s n loops seq bs).memWf := by
  unfold State.activateLoops
  dsimp only
  repeat' (first | with_reducible assumption | (with_reducible apply State.activate_memWf) | (with_reducible refine memWf_ite ?_ ?_) | (with_reducible refine memWf_foldOn _ _ _ ?_ (fun s x hS => ?_)) | exact SameAs.refl _ | split)

theorem State.markSeen_memWf (s : State) (ps : List (Nat × Nat)) (seq : Word) (h : s.memWf) :
    (State.markSeen s ps seq).memWf := by
  unfold State.markSeen
  dsimp only
  repeat' (first | with_reducible assumption | (with_reducible apply State.setSlot_memWf) | (with_reducible refine memWf_foldl _ _ _ ?_ (fun s x hS => ?_)) | exact SameAs.refl _ | split)

theorem State.recordProbes_memWf (s : State) (a : Nat) (seq : Word) (h : s.memWf) :
    (State.recordProbes s a seq).memWf := by
  unfold State.recordProbes
  dsimp only
  repeat' (first | with_reducible assumption | (with_reducible apply State.setEngine_memWf) | (with_reducible refine memWf_foldOn _ _ _ ?_ (fun s x hS => ?_)) | exact SameAs.refl _ | split)

theorem State.axisBatch_memWf (s : State) (a : Nat) (m : AxisIn) (seq : Word) (sample : Nat) (h : s.memWf) :
    (State.axisBatch s a m seq sample).memWf := by
  unfold State.axisBatch
  dsimp only
  repeat' (first | with_reducible assumption | (with_reducible apply State.evalGroup_memWf) | (with_reducible apply State.markSeen_memWf) | (with_reducible apply State.recordProbes_memWf) | (with_reducible apply State.setAxis_memWf) | (with_reducible apply State.setChain_memWf) | (with_reducible apply State.setFree_memWf) | (with_reducible refine memWf_ite ?_ ?_) | (with_reducible refine memWf_foldl _ _ _ ?_ (fun s x hS => ?_)) | exact SameAs.refl _ | split)

theorem State.takeAxes_memWf (s : State) (n : NodeRec) (seq : Word) (bs : List Byte) (h : s.memWf) :
    (State.takeAxes s n seq bs).memWf := by
  unfold State.takeAxes
  dsimp only
  repeat' (first | with_reducible assumption | (with_reducible apply State.setAxis_memWf) | (with_reducible refine memWf_ite ?_ ?_) | (with_reducible refine memWf_foldl _ _ _ ?_ (fun s x hS => ?_)) | exact SameAs.refl _ | split)

theorem State.coeffsWhileFaulted_memWf (s : State) (a : Nat) (t : Nat) (h : s.memWf) :
    (State.coeffsWhileFaulted s a t).memWf := by
  unfold State.coeffsWhileFaulted
  dsimp only
  repeat' (first | with_reducible assumption | (with_reducible apply State.completeCoeffs_memWf) | (with_reducible apply State.setSlot_memWf) | (with_reducible refine memWf_ite ?_ ?_) | (with_reducible refine memWf_foldl _ _ _ ?_ (fun s x hS => ?_)) | exact SameAs.refl _ | split)

theorem State.activateEngines_memWf (s : State) (old : Option Cell) (new : Cell) (pl : Placement) (h : s.memWf) :
    (State.activateEngines s old new pl).memWf := by
  unfold State.activateEngines
  dsimp only
  repeat' (first | with_reducible assumption | (with_reducible apply State.endHandover_memWf) | (with_reducible apply State.finishTag_memWf) | (with_reducible apply State.setLoops_memWf) | (with_reducible refine memWf_ite ?_ ?_) | (with_reducible refine memWf_foldOn _ _ _ ?_ (fun s x hS => ?_)) | (with_reducible refine memWf_foldl _ _ _ ?_ (fun s x hS => ?_)) | exact SameAs.refl _ | split)

/-! ### Operations of Nibble -/

theorem State.countMiss_memWf (s : State) (h : s.memWf) :
    (State.countMiss s).memWf := by
  exact h

/-- From `x` to `y` the front image stays and the back image stays in canonical form. -/
structure Tame (x y : NibbleSt) : Prop where
  front : y.front = x.front
  back  : mwf (3 : Nib) x.back = true → mwf (3 : Nib) y.back = true

theorem Tame.refl (x : NibbleSt) : Tame x x := ⟨rfl, id⟩

theorem Tame.trans {x y z : NibbleSt} (h : Tame x y) (k : Tame y z) : Tame x z :=
  ⟨k.front.trans h.front, fun m => k.back (h.back m)⟩

theorem Tame.foldl {α : Type} (l : List α) (g : NibbleSt → α → NibbleSt) (hg : ∀ x a, Tame x (g x a)) (x : NibbleSt) :
    Tame x (l.foldl g x) := by
  induction l generalizing x with
  | nil => exact Tame.refl x
  | cons a r ih => exact (hg x a).trans (ih _)

theorem Tame.foldOn (l : List Nat) (g : NibbleSt → Nat → NibbleSt) (hg : ∀ x a, Tame x (g x a)) (x : NibbleSt) :
    Tame x (Sys2Proof.Machine.foldOn l x g) := Tame.foldl l g hg x

theorem NibbleSt.put_tame (x : NibbleSt) (pt : Nat) (n : Nib) : Tame x (x.put pt n) := ⟨rfl, fun h => mput_mwf _ _ h⟩

theorem NibbleSt.writeOut_tame (x : NibbleSt) (c : Cell) (pt : Nat) (st : BitVec 2) : Tame x (x.writeOut c pt st) := by
  unfold NibbleSt.writeOut
  split
  · exact Tame.refl x
  · split
    · exact Tame.refl x
    · exact x.put_tame _ _

theorem NibbleSt.pass_tame (x : NibbleSt) (c : Cell) (rs : List Rule) (wrote : List (Nat × Nib)) :
    Tame x (x.pass c rs wrote) := by
  induction rs generalizing x wrote with
  | nil => exact Tame.refl x
  | cons r rest ih =>
    unfold NibbleSt.pass
    dsimp only
    split
    · exact ih x wrote
    · exact (x.writeOut_tame c _ _).trans (ih _ _)

theorem NibbleSt.deliver_tame (x : NibbleSt) (r : PointRec) (bs : List Byte) : Tame x (x.deliver r bs) :=
  Tame.foldOn _ _ (fun y _ => y.put_tame _ _) x

theorem NibbleSt.missRange_tame (x : NibbleSt) (i : Nat) (r : PointRec) (limit : Nat) : Tame x (x.missRange i r limit) := by
  unfold NibbleSt.missRange
  have h := Tame.foldOn (List.range r.count) (fun y k => y.put (r.first + k)
    (nibOf (nForced (y.backAt (r.first + k))) false
      (if decide (limit ≤ mget 0 x.runs i + 1) && !nForced (y.backAt (r.first + k)) then 3 else nState (y.backAt (r.first + k)))))
    (fun y _ => y.put_tame _ _) x
  exact ⟨h.front, h.back⟩

theorem NibbleSt.clearRemoved_tame (x : NibbleSt) (c : Cell) : Tame x (x.clearRemoved c) :=
  Tame.foldl _ _ (fun y _ => Tame.foldl _ _ (fun z _ => Tame.foldOn _ _ (fun w _ => w.put_tame _ _) z) y) x

theorem NibbleSt.applyCmd_tame (x : NibbleSt) (c : Cell) (m : PointCmd) : Tame x (x.applyCmd c m) := by
  refine Tame.foldl _ _ (fun y r => ?_) x
  dsimp only
  split
  · exact Tame.refl y
  · split
    · exact y.put_tame _ _
    · exact y.writeOut_tame _ _ _

theorem startImage_mwf (c : Cell) (keep : PointRec → Bool) (old : List (Nat × Nib)) :
    mwf (3 : Nib) (startImage c keep old) = true :=
  foldl_mwf _ _ _ rfl (fun _ _ h => foldl_mwf _ _ _ h (fun _ _ h => mput_mwf _ _ h))

/-- A tame change of the nibble plane keeps the RAMs in canonical form. -/
theorem State.setNibble_tame (s : State) (x : NibbleSt) (h : s.memWf) (hx : Tame s.nibble x) : (s.setNibble x).memWf :=
  s.setImages_memWf x h (hx.front ▸ (memWf_iff.1 h).1) (hx.back (memWf_iff.1 h).2.1)

theorem State.swapDelivery_memWf (s : State) (d : Delivery) (h : s.memWf) : (State.swapDelivery s d).memWf := by
  unfold State.swapDelivery
  refine memWf_ite h (memWf_foldl _ _ _ (memWf_ite (State.countMiss_memWf _ h) h) (fun s r hS => ?_))
  have hd := s.nibble.deliver_tame r.2 d.data
  exact memWf_ite (s.setNibble_tame _ hS (s.nibble.missRange_tame _ _ _)) (s.setNibble_tame _ hS ⟨hd.front, hd.back⟩)

theorem State.swapMiss_memWf (s : State) (d : Delivery) (h : s.memWf) :
    (State.swapMiss s d).memWf := by
  unfold State.swapMiss
  exact memWf_ite h (memWf_foldl _ _ _ (State.countMiss_memWf _ h) (fun s r hS => s.setNibble_tame _ hS (s.nibble.missRange_tame _ _ _)))

theorem State.readmitPoints_memWf (s : State) (node : Nat) (h : s.memWf) :
    (State.readmitPoints s node).memWf := by
  unfold State.readmitPoints
  refine s.setNibble_tame _ h ?_
  refine Tame.trans ?_ (Tame.foldl _ _ (fun y _ => Tame.foldOn _ _ (fun z _ => z.put_tame _ _) y) _)
  exact ⟨rfl, id⟩

theorem State.removePoints_memWf (s : State) (node : Nat) (h : s.memWf) :
    (State.removePoints s node).memWf := by
  exact h

theorem State.deliverSub_memWf (s : State) (sub : Fin 16) (h : s.memWf) :
    (State.deliverSub s sub).memWf := by
  unfold State.deliverSub
  dsimp only
  repeat' (first | with_reducible assumption | (with_reducible apply State.finishN_memWf) | (with_reducible apply State.sendBenjo_memWf) | (with_reducible apply State.setSub_memWf) | (with_reducible refine memWf_ite ?_ ?_) | exact SameAs.refl _ | split)

theorem State.dropDelivered_memWf (s : State) (sub : Fin 16) (n : Nat) (h : s.memWf) :
    (State.dropDelivered s sub n).memWf := by
  unfold State.dropDelivered
  dsimp only
  repeat' (first | with_reducible assumption | (with_reducible apply State.finishOk_memWf) | (with_reducible apply State.setSub_memWf) | exact SameAs.refl _ | split)

theorem State.publish_memWf (s : State) (e : Ev) (h : s.memWf) :
    (State.publish s e).memWf := by
  unfold State.publish
  dsimp only
  repeat' (first | with_reducible assumption | (with_reducible apply State.deliverSub_memWf) | (with_reducible apply State.setSub_memWf) | (with_reducible refine memWf_ite ?_ ?_) | (with_reducible refine memWf_foldOn _ _ _ ?_ (fun s x hS => ?_)) | exact SameAs.refl _ | split)

theorem State.release_memWf (s : State) (e : Ev) (h : s.memWf) :
    (State.release s e).memWf := by
  unfold State.release
  refine State.publish_memWf _ _ (s.setNibble_tame _ h ?_)
  dsimp only
  split
  · exact ⟨rfl, id⟩
  · refine Tame.trans (y := _) ?_ (Tame.foldl _ _ (fun y r => ?_) _)
    · exact ⟨rfl, id⟩
    · split
      · exact y.writeOut_tame _ _ _
      · exact Tame.refl y

theorem State.makeRoom_memWf (s : State) (h : s.memWf) :
    (State.makeRoom s).memWf := by
  unfold State.makeRoom
  dsimp only
  repeat' (first | with_reducible assumption | (with_reducible apply State.release_memWf) | (with_reducible apply State.setNibble_memWf) | (with_reducible refine memWf_ite ?_ ?_) | exact SameAs.refl _ | split)

theorem State.takeEvent_memWf (s : State) (e : Ev) (h : s.memWf) :
    (State.takeEvent s e).memWf := by
  unfold State.takeEvent
  dsimp only
  repeat' (first | with_reducible assumption | (with_reducible apply State.makeRoom_memWf) | (with_reducible apply State.setNibble_memWf) | (with_reducible refine memWf_ite ?_ ?_) | exact SameAs.refl _ | split)

theorem State.nodeEvent_memWf (s : State) (node : Nat) (base : Nat) (r : List Byte) (h : s.memWf) :
    (State.nodeEvent s node base r).memWf := by
  unfold State.nodeEvent
  dsimp only
  repeat' (first | with_reducible assumption | (with_reducible apply State.setNibble_memWf) | (with_reducible apply State.takeEvent_memWf) | (with_reducible refine memWf_ite ?_ ?_) | exact SameAs.refl _ | split)

theorem State.takeDelivery_memWf (s : State) (node : Nat) (seq : Word) (bs : List Byte) (h : s.memWf) :
    (State.takeDelivery s node seq bs).memWf := by
  unfold State.takeDelivery
  dsimp only
  repeat' (first | with_reducible assumption | (with_reducible apply State.nodeEvent_memWf) | (with_reducible apply State.setNibble_memWf) | (with_reducible refine memWf_ite ?_ ?_) | (with_reducible refine memWf_foldOn _ _ _ ?_ (fun s x hS => ?_)) | (with_reducible refine memWf_foldl _ _ _ ?_ (fun s x hS => ?_)) | exact SameAs.refl _ | split)

theorem State.missDelivery_memWf (s : State) (node : Nat) (seq : Word) (h : s.memWf) :
    (State.missDelivery s node seq).memWf := by
  unfold State.missDelivery
  dsimp only
  repeat' (first | with_reducible assumption | (with_reducible apply State.setNibble_memWf) | (with_reducible refine memWf_ite ?_ ?_) | exact SameAs.refl _ | split)

theorem State.activatePoints_memWf (s : State) (entered : List Delivery) (h : s.memWf) :
    (State.activatePoints s entered).memWf := by
  unfold State.activatePoints
  dsimp only
  repeat' (first | with_reducible assumption | (with_reducible apply State.activate_memWf) | (with_reducible refine memWf_ite ?_ ?_) | (with_reducible refine memWf_foldOn _ _ _ ?_ (fun s x hS => ?_)) | exact SameAs.refl _ | split)

theorem State.setWindow_memWf (s : State) (w : Nat) (h : s.memWf) :
    (State.setWindow s w).memWf := by
  exact h

theorem State.activateNibbles_memWf (s : State) (old : Option Cell) (new : Cell) (h : s.memWf) :
    (State.activateNibbles s old new).memWf := by
  unfold State.activateNibbles
  dsimp only
  split
  · exact State.finishTag_memWf _ _ _ _ _ (s.setImages_memWf _ h (startImage_mwf _ _ _) (startImage_mwf _ _ _))
  · exact s.setImages_memWf _ h (startImage_mwf _ _ _) (startImage_mwf _ _ _)

theorem State.holdRemoved_memWf (s : State) (h : s.memWf) :
    (State.holdRemoved s).memWf := by
  exact h

theorem State.pointCommand_memWf (s : State) (p : Pkt) (force : Bool) (h : s.memWf) :
    (State.pointCommand s p force).memWf := by
  unfold State.pointCommand
  dsimp only
  repeat' (first | with_reducible assumption | (with_reducible apply State.finish_memWf) | (with_reducible apply State.setNibble_memWf) | (with_reducible refine memWf_ite ?_ ?_) | exact SameAs.refl _ | split)

/-! ### Operations of Ring -/

theorem State.putHop_memWf (s : State) (r : Fin 4) (h : Nat) (n : NodeSt) (hP : s.memWf) :
    (State.putHop s r h n).memWf := by
  exact hP

theorem State.ringEmit_memWf (s : State) (r : Fin 4) (laneB : Bool) (at_ : Nat) (bs : List Byte) (h : s.memWf) :
    (State.ringEmit s r laneB at_ bs).memWf := by
  exact h

theorem State.ringSendAt_memWf (s : State) (r : Fin 4) (laneB : Bool) (at_ : Nat) (bs : List Byte) (h : s.memWf) :
    (State.ringSendAt s r laneB at_ bs).memWf := by
  unfold State.ringSendAt
  dsimp only
  repeat' (first | with_reducible assumption | (with_reducible apply State.ringEmit_memWf) | (with_reducible apply State.setRing_memWf) | (with_reducible refine memWf_ite ?_ ?_) | exact SameAs.refl _ | split)

theorem State.sendCopies_memWf (s : State) (r : Fin 4) (f : HdrFields) (payload : List Byte) (h : s.memWf) :
    (State.sendCopies s r f payload).memWf := by
  unfold State.sendCopies
  repeat' (first | with_reducible assumption | (with_reducible apply State.ringSendAt_memWf) | (with_reducible refine memWf_foldl _ _ _ ?_ (fun s x hS => ?_)) | exact SameAs.refl _ | split)

theorem State.sendStart_memWf (s : State) (r : Fin 4) (laneB : Bool) (type aux : Nat) (payload : List Byte) (h : s.memWf) :
    (State.sendStart s r laneB type aux payload).memWf := by
  exact h

theorem State.ringDown_memWf (s : State) (r : Fin 4) (k : Option NoticeKind) (b : Nat) (h : s.memWf) :
    (State.ringDown s r k b).memWf := by
  unfold State.ringDown
  dsimp only
  repeat' (first | with_reducible assumption | (with_reducible apply State.notice_memWf) | (with_reducible apply State.setRing_memWf) | exact SameAs.refl _ | split)

theorem State.ringListen_memWf (s : State) (r : Fin 4) (h : s.memWf) :
    (State.ringListen s r).memWf := by
  unfold State.ringListen
  dsimp only
  repeat' (first | with_reducible assumption | (with_reducible apply State.setRing_memWf) | (with_reducible refine memWf_ite ?_ ?_) | exact SameAs.refl _ | split)

theorem State.sendPoll_memWf (s : State) (r : Fin 4) (h : s.memWf) :
    (State.sendPoll s r).memWf := by
  exact h

theorem State.enterRanging_memWf (s : State) (r : Fin 4) (starter : Bool) (h : s.memWf) :
    (State.enterRanging s r starter).memWf := by
  unfold State.enterRanging
  dsimp only
  repeat' (first | with_reducible assumption | (with_reducible apply State.ringDown_memWf) | (with_reducible apply State.sendPoll_memWf) | (with_reducible apply State.setRing_memWf) | (with_reducible refine memWf_ite ?_ ?_) | (with_reducible refine memWf_foldl _ _ _ ?_ (fun s x hS => ?_)) | exact SameAs.refl _ | split)

theorem State.sendConfig_memWf (s : State) (r : Fin 4) (h : s.memWf) :
    (State.sendConfig s r).memWf := by
  unfold State.sendConfig
  dsimp only
  repeat' (first | with_reducible assumption | (with_reducible apply State.sendPoll_memWf) | (with_reducible apply State.sendStart_memWf) | (with_reducible apply State.setRing_memWf) | (with_reducible refine memWf_ite ?_ ?_) | exact SameAs.refl _ | split)

theorem State.enterConfig_memWf (s : State) (r : Fin 4) (h : s.memWf) :
    (State.enterConfig s r).memWf := by
  unfold State.enterConfig
  dsimp only
  repeat' (first | with_reducible assumption | (with_reducible apply State.ringDown_memWf) | (with_reducible apply State.sendConfig_memWf) | (with_reducible apply State.setRing_memWf) | (with_reducible refine memWf_ite ?_ ?_) | exact SameAs.refl _ | split)

theorem State.sendActivate_memWf (s : State) (r : Fin 4) (h : s.memWf) :
    (State.sendActivate s r).memWf := by
  unfold State.sendActivate
  dsimp only
  repeat' (first | with_reducible assumption | (with_reducible apply State.sendConfig_memWf) | (with_reducible apply State.setRing_memWf) | (with_reducible refine memWf_ite ?_ ?_) | exact SameAs.refl _ | split)

theorem State.nextPoll_memWf (s : State) (r : Fin 4) (h : s.memWf) :
    (State.nextPoll s r).memWf := by
  unfold State.nextPoll
  dsimp only
  repeat' (first | with_reducible assumption | (with_reducible apply State.enterConfig_memWf) | (with_reducible apply State.sendActivate_memWf) | (with_reducible apply State.sendPoll_memWf) | (with_reducible apply State.setRing_memWf) | (with_reducible refine memWf_ite ?_ ?_) | exact SameAs.refl _ | split)

theorem State.sendCold_memWf (s : State) (r : Fin 4) (h : s.memWf) :
    (State.sendCold s r).memWf := by
  exact h

theorem State.enterCold_memWf (s : State) (r : Fin 4) (h : s.memWf) :
    (State.enterCold s r).memWf := by
  exact h

theorem State.hearDevice_memWf (s : State) (r : Fin 4) (coldstart : Bool) (h : s.memWf) :
    (State.hearDevice s r coldstart).memWf := by
  unfold State.hearDevice
  dsimp only
  repeat' (first | with_reducible assumption | (with_reducible apply State.enterRanging_memWf) | (with_reducible apply State.ringDown_memWf) | (with_reducible apply State.setRing_memWf) | (with_reducible refine memWf_ite ?_ ?_) | exact SameAs.refl _ | split)

theorem State.ringError_memWf (s : State) (r : Fin 4) (hi lo : Nat) (h : s.memWf) :
    (State.ringError s r hi lo).memWf := by
  exact h

theorem State.ringForward_memWf (s : State) (r : Fin 4) (laneB : Bool) (frame : List Byte) (h : s.memWf) :
    (State.ringForward s r laneB frame).memWf := by
  unfold State.ringForward
  dsimp only
  repeat' (first | with_reducible assumption | (with_reducible apply State.emit_memWf) | (with_reducible refine memWf_ite ?_ ?_) | exact SameAs.refl _ | split)

theorem State.takeCold_memWf (s : State) (r : Fin 4) (own : Bool) (h : List Byte) (hP : s.memWf) :
    (State.takeCold s r own h).memWf := by
  unfold State.takeCold
  dsimp only
  repeat' (first | with_reducible assumption | (with_reducible apply State.hearDevice_memWf) | (with_reducible apply State.ringDown_memWf) | (with_reducible apply State.setRing_memWf) | (with_reducible refine memWf_ite ?_ ?_) | exact SameAs.refl _ | split)

theorem State.takeRangeRsp_memWf (s : State) (r : Fin 4) (arr : Int) (frame h : List Byte) (hP : s.memWf) :
    (State.takeRangeRsp s r arr frame h).memWf := by
  unfold State.takeRangeRsp
  dsimp only
  repeat' (first | with_reducible assumption | (with_reducible apply State.nextPoll_memWf) | (with_reducible apply State.putHop_memWf) | (with_reducible apply State.setRing_memWf) | (with_reducible refine memWf_ite ?_ ?_) | exact SameAs.refl _ | split)

theorem State.removeNode_memWf (s : State) (r : Fin 4) (h : Nat) (result : Nat) (hP : s.memWf) :
    (State.removeNode s r h result).memWf := by
  unfold State.removeNode
  dsimp only
  repeat' (first | with_reducible assumption | (with_reducible apply State.axisFault_memWf) | (with_reducible apply State.notice_memWf) | (with_reducible apply State.putHop_memWf) | (with_reducible apply State.removePoints_memWf) | (with_reducible apply State.sendMgmt_memWf) | (with_reducible apply State.setRing_memWf) | (with_reducible refine memWf_ite ?_ ?_) | (with_reducible refine memWf_foldl _ _ _ ?_ (fun s x hS => ?_)) | exact SameAs.refl _ | split)

theorem State.countResult_memWf (s : State) (r : Fin 4) (h : Nat) (res : SlotResult) (hP : s.memWf) :
    (State.countResult s r h res).memWf := by
  unfold State.countResult
  dsimp only
  repeat' (first | with_reducible assumption | (with_reducible apply State.putHop_memWf) | (with_reducible apply State.removeNode_memWf) | (with_reducible apply State.setRing_memWf) | (with_reducible refine memWf_ite ?_ ?_) | exact SameAs.refl _ | split)

theorem State.closePrev_memWf (s : State) (r : Fin 4) (h : Nat) (hP : s.memWf) :
    (State.closePrev s r h).memWf := by
  unfold State.closePrev
  dsimp only
  repeat' (first | with_reducible assumption | (with_reducible apply State.countResult_memWf) | (with_reducible apply State.putHop_memWf) | exact SameAs.refl _ | split)

theorem State.closeCycle_memWf (s : State) (r : Fin 4) (h : Nat) (hP : s.memWf) :
    (State.closeCycle s r h).memWf := by
  unfold State.closeCycle
  dsimp only
  repeat' (first | with_reducible assumption | (with_reducible apply State.closePrev_memWf) | (with_reducible apply State.countResult_memWf) | (with_reducible apply State.putHop_memWf) | (with_reducible refine memWf_ite ?_ ?_) | exact SameAs.refl _ | split)

theorem State.missOpen_memWf (s : State) (r : Fin 4) (h : Nat) (hP : s.memWf) :
    (State.missOpen s r h).memWf := by
  unfold State.missOpen
  dsimp only
  repeat' (first | with_reducible assumption | (with_reducible apply State.missDelivery_memWf) | (with_reducible apply State.putHop_memWf) | (with_reducible refine memWf_ite ?_ ?_) | exact SameAs.refl _ | split)

theorem State.settleCycle_memWf (s : State) (r : Fin 4) (h : Nat) (hP : s.memWf) :
    (State.settleCycle s r h).memWf := by
  unfold State.settleCycle
  dsimp only
  repeat' (first | with_reducible assumption | (with_reducible apply State.closeCycle_memWf) | (with_reducible apply State.missOpen_memWf) | (with_reducible apply State.putHop_memWf) | (with_reducible refine memWf_ite ?_ ?_) | exact SameAs.refl _ | split)

theorem State.newCycle_memWf (s : State) (r : Fin 4) (h : Nat) (seq : Word) (hP : s.memWf) :
    (State.newCycle s r h seq).memWf := by
  unfold State.newCycle
  dsimp only
  repeat' (first | with_reducible assumption | (with_reducible apply State.closeCycle_memWf) | (with_reducible apply State.closePrev_memWf) | (with_reducible apply State.missOpen_memWf) | (with_reducible apply State.putHop_memWf) | (with_reducible refine memWf_ite ?_ ?_) | exact SameAs.refl _ | split)

theorem State.takeCopy_memWf (s : State) (r : Fin 4) (h : Nat) (rec : NodeRec) (seq : Word) (null fault : Bool) (payload : List Byte) (hP : s.memWf) :
    (State.takeCopy s r h rec seq null fault payload).memWf := by
  unfold State.takeCopy
  dsimp only
  repeat' (first | with_reducible assumption | (with_reducible apply State.missDelivery_memWf) | (with_reducible apply State.putHop_memWf) | (with_reducible apply State.takeAxes_memWf) | (with_reducible apply State.takeDelivery_memWf) | (with_reducible refine memWf_ite ?_ ?_) | exact SameAs.refl _ | split)

theorem State.nodeCopy_memWf (s : State) (r : Fin 4) (laneB : Bool) (arr : Int) (bs : List Byte) (h : s.memWf) :
    (State.nodeCopy s r laneB arr bs).memWf := by
  unfold State.nodeCopy
  dsimp only
  repeat' (first | with_reducible assumption | (with_reducible apply State.newCycle_memWf) | (with_reducible apply State.putHop_memWf) | (with_reducible apply State.ringError_memWf) | (with_reducible apply State.settleCycle_memWf) | (with_reducible apply State.takeCopy_memWf) | (with_reducible refine memWf_ite ?_ ?_) | exact SameAs.refl _ | split)

theorem State.takeRecords_memWf (s : State) (r : Fin 4) (gen : Nat) (recs : List (List Byte)) (h : s.memWf) :
    (State.takeRecords s r gen recs).memWf := by
  unfold State.takeRecords
  dsimp only
  repeat' (first | with_reducible assumption | (with_reducible apply State.putHop_memWf) | (with_reducible apply State.setRing_memWf) | (with_reducible refine memWf_ite ?_ ?_) | (with_reducible refine memWf_foldl _ _ _ ?_ (fun s x hS => ?_)) | exact SameAs.refl _ | split)

theorem State.answerPoll_memWf (s : State) (r : Fin 4) (laneB : Bool) (arr : Int) (h : s.memWf) :
    (State.answerPoll s r laneB arr).memWf := by
  exact h

theorem State.strayGen_memWf (s : State) (r : Fin 4) (type gen : Nat) (h : s.memWf) :
    (State.strayGen s r type gen).memWf := by
  unfold State.strayGen
  repeat' (first | with_reducible assumption | (with_reducible apply State.ringError_memWf) | (with_reducible refine memWf_ite ?_ ?_) | exact SameAs.refl _ | split)

theorem State.deviceFrame_memWf (s : State) (r : Fin 4) (laneB : Bool) (arr : Int) (bs : List Byte) (h : s.memWf) :
    (State.deviceFrame s r laneB arr bs).memWf := by
  unfold State.deviceFrame
  dsimp only
  repeat' (first | with_reducible assumption | (with_reducible apply State.answerPoll_memWf) | (with_reducible apply State.hearDevice_memWf) | (with_reducible apply State.pairTo_memWf) | (with_reducible apply State.ringError_memWf) | (with_reducible apply State.setRing_memWf) | (with_reducible apply State.setTwin_memWf) | (with_reducible apply State.strayGen_memWf) | (with_reducible apply State.takeRecords_memWf) | (with_reducible refine memWf_ite ?_ ?_) | exact SameAs.refl _ | split)

theorem State.ownFrame_memWf (s : State) (r : Fin 4) (arr : Int) (bs : List Byte) (h : s.memWf) :
    (State.ownFrame s r arr bs).memWf := by
  unfold State.ownFrame
  dsimp only
  repeat' (first | with_reducible assumption | (with_reducible apply State.setRing_memWf) | (with_reducible apply State.takeCold_memWf) | (with_reducible refine memWf_ite ?_ ?_) | exact SameAs.refl _ | split)

theorem State.takeNodeFrame_memWf (s : State) (r : Fin 4) (laneB : Bool) (arr : Int) (bs : List Byte) (h : s.memWf) :
    (State.takeNodeFrame s r laneB arr bs).memWf := by
  unfold State.takeNodeFrame
  dsimp only
  repeat' (first | with_reducible assumption | (with_reducible apply State.nodeCopy_memWf) | (with_reducible apply State.ringError_memWf) | (with_reducible apply State.setRing_memWf) | (with_reducible refine memWf_ite ?_ ?_) | exact SameAs.refl _ | split)

theorem State.endCmds_memWf (s : State) (r : Fin 4) (h : s.memWf) :
    (State.endCmds s r).memWf := by
  unfold State.endCmds
  dsimp only
  repeat' (first | with_reducible assumption | (with_reducible apply State.setAxis_memWf) | (with_reducible refine memWf_foldOn _ _ _ ?_ (fun s x hS => ?_)) | exact SameAs.refl _ | split)

theorem State.sendService_memWf (s : State) (r : Fin 4) (head : Nat) (seq : Word) (h : s.memWf) :
    (State.sendService s r head seq).memWf := by
  unfold State.sendService
  dsimp only
  repeat' (first | with_reducible assumption | (with_reducible apply State.sendCopies_memWf) | (with_reducible apply State.setRing_memWf) | (with_reducible refine memWf_ite ?_ ?_) | exact SameAs.refl _ | split)

theorem State.checkReturn_memWf (s : State) (r : Fin 4) (h : s.memWf) :
    (State.checkReturn s r).memWf := by
  unfold State.checkReturn
  dsimp only
  repeat' (first | with_reducible assumption | (with_reducible apply State.notice_memWf) | (with_reducible apply State.setRing_memWf) | (with_reducible refine memWf_ite ?_ ?_) | (with_reducible refine memWf_foldl _ _ _ ?_ (fun s x hS => ?_)) | exact SameAs.refl _ | split)

theorem State.sendSummary_memWf (s : State) (r : Fin 4) (seq : Word) (h : s.memWf) :
    (State.sendSummary s r seq).memWf := by
  unfold State.sendSummary
  dsimp only
  repeat' (first | with_reducible assumption | (with_reducible apply State.sendBenjo_memWf) | (with_reducible apply State.setRing_memWf) | (with_reducible refine memWf_ite ?_ ?_) | (with_reducible refine memWf_foldl _ _ _ ?_ (fun s x hS => ?_)) | exact SameAs.refl _ | split)

theorem State.ringTick_memWf (s : State) (r : Fin 4) (h : s.memWf) :
    (State.ringTick s r).memWf := by
  unfold State.ringTick
  dsimp only
  repeat' (first | with_reducible assumption | (with_reducible apply State.ringEmit_memWf) | (with_reducible apply State.sendCold_memWf) | (with_reducible apply State.sendConfig_memWf) | (with_reducible apply State.sendService_memWf) | (with_reducible apply State.setRing_memWf) | (with_reducible refine memWf_ite ?_ ?_) | (with_reducible refine memWf_foldl _ _ _ ?_ (fun s x hS => ?_)) | exact SameAs.refl _ | split)

theorem State.announceRings_memWf (s : State) (nc : Cell) (np : Placement) (at_ : Nat) (h : s.memWf) :
    (State.announceRings s nc np at_).memWf := by
  unfold State.announceRings
  dsimp only
  repeat' (first | with_reducible assumption | (with_reducible apply State.setRing_memWf) | (with_reducible refine memWf_ite ?_ ?_) | (with_reducible refine memWf_foldOn _ _ _ ?_ (fun s x hS => ?_)) | exact SameAs.refl _ | split)

theorem State.activateRings_memWf (s : State) (oc : Option Cell) (op : Placement) (h : s.memWf) :
    (State.activateRings s oc op).memWf := by
  unfold State.activateRings
  dsimp only
  repeat' (first | with_reducible assumption | (with_reducible apply State.removeNode_memWf) | (with_reducible apply State.ringDown_memWf) | (with_reducible apply State.ringListen_memWf) | (with_reducible apply State.setRing_memWf) | (with_reducible refine memWf_ite ?_ ?_) | (with_reducible refine memWf_foldOn _ _ _ ?_ (fun s x hS => ?_)) | (with_reducible refine memWf_foldl _ _ _ ?_ (fun s x hS => ?_)) | exact SameAs.refl _ | split)

theorem State.readmitNodes_memWf (s : State) (h : s.memWf) :
    (State.readmitNodes s).memWf := by
  unfold State.readmitNodes
  dsimp only
  repeat' (first | with_reducible assumption | (with_reducible apply State.finishTag_memWf) | (with_reducible apply State.putHop_memWf) | (with_reducible apply State.readmitPoints_memWf) | (with_reducible apply State.setAxis_memWf) | (with_reducible refine memWf_ite ?_ ?_) | (with_reducible refine memWf_foldOn _ _ _ ?_ (fun s x hS => ?_)) | (with_reducible refine memWf_foldl _ _ _ ?_ (fun s x hS => ?_)) | exact SameAs.refl _ | split)

/-! ### Operations of Separation -/

theorem State.frameFails_memWf (s : State) (node err : Nat) (h : s.memWf) :
    (State.frameFails s node err).memWf := by
  exact h

theorem State.checkLinks_memWf (s : State) (h : s.memWf) :
    (State.checkLinks s).memWf := by
  unfold State.checkLinks
  dsimp only
  repeat' (first | with_reducible assumption | (with_reducible apply State.setSep_memWf) | (with_reducible refine memWf_ite ?_ ?_) | (with_reducible refine memWf_foldl _ _ _ ?_ (fun s x hS => ?_)) | exact SameAs.refl _ | split)

theorem State.checkSources_memWf (s : State) (h : s.memWf) :
    (State.checkSources s).memWf := by
  unfold State.checkSources
  dsimp only
  repeat' (first | with_reducible assumption | (with_reducible apply State.setSep_memWf) | (with_reducible refine memWf_ite ?_ ?_) | (with_reducible refine memWf_foldl _ _ _ ?_ (fun s x hS => ?_)) | exact SameAs.refl _ | split)

theorem State.sepDecide_memWf (s : State) (hb1 hb2 : Bool) (c : Fin 16) (h : s.memWf) :
    (State.sepDecide s hb1 hb2 c).memWf := by
  unfold State.sepDecide
  dsimp only
  repeat' (first | with_reducible assumption | (with_reducible apply State.setSep_memWf) | (with_reducible apply State.stopIndex_memWf) | (with_reducible refine memWf_ite ?_ ?_) | (with_reducible refine memWf_foldl _ _ _ ?_ (fun s x hS => ?_)) | exact SameAs.refl _ | split)

theorem State.writeCaps_memWf (s : State) (h : s.memWf) :
    (State.writeCaps s).memWf := by
  unfold State.writeCaps
  dsimp only
  repeat' (first | with_reducible assumption | (with_reducible apply State.setSlot_memWf) | (with_reducible refine memWf_ite ?_ ?_) | (with_reducible refine memWf_foldl _ _ _ ?_ (fun s x hS => ?_)) | exact SameAs.refl _ | split)

theorem State.activateLinks_memWf (s : State) (old : Option Cell) (new : Cell) (h : s.memWf) :
    (State.activateLinks s old new).memWf := by
  unfold State.activateLinks
  dsimp only
  repeat' (first | with_reducible assumption | (with_reducible apply State.setSep_memWf) | (with_reducible refine memWf_ite ?_ ?_) | (with_reducible refine memWf_foldOn _ _ _ ?_ (fun s x hS => ?_)) | (with_reducible refine memWf_foldl _ _ _ ?_ (fun s x hS => ?_)) | exact SameAs.refl _ | split)

/-! ### Operations of Cells -/

theorem State.takeCell_memWf (s : State) (p : Pkt) (kind : JobKind) (bs : List Byte) (h : s.memWf) :
    (State.takeCell s p kind bs).memWf := by
  unfold State.takeCell
  dsimp only
  repeat' (first | with_reducible assumption | (with_reducible apply State.finish_memWf) | (with_reducible apply State.setCell_memWf) | (with_reducible refine memWf_ite ?_ ?_) | exact SameAs.refl _ | split)

theorem State.endJob_memWf (s : State) (j : Job) (v : Verdict) (h : s.memWf) :
    (State.endJob s j v).memWf := by
  unfold State.endJob
  dsimp only
  repeat' (first | with_reducible assumption | (with_reducible apply State.dropJob_memWf) | (with_reducible apply State.dropStaged_memWf) | (with_reducible apply State.finishTag_memWf) | (with_reducible apply State.sendHello_memWf) | (with_reducible refine memWf_ite ?_ ?_) | exact SameAs.refl _ | split)

theorem State.announceJob_memWf (s : State) (j : Job) (h : s.memWf) :
    (State.announceJob s j).memWf := by
  unfold State.announceJob
  dsimp only
  repeat' (first | with_reducible assumption | (with_reducible apply State.announceRings_memWf) | (with_reducible apply State.dropStaged_memWf) | (with_reducible apply State.sendHello_memWf) | (with_reducible apply State.setCell_memWf) | (with_reducible apply State.stageProblems_memWf) | (with_reducible apply State.withdrawSwap_memWf) | (with_reducible refine memWf_ite ?_ ?_) | exact SameAs.refl _ | split)

theorem State.reportShed_memWf (s : State) (log : List (Nat × Verdict)) (h : s.memWf) :
    (State.reportShed s log).memWf := by
  unfold State.reportShed
  repeat' (first | with_reducible assumption | (with_reducible apply State.notice_memWf) | (with_reducible refine memWf_foldl _ _ _ ?_ (fun s x hS => ?_)) | exact SameAs.refl _ | split)

theorem State.takeOut_memWf (s : State) (c : Nat) (h : s.memWf) :
    (State.takeOut s c).memWf := by
  unfold State.takeOut
  repeat' (first | with_reducible assumption | (with_reducible apply State.motionStop34_memWf) | (with_reducible apply State.shedChain_memWf) | exact SameAs.refl _ | split)

theorem State.placeRegrade_memWf (s : State) (j : Job) (h : s.memWf) :
    (State.placeRegrade s j).memWf := by
  unfold State.placeRegrade
  dsimp only
  repeat' (first | with_reducible assumption | (with_reducible apply State.reportShed_memWf) | (with_reducible apply State.sendHello_memWf) | (with_reducible apply State.setCell_memWf) | (with_reducible apply State.takeOut_memWf) | (with_reducible apply State.withdrawSwap_memWf) | (with_reducible refine memWf_ite ?_ ?_) | (with_reducible refine memWf_foldl _ _ _ ?_ (fun s x hS => ?_)) | exact SameAs.refl _ | split)

theorem State.placedJob_memWf (s : State) (j : Job) (h : s.memWf) :
    (State.placedJob s j).memWf := by
  unfold State.placedJob
  dsimp only
  repeat' (first | with_reducible assumption | (with_reducible apply State.announceJob_memWf) | (with_reducible apply State.endJob_memWf) | (with_reducible apply State.setCell_memWf) | (with_reducible apply State.setQueue_memWf) | (with_reducible apply State.toPending_memWf) | (with_reducible refine memWf_ite ?_ ?_) | exact SameAs.refl _ | split)

theorem State.placeJob_memWf (s : State) (j : Job) (h : s.memWf) :
    (State.placeJob s j).memWf := by
  unfold State.placeJob
  dsimp only
  repeat' (first | with_reducible assumption | (with_reducible apply State.announceJob_memWf) | (with_reducible apply State.endJob_memWf) | (with_reducible apply State.placedJob_memWf) | (with_reducible apply State.reportShed_memWf) | (with_reducible refine memWf_ite ?_ ?_) | exact SameAs.refl _ | split)

theorem State.withdraw_memWf (s : State) (j : Job) (h : s.memWf) :
    (State.withdraw s j).memWf := by
  unfold State.withdraw
  repeat' (first | with_reducible assumption | (with_reducible apply State.endJob_memWf) | exact SameAs.refl _ | split)

theorem State.activateSolver_memWf (s : State) (j : Job) (h : s.memWf) :
    (State.activateSolver s j).memWf := by
  unfold State.activateSolver
  dsimp only
  repeat' (first | with_reducible assumption | (with_reducible apply State.setSolver_memWf) | (with_reducible apply State.stageProblems_memWf) | (with_reducible refine memWf_ite ?_ ?_) | (with_reducible refine memWf_foldOn _ _ _ ?_ (fun s x hS => ?_)) | (with_reducible refine memWf_foldl _ _ _ ?_ (fun s x hS => ?_)) | exact SameAs.refl _ | split)

/-- Writes to the tiles whose windows are canonical. -/
theorem State.setTiles_windows (s : State) (x : TilesSt) (h : s.memWf)
    (hk : ∀ k : Fin 64, mwf (0 : Word) x.kernels[k].window = true) : (s.setTiles x).memWf :=
  memWf_iff.2 ⟨(memWf_iff.1 h).1, (memWf_iff.1 h).2.1, hk⟩

/-- A property of every element survives a change of one that keeps it. -/
theorem vmod_all {α : Type} {n : Nat} {P : α → Prop} (v : Vector α n) (i : Fin n) (f : α → α) (h : ∀ j : Fin n, P v[j])
    (hf : P (f v[i])) (j : Fin n) : P (vmod v i f)[j] := by
  unfold vmod
  by_cases e : i = j
  · subst e
    simpa using hf
  · have e' : i.val ≠ j.val := fun q => e (Fin.ext q)
    simpa [Vector.getElem_set, e'] using h j

theorem foldOn_all {α : Type} {n : Nat} {P : α → Prop} (l : List Nat) (g : Nat → Fin n) (f : Nat → α → α)
    (hf : ∀ k x, P x → P (f k x)) (v : Vector α n) (h : ∀ j : Fin n, P v[j]) (j : Fin n) :
    P (foldOn l v (fun w k => vmod w (g k) (f k)))[j] := by
  induction l generalizing v with
  | nil => exact h j
  | cons a r ih => exact ih _ (vmod_all v (g a) (f a) h (hf a _ (h _)))

theorem KernelImage.initial_mwf (k : KernelImage) : mwf (0 : Word) k.initial = true :=
  foldl_mwf _ _ _ rfl (fun _ _ h => mput_mwf _ _ h)

theorem KernelSt.restart_mwf (o : Option KernelImage) : mwf (0 : Word) ((o.map (·.initial)).getD []) = true := by
  cases o with
  | none => rfl
  | some im => exact im.initial_mwf

theorem KernelSt.moved_mwf (x : KernelSt) (t : Nat) (lost running : Bool) (h : mwf (0 : Word) x.window = true) :
    mwf (0 : Word) (x.moved t lost running).window = true := by
  unfold KernelSt.moved
  repeat' (first | exact h | exact KernelSt.restart_mwf _ | split)

theorem State.activateKernels_memWf (s : State) (j : Job) (h : s.memWf) : (State.activateKernels s j).memWf := by
  unfold State.activateKernels
  refine s.setTiles_windows _ h (fun k => ?_)
  refine foldOn_all (P := fun (x : KernelSt) => mwf (0 : Word) x.window = true) _ _ _ (fun i x hx => ?_) _ (memWf_iff.1 h).2.2 k
  dsimp only
  repeat' (first | with_reducible assumption | exact KernelSt.moved_mwf _ _ _ _ hx | exact KernelSt.restart_mwf _ | exact (rfl : mwf (0 : Word) [] = true) | exact hx | split)

theorem State.activateChains_memWf (s : State) (had : Bool) (j : Job) (h : s.memWf) :
    (State.activateChains s had j).memWf := by
  unfold State.activateChains
  dsimp only
  repeat' (first | with_reducible assumption | (with_reducible apply State.enterBath_memWf) | (with_reducible apply State.setMotion_memWf) | (with_reducible refine memWf_ite ?_ ?_) | (with_reducible refine memWf_foldOn _ _ _ ?_ (fun s x hS => ?_)) | (with_reducible refine memWf_foldl _ _ _ ?_ (fun s x hS => ?_)) | exact SameAs.refl _ | split)

theorem State.putInForce_memWf (s : State) (j : Job) (h : s.memWf) :
    (State.putInForce s j).memWf := by
  unfold State.putInForce
  dsimp only
  repeat' (first | with_reducible assumption | (with_reducible apply State.activateChains_memWf) | (with_reducible apply State.activateEngines_memWf) | (with_reducible apply State.activateKernels_memWf) | (with_reducible apply State.activateLinks_memWf) | (with_reducible apply State.activateNibbles_memWf) | (with_reducible apply State.activateRings_memWf) | (with_reducible apply State.activateSolver_memWf) | (with_reducible apply State.holdRemoved_memWf) | (with_reducible apply State.setCell_memWf) | (with_reducible apply State.takeOut_memWf) | (with_reducible refine memWf_ite ?_ ?_) | (with_reducible refine memWf_foldl _ _ _ ?_ (fun s x hS => ?_)) | exact SameAs.refl _ | split)

theorem State.leavePair_memWf (s : State) (h : s.memWf) :
    (State.leavePair s).memWf := by
  unfold State.leavePair
  dsimp only
  repeat' (first | with_reducible assumption | (with_reducible apply State.pairTo_memWf) | (with_reducible apply State.setTwin_memWf) | (with_reducible refine memWf_ite ?_ ?_) | exact SameAs.refl _ | split)

theorem State.showPlaced_memWf (s : State) (h : s.memWf) :
    (State.showPlaced s).memWf := by
  unfold State.showPlaced
  dsimp only
  repeat' (first | with_reducible assumption | (with_reducible apply State.sendHello_memWf) | (with_reducible refine memWf_ite ?_ ?_) | exact SameAs.refl _ | split)

theorem State.activateRegrade_memWf (s : State) (j : Job) (h : s.memWf) :
    (State.activateRegrade s j).memWf := by
  unfold State.activateRegrade
  dsimp only
  repeat' (first | with_reducible assumption | (with_reducible apply State.leavePair_memWf) | (with_reducible apply State.putInForce_memWf) | (with_reducible apply State.setCell_memWf) | (with_reducible apply State.showPlaced_memWf) | (with_reducible refine memWf_ite ?_ ?_) | exact SameAs.refl _ | split)

/-! ### Operations of Plan -/

theorem State.takeOver_memWf (s : State) (h : s.memWf) :
    (State.takeOver s).memWf := by
  unfold State.takeOver
  dsimp only
  repeat' (first | with_reducible assumption | (with_reducible apply State.passSync_memWf) | (with_reducible apply State.setTwin_memWf) | (with_reducible refine memWf_ite ?_ ?_) | exact SameAs.refl _ | split)

theorem State.enterBracket_memWf (s : State) (h : s.memWf) :
    (State.enterBracket s).memWf := by
  unfold State.enterBracket
  dsimp only
  repeat' (first | with_reducible assumption | (with_reducible apply State.maskChanged_memWf) | (with_reducible apply State.setTwin_memWf) | (with_reducible refine memWf_ite ?_ ?_) | exact SameAs.refl _ | split)

theorem State.applyCmds_memWf (s : State) (m : MotionSt) (c : Fin 16) (h : s.memWf) :
    (State.applyCmds s m c).memWf := by
  unfold State.applyCmds
  dsimp only
  repeat' (first | with_reducible assumption | (with_reducible apply State.applyResume_memWf) | (with_reducible apply State.applyStop_memWf) | (with_reducible apply State.setChain_memWf) | (with_reducible refine memWf_ite ?_ ?_) | exact SameAs.refl _ | split)

theorem State.reachBarrier_memWf (s : State) (c : Fin 16) (r : List Byte) (h : s.memWf) :
    (State.reachBarrier s c r).memWf := by
  unfold State.reachBarrier
  dsimp only
  repeat' (first | with_reducible assumption | (with_reducible apply State.segFault_memWf) | (with_reducible apply State.setChain_memWf) | (with_reducible refine memWf_ite ?_ ?_) | (with_reducible refine memWf_foldOn _ _ _ ?_ (fun s x hS => ?_)) | exact SameAs.refl _ | split)

theorem State.nextSegment_memWf (s : State) (c : Fin 16) (t0 : Word) (h : s.memWf) :
    (State.nextSegment s c t0).memWf := by
  unfold State.nextSegment
  dsimp only
  repeat' (first | with_reducible assumption | (with_reducible apply State.reachBarrier_memWf) | (with_reducible apply State.setChain_memWf) | (with_reducible refine memWf_ite ?_ ?_) | exact SameAs.refl _ | split)

theorem State.segmentDone_memWf (s : State) (c : Fin 16) (held : Option (List Word)) (h : s.memWf) :
    (State.segmentDone s c held).memWf := by
  unfold State.segmentDone
  dsimp only
  repeat' (first | with_reducible assumption | (with_reducible apply State.nextSegment_memWf) | (with_reducible apply State.setChain_memWf) | (with_reducible refine memWf_ite ?_ ?_) | exact SameAs.refl _ | split)

theorem State.replan_memWf (s : State) (c : Fin 16) (r : ChainRec) (h : s.memWf) :
    (State.replan s c r).memWf := by
  unfold State.replan
  dsimp only
  repeat' (first | with_reducible assumption | (with_reducible apply State.setChain_memWf) | (with_reducible refine memWf_ite ?_ ?_) | exact SameAs.refl _ | split)

theorem State.moveFeed_memWf (s : State) (c : Fin 16) (r : ChainRec) (h : s.memWf) :
    (State.moveFeed s c r).memWf := by
  exact h

theorem State.pathFault_memWf (s : State) (c : Fin 16) (n : Nat) (h : s.memWf) :
    (State.pathFault s c n).memWf := by
  unfold State.pathFault
  dsimp only
  repeat' (first | with_reducible assumption | (with_reducible apply State.motionStop34_memWf) | (with_reducible apply State.protect_memWf) | (with_reducible apply State.segFault_memWf) | (with_reducible refine memWf_ite ?_ ?_) | exact SameAs.refl _ | split)

theorem State.runPath_memWf (s : State) (c : Fin 16) (r : List Byte) (h : s.memWf) :
    (State.runPath s c r).memWf := by
  unfold State.runPath
  dsimp only
  repeat' (first | with_reducible assumption | (with_reducible apply State.notice_memWf) | (with_reducible apply State.segFault_memWf) | (with_reducible apply State.segmentDone_memWf) | (with_reducible refine memWf_ite ?_ ?_) | exact SameAs.refl _ | split)

theorem State.runChain_memWf (s : State) (c : Fin 16) (h : ChainRec) (hP : s.memWf) :
    (State.runChain s c h).memWf := by
  unfold State.runChain
  dsimp only
  repeat' (first | with_reducible assumption | (with_reducible apply State.nextFree_memWf) | (with_reducible apply State.nextSegment_memWf) | (with_reducible apply State.pathFault_memWf) | (with_reducible apply State.reachBarrier_memWf) | (with_reducible apply State.replan_memWf) | (with_reducible apply State.runPath_memWf) | (with_reducible apply State.segmentDone_memWf) | (with_reducible apply State.setChain_memWf) | (with_reducible refine memWf_ite ?_ ?_) | exact SameAs.refl _ | split)

theorem State.stageChain_memWf (s : State) (c : Fin 16) (h : ChainRec) (hP : s.memWf) :
    (State.stageChain s c h).memWf := by
  unfold State.stageChain
  dsimp only
  repeat' (first | with_reducible assumption | (with_reducible apply State.moveFeed_memWf) | (with_reducible apply State.nextSegment_memWf) | (with_reducible apply State.runChain_memWf) | (with_reducible apply State.setChain_memWf) | (with_reducible refine memWf_ite ?_ ?_) | exact SameAs.refl _ | split)

theorem State.releaseBarriers_memWf (s : State) (h : s.memWf) :
    (State.releaseBarriers s).memWf := by
  unfold State.releaseBarriers
  dsimp only
  repeat' (first | with_reducible assumption | (with_reducible apply State.segmentDone_memWf) | (with_reducible apply State.setChain_memWf) | (with_reducible refine memWf_ite ?_ ?_) | (with_reducible refine memWf_foldOn _ _ _ ?_ (fun s x hS => ?_)) | exact SameAs.refl _ | split)

theorem State.releaseAll_memWf (s : State) (h : s.memWf) :
    (State.releaseAll s).memWf := by
  unfold State.releaseAll
  repeat' (first | with_reducible assumption | (with_reducible apply State.releaseBarriers_memWf) | (with_reducible refine memWf_foldOn _ _ _ ?_ (fun s x hS => ?_)) | exact SameAs.refl _ | split)

theorem State.setForces_memWf (s : State) (c : Fin 16) (h : s.memWf) :
    (State.setForces s c).memWf := by
  unfold State.setForces
  dsimp only
  repeat' (first | with_reducible assumption | (with_reducible apply State.setSlot_memWf) | (with_reducible refine memWf_ite ?_ ?_) | (with_reducible refine memWf_foldl _ _ _ ?_ (fun s x hS => ?_)) | exact SameAs.refl _ | split)

theorem State.stageOne_memWf (s : State) (c : Fin 16) (h : s.memWf) :
    (State.stageOne s c).memWf := by
  unfold State.stageOne
  repeat' (first | with_reducible assumption | (with_reducible apply State.stageChain_memWf) | (with_reducible refine memWf_ite ?_ ?_) | exact SameAs.refl _ | split)

theorem State.completeCmd_memWf (s : State) (m : MotionCmd) (h : s.memWf) :
    (State.completeCmd s m).memWf := by
  unfold State.completeCmd
  dsimp only
  repeat' (first | with_reducible assumption | (with_reducible apply State.finishTag_memWf) | (with_reducible refine memWf_foldl _ _ _ ?_ (fun s x hS => ?_)) | exact SameAs.refl _ | split)

theorem State.newReferences_memWf (s : State) (h : s.memWf) :
    (State.newReferences s).memWf := by
  exact h

/-! ### Operations of Dispatcher -/

theorem State.dispatch_memWf (s : State) (h : s.memWf) :
    (State.dispatch s).memWf := by
  unfold State.dispatch
  dsimp only
  repeat' (first | with_reducible assumption | (with_reducible apply State.arbitrate_memWf) | (with_reducible apply State.setDisp_memWf) | (with_reducible refine memWf_ite ?_ ?_) | (with_reducible refine memWf_foldOn _ _ _ ?_ (fun s x hS => ?_)) | (with_reducible refine memWf_foldl _ _ _ ?_ (fun s x hS => ?_)) | exact SameAs.refl _ | split)

theorem State.setMemcls_memWf (s : State) (r : Fin 8) (cls : BitVec 2) (h : s.memWf) :
    (State.setMemcls s r cls).memWf := by
  exact h

theorem State.scrubbed_memWf (s : State) (b unit n : Nat) (h : s.memWf) :
    (State.scrubbed s b unit n).memWf := by
  unfold State.scrubbed
  dsimp only
  repeat' (first | with_reducible assumption | (with_reducible apply State.corrected_memWf) | (with_reducible apply State.setTile_memWf) | (with_reducible refine memWf_ite ?_ ?_) | (with_reducible refine memWf_foldOn _ _ _ ?_ (fun s x hS => ?_)) | exact SameAs.refl _ | split)

theorem State.stepDone_memWf (s : State) (i r : Nat) (h : s.memWf) :
    (State.stepDone s i r).memWf := by
  unfold State.stepDone
  dsimp only
  repeat' (first | with_reducible assumption | (with_reducible apply State.setArb_memWf) | (with_reducible refine memWf_ite ?_ ?_) | exact SameAs.refl _ | split)

/-! ### Operations of PageRead -/

theorem State.readSide_memWf (s : State) (pg o : Nat) (h : s.memWf) :
    (State.readSide s pg o).memWf := by
  unfold State.readSide
  dsimp only
  repeat' (first | with_reducible assumption | (with_reducible apply State.canLock_memWf) | (with_reducible apply State.canRelease_memWf) | (with_reducible refine memWf_ite ?_ ?_) | exact SameAs.refl _ | split)

theorem State.readSides_memWf (s : State) (pg o n : Nat) (h : s.memWf) :
    (State.readSides s pg o n).memWf := by
  unfold State.readSides
  repeat' (first | with_reducible assumption | (with_reducible apply State.readSide_memWf) | (with_reducible refine memWf_foldOn _ _ _ ?_ (fun s x hS => ?_)) | exact SameAs.refl _ | split)

/-! ### Operations of PageWrite -/

theorem State.putHost_memWf (s : State) (o : Nat) (w : Word) (h : s.memWf) :
    (State.putHost s o w).memWf := by
  unfold State.putHost
  dsimp only
  repeat' (first | with_reducible assumption | (with_reducible apply State.setHost_memWf) | (with_reducible apply State.setQueue_memWf) | (with_reducible refine memWf_ite ?_ ?_) | exact SameAs.refl _ | split)

theorem State.putTime_memWf (s : State) (o : Nat) (w : Word) (h : s.memWf) :
    (State.putTime s o w).memWf := by
  unfold State.putTime
  dsimp only
  repeat' (first | with_reducible assumption | (with_reducible apply State.setDomain_memWf) | (with_reducible apply State.setSelect_memWf) | (with_reducible apply State.setSource_memWf) | (with_reducible apply State.setTime_memWf) | (with_reducible apply State.syncOutLow_memWf) | (with_reducible refine memWf_ite ?_ ?_) | exact SameAs.refl _ | split)

theorem State.putMotion_memWf (s : State) (o : Nat) (w : Word) (h : s.memWf) :
    (State.putMotion s o w).memWf := by
  unfold State.putMotion
  dsimp only
  repeat' (first | with_reducible assumption | (with_reducible apply State.setMotion_memWf) | (with_reducible refine memWf_ite ?_ ?_) | exact SameAs.refl _ | split)

theorem State.putLoop_memWf (s : State) (k o : Nat) (w : Word) (h : s.memWf) :
    (State.putLoop s k o w).memWf := by
  unfold State.putLoop
  dsimp only
  repeat' (first | with_reducible assumption | (with_reducible apply State.setAxis_memWf) | (with_reducible apply State.setEngine_memWf) | (with_reducible apply State.setLoops_memWf) | (with_reducible refine memWf_ite ?_ ?_) | exact SameAs.refl _ | split)

theorem State.putSlotWord_memWf (s : State) (e k : Nat) (pg o : Nat) (v : Word) (h : s.memWf) :
    (State.putSlotWord s e k pg o v).memWf := by
  unfold State.putSlotWord
  dsimp only
  repeat' (first | with_reducible assumption | (with_reducible apply State.setSlot_memWf) | (with_reducible refine memWf_ite ?_ ?_) | (with_reducible refine memWf_foldl _ _ _ ?_ (fun s x hS => ?_)) | exact SameAs.refl _ | split)

theorem State.putSolver_memWf (s : State) (k o : Nat) (w : Word) (h : s.memWf) :
    (State.putSolver s k o w).memWf := by
  unfold State.putSolver
  dsimp only
  repeat' (first | with_reducible assumption | (with_reducible apply State.setSolve_memWf) | (with_reducible apply State.setSolver_memWf) | (with_reducible refine memWf_ite ?_ ?_) | exact SameAs.refl _ | split)

theorem State.putTiles_memWf (s : State) (k o : Nat) (w : Word) (h : s.memWf) :
    (State.putTiles s k o w).memWf := by
  unfold State.putTiles
  dsimp only
  repeat' (first | with_reducible assumption | (with_reducible apply State.setKernel_memWf) | (with_reducible apply State.setTile_memWf) | (with_reducible apply State.setTiles_memWf) | (with_reducible refine memWf_ite ?_ ?_) | exact SameAs.refl _ | split)

theorem State.putDisp_memWf (s : State) (o : Nat) (w : Word) (h : s.memWf) :
    (State.putDisp s o w).memWf := by
  unfold State.putDisp
  dsimp only
  repeat' (first | with_reducible assumption | (with_reducible apply State.setDisp_memWf) | (with_reducible apply State.setMemcls_memWf) | (with_reducible refine memWf_ite ?_ ?_) | exact SameAs.refl _ | split)

theorem State.putNibbles_memWf (s : State) (o : Nat) (w : Word) (h : s.memWf) :
    (State.putNibbles s o w).memWf := by
  unfold State.putNibbles
  dsimp only
  repeat' (first | with_reducible assumption | (with_reducible apply State.setNibble_memWf) | (with_reducible apply State.setWindow_memWf) | exact SameAs.refl _ | split)

theorem State.putSafety_memWf (s : State) (o : Nat) (w v : Word) (h : s.memWf) :
    (State.putSafety s o w v).memWf := by
  unfold State.putSafety
  dsimp only
  repeat' (first | with_reducible assumption | (with_reducible apply State.requestBrakeTests_memWf) | (with_reducible apply State.setSafety_memWf) | (with_reducible refine memWf_ite ?_ ?_) | exact SameAs.refl _ | split)

theorem State.putSep_memWf (s : State) (o : Nat) (w : Word) (h : s.memWf) :
    (State.putSep s o w).memWf := by
  unfold State.putSep
  dsimp only
  repeat' (first | with_reducible assumption | (with_reducible apply State.setSep_memWf) | (with_reducible refine memWf_ite ?_ ?_) | exact SameAs.refl _ | split)

theorem State.putLink_memWf (s : State) (n k : Nat) (w : Word) (h : s.memWf) :
    (State.putLink s n k w).memWf := by
  unfold State.putLink
  dsimp only
  repeat' (first | with_reducible assumption | (with_reducible apply State.setSep_memWf) | (with_reducible refine memWf_ite ?_ ?_) | exact SameAs.refl _ | split)

theorem State.putCan_memWf (s : State) (n : Fin 4) (o : Nat) (w v : Word) (h : s.memWf) :
    (State.putCan s n o w v).memWf := by
  unfold State.putCan
  dsimp only
  repeat' (first | with_reducible assumption | (with_reducible apply State.setCanCtrl_memWf) | (with_reducible apply State.setCanN_memWf) | (with_reducible refine memWf_ite ?_ ?_) | exact SameAs.refl _ | split)

theorem State.putPower_memWf (s : State) (o : Nat) (w : Word) (h : s.memWf) :
    (State.putPower s o w).memWf := by
  unfold State.putPower
  dsimp only
  repeat' (first | with_reducible assumption | (with_reducible apply State.setSys_memWf) | (with_reducible refine memWf_ite ?_ ?_) | exact SameAs.refl _ | split)

theorem State.putTrace_memWf (s : State) (o : Nat) (w v : Word) (h : s.memWf) :
    (State.putTrace s o w v).memWf := by
  unfold State.putTrace
  dsimp only
  repeat' (first | with_reducible assumption | (with_reducible apply State.armTrace_memWf) | (with_reducible apply State.setEngine_memWf) | (with_reducible refine memWf_ite ?_ ?_) | exact SameAs.refl _ | split)

theorem State.putFault_memWf (s : State) (w : Word) (h : s.memWf) :
    (State.putFault s w).memWf := by
  exact h

theorem State.putWord_memWf (s : State) (pg o : Nat) (v : Word) (h : s.memWf) :
    (State.putWord s pg o v).memWf := by
  unfold State.putWord
  dsimp only
  repeat' (first | with_reducible assumption | (with_reducible apply State.canBuf_memWf) | (with_reducible apply State.putCan_memWf) | (with_reducible apply State.putDisp_memWf) | (with_reducible apply State.putFault_memWf) | (with_reducible apply State.putHost_memWf) | (with_reducible apply State.putLink_memWf) | (with_reducible apply State.putLoop_memWf) | (with_reducible apply State.putMotion_memWf) | (with_reducible apply State.putNibbles_memWf) | (with_reducible apply State.putPower_memWf) | (with_reducible apply State.putSafety_memWf) | (with_reducible apply State.putSep_memWf) | (with_reducible apply State.putSlotWord_memWf) | (with_reducible apply State.putSolver_memWf) | (with_reducible apply State.putTiles_memWf) | (with_reducible apply State.putTime_memWf) | (with_reducible apply State.putTrace_memWf) | (with_reducible apply State.setRgCtrl_memWf) | (with_reducible apply State.setRing_memWf) | (with_reducible apply State.setSys_memWf) | (with_reducible apply State.setTwin_memWf) | (with_reducible refine memWf_ite ?_ ?_) | exact SameAs.refl _ | split)

theorem State.putWords_memWf (s : State) (pg : Nat) (ws : List (Nat × Word)) (h : s.memWf) :
    (State.putWords s pg ws).memWf := by
  unfold State.putWords
  repeat' (first | with_reducible assumption | (with_reducible apply State.putWord_memWf) | (with_reducible refine memWf_foldl _ _ _ ?_ (fun s x hS => ?_)) | exact SameAs.refl _ | split)

theorem State.commitBcfg_memWf (s : State) (words : List Word) (slot : Nat) (h : s.memWf) :
    (State.commitBcfg s words slot).memWf := by
  exact h

theorem State.storeBcfg_memWf (s : State) (h : s.memWf) :
    (State.storeBcfg s).memWf := by
  unfold State.storeBcfg
  dsimp only
  repeat' (first | with_reducible assumption | (with_reducible apply State.commitBcfg_memWf) | (with_reducible apply State.setSys_memWf) | (with_reducible refine memWf_ite ?_ ?_) | exact SameAs.refl _ | split)

theorem State.latchEnabled_memWf (s : State) (old : Vector QueueSt 16) (h : s.memWf) :
    (State.latchEnabled s old).memWf := by
  unfold State.latchEnabled
  dsimp only
  repeat' (first | with_reducible assumption | (with_reducible apply State.setQueue_memWf) | (with_reducible refine memWf_ite ?_ ?_) | (with_reducible refine memWf_foldOn _ _ _ ?_ (fun s x hS => ?_)) | exact SameAs.refl _ | split)

theorem State.writeWords_memWf (s : State) (pg : Nat) (ws : List (Nat × Word)) (h : s.memWf) :
    (State.writeWords s pg ws).memWf := by
  unfold State.writeWords
  dsimp only
  repeat' (first | with_reducible assumption | (with_reducible apply State.latchDue_memWf) | (with_reducible apply State.latchEnabled_memWf) | (with_reducible apply State.putWords_memWf) | (with_reducible apply State.storeBcfg_memWf) | (with_reducible refine memWf_ite ?_ ?_) | exact SameAs.refl _ | split)

theorem State.writeResets_memWf (s : State) (pg : Nat) (ws : List (Nat × Word)) (by_ : Option (Nat × Nat)) (h : s.memWf) :
    (State.writeResets s pg ws by_).memWf := by
  unfold State.writeResets
  dsimp only
  repeat' (first | with_reducible assumption | (with_reducible apply State.finishTag_memWf) | (with_reducible apply State.setQueue_memWf) | (with_reducible apply State.startReset_memWf) | (with_reducible refine memWf_ite ?_ ?_) | (with_reducible refine memWf_foldl _ _ _ ?_ (fun s x hS => ?_)) | exact SameAs.refl _ | split)

/-! ### Operations of SafetyCycle -/

theorem State.commitSafety_memWf (s : State) (q tag : Nat) (w0 : Word) (h : s.memWf) :
    (State.commitSafety s q tag w0).memWf := by
  unfold State.commitSafety
  dsimp only
  repeat' (first | with_reducible assumption | (with_reducible apply State.finishTag_memWf) | (with_reducible apply State.setSys_memWf) | exact SameAs.refl _ | split)

theorem State.configChanged_memWf (s : State) (q tag : Nat) (w0 : Word) (h : s.memWf) :
    (State.configChanged s q tag w0).memWf := by
  unfold State.configChanged
  dsimp only
  repeat' (first | with_reducible assumption | (with_reducible apply State.commitSafety_memWf) | (with_reducible apply State.enterBath_memWf) | (with_reducible apply State.setSafety_memWf) | (with_reducible apply State.setSys_memWf) | (with_reducible refine memWf_ite ?_ ?_) | exact SameAs.refl _ | split)

theorem State.toGate_memWf (s : State) (p : Pkt) (h : s.memWf) :
    (State.toGate s p).memWf := by
  unfold State.toGate
  repeat' (first | with_reducible assumption | (with_reducible apply State.setQueue_memWf) | (with_reducible apply State.toPending_memWf) | (with_reducible refine memWf_ite ?_ ?_) | exact SameAs.refl _ | split)

theorem State.putSafe_memWf (s : State) (r : SafeRec) (h : s.memWf) :
    (State.putSafe s r).memWf := by
  unfold State.putSafe
  dsimp only
  repeat' (first | with_reducible assumption | (with_reducible apply State.setIndex_memWf) | (with_reducible apply State.setSafety_memWf) | (with_reducible apply State.setSep_memWf) | (with_reducible refine memWf_ite ?_ ?_) | exact SameAs.refl _ | split)

theorem State.applySafe_memWf (s : State) (p : Pkt) (h : s.memWf) :
    (State.applySafe s p).memWf := by
  unfold State.applySafe
  dsimp only
  repeat' (first | with_reducible assumption | (with_reducible apply State.configChanged_memWf) | (with_reducible apply State.putSafe_memWf) | (with_reducible apply State.setSafety_memWf) | (with_reducible refine memWf_ite ?_ ?_) | (with_reducible refine memWf_foldl _ _ _ ?_ (fun s x hS => ?_)) | exact SameAs.refl _ | split)

theorem State.applySafes_memWf (s : State) (h : s.memWf) :
    (State.applySafes s).memWf := by
  unfold State.applySafes
  dsimp only
  repeat' (first | with_reducible assumption | (with_reducible apply State.applySafe_memWf) | (with_reducible refine memWf_foldl _ _ _ ?_ (fun s x hS => ?_)) | exact SameAs.refl _ | split)

theorem State.heartbeats_memWf (s : State) (hb1 hb2 digestsEqual : Bool) (h : s.memWf) :
    (State.heartbeats s hb1 hb2 digestsEqual).memWf := by
  unfold State.heartbeats
  dsimp only
  repeat' (first | with_reducible assumption | (with_reducible apply State.dropBrakes_memWf) | (with_reducible apply State.enterBath_memWf) | (with_reducible apply State.setSafety_memWf) | (with_reducible refine memWf_ite ?_ ?_) | exact SameAs.refl _ | split)

theorem State.adoptDemands_memWf (s : State) (p : Option PeerSafety) (h : s.memWf) :
    (State.adoptDemands s p).memWf := by
  unfold State.adoptDemands
  dsimp only
  repeat' (first | with_reducible assumption | (with_reducible apply State.stopIndex_memWf) | (with_reducible refine memWf_ite ?_ ?_) | (with_reducible refine memWf_foldOn _ _ _ ?_ (fun s x hS => ?_)) | exact SameAs.refl _ | split)

theorem State.judgePaired_memWf (s : State) (h : s.memWf) :
    (State.judgePaired s).memWf := by
  unfold State.judgePaired
  dsimp only
  repeat' (first | with_reducible assumption | (with_reducible apply State.judgeReset_memWf) | (with_reducible apply State.refuseReset_memWf) | (with_reducible apply State.sendBenjo_memWf) | (with_reducible apply State.setSafety_memWf) | (with_reducible apply State.setTwin_memWf) | (with_reducible refine memWf_ite ?_ ?_) | (with_reducible refine memWf_foldl _ _ _ ?_ (fun s x hS => ?_)) | exact SameAs.refl _ | split)

theorem State.sepBoundary_memWf (s : State) (hb1 hb2 : Bool) (h : s.memWf) :
    (State.sepBoundary s hb1 hb2).memWf := by
  unfold State.sepBoundary
  repeat' (first | with_reducible assumption | (with_reducible apply State.sepDecide_memWf) | (with_reducible apply State.writeCaps_memWf) | (with_reducible refine memWf_ite ?_ ?_) | (with_reducible refine memWf_foldOn _ _ _ ?_ (fun s x hS => ?_)) | exact SameAs.refl _ | split)

/-! ### Operations of Sys -/

theorem State.reset_memWf : State.reset.memWf = true := by decide

theorem State.holdReset_memWf (s : State) (cause : Nat) (fast : Bool) : (s.holdReset cause fast).memWf := by
  have h := memWf_iff.1 State.reset_memWf
  exact memWf_iff.2 ⟨h.1, h.2.1, h.2.2⟩

theorem State.channelStarts_memWf (s : State) (ch : Fin 2) (h : s.memWf) :
    (State.channelStarts s ch).memWf := by
  unfold State.channelStarts
  dsimp only
  repeat' (first | with_reducible assumption | (with_reducible apply State.setSafety_memWf) | exact SameAs.refl _ | split)

theorem State.commitWrite_memWf (s : State) (w : FlashWrite) (h : s.memWf) :
    (State.commitWrite s w).memWf := by
  unfold State.commitWrite
  dsimp only
  repeat' (first | with_reducible assumption | (with_reducible apply State.commitBcfg_memWf) | (with_reducible apply State.commitSafety_memWf) | (with_reducible apply State.finishTag_memWf) | (with_reducible apply State.setSys_memWf) | (with_reducible refine memWf_ite ?_ ?_) | (with_reducible refine memWf_foldl _ _ _ ?_ (fun s x hS => ?_)) | exact SameAs.refl _ | split)

theorem State.flashWrite_memWf (s : State) (w : FlashWrite) (h : s.memWf) :
    (State.flashWrite s w).memWf := by
  unfold State.flashWrite
  dsimp only
  repeat' (first | with_reducible assumption | (with_reducible apply State.commitWrite_memWf) | (with_reducible apply State.setSys_memWf) | (with_reducible refine memWf_ite ?_ ?_) | exact SameAs.refl _ | split)

/-! ### Operations of Presence -/

theorem State.accept_memWf (s : State) (p : Pkt) (h : s.memWf) :
    (State.accept s p).memWf := by
  unfold State.accept
  dsimp only
  repeat' (first | with_reducible assumption | (with_reducible apply State.announceJob_memWf) | (with_reducible apply State.flashWrite_memWf) | (with_reducible apply State.setCell_memWf) | (with_reducible apply State.setQueue_memWf) | (with_reducible apply State.setTwin_memWf) | (with_reducible refine memWf_ite ?_ ?_) | exact SameAs.refl _ | split)

/-! ### Operations of Twin -/

theorem State.giveHeads_memWf (s : State) (h : s.memWf) :
    (State.giveHeads s).memWf := by
  exact h

theorem State.formPair_memWf (s : State) (active : Bool) (h : s.memWf) :
    (State.formPair s active).memWf := by
  unfold State.formPair
  dsimp only
  repeat' (first | with_reducible assumption | (with_reducible apply State.giveHeads_memWf) | (with_reducible apply State.pairTo_memWf) | (with_reducible apply State.setCell_memWf) | (with_reducible apply State.setTwin_memWf) | (with_reducible refine memWf_ite ?_ ?_) | exact SameAs.refl _ | split)

theorem State.takeHello_memWf (s : State) (b : List Byte) (h : s.memWf) :
    (State.takeHello s b).memWf := by
  unfold State.takeHello
  dsimp only
  repeat' (first | with_reducible assumption | (with_reducible apply State.confirmAll_memWf) | (with_reducible apply State.diverge_memWf) | (with_reducible apply State.formPair_memWf) | (with_reducible apply State.pairTo_memWf) | (with_reducible apply State.setTwin_memWf) | (with_reducible apply State.takeHeads_memWf) | (with_reducible refine memWf_ite ?_ ?_) | exact SameAs.refl _ | split)

theorem State.takeResults_memWf (s : State) (r : Fin 4) (bs : List Byte) (h : s.memWf) :
    (State.takeResults s r bs).memWf := by
  unfold State.takeResults
  dsimp only
  repeat' (first | with_reducible assumption | (with_reducible apply State.closeCycle_memWf) | (with_reducible apply State.closePrev_memWf) | (with_reducible apply State.putHop_memWf) | (with_reducible refine memWf_ite ?_ ?_) | (with_reducible refine memWf_foldl _ _ _ ?_ (fun s x hS => ?_)) | exact SameAs.refl _ | split)

theorem State.takeSlot_memWf (s : State) (r : Fin 4) (seq : Word) (b : List Byte) (h : s.memWf) :
    (State.takeSlot s r seq b).memWf := by
  unfold State.takeSlot
  dsimp only
  repeat' (first | with_reducible assumption | (with_reducible apply State.setSlot_memWf) | (with_reducible apply State.setTwin_memWf) | (with_reducible refine memWf_ite ?_ ?_) | exact SameAs.refl _ | split)

theorem State.takePeerDelivery_memWf (s : State) (seq : Word) (bs : List Byte) (h : s.memWf) :
    (State.takePeerDelivery s seq bs).memWf := by
  unfold State.takePeerDelivery
  repeat' (first | with_reducible assumption | (with_reducible apply State.takeDelivery_memWf) | exact SameAs.refl _ | split)

theorem State.takeSummary_memWf (s : State) (b : List Byte) (h : s.memWf) :
    (State.takeSummary s b).memWf := by
  unfold State.takeSummary
  dsimp only
  repeat' (first | with_reducible assumption | (with_reducible apply State.sendDigest_memWf) | (with_reducible apply State.setTwin_memWf) | (with_reducible apply State.takePeerDelivery_memWf) | (with_reducible apply State.takeResults_memWf) | (with_reducible apply State.takeSlot_memWf) | (with_reducible refine memWf_ite ?_ ?_) | (with_reducible refine memWf_foldl _ _ _ ?_ (fun s x hS => ?_)) | exact SameAs.refl _ | split)

theorem State.takeDigest_memWf (s : State) (b : List Byte) (h : s.memWf) :
    (State.takeDigest s b).memWf := by
  unfold State.takeDigest
  dsimp only
  repeat' (first | with_reducible assumption | (with_reducible apply State.diverge_memWf) | (with_reducible apply State.setTwin_memWf) | (with_reducible refine memWf_ite ?_ ?_) | exact SameAs.refl _ | split)

theorem State.takeSolve_memWf (s : State) (b : List Byte) (h : s.memWf) :
    (State.takeSolve s b).memWf := by
  unfold State.takeSolve
  dsimp only
  repeat' (first | with_reducible assumption | (with_reducible apply State.diverge_memWf) | (with_reducible apply State.setTwin_memWf) | (with_reducible apply State.takeBack_memWf) | (with_reducible refine memWf_ite ?_ ?_) | exact SameAs.refl _ | split)

theorem State.takeSafety_memWf (s : State) (b : List Byte) (h : s.memWf) :
    (State.takeSafety s b).memWf := by
  exact h

theorem State.takeCan_memWf (s : State) (b : List Byte) (h : s.memWf) :
    (State.takeCan s b).memWf := by
  unfold State.takeCan
  dsimp only
  repeat' (first | with_reducible assumption | (with_reducible apply State.canBuf_memWf) | (with_reducible apply State.canConfine_memWf) | (with_reducible apply State.endTx_memWf) | (with_reducible apply State.setCanN_memWf) | (with_reducible refine memWf_ite ?_ ?_) | exact SameAs.refl _ | split)

theorem State.dropPartner_memWf (s : State) (q : Fin 16) (p : Pkt) (h : s.memWf) :
    (State.dropPartner s q p).memWf := by
  unfold State.dropPartner
  repeat' (first | with_reducible assumption | (with_reducible apply State.dropJob_memWf) | (with_reducible apply State.dropTag_memWf) | (with_reducible refine memWf_ite ?_ ?_) | exact SameAs.refl _ | split)

theorem State.takeCommand_memWf (s : State) (b : List Byte) (h : s.memWf) :
    (State.takeCommand s b).memWf := by
  unfold State.takeCommand
  dsimp only
  repeat' (first | with_reducible assumption | (with_reducible apply State.accept_memWf) | (with_reducible apply State.dropDelivered_memWf) | (with_reducible apply State.dropPartner_memWf) | (with_reducible apply State.sendBenjo_memWf) | (with_reducible apply State.setQueue_memWf) | (with_reducible apply State.takeCan_memWf) | (with_reducible refine memWf_ite ?_ ?_) | exact SameAs.refl _ | split)

theorem State.laneError_memWf (s : State) (lane : Fin 2) (h : s.memWf) :
    (State.laneError s lane).memWf := by
  exact h

theorem State.laneUp_memWf (s : State) (lane : Fin 2) (h : s.memWf) :
    (State.laneUp s lane).memWf := by
  unfold State.laneUp
  dsimp only
  repeat' (first | with_reducible assumption | (with_reducible apply State.sendHello_memWf) | (with_reducible apply State.setTwin_memWf) | (with_reducible refine memWf_ite ?_ ?_) | exact SameAs.refl _ | split)

theorem State.takeBenjo_memWf (s : State) (type : Nat) (b : List Byte) (h : s.memWf) :
    (State.takeBenjo s type b).memWf := by
  unfold State.takeBenjo
  dsimp only
  repeat' (first | with_reducible assumption | (with_reducible apply State.correctPhase_memWf) | (with_reducible apply State.setTwin_memWf) | (with_reducible apply State.takeCommand_memWf) | (with_reducible apply State.takeDigest_memWf) | (with_reducible apply State.takeHello_memWf) | (with_reducible apply State.takeSafety_memWf) | (with_reducible apply State.takeSolve_memWf) | (with_reducible apply State.takeSummary_memWf) | (with_reducible refine memWf_ite ?_ ?_) | exact SameAs.refl _ | split)

theorem State.dropCell_memWf (s : State) (h : s.memWf) :
    (State.dropCell s).memWf := by
  unfold State.dropCell
  exact memWf_foldOn _ _ _ (memWf_iff.2 ⟨rfl, rfl, (memWf_iff.1 h).2.2⟩) (fun s x hS => State.ringDown_memWf _ _ _ _ hS)

theorem State.survive_memWf (s : State) (h : s.memWf) :
    (State.survive s).memWf := by
  unfold State.survive
  dsimp only
  repeat' (first | with_reducible assumption | (with_reducible apply State.dropPartner_memWf) | (with_reducible apply State.dropTag_memWf) | (with_reducible apply State.pairTo_memWf) | (with_reducible apply State.setTwin_memWf) | (with_reducible apply State.settleCancels_memWf) | (with_reducible refine memWf_ite ?_ ?_) | (with_reducible refine memWf_foldl _ _ _ ?_ (fun s x hS => ?_)) | exact SameAs.refl _ | split)

theorem State.ownResult_memWf (s : State) (own : Option Bool) (h : s.memWf) :
    (State.ownResult s own).memWf := by
  unfold State.ownResult
  dsimp only
  repeat' (first | with_reducible assumption | (with_reducible apply State.sendBenjo_memWf) | (with_reducible apply State.setTwin_memWf) | (with_reducible refine memWf_ite ?_ ?_) | exact SameAs.refl _ | split)

theorem State.announceSwap_memWf (s : State) (tick : Nat) (h : s.memWf) :
    (State.announceSwap s tick).memWf := by
  exact h

theorem State.adopt_memWf (s t : State) (h : t.memWf) : (s.adopt t).memWf := by
  have h := memWf_iff.1 h
  unfold State.adopt
  exact State.driveAll_memWf _ (memWf_iff.2 ⟨h.1, h.2.1, h.2.2⟩)

/-! ### Operations of Cycle -/

theorem State.byItself_memWf (s : State) (h : s.memWf) :
    (State.byItself s).memWf := by
  unfold State.byItself
  repeat' (first | with_reducible assumption | (with_reducible apply State.dispatch_memWf) | (with_reducible apply State.ptpSends_memWf) | (with_reducible apply State.ringTick_memWf) | (with_reducible apply State.sendIdle_memWf) | (with_reducible apply State.sendState_memWf) | (with_reducible apply State.sendTime_memWf) | (with_reducible refine memWf_foldOn _ _ _ ?_ (fun s x hS => ?_)) | exact SameAs.refl _ | split)

theorem State.cycle_memWf (s : State) (h : s.memWf) :
    (State.cycle s).memWf := by
  unfold State.cycle
  repeat' (first | with_reducible assumption | (with_reducible apply State.byItself_memWf) | (with_reducible apply State.tick_memWf) | exact SameAs.refl _ | split)

end Sys2Proof.Machine
end

