-- ==== Sys2Proof/Laws/Front.lean ====
section
/-! SUPPORT. The front image of the nibble plane, which only swaps, activations and resets change (R293). One lemma per
operation that leaves it. -/

namespace Sys2Proof.Machine

set_option linter.unreachableTactic false
set_option linter.unusedTactic false
set_option linter.unusedSimpArgs false

/-- The front image (R293). -/
def State.front (s : State) : List (Nat × Nib) := s.nibble.front

/-- A fold keeps what each of its steps keeps. -/
theorem foldl_front {α : Type} (l : List α) (g : State → α → State) (s : State)
    (h : ∀ s x, (g s x).front = s.front) : (l.foldl g s).front = s.front := by
  induction l generalizing s with
  | nil => rfl
  | cons a r ih => rw [List.foldl_cons, ih, h]

/-- The same of a fold over numbers. -/
theorem foldOn_front (l : List Nat) (s : State) (g : State → Nat → State)
    (h : ∀ s x, (g s x).front = s.front) : (foldOn l s g).front = s.front := foldl_front l g s h

/-- A choice keeps what both sides keep. -/
theorem ite_front (c : Prop) [Decidable c] (s t : State) : (if c then s else t).front = if c then s.front else t.front := by
  split <;> rfl

/-- The same with each side compared to a third state. -/
theorem front_ite {c : Prop} [Decidable c] {s t u : State} (hs : s.front = u.front) (ht : t.front = u.front) :
    (if c then s else t).front = u.front := by
  split <;> assumption

/-! ### Operations of Ops -/

theorem State.setPending_front (s : State) (x : List Instr) :
    (State.setPending s x).front = s.front := by
  rfl

theorem State.setNow_front (s : State) (x : Nat) :
    (State.setNow s x).front = s.front := by
  rfl

theorem State.setFree_front (s : State) (x : Nat) :
    (State.setFree s x).front = s.front := by
  rfl

theorem State.setOut_front (s : State) (x : List Out) :
    (State.setOut s x).front = s.front := by
  rfl

theorem State.setHost_front (s : State) (x : HostSt) :
    (State.setHost s x).front = s.front := by
  rfl

theorem State.setCell_front (s : State) (x : CellSt) :
    (State.setCell s x).front = s.front := by
  rfl

theorem State.setTime_front (s : State) (x : TimeSt) :
    (State.setTime s x).front = s.front := by
  rfl

theorem State.setRings_front (s : State) (x : Vector RingSt 4) :
    (State.setRings s x).front = s.front := by
  rfl

theorem State.setRgCtrl_front (s : State) (x : Word) :
    (State.setRgCtrl s x).front = s.front := by
  rfl

theorem State.setMotion_front (s : State) (x : MotionSt) :
    (State.setMotion s x).front = s.front := by
  rfl

theorem State.setLoops_front (s : State) (x : LoopSt) :
    (State.setLoops s x).front = s.front := by
  rfl

theorem State.setSolver_front (s : State) (x : SolverSt) :
    (State.setSolver s x).front = s.front := by
  rfl

theorem State.setTiles_front (s : State) (x : TilesSt) :
    (State.setTiles s x).front = s.front := by
  rfl

theorem State.setDisp_front (s : State) (x : DispSt) :
    (State.setDisp s x).front = s.front := by
  rfl

theorem State.setNibble_front (s : State) (x : NibbleSt) (h : x.front = s.nibble.front) :
    (s.setNibble x).front = s.front := by
  exact h

theorem State.setSafety_front (s : State) (x : SafetySt) :
    (State.setSafety s x).front = s.front := by
  rfl

theorem State.setSep_front (s : State) (x : SepSt) :
    (State.setSep s x).front = s.front := by
  rfl

theorem State.setTwin_front (s : State) (x : TwinSt) :
    (State.setTwin s x).front = s.front := by
  rfl

theorem State.setCan_front (s : State) (x : Vector CanSt 4) :
    (State.setCan s x).front = s.front := by
  rfl

theorem State.setSys_front (s : State) (x : SysSt) :
    (State.setSys s x).front = s.front := by
  rfl

theorem State.setQueue_front (s : State) (q : Fin 16) (x : QueueSt) :
    (State.setQueue s q x).front = s.front := by
  rfl

theorem State.setChain_front (s : State) (c : Fin 16) (x : ChainSt) :
    (State.setChain s c x).front = s.front := by
  rfl

theorem State.setIndex_front (s : State) (c : Fin 16) (x : IndexSt) :
    (State.setIndex s c x).front = s.front := by
  rfl

theorem State.setRing_front (s : State) (r : Fin 4) (x : RingSt) :
    (State.setRing s r x).front = s.front := by
  rfl

theorem State.setCanN_front (s : State) (n : Fin 4) (x : CanSt) :
    (State.setCanN s n x).front = s.front := by
  rfl

theorem State.setAxis_front (s : State) (a : Fin 160) (x : AxisSt) :
    (State.setAxis s a x).front = s.front := by
  rfl

theorem State.setTile_front (s : State) (t : Fin 16) (x : TileSt) :
    (State.setTile s t x).front = s.front := by
  rfl

theorem State.setKernel_front (s : State) (k : Fin 64) (x : KernelSt) :
    (State.setKernel s k x).front = s.front := by
  rfl

theorem State.setSolve_front (s : State) (p : Fin 4) (x : SolveSt) :
    (State.setSolve s p x).front = s.front := by
  rfl

theorem State.setProb_front (s : State) (p : Fin 4) (x : ProbSt) :
    (State.setProb s p x).front = s.front := by
  rfl

theorem State.setSub_front (s : State) (k : Fin 16) (x : SubSt) :
    (State.setSub s k x).front = s.front := by
  rfl

theorem State.setEngine_front (s : State) (e : Fin 16) (x : EngineSt) :
    (State.setEngine s e x).front = s.front := by
  rfl

theorem State.setSlot_front (s : State) (e : Fin 16) (k : Fin 32) (x : LoopSlot) :
    (State.setSlot s e k x).front = s.front := by
  rfl

theorem State.emit_front (s : State) (o : Out) :
    (State.emit s o).front = s.front := by
  rfl

theorem State.nextFree_front (s : State) :
    (State.nextFree s).front = s.front := by
  rfl

theorem State.notice_front (s : State) (k : NoticeKind) (a b : Nat) :
    (State.notice s k a b).front = s.front := by
  rfl

theorem State.logRec_front (s : State) (kind a b c : Nat) :
    (State.logRec s kind a b c).front = s.front := by
  rfl

theorem State.sendBenjo_front (s : State) (type : Nat) (payload : List Byte) :
    (State.sendBenjo s type payload).front = s.front := by
  rfl

theorem State.reply_front (s : State) (p : Pkt) (v : Verdict) (payload : List Byte) (lost : Bool) (waiters : List (Nat × Nat × Word)) :
    (State.reply s p v payload lost waiters).front = s.front := by
  unfold State.reply
  simp only [↓State.logRec_front, ↓State.sendBenjo_front, ↓State.setDisp_front, ↓State.setQueue_front, ↓ite_front, ite_self]

theorem State.dropTag_front (s : State) (q : Fin 16) (tag : Nat) :
    (State.dropTag s q tag).front = s.front := by
  rfl

theorem State.finishN_front (fuel : Nat) (s : State) (p : Pkt) (v : Verdict) (payload : List Byte) (lost : Bool) (waiters : List (Nat × Nat × Word)) :
    (State.finishN fuel s p v payload lost waiters).front = s.front := by
  induction fuel generalizing s p v payload lost waiters with
  | zero => simp only [State.finishN, ↓State.reply_front, ↓State.dropTag_front]
  | succ n ih =>
    have hc : ((if p.origin = .partner then waiters.foldl (fun s w => match s.host.queues[f16 w.1].find w.2.1 with
        | some o => s.finishN n o ⟨stOk, w.2.2, 0⟩ [] false []
        | none => s) ((s.dropTag (f16 p.queue) p.tag).reply p v payload lost waiters)
        else (s.dropTag (f16 p.queue) p.tag).reply p v payload lost waiters)).front = s.front := by
      refine front_ite ?_ ?_
      · refine (foldl_front _ _ _ fun s w => ?_).trans ?_
        · split <;> simp only [ih]
        · simp only [↓State.reply_front, ↓State.dropTag_front]
      · simp only [↓State.reply_front, ↓State.dropTag_front]
    unfold State.finishN
    refine front_ite ?_ hc
    refine (foldl_front _ _ _ fun s w => ?_).trans ?_
    · refine front_ite rfl ?_
      split <;> simp only [ih]
    · exact hc

theorem State.finish_front (s : State) (p : Pkt) (v : Verdict) (payload : List Byte) :
    (State.finish s p v payload).front = s.front := by
  unfold State.finish
  simp only [↓State.finishN_front]

theorem State.finishOk_front (s : State) (p : Pkt) (w0 w1 : Word) (payload : List Byte) :
    (State.finishOk s p w0 w1 payload).front = s.front := by
  unfold State.finishOk
  simp only [↓State.finish_front]

theorem State.interim_front (s : State) (p : Pkt) (code : Nat) :
    (State.interim s p code).front = s.front := by
  unfold State.interim
  simp only [↓State.setQueue_front, ↓ite_front, ite_self]

theorem State.finishTag_front (s : State) (q tag : Nat) (v : Verdict) (payload : List Byte) :
    (State.finishTag s q tag v payload).front = s.front := by
  unfold State.finishTag
  try simp only [↓State.finish_front]
  repeat' (first | with_reducible rfl | (simp only [↓State.finish_front]; done) | (with_reducible refine front_ite ?_ ?_) | (simp only [↓State.finish_front]) | split)

theorem State.entryRun_front (s : State) (f : DelayEntry → Bool) :
    (State.entryRun s f).front = s.front := by
  rfl

theorem State.onExpiry_front (s : State) (f : DelayEntry → Bool) (g : State → State) (hg : ∀ t, (g t).front = t.front) :
    (s.onExpiry f g).front = s.front := by
  unfold State.onExpiry
  split
  · rw [hg, State.entryRun_front]
  · rfl

theorem State.passOn_front (s : State) (q : Fin 16) (p : Pkt) (t : State) :
    (s.passOn q p t).front = t.front := by
  unfold State.passOn
  simp only [↓ite_front, State.setTime_front, State.sendBenjo_front, State.setQueue_front, ite_self]

theorem State.begun_front (s : State) (q : Fin 16) (p : Pkt) :
    (State.begun s q p).front = s.front := by
  unfold State.begun
  simp only [↓State.setQueue_front, ↓State.setTime_front, ↓ite_front, ite_self]

theorem State.startPkt_front (s : State) (q : Fin 16) (tag : Fin 1024) (op : Nat) (f : Pkt → State → State)
    (hf : ∀ p t, (f p t).front = t.front) : (s.startPkt q tag op f).front = s.front := by
  unfold State.startPkt
  split
  · rfl
  · simp only [↓ite_front, ↓State.finish_front, ↓State.passOn_front, hf, State.begun_front, ite_self]

theorem State.latchUnit_front (s : State) (b : Nat) (gone : Bool) :
    (State.latchUnit s b gone).front = s.front := by
  unfold State.latchUnit
  simp only [↓State.setSys_front, ↓ite_front, ite_self]

/-! ### Operations of Operands -/

theorem State.sendMgmt_front (s : State) (ring : Fin 4) (code hop : Nat) :
    (State.sendMgmt s ring code hop).front = s.front := by
  rfl

theorem State.dropPart_front (s : State) (st : Stream) :
    (State.dropPart s st).front = s.front := by
  rfl

theorem State.fragment_front (s : State) (st : Stream) (p : Pkt) (busyLast : Bool) (whole : List Byte → State → State)
    (hw : ∀ bs t, (whole bs t).front = t.front) : (s.fragment st p busyLast whole).front = s.front := by
  unfold State.fragment
  split <;> simp only [↓State.dropPart_front, ↓State.finish_front, ↓State.finishOk_front, ↓State.setCell_front, hw]

/-! ### Operations of Arbiter -/

theorem State.setArb_front (s : State) (i : Nat) (a : ArbSt) :
    (State.setArb s i a).front = s.front := by
  rfl

theorem State.askUnit_front (s : State) (i r : Nat) :
    (State.askUnit s i r).front = s.front := by
  unfold State.askUnit
  simp only [↓State.setArb_front, ↓ite_front, ite_self]

theorem State.leaveUnit_front (s : State) (i r : Nat) :
    (State.leaveUnit s i r).front = s.front := by
  rfl

theorem State.arbitrate_front (s : State) (i : Nat) :
    (State.arbitrate s i).front = s.front := by
  unfold State.arbitrate
  simp only [↓State.askUnit_front, ↓State.leaveUnit_front, ↓State.setArb_front, ↓foldl_front, ↓ite_front, ite_self, implies_true]

/-! ### Operations of Pair -/

theorem State.sendHello_front (s : State) (digest : Word) (act : Bool) :
    (State.sendHello s digest act).front = s.front := by
  rfl

theorem State.sendIdle_front (s : State) :
    (State.sendIdle s).front = s.front := by
  unfold State.sendIdle
  simp only [↓State.sendBenjo_front, ↓ite_front, ite_self]

theorem State.sendTime_front (s : State) :
    (State.sendTime s).front = s.front := by
  unfold State.sendTime
  simp only [↓State.sendBenjo_front, ↓ite_front, ite_self]

theorem State.sendOnce_front (s : State) (type : Nat) (payload : List Byte) :
    (State.sendOnce s type payload).front = s.front := by
  rfl

theorem State.sendState_front (s : State) :
    (State.sendState s).front = s.front := by
  unfold State.sendState
  simp only [↓State.nextFree_front, ↓State.sendOnce_front, ↓ite_front, ite_self]

theorem State.withdrawSwap_front (s : State) :
    (State.withdrawSwap s).front = s.front := by
  unfold State.withdrawSwap
  try simp only [↓State.sendBenjo_front, ↓State.setTwin_front, ↓ite_front, ite_self]
  repeat' (first | with_reducible rfl | (simp only [↓State.sendBenjo_front, ↓State.setTwin_front, ↓ite_front, ite_self]; done) | (with_reducible refine front_ite ?_ ?_) | (simp only [↓State.sendBenjo_front, ↓State.setTwin_front, ↓ite_front, ite_self]) | split)

theorem State.confirmAll_front (s : State) :
    (State.confirmAll s).front = s.front := by
  unfold State.confirmAll
  simp only [↓State.setQueue_front, ↓foldOn_front, implies_true]

theorem State.takeHeads_front (s : State) :
    (State.takeHeads s).front = s.front := by
  rfl

theorem State.syncOutLow_front (s : State) :
    (State.syncOutLow s).front = s.front := by
  unfold State.syncOutLow
  simp only [↓State.setTime_front, ↓ite_front, ite_self]

theorem State.passSync_front (s : State) (drove : Bool) :
    (State.passSync s drove).front = s.front := by
  unfold State.passSync
  simp only [↓State.setTime_front, ↓ite_front, ite_self]

theorem State.pairTo_front (s : State) (st : PairState) (active : Bool) :
    (State.pairTo s st active).front = s.front := by
  unfold State.pairTo
  simp only [↓State.confirmAll_front, ↓State.notice_front, ↓State.passSync_front, ↓State.sendHello_front, ↓State.setRings_front, ↓State.setSafety_front, ↓State.setTwin_front, ↓State.takeHeads_front, ↓State.withdrawSwap_front, ↓ite_front, ite_self]

theorem State.diverge_front (s : State) :
    (State.diverge s).front = s.front := by
  unfold State.diverge
  simp only [↓State.pairTo_front, ↓State.setTwin_front, ↓ite_front, ite_self]

theorem State.sendDigest_front (s : State) (key : Nat) :
    (State.sendDigest s key).front = s.front := by
  unfold State.sendDigest
  try simp only [↓State.diverge_front, ↓State.sendBenjo_front, ↓State.setTwin_front, ↓ite_front, ite_self]
  repeat' (first | with_reducible rfl | (simp only [↓State.diverge_front, ↓State.sendBenjo_front, ↓State.setTwin_front, ↓ite_front, ite_self]; done) | (with_reducible refine front_ite ?_ ?_) | (simp only [↓State.diverge_front, ↓State.sendBenjo_front, ↓State.setTwin_front, ↓ite_front, ite_self]) | split)

/-! ### Operations of Host -/

theorem State.intake_front (s : State) (q : Fin 16) (hdr payload : List Byte) (crcOk : Bool) (origin : Origin) :
    (State.intake s q hdr payload crcOk origin).front = s.front := by
  unfold State.intake
  try simp only [↓State.reply_front, ↓State.setQueue_front, ↓ite_front, ite_self]
  repeat' (first | with_reducible rfl | (simp only [↓State.reply_front, ↓State.setQueue_front, ↓ite_front, ite_self]; done) | (with_reducible refine front_ite ?_ ?_) | (simp only [↓State.reply_front, ↓State.setQueue_front, ↓ite_front, ite_self]) | split)

theorem State.haltQueue_front (s : State) (q : Fin 16) (err : Nat) :
    (State.haltQueue s q err).front = s.front := by
  rfl

theorem State.fetchN_front (n : Nat) (s : State) (q : Fin 16) : (State.fetchN n s q).front = s.front := by
  induction n generalizing s with
  | zero => rfl
  | succ n ih =>
    unfold State.fetchN
    repeat' (first | with_reducible rfl | (simp only [ih, State.intake_front, State.haltQueue_front, ↓State.setQueue_front]; done) | (refine front_ite ?_ ?_))

theorem State.fetch_front (s : State) (q : Fin 16) : (State.fetch s q).front = s.front := by
  exact State.fetchN_front _ _ _

theorem State.raiseMsix_front (s : State) (q : Fin 16) :
    (State.raiseMsix s q).front = s.front := by
  unfold State.raiseMsix
  try simp only [↓State.emit_front, ↓State.setQueue_front, ↓ite_front, ite_self]
  repeat' (first | with_reducible rfl | (simp only [↓State.emit_front, ↓State.setQueue_front, ↓ite_front, ite_self]; done) | (with_reducible refine front_ite ?_ ?_) | (simp only [↓State.emit_front, ↓State.setQueue_front, ↓ite_front, ite_self]) | split)

theorem State.putOut_front (s : State) (q : Fin 16) (r : Reply) :
    (State.putOut s q r).front = s.front := by
  unfold State.putOut
  try simp only [↓State.emit_front, ↓State.raiseMsix_front, ↓State.reply_front, ↓State.setQueue_front, ↓foldl_front, ↓ite_front, ite_self, implies_true]
  repeat' (first | with_reducible rfl | (simp only [↓State.emit_front, ↓State.raiseMsix_front, ↓State.reply_front, ↓State.setQueue_front, ↓foldl_front, ↓ite_front, ite_self, implies_true]; done) | (with_reducible refine front_ite ?_ ?_) | (with_reducible refine (foldl_front _ _ _ fun s x => ?_).trans ?_) | (simp only [↓State.emit_front, ↓State.raiseMsix_front, ↓State.reply_front, ↓State.setQueue_front, ↓foldl_front, ↓ite_front, ite_self, implies_true]) | split)

theorem State.writeReply_front (s : State) (q : Fin 16) :
    (State.writeReply s q).front = s.front := by
  unfold State.writeReply
  try simp only [↓State.fetch_front, ↓State.finishTag_front, ↓State.putOut_front, ↓State.setQueue_front, ↓foldl_front, ↓ite_front, ite_self, implies_true]
  repeat' (first | with_reducible rfl | (simp only [↓State.fetch_front, ↓State.finishTag_front, ↓State.putOut_front, ↓State.setQueue_front, ↓foldl_front, ↓ite_front, ite_self, implies_true]; done) | (with_reducible refine front_ite ?_ ?_) | (with_reducible refine (foldl_front _ _ _ fun s x => ?_).trans ?_) | (simp only [↓State.fetch_front, ↓State.finishTag_front, ↓State.putOut_front, ↓State.setQueue_front, ↓foldl_front, ↓ite_front, ite_self, implies_true]) | split)

theorem State.countErr_front (s : State) (hi lo : Nat) :
    (State.countErr s hi lo).front = s.front := by
  rfl

theorem State.udpPacket_front (s : State) (q : Fin 16) (port : Fin 2) (src : Endpoint) (bs : List Byte) :
    (State.udpPacket s q port src bs).front = s.front := by
  unfold State.udpPacket
  try simp only [↓State.countErr_front, ↓State.intake_front, ↓State.reply_front, ↓State.setQueue_front, ↓ite_front, ite_self]
  repeat' (first | with_reducible rfl | (simp only [↓State.countErr_front, ↓State.intake_front, ↓State.reply_front, ↓State.setQueue_front, ↓ite_front, ite_self]; done) | (with_reducible refine front_ite ?_ ?_) | (simp only [↓State.countErr_front, ↓State.intake_front, ↓State.reply_front, ↓State.setQueue_front, ↓ite_front, ite_self]) | split)

theorem State.dropJob_front (s : State) :
    (State.dropJob s).front = s.front := by
  rfl

theorem State.dropImage_front (s : State) (o : Pkt) :
    (State.dropImage s o).front = s.front := by
  unfold State.dropImage
  simp only [↓State.dropJob_front, ↓State.sendBenjo_front, ↓ite_front, ite_self]

theorem State.showPanel_front (s : State) (bs : List Byte) (at_ : Option Nat) :
    (State.showPanel s bs at_).front = s.front := by
  unfold State.showPanel
  simp only [↓State.emit_front, ↓State.setHost_front, ↓ite_front, ite_self]

theorem State.toPending_front (s : State) (p : Pkt) :
    (State.toPending s p).front = s.front := by
  unfold State.toPending
  simp only [↓State.finish_front, ↓State.interim_front, ↓State.nextFree_front, ↓State.setHost_front, ↓State.setQueue_front, ↓State.showPanel_front, ↓State.withdrawSwap_front, ↓ite_front, ite_self]

theorem State.closePresence_front (s : State) (last : Byte) :
    (State.closePresence s last).front = s.front := by
  unfold State.closePresence
  try simp only [↓State.dropJob_front, ↓State.sendBenjo_front, ↓State.setHost_front, ↓State.showPanel_front, ↓ite_front, ite_self]
  repeat' (first | with_reducible rfl | (simp only [↓State.dropJob_front, ↓State.sendBenjo_front, ↓State.setHost_front, ↓State.showPanel_front, ↓ite_front, ite_self]; done) | (with_reducible refine front_ite ?_ ?_) | (simp only [↓State.dropJob_front, ↓State.sendBenjo_front, ↓State.setHost_front, ↓State.showPanel_front, ↓ite_front, ite_self]) | split)

theorem State.denyGate_front (s : State) (last : Byte) (status : Nat) (reason : Word) :
    (State.denyGate s last status reason).front = s.front := by
  unfold State.denyGate
  try simp only [↓State.closePresence_front, ↓State.finish_front]
  repeat' (first | with_reducible rfl | (simp only [↓State.closePresence_front, ↓State.finish_front]; done) | (with_reducible refine front_ite ?_ ?_) | (simp only [↓State.closePresence_front, ↓State.finish_front]) | split)

theorem State.expireGate_front (s : State) :
    (State.expireGate s).front = s.front := by
  unfold State.expireGate
  simp only [↓State.denyGate_front, ↓ite_front, ite_self]

theorem State.canForget_front (s : State) (q tag : Nat) :
    (State.canForget s q tag).front = s.front := by
  rfl

theorem State.startReset_front (s : State) (q : Fin 16) (by_ : List (Nat × Nat)) :
    (State.startReset s q by_).front = s.front := by
  unfold State.startReset
  try simp only [↓State.canForget_front, ↓State.closePresence_front, ↓State.dropImage_front, ↓State.expireGate_front, ↓State.finishTag_front, ↓State.setCell_front, ↓State.setQueue_front, ↓foldl_front, ↓ite_front, ite_self, implies_true]
  repeat' (first | with_reducible rfl | (simp only [↓State.canForget_front, ↓State.closePresence_front, ↓State.dropImage_front, ↓State.expireGate_front, ↓State.finishTag_front, ↓State.setCell_front, ↓State.setQueue_front, ↓foldl_front, ↓ite_front, ite_self, implies_true]; done) | (with_reducible refine front_ite ?_ ?_) | (with_reducible refine (foldl_front _ _ _ fun s x => ?_).trans ?_) | (simp only [↓State.canForget_front, ↓State.closePresence_front, ↓State.dropImage_front, ↓State.expireGate_front, ↓State.finishTag_front, ↓State.setCell_front, ↓State.setQueue_front, ↓foldl_front, ↓ite_front, ite_self, implies_true]) | split)

theorem State.abortTarget_front (s : State) (o p : Pkt) :
    (State.abortTarget s o p).front = s.front := by
  unfold State.abortTarget
  try simp only [↓State.closePresence_front, ↓State.dropImage_front, ↓State.dropPart_front, ↓State.finishN_front, ↓ite_front, ite_self]
  repeat' (first | with_reducible rfl | (simp only [↓State.closePresence_front, ↓State.dropImage_front, ↓State.dropPart_front, ↓State.finishN_front, ↓ite_front, ite_self]; done) | (with_reducible refine front_ite ?_ ?_) | (simp only [↓State.closePresence_front, ↓State.dropImage_front, ↓State.dropPart_front, ↓State.finishN_front, ↓ite_front, ite_self]) | split)

/-! ### Operations of Time -/

theorem State.tick_front (s : State) :
    (State.tick s).front = s.front := by
  unfold State.tick
  simp only [↓State.setNow_front, ↓State.setTime_front, ↓ite_front, ite_self]

theorem State.tbEnter_front (s : State) (st : TbState) :
    (State.tbEnter s st).front = s.front := by
  unfold State.tbEnter
  try simp only [↓State.notice_front, ↓State.setTime_front, ↓ite_front, ite_self]
  repeat' (first | with_reducible rfl | (simp only [↓State.notice_front, ↓State.setTime_front, ↓ite_front, ite_self]; done) | (with_reducible refine front_ite ?_ ?_) | (simp only [↓State.notice_front, ↓State.setTime_front, ↓ite_front, ite_self]) | split)

theorem State.holdOver_front (s : State) :
    (State.holdOver s).front = s.front := by
  unfold State.holdOver
  simp only [↓State.nextFree_front, ↓State.setTime_front, ↓State.tbEnter_front, ↓ite_front, ite_self]

theorem State.tbLost_front (s : State) :
    (State.tbLost s).front = s.front := by
  unfold State.tbLost
  try simp only [↓State.holdOver_front, ↓State.tbEnter_front, ↓ite_front, ite_self]
  repeat' (first | with_reducible rfl | (simp only [↓State.holdOver_front, ↓State.tbEnter_front, ↓ite_front, ite_self]; done) | (with_reducible refine front_ite ?_ ?_) | (simp only [↓State.holdOver_front, ↓State.tbEnter_front, ↓ite_front, ite_self]) | split)

theorem State.correctPhase_front (s : State) (d : Int) :
    (State.correctPhase s d).front = s.front := by
  unfold State.correctPhase
  simp only [↓State.setTime_front, ↓ite_front, ite_self]

theorem State.measure_front (s : State) (d : Int) :
    (State.measure s d).front = s.front := by
  unfold State.measure
  try simp only [↓State.correctPhase_front, ↓State.nextFree_front, ↓State.setTime_front, ↓State.tbEnter_front, ↓ite_front, ite_self]
  repeat' (first | with_reducible rfl | (simp only [↓State.correctPhase_front, ↓State.nextFree_front, ↓State.setTime_front, ↓State.tbEnter_front, ↓ite_front, ite_self]; done) | (with_reducible refine front_ite ?_ ?_) | (simp only [↓State.correctPhase_front, ↓State.nextFree_front, ↓State.setTime_front, ↓State.tbEnter_front, ↓ite_front, ite_self]) | split)

theorem State.setPtpSlot_front (s : State) (n : Fin 2) (v : SlotServo) :
    (State.setPtpSlot s n v).front = s.front := by
  rfl

theorem State.syncDone_front (s : State) (n p : Fin 2) (t1 t2 : Int) :
    (State.syncDone s n p t1 t2).front = s.front := by
  unfold State.syncDone
  try simp only [↓State.measure_front, ↓State.setPtpSlot_front, ↓State.tbEnter_front, ↓ite_front, ite_self]
  repeat' (first | with_reducible rfl | (simp only [↓State.measure_front, ↓State.setPtpSlot_front, ↓State.tbEnter_front, ↓ite_front, ite_self]; done) | (with_reducible refine front_ite ?_ ?_) | (simp only [↓State.measure_front, ↓State.setPtpSlot_front, ↓State.tbEnter_front, ↓ite_front, ite_self]) | split)

theorem State.ptpOut_front (s : State) (n p : Fin 2) (m : PtpOut) :
    (State.ptpOut s n p m).front = s.front := by
  rfl

theorem State.takeAnnounce_front (s : State) (n p : Fin 2) (source : BitVec 80) (ds : PtpDataset) (utc : Int) (valid : Bool) :
    (State.takeAnnounce s n p source ds utc valid).front = s.front := by
  unfold State.takeAnnounce
  simp only [↓State.setPtpSlot_front, ↓State.setTime_front, ↓ite_front, ite_self]

theorem State.ptpSend_front (s : State) (n p : Fin 2) :
    (State.ptpSend s n p).front = s.front := by
  unfold State.ptpSend
  simp only [↓State.ptpOut_front, ↓State.setPtpSlot_front, ↓ite_front, ite_self]

theorem State.ptpSends_front (s : State) :
    (State.ptpSends s).front = s.front := by
  unfold State.ptpSends
  simp only [↓State.ptpSend_front, ↓ite_front, ite_self]

theorem State.setSource_front (s : State) (src : Nat) :
    (State.setSource s src).front = s.front := by
  unfold State.setSource
  try simp only [↓State.setTime_front, ↓State.tbEnter_front, ↓ite_front, ite_self]
  repeat' (first | with_reducible rfl | (simp only [↓State.setTime_front, ↓State.tbEnter_front, ↓ite_front, ite_self]; done) | (with_reducible refine front_ite ?_ ?_) | (simp only [↓State.setTime_front, ↓State.tbEnter_front, ↓ite_front, ite_self]) | split)

theorem State.setDomain_front (s : State) (n : Fin 2) (v : Word) :
    (State.setDomain s n v).front = s.front := by
  unfold State.setDomain
  simp only [↓State.holdOver_front, ↓State.setTime_front, ↓ite_front, ite_self]

theorem State.useSlot_front (s : State) (n : Fin 2) :
    (State.useSlot s n).front = s.front := by
  unfold State.useSlot
  try simp only [↓State.correctPhase_front, ↓State.notice_front, ↓State.setTime_front, ↓State.tbLost_front, ↓ite_front, ite_self]
  repeat' (first | with_reducible rfl | (simp only [↓State.correctPhase_front, ↓State.notice_front, ↓State.setTime_front, ↓State.tbLost_front, ↓ite_front, ite_self]; done) | (with_reducible refine front_ite ?_ ?_) | (simp only [↓State.correctPhase_front, ↓State.notice_front, ↓State.setTime_front, ↓State.tbLost_front, ↓ite_front, ite_self]) | split)

theorem State.setSelect_front (s : State) (v : Nat) :
    (State.setSelect s v).front = s.front := by
  unfold State.setSelect
  simp only [↓State.setTime_front, ↓State.useSlot_front, ↓ite_front, ite_self]

/-! ### Operations of Motion -/

theorem State.protect_front (s : State) (c : Fin 16) (code : ChFault) :
    (State.protect s c code).front = s.front := by
  unfold State.protect
  simp only [↓State.nextFree_front, ↓State.notice_front, ↓State.setChain_front, ↓ite_front, ite_self]

theorem State.segFault_front (s : State) (c : Fin 16) (f : ChFault) :
    (State.segFault s c f).front = s.front := by
  rfl

theorem State.barrierOut_front (s : State) (c : Fin 16) :
    (State.barrierOut s c).front = s.front := by
  rfl

theorem State.cancelBarriers_front (s : State) (c : Nat) (flushed : List (List Byte)) :
    (State.cancelBarriers s c flushed).front = s.front := by
  unfold State.cancelBarriers
  try simp only [↓State.barrierOut_front, ↓foldOn_front, ↓ite_front, ite_self, implies_true]
  repeat' (first | with_reducible rfl | (simp only [↓State.barrierOut_front, ↓foldOn_front, ↓ite_front, ite_self, implies_true]; done) | (with_reducible refine front_ite ?_ ?_) | (with_reducible refine (foldOn_front _ _ _ fun s x => ?_).trans ?_) | (simp only [↓State.barrierOut_front, ↓foldOn_front, ↓ite_front, ite_self, implies_true]) | split)

theorem State.flush_front (s : State) (c : Fin 16) :
    (State.flush s c).front = s.front := by
  unfold State.flush
  simp only [↓State.cancelBarriers_front, ↓State.setChain_front]

theorem State.shedChain_front (s : State) (c : Fin 16) :
    (State.shedChain s c).front = s.front := by
  unfold State.shedChain
  simp only [↓State.setChain_front]

theorem State.applyStop_front (s : State) (c : Fin 16) (kind : Nat) :
    (State.applyStop s c kind).front = s.front := by
  unfold State.applyStop
  try simp only [↓State.flush_front, ↓State.nextFree_front, ↓State.protect_front, ↓State.setChain_front, ↓ite_front, ite_self]
  repeat' (first | with_reducible rfl | (simp only [↓State.flush_front, ↓State.nextFree_front, ↓State.protect_front, ↓State.setChain_front, ↓ite_front, ite_self]; done) | (with_reducible refine front_ite ?_ ?_) | (simp only [↓State.flush_front, ↓State.nextFree_front, ↓State.protect_front, ↓State.setChain_front, ↓ite_front, ite_self]) | split)

theorem State.applyResume_front (s : State) (c : Fin 16) :
    (State.applyResume s c).front = s.front := by
  unfold State.applyResume
  try simp only [↓State.setChain_front, ↓ite_front, ite_self]
  repeat' (first | with_reducible rfl | (simp only [↓State.setChain_front, ↓ite_front, ite_self]; done) | (with_reducible refine front_ite ?_ ?_) | (simp only [↓State.setChain_front, ↓ite_front, ite_self]) | split)

theorem State.addMotionCmd_front (s : State) (m : MotionCmd) :
    (State.addMotionCmd s m).front = s.front := by
  rfl

/-! ### Operations of Safety -/

theorem State.drive_front (s : State) (c : Fin 16) :
    (State.drive s c).front = s.front := by
  rfl

theorem State.setTestTorque_front (s : State) (c : Fin 16) (num : Int) :
    (State.setTestTorque s c num).front = s.front := by
  unfold State.setTestTorque
  try simp only [↓State.setAxis_front, ↓foldOn_front, ↓ite_front, ite_self, implies_true]
  repeat' (first | with_reducible rfl | (simp only [↓State.setAxis_front, ↓foldOn_front, ↓ite_front, ite_self, implies_true]; done) | (with_reducible refine front_ite ?_ ?_) | (with_reducible refine (foldOn_front _ _ _ fun s x => ?_).trans ?_) | (simp only [↓State.setAxis_front, ↓foldOn_front, ↓ite_front, ite_self, implies_true]) | split)

theorem State.restartAxes_front (s : State) (axes : List Nat) :
    (State.restartAxes s axes).front = s.front := by
  rfl

theorem State.restartLoops_front (s : State) (c : Fin 16) :
    (State.restartLoops s c).front = s.front := by
  rfl

theorem State.abortTest_front (s : State) (c : Fin 16) :
    (State.abortTest s c).front = s.front := by
  unfold State.abortTest
  try simp only [↓State.notice_front, ↓State.restartLoops_front, ↓State.setIndex_front, ↓State.setTestTorque_front]
  repeat' (first | with_reducible rfl | (simp only [↓State.notice_front, ↓State.restartLoops_front, ↓State.setIndex_front, ↓State.setTestTorque_front]; done) | (with_reducible refine front_ite ?_ ?_) | (simp only [↓State.notice_front, ↓State.restartLoops_front, ↓State.setIndex_front, ↓State.setTestTorque_front]) | split)

theorem State.toSto_front (s : State) (c : Fin 16) (cause : Nat) (fast : Bool) :
    (State.toSto s c cause fast).front = s.front := by
  unfold State.toSto
  simp only [↓State.abortTest_front, ↓State.drive_front, ↓State.protect_front, ↓State.setIndex_front, ↓ite_front, ite_self]

theorem State.toSs1_front (s : State) (c : Fin 16) (cause : Nat) :
    (State.toSs1 s c cause).front = s.front := by
  unfold State.toSs1
  simp only [↓State.abortTest_front, ↓State.addMotionCmd_front, ↓State.drive_front, ↓State.protect_front, ↓State.setIndex_front]

theorem State.stopIndex_front (s : State) (c : Fin 16) (cat cause : Nat) (fast : Bool) :
    (State.stopIndex s c cat cause fast).front = s.front := by
  unfold State.stopIndex
  try simp only [↓State.setIndex_front, ↓State.toSs1_front, ↓State.toSto_front, ↓ite_front, ite_self]
  repeat' (first | with_reducible rfl | (simp only [↓State.setIndex_front, ↓State.toSs1_front, ↓State.toSto_front, ↓ite_front, ite_self]; done) | (with_reducible refine front_ite ?_ ?_) | (simp only [↓State.setIndex_front, ↓State.toSs1_front, ↓State.toSto_front, ↓ite_front, ite_self]) | split)

theorem State.motionStop34_front (s : State) (c : Fin 16) :
    (State.motionStop34 s c).front = s.front := by
  unfold State.motionStop34
  simp only [↓State.stopIndex_front]

theorem State.enterBath_front (s : State) (cause : Nat) :
    (State.enterBath s cause).front = s.front := by
  unfold State.enterBath
  simp only [↓State.setSafety_front, ↓State.stopIndex_front, ↓foldOn_front, implies_true]

theorem State.applyFuncs_front (s : State) (c : Fin 16) (old : BitVec 32) :
    (State.applyFuncs s c old).front = s.front := by
  unfold State.applyFuncs
  simp only [↓State.setIndex_front, ↓State.stopIndex_front, ↓foldl_front, ↓ite_front, ite_self, implies_true]

theorem State.releaseNodes_front (s : State) (c : Fin 16) :
    (State.releaseNodes s c).front = s.front := by
  unfold State.releaseNodes
  simp only [↓State.sendMgmt_front, ↓foldl_front, ↓ite_front, ite_self, implies_true]

theorem State.clearAxisFaults_front (s : State) (axes : List Nat) :
    (State.clearAxisFaults s axes).front = s.front := by
  unfold State.clearAxisFaults
  simp only [↓State.restartAxes_front, ↓State.setAxis_front, ↓foldl_front, ↓ite_front, ite_self, implies_true]

theorem State.toRun_front (s : State) (c : Fin 16) :
    (State.toRun s c).front = s.front := by
  unfold State.toRun
  simp only [↓State.drive_front, ↓State.setChain_front, ↓State.setIndex_front]

theorem State.refuseReset_front (s : State) (reason : Nat) :
    (State.refuseReset s reason).front = s.front := by
  rfl

theorem State.evalFuncs_front (s : State) :
    (State.evalFuncs s).front = s.front := by
  unfold State.evalFuncs
  try simp only [↓State.applyFuncs_front, ↓State.refuseReset_front, ↓State.setSafety_front, ↓State.toRun_front, ↓foldOn_front, ↓ite_front, ite_self, implies_true]
  repeat' (first | with_reducible rfl | (simp only [↓State.applyFuncs_front, ↓State.refuseReset_front, ↓State.setSafety_front, ↓State.toRun_front, ↓foldOn_front, ↓ite_front, ite_self, implies_true]; done) | (with_reducible refine front_ite ?_ ?_) | (with_reducible refine (foldOn_front _ _ _ fun s x => ?_).trans ?_) | (simp only [↓State.applyFuncs_front, ↓State.refuseReset_front, ↓State.setSafety_front, ↓State.toRun_front, ↓foldOn_front, ↓ite_front, ite_self, implies_true]) | split)

theorem State.clearPairs_front (s : State) :
    (State.clearPairs s).front = s.front := by
  rfl

theorem State.judgeReset_front (s : State) (chains : List Nat) (srst : Bool) :
    (State.judgeReset s chains srst).front = s.front := by
  unfold State.judgeReset
  simp only [↓State.clearAxisFaults_front, ↓State.clearPairs_front, ↓State.refuseReset_front, ↓State.releaseNodes_front, ↓State.setChain_front, ↓State.setSafety_front, ↓State.setSys_front, ↓State.toRun_front, ↓foldOn_front, ↓ite_front, ite_self, implies_true]

theorem State.judgeResets_front (s : State) :
    (State.judgeResets s).front = s.front := by
  unfold State.judgeResets
  try simp only [↓State.judgeReset_front, ↓State.refuseReset_front, ↓State.setSafety_front, ↓foldl_front, implies_true]
  repeat' (first | with_reducible rfl | (simp only [↓State.judgeReset_front, ↓State.refuseReset_front, ↓State.setSafety_front, ↓foldl_front, implies_true]; done) | (with_reducible refine front_ite ?_ ?_) | (with_reducible refine (foldl_front _ _ _ fun s x => ?_).trans ?_) | (simp only [↓State.judgeReset_front, ↓State.refuseReset_front, ↓State.setSafety_front, ↓foldl_front, implies_true]) | split)

theorem State.ss1Cycle_front (s : State) (c : Fin 16) :
    (State.ss1Cycle s c).front = s.front := by
  unfold State.ss1Cycle
  try simp only [↓State.setIndex_front, ↓State.toSto_front, ↓ite_front, ite_self]
  repeat' (first | with_reducible rfl | (simp only [↓State.setIndex_front, ↓State.toSto_front, ↓ite_front, ite_self]; done) | (with_reducible refine front_ite ?_ ?_) | (simp only [↓State.setIndex_front, ↓State.toSto_front, ↓ite_front, ite_self]) | split)

theorem State.slsCycle_front (s : State) (c : Fin 16) :
    (State.slsCycle s c).front = s.front := by
  unfold State.slsCycle
  simp only [↓State.setIndex_front, ↓State.stopIndex_front, ↓ite_front, ite_self]

theorem State.brakeFault_front (s : State) (c : Fin 16) :
    (State.brakeFault s c).front = s.front := by
  unfold State.brakeFault
  simp only [↓State.setIndex_front, ↓State.stopIndex_front]

theorem State.requestBrakeTests_front (s : State) (v : BitVec 16) :
    (State.requestBrakeTests s v).front = s.front := by
  unfold State.requestBrakeTests
  simp only [↓State.setIndex_front, ↓foldOn_front, implies_true]

theorem State.startBrakeTest_front (s : State) (c : Fin 16) :
    (State.startBrakeTest s c).front = s.front := by
  unfold State.startBrakeTest
  simp only [↓State.drive_front, ↓State.setIndex_front, ↓ite_front, ite_self]

theorem State.endBrakeTest_front (s : State) (c : Fin 16) (pass : Bool) :
    (State.endBrakeTest s c pass).front = s.front := by
  unfold State.endBrakeTest
  simp only [↓State.brakeFault_front, ↓State.drive_front, ↓State.notice_front, ↓State.restartLoops_front, ↓State.setIndex_front, ↓State.setTestTorque_front, ↓State.toRun_front, ↓ite_front, ite_self]

theorem State.driveAll_front (s : State) :
    (State.driveAll s).front = s.front := by
  unfold State.driveAll
  simp only [↓State.drive_front, ↓foldOn_front, implies_true]

theorem State.dropBrakes_front (s : State) :
    (State.dropBrakes s).front = s.front := by
  unfold State.dropBrakes
  simp only [↓State.setIndex_front, ↓foldOn_front, implies_true]

theorem State.channelFault_front (s : State) (ch : Fin 2) :
    (State.channelFault s ch).front = s.front := by
  unfold State.channelFault
  simp only [↓State.driveAll_front, ↓State.dropBrakes_front, ↓State.enterBath_front, ↓State.setSafety_front, ↓ite_front, ite_self]

/-! ### Operations of SchedImage -/

theorem State.storeSched_front (s : State) (p : Pkt) (bs : List Byte) :
    (State.storeSched s p bs).front = s.front := by
  unfold State.storeSched
  try simp only [↓State.finish_front, ↓State.finishOk_front, ↓State.setSolver_front, ↓ite_front, ite_self]
  repeat' (first | with_reducible rfl | (simp only [↓State.finish_front, ↓State.finishOk_front, ↓State.setSolver_front, ↓ite_front, ite_self]; done) | (with_reducible refine front_ite ?_ ?_) | (simp only [↓State.finish_front, ↓State.finishOk_front, ↓State.setSolver_front, ↓ite_front, ite_self]) | split)

/-! ### Operations of Tiles -/

theorem State.tileErrors_front (s : State) (t : Fin 16) (n : Nat) :
    (State.tileErrors s t n).front = s.front := by
  rfl

theorem State.cutRun_front (s : State) (t : Fin 16) :
    (State.cutRun s t).front = s.front := by
  unfold State.cutRun
  simp only [↓State.nextFree_front, ↓State.tileErrors_front, ↓ite_front, ite_self]

theorem State.kernelFault_front (s : State) (t : Fin 16) (cause : Nat) :
    (State.kernelFault s t cause).front = s.front := by
  unfold State.kernelFault
  simp only [↓State.cutRun_front, ↓State.notice_front, ↓State.setKernel_front, ↓State.setTile_front]

theorem State.sticky_front (s : State) (t : Fin 16) (o : OpOut) :
    (State.sticky s t o).front = s.front := by
  unfold State.sticky
  simp only [↓State.notice_front, ↓State.setKernel_front, ↓State.setTile_front, ↓ite_front, ite_self]

theorem State.tileRun_front (s : State) (t : Fin 16) (op : Nat) (f : Core → DWord → Core → OpOut)
    (fin : State → KernelImage → OpOut → State) (hf : ∀ s im o, (fin s im o).front = s.front) :
    (s.tileRun t op f fin).front = s.front := by
  unfold State.tileRun
  repeat' (first | with_reducible rfl | (simp only [↓State.kernelFault_front, ↓State.setKernel_front, ↓State.setTile_front, ↓State.sticky_front, ↓foldl_front, ↓ite_front, ite_self, implies_true, hf]; done) | (with_reducible refine front_ite ?_ ?_) | (simp only [↓State.kernelFault_front, ↓State.setKernel_front, ↓State.setTile_front, ↓State.sticky_front, ↓foldl_front, ↓ite_front, ite_self, implies_true, hf]) | split)

theorem State.tileOp_front (s : State) (t : Fin 16) (op : Nat) (f : Core → DWord → Core → OpOut) :
    (State.tileOp s t op f).front = s.front := by
  refine State.tileRun_front _ _ _ _ _ (fun s im o => ?_)
  simp only [↓State.kernelFault_front, ↓State.setTile_front, ↓State.tileRun_front, ↓ite_front, ite_self]

theorem State.activate_front (s : State) (k : Fin 64) (seq : Word) (block : List Word) :
    (State.activate s k seq block).front = s.front := by
  unfold State.activate
  simp only [↓State.setKernel_front, ↓State.setTile_front, ↓ite_front, ite_self]

theorem State.commit_front (s : State) (t : Fin 16) (im : KernelImage) :
    (State.commit s t im).front = s.front := by
  rfl

/-! ### Operations of Solver -/

theorem State.requestParts_front (s : State) (x : ProbSt) :
    (State.requestParts s x).front = s.front := by
  unfold State.requestParts
  simp only [↓State.askUnit_front, ↓foldl_front, implies_true]

theorem State.releaseParts_front (s : State) (x : ProbSt) :
    (State.releaseParts s x).front = s.front := by
  unfold State.releaseParts
  simp only [↓State.leaveUnit_front, ↓foldl_front, implies_true]

theorem State.noteSolve_front (s : State) (p : Fin 4) (v : SolveSt) :
    (State.noteSolve s p v).front = s.front := by
  rfl

theorem State.laneOp_front (s : State) (p : Fin 4) (op : Nat) (f : SchedImage → LaneInstr → SolveSt → SolveSt) :
    (State.laneOp s p op f).front = s.front := by
  unfold State.laneOp
  try simp only [↓State.noteSolve_front]
  repeat' (first | with_reducible rfl | (simp only [↓State.noteSolve_front]; done) | (with_reducible refine front_ite ?_ ?_) | (simp only [↓State.noteSolve_front]) | split)

theorem State.latchPlan_front (s : State) :
    (State.latchPlan s).front = s.front := by
  rfl

theorem State.latchDue_front (s : State) :
    (State.latchDue s).front = s.front := by
  unfold State.latchDue
  simp only [↓State.latchPlan_front, ↓ite_front, ite_self]

theorem State.lateStage_front (s : State) :
    (State.lateStage s).front = s.front := by
  unfold State.lateStage
  simp only [↓State.setMotion_front, ↓ite_front, ite_self]

theorem State.stageProblems_front (s : State) (ps : List (Nat × Option SchedImage)) :
    (State.stageProblems s ps).front = s.front := by
  unfold State.stageProblems
  try simp only [↓State.setFree_front, ↓State.setSolve_front, ↓foldl_front, implies_true]
  repeat' (first | with_reducible rfl | (simp only [↓State.setFree_front, ↓State.setSolve_front, ↓foldl_front, implies_true]; done) | (with_reducible refine front_ite ?_ ?_) | (with_reducible refine (foldl_front _ _ _ fun s x => ?_).trans ?_) | (simp only [↓State.setFree_front, ↓State.setSolve_front, ↓foldl_front, implies_true]) | split)

theorem State.dropStaged_front (s : State) :
    (State.dropStaged s).front = s.front := by
  rfl

theorem State.assembleOne_front (s : State) (p : Fin 4) (g : SchedImage) (late : Bool) :
    (State.assembleOne s p g late).front = s.front := by
  unfold State.assembleOne
  simp only [↓State.setProb_front, ↓State.setSolve_front, ↓State.setSolver_front, ↓foldl_front, ↓ite_front, ite_self, implies_true]

theorem State.corrected_front (s : State) (p : Fin 4) (n : Nat) :
    (State.corrected s p n).front = s.front := by
  rfl

theorem State.notSolved_front (s : State) (p : Fin 4) (flags : Nat) :
    (State.notSolved s p flags).front = s.front := by
  unfold State.notSolved
  simp only [↓State.corrected_front, ↓State.nextFree_front, ↓State.releaseParts_front, ↓State.setSolve_front, ↓ite_front, ite_self]

theorem State.overrun_front (s : State) (p : Fin 4) :
    (State.overrun s p).front = s.front := by
  unfold State.overrun
  simp only [↓State.notSolved_front, ↓State.setSolver_front, ↓ite_front, ite_self]

theorem State.newBank_front (s : State) (axis : Nat) (k0 k1 : List Word) :
    (State.newBank s axis k0 k1).front = s.front := by
  rfl

theorem State.solveMiss_front (s : State) (p : Fin 4) (g : SchedImage) :
    (State.solveMiss s p g).front = s.front := by
  unfold State.solveMiss
  try simp only [↓State.motionStop34_front, ↓State.newBank_front, ↓State.protect_front, ↓State.setChain_front, ↓State.setMotion_front, ↓foldl_front, ↓ite_front, ite_self, implies_true]
  repeat' (first | with_reducible rfl | (simp only [↓State.motionStop34_front, ↓State.newBank_front, ↓State.protect_front, ↓State.setChain_front, ↓State.setMotion_front, ↓foldl_front, ↓ite_front, ite_self, implies_true]; done) | (with_reducible refine front_ite ?_ ?_) | (with_reducible refine (foldl_front _ _ _ fun s x => ?_).trans ?_) | (simp only [↓State.motionStop34_front, ↓State.newBank_front, ↓State.protect_front, ↓State.setChain_front, ↓State.setMotion_front, ↓foldl_front, ↓ite_front, ite_self, implies_true]) | split)

theorem State.distribute_front (s : State) (p : Fin 4) (g : SchedImage) :
    (State.distribute s p g).front = s.front := by
  unfold State.distribute
  try simp only [↓State.newBank_front, ↓State.setChain_front, ↓State.setMotion_front, ↓State.setSolve_front, ↓State.tick_front, ↓foldl_front, implies_true]
  repeat' (first | with_reducible rfl | (simp only [↓State.newBank_front, ↓State.setChain_front, ↓State.setMotion_front, ↓State.setSolve_front, ↓State.tick_front, ↓foldl_front, implies_true]; done) | (with_reducible refine front_ite ?_ ?_) | (with_reducible refine (foldl_front _ _ _ fun s x => ?_).trans ?_) | (simp only [↓State.newBank_front, ↓State.setChain_front, ↓State.setMotion_front, ↓State.setSolve_front, ↓State.tick_front, ↓foldl_front, implies_true]) | split)

theorem State.distributeKept_front (s : State) (p : Fin 4) (g : SchedImage) :
    (State.distributeKept s p g).front = s.front := by
  unfold State.distributeKept
  simp only [↓State.distribute_front, ↓State.setSolve_front]

theorem State.takeBack_front (s : State) (p : Fin 4) :
    (State.takeBack s p).front = s.front := by
  unfold State.takeBack
  try simp only [↓State.setChain_front, ↓State.setMotion_front, ↓State.setSolve_front, ↓State.solveMiss_front, ↓State.tick_front, ↓foldl_front, ↓ite_front, ite_self, implies_true]
  repeat' (first | with_reducible rfl | (simp only [↓State.setChain_front, ↓State.setMotion_front, ↓State.setSolve_front, ↓State.solveMiss_front, ↓State.tick_front, ↓foldl_front, ↓ite_front, ite_self, implies_true]; done) | (with_reducible refine front_ite ?_ ?_) | (with_reducible refine (foldl_front _ _ _ fun s x => ?_).trans ?_) | (simp only [↓State.setChain_front, ↓State.setMotion_front, ↓State.setSolve_front, ↓State.solveMiss_front, ↓State.tick_front, ↓foldl_front, ↓ite_front, ite_self, implies_true]) | split)

theorem State.sendSolve_front (s : State) (key : Nat) (x : List Word) :
    (State.sendSolve s key x).front = s.front := by
  rfl

theorem State.settleSolve_front (s : State) (p : Fin 4) :
    (State.settleSolve s p).front = s.front := by
  unfold State.settleSolve
  try simp only [↓State.distribute_front, ↓State.distributeKept_front, ↓State.diverge_front, ↓State.notSolved_front, ↓State.sendSolve_front, ↓State.setSolve_front, ↓State.setSolver_front, ↓State.solveMiss_front, ↓State.tick_front, ↓ite_front, ite_self]
  repeat' (first | with_reducible rfl | (simp only [↓State.distribute_front, ↓State.distributeKept_front, ↓State.diverge_front, ↓State.notSolved_front, ↓State.sendSolve_front, ↓State.setSolve_front, ↓State.setSolver_front, ↓State.solveMiss_front, ↓State.tick_front, ↓ite_front, ite_self]; done) | (with_reducible refine front_ite ?_ ?_) | (simp only [↓State.distribute_front, ↓State.distributeKept_front, ↓State.diverge_front, ↓State.notSolved_front, ↓State.sendSolve_front, ↓State.setSolve_front, ↓State.setSolver_front, ↓State.solveMiss_front, ↓State.tick_front, ↓ite_front, ite_self]) | split)

theorem State.keepRecord_front (s : State) (p : Fin 4) :
    (State.keepRecord s p).front = s.front := by
  rfl

theorem State.settle_front (s : State) (p : Fin 4) :
    (State.settle s p).front = s.front := by
  unfold State.settle
  try simp only [↓State.keepRecord_front, ↓State.settleSolve_front, ↓ite_front, ite_self]
  repeat' (first | with_reducible rfl | (simp only [↓State.keepRecord_front, ↓State.settleSolve_front, ↓ite_front, ite_self]; done) | (with_reducible refine front_ite ?_ ?_) | (simp only [↓State.keepRecord_front, ↓State.settleSolve_front, ↓ite_front, ite_self]) | split)

theorem State.auxBanks_front (s : State) :
    (State.auxBanks s).front = s.front := by
  unfold State.auxBanks
  simp only [↓State.newBank_front, ↓foldOn_front, implies_true]

/-! ### Operations of Can -/

theorem State.canEnter_front (s : State) (n : Fin 4) (st : CanState) :
    (State.canEnter s n st).front = s.front := by
  unfold State.canEnter
  simp only [↓State.notice_front, ↓State.setCanN_front, ↓ite_front, ite_self]

theorem State.canConfine_front (s : State) (n : Fin 4) :
    (State.canConfine s n).front = s.front := by
  unfold State.canConfine
  try simp only [↓State.canEnter_front, ↓State.setCanN_front, ↓ite_front, ite_self]
  repeat' (first | with_reducible rfl | (simp only [↓State.canEnter_front, ↓State.setCanN_front, ↓ite_front, ite_self]; done) | (with_reducible refine front_ite ?_ ?_) | (simp only [↓State.canEnter_front, ↓State.setCanN_front, ↓ite_front, ite_self]) | split)

theorem State.canBuf_front (s : State) (n : Fin 4) (b : Fin 64) (f : CanBuf → CanBuf) :
    (State.canBuf s n b f).front = s.front := by
  rfl

theorem State.canShare_front (s : State) (n : Fin 4) (b kind : Nat) (rest : List Byte) :
    (State.canShare s n b kind rest).front = s.front := by
  unfold State.canShare
  simp only [↓State.sendBenjo_front, ↓ite_front, ite_self]

theorem State.canStore_front (s : State) (n : Fin 4) (f : CanFrame) (stamp : DWord) :
    (State.canStore s n f stamp).front = s.front := by
  unfold State.canStore
  try simp only [↓State.canShare_front, ↓State.setCanN_front, ↓ite_front, ite_self]
  repeat' (first | with_reducible rfl | (simp only [↓State.canShare_front, ↓State.setCanN_front, ↓ite_front, ite_self]; done) | (with_reducible refine front_ite ?_ ?_) | (simp only [↓State.canShare_front, ↓State.setCanN_front, ↓ite_front, ite_self]) | split)

theorem State.canLock_front (s : State) (n : Fin 4) (b : Fin 64) :
    (State.canLock s n b).front = s.front := by
  rfl

theorem State.canRelease_front (s : State) (n : Fin 4) (b : Fin 64) :
    (State.canRelease s n b).front = s.front := by
  rfl

theorem State.endTx_front (s : State) (n : Fin 4) (b : Fin 64) (v : Verdict) (outcome : Word) :
    (State.endTx s n b v outcome).front = s.front := by
  unfold State.endTx
  try simp only [↓State.canBuf_front, ↓State.finishN_front, ↓State.finishTag_front, ↓foldl_front, ↓ite_front, ite_self, implies_true]
  repeat' (first | with_reducible rfl | (simp only [↓State.canBuf_front, ↓State.finishN_front, ↓State.finishTag_front, ↓foldl_front, ↓ite_front, ite_self, implies_true]; done) | (with_reducible refine front_ite ?_ ?_) | (with_reducible refine (foldl_front _ _ _ fun s x => ?_).trans ?_) | (simp only [↓State.canBuf_front, ↓State.finishN_front, ↓State.finishTag_front, ↓foldl_front, ↓ite_front, ite_self, implies_true]) | split)

theorem State.leaveBus_front (s : State) (n : Fin 4) (b : Fin 64) :
    (State.leaveBus s n b).front = s.front := by
  unfold State.leaveBus
  simp only [↓State.canBuf_front, ↓State.canShare_front, ↓State.endTx_front, ↓State.setCanN_front, ↓ite_front, ite_self]

theorem State.settleCancels_front (s : State) :
    (State.settleCancels s).front = s.front := by
  unfold State.settleCancels
  simp only [↓State.endTx_front, ↓foldOn_front, ↓ite_front, ite_self, implies_true]

theorem State.setCanCtrl_front (s : State) (n : Fin 4) (v : Word) :
    (State.setCanCtrl s n v).front = s.front := by
  unfold State.setCanCtrl
  try simp only [↓State.canEnter_front, ↓State.leaveBus_front, ↓State.setCanN_front, ↓ite_front, ite_self]
  repeat' (first | with_reducible rfl | (simp only [↓State.canEnter_front, ↓State.leaveBus_front, ↓State.setCanN_front, ↓ite_front, ite_self]; done) | (with_reducible refine front_ite ?_ ?_) | (simp only [↓State.canEnter_front, ↓State.leaveBus_front, ↓State.setCanN_front, ↓ite_front, ite_self]) | split)

/-! ### Operations of Loops -/

theorem State.traceEvent_front (s : State) (e : Fin 16) (source : Nat) :
    (State.traceEvent s e source).front = s.front := by
  unfold State.traceEvent
  simp only [↓State.setEngine_front, ↓ite_front, ite_self]

theorem State.traceRow_front (s : State) (e : Fin 16) (seq : Word) :
    (State.traceRow s e seq).front = s.front := by
  unfold State.traceRow
  simp only [↓State.setEngine_front, ↓ite_front, ite_self]

theorem State.armTrace_front (s : State) (e : Fin 16) :
    (State.armTrace s e).front = s.front := by
  rfl

theorem State.setGroup_front (s : State) (k : Nat) (g : GroupSt) :
    (State.setGroup s k g).front = s.front := by
  rfl

theorem State.markPrimary_front (s : State) (key m : Nat) :
    (State.markPrimary s key m).front = s.front := by
  rfl

theorem State.endHandover_front (s : State) (key : Nat) (faulted : Bool) :
    (State.endHandover s key faulted).front = s.front := by
  unfold State.endHandover
  try simp only [↓State.finishTag_front, ↓State.markPrimary_front, ↓State.setGroup_front]
  repeat' (first | with_reducible rfl | (simp only [↓State.finishTag_front, ↓State.markPrimary_front, ↓State.setGroup_front]; done) | (with_reducible refine front_ite ?_ ?_) | (simp only [↓State.finishTag_front, ↓State.markPrimary_front, ↓State.setGroup_front]) | split)

theorem State.axisFault_front (s : State) (a : Nat) (cause : Nat) (once : Bool) :
    (State.axisFault s a cause once).front = s.front := by
  unfold State.axisFault
  try simp only [↓State.endHandover_front, ↓State.motionStop34_front, ↓State.notice_front, ↓State.protect_front, ↓State.setAxis_front, ↓State.traceEvent_front, ↓foldl_front, ↓foldOn_front, ↓ite_front, ite_self, implies_true]
  repeat' (first | with_reducible rfl | (simp only [↓State.endHandover_front, ↓State.motionStop34_front, ↓State.notice_front, ↓State.protect_front, ↓State.setAxis_front, ↓State.traceEvent_front, ↓foldl_front, ↓foldOn_front, ↓ite_front, ite_self, implies_true]; done) | (with_reducible refine front_ite ?_ ?_) | (with_reducible refine (foldOn_front _ _ _ fun s x => ?_).trans ?_) | (with_reducible refine (foldl_front _ _ _ fun s x => ?_).trans ?_) | (simp only [↓State.endHandover_front, ↓State.motionStop34_front, ↓State.notice_front, ↓State.protect_front, ↓State.setAxis_front, ↓State.traceEvent_front, ↓foldl_front, ↓foldOn_front, ↓ite_front, ite_self, implies_true]) | split)

theorem State.slotMiss_front (s : State) (e : Fin 16) (k : Fin 32) (seq : Word) :
    (State.slotMiss s e k seq).front = s.front := by
  unfold State.slotMiss
  simp only [↓State.axisFault_front, ↓State.setLoops_front, ↓State.setSlot_front, ↓State.setTwin_front, ↓State.traceEvent_front, ↓ite_front, ite_self]

theorem State.advanceHandover_front (s : State) (key : Nat) :
    (State.advanceHandover s key).front = s.front := by
  unfold State.advanceHandover
  try simp only [↓State.endHandover_front, ↓State.setGroup_front, ↓ite_front, ite_self]
  repeat' (first | with_reducible rfl | (simp only [↓State.endHandover_front, ↓State.setGroup_front, ↓ite_front, ite_self]; done) | (with_reducible refine front_ite ?_ ?_) | (simp only [↓State.endHandover_front, ↓State.setGroup_front, ↓ite_front, ite_self]) | split)

theorem State.traceRows_front (s : State) :
    (State.traceRows s).front = s.front := by
  unfold State.traceRows
  simp only [↓State.traceRow_front, ↓foldOn_front, ↓ite_front, ite_self, implies_true]

theorem State.completeCoeffs_front (s : State) (l : LoopSlot) (t : Nat) :
    (State.completeCoeffs s l t).front = s.front := by
  unfold State.completeCoeffs
  simp only [↓State.finishTag_front, ↓foldl_front, ↓ite_front, ite_self, implies_true]

theorem State.maskChanged_front (s : State) :
    (State.maskChanged s).front = s.front := by
  rfl

theorem State.engineLost_front (s : State) (e : Fin 16) (masked : Bool) :
    (State.engineLost s e masked).front = s.front := by
  unfold State.engineLost
  simp only [↓State.axisFault_front, ↓State.latchUnit_front, ↓State.maskChanged_front, ↓State.setCell_front, ↓State.setEngine_front, ↓foldl_front, ↓ite_front, ite_self, implies_true]

theorem State.evalGroup_front (s : State) (key : Nat) (fresh : List (Nat × Nat)) (m : AxisIn) (sp : Setpoint) (seq : Word) (t : Nat) :
    (State.evalGroup s key fresh m sp seq t).front = s.front := by
  unfold State.evalGroup
  try simp only [↓State.advanceHandover_front, ↓State.axisFault_front, ↓State.completeCoeffs_front, ↓State.engineLost_front, ↓State.setAxis_front, ↓State.setGroup_front, ↓State.setSlot_front, ↓State.slotMiss_front, ↓State.traceEvent_front, ↓foldl_front, ↓ite_front, ite_self, implies_true]
  repeat' (first | with_reducible rfl | (simp only [↓State.advanceHandover_front, ↓State.axisFault_front, ↓State.completeCoeffs_front, ↓State.engineLost_front, ↓State.setAxis_front, ↓State.setGroup_front, ↓State.setSlot_front, ↓State.slotMiss_front, ↓State.traceEvent_front, ↓foldl_front, ↓ite_front, ite_self, implies_true]; done) | (with_reducible refine front_ite ?_ ?_) | (with_reducible refine (foldl_front _ _ _ fun s x => ?_).trans ?_) | (simp only [↓State.advanceHandover_front, ↓State.axisFault_front, ↓State.completeCoeffs_front, ↓State.engineLost_front, ↓State.setAxis_front, ↓State.setGroup_front, ↓State.setSlot_front, ↓State.slotMiss_front, ↓State.traceEvent_front, ↓foldl_front, ↓ite_front, ite_self, implies_true]) | split)

theorem State.spans_front (s : State) (slots : List (Nat × Nat)) :
    (State.spans s slots).front = s.front := by
  unfold State.spans
  simp only [↓State.setEngine_front, ↓foldOn_front, implies_true]

theorem State.activateLoops_front (s : State) (n : NodeRec) (loops : List Nat) (seq : Word) (bs : List Byte) :
    (State.activateLoops s n loops seq bs).front = s.front := by
  unfold State.activateLoops
  try simp only [↓State.activate_front, ↓foldOn_front, ↓ite_front, ite_self, implies_true]
  repeat' (first | with_reducible rfl | (simp only [↓State.activate_front, ↓foldOn_front, ↓ite_front, ite_self, implies_true]; done) | (with_reducible refine front_ite ?_ ?_) | (with_reducible refine (foldOn_front _ _ _ fun s x => ?_).trans ?_) | (simp only [↓State.activate_front, ↓foldOn_front, ↓ite_front, ite_self, implies_true]) | split)

theorem State.markSeen_front (s : State) (ps : List (Nat × Nat)) (seq : Word) :
    (State.markSeen s ps seq).front = s.front := by
  unfold State.markSeen
  simp only [↓State.setSlot_front, ↓foldl_front, implies_true]

theorem State.recordProbes_front (s : State) (a : Nat) (seq : Word) :
    (State.recordProbes s a seq).front = s.front := by
  unfold State.recordProbes
  simp only [↓State.setEngine_front, ↓foldOn_front, implies_true]

theorem State.axisBatch_front (s : State) (a : Nat) (m : AxisIn) (seq : Word) (sample : Nat) :
    (State.axisBatch s a m seq sample).front = s.front := by
  unfold State.axisBatch
  simp only [↓State.evalGroup_front, ↓State.markSeen_front, ↓State.recordProbes_front, ↓State.setAxis_front, ↓State.setChain_front, ↓State.setFree_front, ↓foldl_front, ↓ite_front, ite_self, implies_true]

theorem State.takeAxes_front (s : State) (n : NodeRec) (seq : Word) (bs : List Byte) :
    (State.takeAxes s n seq bs).front = s.front := by
  unfold State.takeAxes
  simp only [↓State.setAxis_front, ↓foldl_front, ↓ite_front, ite_self, implies_true]

theorem State.coeffsWhileFaulted_front (s : State) (a : Nat) (t : Nat) :
    (State.coeffsWhileFaulted s a t).front = s.front := by
  unfold State.coeffsWhileFaulted
  try simp only [↓State.completeCoeffs_front, ↓State.setSlot_front, ↓foldl_front, ↓ite_front, ite_self, implies_true]
  repeat' (first | with_reducible rfl | (simp only [↓State.completeCoeffs_front, ↓State.setSlot_front, ↓foldl_front, ↓ite_front, ite_self, implies_true]; done) | (with_reducible refine front_ite ?_ ?_) | (with_reducible refine (foldl_front _ _ _ fun s x => ?_).trans ?_) | (simp only [↓State.completeCoeffs_front, ↓State.setSlot_front, ↓foldl_front, ↓ite_front, ite_self, implies_true]) | split)

theorem State.activateEngines_front (s : State) (old : Option Cell) (new : Cell) (pl : Placement) :
    (State.activateEngines s old new pl).front = s.front := by
  unfold State.activateEngines
  simp only [↓State.endHandover_front, ↓State.finishTag_front, ↓State.setLoops_front, ↓foldl_front, ↓foldOn_front, ↓ite_front, ite_self, implies_true]

/-! ### Operations of Nibble -/

theorem State.countMiss_front (s : State) :
    (State.countMiss s).front = s.front := by
  rfl

theorem State.swapDelivery_front (s : State) (d : Delivery) :
    (State.swapDelivery s d).front = s.front := by
  unfold State.swapDelivery
  refine front_ite rfl ((foldl_front _ _ _ fun s r => ?_).trans (front_ite (State.countMiss_front _) rfl))
  exact front_ite (State.setNibble_front _ _ (NibbleSt.missRange_tame _ _ _ _).front)
    (State.setNibble_front _ _ (NibbleSt.deliver_tame _ _ _).front)

theorem State.swapMiss_front (s : State) (d : Delivery) :
    (State.swapMiss s d).front = s.front := by
  unfold State.swapMiss
  exact front_ite rfl ((foldl_front _ _ _ fun s r => State.setNibble_front _ _ (NibbleSt.missRange_tame _ _ _ _).front).trans
    (State.countMiss_front _))

theorem State.readmitPoints_front (s : State) (node : Nat) :
    (State.readmitPoints s node).front = s.front := by
  unfold State.readmitPoints
  refine State.setNibble_front _ _ ?_
  exact (Tame.foldl _ _ (fun y _ => Tame.foldOn _ _ (fun z _ => z.put_tame _ _) y) _).front

theorem State.removePoints_front (s : State) (node : Nat) :
    (State.removePoints s node).front = s.front := by
  rfl

theorem State.deliverSub_front (s : State) (sub : Fin 16) :
    (State.deliverSub s sub).front = s.front := by
  unfold State.deliverSub
  try simp only [↓State.finishN_front, ↓State.sendBenjo_front, ↓State.setSub_front, ↓ite_front, ite_self]
  repeat' (first | with_reducible rfl | (simp only [↓State.finishN_front, ↓State.sendBenjo_front, ↓State.setSub_front, ↓ite_front, ite_self]; done) | (with_reducible refine front_ite ?_ ?_) | (simp only [↓State.finishN_front, ↓State.sendBenjo_front, ↓State.setSub_front, ↓ite_front, ite_self]) | split)

theorem State.dropDelivered_front (s : State) (sub : Fin 16) (n : Nat) :
    (State.dropDelivered s sub n).front = s.front := by
  unfold State.dropDelivered
  try simp only [↓State.finishOk_front, ↓State.setSub_front]
  repeat' (first | with_reducible rfl | (simp only [↓State.finishOk_front, ↓State.setSub_front]; done) | (with_reducible refine front_ite ?_ ?_) | (simp only [↓State.finishOk_front, ↓State.setSub_front]) | split)

theorem State.publish_front (s : State) (e : Ev) :
    (State.publish s e).front = s.front := by
  unfold State.publish
  simp only [↓State.deliverSub_front, ↓State.setSub_front, ↓foldOn_front, ↓ite_front, ite_self, implies_true]

theorem State.release_front (s : State) (e : Ev) :
    (State.release s e).front = s.front := by
  unfold State.release
  dsimp only
  refine (State.publish_front _ _).trans (State.setNibble_front _ _ ?_)
  split
  · rfl
  · refine (Tame.foldl _ _ (fun y r => ?_) _).front
    split
    · exact y.writeOut_tame _ _ _
    · exact Tame.refl y

theorem State.makeRoom_front (s : State) :
    (State.makeRoom s).front = s.front := by
  unfold State.makeRoom
  try simp only [↓State.release_front, ↓State.setNibble_front, ↓ite_front, ite_self]
  repeat' (first | with_reducible rfl | (simp only [↓State.release_front, ↓State.setNibble_front, ↓ite_front, ite_self]; done) | (with_reducible refine front_ite ?_ ?_) | (simp only [↓State.release_front, ↓State.setNibble_front, ↓ite_front, ite_self]) | split)

theorem State.takeEvent_front (s : State) (e : Ev) :
    (State.takeEvent s e).front = s.front := by
  unfold State.takeEvent
  try simp only [↓State.makeRoom_front, ↓State.setNibble_front, ↓ite_front, ite_self]
  repeat' (first | with_reducible rfl | (simp only [↓State.makeRoom_front, ↓State.setNibble_front, ↓ite_front, ite_self]; done) | (with_reducible refine front_ite ?_ ?_) | (simp only [↓State.makeRoom_front, ↓State.setNibble_front, ↓ite_front, ite_self]) | split)

theorem State.nodeEvent_front (s : State) (node : Nat) (base : Nat) (r : List Byte) :
    (State.nodeEvent s node base r).front = s.front := by
  unfold State.nodeEvent
  try simp only [↓State.setNibble_front, ↓State.takeEvent_front, ↓ite_front, ite_self]
  repeat' (first | with_reducible rfl | (simp only [↓State.setNibble_front, ↓State.takeEvent_front, ↓ite_front, ite_self]; done) | (with_reducible refine front_ite ?_ ?_) | (simp only [↓State.setNibble_front, ↓State.takeEvent_front, ↓ite_front, ite_self]) | split)

theorem State.takeDelivery_front (s : State) (node : Nat) (seq : Word) (bs : List Byte) :
    (State.takeDelivery s node seq bs).front = s.front := by
  unfold State.takeDelivery
  simp only [↓State.nodeEvent_front, ↓State.setNibble_front, ↓foldl_front, ↓foldOn_front, ↓ite_front, ite_self, implies_true]

theorem State.missDelivery_front (s : State) (node : Nat) (seq : Word) :
    (State.missDelivery s node seq).front = s.front := by
  unfold State.missDelivery
  simp only [↓State.setNibble_front, ↓ite_front, ite_self]

theorem State.activatePoints_front (s : State) (entered : List Delivery) :
    (State.activatePoints s entered).front = s.front := by
  unfold State.activatePoints
  try simp only [↓State.activate_front, ↓foldOn_front, ↓ite_front, ite_self, implies_true]
  repeat' (first | with_reducible rfl | (simp only [↓State.activate_front, ↓foldOn_front, ↓ite_front, ite_self, implies_true]; done) | (with_reducible refine front_ite ?_ ?_) | (with_reducible refine (foldOn_front _ _ _ fun s x => ?_).trans ?_) | (simp only [↓State.activate_front, ↓foldOn_front, ↓ite_front, ite_self, implies_true]) | split)

theorem State.setWindow_front (s : State) (w : Nat) :
    (State.setWindow s w).front = s.front := by
  rfl

theorem State.holdRemoved_front (s : State) :
    (State.holdRemoved s).front = s.front := by
  rfl

theorem State.pointCommand_front (s : State) (p : Pkt) (force : Bool) :
    (State.pointCommand s p force).front = s.front := by
  unfold State.pointCommand
  try simp only [↓State.finish_front, ↓State.setNibble_front, ↓ite_front, ite_self]
  repeat' (first | with_reducible rfl | (simp only [↓State.finish_front, ↓State.setNibble_front, ↓ite_front, ite_self]; done) | (with_reducible refine front_ite ?_ ?_) | (simp only [↓State.finish_front, ↓State.setNibble_front, ↓ite_front, ite_self]) | split)

/-! ### Operations of Ring -/

theorem State.putHop_front (s : State) (r : Fin 4) (h : Nat) (n : NodeSt) :
    (State.putHop s r h n).front = s.front := by
  rfl

theorem State.ringEmit_front (s : State) (r : Fin 4) (laneB : Bool) (at_ : Nat) (bs : List Byte) :
    (State.ringEmit s r laneB at_ bs).front = s.front := by
  rfl

theorem State.ringSendAt_front (s : State) (r : Fin 4) (laneB : Bool) (at_ : Nat) (bs : List Byte) :
    (State.ringSendAt s r laneB at_ bs).front = s.front := by
  unfold State.ringSendAt
  simp only [↓State.ringEmit_front, ↓State.setRing_front, ↓ite_front, ite_self]

theorem State.sendCopies_front (s : State) (r : Fin 4) (f : HdrFields) (payload : List Byte) :
    (State.sendCopies s r f payload).front = s.front := by
  unfold State.sendCopies
  simp only [↓State.ringSendAt_front, ↓foldl_front, implies_true]

theorem State.sendStart_front (s : State) (r : Fin 4) (laneB : Bool) (type aux : Nat) (payload : List Byte) :
    (State.sendStart s r laneB type aux payload).front = s.front := by
  rfl

theorem State.ringDown_front (s : State) (r : Fin 4) (k : Option NoticeKind) (b : Nat) :
    (State.ringDown s r k b).front = s.front := by
  unfold State.ringDown
  try simp only [↓State.notice_front, ↓State.setRing_front]
  repeat' (first | with_reducible rfl | (simp only [↓State.notice_front, ↓State.setRing_front]; done) | (with_reducible refine front_ite ?_ ?_) | (simp only [↓State.notice_front, ↓State.setRing_front]) | split)

theorem State.ringListen_front (s : State) (r : Fin 4) :
    (State.ringListen s r).front = s.front := by
  unfold State.ringListen
  simp only [↓State.setRing_front, ↓ite_front, ite_self]

theorem State.sendPoll_front (s : State) (r : Fin 4) :
    (State.sendPoll s r).front = s.front := by
  rfl

theorem State.enterRanging_front (s : State) (r : Fin 4) (starter : Bool) :
    (State.enterRanging s r starter).front = s.front := by
  unfold State.enterRanging
  simp only [↓State.ringDown_front, ↓State.sendPoll_front, ↓State.setRing_front, ↓foldl_front, ↓ite_front, ite_self, implies_true]

theorem State.sendConfig_front (s : State) (r : Fin 4) :
    (State.sendConfig s r).front = s.front := by
  unfold State.sendConfig
  try simp only [↓State.sendPoll_front, ↓State.sendStart_front, ↓State.setRing_front, ↓ite_front, ite_self]
  repeat' (first | with_reducible rfl | (simp only [↓State.sendPoll_front, ↓State.sendStart_front, ↓State.setRing_front, ↓ite_front, ite_self]; done) | (with_reducible refine front_ite ?_ ?_) | (simp only [↓State.sendPoll_front, ↓State.sendStart_front, ↓State.setRing_front, ↓ite_front, ite_self]) | split)

theorem State.enterConfig_front (s : State) (r : Fin 4) :
    (State.enterConfig s r).front = s.front := by
  unfold State.enterConfig
  simp only [↓State.ringDown_front, ↓State.sendConfig_front, ↓State.setRing_front, ↓ite_front, ite_self]

theorem State.sendActivate_front (s : State) (r : Fin 4) :
    (State.sendActivate s r).front = s.front := by
  unfold State.sendActivate
  simp only [↓State.sendConfig_front, ↓State.setRing_front, ↓ite_front, ite_self]

theorem State.nextPoll_front (s : State) (r : Fin 4) :
    (State.nextPoll s r).front = s.front := by
  unfold State.nextPoll
  try simp only [↓State.enterConfig_front, ↓State.sendActivate_front, ↓State.sendPoll_front, ↓State.setRing_front, ↓ite_front, ite_self]
  repeat' (first | with_reducible rfl | (simp only [↓State.enterConfig_front, ↓State.sendActivate_front, ↓State.sendPoll_front, ↓State.setRing_front, ↓ite_front, ite_self]; done) | (with_reducible refine front_ite ?_ ?_) | (simp only [↓State.enterConfig_front, ↓State.sendActivate_front, ↓State.sendPoll_front, ↓State.setRing_front, ↓ite_front, ite_self]) | split)

theorem State.sendCold_front (s : State) (r : Fin 4) :
    (State.sendCold s r).front = s.front := by
  rfl

theorem State.enterCold_front (s : State) (r : Fin 4) :
    (State.enterCold s r).front = s.front := by
  rfl

theorem State.hearDevice_front (s : State) (r : Fin 4) (coldstart : Bool) :
    (State.hearDevice s r coldstart).front = s.front := by
  unfold State.hearDevice
  try simp only [↓State.enterRanging_front, ↓State.ringDown_front, ↓State.setRing_front, ↓ite_front, ite_self]
  repeat' (first | with_reducible rfl | (simp only [↓State.enterRanging_front, ↓State.ringDown_front, ↓State.setRing_front, ↓ite_front, ite_self]; done) | (with_reducible refine front_ite ?_ ?_) | (simp only [↓State.enterRanging_front, ↓State.ringDown_front, ↓State.setRing_front, ↓ite_front, ite_self]) | split)

theorem State.ringError_front (s : State) (r : Fin 4) (hi lo : Nat) :
    (State.ringError s r hi lo).front = s.front := by
  rfl

theorem State.ringForward_front (s : State) (r : Fin 4) (laneB : Bool) (frame : List Byte) :
    (State.ringForward s r laneB frame).front = s.front := by
  unfold State.ringForward
  simp only [↓State.emit_front, ↓ite_front, ite_self]

theorem State.takeCold_front (s : State) (r : Fin 4) (own : Bool) (h : List Byte) :
    (State.takeCold s r own h).front = s.front := by
  unfold State.takeCold
  simp only [↓State.hearDevice_front, ↓State.ringDown_front, ↓State.setRing_front, ↓ite_front, ite_self]

theorem State.takeRangeRsp_front (s : State) (r : Fin 4) (arr : Int) (frame h : List Byte) :
    (State.takeRangeRsp s r arr frame h).front = s.front := by
  unfold State.takeRangeRsp
  simp only [↓State.nextPoll_front, ↓State.putHop_front, ↓State.setRing_front, ↓ite_front, ite_self]

theorem State.removeNode_front (s : State) (r : Fin 4) (h : Nat) (result : Nat) :
    (State.removeNode s r h result).front = s.front := by
  unfold State.removeNode
  try simp only [↓State.axisFault_front, ↓State.notice_front, ↓State.putHop_front, ↓State.removePoints_front, ↓State.sendMgmt_front, ↓State.setRing_front, ↓foldl_front, ↓ite_front, ite_self, implies_true]
  repeat' (first | with_reducible rfl | (simp only [↓State.axisFault_front, ↓State.notice_front, ↓State.putHop_front, ↓State.removePoints_front, ↓State.sendMgmt_front, ↓State.setRing_front, ↓foldl_front, ↓ite_front, ite_self, implies_true]; done) | (with_reducible refine front_ite ?_ ?_) | (with_reducible refine (foldl_front _ _ _ fun s x => ?_).trans ?_) | (simp only [↓State.axisFault_front, ↓State.notice_front, ↓State.putHop_front, ↓State.removePoints_front, ↓State.sendMgmt_front, ↓State.setRing_front, ↓foldl_front, ↓ite_front, ite_self, implies_true]) | split)

theorem State.countResult_front (s : State) (r : Fin 4) (h : Nat) (res : SlotResult) :
    (State.countResult s r h res).front = s.front := by
  unfold State.countResult
  try simp only [↓State.putHop_front, ↓State.removeNode_front, ↓State.setRing_front, ↓ite_front, ite_self]
  repeat' (first | with_reducible rfl | (simp only [↓State.putHop_front, ↓State.removeNode_front, ↓State.setRing_front, ↓ite_front, ite_self]; done) | (with_reducible refine front_ite ?_ ?_) | (simp only [↓State.putHop_front, ↓State.removeNode_front, ↓State.setRing_front, ↓ite_front, ite_self]) | split)

theorem State.closePrev_front (s : State) (r : Fin 4) (h : Nat) :
    (State.closePrev s r h).front = s.front := by
  unfold State.closePrev
  try simp only [↓State.countResult_front, ↓State.putHop_front]
  repeat' (first | with_reducible rfl | (simp only [↓State.countResult_front, ↓State.putHop_front]; done) | (with_reducible refine front_ite ?_ ?_) | (simp only [↓State.countResult_front, ↓State.putHop_front]) | split)

theorem State.closeCycle_front (s : State) (r : Fin 4) (h : Nat) :
    (State.closeCycle s r h).front = s.front := by
  unfold State.closeCycle
  try simp only [↓State.closePrev_front, ↓State.countResult_front, ↓State.putHop_front, ↓ite_front, ite_self]
  repeat' (first | with_reducible rfl | (simp only [↓State.closePrev_front, ↓State.countResult_front, ↓State.putHop_front, ↓ite_front, ite_self]; done) | (with_reducible refine front_ite ?_ ?_) | (simp only [↓State.closePrev_front, ↓State.countResult_front, ↓State.putHop_front, ↓ite_front, ite_self]) | split)

theorem State.missOpen_front (s : State) (r : Fin 4) (h : Nat) :
    (State.missOpen s r h).front = s.front := by
  unfold State.missOpen
  try simp only [↓State.missDelivery_front, ↓State.putHop_front, ↓ite_front, ite_self]
  repeat' (first | with_reducible rfl | (simp only [↓State.missDelivery_front, ↓State.putHop_front, ↓ite_front, ite_self]; done) | (with_reducible refine front_ite ?_ ?_) | (simp only [↓State.missDelivery_front, ↓State.putHop_front, ↓ite_front, ite_self]) | split)

theorem State.settleCycle_front (s : State) (r : Fin 4) (h : Nat) :
    (State.settleCycle s r h).front = s.front := by
  unfold State.settleCycle
  simp only [↓State.closeCycle_front, ↓State.missOpen_front, ↓State.putHop_front, ↓ite_front, ite_self]

theorem State.newCycle_front (s : State) (r : Fin 4) (h : Nat) (seq : Word) :
    (State.newCycle s r h seq).front = s.front := by
  unfold State.newCycle
  simp only [↓State.closeCycle_front, ↓State.closePrev_front, ↓State.missOpen_front, ↓State.putHop_front, ↓ite_front, ite_self]

theorem State.takeCopy_front (s : State) (r : Fin 4) (h : Nat) (rec : NodeRec) (seq : Word) (null fault : Bool) (payload : List Byte) :
    (State.takeCopy s r h rec seq null fault payload).front = s.front := by
  unfold State.takeCopy
  simp only [↓State.missDelivery_front, ↓State.putHop_front, ↓State.takeAxes_front, ↓State.takeDelivery_front, ↓ite_front, ite_self]

theorem State.nodeCopy_front (s : State) (r : Fin 4) (laneB : Bool) (arr : Int) (bs : List Byte) :
    (State.nodeCopy s r laneB arr bs).front = s.front := by
  unfold State.nodeCopy
  try simp only [↓State.newCycle_front, ↓State.putHop_front, ↓State.ringError_front, ↓State.settleCycle_front, ↓State.takeCopy_front, ↓ite_front, ite_self]
  repeat' (first | with_reducible rfl | (simp only [↓State.newCycle_front, ↓State.putHop_front, ↓State.ringError_front, ↓State.settleCycle_front, ↓State.takeCopy_front, ↓ite_front, ite_self]; done) | (with_reducible refine front_ite ?_ ?_) | (simp only [↓State.newCycle_front, ↓State.putHop_front, ↓State.ringError_front, ↓State.settleCycle_front, ↓State.takeCopy_front, ↓ite_front, ite_self]) | split)

theorem State.takeRecords_front (s : State) (r : Fin 4) (gen : Nat) (recs : List (List Byte)) :
    (State.takeRecords s r gen recs).front = s.front := by
  unfold State.takeRecords
  try simp only [↓State.putHop_front, ↓State.setRing_front, ↓foldl_front, ↓ite_front, ite_self, implies_true]
  repeat' (first | with_reducible rfl | (simp only [↓State.putHop_front, ↓State.setRing_front, ↓foldl_front, ↓ite_front, ite_self, implies_true]; done) | (with_reducible refine front_ite ?_ ?_) | (with_reducible refine (foldl_front _ _ _ fun s x => ?_).trans ?_) | (simp only [↓State.putHop_front, ↓State.setRing_front, ↓foldl_front, ↓ite_front, ite_self, implies_true]) | split)

theorem State.answerPoll_front (s : State) (r : Fin 4) (laneB : Bool) (arr : Int) :
    (State.answerPoll s r laneB arr).front = s.front := by
  rfl

theorem State.strayGen_front (s : State) (r : Fin 4) (type gen : Nat) :
    (State.strayGen s r type gen).front = s.front := by
  unfold State.strayGen
  simp only [↓State.ringError_front, ↓ite_front, ite_self]

theorem State.deviceFrame_front (s : State) (r : Fin 4) (laneB : Bool) (arr : Int) (bs : List Byte) :
    (State.deviceFrame s r laneB arr bs).front = s.front := by
  unfold State.deviceFrame
  try simp only [↓State.answerPoll_front, ↓State.hearDevice_front, ↓State.pairTo_front, ↓State.ringError_front, ↓State.setRing_front, ↓State.setTwin_front, ↓State.strayGen_front, ↓State.takeRecords_front, ↓ite_front, ite_self]
  repeat' (first | with_reducible rfl | (simp only [↓State.answerPoll_front, ↓State.hearDevice_front, ↓State.pairTo_front, ↓State.ringError_front, ↓State.setRing_front, ↓State.setTwin_front, ↓State.strayGen_front, ↓State.takeRecords_front, ↓ite_front, ite_self]; done) | (with_reducible refine front_ite ?_ ?_) | (simp only [↓State.answerPoll_front, ↓State.hearDevice_front, ↓State.pairTo_front, ↓State.ringError_front, ↓State.setRing_front, ↓State.setTwin_front, ↓State.strayGen_front, ↓State.takeRecords_front, ↓ite_front, ite_self]) | split)

theorem State.ownFrame_front (s : State) (r : Fin 4) (arr : Int) (bs : List Byte) :
    (State.ownFrame s r arr bs).front = s.front := by
  unfold State.ownFrame
  try simp only [↓State.setRing_front, ↓State.takeCold_front, ↓ite_front, ite_self]
  repeat' (first | with_reducible rfl | (simp only [↓State.setRing_front, ↓State.takeCold_front, ↓ite_front, ite_self]; done) | (with_reducible refine front_ite ?_ ?_) | (simp only [↓State.setRing_front, ↓State.takeCold_front, ↓ite_front, ite_self]) | split)

theorem State.takeNodeFrame_front (s : State) (r : Fin 4) (laneB : Bool) (arr : Int) (bs : List Byte) :
    (State.takeNodeFrame s r laneB arr bs).front = s.front := by
  unfold State.takeNodeFrame
  simp only [↓State.nodeCopy_front, ↓State.ringError_front, ↓State.setRing_front, ↓ite_front, ite_self]

theorem State.endCmds_front (s : State) (r : Fin 4) :
    (State.endCmds s r).front = s.front := by
  unfold State.endCmds
  simp only [↓State.setAxis_front, ↓foldOn_front, implies_true]

theorem State.sendService_front (s : State) (r : Fin 4) (head : Nat) (seq : Word) :
    (State.sendService s r head seq).front = s.front := by
  unfold State.sendService
  try simp only [↓State.sendCopies_front, ↓State.setRing_front, ↓ite_front, ite_self]
  repeat' (first | with_reducible rfl | (simp only [↓State.sendCopies_front, ↓State.setRing_front, ↓ite_front, ite_self]; done) | (with_reducible refine front_ite ?_ ?_) | (simp only [↓State.sendCopies_front, ↓State.setRing_front, ↓ite_front, ite_self]) | split)

theorem State.checkReturn_front (s : State) (r : Fin 4) :
    (State.checkReturn s r).front = s.front := by
  unfold State.checkReturn
  simp only [↓State.notice_front, ↓State.setRing_front, ↓foldl_front, ↓ite_front, ite_self, implies_true]

theorem State.sendSummary_front (s : State) (r : Fin 4) (seq : Word) :
    (State.sendSummary s r seq).front = s.front := by
  unfold State.sendSummary
  simp only [↓State.sendBenjo_front, ↓State.setRing_front, ↓foldl_front, ↓ite_front, ite_self, implies_true]

theorem State.ringTick_front (s : State) (r : Fin 4) :
    (State.ringTick s r).front = s.front := by
  unfold State.ringTick
  try simp only [↓State.ringEmit_front, ↓State.sendCold_front, ↓State.sendConfig_front, ↓State.sendService_front, ↓State.setRing_front, ↓foldl_front, ↓ite_front, ite_self, implies_true]
  repeat' (first | with_reducible rfl | (simp only [↓State.ringEmit_front, ↓State.sendCold_front, ↓State.sendConfig_front, ↓State.sendService_front, ↓State.setRing_front, ↓foldl_front, ↓ite_front, ite_self, implies_true]; done) | (with_reducible refine front_ite ?_ ?_) | (with_reducible refine (foldl_front _ _ _ fun s x => ?_).trans ?_) | (simp only [↓State.ringEmit_front, ↓State.sendCold_front, ↓State.sendConfig_front, ↓State.sendService_front, ↓State.setRing_front, ↓foldl_front, ↓ite_front, ite_self, implies_true]) | split)

theorem State.announceRings_front (s : State) (nc : Cell) (np : Placement) (at_ : Nat) :
    (State.announceRings s nc np at_).front = s.front := by
  unfold State.announceRings
  simp only [↓State.setRing_front, ↓foldOn_front, ↓ite_front, ite_self, implies_true]

theorem State.activateRings_front (s : State) (oc : Option Cell) (op : Placement) :
    (State.activateRings s oc op).front = s.front := by
  unfold State.activateRings
  try simp only [↓State.removeNode_front, ↓State.ringDown_front, ↓State.ringListen_front, ↓State.setRing_front, ↓foldl_front, ↓foldOn_front, ↓ite_front, ite_self, implies_true]
  repeat' (first | with_reducible rfl | (simp only [↓State.removeNode_front, ↓State.ringDown_front, ↓State.ringListen_front, ↓State.setRing_front, ↓foldl_front, ↓foldOn_front, ↓ite_front, ite_self, implies_true]; done) | (with_reducible refine front_ite ?_ ?_) | (with_reducible refine (foldOn_front _ _ _ fun s x => ?_).trans ?_) | (with_reducible refine (foldl_front _ _ _ fun s x => ?_).trans ?_) | (simp only [↓State.removeNode_front, ↓State.ringDown_front, ↓State.ringListen_front, ↓State.setRing_front, ↓foldl_front, ↓foldOn_front, ↓ite_front, ite_self, implies_true]) | split)

theorem State.readmitNodes_front (s : State) :
    (State.readmitNodes s).front = s.front := by
  unfold State.readmitNodes
  try simp only [↓State.finishTag_front, ↓State.putHop_front, ↓State.readmitPoints_front, ↓State.setAxis_front, ↓foldl_front, ↓foldOn_front, ↓ite_front, ite_self, implies_true]
  repeat' (first | with_reducible rfl | (simp only [↓State.finishTag_front, ↓State.putHop_front, ↓State.readmitPoints_front, ↓State.setAxis_front, ↓foldl_front, ↓foldOn_front, ↓ite_front, ite_self, implies_true]; done) | (with_reducible refine front_ite ?_ ?_) | (with_reducible refine (foldOn_front _ _ _ fun s x => ?_).trans ?_) | (with_reducible refine (foldl_front _ _ _ fun s x => ?_).trans ?_) | (simp only [↓State.finishTag_front, ↓State.putHop_front, ↓State.readmitPoints_front, ↓State.setAxis_front, ↓foldl_front, ↓foldOn_front, ↓ite_front, ite_self, implies_true]) | split)

/-! ### Operations of Separation -/

theorem State.frameFails_front (s : State) (node err : Nat) :
    (State.frameFails s node err).front = s.front := by
  rfl

theorem State.checkLinks_front (s : State) :
    (State.checkLinks s).front = s.front := by
  unfold State.checkLinks
  simp only [↓State.setSep_front, ↓foldl_front, ↓ite_front, ite_self, implies_true]

theorem State.checkSources_front (s : State) :
    (State.checkSources s).front = s.front := by
  unfold State.checkSources
  simp only [↓State.setSep_front, ↓foldl_front, ↓ite_front, ite_self, implies_true]

theorem State.sepDecide_front (s : State) (hb1 hb2 : Bool) (c : Fin 16) :
    (State.sepDecide s hb1 hb2 c).front = s.front := by
  unfold State.sepDecide
  simp only [↓State.setSep_front, ↓State.stopIndex_front, ↓foldl_front, ↓ite_front, ite_self, implies_true]

theorem State.writeCaps_front (s : State) :
    (State.writeCaps s).front = s.front := by
  unfold State.writeCaps
  try simp only [↓State.setSlot_front, ↓foldl_front, ↓ite_front, ite_self, implies_true]
  repeat' (first | with_reducible rfl | (simp only [↓State.setSlot_front, ↓foldl_front, ↓ite_front, ite_self, implies_true]; done) | (with_reducible refine front_ite ?_ ?_) | (with_reducible refine (foldl_front _ _ _ fun s x => ?_).trans ?_) | (simp only [↓State.setSlot_front, ↓foldl_front, ↓ite_front, ite_self, implies_true]) | split)

theorem State.activateLinks_front (s : State) (old : Option Cell) (new : Cell) :
    (State.activateLinks s old new).front = s.front := by
  unfold State.activateLinks
  simp only [↓State.setSep_front, ↓foldl_front, ↓foldOn_front, ↓ite_front, ite_self, implies_true]

/-! ### Operations of Cells -/

theorem State.takeCell_front (s : State) (p : Pkt) (kind : JobKind) (bs : List Byte) :
    (State.takeCell s p kind bs).front = s.front := by
  unfold State.takeCell
  try simp only [↓State.finish_front, ↓State.setCell_front, ↓ite_front, ite_self]
  repeat' (first | with_reducible rfl | (simp only [↓State.finish_front, ↓State.setCell_front, ↓ite_front, ite_self]; done) | (with_reducible refine front_ite ?_ ?_) | (simp only [↓State.finish_front, ↓State.setCell_front, ↓ite_front, ite_self]) | split)

theorem State.endJob_front (s : State) (j : Job) (v : Verdict) :
    (State.endJob s j v).front = s.front := by
  unfold State.endJob
  simp only [↓State.dropJob_front, ↓State.dropStaged_front, ↓State.finishTag_front, ↓State.sendHello_front, ↓ite_front, ite_self]

theorem State.announceJob_front (s : State) (j : Job) :
    (State.announceJob s j).front = s.front := by
  unfold State.announceJob
  simp only [↓State.announceRings_front, ↓State.dropStaged_front, ↓State.sendHello_front, ↓State.setCell_front, ↓State.stageProblems_front, ↓State.withdrawSwap_front, ↓ite_front, ite_self]

theorem State.reportShed_front (s : State) (log : List (Nat × Verdict)) :
    (State.reportShed s log).front = s.front := by
  unfold State.reportShed
  simp only [↓State.notice_front, ↓foldl_front, implies_true]

theorem State.takeOut_front (s : State) (c : Nat) :
    (State.takeOut s c).front = s.front := by
  unfold State.takeOut
  simp only [↓State.motionStop34_front, ↓State.shedChain_front]

theorem State.placeRegrade_front (s : State) (j : Job) :
    (State.placeRegrade s j).front = s.front := by
  unfold State.placeRegrade
  try simp only [↓State.reportShed_front, ↓State.sendHello_front, ↓State.setCell_front, ↓State.takeOut_front, ↓State.withdrawSwap_front, ↓foldl_front, ↓ite_front, ite_self, implies_true]
  repeat' (first | with_reducible rfl | (simp only [↓State.reportShed_front, ↓State.sendHello_front, ↓State.setCell_front, ↓State.takeOut_front, ↓State.withdrawSwap_front, ↓foldl_front, ↓ite_front, ite_self, implies_true]; done) | (with_reducible refine front_ite ?_ ?_) | (with_reducible refine (foldl_front _ _ _ fun s x => ?_).trans ?_) | (simp only [↓State.reportShed_front, ↓State.sendHello_front, ↓State.setCell_front, ↓State.takeOut_front, ↓State.withdrawSwap_front, ↓foldl_front, ↓ite_front, ite_self, implies_true]) | split)

theorem State.placedJob_front (s : State) (j : Job) :
    (State.placedJob s j).front = s.front := by
  unfold State.placedJob
  try simp only [↓State.announceJob_front, ↓State.endJob_front, ↓State.setCell_front, ↓State.setQueue_front, ↓State.toPending_front, ↓ite_front, ite_self]
  repeat' (first | with_reducible rfl | (simp only [↓State.announceJob_front, ↓State.endJob_front, ↓State.setCell_front, ↓State.setQueue_front, ↓State.toPending_front, ↓ite_front, ite_self]; done) | (with_reducible refine front_ite ?_ ?_) | (simp only [↓State.announceJob_front, ↓State.endJob_front, ↓State.setCell_front, ↓State.setQueue_front, ↓State.toPending_front, ↓ite_front, ite_self]) | split)

theorem State.placeJob_front (s : State) (j : Job) :
    (State.placeJob s j).front = s.front := by
  unfold State.placeJob
  try simp only [↓State.announceJob_front, ↓State.endJob_front, ↓State.placedJob_front, ↓State.reportShed_front, ↓ite_front, ite_self]
  repeat' (first | with_reducible rfl | (simp only [↓State.announceJob_front, ↓State.endJob_front, ↓State.placedJob_front, ↓State.reportShed_front, ↓ite_front, ite_self]; done) | (with_reducible refine front_ite ?_ ?_) | (simp only [↓State.announceJob_front, ↓State.endJob_front, ↓State.placedJob_front, ↓State.reportShed_front, ↓ite_front, ite_self]) | split)

theorem State.withdraw_front (s : State) (j : Job) :
    (State.withdraw s j).front = s.front := by
  unfold State.withdraw
  simp only [↓State.endJob_front]

theorem State.activateSolver_front (s : State) (j : Job) :
    (State.activateSolver s j).front = s.front := by
  unfold State.activateSolver
  simp only [↓State.setSolver_front, ↓State.stageProblems_front, ↓foldl_front, ↓foldOn_front, ↓ite_front, ite_self, implies_true]

theorem State.activateKernels_front (s : State) (j : Job) :
    (State.activateKernels s j).front = s.front := by
  rfl

theorem State.activateChains_front (s : State) (had : Bool) (j : Job) :
    (State.activateChains s had j).front = s.front := by
  unfold State.activateChains
  simp only [↓State.enterBath_front, ↓State.setMotion_front, ↓foldl_front, ↓foldOn_front, ↓ite_front, ite_self, implies_true]

theorem State.leavePair_front (s : State) :
    (State.leavePair s).front = s.front := by
  unfold State.leavePair
  simp only [↓State.pairTo_front, ↓State.setTwin_front, ↓ite_front, ite_self]

theorem State.showPlaced_front (s : State) :
    (State.showPlaced s).front = s.front := by
  unfold State.showPlaced
  simp only [↓State.sendHello_front, ↓ite_front, ite_self]

/-! ### Operations of Plan -/

theorem State.takeOver_front (s : State) :
    (State.takeOver s).front = s.front := by
  unfold State.takeOver
  try simp only [↓State.passSync_front, ↓State.setTwin_front, ↓ite_front, ite_self]
  repeat' (first | with_reducible rfl | (simp only [↓State.passSync_front, ↓State.setTwin_front, ↓ite_front, ite_self]; done) | (with_reducible refine front_ite ?_ ?_) | (simp only [↓State.passSync_front, ↓State.setTwin_front, ↓ite_front, ite_self]) | split)

theorem State.enterBracket_front (s : State) :
    (State.enterBracket s).front = s.front := by
  unfold State.enterBracket
  simp only [↓State.maskChanged_front, ↓State.setTwin_front, ↓ite_front, ite_self]

theorem State.applyCmds_front (s : State) (m : MotionSt) (c : Fin 16) :
    (State.applyCmds s m c).front = s.front := by
  unfold State.applyCmds
  try simp only [↓State.applyResume_front, ↓State.applyStop_front, ↓State.setChain_front, ↓ite_front, ite_self]
  repeat' (first | with_reducible rfl | (simp only [↓State.applyResume_front, ↓State.applyStop_front, ↓State.setChain_front, ↓ite_front, ite_self]; done) | (with_reducible refine front_ite ?_ ?_) | (simp only [↓State.applyResume_front, ↓State.applyStop_front, ↓State.setChain_front, ↓ite_front, ite_self]) | split)

theorem State.reachBarrier_front (s : State) (c : Fin 16) (r : List Byte) :
    (State.reachBarrier s c r).front = s.front := by
  unfold State.reachBarrier
  simp only [↓State.segFault_front, ↓State.setChain_front, ↓foldOn_front, ↓ite_front, ite_self, implies_true]

theorem State.nextSegment_front (s : State) (c : Fin 16) (t0 : Word) :
    (State.nextSegment s c t0).front = s.front := by
  unfold State.nextSegment
  try simp only [↓State.reachBarrier_front, ↓State.setChain_front, ↓ite_front, ite_self]
  repeat' (first | with_reducible rfl | (simp only [↓State.reachBarrier_front, ↓State.setChain_front, ↓ite_front, ite_self]; done) | (with_reducible refine front_ite ?_ ?_) | (simp only [↓State.reachBarrier_front, ↓State.setChain_front, ↓ite_front, ite_self]) | split)

theorem State.segmentDone_front (s : State) (c : Fin 16) (held : Option (List Word)) :
    (State.segmentDone s c held).front = s.front := by
  unfold State.segmentDone
  try simp only [↓State.nextSegment_front, ↓State.setChain_front, ↓ite_front, ite_self]
  repeat' (first | with_reducible rfl | (simp only [↓State.nextSegment_front, ↓State.setChain_front, ↓ite_front, ite_self]; done) | (with_reducible refine front_ite ?_ ?_) | (simp only [↓State.nextSegment_front, ↓State.setChain_front, ↓ite_front, ite_self]) | split)

theorem State.replan_front (s : State) (c : Fin 16) (r : ChainRec) :
    (State.replan s c r).front = s.front := by
  unfold State.replan
  simp only [↓State.setChain_front, ↓ite_front, ite_self]

theorem State.moveFeed_front (s : State) (c : Fin 16) (r : ChainRec) :
    (State.moveFeed s c r).front = s.front := by
  rfl

theorem State.pathFault_front (s : State) (c : Fin 16) (n : Nat) :
    (State.pathFault s c n).front = s.front := by
  unfold State.pathFault
  simp only [↓State.motionStop34_front, ↓State.protect_front, ↓State.segFault_front, ↓ite_front, ite_self]

theorem State.runPath_front (s : State) (c : Fin 16) (r : List Byte) :
    (State.runPath s c r).front = s.front := by
  unfold State.runPath
  simp only [↓State.notice_front, ↓State.segFault_front, ↓State.segmentDone_front, ↓ite_front, ite_self]

theorem State.runChain_front (s : State) (c : Fin 16) (h : ChainRec) :
    (State.runChain s c h).front = s.front := by
  unfold State.runChain
  try simp only [↓State.nextFree_front, ↓State.nextSegment_front, ↓State.pathFault_front, ↓State.reachBarrier_front, ↓State.replan_front, ↓State.runPath_front, ↓State.segmentDone_front, ↓State.setChain_front, ↓ite_front, ite_self]
  repeat' (first | with_reducible rfl | (simp only [↓State.nextFree_front, ↓State.nextSegment_front, ↓State.pathFault_front, ↓State.reachBarrier_front, ↓State.replan_front, ↓State.runPath_front, ↓State.segmentDone_front, ↓State.setChain_front, ↓ite_front, ite_self]; done) | (with_reducible refine front_ite ?_ ?_) | (simp only [↓State.nextFree_front, ↓State.nextSegment_front, ↓State.pathFault_front, ↓State.reachBarrier_front, ↓State.replan_front, ↓State.runPath_front, ↓State.segmentDone_front, ↓State.setChain_front, ↓ite_front, ite_self]) | split)

theorem State.stageChain_front (s : State) (c : Fin 16) (h : ChainRec) :
    (State.stageChain s c h).front = s.front := by
  unfold State.stageChain
  try simp only [↓State.moveFeed_front, ↓State.nextSegment_front, ↓State.runChain_front, ↓State.setChain_front, ↓ite_front, ite_self]
  repeat' (first | with_reducible rfl | (simp only [↓State.moveFeed_front, ↓State.nextSegment_front, ↓State.runChain_front, ↓State.setChain_front, ↓ite_front, ite_self]; done) | (with_reducible refine front_ite ?_ ?_) | (simp only [↓State.moveFeed_front, ↓State.nextSegment_front, ↓State.runChain_front, ↓State.setChain_front, ↓ite_front, ite_self]) | split)

theorem State.releaseBarriers_front (s : State) :
    (State.releaseBarriers s).front = s.front := by
  unfold State.releaseBarriers
  try simp only [↓State.segmentDone_front, ↓State.setChain_front, ↓foldOn_front, ↓ite_front, ite_self, implies_true]
  repeat' (first | with_reducible rfl | (simp only [↓State.segmentDone_front, ↓State.setChain_front, ↓foldOn_front, ↓ite_front, ite_self, implies_true]; done) | (with_reducible refine front_ite ?_ ?_) | (with_reducible refine (foldOn_front _ _ _ fun s x => ?_).trans ?_) | (simp only [↓State.segmentDone_front, ↓State.setChain_front, ↓foldOn_front, ↓ite_front, ite_self, implies_true]) | split)

theorem State.releaseAll_front (s : State) :
    (State.releaseAll s).front = s.front := by
  unfold State.releaseAll
  simp only [↓State.releaseBarriers_front, ↓foldOn_front, implies_true]

theorem State.setForces_front (s : State) (c : Fin 16) :
    (State.setForces s c).front = s.front := by
  unfold State.setForces
  simp only [↓State.setSlot_front, ↓foldl_front, ↓ite_front, ite_self, implies_true]

theorem State.stageOne_front (s : State) (c : Fin 16) :
    (State.stageOne s c).front = s.front := by
  unfold State.stageOne
  try simp only [↓State.stageChain_front, ↓ite_front, ite_self]
  repeat' (first | with_reducible rfl | (simp only [↓State.stageChain_front, ↓ite_front, ite_self]; done) | (with_reducible refine front_ite ?_ ?_) | (simp only [↓State.stageChain_front, ↓ite_front, ite_self]) | split)

theorem State.completeCmd_front (s : State) (m : MotionCmd) :
    (State.completeCmd s m).front = s.front := by
  unfold State.completeCmd
  try simp only [↓State.finishTag_front, ↓foldl_front, implies_true]
  repeat' (first | with_reducible rfl | (simp only [↓State.finishTag_front, ↓foldl_front, implies_true]; done) | (with_reducible refine front_ite ?_ ?_) | (with_reducible refine (foldl_front _ _ _ fun s x => ?_).trans ?_) | (simp only [↓State.finishTag_front, ↓foldl_front, implies_true]) | split)

theorem State.newReferences_front (s : State) :
    (State.newReferences s).front = s.front := by
  rfl

/-! ### Operations of Dispatcher -/

theorem State.dispatch_front (s : State) :
    (State.dispatch s).front = s.front := by
  unfold State.dispatch
  simp only [↓State.arbitrate_front, ↓State.setDisp_front, ↓foldl_front, ↓foldOn_front, ↓ite_front, ite_self, implies_true]

theorem State.setMemcls_front (s : State) (r : Fin 8) (cls : BitVec 2) :
    (State.setMemcls s r cls).front = s.front := by
  rfl

theorem State.scrubbed_front (s : State) (b unit n : Nat) :
    (State.scrubbed s b unit n).front = s.front := by
  unfold State.scrubbed
  simp only [↓State.corrected_front, ↓State.setTile_front, ↓foldOn_front, ↓ite_front, ite_self, implies_true]

theorem State.stepDone_front (s : State) (i r : Nat) :
    (State.stepDone s i r).front = s.front := by
  unfold State.stepDone
  simp only [↓State.setArb_front, ↓ite_front, ite_self]

/-! ### Operations of PageRead -/

theorem State.readSide_front (s : State) (pg o : Nat) :
    (State.readSide s pg o).front = s.front := by
  unfold State.readSide
  simp only [↓State.canLock_front, ↓State.canRelease_front, ↓ite_front, ite_self]

theorem State.readSides_front (s : State) (pg o n : Nat) :
    (State.readSides s pg o n).front = s.front := by
  unfold State.readSides
  simp only [↓State.readSide_front, ↓foldOn_front, implies_true]

/-! ### Operations of PageWrite -/

theorem State.putHost_front (s : State) (o : Nat) (w : Word) :
    (State.putHost s o w).front = s.front := by
  unfold State.putHost
  try simp only [↓State.setHost_front, ↓State.setQueue_front, ↓ite_front, ite_self]
  repeat' (first | with_reducible rfl | (simp only [↓State.setHost_front, ↓State.setQueue_front, ↓ite_front, ite_self]; done) | (with_reducible refine front_ite ?_ ?_) | (simp only [↓State.setHost_front, ↓State.setQueue_front, ↓ite_front, ite_self]) | split)

theorem State.putTime_front (s : State) (o : Nat) (w : Word) :
    (State.putTime s o w).front = s.front := by
  unfold State.putTime
  try simp only [↓State.setDomain_front, ↓State.setSelect_front, ↓State.setSource_front, ↓State.setTime_front, ↓State.syncOutLow_front, ↓ite_front, ite_self]
  repeat' (first | with_reducible rfl | (simp only [↓State.setDomain_front, ↓State.setSelect_front, ↓State.setSource_front, ↓State.setTime_front, ↓State.syncOutLow_front, ↓ite_front, ite_self]; done) | (with_reducible refine front_ite ?_ ?_) | (simp only [↓State.setDomain_front, ↓State.setSelect_front, ↓State.setSource_front, ↓State.setTime_front, ↓State.syncOutLow_front, ↓ite_front, ite_self]) | split)

theorem State.putMotion_front (s : State) (o : Nat) (w : Word) :
    (State.putMotion s o w).front = s.front := by
  unfold State.putMotion
  simp only [↓State.setMotion_front, ↓ite_front, ite_self]

theorem State.putLoop_front (s : State) (k o : Nat) (w : Word) :
    (State.putLoop s k o w).front = s.front := by
  unfold State.putLoop
  try simp only [↓State.setAxis_front, ↓State.setEngine_front, ↓State.setLoops_front, ↓ite_front, ite_self]
  repeat' (first | with_reducible rfl | (simp only [↓State.setAxis_front, ↓State.setEngine_front, ↓State.setLoops_front, ↓ite_front, ite_self]; done) | (with_reducible refine front_ite ?_ ?_) | (simp only [↓State.setAxis_front, ↓State.setEngine_front, ↓State.setLoops_front, ↓ite_front, ite_self]) | split)

theorem State.putSlotWord_front (s : State) (e k : Nat) (pg o : Nat) (v : Word) :
    (State.putSlotWord s e k pg o v).front = s.front := by
  unfold State.putSlotWord
  simp only [↓State.setSlot_front, ↓foldl_front, ↓ite_front, ite_self, implies_true]

theorem State.putSolver_front (s : State) (k o : Nat) (w : Word) :
    (State.putSolver s k o w).front = s.front := by
  unfold State.putSolver
  simp only [↓State.setSolve_front, ↓State.setSolver_front, ↓ite_front, ite_self]

theorem State.putTiles_front (s : State) (k o : Nat) (w : Word) :
    (State.putTiles s k o w).front = s.front := by
  unfold State.putTiles
  try simp only [↓State.setKernel_front, ↓State.setTile_front, ↓State.setTiles_front, ↓ite_front, ite_self]
  repeat' (first | with_reducible rfl | (simp only [↓State.setKernel_front, ↓State.setTile_front, ↓State.setTiles_front, ↓ite_front, ite_self]; done) | (with_reducible refine front_ite ?_ ?_) | (simp only [↓State.setKernel_front, ↓State.setTile_front, ↓State.setTiles_front, ↓ite_front, ite_self]) | split)

theorem State.putDisp_front (s : State) (o : Nat) (w : Word) :
    (State.putDisp s o w).front = s.front := by
  unfold State.putDisp
  simp only [↓State.setDisp_front, ↓State.setMemcls_front, ↓ite_front, ite_self]

theorem State.putNibbles_front (s : State) (o : Nat) (w : Word) :
    (State.putNibbles s o w).front = s.front := by
  unfold State.putNibbles
  try simp only [↓State.setNibble_front, ↓State.setWindow_front]
  repeat' (first | with_reducible rfl | (simp only [↓State.setNibble_front, ↓State.setWindow_front]; done) | (with_reducible refine front_ite ?_ ?_) | (simp only [↓State.setNibble_front, ↓State.setWindow_front]) | split)

theorem State.putSafety_front (s : State) (o : Nat) (w v : Word) :
    (State.putSafety s o w v).front = s.front := by
  unfold State.putSafety
  simp only [↓State.requestBrakeTests_front, ↓State.setSafety_front, ↓ite_front, ite_self]

theorem State.putSep_front (s : State) (o : Nat) (w : Word) :
    (State.putSep s o w).front = s.front := by
  unfold State.putSep
  simp only [↓State.setSep_front, ↓ite_front, ite_self]

theorem State.putLink_front (s : State) (n k : Nat) (w : Word) :
    (State.putLink s n k w).front = s.front := by
  unfold State.putLink
  simp only [↓State.setSep_front, ↓ite_front, ite_self]

theorem State.putCan_front (s : State) (n : Fin 4) (o : Nat) (w v : Word) :
    (State.putCan s n o w v).front = s.front := by
  unfold State.putCan
  simp only [↓State.setCanCtrl_front, ↓State.setCanN_front, ↓ite_front, ite_self]

theorem State.putPower_front (s : State) (o : Nat) (w : Word) :
    (State.putPower s o w).front = s.front := by
  unfold State.putPower
  simp only [↓State.setSys_front, ↓ite_front, ite_self]

theorem State.putTrace_front (s : State) (o : Nat) (w v : Word) :
    (State.putTrace s o w v).front = s.front := by
  unfold State.putTrace
  simp only [↓State.armTrace_front, ↓State.setEngine_front, ↓ite_front, ite_self]

theorem State.putFault_front (s : State) (w : Word) :
    (State.putFault s w).front = s.front := by
  rfl

theorem State.putWord_front (s : State) (pg o : Nat) (v : Word) :
    (State.putWord s pg o v).front = s.front := by
  unfold State.putWord
  simp only [↓State.canBuf_front, ↓State.putCan_front, ↓State.putDisp_front, ↓State.putFault_front, ↓State.putHost_front, ↓State.putLink_front, ↓State.putLoop_front, ↓State.putMotion_front, ↓State.putNibbles_front, ↓State.putPower_front, ↓State.putSafety_front, ↓State.putSep_front, ↓State.putSlotWord_front, ↓State.putSolver_front, ↓State.putTiles_front, ↓State.putTime_front, ↓State.putTrace_front, ↓State.setRgCtrl_front, ↓State.setRing_front, ↓State.setSys_front, ↓State.setTwin_front, ↓ite_front, ite_self]

theorem State.putWords_front (s : State) (pg : Nat) (ws : List (Nat × Word)) :
    (State.putWords s pg ws).front = s.front := by
  unfold State.putWords
  simp only [↓State.putWord_front, ↓foldl_front, implies_true]

theorem State.commitBcfg_front (s : State) (words : List Word) (slot : Nat) :
    (State.commitBcfg s words slot).front = s.front := by
  rfl

theorem State.storeBcfg_front (s : State) :
    (State.storeBcfg s).front = s.front := by
  unfold State.storeBcfg
  simp only [↓State.commitBcfg_front, ↓State.setSys_front, ↓ite_front, ite_self]

theorem State.latchEnabled_front (s : State) (old : Vector QueueSt 16) :
    (State.latchEnabled s old).front = s.front := by
  unfold State.latchEnabled
  simp only [↓State.setQueue_front, ↓foldOn_front, ↓ite_front, ite_self, implies_true]

theorem State.writeWords_front (s : State) (pg : Nat) (ws : List (Nat × Word)) :
    (State.writeWords s pg ws).front = s.front := by
  unfold State.writeWords
  simp only [↓State.latchDue_front, ↓State.latchEnabled_front, ↓State.putWords_front, ↓State.storeBcfg_front, ↓ite_front, ite_self]

theorem State.writeResets_front (s : State) (pg : Nat) (ws : List (Nat × Word)) (by_ : Option (Nat × Nat)) :
    (State.writeResets s pg ws by_).front = s.front := by
  unfold State.writeResets
  try simp only [↓State.finishTag_front, ↓State.setQueue_front, ↓State.startReset_front, ↓foldl_front, ↓ite_front, ite_self, implies_true]
  repeat' (first | with_reducible rfl | (simp only [↓State.finishTag_front, ↓State.setQueue_front, ↓State.startReset_front, ↓foldl_front, ↓ite_front, ite_self, implies_true]; done) | (with_reducible refine front_ite ?_ ?_) | (with_reducible refine (foldl_front _ _ _ fun s x => ?_).trans ?_) | (simp only [↓State.finishTag_front, ↓State.setQueue_front, ↓State.startReset_front, ↓foldl_front, ↓ite_front, ite_self, implies_true]) | split)

/-! ### Operations of SafetyCycle -/

theorem State.commitSafety_front (s : State) (q tag : Nat) (w0 : Word) :
    (State.commitSafety s q tag w0).front = s.front := by
  unfold State.commitSafety
  simp only [↓State.finishTag_front, ↓State.setSys_front]

theorem State.configChanged_front (s : State) (q tag : Nat) (w0 : Word) :
    (State.configChanged s q tag w0).front = s.front := by
  unfold State.configChanged
  simp only [↓State.commitSafety_front, ↓State.enterBath_front, ↓State.setSafety_front, ↓State.setSys_front, ↓ite_front, ite_self]

theorem State.toGate_front (s : State) (p : Pkt) :
    (State.toGate s p).front = s.front := by
  unfold State.toGate
  simp only [↓State.setQueue_front, ↓State.toPending_front, ↓ite_front, ite_self]

theorem State.putSafe_front (s : State) (r : SafeRec) :
    (State.putSafe s r).front = s.front := by
  unfold State.putSafe
  simp only [↓State.setIndex_front, ↓State.setSafety_front, ↓State.setSep_front, ↓ite_front, ite_self]

theorem State.applySafe_front (s : State) (p : Pkt) :
    (State.applySafe s p).front = s.front := by
  unfold State.applySafe
  simp only [↓State.configChanged_front, ↓State.putSafe_front, ↓State.setSafety_front, ↓foldl_front, ↓ite_front, ite_self, implies_true]

theorem State.applySafes_front (s : State) :
    (State.applySafes s).front = s.front := by
  unfold State.applySafes
  simp only [↓State.applySafe_front, ↓foldl_front, implies_true]

theorem State.heartbeats_front (s : State) (hb1 hb2 digestsEqual : Bool) :
    (State.heartbeats s hb1 hb2 digestsEqual).front = s.front := by
  unfold State.heartbeats
  simp only [↓State.dropBrakes_front, ↓State.enterBath_front, ↓State.setSafety_front, ↓ite_front, ite_self]

theorem State.adoptDemands_front (s : State) (p : Option PeerSafety) :
    (State.adoptDemands s p).front = s.front := by
  unfold State.adoptDemands
  try simp only [↓State.stopIndex_front, ↓foldOn_front, ↓ite_front, ite_self, implies_true]
  repeat' (first | with_reducible rfl | (simp only [↓State.stopIndex_front, ↓foldOn_front, ↓ite_front, ite_self, implies_true]; done) | (with_reducible refine front_ite ?_ ?_) | (with_reducible refine (foldOn_front _ _ _ fun s x => ?_).trans ?_) | (simp only [↓State.stopIndex_front, ↓foldOn_front, ↓ite_front, ite_self, implies_true]) | split)

theorem State.judgePaired_front (s : State) :
    (State.judgePaired s).front = s.front := by
  unfold State.judgePaired
  try simp only [↓State.judgeReset_front, ↓State.refuseReset_front, ↓State.sendBenjo_front, ↓State.setSafety_front, ↓State.setTwin_front, ↓foldl_front, ↓ite_front, ite_self, implies_true]
  repeat' (first | with_reducible rfl | (simp only [↓State.judgeReset_front, ↓State.refuseReset_front, ↓State.sendBenjo_front, ↓State.setSafety_front, ↓State.setTwin_front, ↓foldl_front, ↓ite_front, ite_self, implies_true]; done) | (with_reducible refine front_ite ?_ ?_) | (with_reducible refine (foldl_front _ _ _ fun s x => ?_).trans ?_) | (simp only [↓State.judgeReset_front, ↓State.refuseReset_front, ↓State.sendBenjo_front, ↓State.setSafety_front, ↓State.setTwin_front, ↓foldl_front, ↓ite_front, ite_self, implies_true]) | split)

theorem State.sepBoundary_front (s : State) (hb1 hb2 : Bool) :
    (State.sepBoundary s hb1 hb2).front = s.front := by
  unfold State.sepBoundary
  simp only [↓State.sepDecide_front, ↓State.writeCaps_front, ↓foldOn_front, ↓ite_front, ite_self, implies_true]

/-! ### Operations of Sys -/

theorem State.channelStarts_front (s : State) (ch : Fin 2) :
    (State.channelStarts s ch).front = s.front := by
  unfold State.channelStarts
  simp only [↓State.setSafety_front]

theorem State.commitWrite_front (s : State) (w : FlashWrite) :
    (State.commitWrite s w).front = s.front := by
  unfold State.commitWrite
  try simp only [↓State.commitBcfg_front, ↓State.commitSafety_front, ↓State.finishTag_front, ↓State.setSys_front, ↓foldl_front, ↓ite_front, ite_self, implies_true]
  repeat' (first | with_reducible rfl | (simp only [↓State.commitBcfg_front, ↓State.commitSafety_front, ↓State.finishTag_front, ↓State.setSys_front, ↓foldl_front, ↓ite_front, ite_self, implies_true]; done) | (with_reducible refine front_ite ?_ ?_) | (with_reducible refine (foldl_front _ _ _ fun s x => ?_).trans ?_) | (simp only [↓State.commitBcfg_front, ↓State.commitSafety_front, ↓State.finishTag_front, ↓State.setSys_front, ↓foldl_front, ↓ite_front, ite_self, implies_true]) | split)

theorem State.flashWrite_front (s : State) (w : FlashWrite) :
    (State.flashWrite s w).front = s.front := by
  unfold State.flashWrite
  simp only [↓State.commitWrite_front, ↓State.setSys_front, ↓ite_front, ite_self]

/-! ### Operations of Presence -/

theorem State.accept_front (s : State) (p : Pkt) :
    (State.accept s p).front = s.front := by
  unfold State.accept
  try simp only [↓State.announceJob_front, ↓State.flashWrite_front, ↓State.setCell_front, ↓State.setQueue_front, ↓State.setTwin_front, ↓ite_front, ite_self]
  repeat' (first | with_reducible rfl | (simp only [↓State.announceJob_front, ↓State.flashWrite_front, ↓State.setCell_front, ↓State.setQueue_front, ↓State.setTwin_front, ↓ite_front, ite_self]; done) | (with_reducible refine front_ite ?_ ?_) | (simp only [↓State.announceJob_front, ↓State.flashWrite_front, ↓State.setCell_front, ↓State.setQueue_front, ↓State.setTwin_front, ↓ite_front, ite_self]) | split)

/-! ### Operations of Twin -/

theorem State.giveHeads_front (s : State) :
    (State.giveHeads s).front = s.front := by
  rfl

theorem State.formPair_front (s : State) (active : Bool) :
    (State.formPair s active).front = s.front := by
  unfold State.formPair
  simp only [↓State.giveHeads_front, ↓State.pairTo_front, ↓State.setCell_front, ↓State.setTwin_front, ↓ite_front, ite_self]

theorem State.takeHello_front (s : State) (b : List Byte) :
    (State.takeHello s b).front = s.front := by
  unfold State.takeHello
  try simp only [↓State.confirmAll_front, ↓State.diverge_front, ↓State.formPair_front, ↓State.pairTo_front, ↓State.setTwin_front, ↓State.takeHeads_front, ↓ite_front, ite_self]
  repeat' (first | with_reducible rfl | (simp only [↓State.confirmAll_front, ↓State.diverge_front, ↓State.formPair_front, ↓State.pairTo_front, ↓State.setTwin_front, ↓State.takeHeads_front, ↓ite_front, ite_self]; done) | (with_reducible refine front_ite ?_ ?_) | (simp only [↓State.confirmAll_front, ↓State.diverge_front, ↓State.formPair_front, ↓State.pairTo_front, ↓State.setTwin_front, ↓State.takeHeads_front, ↓ite_front, ite_self]) | split)

theorem State.takeResults_front (s : State) (r : Fin 4) (bs : List Byte) :
    (State.takeResults s r bs).front = s.front := by
  unfold State.takeResults
  simp only [↓State.closeCycle_front, ↓State.closePrev_front, ↓State.putHop_front, ↓foldl_front, ↓ite_front, ite_self, implies_true]

theorem State.takeSlot_front (s : State) (r : Fin 4) (seq : Word) (b : List Byte) :
    (State.takeSlot s r seq b).front = s.front := by
  unfold State.takeSlot
  try simp only [↓State.setSlot_front, ↓State.setTwin_front, ↓ite_front, ite_self]
  repeat' (first | with_reducible rfl | (simp only [↓State.setSlot_front, ↓State.setTwin_front, ↓ite_front, ite_self]; done) | (with_reducible refine front_ite ?_ ?_) | (simp only [↓State.setSlot_front, ↓State.setTwin_front, ↓ite_front, ite_self]) | split)

theorem State.takePeerDelivery_front (s : State) (seq : Word) (bs : List Byte) :
    (State.takePeerDelivery s seq bs).front = s.front := by
  unfold State.takePeerDelivery
  simp only [↓State.takeDelivery_front]

theorem State.takeSummary_front (s : State) (b : List Byte) :
    (State.takeSummary s b).front = s.front := by
  unfold State.takeSummary
  try simp only [↓State.sendDigest_front, ↓State.setTwin_front, ↓State.takePeerDelivery_front, ↓State.takeResults_front, ↓State.takeSlot_front, ↓foldl_front, ↓ite_front, ite_self, implies_true]
  repeat' (first | with_reducible rfl | (simp only [↓State.sendDigest_front, ↓State.setTwin_front, ↓State.takePeerDelivery_front, ↓State.takeResults_front, ↓State.takeSlot_front, ↓foldl_front, ↓ite_front, ite_self, implies_true]; done) | (with_reducible refine front_ite ?_ ?_) | (with_reducible refine (foldl_front _ _ _ fun s x => ?_).trans ?_) | (simp only [↓State.sendDigest_front, ↓State.setTwin_front, ↓State.takePeerDelivery_front, ↓State.takeResults_front, ↓State.takeSlot_front, ↓foldl_front, ↓ite_front, ite_self, implies_true]) | split)

theorem State.takeDigest_front (s : State) (b : List Byte) :
    (State.takeDigest s b).front = s.front := by
  unfold State.takeDigest
  simp only [↓State.diverge_front, ↓State.setTwin_front, ↓ite_front, ite_self]

theorem State.takeSolve_front (s : State) (b : List Byte) :
    (State.takeSolve s b).front = s.front := by
  unfold State.takeSolve
  simp only [↓State.diverge_front, ↓State.setTwin_front, ↓State.takeBack_front, ↓ite_front, ite_self]

theorem State.takeSafety_front (s : State) (b : List Byte) :
    (State.takeSafety s b).front = s.front := by
  rfl

theorem State.takeCan_front (s : State) (b : List Byte) :
    (State.takeCan s b).front = s.front := by
  unfold State.takeCan
  try simp only [↓State.canBuf_front, ↓State.canConfine_front, ↓State.endTx_front, ↓State.setCanN_front, ↓ite_front, ite_self]
  repeat' (first | with_reducible rfl | (simp only [↓State.canBuf_front, ↓State.canConfine_front, ↓State.endTx_front, ↓State.setCanN_front, ↓ite_front, ite_self]; done) | (with_reducible refine front_ite ?_ ?_) | (simp only [↓State.canBuf_front, ↓State.canConfine_front, ↓State.endTx_front, ↓State.setCanN_front, ↓ite_front, ite_self]) | split)

theorem State.dropPartner_front (s : State) (q : Fin 16) (p : Pkt) :
    (State.dropPartner s q p).front = s.front := by
  unfold State.dropPartner
  try simp only [↓State.dropJob_front, ↓State.dropTag_front, ↓ite_front, ite_self]
  repeat' (first | with_reducible rfl | (simp only [↓State.dropJob_front, ↓State.dropTag_front, ↓ite_front, ite_self]; done) | (with_reducible refine front_ite ?_ ?_) | (simp only [↓State.dropJob_front, ↓State.dropTag_front, ↓ite_front, ite_self]) | split)

theorem State.takeCommand_front (s : State) (b : List Byte) :
    (State.takeCommand s b).front = s.front := by
  unfold State.takeCommand
  try simp only [↓State.accept_front, ↓State.dropDelivered_front, ↓State.dropPartner_front, ↓State.sendBenjo_front, ↓State.setQueue_front, ↓State.takeCan_front, ↓ite_front, ite_self]
  repeat' (first | with_reducible rfl | (simp only [↓State.accept_front, ↓State.dropDelivered_front, ↓State.dropPartner_front, ↓State.sendBenjo_front, ↓State.setQueue_front, ↓State.takeCan_front, ↓ite_front, ite_self]; done) | (with_reducible refine front_ite ?_ ?_) | (simp only [↓State.accept_front, ↓State.dropDelivered_front, ↓State.dropPartner_front, ↓State.sendBenjo_front, ↓State.setQueue_front, ↓State.takeCan_front, ↓ite_front, ite_self]) | split)

theorem State.laneError_front (s : State) (lane : Fin 2) :
    (State.laneError s lane).front = s.front := by
  rfl

theorem State.laneUp_front (s : State) (lane : Fin 2) :
    (State.laneUp s lane).front = s.front := by
  unfold State.laneUp
  simp only [↓State.sendHello_front, ↓State.setTwin_front, ↓ite_front, ite_self]

theorem State.takeBenjo_front (s : State) (type : Nat) (b : List Byte) :
    (State.takeBenjo s type b).front = s.front := by
  unfold State.takeBenjo
  try simp only [↓State.correctPhase_front, ↓State.setTwin_front, ↓State.takeCommand_front, ↓State.takeDigest_front, ↓State.takeHello_front, ↓State.takeSafety_front, ↓State.takeSolve_front, ↓State.takeSummary_front, ↓ite_front, ite_self]
  repeat' (first | with_reducible rfl | (simp only [↓State.correctPhase_front, ↓State.setTwin_front, ↓State.takeCommand_front, ↓State.takeDigest_front, ↓State.takeHello_front, ↓State.takeSafety_front, ↓State.takeSolve_front, ↓State.takeSummary_front, ↓ite_front, ite_self]; done) | (with_reducible refine front_ite ?_ ?_) | (simp only [↓State.correctPhase_front, ↓State.setTwin_front, ↓State.takeCommand_front, ↓State.takeDigest_front, ↓State.takeHello_front, ↓State.takeSafety_front, ↓State.takeSolve_front, ↓State.takeSummary_front, ↓ite_front, ite_self]) | split)

theorem State.survive_front (s : State) :
    (State.survive s).front = s.front := by
  unfold State.survive
  simp only [↓State.dropPartner_front, ↓State.dropTag_front, ↓State.pairTo_front, ↓State.setTwin_front, ↓State.settleCancels_front, ↓foldl_front, ↓ite_front, ite_self, implies_true]

theorem State.ownResult_front (s : State) (own : Option Bool) :
    (State.ownResult s own).front = s.front := by
  unfold State.ownResult
  try simp only [↓State.sendBenjo_front, ↓State.setTwin_front, ↓ite_front, ite_self]
  repeat' (first | with_reducible rfl | (simp only [↓State.sendBenjo_front, ↓State.setTwin_front, ↓ite_front, ite_self]; done) | (with_reducible refine front_ite ?_ ?_) | (simp only [↓State.sendBenjo_front, ↓State.setTwin_front, ↓ite_front, ite_self]) | split)

theorem State.announceSwap_front (s : State) (tick : Nat) :
    (State.announceSwap s tick).front = s.front := by
  rfl

/-! ### Operations of Cycle -/

theorem State.byItself_front (s : State) :
    (State.byItself s).front = s.front := by
  unfold State.byItself
  simp only [↓State.dispatch_front, ↓State.ptpSends_front, ↓State.ringTick_front, ↓State.sendIdle_front, ↓State.sendState_front, ↓State.sendTime_front, ↓foldOn_front, implies_true]

theorem State.cycle_front (s : State) :
    (State.cycle s).front = s.front := by
  unfold State.cycle
  simp only [↓State.byItself_front, ↓State.tick_front]

end Sys2Proof.Machine
end

