-- ==== Sys2Proof/Laws/Kept.lean ====
section
/-! SUPPORT. The part of the state that a command leaves as it was, whatever its effect: the queue, the elapsed time and,
but for the commands that program it, the OTP array. One lemma per operation. -/

namespace Sys2Proof.Machine

set_option linter.unreachableTactic false
set_option linter.unusedTactic false
set_option linter.unusedSimpArgs false

/-- The queue, the elapsed time and the OTP array. -/
def State.kept (s : State) : List Instr × Nat × Vector Word 17 := (s.pending, s.now, s.sys.otp)

/-- A fold keeps what each of its steps keeps. -/
theorem foldl_kept {α : Type} (l : List α) (g : State → α → State) (s : State)
    (h : ∀ s x, (g s x).kept = s.kept) : (l.foldl g s).kept = s.kept := by
  induction l generalizing s with
  | nil => rfl
  | cons a r ih => rw [List.foldl_cons, ih, h]

/-- The same of a fold over numbers. -/
theorem foldOn_kept (l : List Nat) (s : State) (g : State → Nat → State)
    (h : ∀ s x, (g s x).kept = s.kept) : (foldOn l s g).kept = s.kept := foldl_kept l g s h

/-- A choice keeps what both sides keep. -/
theorem ite_kept (c : Prop) [Decidable c] (s t : State) : (if c then s else t).kept = if c then s.kept else t.kept := by
  split <;> rfl

/-- The same with each side compared to a third state. -/
theorem kept_ite {c : Prop} [Decidable c] {s t u : State} (hs : s.kept = u.kept) (ht : t.kept = u.kept) :
    (if c then s else t).kept = u.kept := by
  split <;> assumption

/-! ### Operations of Ops -/

@[simp] theorem State.setFree_kept (s : State) (x : Nat) :
    (State.setFree s x).kept = s.kept := by
  rfl

@[simp] theorem State.setOut_kept (s : State) (x : List Out) :
    (State.setOut s x).kept = s.kept := by
  rfl

@[simp] theorem State.setHost_kept (s : State) (x : HostSt) :
    (State.setHost s x).kept = s.kept := by
  rfl

@[simp] theorem State.setCell_kept (s : State) (x : CellSt) :
    (State.setCell s x).kept = s.kept := by
  rfl

@[simp] theorem State.setTime_kept (s : State) (x : TimeSt) :
    (State.setTime s x).kept = s.kept := by
  rfl

@[simp] theorem State.setRings_kept (s : State) (x : Vector RingSt 4) :
    (State.setRings s x).kept = s.kept := by
  rfl

@[simp] theorem State.setRgCtrl_kept (s : State) (x : Word) :
    (State.setRgCtrl s x).kept = s.kept := by
  rfl

@[simp] theorem State.setMotion_kept (s : State) (x : MotionSt) :
    (State.setMotion s x).kept = s.kept := by
  rfl

@[simp] theorem State.setLoops_kept (s : State) (x : LoopSt) :
    (State.setLoops s x).kept = s.kept := by
  rfl

@[simp] theorem State.setSolver_kept (s : State) (x : SolverSt) :
    (State.setSolver s x).kept = s.kept := by
  rfl

@[simp] theorem State.setTiles_kept (s : State) (x : TilesSt) :
    (State.setTiles s x).kept = s.kept := by
  rfl

@[simp] theorem State.setDisp_kept (s : State) (x : DispSt) :
    (State.setDisp s x).kept = s.kept := by
  rfl

@[simp] theorem State.setNibble_kept (s : State) (x : NibbleSt) :
    (State.setNibble s x).kept = s.kept := by
  rfl

@[simp] theorem State.setSafety_kept (s : State) (x : SafetySt) :
    (State.setSafety s x).kept = s.kept := by
  rfl

@[simp] theorem State.setSep_kept (s : State) (x : SepSt) :
    (State.setSep s x).kept = s.kept := by
  rfl

@[simp] theorem State.setTwin_kept (s : State) (x : TwinSt) :
    (State.setTwin s x).kept = s.kept := by
  rfl

@[simp] theorem State.setCan_kept (s : State) (x : Vector CanSt 4) :
    (State.setCan s x).kept = s.kept := by
  rfl

@[simp] theorem State.setSys_kept (s : State) (x : SysSt) (h : x.otp = s.sys.otp) :
    (s.setSys x).kept = s.kept := by
  simp only [State.kept, State.setSys_pending, State.setSys_now, State.setSys_sys, h]

@[simp] theorem State.setQueue_kept (s : State) (q : Fin 16) (x : QueueSt) :
    (State.setQueue s q x).kept = s.kept := by
  rfl

@[simp] theorem State.setChain_kept (s : State) (c : Fin 16) (x : ChainSt) :
    (State.setChain s c x).kept = s.kept := by
  rfl

@[simp] theorem State.setIndex_kept (s : State) (c : Fin 16) (x : IndexSt) :
    (State.setIndex s c x).kept = s.kept := by
  rfl

@[simp] theorem State.setRing_kept (s : State) (r : Fin 4) (x : RingSt) :
    (State.setRing s r x).kept = s.kept := by
  rfl

@[simp] theorem State.setCanN_kept (s : State) (n : Fin 4) (x : CanSt) :
    (State.setCanN s n x).kept = s.kept := by
  rfl

@[simp] theorem State.setAxis_kept (s : State) (a : Fin 160) (x : AxisSt) :
    (State.setAxis s a x).kept = s.kept := by
  rfl

@[simp] theorem State.setTile_kept (s : State) (t : Fin 16) (x : TileSt) :
    (State.setTile s t x).kept = s.kept := by
  rfl

@[simp] theorem State.setKernel_kept (s : State) (k : Fin 64) (x : KernelSt) :
    (State.setKernel s k x).kept = s.kept := by
  rfl

@[simp] theorem State.setSolve_kept (s : State) (p : Fin 4) (x : SolveSt) :
    (State.setSolve s p x).kept = s.kept := by
  rfl

@[simp] theorem State.setProb_kept (s : State) (p : Fin 4) (x : ProbSt) :
    (State.setProb s p x).kept = s.kept := by
  rfl

@[simp] theorem State.setSub_kept (s : State) (k : Fin 16) (x : SubSt) :
    (State.setSub s k x).kept = s.kept := by
  rfl

@[simp] theorem State.setEngine_kept (s : State) (e : Fin 16) (x : EngineSt) :
    (State.setEngine s e x).kept = s.kept := by
  rfl

@[simp] theorem State.setSlot_kept (s : State) (e : Fin 16) (k : Fin 32) (x : LoopSlot) :
    (State.setSlot s e k x).kept = s.kept := by
  rfl

@[simp] theorem State.emit_kept (s : State) (o : Out) :
    (State.emit s o).kept = s.kept := by
  rfl

@[simp] theorem State.nextFree_kept (s : State) :
    (State.nextFree s).kept = s.kept := by
  rfl

@[simp] theorem State.notice_kept (s : State) (k : NoticeKind) (a b : Nat) :
    (State.notice s k a b).kept = s.kept := by
  rfl

@[simp] theorem State.logRec_kept (s : State) (kind a b c : Nat) :
    (State.logRec s kind a b c).kept = s.kept := by
  rfl

@[simp] theorem State.sendBenjo_kept (s : State) (type : Nat) (payload : List Byte) :
    (State.sendBenjo s type payload).kept = s.kept := by
  rfl

@[simp] theorem State.reply_kept (s : State) (p : Pkt) (v : Verdict) (payload : List Byte) (lost : Bool) (waiters : List (Nat × Nat × Word)) :
    (State.reply s p v payload lost waiters).kept = s.kept := by
  unfold State.reply
  simp only [↓State.logRec_kept, ↓State.sendBenjo_kept, ↓State.setDisp_kept, ↓State.setQueue_kept, ↓ite_kept, ite_self]

@[simp] theorem State.dropTag_kept (s : State) (q : Fin 16) (tag : Nat) :
    (State.dropTag s q tag).kept = s.kept := by
  rfl

@[simp] theorem State.finishN_kept (fuel : Nat) (s : State) (p : Pkt) (v : Verdict) (payload : List Byte) (lost : Bool) (waiters : List (Nat × Nat × Word)) :
    (State.finishN fuel s p v payload lost waiters).kept = s.kept := by
  induction fuel generalizing s p v payload lost waiters with
  | zero => simp only [State.finishN, ↓State.reply_kept, ↓State.dropTag_kept]
  | succ n ih =>
    have hc : ((if p.origin = .partner then waiters.foldl (fun s w => match s.host.queues[f16 w.1].find w.2.1 with
        | some o => s.finishN n o ⟨stOk, w.2.2, 0⟩ [] false []
        | none => s) ((s.dropTag (f16 p.queue) p.tag).reply p v payload lost waiters)
        else (s.dropTag (f16 p.queue) p.tag).reply p v payload lost waiters)).kept = s.kept := by
      refine kept_ite ?_ ?_
      · refine (foldl_kept _ _ _ fun s w => ?_).trans ?_
        · split <;> simp only [ih]
        · simp only [↓State.reply_kept, ↓State.dropTag_kept]
      · simp only [↓State.reply_kept, ↓State.dropTag_kept]
    unfold State.finishN
    refine kept_ite ?_ hc
    refine (foldl_kept _ _ _ fun s w => ?_).trans ?_
    · refine kept_ite rfl ?_
      split <;> simp only [ih]
    · exact hc

@[simp] theorem State.finish_kept (s : State) (p : Pkt) (v : Verdict) (payload : List Byte) :
    (State.finish s p v payload).kept = s.kept := by
  unfold State.finish
  simp only [↓State.finishN_kept]

@[simp] theorem State.finishOk_kept (s : State) (p : Pkt) (w0 w1 : Word) (payload : List Byte) :
    (State.finishOk s p w0 w1 payload).kept = s.kept := by
  unfold State.finishOk
  simp only [↓State.finish_kept]

@[simp] theorem State.interim_kept (s : State) (p : Pkt) (code : Nat) :
    (State.interim s p code).kept = s.kept := by
  unfold State.interim
  simp only [↓State.setQueue_kept, ↓ite_kept, ite_self]

@[simp] theorem State.finishTag_kept (s : State) (q tag : Nat) (v : Verdict) (payload : List Byte) :
    (State.finishTag s q tag v payload).kept = s.kept := by
  unfold State.finishTag
  try simp only [↓State.finish_kept]
  repeat' (first | with_reducible rfl | (simp only [↓State.finish_kept]; done) | (with_reducible refine kept_ite ?_ ?_) | (simp only [↓State.finish_kept]) | split)

@[simp] theorem State.entryRun_kept (s : State) (f : DelayEntry → Bool) :
    (State.entryRun s f).kept = s.kept := by
  rfl

theorem State.onExpiry_kept (s : State) (f : DelayEntry → Bool) (g : State → State) (hg : ∀ t, (g t).kept = t.kept) :
    (s.onExpiry f g).kept = s.kept := by
  unfold State.onExpiry
  split
  · rw [hg, State.entryRun_kept]
  · rfl

@[simp] theorem State.passOn_kept (s : State) (q : Fin 16) (p : Pkt) (t : State) :
    (s.passOn q p t).kept = t.kept := by
  unfold State.passOn
  simp only [↓ite_kept, State.setTime_kept, State.sendBenjo_kept, State.setQueue_kept, ite_self]

@[simp] theorem State.begun_kept (s : State) (q : Fin 16) (p : Pkt) :
    (State.begun s q p).kept = s.kept := by
  unfold State.begun
  simp only [↓State.setQueue_kept, ↓State.setTime_kept, ↓ite_kept, ite_self]

theorem State.startPkt_kept (s : State) (q : Fin 16) (tag : Fin 1024) (op : Nat) (f : Pkt → State → State)
    (hf : ∀ p t, (f p t).kept = t.kept) : (s.startPkt q tag op f).kept = s.kept := by
  unfold State.startPkt
  split
  · rfl
  · simp only [↓ite_kept, ↓State.finish_kept, ↓State.passOn_kept, hf, State.begun_kept, ite_self]

@[simp] theorem State.latchUnit_kept (s : State) (b : Nat) (gone : Bool) :
    (State.latchUnit s b gone).kept = s.kept := by
  unfold State.latchUnit
  simp only [↓State.setSys_kept, ↓ite_kept, ite_self]

/-! ### Operations of Operands -/

@[simp] theorem State.sendMgmt_kept (s : State) (ring : Fin 4) (code hop : Nat) :
    (State.sendMgmt s ring code hop).kept = s.kept := by
  rfl

@[simp] theorem State.dropPart_kept (s : State) (st : Stream) :
    (State.dropPart s st).kept = s.kept := by
  rfl

theorem State.fragment_kept (s : State) (st : Stream) (p : Pkt) (busyLast : Bool) (whole : List Byte → State → State)
    (hw : ∀ bs t, (whole bs t).kept = t.kept) : (s.fragment st p busyLast whole).kept = s.kept := by
  unfold State.fragment
  split <;> simp only [↓State.dropPart_kept, ↓State.finish_kept, ↓State.finishOk_kept, ↓State.setCell_kept, hw]

/-! ### Operations of Arbiter -/

@[simp] theorem State.setArb_kept (s : State) (i : Nat) (a : ArbSt) :
    (State.setArb s i a).kept = s.kept := by
  rfl

@[simp] theorem State.askUnit_kept (s : State) (i r : Nat) :
    (State.askUnit s i r).kept = s.kept := by
  unfold State.askUnit
  simp only [↓State.setArb_kept, ↓ite_kept, ite_self]

@[simp] theorem State.leaveUnit_kept (s : State) (i r : Nat) :
    (State.leaveUnit s i r).kept = s.kept := by
  rfl

@[simp] theorem State.arbitrate_kept (s : State) (i : Nat) :
    (State.arbitrate s i).kept = s.kept := by
  unfold State.arbitrate
  simp only [↓State.askUnit_kept, ↓State.leaveUnit_kept, ↓State.setArb_kept, ↓foldl_kept, ↓ite_kept, ite_self, implies_true]

/-! ### Operations of Pair -/

@[simp] theorem State.sendHello_kept (s : State) (digest : Word) (act : Bool) :
    (State.sendHello s digest act).kept = s.kept := by
  rfl

@[simp] theorem State.sendIdle_kept (s : State) :
    (State.sendIdle s).kept = s.kept := by
  unfold State.sendIdle
  simp only [↓State.sendBenjo_kept, ↓ite_kept, ite_self]

@[simp] theorem State.sendTime_kept (s : State) :
    (State.sendTime s).kept = s.kept := by
  unfold State.sendTime
  simp only [↓State.sendBenjo_kept, ↓ite_kept, ite_self]

@[simp] theorem State.sendOnce_kept (s : State) (type : Nat) (payload : List Byte) :
    (State.sendOnce s type payload).kept = s.kept := by
  rfl

@[simp] theorem State.sendState_kept (s : State) :
    (State.sendState s).kept = s.kept := by
  unfold State.sendState
  simp only [↓State.nextFree_kept, ↓State.sendOnce_kept, ↓ite_kept, ite_self]

@[simp] theorem State.withdrawSwap_kept (s : State) :
    (State.withdrawSwap s).kept = s.kept := by
  unfold State.withdrawSwap
  try simp only [↓State.sendBenjo_kept, ↓State.setTwin_kept, ↓ite_kept, ite_self]
  repeat' (first | with_reducible rfl | (simp only [↓State.sendBenjo_kept, ↓State.setTwin_kept, ↓ite_kept, ite_self]; done) | (with_reducible refine kept_ite ?_ ?_) | (simp only [↓State.sendBenjo_kept, ↓State.setTwin_kept, ↓ite_kept, ite_self]) | split)

@[simp] theorem State.confirmAll_kept (s : State) :
    (State.confirmAll s).kept = s.kept := by
  unfold State.confirmAll
  simp only [↓State.setQueue_kept, ↓foldOn_kept, implies_true]

@[simp] theorem State.takeHeads_kept (s : State) :
    (State.takeHeads s).kept = s.kept := by
  rfl

@[simp] theorem State.syncOutLow_kept (s : State) :
    (State.syncOutLow s).kept = s.kept := by
  unfold State.syncOutLow
  simp only [↓State.setTime_kept, ↓ite_kept, ite_self]

@[simp] theorem State.passSync_kept (s : State) (drove : Bool) :
    (State.passSync s drove).kept = s.kept := by
  unfold State.passSync
  simp only [↓State.setTime_kept, ↓ite_kept, ite_self]

@[simp] theorem State.pairTo_kept (s : State) (st : PairState) (active : Bool) :
    (State.pairTo s st active).kept = s.kept := by
  unfold State.pairTo
  simp only [↓State.confirmAll_kept, ↓State.notice_kept, ↓State.passSync_kept, ↓State.sendHello_kept, ↓State.setRings_kept, ↓State.setSafety_kept, ↓State.setTwin_kept, ↓State.takeHeads_kept, ↓State.withdrawSwap_kept, ↓ite_kept, ite_self]

@[simp] theorem State.diverge_kept (s : State) :
    (State.diverge s).kept = s.kept := by
  unfold State.diverge
  simp only [↓State.pairTo_kept, ↓State.setTwin_kept, ↓ite_kept, ite_self]

@[simp] theorem State.sendDigest_kept (s : State) (key : Nat) :
    (State.sendDigest s key).kept = s.kept := by
  unfold State.sendDigest
  try simp only [↓State.diverge_kept, ↓State.sendBenjo_kept, ↓State.setTwin_kept, ↓ite_kept, ite_self]
  repeat' (first | with_reducible rfl | (simp only [↓State.diverge_kept, ↓State.sendBenjo_kept, ↓State.setTwin_kept, ↓ite_kept, ite_self]; done) | (with_reducible refine kept_ite ?_ ?_) | (simp only [↓State.diverge_kept, ↓State.sendBenjo_kept, ↓State.setTwin_kept, ↓ite_kept, ite_self]) | split)

/-! ### Operations of Host -/

@[simp] theorem State.intake_kept (s : State) (q : Fin 16) (hdr payload : List Byte) (crcOk : Bool) (origin : Origin) :
    (State.intake s q hdr payload crcOk origin).kept = s.kept := by
  unfold State.intake
  try simp only [↓State.reply_kept, ↓State.setQueue_kept, ↓ite_kept, ite_self]
  repeat' (first | with_reducible rfl | (simp only [↓State.reply_kept, ↓State.setQueue_kept, ↓ite_kept, ite_self]; done) | (with_reducible refine kept_ite ?_ ?_) | (simp only [↓State.reply_kept, ↓State.setQueue_kept, ↓ite_kept, ite_self]) | split)

@[simp] theorem State.haltQueue_kept (s : State) (q : Fin 16) (err : Nat) :
    (State.haltQueue s q err).kept = s.kept := by
  rfl

theorem State.fetchN_kept (n : Nat) (s : State) (q : Fin 16) : (State.fetchN n s q).kept = s.kept := by
  induction n generalizing s with
  | zero => rfl
  | succ n ih =>
    unfold State.fetchN
    repeat' (first | with_reducible rfl | (simp only [ih, State.intake_kept, State.haltQueue_kept, ↓State.setQueue_kept]; done) | (refine kept_ite ?_ ?_))

@[simp] theorem State.fetch_kept (s : State) (q : Fin 16) : (State.fetch s q).kept = s.kept := by
  exact State.fetchN_kept _ _ _

@[simp] theorem State.raiseMsix_kept (s : State) (q : Fin 16) :
    (State.raiseMsix s q).kept = s.kept := by
  unfold State.raiseMsix
  try simp only [↓State.emit_kept, ↓State.setQueue_kept, ↓ite_kept, ite_self]
  repeat' (first | with_reducible rfl | (simp only [↓State.emit_kept, ↓State.setQueue_kept, ↓ite_kept, ite_self]; done) | (with_reducible refine kept_ite ?_ ?_) | (simp only [↓State.emit_kept, ↓State.setQueue_kept, ↓ite_kept, ite_self]) | split)

@[simp] theorem State.putOut_kept (s : State) (q : Fin 16) (r : Reply) :
    (State.putOut s q r).kept = s.kept := by
  unfold State.putOut
  try simp only [↓State.emit_kept, ↓State.raiseMsix_kept, ↓State.reply_kept, ↓State.setQueue_kept, ↓foldl_kept, ↓ite_kept, ite_self, implies_true]
  repeat' (first | with_reducible rfl | (simp only [↓State.emit_kept, ↓State.raiseMsix_kept, ↓State.reply_kept, ↓State.setQueue_kept, ↓foldl_kept, ↓ite_kept, ite_self, implies_true]; done) | (with_reducible refine kept_ite ?_ ?_) | (with_reducible refine (foldl_kept _ _ _ fun s x => ?_).trans ?_) | (simp only [↓State.emit_kept, ↓State.raiseMsix_kept, ↓State.reply_kept, ↓State.setQueue_kept, ↓foldl_kept, ↓ite_kept, ite_self, implies_true]) | split)

@[simp] theorem State.writeReply_kept (s : State) (q : Fin 16) :
    (State.writeReply s q).kept = s.kept := by
  unfold State.writeReply
  try simp only [↓State.fetch_kept, ↓State.finishTag_kept, ↓State.putOut_kept, ↓State.setQueue_kept, ↓foldl_kept, ↓ite_kept, ite_self, implies_true]
  repeat' (first | with_reducible rfl | (simp only [↓State.fetch_kept, ↓State.finishTag_kept, ↓State.putOut_kept, ↓State.setQueue_kept, ↓foldl_kept, ↓ite_kept, ite_self, implies_true]; done) | (with_reducible refine kept_ite ?_ ?_) | (with_reducible refine (foldl_kept _ _ _ fun s x => ?_).trans ?_) | (simp only [↓State.fetch_kept, ↓State.finishTag_kept, ↓State.putOut_kept, ↓State.setQueue_kept, ↓foldl_kept, ↓ite_kept, ite_self, implies_true]) | split)

@[simp] theorem State.countErr_kept (s : State) (hi lo : Nat) :
    (State.countErr s hi lo).kept = s.kept := by
  rfl

@[simp] theorem State.udpPacket_kept (s : State) (q : Fin 16) (port : Fin 2) (src : Endpoint) (bs : List Byte) :
    (State.udpPacket s q port src bs).kept = s.kept := by
  unfold State.udpPacket
  try simp only [↓State.countErr_kept, ↓State.intake_kept, ↓State.reply_kept, ↓State.setQueue_kept, ↓ite_kept, ite_self]
  repeat' (first | with_reducible rfl | (simp only [↓State.countErr_kept, ↓State.intake_kept, ↓State.reply_kept, ↓State.setQueue_kept, ↓ite_kept, ite_self]; done) | (with_reducible refine kept_ite ?_ ?_) | (simp only [↓State.countErr_kept, ↓State.intake_kept, ↓State.reply_kept, ↓State.setQueue_kept, ↓ite_kept, ite_self]) | split)

@[simp] theorem State.dropJob_kept (s : State) :
    (State.dropJob s).kept = s.kept := by
  rfl

@[simp] theorem State.dropImage_kept (s : State) (o : Pkt) :
    (State.dropImage s o).kept = s.kept := by
  unfold State.dropImage
  simp only [↓State.dropJob_kept, ↓State.sendBenjo_kept, ↓ite_kept, ite_self]

@[simp] theorem State.showPanel_kept (s : State) (bs : List Byte) (at_ : Option Nat) :
    (State.showPanel s bs at_).kept = s.kept := by
  unfold State.showPanel
  simp only [↓State.emit_kept, ↓State.setHost_kept, ↓ite_kept, ite_self]

@[simp] theorem State.toPending_kept (s : State) (p : Pkt) :
    (State.toPending s p).kept = s.kept := by
  unfold State.toPending
  simp only [↓State.finish_kept, ↓State.interim_kept, ↓State.nextFree_kept, ↓State.setHost_kept, ↓State.setQueue_kept, ↓State.showPanel_kept, ↓State.withdrawSwap_kept, ↓ite_kept, ite_self]

@[simp] theorem State.closePresence_kept (s : State) (last : Byte) :
    (State.closePresence s last).kept = s.kept := by
  unfold State.closePresence
  try simp only [↓State.dropJob_kept, ↓State.sendBenjo_kept, ↓State.setHost_kept, ↓State.showPanel_kept, ↓ite_kept, ite_self]
  repeat' (first | with_reducible rfl | (simp only [↓State.dropJob_kept, ↓State.sendBenjo_kept, ↓State.setHost_kept, ↓State.showPanel_kept, ↓ite_kept, ite_self]; done) | (with_reducible refine kept_ite ?_ ?_) | (simp only [↓State.dropJob_kept, ↓State.sendBenjo_kept, ↓State.setHost_kept, ↓State.showPanel_kept, ↓ite_kept, ite_self]) | split)

@[simp] theorem State.denyGate_kept (s : State) (last : Byte) (status : Nat) (reason : Word) :
    (State.denyGate s last status reason).kept = s.kept := by
  unfold State.denyGate
  try simp only [↓State.closePresence_kept, ↓State.finish_kept]
  repeat' (first | with_reducible rfl | (simp only [↓State.closePresence_kept, ↓State.finish_kept]; done) | (with_reducible refine kept_ite ?_ ?_) | (simp only [↓State.closePresence_kept, ↓State.finish_kept]) | split)

@[simp] theorem State.expireGate_kept (s : State) :
    (State.expireGate s).kept = s.kept := by
  unfold State.expireGate
  simp only [↓State.denyGate_kept, ↓ite_kept, ite_self]

@[simp] theorem State.canForget_kept (s : State) (q tag : Nat) :
    (State.canForget s q tag).kept = s.kept := by
  rfl

@[simp] theorem State.startReset_kept (s : State) (q : Fin 16) (by_ : List (Nat × Nat)) :
    (State.startReset s q by_).kept = s.kept := by
  unfold State.startReset
  try simp only [↓State.canForget_kept, ↓State.closePresence_kept, ↓State.dropImage_kept, ↓State.expireGate_kept, ↓State.finishTag_kept, ↓State.setCell_kept, ↓State.setQueue_kept, ↓foldl_kept, ↓ite_kept, ite_self, implies_true]
  repeat' (first | with_reducible rfl | (simp only [↓State.canForget_kept, ↓State.closePresence_kept, ↓State.dropImage_kept, ↓State.expireGate_kept, ↓State.finishTag_kept, ↓State.setCell_kept, ↓State.setQueue_kept, ↓foldl_kept, ↓ite_kept, ite_self, implies_true]; done) | (with_reducible refine kept_ite ?_ ?_) | (with_reducible refine (foldl_kept _ _ _ fun s x => ?_).trans ?_) | (simp only [↓State.canForget_kept, ↓State.closePresence_kept, ↓State.dropImage_kept, ↓State.expireGate_kept, ↓State.finishTag_kept, ↓State.setCell_kept, ↓State.setQueue_kept, ↓foldl_kept, ↓ite_kept, ite_self, implies_true]) | split)

@[simp] theorem State.abortTarget_kept (s : State) (o p : Pkt) :
    (State.abortTarget s o p).kept = s.kept := by
  unfold State.abortTarget
  try simp only [↓State.closePresence_kept, ↓State.dropImage_kept, ↓State.dropPart_kept, ↓State.finishN_kept, ↓ite_kept, ite_self]
  repeat' (first | with_reducible rfl | (simp only [↓State.closePresence_kept, ↓State.dropImage_kept, ↓State.dropPart_kept, ↓State.finishN_kept, ↓ite_kept, ite_self]; done) | (with_reducible refine kept_ite ?_ ?_) | (simp only [↓State.closePresence_kept, ↓State.dropImage_kept, ↓State.dropPart_kept, ↓State.finishN_kept, ↓ite_kept, ite_self]) | split)

/-! ### Operations of Time -/

@[simp] theorem State.tbEnter_kept (s : State) (st : TbState) :
    (State.tbEnter s st).kept = s.kept := by
  unfold State.tbEnter
  try simp only [↓State.notice_kept, ↓State.setTime_kept, ↓ite_kept, ite_self]
  repeat' (first | with_reducible rfl | (simp only [↓State.notice_kept, ↓State.setTime_kept, ↓ite_kept, ite_self]; done) | (with_reducible refine kept_ite ?_ ?_) | (simp only [↓State.notice_kept, ↓State.setTime_kept, ↓ite_kept, ite_self]) | split)

@[simp] theorem State.holdOver_kept (s : State) :
    (State.holdOver s).kept = s.kept := by
  unfold State.holdOver
  simp only [↓State.nextFree_kept, ↓State.setTime_kept, ↓State.tbEnter_kept, ↓ite_kept, ite_self]

@[simp] theorem State.tbLost_kept (s : State) :
    (State.tbLost s).kept = s.kept := by
  unfold State.tbLost
  try simp only [↓State.holdOver_kept, ↓State.tbEnter_kept, ↓ite_kept, ite_self]
  repeat' (first | with_reducible rfl | (simp only [↓State.holdOver_kept, ↓State.tbEnter_kept, ↓ite_kept, ite_self]; done) | (with_reducible refine kept_ite ?_ ?_) | (simp only [↓State.holdOver_kept, ↓State.tbEnter_kept, ↓ite_kept, ite_self]) | split)

@[simp] theorem State.correctPhase_kept (s : State) (d : Int) :
    (State.correctPhase s d).kept = s.kept := by
  unfold State.correctPhase
  simp only [↓State.setTime_kept, ↓ite_kept, ite_self]

@[simp] theorem State.measure_kept (s : State) (d : Int) :
    (State.measure s d).kept = s.kept := by
  unfold State.measure
  try simp only [↓State.correctPhase_kept, ↓State.nextFree_kept, ↓State.setTime_kept, ↓State.tbEnter_kept, ↓ite_kept, ite_self]
  repeat' (first | with_reducible rfl | (simp only [↓State.correctPhase_kept, ↓State.nextFree_kept, ↓State.setTime_kept, ↓State.tbEnter_kept, ↓ite_kept, ite_self]; done) | (with_reducible refine kept_ite ?_ ?_) | (simp only [↓State.correctPhase_kept, ↓State.nextFree_kept, ↓State.setTime_kept, ↓State.tbEnter_kept, ↓ite_kept, ite_self]) | split)

@[simp] theorem State.setPtpSlot_kept (s : State) (n : Fin 2) (v : SlotServo) :
    (State.setPtpSlot s n v).kept = s.kept := by
  rfl

@[simp] theorem State.syncDone_kept (s : State) (n p : Fin 2) (t1 t2 : Int) :
    (State.syncDone s n p t1 t2).kept = s.kept := by
  unfold State.syncDone
  try simp only [↓State.measure_kept, ↓State.setPtpSlot_kept, ↓State.tbEnter_kept, ↓ite_kept, ite_self]
  repeat' (first | with_reducible rfl | (simp only [↓State.measure_kept, ↓State.setPtpSlot_kept, ↓State.tbEnter_kept, ↓ite_kept, ite_self]; done) | (with_reducible refine kept_ite ?_ ?_) | (simp only [↓State.measure_kept, ↓State.setPtpSlot_kept, ↓State.tbEnter_kept, ↓ite_kept, ite_self]) | split)

@[simp] theorem State.ptpOut_kept (s : State) (n p : Fin 2) (m : PtpOut) :
    (State.ptpOut s n p m).kept = s.kept := by
  rfl

@[simp] theorem State.takeAnnounce_kept (s : State) (n p : Fin 2) (source : BitVec 80) (ds : PtpDataset) (utc : Int) (valid : Bool) :
    (State.takeAnnounce s n p source ds utc valid).kept = s.kept := by
  unfold State.takeAnnounce
  simp only [↓State.setPtpSlot_kept, ↓State.setTime_kept, ↓ite_kept, ite_self]

@[simp] theorem State.ptpSend_kept (s : State) (n p : Fin 2) :
    (State.ptpSend s n p).kept = s.kept := by
  unfold State.ptpSend
  simp only [↓State.ptpOut_kept, ↓State.setPtpSlot_kept, ↓ite_kept, ite_self]

@[simp] theorem State.ptpSends_kept (s : State) :
    (State.ptpSends s).kept = s.kept := by
  unfold State.ptpSends
  simp only [↓State.ptpSend_kept, ↓ite_kept, ite_self]

@[simp] theorem State.setSource_kept (s : State) (src : Nat) :
    (State.setSource s src).kept = s.kept := by
  unfold State.setSource
  try simp only [↓State.setTime_kept, ↓State.tbEnter_kept, ↓ite_kept, ite_self]
  repeat' (first | with_reducible rfl | (simp only [↓State.setTime_kept, ↓State.tbEnter_kept, ↓ite_kept, ite_self]; done) | (with_reducible refine kept_ite ?_ ?_) | (simp only [↓State.setTime_kept, ↓State.tbEnter_kept, ↓ite_kept, ite_self]) | split)

@[simp] theorem State.setDomain_kept (s : State) (n : Fin 2) (v : Word) :
    (State.setDomain s n v).kept = s.kept := by
  unfold State.setDomain
  simp only [↓State.holdOver_kept, ↓State.setTime_kept, ↓ite_kept, ite_self]

@[simp] theorem State.useSlot_kept (s : State) (n : Fin 2) :
    (State.useSlot s n).kept = s.kept := by
  unfold State.useSlot
  try simp only [↓State.correctPhase_kept, ↓State.notice_kept, ↓State.setTime_kept, ↓State.tbLost_kept, ↓ite_kept, ite_self]
  repeat' (first | with_reducible rfl | (simp only [↓State.correctPhase_kept, ↓State.notice_kept, ↓State.setTime_kept, ↓State.tbLost_kept, ↓ite_kept, ite_self]; done) | (with_reducible refine kept_ite ?_ ?_) | (simp only [↓State.correctPhase_kept, ↓State.notice_kept, ↓State.setTime_kept, ↓State.tbLost_kept, ↓ite_kept, ite_self]) | split)

@[simp] theorem State.setSelect_kept (s : State) (v : Nat) :
    (State.setSelect s v).kept = s.kept := by
  unfold State.setSelect
  simp only [↓State.setTime_kept, ↓State.useSlot_kept, ↓ite_kept, ite_self]

/-! ### Operations of Motion -/

@[simp] theorem State.protect_kept (s : State) (c : Fin 16) (code : ChFault) :
    (State.protect s c code).kept = s.kept := by
  unfold State.protect
  simp only [↓State.nextFree_kept, ↓State.notice_kept, ↓State.setChain_kept, ↓ite_kept, ite_self]

@[simp] theorem State.segFault_kept (s : State) (c : Fin 16) (f : ChFault) :
    (State.segFault s c f).kept = s.kept := by
  rfl

@[simp] theorem State.barrierOut_kept (s : State) (c : Fin 16) :
    (State.barrierOut s c).kept = s.kept := by
  rfl

@[simp] theorem State.cancelBarriers_kept (s : State) (c : Nat) (flushed : List (List Byte)) :
    (State.cancelBarriers s c flushed).kept = s.kept := by
  unfold State.cancelBarriers
  try simp only [↓State.barrierOut_kept, ↓foldOn_kept, ↓ite_kept, ite_self, implies_true]
  repeat' (first | with_reducible rfl | (simp only [↓State.barrierOut_kept, ↓foldOn_kept, ↓ite_kept, ite_self, implies_true]; done) | (with_reducible refine kept_ite ?_ ?_) | (with_reducible refine (foldOn_kept _ _ _ fun s x => ?_).trans ?_) | (simp only [↓State.barrierOut_kept, ↓foldOn_kept, ↓ite_kept, ite_self, implies_true]) | split)

@[simp] theorem State.flush_kept (s : State) (c : Fin 16) :
    (State.flush s c).kept = s.kept := by
  unfold State.flush
  simp only [↓State.cancelBarriers_kept, ↓State.setChain_kept]

@[simp] theorem State.shedChain_kept (s : State) (c : Fin 16) :
    (State.shedChain s c).kept = s.kept := by
  unfold State.shedChain
  simp only [↓State.setChain_kept]

@[simp] theorem State.applyStop_kept (s : State) (c : Fin 16) (kind : Nat) :
    (State.applyStop s c kind).kept = s.kept := by
  unfold State.applyStop
  try simp only [↓State.flush_kept, ↓State.nextFree_kept, ↓State.protect_kept, ↓State.setChain_kept, ↓ite_kept, ite_self]
  repeat' (first | with_reducible rfl | (simp only [↓State.flush_kept, ↓State.nextFree_kept, ↓State.protect_kept, ↓State.setChain_kept, ↓ite_kept, ite_self]; done) | (with_reducible refine kept_ite ?_ ?_) | (simp only [↓State.flush_kept, ↓State.nextFree_kept, ↓State.protect_kept, ↓State.setChain_kept, ↓ite_kept, ite_self]) | split)

@[simp] theorem State.applyResume_kept (s : State) (c : Fin 16) :
    (State.applyResume s c).kept = s.kept := by
  unfold State.applyResume
  try simp only [↓State.setChain_kept, ↓ite_kept, ite_self]
  repeat' (first | with_reducible rfl | (simp only [↓State.setChain_kept, ↓ite_kept, ite_self]; done) | (with_reducible refine kept_ite ?_ ?_) | (simp only [↓State.setChain_kept, ↓ite_kept, ite_self]) | split)

@[simp] theorem State.addMotionCmd_kept (s : State) (m : MotionCmd) :
    (State.addMotionCmd s m).kept = s.kept := by
  rfl

/-! ### Operations of Safety -/

@[simp] theorem State.drive_kept (s : State) (c : Fin 16) :
    (State.drive s c).kept = s.kept := by
  rfl

@[simp] theorem State.setTestTorque_kept (s : State) (c : Fin 16) (num : Int) :
    (State.setTestTorque s c num).kept = s.kept := by
  unfold State.setTestTorque
  try simp only [↓State.setAxis_kept, ↓foldOn_kept, ↓ite_kept, ite_self, implies_true]
  repeat' (first | with_reducible rfl | (simp only [↓State.setAxis_kept, ↓foldOn_kept, ↓ite_kept, ite_self, implies_true]; done) | (with_reducible refine kept_ite ?_ ?_) | (with_reducible refine (foldOn_kept _ _ _ fun s x => ?_).trans ?_) | (simp only [↓State.setAxis_kept, ↓foldOn_kept, ↓ite_kept, ite_self, implies_true]) | split)

@[simp] theorem State.restartAxes_kept (s : State) (axes : List Nat) :
    (State.restartAxes s axes).kept = s.kept := by
  rfl

@[simp] theorem State.restartLoops_kept (s : State) (c : Fin 16) :
    (State.restartLoops s c).kept = s.kept := by
  rfl

@[simp] theorem State.abortTest_kept (s : State) (c : Fin 16) :
    (State.abortTest s c).kept = s.kept := by
  unfold State.abortTest
  try simp only [↓State.notice_kept, ↓State.restartLoops_kept, ↓State.setIndex_kept, ↓State.setTestTorque_kept]
  repeat' (first | with_reducible rfl | (simp only [↓State.notice_kept, ↓State.restartLoops_kept, ↓State.setIndex_kept, ↓State.setTestTorque_kept]; done) | (with_reducible refine kept_ite ?_ ?_) | (simp only [↓State.notice_kept, ↓State.restartLoops_kept, ↓State.setIndex_kept, ↓State.setTestTorque_kept]) | split)

@[simp] theorem State.toSto_kept (s : State) (c : Fin 16) (cause : Nat) (fast : Bool) :
    (State.toSto s c cause fast).kept = s.kept := by
  unfold State.toSto
  simp only [↓State.abortTest_kept, ↓State.drive_kept, ↓State.protect_kept, ↓State.setIndex_kept, ↓ite_kept, ite_self]

@[simp] theorem State.toSs1_kept (s : State) (c : Fin 16) (cause : Nat) :
    (State.toSs1 s c cause).kept = s.kept := by
  unfold State.toSs1
  simp only [↓State.abortTest_kept, ↓State.addMotionCmd_kept, ↓State.drive_kept, ↓State.protect_kept, ↓State.setIndex_kept]

@[simp] theorem State.stopIndex_kept (s : State) (c : Fin 16) (cat cause : Nat) (fast : Bool) :
    (State.stopIndex s c cat cause fast).kept = s.kept := by
  unfold State.stopIndex
  try simp only [↓State.setIndex_kept, ↓State.toSs1_kept, ↓State.toSto_kept, ↓ite_kept, ite_self]
  repeat' (first | with_reducible rfl | (simp only [↓State.setIndex_kept, ↓State.toSs1_kept, ↓State.toSto_kept, ↓ite_kept, ite_self]; done) | (with_reducible refine kept_ite ?_ ?_) | (simp only [↓State.setIndex_kept, ↓State.toSs1_kept, ↓State.toSto_kept, ↓ite_kept, ite_self]) | split)

@[simp] theorem State.motionStop34_kept (s : State) (c : Fin 16) :
    (State.motionStop34 s c).kept = s.kept := by
  unfold State.motionStop34
  simp only [↓State.stopIndex_kept]

@[simp] theorem State.enterBath_kept (s : State) (cause : Nat) :
    (State.enterBath s cause).kept = s.kept := by
  unfold State.enterBath
  simp only [↓State.setSafety_kept, ↓State.stopIndex_kept, ↓foldOn_kept, implies_true]

@[simp] theorem State.applyFuncs_kept (s : State) (c : Fin 16) (old : BitVec 32) :
    (State.applyFuncs s c old).kept = s.kept := by
  unfold State.applyFuncs
  simp only [↓State.setIndex_kept, ↓State.stopIndex_kept, ↓foldl_kept, ↓ite_kept, ite_self, implies_true]

@[simp] theorem State.releaseNodes_kept (s : State) (c : Fin 16) :
    (State.releaseNodes s c).kept = s.kept := by
  unfold State.releaseNodes
  simp only [↓State.sendMgmt_kept, ↓foldl_kept, ↓ite_kept, ite_self, implies_true]

@[simp] theorem State.clearAxisFaults_kept (s : State) (axes : List Nat) :
    (State.clearAxisFaults s axes).kept = s.kept := by
  unfold State.clearAxisFaults
  simp only [↓State.restartAxes_kept, ↓State.setAxis_kept, ↓foldl_kept, ↓ite_kept, ite_self, implies_true]

@[simp] theorem State.toRun_kept (s : State) (c : Fin 16) :
    (State.toRun s c).kept = s.kept := by
  unfold State.toRun
  simp only [↓State.drive_kept, ↓State.setChain_kept, ↓State.setIndex_kept]

@[simp] theorem State.refuseReset_kept (s : State) (reason : Nat) :
    (State.refuseReset s reason).kept = s.kept := by
  rfl

@[simp] theorem State.evalFuncs_kept (s : State) :
    (State.evalFuncs s).kept = s.kept := by
  unfold State.evalFuncs
  try simp only [↓State.applyFuncs_kept, ↓State.refuseReset_kept, ↓State.setSafety_kept, ↓State.toRun_kept, ↓foldOn_kept, ↓ite_kept, ite_self, implies_true]
  repeat' (first | with_reducible rfl | (simp only [↓State.applyFuncs_kept, ↓State.refuseReset_kept, ↓State.setSafety_kept, ↓State.toRun_kept, ↓foldOn_kept, ↓ite_kept, ite_self, implies_true]; done) | (with_reducible refine kept_ite ?_ ?_) | (with_reducible refine (foldOn_kept _ _ _ fun s x => ?_).trans ?_) | (simp only [↓State.applyFuncs_kept, ↓State.refuseReset_kept, ↓State.setSafety_kept, ↓State.toRun_kept, ↓foldOn_kept, ↓ite_kept, ite_self, implies_true]) | split)

@[simp] theorem State.clearPairs_kept (s : State) :
    (State.clearPairs s).kept = s.kept := by
  rfl

@[simp] theorem State.judgeReset_kept (s : State) (chains : List Nat) (srst : Bool) :
    (State.judgeReset s chains srst).kept = s.kept := by
  unfold State.judgeReset
  have hs : ∀ (t : State) (f : SafetySt), ((t.setSafety f).setSys { t.sys with supplyStop := false }).kept = t.kept :=
    fun _ _ => rfl
  dsimp only
  repeat' (first | with_reducible rfl | (simp only [↓hs, ↓State.clearAxisFaults_kept, ↓State.clearPairs_kept, ↓State.refuseReset_kept, ↓State.releaseNodes_kept, ↓State.setChain_kept, ↓State.setSafety_kept, ↓State.setSys_kept, ↓State.toRun_kept, ↓foldOn_kept, ↓ite_kept, ite_self, implies_true]; done) | (with_reducible refine kept_ite ?_ ?_) | (with_reducible refine (foldOn_kept _ _ _ fun s x => ?_).trans ?_) | (simp only [↓hs, ↓State.clearAxisFaults_kept, ↓State.clearPairs_kept, ↓State.refuseReset_kept, ↓State.releaseNodes_kept, ↓State.setChain_kept, ↓State.setSafety_kept, ↓State.setSys_kept, ↓State.toRun_kept, ↓foldOn_kept, ↓ite_kept, ite_self, implies_true]) | split)

@[simp] theorem State.judgeResets_kept (s : State) :
    (State.judgeResets s).kept = s.kept := by
  unfold State.judgeResets
  try simp only [↓State.judgeReset_kept, ↓State.refuseReset_kept, ↓State.setSafety_kept, ↓foldl_kept, implies_true]
  repeat' (first | with_reducible rfl | (simp only [↓State.judgeReset_kept, ↓State.refuseReset_kept, ↓State.setSafety_kept, ↓foldl_kept, implies_true]; done) | (with_reducible refine kept_ite ?_ ?_) | (with_reducible refine (foldl_kept _ _ _ fun s x => ?_).trans ?_) | (simp only [↓State.judgeReset_kept, ↓State.refuseReset_kept, ↓State.setSafety_kept, ↓foldl_kept, implies_true]) | split)

@[simp] theorem State.ss1Cycle_kept (s : State) (c : Fin 16) :
    (State.ss1Cycle s c).kept = s.kept := by
  unfold State.ss1Cycle
  try simp only [↓State.setIndex_kept, ↓State.toSto_kept, ↓ite_kept, ite_self]
  repeat' (first | with_reducible rfl | (simp only [↓State.setIndex_kept, ↓State.toSto_kept, ↓ite_kept, ite_self]; done) | (with_reducible refine kept_ite ?_ ?_) | (simp only [↓State.setIndex_kept, ↓State.toSto_kept, ↓ite_kept, ite_self]) | split)

@[simp] theorem State.slsCycle_kept (s : State) (c : Fin 16) :
    (State.slsCycle s c).kept = s.kept := by
  unfold State.slsCycle
  simp only [↓State.setIndex_kept, ↓State.stopIndex_kept, ↓ite_kept, ite_self]

@[simp] theorem State.brakeFault_kept (s : State) (c : Fin 16) :
    (State.brakeFault s c).kept = s.kept := by
  unfold State.brakeFault
  simp only [↓State.setIndex_kept, ↓State.stopIndex_kept]

@[simp] theorem State.requestBrakeTests_kept (s : State) (v : BitVec 16) :
    (State.requestBrakeTests s v).kept = s.kept := by
  unfold State.requestBrakeTests
  simp only [↓State.setIndex_kept, ↓foldOn_kept, implies_true]

@[simp] theorem State.startBrakeTest_kept (s : State) (c : Fin 16) :
    (State.startBrakeTest s c).kept = s.kept := by
  unfold State.startBrakeTest
  simp only [↓State.drive_kept, ↓State.setIndex_kept, ↓ite_kept, ite_self]

@[simp] theorem State.endBrakeTest_kept (s : State) (c : Fin 16) (pass : Bool) :
    (State.endBrakeTest s c pass).kept = s.kept := by
  unfold State.endBrakeTest
  simp only [↓State.brakeFault_kept, ↓State.drive_kept, ↓State.notice_kept, ↓State.restartLoops_kept, ↓State.setIndex_kept, ↓State.setTestTorque_kept, ↓State.toRun_kept, ↓ite_kept, ite_self]

@[simp] theorem State.driveAll_kept (s : State) :
    (State.driveAll s).kept = s.kept := by
  unfold State.driveAll
  simp only [↓State.drive_kept, ↓foldOn_kept, implies_true]

@[simp] theorem State.dropBrakes_kept (s : State) :
    (State.dropBrakes s).kept = s.kept := by
  unfold State.dropBrakes
  simp only [↓State.setIndex_kept, ↓foldOn_kept, implies_true]

@[simp] theorem State.channelFault_kept (s : State) (ch : Fin 2) :
    (State.channelFault s ch).kept = s.kept := by
  unfold State.channelFault
  simp only [↓State.driveAll_kept, ↓State.dropBrakes_kept, ↓State.enterBath_kept, ↓State.setSafety_kept, ↓ite_kept, ite_self]

/-! ### Operations of SchedImage -/

@[simp] theorem State.storeSched_kept (s : State) (p : Pkt) (bs : List Byte) :
    (State.storeSched s p bs).kept = s.kept := by
  unfold State.storeSched
  try simp only [↓State.finish_kept, ↓State.finishOk_kept, ↓State.setSolver_kept, ↓ite_kept, ite_self]
  repeat' (first | with_reducible rfl | (simp only [↓State.finish_kept, ↓State.finishOk_kept, ↓State.setSolver_kept, ↓ite_kept, ite_self]; done) | (with_reducible refine kept_ite ?_ ?_) | (simp only [↓State.finish_kept, ↓State.finishOk_kept, ↓State.setSolver_kept, ↓ite_kept, ite_self]) | split)

/-! ### Operations of Tiles -/

@[simp] theorem State.tileErrors_kept (s : State) (t : Fin 16) (n : Nat) :
    (State.tileErrors s t n).kept = s.kept := by
  rfl

@[simp] theorem State.cutRun_kept (s : State) (t : Fin 16) :
    (State.cutRun s t).kept = s.kept := by
  unfold State.cutRun
  simp only [↓State.nextFree_kept, ↓State.tileErrors_kept, ↓ite_kept, ite_self]

@[simp] theorem State.kernelFault_kept (s : State) (t : Fin 16) (cause : Nat) :
    (State.kernelFault s t cause).kept = s.kept := by
  unfold State.kernelFault
  simp only [↓State.cutRun_kept, ↓State.notice_kept, ↓State.setKernel_kept, ↓State.setTile_kept]

@[simp] theorem State.sticky_kept (s : State) (t : Fin 16) (o : OpOut) :
    (State.sticky s t o).kept = s.kept := by
  unfold State.sticky
  simp only [↓State.notice_kept, ↓State.setKernel_kept, ↓State.setTile_kept, ↓ite_kept, ite_self]

theorem State.tileRun_kept (s : State) (t : Fin 16) (op : Nat) (f : Core → DWord → Core → OpOut)
    (fin : State → KernelImage → OpOut → State) (hf : ∀ s im o, (fin s im o).kept = s.kept) :
    (s.tileRun t op f fin).kept = s.kept := by
  unfold State.tileRun
  repeat' (first | with_reducible rfl | (simp only [↓State.kernelFault_kept, ↓State.setKernel_kept, ↓State.setTile_kept, ↓State.sticky_kept, ↓foldl_kept, ↓ite_kept, ite_self, implies_true, hf]; done) | (with_reducible refine kept_ite ?_ ?_) | (simp only [↓State.kernelFault_kept, ↓State.setKernel_kept, ↓State.setTile_kept, ↓State.sticky_kept, ↓foldl_kept, ↓ite_kept, ite_self, implies_true, hf]) | split)

@[simp] theorem State.tileOp_kept (s : State) (t : Fin 16) (op : Nat) (f : Core → DWord → Core → OpOut) :
    (State.tileOp s t op f).kept = s.kept := by
  refine State.tileRun_kept _ _ _ _ _ (fun s im o => ?_)
  simp only [↓State.kernelFault_kept, ↓State.setTile_kept, ↓State.tileRun_kept, ↓ite_kept, ite_self]

@[simp] theorem State.activate_kept (s : State) (k : Fin 64) (seq : Word) (block : List Word) :
    (State.activate s k seq block).kept = s.kept := by
  unfold State.activate
  simp only [↓State.setKernel_kept, ↓State.setTile_kept, ↓ite_kept, ite_self]

@[simp] theorem State.commit_kept (s : State) (t : Fin 16) (im : KernelImage) :
    (State.commit s t im).kept = s.kept := by
  rfl

/-! ### Operations of Solver -/

@[simp] theorem State.requestParts_kept (s : State) (x : ProbSt) :
    (State.requestParts s x).kept = s.kept := by
  unfold State.requestParts
  simp only [↓State.askUnit_kept, ↓foldl_kept, implies_true]

@[simp] theorem State.releaseParts_kept (s : State) (x : ProbSt) :
    (State.releaseParts s x).kept = s.kept := by
  unfold State.releaseParts
  simp only [↓State.leaveUnit_kept, ↓foldl_kept, implies_true]

@[simp] theorem State.noteSolve_kept (s : State) (p : Fin 4) (v : SolveSt) :
    (State.noteSolve s p v).kept = s.kept := by
  rfl

@[simp] theorem State.laneOp_kept (s : State) (p : Fin 4) (op : Nat) (f : SchedImage → LaneInstr → SolveSt → SolveSt) :
    (State.laneOp s p op f).kept = s.kept := by
  unfold State.laneOp
  try simp only [↓State.noteSolve_kept]
  repeat' (first | with_reducible rfl | (simp only [↓State.noteSolve_kept]; done) | (with_reducible refine kept_ite ?_ ?_) | (simp only [↓State.noteSolve_kept]) | split)

@[simp] theorem State.latchPlan_kept (s : State) :
    (State.latchPlan s).kept = s.kept := by
  rfl

@[simp] theorem State.latchDue_kept (s : State) :
    (State.latchDue s).kept = s.kept := by
  unfold State.latchDue
  simp only [↓State.latchPlan_kept, ↓ite_kept, ite_self]

@[simp] theorem State.lateStage_kept (s : State) :
    (State.lateStage s).kept = s.kept := by
  unfold State.lateStage
  simp only [↓State.setMotion_kept, ↓ite_kept, ite_self]

@[simp] theorem State.stageProblems_kept (s : State) (ps : List (Nat × Option SchedImage)) :
    (State.stageProblems s ps).kept = s.kept := by
  unfold State.stageProblems
  try simp only [↓State.setFree_kept, ↓State.setSolve_kept, ↓foldl_kept, implies_true]
  repeat' (first | with_reducible rfl | (simp only [↓State.setFree_kept, ↓State.setSolve_kept, ↓foldl_kept, implies_true]; done) | (with_reducible refine kept_ite ?_ ?_) | (with_reducible refine (foldl_kept _ _ _ fun s x => ?_).trans ?_) | (simp only [↓State.setFree_kept, ↓State.setSolve_kept, ↓foldl_kept, implies_true]) | split)

@[simp] theorem State.dropStaged_kept (s : State) :
    (State.dropStaged s).kept = s.kept := by
  rfl

@[simp] theorem State.assembleOne_kept (s : State) (p : Fin 4) (g : SchedImage) (late : Bool) :
    (State.assembleOne s p g late).kept = s.kept := by
  unfold State.assembleOne
  simp only [↓State.setProb_kept, ↓State.setSolve_kept, ↓State.setSolver_kept, ↓foldl_kept, ↓ite_kept, ite_self, implies_true]

@[simp] theorem State.corrected_kept (s : State) (p : Fin 4) (n : Nat) :
    (State.corrected s p n).kept = s.kept := by
  rfl

@[simp] theorem State.notSolved_kept (s : State) (p : Fin 4) (flags : Nat) :
    (State.notSolved s p flags).kept = s.kept := by
  unfold State.notSolved
  simp only [↓State.corrected_kept, ↓State.nextFree_kept, ↓State.releaseParts_kept, ↓State.setSolve_kept, ↓ite_kept, ite_self]

@[simp] theorem State.overrun_kept (s : State) (p : Fin 4) :
    (State.overrun s p).kept = s.kept := by
  unfold State.overrun
  simp only [↓State.notSolved_kept, ↓State.setSolver_kept, ↓ite_kept, ite_self]

@[simp] theorem State.newBank_kept (s : State) (axis : Nat) (k0 k1 : List Word) :
    (State.newBank s axis k0 k1).kept = s.kept := by
  rfl

@[simp] theorem State.solveMiss_kept (s : State) (p : Fin 4) (g : SchedImage) :
    (State.solveMiss s p g).kept = s.kept := by
  unfold State.solveMiss
  try simp only [↓State.motionStop34_kept, ↓State.newBank_kept, ↓State.protect_kept, ↓State.setChain_kept, ↓State.setMotion_kept, ↓foldl_kept, ↓ite_kept, ite_self, implies_true]
  repeat' (first | with_reducible rfl | (simp only [↓State.motionStop34_kept, ↓State.newBank_kept, ↓State.protect_kept, ↓State.setChain_kept, ↓State.setMotion_kept, ↓foldl_kept, ↓ite_kept, ite_self, implies_true]; done) | (with_reducible refine kept_ite ?_ ?_) | (with_reducible refine (foldl_kept _ _ _ fun s x => ?_).trans ?_) | (simp only [↓State.motionStop34_kept, ↓State.newBank_kept, ↓State.protect_kept, ↓State.setChain_kept, ↓State.setMotion_kept, ↓foldl_kept, ↓ite_kept, ite_self, implies_true]) | split)

@[simp] theorem State.distribute_kept (s : State) (p : Fin 4) (g : SchedImage) :
    (State.distribute s p g).kept = s.kept := by
  unfold State.distribute
  try simp only [↓State.newBank_kept, ↓State.setChain_kept, ↓State.setMotion_kept, ↓State.setSolve_kept, ↓foldl_kept, implies_true]
  repeat' (first | with_reducible rfl | (simp only [↓State.newBank_kept, ↓State.setChain_kept, ↓State.setMotion_kept, ↓State.setSolve_kept, ↓foldl_kept, implies_true]; done) | (with_reducible refine kept_ite ?_ ?_) | (with_reducible refine (foldl_kept _ _ _ fun s x => ?_).trans ?_) | (simp only [↓State.newBank_kept, ↓State.setChain_kept, ↓State.setMotion_kept, ↓State.setSolve_kept, ↓foldl_kept, implies_true]) | split)

@[simp] theorem State.distributeKept_kept (s : State) (p : Fin 4) (g : SchedImage) :
    (State.distributeKept s p g).kept = s.kept := by
  unfold State.distributeKept
  simp only [↓State.distribute_kept, ↓State.setSolve_kept]

@[simp] theorem State.takeBack_kept (s : State) (p : Fin 4) :
    (State.takeBack s p).kept = s.kept := by
  unfold State.takeBack
  try simp only [↓State.setChain_kept, ↓State.setMotion_kept, ↓State.setSolve_kept, ↓State.solveMiss_kept, ↓foldl_kept, ↓ite_kept, ite_self, implies_true]
  repeat' (first | with_reducible rfl | (simp only [↓State.setChain_kept, ↓State.setMotion_kept, ↓State.setSolve_kept, ↓State.solveMiss_kept, ↓foldl_kept, ↓ite_kept, ite_self, implies_true]; done) | (with_reducible refine kept_ite ?_ ?_) | (with_reducible refine (foldl_kept _ _ _ fun s x => ?_).trans ?_) | (simp only [↓State.setChain_kept, ↓State.setMotion_kept, ↓State.setSolve_kept, ↓State.solveMiss_kept, ↓foldl_kept, ↓ite_kept, ite_self, implies_true]) | split)

@[simp] theorem State.sendSolve_kept (s : State) (key : Nat) (x : List Word) :
    (State.sendSolve s key x).kept = s.kept := by
  rfl

@[simp] theorem State.settleSolve_kept (s : State) (p : Fin 4) :
    (State.settleSolve s p).kept = s.kept := by
  unfold State.settleSolve
  try simp only [↓State.distribute_kept, ↓State.distributeKept_kept, ↓State.diverge_kept, ↓State.notSolved_kept, ↓State.sendSolve_kept, ↓State.setSolve_kept, ↓State.setSolver_kept, ↓State.solveMiss_kept, ↓ite_kept, ite_self]
  repeat' (first | with_reducible rfl | (simp only [↓State.distribute_kept, ↓State.distributeKept_kept, ↓State.diverge_kept, ↓State.notSolved_kept, ↓State.sendSolve_kept, ↓State.setSolve_kept, ↓State.setSolver_kept, ↓State.solveMiss_kept, ↓ite_kept, ite_self]; done) | (with_reducible refine kept_ite ?_ ?_) | (simp only [↓State.distribute_kept, ↓State.distributeKept_kept, ↓State.diverge_kept, ↓State.notSolved_kept, ↓State.sendSolve_kept, ↓State.setSolve_kept, ↓State.setSolver_kept, ↓State.solveMiss_kept, ↓ite_kept, ite_self]) | split)

@[simp] theorem State.keepRecord_kept (s : State) (p : Fin 4) :
    (State.keepRecord s p).kept = s.kept := by
  rfl

@[simp] theorem State.settle_kept (s : State) (p : Fin 4) :
    (State.settle s p).kept = s.kept := by
  unfold State.settle
  try simp only [↓State.keepRecord_kept, ↓State.settleSolve_kept, ↓ite_kept, ite_self]
  repeat' (first | with_reducible rfl | (simp only [↓State.keepRecord_kept, ↓State.settleSolve_kept, ↓ite_kept, ite_self]; done) | (with_reducible refine kept_ite ?_ ?_) | (simp only [↓State.keepRecord_kept, ↓State.settleSolve_kept, ↓ite_kept, ite_self]) | split)

@[simp] theorem State.auxBanks_kept (s : State) :
    (State.auxBanks s).kept = s.kept := by
  unfold State.auxBanks
  simp only [↓State.newBank_kept, ↓foldOn_kept, implies_true]

/-! ### Operations of Can -/

@[simp] theorem State.canEnter_kept (s : State) (n : Fin 4) (st : CanState) :
    (State.canEnter s n st).kept = s.kept := by
  unfold State.canEnter
  simp only [↓State.notice_kept, ↓State.setCanN_kept, ↓ite_kept, ite_self]

@[simp] theorem State.canConfine_kept (s : State) (n : Fin 4) :
    (State.canConfine s n).kept = s.kept := by
  unfold State.canConfine
  try simp only [↓State.canEnter_kept, ↓State.setCanN_kept, ↓ite_kept, ite_self]
  repeat' (first | with_reducible rfl | (simp only [↓State.canEnter_kept, ↓State.setCanN_kept, ↓ite_kept, ite_self]; done) | (with_reducible refine kept_ite ?_ ?_) | (simp only [↓State.canEnter_kept, ↓State.setCanN_kept, ↓ite_kept, ite_self]) | split)

@[simp] theorem State.canBuf_kept (s : State) (n : Fin 4) (b : Fin 64) (f : CanBuf → CanBuf) :
    (State.canBuf s n b f).kept = s.kept := by
  rfl

@[simp] theorem State.canShare_kept (s : State) (n : Fin 4) (b kind : Nat) (rest : List Byte) :
    (State.canShare s n b kind rest).kept = s.kept := by
  unfold State.canShare
  simp only [↓State.sendBenjo_kept, ↓ite_kept, ite_self]

@[simp] theorem State.canStore_kept (s : State) (n : Fin 4) (f : CanFrame) (stamp : DWord) :
    (State.canStore s n f stamp).kept = s.kept := by
  unfold State.canStore
  try simp only [↓State.canShare_kept, ↓State.setCanN_kept, ↓ite_kept, ite_self]
  repeat' (first | with_reducible rfl | (simp only [↓State.canShare_kept, ↓State.setCanN_kept, ↓ite_kept, ite_self]; done) | (with_reducible refine kept_ite ?_ ?_) | (simp only [↓State.canShare_kept, ↓State.setCanN_kept, ↓ite_kept, ite_self]) | split)

@[simp] theorem State.canLock_kept (s : State) (n : Fin 4) (b : Fin 64) :
    (State.canLock s n b).kept = s.kept := by
  rfl

@[simp] theorem State.canRelease_kept (s : State) (n : Fin 4) (b : Fin 64) :
    (State.canRelease s n b).kept = s.kept := by
  rfl

@[simp] theorem State.endTx_kept (s : State) (n : Fin 4) (b : Fin 64) (v : Verdict) (outcome : Word) :
    (State.endTx s n b v outcome).kept = s.kept := by
  unfold State.endTx
  try simp only [↓State.canBuf_kept, ↓State.finishN_kept, ↓State.finishTag_kept, ↓foldl_kept, ↓ite_kept, ite_self, implies_true]
  repeat' (first | with_reducible rfl | (simp only [↓State.canBuf_kept, ↓State.finishN_kept, ↓State.finishTag_kept, ↓foldl_kept, ↓ite_kept, ite_self, implies_true]; done) | (with_reducible refine kept_ite ?_ ?_) | (with_reducible refine (foldl_kept _ _ _ fun s x => ?_).trans ?_) | (simp only [↓State.canBuf_kept, ↓State.finishN_kept, ↓State.finishTag_kept, ↓foldl_kept, ↓ite_kept, ite_self, implies_true]) | split)

@[simp] theorem State.leaveBus_kept (s : State) (n : Fin 4) (b : Fin 64) :
    (State.leaveBus s n b).kept = s.kept := by
  unfold State.leaveBus
  simp only [↓State.canBuf_kept, ↓State.canShare_kept, ↓State.endTx_kept, ↓State.setCanN_kept, ↓ite_kept, ite_self]

@[simp] theorem State.settleCancels_kept (s : State) :
    (State.settleCancels s).kept = s.kept := by
  unfold State.settleCancels
  simp only [↓State.endTx_kept, ↓foldOn_kept, ↓ite_kept, ite_self, implies_true]

@[simp] theorem State.setCanCtrl_kept (s : State) (n : Fin 4) (v : Word) :
    (State.setCanCtrl s n v).kept = s.kept := by
  unfold State.setCanCtrl
  try simp only [↓State.canEnter_kept, ↓State.leaveBus_kept, ↓State.setCanN_kept, ↓ite_kept, ite_self]
  repeat' (first | with_reducible rfl | (simp only [↓State.canEnter_kept, ↓State.leaveBus_kept, ↓State.setCanN_kept, ↓ite_kept, ite_self]; done) | (with_reducible refine kept_ite ?_ ?_) | (simp only [↓State.canEnter_kept, ↓State.leaveBus_kept, ↓State.setCanN_kept, ↓ite_kept, ite_self]) | split)

/-! ### Operations of Loops -/

@[simp] theorem State.traceEvent_kept (s : State) (e : Fin 16) (source : Nat) :
    (State.traceEvent s e source).kept = s.kept := by
  unfold State.traceEvent
  simp only [↓State.setEngine_kept, ↓ite_kept, ite_self]

@[simp] theorem State.traceRow_kept (s : State) (e : Fin 16) (seq : Word) :
    (State.traceRow s e seq).kept = s.kept := by
  unfold State.traceRow
  simp only [↓State.setEngine_kept, ↓ite_kept, ite_self]

@[simp] theorem State.armTrace_kept (s : State) (e : Fin 16) :
    (State.armTrace s e).kept = s.kept := by
  rfl

@[simp] theorem State.setGroup_kept (s : State) (k : Nat) (g : GroupSt) :
    (State.setGroup s k g).kept = s.kept := by
  rfl

@[simp] theorem State.markPrimary_kept (s : State) (key m : Nat) :
    (State.markPrimary s key m).kept = s.kept := by
  rfl

@[simp] theorem State.endHandover_kept (s : State) (key : Nat) (faulted : Bool) :
    (State.endHandover s key faulted).kept = s.kept := by
  unfold State.endHandover
  try simp only [↓State.finishTag_kept, ↓State.markPrimary_kept, ↓State.setGroup_kept]
  repeat' (first | with_reducible rfl | (simp only [↓State.finishTag_kept, ↓State.markPrimary_kept, ↓State.setGroup_kept]; done) | (with_reducible refine kept_ite ?_ ?_) | (simp only [↓State.finishTag_kept, ↓State.markPrimary_kept, ↓State.setGroup_kept]) | split)

@[simp] theorem State.axisFault_kept (s : State) (a : Nat) (cause : Nat) (once : Bool) :
    (State.axisFault s a cause once).kept = s.kept := by
  unfold State.axisFault
  try simp only [↓State.endHandover_kept, ↓State.motionStop34_kept, ↓State.notice_kept, ↓State.protect_kept, ↓State.setAxis_kept, ↓State.traceEvent_kept, ↓foldl_kept, ↓foldOn_kept, ↓ite_kept, ite_self, implies_true]
  repeat' (first | with_reducible rfl | (simp only [↓State.endHandover_kept, ↓State.motionStop34_kept, ↓State.notice_kept, ↓State.protect_kept, ↓State.setAxis_kept, ↓State.traceEvent_kept, ↓foldl_kept, ↓foldOn_kept, ↓ite_kept, ite_self, implies_true]; done) | (with_reducible refine kept_ite ?_ ?_) | (with_reducible refine (foldOn_kept _ _ _ fun s x => ?_).trans ?_) | (with_reducible refine (foldl_kept _ _ _ fun s x => ?_).trans ?_) | (simp only [↓State.endHandover_kept, ↓State.motionStop34_kept, ↓State.notice_kept, ↓State.protect_kept, ↓State.setAxis_kept, ↓State.traceEvent_kept, ↓foldl_kept, ↓foldOn_kept, ↓ite_kept, ite_self, implies_true]) | split)

@[simp] theorem State.slotMiss_kept (s : State) (e : Fin 16) (k : Fin 32) (seq : Word) :
    (State.slotMiss s e k seq).kept = s.kept := by
  unfold State.slotMiss
  simp only [↓State.axisFault_kept, ↓State.setLoops_kept, ↓State.setSlot_kept, ↓State.setTwin_kept, ↓State.traceEvent_kept, ↓ite_kept, ite_self]

@[simp] theorem State.advanceHandover_kept (s : State) (key : Nat) :
    (State.advanceHandover s key).kept = s.kept := by
  unfold State.advanceHandover
  try simp only [↓State.endHandover_kept, ↓State.setGroup_kept, ↓ite_kept, ite_self]
  repeat' (first | with_reducible rfl | (simp only [↓State.endHandover_kept, ↓State.setGroup_kept, ↓ite_kept, ite_self]; done) | (with_reducible refine kept_ite ?_ ?_) | (simp only [↓State.endHandover_kept, ↓State.setGroup_kept, ↓ite_kept, ite_self]) | split)

@[simp] theorem State.traceRows_kept (s : State) :
    (State.traceRows s).kept = s.kept := by
  unfold State.traceRows
  simp only [↓State.traceRow_kept, ↓foldOn_kept, ↓ite_kept, ite_self, implies_true]

@[simp] theorem State.completeCoeffs_kept (s : State) (l : LoopSlot) (t : Nat) :
    (State.completeCoeffs s l t).kept = s.kept := by
  unfold State.completeCoeffs
  simp only [↓State.finishTag_kept, ↓foldl_kept, ↓ite_kept, ite_self, implies_true]

@[simp] theorem State.maskChanged_kept (s : State) :
    (State.maskChanged s).kept = s.kept := by
  rfl

@[simp] theorem State.engineLost_kept (s : State) (e : Fin 16) (masked : Bool) :
    (State.engineLost s e masked).kept = s.kept := by
  unfold State.engineLost
  simp only [↓State.axisFault_kept, ↓State.latchUnit_kept, ↓State.maskChanged_kept, ↓State.setCell_kept, ↓State.setEngine_kept, ↓foldl_kept, ↓ite_kept, ite_self, implies_true]

@[simp] theorem State.evalGroup_kept (s : State) (key : Nat) (fresh : List (Nat × Nat)) (m : AxisIn) (sp : Setpoint) (seq : Word) (t : Nat) :
    (State.evalGroup s key fresh m sp seq t).kept = s.kept := by
  unfold State.evalGroup
  try simp only [↓State.advanceHandover_kept, ↓State.axisFault_kept, ↓State.completeCoeffs_kept, ↓State.engineLost_kept, ↓State.setAxis_kept, ↓State.setGroup_kept, ↓State.setSlot_kept, ↓State.slotMiss_kept, ↓State.traceEvent_kept, ↓foldl_kept, ↓ite_kept, ite_self, implies_true]
  repeat' (first | with_reducible rfl | (simp only [↓State.advanceHandover_kept, ↓State.axisFault_kept, ↓State.completeCoeffs_kept, ↓State.engineLost_kept, ↓State.setAxis_kept, ↓State.setGroup_kept, ↓State.setSlot_kept, ↓State.slotMiss_kept, ↓State.traceEvent_kept, ↓foldl_kept, ↓ite_kept, ite_self, implies_true]; done) | (with_reducible refine kept_ite ?_ ?_) | (with_reducible refine (foldl_kept _ _ _ fun s x => ?_).trans ?_) | (simp only [↓State.advanceHandover_kept, ↓State.axisFault_kept, ↓State.completeCoeffs_kept, ↓State.engineLost_kept, ↓State.setAxis_kept, ↓State.setGroup_kept, ↓State.setSlot_kept, ↓State.slotMiss_kept, ↓State.traceEvent_kept, ↓foldl_kept, ↓ite_kept, ite_self, implies_true]) | split)

@[simp] theorem State.spans_kept (s : State) (slots : List (Nat × Nat)) :
    (State.spans s slots).kept = s.kept := by
  unfold State.spans
  simp only [↓State.setEngine_kept, ↓foldOn_kept, implies_true]

@[simp] theorem State.activateLoops_kept (s : State) (n : NodeRec) (loops : List Nat) (seq : Word) (bs : List Byte) :
    (State.activateLoops s n loops seq bs).kept = s.kept := by
  unfold State.activateLoops
  try simp only [↓State.activate_kept, ↓foldOn_kept, ↓ite_kept, ite_self, implies_true]
  repeat' (first | with_reducible rfl | (simp only [↓State.activate_kept, ↓foldOn_kept, ↓ite_kept, ite_self, implies_true]; done) | (with_reducible refine kept_ite ?_ ?_) | (with_reducible refine (foldOn_kept _ _ _ fun s x => ?_).trans ?_) | (simp only [↓State.activate_kept, ↓foldOn_kept, ↓ite_kept, ite_self, implies_true]) | split)

@[simp] theorem State.markSeen_kept (s : State) (ps : List (Nat × Nat)) (seq : Word) :
    (State.markSeen s ps seq).kept = s.kept := by
  unfold State.markSeen
  simp only [↓State.setSlot_kept, ↓foldl_kept, implies_true]

@[simp] theorem State.recordProbes_kept (s : State) (a : Nat) (seq : Word) :
    (State.recordProbes s a seq).kept = s.kept := by
  unfold State.recordProbes
  simp only [↓State.setEngine_kept, ↓foldOn_kept, implies_true]

@[simp] theorem State.axisBatch_kept (s : State) (a : Nat) (m : AxisIn) (seq : Word) (sample : Nat) :
    (State.axisBatch s a m seq sample).kept = s.kept := by
  unfold State.axisBatch
  simp only [↓State.evalGroup_kept, ↓State.markSeen_kept, ↓State.recordProbes_kept, ↓State.setAxis_kept, ↓State.setChain_kept, ↓State.setFree_kept, ↓foldl_kept, ↓ite_kept, ite_self, implies_true]

@[simp] theorem State.takeAxes_kept (s : State) (n : NodeRec) (seq : Word) (bs : List Byte) :
    (State.takeAxes s n seq bs).kept = s.kept := by
  unfold State.takeAxes
  simp only [↓State.setAxis_kept, ↓foldl_kept, ↓ite_kept, ite_self, implies_true]

@[simp] theorem State.coeffsWhileFaulted_kept (s : State) (a : Nat) (t : Nat) :
    (State.coeffsWhileFaulted s a t).kept = s.kept := by
  unfold State.coeffsWhileFaulted
  try simp only [↓State.completeCoeffs_kept, ↓State.setSlot_kept, ↓foldl_kept, ↓ite_kept, ite_self, implies_true]
  repeat' (first | with_reducible rfl | (simp only [↓State.completeCoeffs_kept, ↓State.setSlot_kept, ↓foldl_kept, ↓ite_kept, ite_self, implies_true]; done) | (with_reducible refine kept_ite ?_ ?_) | (with_reducible refine (foldl_kept _ _ _ fun s x => ?_).trans ?_) | (simp only [↓State.completeCoeffs_kept, ↓State.setSlot_kept, ↓foldl_kept, ↓ite_kept, ite_self, implies_true]) | split)

@[simp] theorem State.activateEngines_kept (s : State) (old : Option Cell) (new : Cell) (pl : Placement) :
    (State.activateEngines s old new pl).kept = s.kept := by
  unfold State.activateEngines
  simp only [↓State.endHandover_kept, ↓State.finishTag_kept, ↓State.setLoops_kept, ↓foldl_kept, ↓foldOn_kept, ↓ite_kept, ite_self, implies_true]

/-! ### Operations of Nibble -/

@[simp] theorem State.countMiss_kept (s : State) :
    (State.countMiss s).kept = s.kept := by
  rfl

@[simp] theorem State.swapDelivery_kept (s : State) (d : Delivery) :
    (State.swapDelivery s d).kept = s.kept := by
  unfold State.swapDelivery
  simp only [↓State.countMiss_kept, ↓State.setNibble_kept, ↓foldl_kept, ↓ite_kept, ite_self, implies_true]

@[simp] theorem State.swapMiss_kept (s : State) (d : Delivery) :
    (State.swapMiss s d).kept = s.kept := by
  unfold State.swapMiss
  simp only [↓State.countMiss_kept, ↓State.setNibble_kept, ↓foldl_kept, ↓ite_kept, ite_self, implies_true]

@[simp] theorem State.readmitPoints_kept (s : State) (node : Nat) :
    (State.readmitPoints s node).kept = s.kept := by
  rfl

@[simp] theorem State.removePoints_kept (s : State) (node : Nat) :
    (State.removePoints s node).kept = s.kept := by
  rfl

@[simp] theorem State.deliverSub_kept (s : State) (sub : Fin 16) :
    (State.deliverSub s sub).kept = s.kept := by
  unfold State.deliverSub
  try simp only [↓State.finishN_kept, ↓State.sendBenjo_kept, ↓State.setSub_kept, ↓ite_kept, ite_self]
  repeat' (first | with_reducible rfl | (simp only [↓State.finishN_kept, ↓State.sendBenjo_kept, ↓State.setSub_kept, ↓ite_kept, ite_self]; done) | (with_reducible refine kept_ite ?_ ?_) | (simp only [↓State.finishN_kept, ↓State.sendBenjo_kept, ↓State.setSub_kept, ↓ite_kept, ite_self]) | split)

@[simp] theorem State.dropDelivered_kept (s : State) (sub : Fin 16) (n : Nat) :
    (State.dropDelivered s sub n).kept = s.kept := by
  unfold State.dropDelivered
  try simp only [↓State.finishOk_kept, ↓State.setSub_kept]
  repeat' (first | with_reducible rfl | (simp only [↓State.finishOk_kept, ↓State.setSub_kept]; done) | (with_reducible refine kept_ite ?_ ?_) | (simp only [↓State.finishOk_kept, ↓State.setSub_kept]) | split)

@[simp] theorem State.publish_kept (s : State) (e : Ev) :
    (State.publish s e).kept = s.kept := by
  unfold State.publish
  simp only [↓State.deliverSub_kept, ↓State.setSub_kept, ↓foldOn_kept, ↓ite_kept, ite_self, implies_true]

@[simp] theorem State.release_kept (s : State) (e : Ev) :
    (State.release s e).kept = s.kept := by
  unfold State.release
  simp only [↓State.publish_kept, ↓State.setNibble_kept, ↓foldl_kept, ↓ite_kept, ite_self, implies_true]

@[simp] theorem State.makeRoom_kept (s : State) :
    (State.makeRoom s).kept = s.kept := by
  unfold State.makeRoom
  try simp only [↓State.release_kept, ↓State.setNibble_kept, ↓ite_kept, ite_self]
  repeat' (first | with_reducible rfl | (simp only [↓State.release_kept, ↓State.setNibble_kept, ↓ite_kept, ite_self]; done) | (with_reducible refine kept_ite ?_ ?_) | (simp only [↓State.release_kept, ↓State.setNibble_kept, ↓ite_kept, ite_self]) | split)

@[simp] theorem State.takeEvent_kept (s : State) (e : Ev) :
    (State.takeEvent s e).kept = s.kept := by
  unfold State.takeEvent
  try simp only [↓State.makeRoom_kept, ↓State.setNibble_kept, ↓ite_kept, ite_self]
  repeat' (first | with_reducible rfl | (simp only [↓State.makeRoom_kept, ↓State.setNibble_kept, ↓ite_kept, ite_self]; done) | (with_reducible refine kept_ite ?_ ?_) | (simp only [↓State.makeRoom_kept, ↓State.setNibble_kept, ↓ite_kept, ite_self]) | split)

@[simp] theorem State.nodeEvent_kept (s : State) (node : Nat) (base : Nat) (r : List Byte) :
    (State.nodeEvent s node base r).kept = s.kept := by
  unfold State.nodeEvent
  try simp only [↓State.setNibble_kept, ↓State.takeEvent_kept, ↓ite_kept, ite_self]
  repeat' (first | with_reducible rfl | (simp only [↓State.setNibble_kept, ↓State.takeEvent_kept, ↓ite_kept, ite_self]; done) | (with_reducible refine kept_ite ?_ ?_) | (simp only [↓State.setNibble_kept, ↓State.takeEvent_kept, ↓ite_kept, ite_self]) | split)

@[simp] theorem State.takeDelivery_kept (s : State) (node : Nat) (seq : Word) (bs : List Byte) :
    (State.takeDelivery s node seq bs).kept = s.kept := by
  unfold State.takeDelivery
  simp only [↓State.nodeEvent_kept, ↓State.setNibble_kept, ↓foldl_kept, ↓foldOn_kept, ↓ite_kept, ite_self, implies_true]

@[simp] theorem State.missDelivery_kept (s : State) (node : Nat) (seq : Word) :
    (State.missDelivery s node seq).kept = s.kept := by
  unfold State.missDelivery
  simp only [↓State.setNibble_kept, ↓ite_kept, ite_self]

@[simp] theorem State.activatePoints_kept (s : State) (entered : List Delivery) :
    (State.activatePoints s entered).kept = s.kept := by
  unfold State.activatePoints
  try simp only [↓State.activate_kept, ↓foldOn_kept, ↓ite_kept, ite_self, implies_true]
  repeat' (first | with_reducible rfl | (simp only [↓State.activate_kept, ↓foldOn_kept, ↓ite_kept, ite_self, implies_true]; done) | (with_reducible refine kept_ite ?_ ?_) | (with_reducible refine (foldOn_kept _ _ _ fun s x => ?_).trans ?_) | (simp only [↓State.activate_kept, ↓foldOn_kept, ↓ite_kept, ite_self, implies_true]) | split)

@[simp] theorem State.setWindow_kept (s : State) (w : Nat) :
    (State.setWindow s w).kept = s.kept := by
  rfl

@[simp] theorem State.activateNibbles_kept (s : State) (old : Option Cell) (new : Cell) :
    (State.activateNibbles s old new).kept = s.kept := by
  unfold State.activateNibbles
  try simp only [↓State.finishTag_kept, ↓State.setNibble_kept, ↓foldl_kept, ↓ite_kept, ite_self, implies_true]
  repeat' (first | with_reducible rfl | (simp only [↓State.finishTag_kept, ↓State.setNibble_kept, ↓foldl_kept, ↓ite_kept, ite_self, implies_true]; done) | (with_reducible refine kept_ite ?_ ?_) | (with_reducible refine (foldl_kept _ _ _ fun s x => ?_).trans ?_) | (simp only [↓State.finishTag_kept, ↓State.setNibble_kept, ↓foldl_kept, ↓ite_kept, ite_self, implies_true]) | split)

@[simp] theorem State.holdRemoved_kept (s : State) :
    (State.holdRemoved s).kept = s.kept := by
  rfl

@[simp] theorem State.pointCommand_kept (s : State) (p : Pkt) (force : Bool) :
    (State.pointCommand s p force).kept = s.kept := by
  unfold State.pointCommand
  try simp only [↓State.finish_kept, ↓State.setNibble_kept, ↓ite_kept, ite_self]
  repeat' (first | with_reducible rfl | (simp only [↓State.finish_kept, ↓State.setNibble_kept, ↓ite_kept, ite_self]; done) | (with_reducible refine kept_ite ?_ ?_) | (simp only [↓State.finish_kept, ↓State.setNibble_kept, ↓ite_kept, ite_self]) | split)

/-! ### Operations of Ring -/

@[simp] theorem State.putHop_kept (s : State) (r : Fin 4) (h : Nat) (n : NodeSt) :
    (State.putHop s r h n).kept = s.kept := by
  rfl

@[simp] theorem State.ringEmit_kept (s : State) (r : Fin 4) (laneB : Bool) (at_ : Nat) (bs : List Byte) :
    (State.ringEmit s r laneB at_ bs).kept = s.kept := by
  rfl

@[simp] theorem State.ringSendAt_kept (s : State) (r : Fin 4) (laneB : Bool) (at_ : Nat) (bs : List Byte) :
    (State.ringSendAt s r laneB at_ bs).kept = s.kept := by
  unfold State.ringSendAt
  simp only [↓State.ringEmit_kept, ↓State.setRing_kept, ↓ite_kept, ite_self]

@[simp] theorem State.sendCopies_kept (s : State) (r : Fin 4) (f : HdrFields) (payload : List Byte) :
    (State.sendCopies s r f payload).kept = s.kept := by
  unfold State.sendCopies
  simp only [↓State.ringSendAt_kept, ↓foldl_kept, implies_true]

@[simp] theorem State.sendStart_kept (s : State) (r : Fin 4) (laneB : Bool) (type aux : Nat) (payload : List Byte) :
    (State.sendStart s r laneB type aux payload).kept = s.kept := by
  rfl

@[simp] theorem State.ringDown_kept (s : State) (r : Fin 4) (k : Option NoticeKind) (b : Nat) :
    (State.ringDown s r k b).kept = s.kept := by
  unfold State.ringDown
  try simp only [↓State.notice_kept, ↓State.setRing_kept]
  repeat' (first | with_reducible rfl | (simp only [↓State.notice_kept, ↓State.setRing_kept]; done) | (with_reducible refine kept_ite ?_ ?_) | (simp only [↓State.notice_kept, ↓State.setRing_kept]) | split)

@[simp] theorem State.ringListen_kept (s : State) (r : Fin 4) :
    (State.ringListen s r).kept = s.kept := by
  unfold State.ringListen
  simp only [↓State.setRing_kept, ↓ite_kept, ite_self]

@[simp] theorem State.sendPoll_kept (s : State) (r : Fin 4) :
    (State.sendPoll s r).kept = s.kept := by
  rfl

@[simp] theorem State.enterRanging_kept (s : State) (r : Fin 4) (starter : Bool) :
    (State.enterRanging s r starter).kept = s.kept := by
  unfold State.enterRanging
  simp only [↓State.ringDown_kept, ↓State.sendPoll_kept, ↓State.setRing_kept, ↓foldl_kept, ↓ite_kept, ite_self, implies_true]

@[simp] theorem State.sendConfig_kept (s : State) (r : Fin 4) :
    (State.sendConfig s r).kept = s.kept := by
  unfold State.sendConfig
  try simp only [↓State.sendPoll_kept, ↓State.sendStart_kept, ↓State.setRing_kept, ↓ite_kept, ite_self]
  repeat' (first | with_reducible rfl | (simp only [↓State.sendPoll_kept, ↓State.sendStart_kept, ↓State.setRing_kept, ↓ite_kept, ite_self]; done) | (with_reducible refine kept_ite ?_ ?_) | (simp only [↓State.sendPoll_kept, ↓State.sendStart_kept, ↓State.setRing_kept, ↓ite_kept, ite_self]) | split)

@[simp] theorem State.enterConfig_kept (s : State) (r : Fin 4) :
    (State.enterConfig s r).kept = s.kept := by
  unfold State.enterConfig
  simp only [↓State.ringDown_kept, ↓State.sendConfig_kept, ↓State.setRing_kept, ↓ite_kept, ite_self]

@[simp] theorem State.sendActivate_kept (s : State) (r : Fin 4) :
    (State.sendActivate s r).kept = s.kept := by
  unfold State.sendActivate
  simp only [↓State.sendConfig_kept, ↓State.setRing_kept, ↓ite_kept, ite_self]

@[simp] theorem State.nextPoll_kept (s : State) (r : Fin 4) :
    (State.nextPoll s r).kept = s.kept := by
  unfold State.nextPoll
  try simp only [↓State.enterConfig_kept, ↓State.sendActivate_kept, ↓State.sendPoll_kept, ↓State.setRing_kept, ↓ite_kept, ite_self]
  repeat' (first | with_reducible rfl | (simp only [↓State.enterConfig_kept, ↓State.sendActivate_kept, ↓State.sendPoll_kept, ↓State.setRing_kept, ↓ite_kept, ite_self]; done) | (with_reducible refine kept_ite ?_ ?_) | (simp only [↓State.enterConfig_kept, ↓State.sendActivate_kept, ↓State.sendPoll_kept, ↓State.setRing_kept, ↓ite_kept, ite_self]) | split)

@[simp] theorem State.sendCold_kept (s : State) (r : Fin 4) :
    (State.sendCold s r).kept = s.kept := by
  rfl

@[simp] theorem State.enterCold_kept (s : State) (r : Fin 4) :
    (State.enterCold s r).kept = s.kept := by
  rfl

@[simp] theorem State.hearDevice_kept (s : State) (r : Fin 4) (coldstart : Bool) :
    (State.hearDevice s r coldstart).kept = s.kept := by
  unfold State.hearDevice
  try simp only [↓State.enterRanging_kept, ↓State.ringDown_kept, ↓State.setRing_kept, ↓ite_kept, ite_self]
  repeat' (first | with_reducible rfl | (simp only [↓State.enterRanging_kept, ↓State.ringDown_kept, ↓State.setRing_kept, ↓ite_kept, ite_self]; done) | (with_reducible refine kept_ite ?_ ?_) | (simp only [↓State.enterRanging_kept, ↓State.ringDown_kept, ↓State.setRing_kept, ↓ite_kept, ite_self]) | split)

@[simp] theorem State.ringError_kept (s : State) (r : Fin 4) (hi lo : Nat) :
    (State.ringError s r hi lo).kept = s.kept := by
  rfl

@[simp] theorem State.ringForward_kept (s : State) (r : Fin 4) (laneB : Bool) (frame : List Byte) :
    (State.ringForward s r laneB frame).kept = s.kept := by
  unfold State.ringForward
  simp only [↓State.emit_kept, ↓ite_kept, ite_self]

@[simp] theorem State.takeCold_kept (s : State) (r : Fin 4) (own : Bool) (h : List Byte) :
    (State.takeCold s r own h).kept = s.kept := by
  unfold State.takeCold
  simp only [↓State.hearDevice_kept, ↓State.ringDown_kept, ↓State.setRing_kept, ↓ite_kept, ite_self]

@[simp] theorem State.takeRangeRsp_kept (s : State) (r : Fin 4) (arr : Int) (frame h : List Byte) :
    (State.takeRangeRsp s r arr frame h).kept = s.kept := by
  unfold State.takeRangeRsp
  simp only [↓State.nextPoll_kept, ↓State.putHop_kept, ↓State.setRing_kept, ↓ite_kept, ite_self]

@[simp] theorem State.removeNode_kept (s : State) (r : Fin 4) (h : Nat) (result : Nat) :
    (State.removeNode s r h result).kept = s.kept := by
  unfold State.removeNode
  try simp only [↓State.axisFault_kept, ↓State.notice_kept, ↓State.putHop_kept, ↓State.removePoints_kept, ↓State.sendMgmt_kept, ↓State.setRing_kept, ↓foldl_kept, ↓ite_kept, ite_self, implies_true]
  repeat' (first | with_reducible rfl | (simp only [↓State.axisFault_kept, ↓State.notice_kept, ↓State.putHop_kept, ↓State.removePoints_kept, ↓State.sendMgmt_kept, ↓State.setRing_kept, ↓foldl_kept, ↓ite_kept, ite_self, implies_true]; done) | (with_reducible refine kept_ite ?_ ?_) | (with_reducible refine (foldl_kept _ _ _ fun s x => ?_).trans ?_) | (simp only [↓State.axisFault_kept, ↓State.notice_kept, ↓State.putHop_kept, ↓State.removePoints_kept, ↓State.sendMgmt_kept, ↓State.setRing_kept, ↓foldl_kept, ↓ite_kept, ite_self, implies_true]) | split)

@[simp] theorem State.countResult_kept (s : State) (r : Fin 4) (h : Nat) (res : SlotResult) :
    (State.countResult s r h res).kept = s.kept := by
  unfold State.countResult
  try simp only [↓State.putHop_kept, ↓State.removeNode_kept, ↓State.setRing_kept, ↓ite_kept, ite_self]
  repeat' (first | with_reducible rfl | (simp only [↓State.putHop_kept, ↓State.removeNode_kept, ↓State.setRing_kept, ↓ite_kept, ite_self]; done) | (with_reducible refine kept_ite ?_ ?_) | (simp only [↓State.putHop_kept, ↓State.removeNode_kept, ↓State.setRing_kept, ↓ite_kept, ite_self]) | split)

@[simp] theorem State.closePrev_kept (s : State) (r : Fin 4) (h : Nat) :
    (State.closePrev s r h).kept = s.kept := by
  unfold State.closePrev
  try simp only [↓State.countResult_kept, ↓State.putHop_kept]
  repeat' (first | with_reducible rfl | (simp only [↓State.countResult_kept, ↓State.putHop_kept]; done) | (with_reducible refine kept_ite ?_ ?_) | (simp only [↓State.countResult_kept, ↓State.putHop_kept]) | split)

@[simp] theorem State.closeCycle_kept (s : State) (r : Fin 4) (h : Nat) :
    (State.closeCycle s r h).kept = s.kept := by
  unfold State.closeCycle
  try simp only [↓State.closePrev_kept, ↓State.countResult_kept, ↓State.putHop_kept, ↓ite_kept, ite_self]
  repeat' (first | with_reducible rfl | (simp only [↓State.closePrev_kept, ↓State.countResult_kept, ↓State.putHop_kept, ↓ite_kept, ite_self]; done) | (with_reducible refine kept_ite ?_ ?_) | (simp only [↓State.closePrev_kept, ↓State.countResult_kept, ↓State.putHop_kept, ↓ite_kept, ite_self]) | split)

@[simp] theorem State.missOpen_kept (s : State) (r : Fin 4) (h : Nat) :
    (State.missOpen s r h).kept = s.kept := by
  unfold State.missOpen
  try simp only [↓State.missDelivery_kept, ↓State.putHop_kept, ↓ite_kept, ite_self]
  repeat' (first | with_reducible rfl | (simp only [↓State.missDelivery_kept, ↓State.putHop_kept, ↓ite_kept, ite_self]; done) | (with_reducible refine kept_ite ?_ ?_) | (simp only [↓State.missDelivery_kept, ↓State.putHop_kept, ↓ite_kept, ite_self]) | split)

@[simp] theorem State.settleCycle_kept (s : State) (r : Fin 4) (h : Nat) :
    (State.settleCycle s r h).kept = s.kept := by
  unfold State.settleCycle
  simp only [↓State.closeCycle_kept, ↓State.missOpen_kept, ↓State.putHop_kept, ↓ite_kept, ite_self]

@[simp] theorem State.newCycle_kept (s : State) (r : Fin 4) (h : Nat) (seq : Word) :
    (State.newCycle s r h seq).kept = s.kept := by
  unfold State.newCycle
  simp only [↓State.closeCycle_kept, ↓State.closePrev_kept, ↓State.missOpen_kept, ↓State.putHop_kept, ↓ite_kept, ite_self]

@[simp] theorem State.takeCopy_kept (s : State) (r : Fin 4) (h : Nat) (rec : NodeRec) (seq : Word) (null fault : Bool) (payload : List Byte) :
    (State.takeCopy s r h rec seq null fault payload).kept = s.kept := by
  unfold State.takeCopy
  simp only [↓State.missDelivery_kept, ↓State.putHop_kept, ↓State.takeAxes_kept, ↓State.takeDelivery_kept, ↓ite_kept, ite_self]

@[simp] theorem State.nodeCopy_kept (s : State) (r : Fin 4) (laneB : Bool) (arr : Int) (bs : List Byte) :
    (State.nodeCopy s r laneB arr bs).kept = s.kept := by
  unfold State.nodeCopy
  try simp only [↓State.newCycle_kept, ↓State.putHop_kept, ↓State.ringError_kept, ↓State.settleCycle_kept, ↓State.takeCopy_kept, ↓ite_kept, ite_self]
  repeat' (first | with_reducible rfl | (simp only [↓State.newCycle_kept, ↓State.putHop_kept, ↓State.ringError_kept, ↓State.settleCycle_kept, ↓State.takeCopy_kept, ↓ite_kept, ite_self]; done) | (with_reducible refine kept_ite ?_ ?_) | (simp only [↓State.newCycle_kept, ↓State.putHop_kept, ↓State.ringError_kept, ↓State.settleCycle_kept, ↓State.takeCopy_kept, ↓ite_kept, ite_self]) | split)

@[simp] theorem State.takeRecords_kept (s : State) (r : Fin 4) (gen : Nat) (recs : List (List Byte)) :
    (State.takeRecords s r gen recs).kept = s.kept := by
  unfold State.takeRecords
  try simp only [↓State.putHop_kept, ↓State.setRing_kept, ↓foldl_kept, ↓ite_kept, ite_self, implies_true]
  repeat' (first | with_reducible rfl | (simp only [↓State.putHop_kept, ↓State.setRing_kept, ↓foldl_kept, ↓ite_kept, ite_self, implies_true]; done) | (with_reducible refine kept_ite ?_ ?_) | (with_reducible refine (foldl_kept _ _ _ fun s x => ?_).trans ?_) | (simp only [↓State.putHop_kept, ↓State.setRing_kept, ↓foldl_kept, ↓ite_kept, ite_self, implies_true]) | split)

@[simp] theorem State.answerPoll_kept (s : State) (r : Fin 4) (laneB : Bool) (arr : Int) :
    (State.answerPoll s r laneB arr).kept = s.kept := by
  rfl

@[simp] theorem State.strayGen_kept (s : State) (r : Fin 4) (type gen : Nat) :
    (State.strayGen s r type gen).kept = s.kept := by
  unfold State.strayGen
  simp only [↓State.ringError_kept, ↓ite_kept, ite_self]

@[simp] theorem State.deviceFrame_kept (s : State) (r : Fin 4) (laneB : Bool) (arr : Int) (bs : List Byte) :
    (State.deviceFrame s r laneB arr bs).kept = s.kept := by
  unfold State.deviceFrame
  try simp only [↓State.answerPoll_kept, ↓State.hearDevice_kept, ↓State.pairTo_kept, ↓State.ringError_kept, ↓State.setRing_kept, ↓State.setTwin_kept, ↓State.strayGen_kept, ↓State.takeRecords_kept, ↓ite_kept, ite_self]
  repeat' (first | with_reducible rfl | (simp only [↓State.answerPoll_kept, ↓State.hearDevice_kept, ↓State.pairTo_kept, ↓State.ringError_kept, ↓State.setRing_kept, ↓State.setTwin_kept, ↓State.strayGen_kept, ↓State.takeRecords_kept, ↓ite_kept, ite_self]; done) | (with_reducible refine kept_ite ?_ ?_) | (simp only [↓State.answerPoll_kept, ↓State.hearDevice_kept, ↓State.pairTo_kept, ↓State.ringError_kept, ↓State.setRing_kept, ↓State.setTwin_kept, ↓State.strayGen_kept, ↓State.takeRecords_kept, ↓ite_kept, ite_self]) | split)

@[simp] theorem State.ownFrame_kept (s : State) (r : Fin 4) (arr : Int) (bs : List Byte) :
    (State.ownFrame s r arr bs).kept = s.kept := by
  unfold State.ownFrame
  try simp only [↓State.setRing_kept, ↓State.takeCold_kept, ↓ite_kept, ite_self]
  repeat' (first | with_reducible rfl | (simp only [↓State.setRing_kept, ↓State.takeCold_kept, ↓ite_kept, ite_self]; done) | (with_reducible refine kept_ite ?_ ?_) | (simp only [↓State.setRing_kept, ↓State.takeCold_kept, ↓ite_kept, ite_self]) | split)

@[simp] theorem State.takeNodeFrame_kept (s : State) (r : Fin 4) (laneB : Bool) (arr : Int) (bs : List Byte) :
    (State.takeNodeFrame s r laneB arr bs).kept = s.kept := by
  unfold State.takeNodeFrame
  simp only [↓State.nodeCopy_kept, ↓State.ringError_kept, ↓State.setRing_kept, ↓ite_kept, ite_self]

@[simp] theorem State.endCmds_kept (s : State) (r : Fin 4) :
    (State.endCmds s r).kept = s.kept := by
  unfold State.endCmds
  simp only [↓State.setAxis_kept, ↓foldOn_kept, implies_true]

@[simp] theorem State.sendService_kept (s : State) (r : Fin 4) (head : Nat) (seq : Word) :
    (State.sendService s r head seq).kept = s.kept := by
  unfold State.sendService
  try simp only [↓State.sendCopies_kept, ↓State.setRing_kept, ↓ite_kept, ite_self]
  repeat' (first | with_reducible rfl | (simp only [↓State.sendCopies_kept, ↓State.setRing_kept, ↓ite_kept, ite_self]; done) | (with_reducible refine kept_ite ?_ ?_) | (simp only [↓State.sendCopies_kept, ↓State.setRing_kept, ↓ite_kept, ite_self]) | split)

@[simp] theorem State.checkReturn_kept (s : State) (r : Fin 4) :
    (State.checkReturn s r).kept = s.kept := by
  unfold State.checkReturn
  simp only [↓State.notice_kept, ↓State.setRing_kept, ↓foldl_kept, ↓ite_kept, ite_self, implies_true]

@[simp] theorem State.sendSummary_kept (s : State) (r : Fin 4) (seq : Word) :
    (State.sendSummary s r seq).kept = s.kept := by
  unfold State.sendSummary
  simp only [↓State.sendBenjo_kept, ↓State.setRing_kept, ↓foldl_kept, ↓ite_kept, ite_self, implies_true]

@[simp] theorem State.ringTick_kept (s : State) (r : Fin 4) :
    (State.ringTick s r).kept = s.kept := by
  unfold State.ringTick
  try simp only [↓State.ringEmit_kept, ↓State.sendCold_kept, ↓State.sendConfig_kept, ↓State.sendService_kept, ↓State.setRing_kept, ↓foldl_kept, ↓ite_kept, ite_self, implies_true]
  repeat' (first | with_reducible rfl | (simp only [↓State.ringEmit_kept, ↓State.sendCold_kept, ↓State.sendConfig_kept, ↓State.sendService_kept, ↓State.setRing_kept, ↓foldl_kept, ↓ite_kept, ite_self, implies_true]; done) | (with_reducible refine kept_ite ?_ ?_) | (with_reducible refine (foldl_kept _ _ _ fun s x => ?_).trans ?_) | (simp only [↓State.ringEmit_kept, ↓State.sendCold_kept, ↓State.sendConfig_kept, ↓State.sendService_kept, ↓State.setRing_kept, ↓foldl_kept, ↓ite_kept, ite_self, implies_true]) | split)

@[simp] theorem State.announceRings_kept (s : State) (nc : Cell) (np : Placement) (at_ : Nat) :
    (State.announceRings s nc np at_).kept = s.kept := by
  unfold State.announceRings
  simp only [↓State.setRing_kept, ↓foldOn_kept, ↓ite_kept, ite_self, implies_true]

@[simp] theorem State.activateRings_kept (s : State) (oc : Option Cell) (op : Placement) :
    (State.activateRings s oc op).kept = s.kept := by
  unfold State.activateRings
  try simp only [↓State.removeNode_kept, ↓State.ringDown_kept, ↓State.ringListen_kept, ↓State.setRing_kept, ↓foldl_kept, ↓foldOn_kept, ↓ite_kept, ite_self, implies_true]
  repeat' (first | with_reducible rfl | (simp only [↓State.removeNode_kept, ↓State.ringDown_kept, ↓State.ringListen_kept, ↓State.setRing_kept, ↓foldl_kept, ↓foldOn_kept, ↓ite_kept, ite_self, implies_true]; done) | (with_reducible refine kept_ite ?_ ?_) | (with_reducible refine (foldOn_kept _ _ _ fun s x => ?_).trans ?_) | (with_reducible refine (foldl_kept _ _ _ fun s x => ?_).trans ?_) | (simp only [↓State.removeNode_kept, ↓State.ringDown_kept, ↓State.ringListen_kept, ↓State.setRing_kept, ↓foldl_kept, ↓foldOn_kept, ↓ite_kept, ite_self, implies_true]) | split)

@[simp] theorem State.readmitNodes_kept (s : State) :
    (State.readmitNodes s).kept = s.kept := by
  unfold State.readmitNodes
  try simp only [↓State.finishTag_kept, ↓State.putHop_kept, ↓State.readmitPoints_kept, ↓State.setAxis_kept, ↓foldl_kept, ↓foldOn_kept, ↓ite_kept, ite_self, implies_true]
  repeat' (first | with_reducible rfl | (simp only [↓State.finishTag_kept, ↓State.putHop_kept, ↓State.readmitPoints_kept, ↓State.setAxis_kept, ↓foldl_kept, ↓foldOn_kept, ↓ite_kept, ite_self, implies_true]; done) | (with_reducible refine kept_ite ?_ ?_) | (with_reducible refine (foldOn_kept _ _ _ fun s x => ?_).trans ?_) | (with_reducible refine (foldl_kept _ _ _ fun s x => ?_).trans ?_) | (simp only [↓State.finishTag_kept, ↓State.putHop_kept, ↓State.readmitPoints_kept, ↓State.setAxis_kept, ↓foldl_kept, ↓foldOn_kept, ↓ite_kept, ite_self, implies_true]) | split)

/-! ### Operations of Separation -/

@[simp] theorem State.frameFails_kept (s : State) (node err : Nat) :
    (State.frameFails s node err).kept = s.kept := by
  rfl

@[simp] theorem State.checkLinks_kept (s : State) :
    (State.checkLinks s).kept = s.kept := by
  unfold State.checkLinks
  simp only [↓State.setSep_kept, ↓foldl_kept, ↓ite_kept, ite_self, implies_true]

@[simp] theorem State.checkSources_kept (s : State) :
    (State.checkSources s).kept = s.kept := by
  unfold State.checkSources
  simp only [↓State.setSep_kept, ↓foldl_kept, ↓ite_kept, ite_self, implies_true]

@[simp] theorem State.sepDecide_kept (s : State) (hb1 hb2 : Bool) (c : Fin 16) :
    (State.sepDecide s hb1 hb2 c).kept = s.kept := by
  unfold State.sepDecide
  simp only [↓State.setSep_kept, ↓State.stopIndex_kept, ↓foldl_kept, ↓ite_kept, ite_self, implies_true]

@[simp] theorem State.writeCaps_kept (s : State) :
    (State.writeCaps s).kept = s.kept := by
  unfold State.writeCaps
  try simp only [↓State.setSlot_kept, ↓foldl_kept, ↓ite_kept, ite_self, implies_true]
  repeat' (first | with_reducible rfl | (simp only [↓State.setSlot_kept, ↓foldl_kept, ↓ite_kept, ite_self, implies_true]; done) | (with_reducible refine kept_ite ?_ ?_) | (with_reducible refine (foldl_kept _ _ _ fun s x => ?_).trans ?_) | (simp only [↓State.setSlot_kept, ↓foldl_kept, ↓ite_kept, ite_self, implies_true]) | split)

@[simp] theorem State.activateLinks_kept (s : State) (old : Option Cell) (new : Cell) :
    (State.activateLinks s old new).kept = s.kept := by
  unfold State.activateLinks
  simp only [↓State.setSep_kept, ↓foldl_kept, ↓foldOn_kept, ↓ite_kept, ite_self, implies_true]

/-! ### Operations of Cells -/

@[simp] theorem State.takeCell_kept (s : State) (p : Pkt) (kind : JobKind) (bs : List Byte) :
    (State.takeCell s p kind bs).kept = s.kept := by
  unfold State.takeCell
  try simp only [↓State.finish_kept, ↓State.setCell_kept, ↓ite_kept, ite_self]
  repeat' (first | with_reducible rfl | (simp only [↓State.finish_kept, ↓State.setCell_kept, ↓ite_kept, ite_self]; done) | (with_reducible refine kept_ite ?_ ?_) | (simp only [↓State.finish_kept, ↓State.setCell_kept, ↓ite_kept, ite_self]) | split)

@[simp] theorem State.endJob_kept (s : State) (j : Job) (v : Verdict) :
    (State.endJob s j v).kept = s.kept := by
  unfold State.endJob
  simp only [↓State.dropJob_kept, ↓State.dropStaged_kept, ↓State.finishTag_kept, ↓State.sendHello_kept, ↓ite_kept, ite_self]

@[simp] theorem State.announceJob_kept (s : State) (j : Job) :
    (State.announceJob s j).kept = s.kept := by
  unfold State.announceJob
  simp only [↓State.announceRings_kept, ↓State.dropStaged_kept, ↓State.sendHello_kept, ↓State.setCell_kept, ↓State.stageProblems_kept, ↓State.withdrawSwap_kept, ↓ite_kept, ite_self]

@[simp] theorem State.reportShed_kept (s : State) (log : List (Nat × Verdict)) :
    (State.reportShed s log).kept = s.kept := by
  unfold State.reportShed
  simp only [↓State.notice_kept, ↓foldl_kept, implies_true]

@[simp] theorem State.takeOut_kept (s : State) (c : Nat) :
    (State.takeOut s c).kept = s.kept := by
  unfold State.takeOut
  simp only [↓State.motionStop34_kept, ↓State.shedChain_kept]

@[simp] theorem State.placeRegrade_kept (s : State) (j : Job) :
    (State.placeRegrade s j).kept = s.kept := by
  unfold State.placeRegrade
  try simp only [↓State.reportShed_kept, ↓State.sendHello_kept, ↓State.setCell_kept, ↓State.takeOut_kept, ↓State.withdrawSwap_kept, ↓foldl_kept, ↓ite_kept, ite_self, implies_true]
  repeat' (first | with_reducible rfl | (simp only [↓State.reportShed_kept, ↓State.sendHello_kept, ↓State.setCell_kept, ↓State.takeOut_kept, ↓State.withdrawSwap_kept, ↓foldl_kept, ↓ite_kept, ite_self, implies_true]; done) | (with_reducible refine kept_ite ?_ ?_) | (with_reducible refine (foldl_kept _ _ _ fun s x => ?_).trans ?_) | (simp only [↓State.reportShed_kept, ↓State.sendHello_kept, ↓State.setCell_kept, ↓State.takeOut_kept, ↓State.withdrawSwap_kept, ↓foldl_kept, ↓ite_kept, ite_self, implies_true]) | split)

@[simp] theorem State.placedJob_kept (s : State) (j : Job) :
    (State.placedJob s j).kept = s.kept := by
  unfold State.placedJob
  try simp only [↓State.announceJob_kept, ↓State.endJob_kept, ↓State.setCell_kept, ↓State.setQueue_kept, ↓State.toPending_kept, ↓ite_kept, ite_self]
  repeat' (first | with_reducible rfl | (simp only [↓State.announceJob_kept, ↓State.endJob_kept, ↓State.setCell_kept, ↓State.setQueue_kept, ↓State.toPending_kept, ↓ite_kept, ite_self]; done) | (with_reducible refine kept_ite ?_ ?_) | (simp only [↓State.announceJob_kept, ↓State.endJob_kept, ↓State.setCell_kept, ↓State.setQueue_kept, ↓State.toPending_kept, ↓ite_kept, ite_self]) | split)

@[simp] theorem State.placeJob_kept (s : State) (j : Job) :
    (State.placeJob s j).kept = s.kept := by
  unfold State.placeJob
  try simp only [↓State.announceJob_kept, ↓State.endJob_kept, ↓State.placedJob_kept, ↓State.reportShed_kept, ↓ite_kept, ite_self]
  repeat' (first | with_reducible rfl | (simp only [↓State.announceJob_kept, ↓State.endJob_kept, ↓State.placedJob_kept, ↓State.reportShed_kept, ↓ite_kept, ite_self]; done) | (with_reducible refine kept_ite ?_ ?_) | (simp only [↓State.announceJob_kept, ↓State.endJob_kept, ↓State.placedJob_kept, ↓State.reportShed_kept, ↓ite_kept, ite_self]) | split)

@[simp] theorem State.withdraw_kept (s : State) (j : Job) :
    (State.withdraw s j).kept = s.kept := by
  unfold State.withdraw
  simp only [↓State.endJob_kept]

@[simp] theorem State.activateSolver_kept (s : State) (j : Job) :
    (State.activateSolver s j).kept = s.kept := by
  unfold State.activateSolver
  simp only [↓State.setSolver_kept, ↓State.stageProblems_kept, ↓foldl_kept, ↓foldOn_kept, ↓ite_kept, ite_self, implies_true]

@[simp] theorem State.activateKernels_kept (s : State) (j : Job) :
    (State.activateKernels s j).kept = s.kept := by
  rfl

@[simp] theorem State.activateChains_kept (s : State) (had : Bool) (j : Job) :
    (State.activateChains s had j).kept = s.kept := by
  unfold State.activateChains
  simp only [↓State.enterBath_kept, ↓State.setMotion_kept, ↓foldl_kept, ↓foldOn_kept, ↓ite_kept, ite_self, implies_true]

@[simp] theorem State.putInForce_kept (s : State) (j : Job) :
    (State.putInForce s j).kept = s.kept := by
  unfold State.putInForce
  simp only [↓State.activateChains_kept, ↓State.activateEngines_kept, ↓State.activateKernels_kept, ↓State.activateLinks_kept, ↓State.activateNibbles_kept, ↓State.activateRings_kept, ↓State.activateSolver_kept, ↓State.holdRemoved_kept, ↓State.setCell_kept, ↓State.takeOut_kept, ↓foldl_kept, ↓ite_kept, ite_self, implies_true]

@[simp] theorem State.leavePair_kept (s : State) :
    (State.leavePair s).kept = s.kept := by
  unfold State.leavePair
  simp only [↓State.pairTo_kept, ↓State.setTwin_kept, ↓ite_kept, ite_self]

@[simp] theorem State.showPlaced_kept (s : State) :
    (State.showPlaced s).kept = s.kept := by
  unfold State.showPlaced
  simp only [↓State.sendHello_kept, ↓ite_kept, ite_self]

@[simp] theorem State.activateRegrade_kept (s : State) (j : Job) :
    (State.activateRegrade s j).kept = s.kept := by
  unfold State.activateRegrade
  simp only [↓State.leavePair_kept, ↓State.putInForce_kept, ↓State.setCell_kept, ↓State.showPlaced_kept, ↓ite_kept, ite_self]

/-! ### Operations of Plan -/

@[simp] theorem State.takeOver_kept (s : State) :
    (State.takeOver s).kept = s.kept := by
  unfold State.takeOver
  try simp only [↓State.passSync_kept, ↓State.setTwin_kept, ↓ite_kept, ite_self]
  repeat' (first | with_reducible rfl | (simp only [↓State.passSync_kept, ↓State.setTwin_kept, ↓ite_kept, ite_self]; done) | (with_reducible refine kept_ite ?_ ?_) | (simp only [↓State.passSync_kept, ↓State.setTwin_kept, ↓ite_kept, ite_self]) | split)

@[simp] theorem State.enterBracket_kept (s : State) :
    (State.enterBracket s).kept = s.kept := by
  unfold State.enterBracket
  simp only [↓State.maskChanged_kept, ↓State.setTwin_kept, ↓ite_kept, ite_self]

@[simp] theorem State.applyCmds_kept (s : State) (m : MotionSt) (c : Fin 16) :
    (State.applyCmds s m c).kept = s.kept := by
  unfold State.applyCmds
  try simp only [↓State.applyResume_kept, ↓State.applyStop_kept, ↓State.setChain_kept, ↓ite_kept, ite_self]
  repeat' (first | with_reducible rfl | (simp only [↓State.applyResume_kept, ↓State.applyStop_kept, ↓State.setChain_kept, ↓ite_kept, ite_self]; done) | (with_reducible refine kept_ite ?_ ?_) | (simp only [↓State.applyResume_kept, ↓State.applyStop_kept, ↓State.setChain_kept, ↓ite_kept, ite_self]) | split)

@[simp] theorem State.reachBarrier_kept (s : State) (c : Fin 16) (r : List Byte) :
    (State.reachBarrier s c r).kept = s.kept := by
  unfold State.reachBarrier
  simp only [↓State.segFault_kept, ↓State.setChain_kept, ↓foldOn_kept, ↓ite_kept, ite_self, implies_true]

@[simp] theorem State.nextSegment_kept (s : State) (c : Fin 16) (t0 : Word) :
    (State.nextSegment s c t0).kept = s.kept := by
  unfold State.nextSegment
  try simp only [↓State.reachBarrier_kept, ↓State.setChain_kept, ↓ite_kept, ite_self]
  repeat' (first | with_reducible rfl | (simp only [↓State.reachBarrier_kept, ↓State.setChain_kept, ↓ite_kept, ite_self]; done) | (with_reducible refine kept_ite ?_ ?_) | (simp only [↓State.reachBarrier_kept, ↓State.setChain_kept, ↓ite_kept, ite_self]) | split)

@[simp] theorem State.segmentDone_kept (s : State) (c : Fin 16) (held : Option (List Word)) :
    (State.segmentDone s c held).kept = s.kept := by
  unfold State.segmentDone
  try simp only [↓State.nextSegment_kept, ↓State.setChain_kept, ↓ite_kept, ite_self]
  repeat' (first | with_reducible rfl | (simp only [↓State.nextSegment_kept, ↓State.setChain_kept, ↓ite_kept, ite_self]; done) | (with_reducible refine kept_ite ?_ ?_) | (simp only [↓State.nextSegment_kept, ↓State.setChain_kept, ↓ite_kept, ite_self]) | split)

@[simp] theorem State.replan_kept (s : State) (c : Fin 16) (r : ChainRec) :
    (State.replan s c r).kept = s.kept := by
  unfold State.replan
  simp only [↓State.setChain_kept, ↓ite_kept, ite_self]

@[simp] theorem State.moveFeed_kept (s : State) (c : Fin 16) (r : ChainRec) :
    (State.moveFeed s c r).kept = s.kept := by
  rfl

@[simp] theorem State.pathFault_kept (s : State) (c : Fin 16) (n : Nat) :
    (State.pathFault s c n).kept = s.kept := by
  unfold State.pathFault
  simp only [↓State.motionStop34_kept, ↓State.protect_kept, ↓State.segFault_kept, ↓ite_kept, ite_self]

@[simp] theorem State.runPath_kept (s : State) (c : Fin 16) (r : List Byte) :
    (State.runPath s c r).kept = s.kept := by
  unfold State.runPath
  simp only [↓State.notice_kept, ↓State.segFault_kept, ↓State.segmentDone_kept, ↓ite_kept, ite_self]

@[simp] theorem State.runChain_kept (s : State) (c : Fin 16) (h : ChainRec) :
    (State.runChain s c h).kept = s.kept := by
  unfold State.runChain
  try simp only [↓State.nextFree_kept, ↓State.nextSegment_kept, ↓State.pathFault_kept, ↓State.reachBarrier_kept, ↓State.replan_kept, ↓State.runPath_kept, ↓State.segmentDone_kept, ↓State.setChain_kept, ↓ite_kept, ite_self]
  repeat' (first | with_reducible rfl | (simp only [↓State.nextFree_kept, ↓State.nextSegment_kept, ↓State.pathFault_kept, ↓State.reachBarrier_kept, ↓State.replan_kept, ↓State.runPath_kept, ↓State.segmentDone_kept, ↓State.setChain_kept, ↓ite_kept, ite_self]; done) | (with_reducible refine kept_ite ?_ ?_) | (simp only [↓State.nextFree_kept, ↓State.nextSegment_kept, ↓State.pathFault_kept, ↓State.reachBarrier_kept, ↓State.replan_kept, ↓State.runPath_kept, ↓State.segmentDone_kept, ↓State.setChain_kept, ↓ite_kept, ite_self]) | split)

@[simp] theorem State.stageChain_kept (s : State) (c : Fin 16) (h : ChainRec) :
    (State.stageChain s c h).kept = s.kept := by
  unfold State.stageChain
  try simp only [↓State.moveFeed_kept, ↓State.nextSegment_kept, ↓State.runChain_kept, ↓State.setChain_kept, ↓ite_kept, ite_self]
  repeat' (first | with_reducible rfl | (simp only [↓State.moveFeed_kept, ↓State.nextSegment_kept, ↓State.runChain_kept, ↓State.setChain_kept, ↓ite_kept, ite_self]; done) | (with_reducible refine kept_ite ?_ ?_) | (simp only [↓State.moveFeed_kept, ↓State.nextSegment_kept, ↓State.runChain_kept, ↓State.setChain_kept, ↓ite_kept, ite_self]) | split)

@[simp] theorem State.releaseBarriers_kept (s : State) :
    (State.releaseBarriers s).kept = s.kept := by
  unfold State.releaseBarriers
  try simp only [↓State.segmentDone_kept, ↓State.setChain_kept, ↓foldOn_kept, ↓ite_kept, ite_self, implies_true]
  repeat' (first | with_reducible rfl | (simp only [↓State.segmentDone_kept, ↓State.setChain_kept, ↓foldOn_kept, ↓ite_kept, ite_self, implies_true]; done) | (with_reducible refine kept_ite ?_ ?_) | (with_reducible refine (foldOn_kept _ _ _ fun s x => ?_).trans ?_) | (simp only [↓State.segmentDone_kept, ↓State.setChain_kept, ↓foldOn_kept, ↓ite_kept, ite_self, implies_true]) | split)

@[simp] theorem State.releaseAll_kept (s : State) :
    (State.releaseAll s).kept = s.kept := by
  unfold State.releaseAll
  simp only [↓State.releaseBarriers_kept, ↓foldOn_kept, implies_true]

@[simp] theorem State.setForces_kept (s : State) (c : Fin 16) :
    (State.setForces s c).kept = s.kept := by
  unfold State.setForces
  simp only [↓State.setSlot_kept, ↓foldl_kept, ↓ite_kept, ite_self, implies_true]

@[simp] theorem State.stageOne_kept (s : State) (c : Fin 16) :
    (State.stageOne s c).kept = s.kept := by
  unfold State.stageOne
  try simp only [↓State.stageChain_kept, ↓ite_kept, ite_self]
  repeat' (first | with_reducible rfl | (simp only [↓State.stageChain_kept, ↓ite_kept, ite_self]; done) | (with_reducible refine kept_ite ?_ ?_) | (simp only [↓State.stageChain_kept, ↓ite_kept, ite_self]) | split)

@[simp] theorem State.completeCmd_kept (s : State) (m : MotionCmd) :
    (State.completeCmd s m).kept = s.kept := by
  unfold State.completeCmd
  try simp only [↓State.finishTag_kept, ↓foldl_kept, implies_true]
  repeat' (first | with_reducible rfl | (simp only [↓State.finishTag_kept, ↓foldl_kept, implies_true]; done) | (with_reducible refine kept_ite ?_ ?_) | (with_reducible refine (foldl_kept _ _ _ fun s x => ?_).trans ?_) | (simp only [↓State.finishTag_kept, ↓foldl_kept, implies_true]) | split)

@[simp] theorem State.newReferences_kept (s : State) :
    (State.newReferences s).kept = s.kept := by
  rfl

/-! ### Operations of Dispatcher -/

@[simp] theorem State.dispatch_kept (s : State) :
    (State.dispatch s).kept = s.kept := by
  unfold State.dispatch
  simp only [↓State.arbitrate_kept, ↓State.setDisp_kept, ↓foldl_kept, ↓foldOn_kept, ↓ite_kept, ite_self, implies_true]

@[simp] theorem State.setMemcls_kept (s : State) (r : Fin 8) (cls : BitVec 2) :
    (State.setMemcls s r cls).kept = s.kept := by
  rfl

@[simp] theorem State.scrubbed_kept (s : State) (b unit n : Nat) :
    (State.scrubbed s b unit n).kept = s.kept := by
  unfold State.scrubbed
  simp only [↓State.corrected_kept, ↓State.setTile_kept, ↓foldOn_kept, ↓ite_kept, ite_self, implies_true]

@[simp] theorem State.stepDone_kept (s : State) (i r : Nat) :
    (State.stepDone s i r).kept = s.kept := by
  unfold State.stepDone
  simp only [↓State.setArb_kept, ↓ite_kept, ite_self]

/-! ### Operations of PageRead -/

@[simp] theorem State.readSide_kept (s : State) (pg o : Nat) :
    (State.readSide s pg o).kept = s.kept := by
  unfold State.readSide
  simp only [↓State.canLock_kept, ↓State.canRelease_kept, ↓ite_kept, ite_self]

@[simp] theorem State.readSides_kept (s : State) (pg o n : Nat) :
    (State.readSides s pg o n).kept = s.kept := by
  unfold State.readSides
  simp only [↓State.readSide_kept, ↓foldOn_kept, implies_true]

/-! ### Operations of PageWrite -/

@[simp] theorem State.putHost_kept (s : State) (o : Nat) (w : Word) :
    (State.putHost s o w).kept = s.kept := by
  unfold State.putHost
  try simp only [↓State.setHost_kept, ↓State.setQueue_kept, ↓ite_kept, ite_self]
  repeat' (first | with_reducible rfl | (simp only [↓State.setHost_kept, ↓State.setQueue_kept, ↓ite_kept, ite_self]; done) | (with_reducible refine kept_ite ?_ ?_) | (simp only [↓State.setHost_kept, ↓State.setQueue_kept, ↓ite_kept, ite_self]) | split)

@[simp] theorem State.putTime_kept (s : State) (o : Nat) (w : Word) :
    (State.putTime s o w).kept = s.kept := by
  unfold State.putTime
  try simp only [↓State.setDomain_kept, ↓State.setSelect_kept, ↓State.setSource_kept, ↓State.setTime_kept, ↓State.syncOutLow_kept, ↓ite_kept, ite_self]
  repeat' (first | with_reducible rfl | (simp only [↓State.setDomain_kept, ↓State.setSelect_kept, ↓State.setSource_kept, ↓State.setTime_kept, ↓State.syncOutLow_kept, ↓ite_kept, ite_self]; done) | (with_reducible refine kept_ite ?_ ?_) | (simp only [↓State.setDomain_kept, ↓State.setSelect_kept, ↓State.setSource_kept, ↓State.setTime_kept, ↓State.syncOutLow_kept, ↓ite_kept, ite_self]) | split)

@[simp] theorem State.putMotion_kept (s : State) (o : Nat) (w : Word) :
    (State.putMotion s o w).kept = s.kept := by
  unfold State.putMotion
  simp only [↓State.setMotion_kept, ↓ite_kept, ite_self]

@[simp] theorem State.putLoop_kept (s : State) (k o : Nat) (w : Word) :
    (State.putLoop s k o w).kept = s.kept := by
  unfold State.putLoop
  try simp only [↓State.setAxis_kept, ↓State.setEngine_kept, ↓State.setLoops_kept, ↓ite_kept, ite_self]
  repeat' (first | with_reducible rfl | (simp only [↓State.setAxis_kept, ↓State.setEngine_kept, ↓State.setLoops_kept, ↓ite_kept, ite_self]; done) | (with_reducible refine kept_ite ?_ ?_) | (simp only [↓State.setAxis_kept, ↓State.setEngine_kept, ↓State.setLoops_kept, ↓ite_kept, ite_self]) | split)

@[simp] theorem State.putSlotWord_kept (s : State) (e k : Nat) (pg o : Nat) (v : Word) :
    (State.putSlotWord s e k pg o v).kept = s.kept := by
  unfold State.putSlotWord
  simp only [↓State.setSlot_kept, ↓foldl_kept, ↓ite_kept, ite_self, implies_true]

@[simp] theorem State.putSolver_kept (s : State) (k o : Nat) (w : Word) :
    (State.putSolver s k o w).kept = s.kept := by
  unfold State.putSolver
  simp only [↓State.setSolve_kept, ↓State.setSolver_kept, ↓ite_kept, ite_self]

@[simp] theorem State.putTiles_kept (s : State) (k o : Nat) (w : Word) :
    (State.putTiles s k o w).kept = s.kept := by
  unfold State.putTiles
  try simp only [↓State.setKernel_kept, ↓State.setTile_kept, ↓State.setTiles_kept, ↓ite_kept, ite_self]
  repeat' (first | with_reducible rfl | (simp only [↓State.setKernel_kept, ↓State.setTile_kept, ↓State.setTiles_kept, ↓ite_kept, ite_self]; done) | (with_reducible refine kept_ite ?_ ?_) | (simp only [↓State.setKernel_kept, ↓State.setTile_kept, ↓State.setTiles_kept, ↓ite_kept, ite_self]) | split)

@[simp] theorem State.putDisp_kept (s : State) (o : Nat) (w : Word) :
    (State.putDisp s o w).kept = s.kept := by
  unfold State.putDisp
  simp only [↓State.setDisp_kept, ↓State.setMemcls_kept, ↓ite_kept, ite_self]

@[simp] theorem State.putNibbles_kept (s : State) (o : Nat) (w : Word) :
    (State.putNibbles s o w).kept = s.kept := by
  unfold State.putNibbles
  try simp only [↓State.setNibble_kept, ↓State.setWindow_kept]
  repeat' (first | with_reducible rfl | (simp only [↓State.setNibble_kept, ↓State.setWindow_kept]; done) | (with_reducible refine kept_ite ?_ ?_) | (simp only [↓State.setNibble_kept, ↓State.setWindow_kept]) | split)

@[simp] theorem State.putSafety_kept (s : State) (o : Nat) (w v : Word) :
    (State.putSafety s o w v).kept = s.kept := by
  unfold State.putSafety
  simp only [↓State.requestBrakeTests_kept, ↓State.setSafety_kept, ↓ite_kept, ite_self]

@[simp] theorem State.putSep_kept (s : State) (o : Nat) (w : Word) :
    (State.putSep s o w).kept = s.kept := by
  unfold State.putSep
  simp only [↓State.setSep_kept, ↓ite_kept, ite_self]

@[simp] theorem State.putLink_kept (s : State) (n k : Nat) (w : Word) :
    (State.putLink s n k w).kept = s.kept := by
  unfold State.putLink
  simp only [↓State.setSep_kept, ↓ite_kept, ite_self]

@[simp] theorem State.putCan_kept (s : State) (n : Fin 4) (o : Nat) (w v : Word) :
    (State.putCan s n o w v).kept = s.kept := by
  unfold State.putCan
  simp only [↓State.setCanCtrl_kept, ↓State.setCanN_kept, ↓ite_kept, ite_self]

@[simp] theorem State.putPower_kept (s : State) (o : Nat) (w : Word) :
    (State.putPower s o w).kept = s.kept := by
  unfold State.putPower
  simp only [↓State.setSys_kept, ↓ite_kept, ite_self]

@[simp] theorem State.putTrace_kept (s : State) (o : Nat) (w v : Word) :
    (State.putTrace s o w v).kept = s.kept := by
  unfold State.putTrace
  simp only [↓State.armTrace_kept, ↓State.setEngine_kept, ↓ite_kept, ite_self]

@[simp] theorem State.putFault_kept (s : State) (w : Word) :
    (State.putFault s w).kept = s.kept := by
  rfl

@[simp] theorem State.putWord_kept (s : State) (pg o : Nat) (v : Word) :
    (State.putWord s pg o v).kept = s.kept := by
  unfold State.putWord
  simp only [↓State.canBuf_kept, ↓State.putCan_kept, ↓State.putDisp_kept, ↓State.putFault_kept, ↓State.putHost_kept, ↓State.putLink_kept, ↓State.putLoop_kept, ↓State.putMotion_kept, ↓State.putNibbles_kept, ↓State.putPower_kept, ↓State.putSafety_kept, ↓State.putSep_kept, ↓State.putSlotWord_kept, ↓State.putSolver_kept, ↓State.putTiles_kept, ↓State.putTime_kept, ↓State.putTrace_kept, ↓State.setRgCtrl_kept, ↓State.setRing_kept, ↓State.setSys_kept, ↓State.setTwin_kept, ↓ite_kept, ite_self]

@[simp] theorem State.putWords_kept (s : State) (pg : Nat) (ws : List (Nat × Word)) :
    (State.putWords s pg ws).kept = s.kept := by
  unfold State.putWords
  simp only [↓State.putWord_kept, ↓foldl_kept, implies_true]

@[simp] theorem State.commitBcfg_kept (s : State) (words : List Word) (slot : Nat) :
    (State.commitBcfg s words slot).kept = s.kept := by
  rfl

@[simp] theorem State.storeBcfg_kept (s : State) :
    (State.storeBcfg s).kept = s.kept := by
  unfold State.storeBcfg
  simp only [↓State.commitBcfg_kept, ↓State.setSys_kept, ↓ite_kept, ite_self]

@[simp] theorem State.latchEnabled_kept (s : State) (old : Vector QueueSt 16) :
    (State.latchEnabled s old).kept = s.kept := by
  unfold State.latchEnabled
  simp only [↓State.setQueue_kept, ↓foldOn_kept, ↓ite_kept, ite_self, implies_true]

@[simp] theorem State.writeWords_kept (s : State) (pg : Nat) (ws : List (Nat × Word)) :
    (State.writeWords s pg ws).kept = s.kept := by
  unfold State.writeWords
  simp only [↓State.latchDue_kept, ↓State.latchEnabled_kept, ↓State.putWords_kept, ↓State.storeBcfg_kept, ↓ite_kept, ite_self]

@[simp] theorem State.writeResets_kept (s : State) (pg : Nat) (ws : List (Nat × Word)) (by_ : Option (Nat × Nat)) :
    (State.writeResets s pg ws by_).kept = s.kept := by
  unfold State.writeResets
  try simp only [↓State.finishTag_kept, ↓State.setQueue_kept, ↓State.startReset_kept, ↓foldl_kept, ↓ite_kept, ite_self, implies_true]
  repeat' (first | with_reducible rfl | (simp only [↓State.finishTag_kept, ↓State.setQueue_kept, ↓State.startReset_kept, ↓foldl_kept, ↓ite_kept, ite_self, implies_true]; done) | (with_reducible refine kept_ite ?_ ?_) | (with_reducible refine (foldl_kept _ _ _ fun s x => ?_).trans ?_) | (simp only [↓State.finishTag_kept, ↓State.setQueue_kept, ↓State.startReset_kept, ↓foldl_kept, ↓ite_kept, ite_self, implies_true]) | split)

/-! ### Operations of SafetyCycle -/

@[simp] theorem State.commitSafety_kept (s : State) (q tag : Nat) (w0 : Word) :
    (State.commitSafety s q tag w0).kept = s.kept := by
  unfold State.commitSafety
  simp only [↓State.finishTag_kept, ↓State.setSys_kept]

@[simp] theorem State.configChanged_kept (s : State) (q tag : Nat) (w0 : Word) :
    (State.configChanged s q tag w0).kept = s.kept := by
  unfold State.configChanged
  simp only [↓State.commitSafety_kept, ↓State.enterBath_kept, ↓State.setSafety_kept, ↓State.setSys_kept, ↓ite_kept, ite_self]

@[simp] theorem State.toGate_kept (s : State) (p : Pkt) :
    (State.toGate s p).kept = s.kept := by
  unfold State.toGate
  simp only [↓State.setQueue_kept, ↓State.toPending_kept, ↓ite_kept, ite_self]

@[simp] theorem State.putSafe_kept (s : State) (r : SafeRec) :
    (State.putSafe s r).kept = s.kept := by
  unfold State.putSafe
  simp only [↓State.setIndex_kept, ↓State.setSafety_kept, ↓State.setSep_kept, ↓ite_kept, ite_self]

@[simp] theorem State.applySafe_kept (s : State) (p : Pkt) :
    (State.applySafe s p).kept = s.kept := by
  unfold State.applySafe
  simp only [↓State.configChanged_kept, ↓State.putSafe_kept, ↓State.setSafety_kept, ↓foldl_kept, ↓ite_kept, ite_self, implies_true]

@[simp] theorem State.applySafes_kept (s : State) :
    (State.applySafes s).kept = s.kept := by
  unfold State.applySafes
  simp only [↓State.applySafe_kept, ↓foldl_kept, implies_true]

@[simp] theorem State.heartbeats_kept (s : State) (hb1 hb2 digestsEqual : Bool) :
    (State.heartbeats s hb1 hb2 digestsEqual).kept = s.kept := by
  unfold State.heartbeats
  simp only [↓State.dropBrakes_kept, ↓State.enterBath_kept, ↓State.setSafety_kept, ↓ite_kept, ite_self]

@[simp] theorem State.adoptDemands_kept (s : State) (p : Option PeerSafety) :
    (State.adoptDemands s p).kept = s.kept := by
  unfold State.adoptDemands
  try simp only [↓State.stopIndex_kept, ↓foldOn_kept, ↓ite_kept, ite_self, implies_true]
  repeat' (first | with_reducible rfl | (simp only [↓State.stopIndex_kept, ↓foldOn_kept, ↓ite_kept, ite_self, implies_true]; done) | (with_reducible refine kept_ite ?_ ?_) | (with_reducible refine (foldOn_kept _ _ _ fun s x => ?_).trans ?_) | (simp only [↓State.stopIndex_kept, ↓foldOn_kept, ↓ite_kept, ite_self, implies_true]) | split)

@[simp] theorem State.judgePaired_kept (s : State) :
    (State.judgePaired s).kept = s.kept := by
  unfold State.judgePaired
  try simp only [↓State.judgeReset_kept, ↓State.refuseReset_kept, ↓State.sendBenjo_kept, ↓State.setSafety_kept, ↓State.setTwin_kept, ↓foldl_kept, ↓ite_kept, ite_self, implies_true]
  repeat' (first | with_reducible rfl | (simp only [↓State.judgeReset_kept, ↓State.refuseReset_kept, ↓State.sendBenjo_kept, ↓State.setSafety_kept, ↓State.setTwin_kept, ↓foldl_kept, ↓ite_kept, ite_self, implies_true]; done) | (with_reducible refine kept_ite ?_ ?_) | (with_reducible refine (foldl_kept _ _ _ fun s x => ?_).trans ?_) | (simp only [↓State.judgeReset_kept, ↓State.refuseReset_kept, ↓State.sendBenjo_kept, ↓State.setSafety_kept, ↓State.setTwin_kept, ↓foldl_kept, ↓ite_kept, ite_self, implies_true]) | split)

@[simp] theorem State.sepBoundary_kept (s : State) (hb1 hb2 : Bool) :
    (State.sepBoundary s hb1 hb2).kept = s.kept := by
  unfold State.sepBoundary
  simp only [↓State.sepDecide_kept, ↓State.writeCaps_kept, ↓foldOn_kept, ↓ite_kept, ite_self, implies_true]

/-! ### Operations of Sys -/

@[simp] theorem State.holdReset_kept (s : State) (cause : Nat) (fast : Bool) :
    (State.holdReset s cause fast).kept = s.kept := by
  have h : (if fast then (((s.setSafety { s.safety with ch1Ok := false }).enterBath 1).driveAll).dropBrakes
      else ((s.setSafety { s.safety with ch1Ok := false }).enterBath 1).driveAll).kept = s.kept := by
    simp only [↓State.driveAll_kept, ↓State.dropBrakes_kept, ↓State.enterBath_kept, ↓State.setSafety_kept, ↓ite_kept, ite_self]
  have ho : ∀ (y : SysSt) (f : Nat), (y.torn f).otp = y.otp := by
    intro y f
    unfold SysSt.torn
    repeat' (first | rfl | split)
  have key : ∀ X : State, State.kept { State.reset with
      pending := X.pending, now := X.now, free := X.free + 1, out := X.out
      safety := X.safety.afterReset X.time.cellNs, sys := (X.sys.torn X.free).afterReset cause } = X.kept :=
    fun X => congrArg (fun o => (X.pending, X.now, o)) (ho X.sys X.free)
  exact (key _).trans h

@[simp] theorem State.channelStarts_kept (s : State) (ch : Fin 2) :
    (State.channelStarts s ch).kept = s.kept := by
  unfold State.channelStarts
  simp only [↓State.setSafety_kept]

theorem State.commitWrite_kept (s : State) (w : FlashWrite) (h : ∀ q tag recs, w ≠ .otp q tag recs) :
    (s.commitWrite w).kept = s.kept := by
  cases w with
  | otp q tag recs => exact absurd rfl (h q tag recs)
  | _ =>
    unfold State.commitWrite
    repeat' (first | with_reducible rfl | (simp only [↓State.commitBcfg_kept, ↓State.commitSafety_kept, ↓State.finishTag_kept, ↓State.setSys_kept, ↓foldl_kept, ↓ite_kept, ite_self, implies_true]; done) | (with_reducible refine kept_ite ?_ ?_) | (simp only [↓State.commitBcfg_kept, ↓State.commitSafety_kept, ↓State.finishTag_kept, ↓State.setSys_kept, ↓foldl_kept, ↓ite_kept, ite_self, implies_true]) | split)

/-! ### Operations of Twin -/

@[simp] theorem State.giveHeads_kept (s : State) :
    (State.giveHeads s).kept = s.kept := by
  rfl

@[simp] theorem State.formPair_kept (s : State) (active : Bool) :
    (State.formPair s active).kept = s.kept := by
  unfold State.formPair
  simp only [↓State.giveHeads_kept, ↓State.pairTo_kept, ↓State.setCell_kept, ↓State.setTwin_kept, ↓ite_kept, ite_self]

@[simp] theorem State.takeHello_kept (s : State) (b : List Byte) :
    (State.takeHello s b).kept = s.kept := by
  unfold State.takeHello
  try simp only [↓State.confirmAll_kept, ↓State.diverge_kept, ↓State.formPair_kept, ↓State.pairTo_kept, ↓State.setTwin_kept, ↓State.takeHeads_kept, ↓ite_kept, ite_self]
  repeat' (first | with_reducible rfl | (simp only [↓State.confirmAll_kept, ↓State.diverge_kept, ↓State.formPair_kept, ↓State.pairTo_kept, ↓State.setTwin_kept, ↓State.takeHeads_kept, ↓ite_kept, ite_self]; done) | (with_reducible refine kept_ite ?_ ?_) | (simp only [↓State.confirmAll_kept, ↓State.diverge_kept, ↓State.formPair_kept, ↓State.pairTo_kept, ↓State.setTwin_kept, ↓State.takeHeads_kept, ↓ite_kept, ite_self]) | split)

@[simp] theorem State.takeResults_kept (s : State) (r : Fin 4) (bs : List Byte) :
    (State.takeResults s r bs).kept = s.kept := by
  unfold State.takeResults
  simp only [↓State.closeCycle_kept, ↓State.closePrev_kept, ↓State.putHop_kept, ↓foldl_kept, ↓ite_kept, ite_self, implies_true]

@[simp] theorem State.takeSlot_kept (s : State) (r : Fin 4) (seq : Word) (b : List Byte) :
    (State.takeSlot s r seq b).kept = s.kept := by
  unfold State.takeSlot
  try simp only [↓State.setSlot_kept, ↓State.setTwin_kept, ↓ite_kept, ite_self]
  repeat' (first | with_reducible rfl | (simp only [↓State.setSlot_kept, ↓State.setTwin_kept, ↓ite_kept, ite_self]; done) | (with_reducible refine kept_ite ?_ ?_) | (simp only [↓State.setSlot_kept, ↓State.setTwin_kept, ↓ite_kept, ite_self]) | split)

@[simp] theorem State.takePeerDelivery_kept (s : State) (seq : Word) (bs : List Byte) :
    (State.takePeerDelivery s seq bs).kept = s.kept := by
  unfold State.takePeerDelivery
  simp only [↓State.takeDelivery_kept]

@[simp] theorem State.takeSummary_kept (s : State) (b : List Byte) :
    (State.takeSummary s b).kept = s.kept := by
  unfold State.takeSummary
  try simp only [↓State.sendDigest_kept, ↓State.setTwin_kept, ↓State.takePeerDelivery_kept, ↓State.takeResults_kept, ↓State.takeSlot_kept, ↓foldl_kept, ↓ite_kept, ite_self, implies_true]
  repeat' (first | with_reducible rfl | (simp only [↓State.sendDigest_kept, ↓State.setTwin_kept, ↓State.takePeerDelivery_kept, ↓State.takeResults_kept, ↓State.takeSlot_kept, ↓foldl_kept, ↓ite_kept, ite_self, implies_true]; done) | (with_reducible refine kept_ite ?_ ?_) | (with_reducible refine (foldl_kept _ _ _ fun s x => ?_).trans ?_) | (simp only [↓State.sendDigest_kept, ↓State.setTwin_kept, ↓State.takePeerDelivery_kept, ↓State.takeResults_kept, ↓State.takeSlot_kept, ↓foldl_kept, ↓ite_kept, ite_self, implies_true]) | split)

@[simp] theorem State.takeDigest_kept (s : State) (b : List Byte) :
    (State.takeDigest s b).kept = s.kept := by
  unfold State.takeDigest
  simp only [↓State.diverge_kept, ↓State.setTwin_kept, ↓ite_kept, ite_self]

@[simp] theorem State.takeSolve_kept (s : State) (b : List Byte) :
    (State.takeSolve s b).kept = s.kept := by
  unfold State.takeSolve
  simp only [↓State.diverge_kept, ↓State.setTwin_kept, ↓State.takeBack_kept, ↓ite_kept, ite_self]

@[simp] theorem State.takeSafety_kept (s : State) (b : List Byte) :
    (State.takeSafety s b).kept = s.kept := by
  rfl

@[simp] theorem State.takeCan_kept (s : State) (b : List Byte) :
    (State.takeCan s b).kept = s.kept := by
  unfold State.takeCan
  try simp only [↓State.canBuf_kept, ↓State.canConfine_kept, ↓State.endTx_kept, ↓State.setCanN_kept, ↓ite_kept, ite_self]
  repeat' (first | with_reducible rfl | (simp only [↓State.canBuf_kept, ↓State.canConfine_kept, ↓State.endTx_kept, ↓State.setCanN_kept, ↓ite_kept, ite_self]; done) | (with_reducible refine kept_ite ?_ ?_) | (simp only [↓State.canBuf_kept, ↓State.canConfine_kept, ↓State.endTx_kept, ↓State.setCanN_kept, ↓ite_kept, ite_self]) | split)

@[simp] theorem State.dropPartner_kept (s : State) (q : Fin 16) (p : Pkt) :
    (State.dropPartner s q p).kept = s.kept := by
  unfold State.dropPartner
  try simp only [↓State.dropJob_kept, ↓State.dropTag_kept, ↓ite_kept, ite_self]
  repeat' (first | with_reducible rfl | (simp only [↓State.dropJob_kept, ↓State.dropTag_kept, ↓ite_kept, ite_self]; done) | (with_reducible refine kept_ite ?_ ?_) | (simp only [↓State.dropJob_kept, ↓State.dropTag_kept, ↓ite_kept, ite_self]) | split)

@[simp] theorem State.laneError_kept (s : State) (lane : Fin 2) :
    (State.laneError s lane).kept = s.kept := by
  rfl

@[simp] theorem State.laneUp_kept (s : State) (lane : Fin 2) :
    (State.laneUp s lane).kept = s.kept := by
  unfold State.laneUp
  simp only [↓State.sendHello_kept, ↓State.setTwin_kept, ↓ite_kept, ite_self]

@[simp] theorem State.dropCell_kept (s : State) :
    (State.dropCell s).kept = s.kept := by
  unfold State.dropCell
  simp only [↓State.ringDown_kept, ↓State.setCell_kept, ↓State.setLoops_kept, ↓State.setMotion_kept, ↓State.setNibble_kept, ↓State.setSolver_kept, ↓foldOn_kept, implies_true]

@[simp] theorem State.survive_kept (s : State) :
    (State.survive s).kept = s.kept := by
  unfold State.survive
  simp only [↓State.dropPartner_kept, ↓State.dropTag_kept, ↓State.pairTo_kept, ↓State.setTwin_kept, ↓State.settleCancels_kept, ↓foldl_kept, ↓ite_kept, ite_self, implies_true]

@[simp] theorem State.ownResult_kept (s : State) (own : Option Bool) :
    (State.ownResult s own).kept = s.kept := by
  unfold State.ownResult
  try simp only [↓State.sendBenjo_kept, ↓State.setTwin_kept, ↓ite_kept, ite_self]
  repeat' (first | with_reducible rfl | (simp only [↓State.sendBenjo_kept, ↓State.setTwin_kept, ↓ite_kept, ite_self]; done) | (with_reducible refine kept_ite ?_ ?_) | (simp only [↓State.sendBenjo_kept, ↓State.setTwin_kept, ↓ite_kept, ite_self]) | split)

@[simp] theorem State.announceSwap_kept (s : State) (tick : Nat) :
    (State.announceSwap s tick).kept = s.kept := by
  rfl

@[simp] theorem State.adopt_kept (s t : State) :
    (State.adopt s t).kept = s.kept := by
  unfold State.adopt
  simp only [↓State.brakeFault_kept, ↓State.driveAll_kept, ↓State.setCan_kept, ↓State.setCell_kept, ↓State.setDisp_kept, ↓State.setHost_kept, ↓State.setLoops_kept, ↓State.setMotion_kept, ↓State.setNibble_kept, ↓State.setRings_kept, ↓State.setSafety_kept, ↓State.setSep_kept, ↓State.setSolver_kept, ↓State.setTiles_kept, ↓State.setTime_kept, ↓foldOn_kept, implies_true]

/-! ### Operations of Cycle -/

@[simp] theorem State.byItself_kept (s : State) :
    (State.byItself s).kept = s.kept := by
  unfold State.byItself
  simp only [↓State.dispatch_kept, ↓State.ptpSends_kept, ↓State.ringTick_kept, ↓State.sendIdle_kept, ↓State.sendState_kept, ↓State.sendTime_kept, ↓foldOn_kept, implies_true]

end Sys2Proof.Machine
end

