-- ==== Sys2Proof/Laws/Packets.lean ====
section
/-! SUPPORT. The life of a packet, once for all commands: how it starts, what completing it does, and that completing it
touches nothing but replies. -/

namespace Sys2Proof.Machine

/-! ### Starting (R35, R41, R43) -/

/-- A packet that begins runs its effect. -/
theorem State.startPkt_begins {s : State} {q : Fin 16} {tag : Fin 1024} {op : Nat} {p : Pkt} (h : s.Begins q tag op p)
    (f : Pkt → State → State) : s.startPkt q tag op f = s.passOn q p (f p.begun (s.begun q p)) := by
  unfold State.startPkt
  rw [h.1]
  simp only [h.2, Bool.false_and, Bool.false_eq_true, if_false]

/-- Where no packet may start, nothing happens. -/
theorem State.startPkt_none {s : State} {q : Fin 16} {tag : Fin 1024} {op : Nat} (h : s.candidatePkt q tag op = none)
    (f : Pkt → State → State) : s.startPkt q tag op f = s := by
  unfold State.startPkt
  rw [h]

/-- A packet past its deadline that its checks let through completes with DEADLINE_MISSED. -/
theorem State.startPkt_late {s : State} {q : Fin 16} {tag : Fin 1024} {op : Nat} {p : Pkt}
    (h : s.candidatePkt q tag op = some p) (hl : p.late s.time.cellNs = true) (f : Pkt → State → State)
    (hr : (f p.begun (s.begun q p)).refused q p = false) :
    s.startPkt q tag op f = s.finish p ⟨stDeadline, 0, 0⟩ := by
  unfold State.startPkt
  rw [h]
  simp only [hl, hr, Bool.not_false, Bool.and_self, if_true]

/-- What a command row can do: nothing, DEADLINE_MISSED, or its effect on the started packet. -/
theorem State.startPkt_cases (s : State) (q : Fin 16) (tag : Fin 1024) (op : Nat) (f : Pkt → State → State) :
    s.startPkt q tag op f = s ∨
    (∃ p, s.candidatePkt q tag op = some p ∧ p.late s.time.cellNs = true ∧
      s.startPkt q tag op f = s.finish p ⟨stDeadline, 0, 0⟩) ∨
    (∃ p, s.candidatePkt q tag op = some p ∧ s.startPkt q tag op f = s.passOn q p (f p.begun (s.begun q p))) := by
  cases h : s.candidatePkt q tag op with
  | none => exact .inl (State.startPkt_none h f)
  | some p =>
    cases hl : p.late s.time.cellNs with
    | false => exact .inr (.inr ⟨p, rfl, State.startPkt_begins ⟨h, hl⟩ f⟩)
    | true =>
      cases hr : (f p.begun (s.begun q p)).refused q p with
      | false => exact .inr (.inl ⟨p, rfl, hl, State.startPkt_late h hl f hr⟩)
      | true =>
        refine .inr (.inr ⟨p, rfl, ?_⟩)
        unfold State.startPkt
        rw [h]
        simp only [hr, Bool.not_true, Bool.and_false, Bool.false_eq_true, if_false]

/-- A row whose meaning starts its packet and goes on with `f` completes with what `f` gives. -/
theorem completes_of {c : Fin 16 → Fin 1024 → Instr} {op : Nat} {pre : Pkt → State → Prop} {eff f : Pkt → State → State}
    (he : ∀ q tag s, exec (c q tag) s = .next (s.startPkt q tag op f)) (h : ∀ p t, pre p t → f p t = eff p t) :
    Completes c op pre eff := by
  intro q tag s p hb hp
  rw [he, State.startPkt_begins hb, h _ _ hp]

/-- The same for a row of which only something is said. -/
theorem answers_of {c : Fin 16 → Fin 1024 → Instr} {op : Nat} {pre : Pkt → State → Prop} {post : Pkt → State → State → Prop}
    {f : Pkt → State → State} (he : ∀ q tag s, exec (c q tag) s = .next (s.startPkt q tag op f))
    (h : ∀ p t, pre p t → post p t (f p t)) : Answers c op pre post := by
  intro q tag s p hb hp
  exact ⟨_, by rw [he, State.startPkt_begins hb], h _ _ hp⟩

/-- A row that hands its packet to `State.fragment` takes fragments. -/
theorem takesFragments_of {c : Fin 16 → Fin 1024 → Instr} {op : Nat} {st : Stream} {busy : State → Bool}
    {whole : Pkt → List Byte → State → State}
    (he : ∀ q tag s, exec (c q tag) s = .next (s.startPkt q tag op (fun p t => t.fragment st p (busy t) (whole p)))) :
    TakesFragments c op st busy whole := by
  refine ⟨fun b => completes_of he ?_, fun v => completes_of he ?_, fun v => completes_of he ?_, fun b => completes_of he ?_⟩ <;>
    (intro p t h; simp only [State.fragment, h, State.dropPart, State.setCell])

/-- The packet that a row names: in flight on the queue under the tag, with the row's opcode, not started. -/
theorem State.candidatePkt_some {s : State} {q : Fin 16} {tag : Fin 1024} {op : Nat} {p : Pkt}
    (h : s.candidatePkt q tag op = some p) :
    s.host.queues[q].named tag = some p ∧ p.opcode = op ∧ p.queue = q.val ∧ p.phase = .accepted := by
  unfold State.candidatePkt at h
  split at h
  · rename_i o ho
    split at h
    · rename_i hc
      simp only [Bool.and_eq_true, beq_iff_eq] at hc
      cases Option.some.inj h
      obtain ⟨⟨⟨h1, h2⟩, h3⟩, -⟩ := hc
      unfold QueueSt.startable at h3
      simp only [Bool.and_eq_true, decide_eq_true_eq] at h3
      exact ⟨ho, h1, h2, h3.1.1⟩
    · cases h
  · cases h

/-! ### Completion touches nothing but replies -/

theorem State.repliesOnly.refl (s : State) : s.repliesOnly s := ⟨_, _, _, _, [], rfl⟩

theorem State.repliesOnly.trans {s t u : State} (h : s.repliesOnly t) (k : t.repliesOnly u) : s.repliesOnly u := by
  obtain ⟨_, _, _, _, l, rfl⟩ := h
  obtain ⟨qs, ps, late, w, m, rfl⟩ := k
  exact ⟨qs, ps, late, w, m ++ l, by simp only [List.append_assoc]⟩

theorem repliesOnly_ite {c : Prop} [Decidable c] {s t u : State} (ht : s.repliesOnly t) (hu : s.repliesOnly u) :
    s.repliesOnly (if c then t else u) := by
  split <;> assumption

theorem repliesOnly_foldl {α : Type} (l : List α) (g : State → α → State) (s t : State) (h : s.repliesOnly t)
    (hg : ∀ (t : State) x, t.repliesOnly (g t x)) : s.repliesOnly (l.foldl g t) := by
  induction l generalizing t with
  | nil => exact h
  | cons a r ih => exact ih _ (h.trans (hg _ _))

theorem State.setQueue_repliesOnly (s : State) (q : Fin 16) (x : QueueSt) : s.repliesOnly (s.setQueue q x) :=
  ⟨_, _, _, _, [], rfl⟩

theorem State.dropTag_repliesOnly (s : State) (q : Fin 16) (tag : Nat) : s.repliesOnly (s.dropTag q tag) :=
  s.setQueue_repliesOnly _ _

theorem State.sendBenjo_repliesOnly (s : State) (type : Nat) (b : List Byte) : s.repliesOnly (s.sendBenjo type b) :=
  ⟨_, _, _, _, [_, _], rfl⟩

/-- A packet whose effect touches only replies touches only replies; the partner's runs at the cell time it carries, and the
device's own time is put back after it. -/
theorem State.passOn_repliesOnly (s : State) (q : Fin 16) (p : Pkt) (t : State) (h : (s.begun q p).repliesOnly t) :
    s.repliesOnly (s.passOn q p t) := by
  unfold State.passOn
  unfold State.begun at h
  by_cases ho : p.origin = .partner
  · simp only [ho, if_true] at h ⊢
    obtain ⟨qs, ps, late, w, l, rfl⟩ := h
    rw [if_pos (by rfl)]
    exact ⟨qs, ps, late, w, l, rfl⟩
  · simp only [ho, if_false] at h ⊢
    have h' := (s.setQueue_repliesOnly _ _).trans h
    refine repliesOnly_ite ?_ h'
    exact h'.trans ((t.setQueue_repliesOnly _ _).trans (State.sendBenjo_repliesOnly _ _ _))

theorem State.reply_repliesOnly (s : State) (p : Pkt) (v : Verdict) (b : List Byte) (lost : Bool)
    (ws : List (Nat × Nat × Word)) (hv : v.status ≠ stInternal) : s.repliesOnly (s.reply p v b lost ws) := by
  unfold State.reply
  simp only [hv, if_false]
  refine repliesOnly_ite (s.sendBenjo_repliesOnly _ _) (repliesOnly_ite (.refl s) ?_)
  refine State.repliesOnly.trans ?_ (State.setQueue_repliesOnly _ _ _)
  exact repliesOnly_ite ⟨_, _, _, _, [], rfl⟩ (.refl s)

theorem State.finishN_repliesOnly (n : Nat) (s : State) (p : Pkt) (v : Verdict) (b : List Byte) (lost : Bool)
    (ws : List (Nat × Nat × Word)) (hv : v.status ≠ stInternal) : s.repliesOnly (s.finishN n p v b lost ws) := by
  induction n generalizing s p v b lost ws with
  | zero =>
    unfold State.finishN
    exact (s.dropTag_repliesOnly _ _).trans (State.reply_repliesOnly _ _ _ _ _ _ hv)
  | succ n ih =>
    have ok : (⟨stOk, 0, 0⟩ : Verdict).status ≠ stInternal := by decide
    have h0 := (s.dropTag_repliesOnly (f16 p.queue) p.tag).trans (State.reply_repliesOnly _ p v b lost ws hv)
    have h1 : s.repliesOnly (if p.origin = .partner then ws.foldl (fun s w => match s.host.queues[f16 w.1].find w.2.1 with
        | some o => s.finishN n o ⟨stOk, w.2.2, 0⟩ [] false []
        | none => s) ((s.dropTag (f16 p.queue) p.tag).reply p v b lost ws)
        else (s.dropTag (f16 p.queue) p.tag).reply p v b lost ws) := by
      refine repliesOnly_ite (repliesOnly_foldl _ _ _ _ h0 fun t w => ?_) h0
      split
      · exact ih _ _ _ _ _ _ ok
      · exact .refl t
    unfold State.finishN
    refine repliesOnly_ite (repliesOnly_foldl _ _ _ _ (h1.trans ?_) fun t w => ?_) h1
    · exact ⟨_, _, _, _, [], rfl⟩
    · refine repliesOnly_ite (.refl t) ?_
      split
      · exact ih _ _ _ _ _ _ ok
      · exact .refl t

theorem State.finish_repliesOnly (s : State) (p : Pkt) (v : Verdict) (b : List Byte) (hv : v.status ≠ stInternal) :
    s.repliesOnly (s.finish p v b) := State.finishN_repliesOnly _ _ _ _ _ _ _ hv

theorem State.finishOk_repliesOnly (s : State) (p : Pkt) (w0 w1 : Word) (b : List Byte) :
    s.repliesOnly (s.finishOk p w0 w1 b) := s.finish_repliesOnly p ⟨stOk, w0, w1⟩ b (by decide : stOk ≠ stInternal)

/-- A row whose effect touches only replies touches only replies. -/
theorem State.startPkt_repliesOnly (s : State) (q : Fin 16) (tag : Fin 1024) (op : Nat) (f : Pkt → State → State)
    (hf : ∀ p (t : State), t.repliesOnly (f p t)) : s.repliesOnly (s.startPkt q tag op f) := by
  rcases s.startPkt_cases q tag op f with h | ⟨p, -, -, h⟩ | ⟨p, -, h⟩
  · rw [h]
    exact .refl s
  · rw [h]
    exact s.finish_repliesOnly _ _ _ (by decide : stDeadline ≠ stInternal)
  · rw [h]
    exact s.passOn_repliesOnly _ _ _ (hf _ _)

/-! ### Completion on a queue that is not under reset -/

theorem State.reply_resetting (s : State) (p : Pkt) (v : Verdict) (b : List Byte) (ho : p.origin ≠ .partner)
    (q : Fin 16) : ((s.reply p v b).host.queues[q]).resetting = s.host.queues[q].resetting := by
  have hl : (if v.status = stInternal then s.logRec 0x0F (s.openWord p 0).toNat p.queue p.tag else s).host.queues = s.host.queues := by
    split <;> rfl
  unfold State.reply
  simp only [ho, if_false]
  generalize (if v.status = stInternal then s.logRec 0x0F (s.openWord p 0).toNat p.queue p.tag else s) = u at hl ⊢
  split
  · simp only [hl]
  · rename_i hr
    by_cases e : f16 p.queue = q
    · subst e
      simp only [Bool.not_eq_true] at hr
      split <;> simp [State.setQueue, hl]
    · have e' : (f16 p.queue).val ≠ q.val := fun h => e (Fin.ext h)
      split <;> simp [State.setQueue, e', hl]

/-- On a queue that is not under reset a completed packet leaves the in-flight list and its reply waits, and that is all. -/
theorem State.finish_plain (s : State) (p : Pkt) (v : Verdict) (b : List Byte) (ho : p.origin ≠ .partner)
    (hr : (s.host.queues[f16 p.queue]).resetting = false) :
    s.finish p v b = (s.dropTag (f16 p.queue) p.tag).reply p v b := by
  have h1 : ((s.dropTag (f16 p.queue) p.tag).host.queues[f16 p.queue]).resetting = false := by
    simpa [State.dropTag, State.setQueue, QueueSt.remove] using hr
  have h2 := State.reply_resetting (s.dropTag (f16 p.queue) p.tag) p v b ho (f16 p.queue)
  rw [h1] at h2
  unfold State.finish State.finishN
  simp only [ho, if_false, h2, Bool.false_and, Bool.false_eq_true]

end Sys2Proof.Machine
end

