-- ==== Sys2Proof/Laws/Otp.lean ====
section
/-! SUPPORT. The OTP array through the commands that program it: bits only rise, and a locked key hash stays (R86, R403,
R405). -/

namespace Sys2Proof.Machine

/-- From `s` to `t` the queue and the elapsed time stay, OTP bits only rise, and a locked key hash stays. -/
structure State.Lasts (s t : State) : Prop where
  pending : t.pending = s.pending
  now     : t.now = s.now
  rises   : otpRises s t
  frozen  : ∀ k, s.KeyFrozen k → t.KeyFrozen k

theorem State.Lasts.of_kept {s t : State} (h : t.kept = s.kept) : s.Lasts t := by
  simp only [State.kept, Prod.mk.injEq] at h
  obtain ⟨h1, h2, h3⟩ := h
  refine ⟨h1, h2, fun w i hb => h3 ▸ hb, fun k hk => ?_⟩
  unfold State.KeyFrozen State.otpLocked at hk ⊢
  rw [h3]
  exact hk

theorem State.Lasts.refl (s : State) : s.Lasts s := .of_kept rfl

theorem State.Lasts.trans {s t u : State} (h : s.Lasts t) (k : t.Lasts u) : s.Lasts u :=
  ⟨k.pending.trans h.pending, k.now.trans h.now, fun w i hb => k.rises w i (h.rises w i hb),
    fun x hx => k.frozen x (h.frozen x hx)⟩

theorem lasts_ite {c : Prop} [Decidable c] {s t u : State} (ht : s.Lasts t) (hu : s.Lasts u) :
    s.Lasts (if c then t else u) := by
  split <;> assumption

/-- Programming a word clears no bit. -/
theorem burn_rises (v : Vector Word 17) (r : Nat × Word) (w : Fin 17) (i : Nat) (h : v[w].getLsbD i = true) :
    (burn v r)[w].getLsbD i = true := by
  unfold burn
  dsimp only
  split
  · exact h
  · by_cases e : fin 17 (by decide) r.1 = w
    · subst e
      simp only [Fin.getElem_fin, Vector.getElem_set_self, BitVec.getLsbD_or] at h ⊢
      rw [h, Bool.true_or]
    · have e' : (fin 17 (by decide) r.1).val ≠ w.val := fun q => e (Fin.ext q)
      simpa only [Fin.getElem_fin, Vector.getElem_set_ne _ _ e'] using h

/-- Once lock bit 0 is set, programming leaves the key hash. -/
theorem burn_frozen (v : Vector Word 17) (r : Nat × Word) (hl : bitAt v[(⟨16, by decide⟩ : Fin 17)] 0 = true) (w : Fin 12) :
    (burn v r)[(⟨w.val, by omega⟩ : Fin 17)] = v[(⟨w.val, by omega⟩ : Fin 17)] := by
  unfold burn
  dsimp only
  split
  · rfl
  · rename_i hn
    have e' : (fin 17 (by decide) r.1).val ≠ w.val := fun q => hn ⟨q ▸ w.isLt, hl⟩
    simp only [Fin.getElem_fin, Vector.getElem_set_ne _ _ e']

/-- Bit 0 of a word, read either way. -/
theorem bitAt_zero (w : Word) : bitAt w 0 = w.getLsbD 0 := rfl

theorem setOtp_lasts (s : State) (recs : List (Nat × Word)) :
    s.Lasts (s.setSys { s.sys with otp := recs.foldl burn s.sys.otp }) := by
  have key : ∀ (l : List (Nat × Word)) (v : Vector Word 17),
      (∀ (w : Fin 17) (i : Nat), v[w].getLsbD i = true → (l.foldl burn v)[w].getLsbD i = true) ∧
      (bitAt v[(⟨16, by decide⟩ : Fin 17)] 0 = true → ∀ w : Fin 12,
        (l.foldl burn v)[(⟨w.val, by omega⟩ : Fin 17)] = v[(⟨w.val, by omega⟩ : Fin 17)]) := by
    intro l
    induction l with
    | nil => exact fun v => ⟨fun _ _ h => h, fun _ _ => rfl⟩
    | cons r l ih =>
      intro v
      refine ⟨fun w i h => (ih _).1 w i (burn_rises v r w i h), fun hl w => ?_⟩
      have hl' : bitAt (burn v r)[(⟨16, by decide⟩ : Fin 17)] 0 = true := by
        rw [bitAt_zero] at hl ⊢
        exact burn_rises v r _ 0 hl
      exact ((ih _).2 hl' w).trans (burn_frozen v r hl w)
  refine ⟨rfl, rfl, (key recs s.sys.otp).1, fun k hk => ⟨?_, fun w => ?_⟩⟩
  · have h0 := hk.1
    unfold State.otpLocked at h0 ⊢
    rw [bitAt_zero] at h0 ⊢
    exact (key recs s.sys.otp).1 _ 0 h0
  · exact ((key recs s.sys.otp).2 hk.1 w).trans (hk.2 w)

/-- A write that is carried out keeps what lasts. -/
theorem State.commitWrite_lasts (s : State) (w : FlashWrite) : s.Lasts (s.commitWrite w) := by
  cases w with
  | otp q tag recs =>
    unfold State.commitWrite
    exact (setOtp_lasts s recs).trans (.of_kept (State.finishTag_kept _ _ _ _ _))
  | _ => exact .of_kept (State.commitWrite_kept s _ (fun _ _ _ h => by cases h))

theorem State.flashWrite_lasts (s : State) (w : FlashWrite) : s.Lasts (s.flashWrite w) := by
  unfold State.flashWrite
  exact lasts_ite (.of_kept (State.setSys_kept _ _ rfl)) (s.commitWrite_lasts w)

/-- An accepted command keeps what lasts. -/
theorem State.accept_lasts (s : State) (p : Pkt) : s.Lasts (s.accept p) := by
  have h0 : s.Lasts (s.setQueue (f16 p.queue) (s.host.queues[f16 p.queue].setPhase p.tag Phase.started)) :=
    .of_kept (State.setQueue_kept _ _ _)
  unfold State.accept
  refine lasts_ite (h0.trans (.trans (.of_kept (State.setTwin_kept _ _)) (State.flashWrite_lasts _ _))) ?_
  refine lasts_ite (h0.trans (State.flashWrite_lasts _ _)) ?_
  refine lasts_ite (h0.trans (State.flashWrite_lasts _ _)) ?_
  refine lasts_ite (h0.trans ?_) h0
  split
  · refine lasts_ite (lasts_ite ?_ ?_) (.refl _)
    · exact .of_kept (State.setCell_kept _ _)
    · exact .of_kept (State.announceJob_kept _ _)
  · exact .refl _

/-- A COMMAND frame keeps what lasts. -/
theorem State.takeCommand_lasts (s : State) (b : List Byte) : s.Lasts (s.takeCommand b) := by
  unfold State.takeCommand
  dsimp only
  split
  · exact .of_kept (State.setQueue_kept _ _ _)
  · exact .of_kept (State.setQueue_kept _ _ _)
  · split
    · exact lasts_ite (s.accept_lasts _) (.refl s)
    · exact .refl s
  · split
    · exact lasts_ite (.of_kept ((State.sendBenjo_kept _ _ _).trans (State.dropPartner_kept _ _ _))) (.refl s)
    · exact .refl s
  · exact lasts_ite (.refl s) (.of_kept (State.dropDelivered_kept _ _ _))
  · exact lasts_ite (.refl s) (.of_kept (State.takeCan_kept _ _))
  · exact .refl s

/-- A valid Benjo frame keeps what lasts. -/
theorem State.takeBenjo_lasts (s : State) (type : Nat) (b : List Byte) : s.Lasts (s.takeBenjo type b) := by
  unfold State.takeBenjo
  dsimp only
  split
  · exact .of_kept (State.takeHello_kept _ _)
  · exact lasts_ite (.of_kept (State.takeSummary_kept _ _)) (.refl s)
  · exact lasts_ite (.of_kept (State.takeDigest_kept _ _)) (.refl s)
  · exact lasts_ite (.of_kept (State.takeSolve_kept _ _)) (.refl s)
  · exact lasts_ite (.of_kept (State.takeSafety_kept _ _)) (.refl s)
  · exact lasts_ite (s.takeCommand_lasts b) (.refl s)
  · exact lasts_ite (.of_kept (State.correctPhase_kept _ _)) (.refl s)
  · exact lasts_ite (.of_kept (State.setTwin_kept _ _)) (.refl s)
  · exact lasts_ite (.of_kept (State.setTwin_kept _ _)) (.refl s)
  · exact lasts_ite (.of_kept (State.setTwin_kept _ _)) (.refl s)
  · exact .refl s

end Sys2Proof.Machine
end

