-- ==== Sys2Proof/Laws/Torque.lean ====
section
/-! SUPPORT. Torque safety of the enables (R318, R328): every operation keeps it. One lemma per operation. -/

namespace Sys2Proof.Machine

set_option linter.unreachableTactic false
set_option linter.unusedTactic false
set_option linter.unusedSimpArgs false

/-- A choice is safe when both sides are. -/
theorem torqueSafe_ite {c : Prop} [Decidable c] {s t : State} (hs : s.TorqueSafe) (ht : t.TorqueSafe) :
    (if c then s else t).TorqueSafe := by
  split <;> assumption

/-- A fold is safe when each of its steps keeps safety. -/
theorem torqueSafe_foldl {α : Type} (l : List α) (g : State → α → State) (s : State) (h : s.TorqueSafe)
    (hg : ∀ s x, s.TorqueSafe → (g s x).TorqueSafe) : (l.foldl g s).TorqueSafe := by
  induction l generalizing s with
  | nil => exact h
  | cons a r ih => exact ih _ (hg _ _ h)

/-- The same of a fold over numbers. -/
theorem torqueSafe_foldOn (l : List Nat) (s : State) (g : State → Nat → State) (h : s.TorqueSafe)
    (hg : ∀ s x, s.TorqueSafe → (g s x).TorqueSafe) : (foldOn l s g).TorqueSafe := torqueSafe_foldl l g s h hg

/-- Safety rests on the indices and the enables alone. -/
theorem torqueSafe_congr {s t : State} (h : s.TorqueSafe) (hi : t.safety.index = s.safety.index)
    (h1 : t.safety.en1 = s.safety.en1) (h2 : t.safety.en2 = s.safety.en2) : t.TorqueSafe := by
  intro c
  unfold State.IndexSafe
  rw [hi, h1, h2]
  exact h c

theorem State.setSafety_torqueSafe (s : State) (x : SafetySt) (h : s.TorqueSafe) (hi : x.index = s.safety.index)
    (h1 : x.en1 = s.safety.en1) (h2 : x.en2 = s.safety.en2) : (s.setSafety x).TorqueSafe :=
  torqueSafe_congr h hi h1 h2

/-- An index whose state and lift stay as they were. -/
theorem State.setIndex_torqueSafe (s : State) (c : Fin 16) (x : IndexSt) (h : s.TorqueSafe)
    (hs : x.state = s.safety.index[c].state) (hl : x.lifted = s.safety.index[c].lifted) :
    (s.setIndex c x).TorqueSafe := by
  intro d
  have hd := h d
  unfold State.IndexSafe at hd ⊢
  simp only [State.setIndex_safety] at *
  by_cases e : c = d
  · subst e
    simpa [hs, hl] using hd
  · have e' : c.val ≠ d.val := fun q => e (Fin.ext q)
    simpa [Vector.getElem_set, e'] using hd

/-- Every index but one is safe. -/
def State.SafeBut (s : State) (c : Fin 16) : Prop := ∀ d : Fin 16, d ≠ c → s.IndexSafe d

theorem State.TorqueSafe.but {s : State} (h : s.TorqueSafe) (c : Fin 16) : s.SafeBut c := fun d _ => h d

/-- Writing an index leaves the others as safe as they were. -/
theorem State.setIndex_safeBut (s : State) (c : Fin 16) (x : IndexSt) (h : s.SafeBut c) : (s.setIndex c x).SafeBut c := by
  intro d hd
  have e' : c.val ≠ d.val := fun q => hd (Fin.ext q.symm)
  have := h d hd
  unfold State.IndexSafe at this ⊢
  simpa [Vector.getElem_set, e'] using this

theorem safeBut_congr {s t : State} {c : Fin 16} (h : s.SafeBut c) (hi : t.safety.index = s.safety.index)
    (h1 : t.safety.en1 = s.safety.en1) (h2 : t.safety.en2 = s.safety.en2) : t.SafeBut c := by
  intro d hd
  have := h d hd
  unfold State.IndexSafe at this ⊢
  rw [hi, h1, h2]
  exact this

/-- Bit `j` after bit `i` is set. -/
theorem bvSet_getLsbD {n : Nat} (v : BitVec n) (i j : Nat) (h : i < n) :
    (bvSet v i).getLsbD j = (v.getLsbD j || decide (i = j)) := by
  unfold bvSet
  rw [BitVec.getLsbD_or, BitVec.getLsbD_ofNat, Nat.testBit_two_pow]
  by_cases e : i = j
  · subst e
    simp only [h, decide_true, Bool.and_self]
  · simp only [e, decide_false, Bool.and_false]

/-- Bit `j` after bit `i` is cleared. -/
theorem bvClr_getLsbD {n : Nat} (v : BitVec n) (i j : Nat) :
    (bvClr v i).getLsbD j = (v.getLsbD j && !decide (i = j)) := by
  unfold bvClr
  rw [BitVec.getLsbD_and, BitVec.getLsbD_not, BitVec.getLsbD_ofNat, Nat.testBit_two_pow]
  by_cases hj : j < n
  · simp only [hj, decide_true, Bool.true_and]
  · simp only [BitVec.getLsbD_of_ge _ _ (Nat.le_of_not_lt hj), Bool.false_and]

/-- `drive` makes its index safe, whatever it was, and keeps the others safe that are. -/
theorem State.drive_indexSafe (s : State) (c d : Fin 16) (h : d ≠ c → s.IndexSafe d) : (s.drive c).IndexSafe d := by
  unfold State.IndexSafe State.drive
  simp only [State.setSafety_safety]
  by_cases e : d = c
  · subst e
    rintro (h1 | h1)
    all_goals
      revert h1
      split
      · rename_i hon
        intro _
        simp only [Bool.and_eq_true, Bool.or_eq_true, decide_eq_true_eq] at hon
        exact hon.1.1
      · rw [bvClr_getLsbD]
        simp only [decide_true, Bool.not_true, Bool.and_false, Bool.false_eq_true, false_imp_iff]
  · have hb := h e
    unfold State.IndexSafe at hb
    have e' : c.val ≠ d.val := fun q => e (Fin.ext q.symm)
    intro hen
    refine hb (hen.imp ?_ ?_)
    all_goals
      intro h1
      split at h1
      · rw [bvSet_getLsbD _ _ _ c.isLt] at h1
        simpa only [e', decide_false, Bool.or_false] using h1
      · rw [bvClr_getLsbD] at h1
        simpa only [e', decide_false, Bool.not_false, Bool.and_true] using h1

theorem State.drive_safe (s : State) (c : Fin 16) (h : s.SafeBut c) : (s.drive c).TorqueSafe :=
  fun d => s.drive_indexSafe c d (h d)

/-- An index may take any state when its outputs follow at once. -/
theorem State.setIndex_drive_torqueSafe (s : State) (c : Fin 16) (x : IndexSt) (h : s.SafeBut c) :
    ((s.setIndex c x).drive c).TorqueSafe := State.drive_safe _ c (s.setIndex_safeBut c x h)

theorem State.protect_safeBut (s : State) (c d : Fin 16) (f : ChFault) (h : s.SafeBut c) : (s.protect d f).SafeBut c := by
  unfold State.protect
  dsimp only
  split <;> exact safeBut_congr h rfl rfl rfl

theorem State.addMotionCmd_safeBut (s : State) (c : Fin 16) (m : MotionCmd) (h : s.SafeBut c) : (s.addMotionCmd m).SafeBut c :=
  safeBut_congr h rfl rfl rfl

theorem safeBut_ite {p : Prop} [Decidable p] {s t : State} {c : Fin 16} (hs : s.SafeBut c) (ht : t.SafeBut c) :
    (if p then s else t).SafeBut c := by
  split <;> assumption

theorem State.drive_torqueSafe (s : State) (c : Fin 16) (h : s.TorqueSafe) : (s.drive c).TorqueSafe :=
  s.drive_safe c (h.but c)

/-! ### Operations of Ops -/

theorem State.setPending_torqueSafe (s : State) (x : List Instr) (h : s.TorqueSafe) :
    (State.setPending s x).TorqueSafe := by
  exact h

theorem State.setNow_torqueSafe (s : State) (x : Nat) (h : s.TorqueSafe) :
    (State.setNow s x).TorqueSafe := by
  exact h

theorem State.setFree_torqueSafe (s : State) (x : Nat) (h : s.TorqueSafe) :
    (State.setFree s x).TorqueSafe := by
  exact h

theorem State.setOut_torqueSafe (s : State) (x : List Out) (h : s.TorqueSafe) :
    (State.setOut s x).TorqueSafe := by
  exact h

theorem State.setHost_torqueSafe (s : State) (x : HostSt) (h : s.TorqueSafe) :
    (State.setHost s x).TorqueSafe := by
  exact h

theorem State.setCell_torqueSafe (s : State) (x : CellSt) (h : s.TorqueSafe) :
    (State.setCell s x).TorqueSafe := by
  exact h

theorem State.setTime_torqueSafe (s : State) (x : TimeSt) (h : s.TorqueSafe) :
    (State.setTime s x).TorqueSafe := by
  exact h

theorem State.setRings_torqueSafe (s : State) (x : Vector RingSt 4) (h : s.TorqueSafe) :
    (State.setRings s x).TorqueSafe := by
  exact h

theorem State.setRgCtrl_torqueSafe (s : State) (x : Word) (h : s.TorqueSafe) :
    (State.setRgCtrl s x).TorqueSafe := by
  exact h

theorem State.setMotion_torqueSafe (s : State) (x : MotionSt) (h : s.TorqueSafe) :
    (State.setMotion s x).TorqueSafe := by
  exact h

theorem State.setLoops_torqueSafe (s : State) (x : LoopSt) (h : s.TorqueSafe) :
    (State.setLoops s x).TorqueSafe := by
  exact h

theorem State.setSolver_torqueSafe (s : State) (x : SolverSt) (h : s.TorqueSafe) :
    (State.setSolver s x).TorqueSafe := by
  exact h

theorem State.setTiles_torqueSafe (s : State) (x : TilesSt) (h : s.TorqueSafe) :
    (State.setTiles s x).TorqueSafe := by
  exact h

theorem State.setDisp_torqueSafe (s : State) (x : DispSt) (h : s.TorqueSafe) :
    (State.setDisp s x).TorqueSafe := by
  exact h

theorem State.setNibble_torqueSafe (s : State) (x : NibbleSt) (h : s.TorqueSafe) :
    (State.setNibble s x).TorqueSafe := by
  exact h

theorem State.setSep_torqueSafe (s : State) (x : SepSt) (h : s.TorqueSafe) :
    (State.setSep s x).TorqueSafe := by
  exact h

theorem State.setTwin_torqueSafe (s : State) (x : TwinSt) (h : s.TorqueSafe) :
    (State.setTwin s x).TorqueSafe := by
  exact h

theorem State.setCan_torqueSafe (s : State) (x : Vector CanSt 4) (h : s.TorqueSafe) :
    (State.setCan s x).TorqueSafe := by
  exact h

theorem State.setSys_torqueSafe (s : State) (x : SysSt) (h : s.TorqueSafe) :
    (State.setSys s x).TorqueSafe := by
  exact h

theorem State.setQueue_torqueSafe (s : State) (q : Fin 16) (x : QueueSt) (h : s.TorqueSafe) :
    (State.setQueue s q x).TorqueSafe := by
  exact h

theorem State.setChain_torqueSafe (s : State) (c : Fin 16) (x : ChainSt) (h : s.TorqueSafe) :
    (State.setChain s c x).TorqueSafe := by
  exact h

theorem State.setRing_torqueSafe (s : State) (r : Fin 4) (x : RingSt) (h : s.TorqueSafe) :
    (State.setRing s r x).TorqueSafe := by
  exact h

theorem State.setCanN_torqueSafe (s : State) (n : Fin 4) (x : CanSt) (h : s.TorqueSafe) :
    (State.setCanN s n x).TorqueSafe := by
  exact h

theorem State.setAxis_torqueSafe (s : State) (a : Fin 160) (x : AxisSt) (h : s.TorqueSafe) :
    (State.setAxis s a x).TorqueSafe := by
  exact h

theorem State.setTile_torqueSafe (s : State) (t : Fin 16) (x : TileSt) (h : s.TorqueSafe) :
    (State.setTile s t x).TorqueSafe := by
  exact h

theorem State.setKernel_torqueSafe (s : State) (k : Fin 64) (x : KernelSt) (h : s.TorqueSafe) :
    (State.setKernel s k x).TorqueSafe := by
  exact h

theorem State.setSolve_torqueSafe (s : State) (p : Fin 4) (x : SolveSt) (h : s.TorqueSafe) :
    (State.setSolve s p x).TorqueSafe := by
  exact h

theorem State.setProb_torqueSafe (s : State) (p : Fin 4) (x : ProbSt) (h : s.TorqueSafe) :
    (State.setProb s p x).TorqueSafe := by
  exact h

theorem State.setSub_torqueSafe (s : State) (k : Fin 16) (x : SubSt) (h : s.TorqueSafe) :
    (State.setSub s k x).TorqueSafe := by
  exact h

theorem State.setEngine_torqueSafe (s : State) (e : Fin 16) (x : EngineSt) (h : s.TorqueSafe) :
    (State.setEngine s e x).TorqueSafe := by
  exact h

theorem State.setSlot_torqueSafe (s : State) (e : Fin 16) (k : Fin 32) (x : LoopSlot) (h : s.TorqueSafe) :
    (State.setSlot s e k x).TorqueSafe := by
  exact h

theorem State.emit_torqueSafe (s : State) (o : Out) (h : s.TorqueSafe) :
    (State.emit s o).TorqueSafe := by
  exact h

theorem State.nextFree_torqueSafe (s : State) (h : s.TorqueSafe) :
    (State.nextFree s).TorqueSafe := by
  exact h

theorem State.notice_torqueSafe (s : State) (k : NoticeKind) (a b : Nat) (h : s.TorqueSafe) :
    (State.notice s k a b).TorqueSafe := by
  exact h

theorem State.logRec_torqueSafe (s : State) (kind a b c : Nat) (h : s.TorqueSafe) :
    (State.logRec s kind a b c).TorqueSafe := by
  exact h

theorem State.sendBenjo_torqueSafe (s : State) (type : Nat) (payload : List Byte) (h : s.TorqueSafe) :
    (State.sendBenjo s type payload).TorqueSafe := by
  exact h

theorem State.reply_torqueSafe (s : State) (p : Pkt) (v : Verdict) (payload : List Byte) (lost : Bool) (waiters : List (Nat × Nat × Word)) (h : s.TorqueSafe) :
    (State.reply s p v payload lost waiters).TorqueSafe := by
  unfold State.reply
  repeat' (first | with_reducible assumption | (with_reducible apply State.logRec_torqueSafe) | (with_reducible apply State.sendBenjo_torqueSafe) | (with_reducible apply State.setDisp_torqueSafe) | (with_reducible apply State.setQueue_torqueSafe) | (with_reducible refine torqueSafe_ite ?_ ?_) | rfl | split)

theorem State.dropTag_torqueSafe (s : State) (q : Fin 16) (tag : Nat) (h : s.TorqueSafe) :
    (State.dropTag s q tag).TorqueSafe := by
  exact h

theorem State.finishN_torqueSafe (fuel : Nat) (s : State) (p : Pkt) (v : Verdict) (payload : List Byte) (lost : Bool) (waiters : List (Nat × Nat × Word)) (h : s.TorqueSafe) :
    (State.finishN fuel s p v payload lost waiters).TorqueSafe := by
  induction fuel generalizing s p v payload lost waiters with
  | zero =>
    unfold State.finishN
    exact State.reply_torqueSafe _ _ _ _ _ _ (State.dropTag_torqueSafe _ _ _ h)
  | succ n ih =>
    unfold State.finishN
    try dsimp only
    repeat' (first | (with_reducible apply ih) | with_reducible assumption | (with_reducible apply State.dropTag_torqueSafe) | (with_reducible apply State.reply_torqueSafe) | (with_reducible apply State.setCell_torqueSafe) | (with_reducible apply State.setQueue_torqueSafe) | (with_reducible refine torqueSafe_ite ?_ ?_) | (with_reducible refine torqueSafe_foldl _ _ _ ?_ (fun s x hS => ?_)) | rfl | split)

theorem State.finish_torqueSafe (s : State) (p : Pkt) (v : Verdict) (payload : List Byte) (h : s.TorqueSafe) :
    (State.finish s p v payload).TorqueSafe := by
  unfold State.finish
  repeat' (first | with_reducible assumption | (with_reducible apply State.finishN_torqueSafe) | rfl | split)

theorem State.finishOk_torqueSafe (s : State) (p : Pkt) (w0 w1 : Word) (payload : List Byte) (h : s.TorqueSafe) :
    (State.finishOk s p w0 w1 payload).TorqueSafe := by
  unfold State.finishOk
  repeat' (first | with_reducible assumption | (with_reducible apply State.finish_torqueSafe) | rfl | split)

theorem State.interim_torqueSafe (s : State) (p : Pkt) (code : Nat) (h : s.TorqueSafe) :
    (State.interim s p code).TorqueSafe := by
  unfold State.interim
  repeat' (first | with_reducible assumption | (with_reducible apply State.setQueue_torqueSafe) | (with_reducible refine torqueSafe_ite ?_ ?_) | rfl | split)

theorem State.finishTag_torqueSafe (s : State) (q tag : Nat) (v : Verdict) (payload : List Byte) (h : s.TorqueSafe) :
    (State.finishTag s q tag v payload).TorqueSafe := by
  unfold State.finishTag
  repeat' (first | with_reducible assumption | (with_reducible apply State.finish_torqueSafe) | rfl | split)

theorem State.entryRun_torqueSafe (s : State) (f : DelayEntry → Bool) (h : s.TorqueSafe) :
    (State.entryRun s f).TorqueSafe := by
  exact h

theorem State.onExpiry_torqueSafe (s : State) (f : DelayEntry → Bool) (g : State → State) (h : s.TorqueSafe)
    (hg : ∀ t, t.TorqueSafe → (g t).TorqueSafe) : (s.onExpiry f g).TorqueSafe := by
  unfold State.onExpiry
  split
  · exact hg _ (State.entryRun_torqueSafe _ _ h)
  · exact h

theorem State.passOn_torqueSafe (s : State) (q : Fin 16) (p : Pkt) (t : State) (h : t.TorqueSafe) :
    (s.passOn q p t).TorqueSafe := by
  unfold State.passOn
  dsimp only
  split
  · split
    · exact State.setTime_torqueSafe _ _ h
    · exact h
  · split
    · exact State.sendBenjo_torqueSafe _ _ _ (State.setQueue_torqueSafe _ _ _ h)
    · exact h

theorem State.begun_torqueSafe (s : State) (q : Fin 16) (p : Pkt) (h : s.TorqueSafe) :
    (State.begun s q p).TorqueSafe := by
  unfold State.begun
  dsimp only
  repeat' (first | with_reducible assumption | (with_reducible apply State.setQueue_torqueSafe) | (with_reducible apply State.setTime_torqueSafe) | (with_reducible refine torqueSafe_ite ?_ ?_) | rfl | split)

theorem State.startPkt_torqueSafe (s : State) (q : Fin 16) (tag : Fin 1024) (op : Nat) (f : Pkt → State → State)
    (h : s.TorqueSafe) (hf : ∀ p t, t.TorqueSafe → (f p t).TorqueSafe) : (s.startPkt q tag op f).TorqueSafe := by
  unfold State.startPkt
  split
  · exact h
  · dsimp only
    split
    · exact State.finish_torqueSafe _ _ _ _ h
    · exact State.passOn_torqueSafe _ _ _ _ (hf _ _ (State.begun_torqueSafe _ _ _ h))

theorem State.latchUnit_torqueSafe (s : State) (b : Nat) (gone : Bool) (h : s.TorqueSafe) :
    (State.latchUnit s b gone).TorqueSafe := by
  unfold State.latchUnit
  repeat' (first | with_reducible assumption | (with_reducible apply State.setSys_torqueSafe) | (with_reducible refine torqueSafe_ite ?_ ?_) | rfl | split)

/-! ### Operations of Operands -/

theorem State.sendMgmt_torqueSafe (s : State) (ring : Fin 4) (code hop : Nat) (h : s.TorqueSafe) :
    (State.sendMgmt s ring code hop).TorqueSafe := by
  exact h

theorem State.dropPart_torqueSafe (s : State) (st : Stream) (h : s.TorqueSafe) :
    (State.dropPart s st).TorqueSafe := by
  exact h

theorem State.fragment_torqueSafe (s : State) (st : Stream) (p : Pkt) (busyLast : Bool) (whole : List Byte → State → State)
    (h : s.TorqueSafe) (hw : ∀ bs t, t.TorqueSafe → (whole bs t).TorqueSafe) : (s.fragment st p busyLast whole).TorqueSafe := by
  unfold State.fragment
  try dsimp only
  repeat' (first | (with_reducible apply hw) | with_reducible assumption | (with_reducible apply State.dropPart_torqueSafe) | (with_reducible apply State.finish_torqueSafe) | (with_reducible apply State.finishOk_torqueSafe) | (with_reducible apply State.setCell_torqueSafe) | rfl | split)

/-! ### Operations of Arbiter -/

theorem State.setArb_torqueSafe (s : State) (i : Nat) (a : ArbSt) (h : s.TorqueSafe) :
    (State.setArb s i a).TorqueSafe := by
  exact h

theorem State.askUnit_torqueSafe (s : State) (i r : Nat) (h : s.TorqueSafe) :
    (State.askUnit s i r).TorqueSafe := by
  unfold State.askUnit
  dsimp only
  repeat' (first | with_reducible assumption | (with_reducible apply State.setArb_torqueSafe) | (with_reducible refine torqueSafe_ite ?_ ?_) | rfl | split)

theorem State.leaveUnit_torqueSafe (s : State) (i r : Nat) (h : s.TorqueSafe) :
    (State.leaveUnit s i r).TorqueSafe := by
  exact h

theorem State.arbitrate_torqueSafe (s : State) (i : Nat) (h : s.TorqueSafe) :
    (State.arbitrate s i).TorqueSafe := by
  unfold State.arbitrate
  dsimp only
  repeat' (first | with_reducible assumption | (with_reducible apply State.askUnit_torqueSafe) | (with_reducible apply State.leaveUnit_torqueSafe) | (with_reducible apply State.setArb_torqueSafe) | (with_reducible refine torqueSafe_ite ?_ ?_) | (with_reducible refine torqueSafe_foldl _ _ _ ?_ (fun s x hS => ?_)) | rfl | split)

/-! ### Operations of Pair -/

theorem State.sendHello_torqueSafe (s : State) (digest : Word) (act : Bool) (h : s.TorqueSafe) :
    (State.sendHello s digest act).TorqueSafe := by
  exact h

theorem State.sendIdle_torqueSafe (s : State) (h : s.TorqueSafe) :
    (State.sendIdle s).TorqueSafe := by
  unfold State.sendIdle
  repeat' (first | with_reducible assumption | (with_reducible apply State.sendBenjo_torqueSafe) | (with_reducible refine torqueSafe_ite ?_ ?_) | rfl | split)

theorem State.sendTime_torqueSafe (s : State) (h : s.TorqueSafe) :
    (State.sendTime s).TorqueSafe := by
  unfold State.sendTime
  repeat' (first | with_reducible assumption | (with_reducible apply State.sendBenjo_torqueSafe) | (with_reducible refine torqueSafe_ite ?_ ?_) | rfl | split)

theorem State.sendOnce_torqueSafe (s : State) (type : Nat) (payload : List Byte) (h : s.TorqueSafe) :
    (State.sendOnce s type payload).TorqueSafe := by
  exact h

theorem State.sendState_torqueSafe (s : State) (h : s.TorqueSafe) :
    (State.sendState s).TorqueSafe := by
  unfold State.sendState
  repeat' (first | with_reducible assumption | (with_reducible apply State.nextFree_torqueSafe) | (with_reducible apply State.sendOnce_torqueSafe) | (with_reducible refine torqueSafe_ite ?_ ?_) | rfl | split)

theorem State.withdrawSwap_torqueSafe (s : State) (h : s.TorqueSafe) :
    (State.withdrawSwap s).TorqueSafe := by
  unfold State.withdrawSwap
  dsimp only
  repeat' (first | with_reducible assumption | (with_reducible apply State.sendBenjo_torqueSafe) | (with_reducible apply State.setTwin_torqueSafe) | (with_reducible refine torqueSafe_ite ?_ ?_) | rfl | split)

theorem State.confirmAll_torqueSafe (s : State) (h : s.TorqueSafe) :
    (State.confirmAll s).TorqueSafe := by
  unfold State.confirmAll
  dsimp only
  repeat' (first | with_reducible assumption | (with_reducible apply State.setQueue_torqueSafe) | (with_reducible refine torqueSafe_foldOn _ _ _ ?_ (fun s x hS => ?_)) | rfl | split)

theorem State.takeHeads_torqueSafe (s : State) (h : s.TorqueSafe) :
    (State.takeHeads s).TorqueSafe := by
  exact h

theorem State.syncOutLow_torqueSafe (s : State) (h : s.TorqueSafe) :
    (State.syncOutLow s).TorqueSafe := by
  unfold State.syncOutLow
  dsimp only
  repeat' (first | with_reducible assumption | (with_reducible apply State.setTime_torqueSafe) | (with_reducible refine torqueSafe_ite ?_ ?_) | rfl | split)

theorem State.passSync_torqueSafe (s : State) (drove : Bool) (h : s.TorqueSafe) :
    (State.passSync s drove).TorqueSafe := by
  unfold State.passSync
  dsimp only
  repeat' (first | with_reducible assumption | (with_reducible apply State.setTime_torqueSafe) | (with_reducible refine torqueSafe_ite ?_ ?_) | rfl | split)

theorem State.pairTo_torqueSafe (s : State) (st : PairState) (active : Bool) (h : s.TorqueSafe) :
    (State.pairTo s st active).TorqueSafe := by
  have off : ∀ (t : State) (v : Vector RingSt 4),
      ((t.setSafety { t.safety with en1 := 0, en2 := 0 }).setRings v).TorqueSafe := by
    intro t v c hc
    simp at hc
  have out : ∀ (b : Prop) [Decidable b] (t : State) (v : Vector RingSt 4), t.TorqueSafe →
      (if b then (t.setSafety { t.safety with en1 := 0, en2 := 0 }).setRings v else t).TorqueSafe :=
    fun b _ t v ht => torqueSafe_ite (off t v) ht
  have heads : ∀ (b : Prop) [Decidable b] (t : State), t.TorqueSafe → (if b then t.takeHeads else t).TorqueSafe :=
    fun b _ t ht => torqueSafe_ite (State.takeHeads_torqueSafe _ ht) ht
  have hello : ∀ (b : Prop) [Decidable b] (t : State) (k : NoticeKind) (x y : Nat) (z : Word), t.TorqueSafe →
      (if b then t else (t.notice k x y).sendHello z).TorqueSafe :=
    fun b _ t k x y z ht => torqueSafe_ite ht (State.sendHello_torqueSafe _ _ _ (State.notice_torqueSafe _ _ _ _ ht))
  unfold State.pairTo
  refine hello _ _ _ _ _ _ (State.passSync_torqueSafe _ _ (heads _ _ (out _ _ _ (State.setTwin_torqueSafe _ _ ?_))))
  exact torqueSafe_ite (State.confirmAll_torqueSafe _ (State.withdrawSwap_torqueSafe _ h)) h

theorem State.diverge_torqueSafe (s : State) (h : s.TorqueSafe) :
    (State.diverge s).TorqueSafe := by
  unfold State.diverge
  dsimp only
  repeat' (first | with_reducible assumption | (with_reducible apply State.pairTo_torqueSafe) | (with_reducible apply State.setTwin_torqueSafe) | (with_reducible refine torqueSafe_ite ?_ ?_) | rfl | split)

theorem State.sendDigest_torqueSafe (s : State) (key : Nat) (h : s.TorqueSafe) :
    (State.sendDigest s key).TorqueSafe := by
  unfold State.sendDigest
  dsimp only
  repeat' (first | with_reducible assumption | (with_reducible apply State.diverge_torqueSafe) | (with_reducible apply State.sendBenjo_torqueSafe) | (with_reducible apply State.setTwin_torqueSafe) | (with_reducible refine torqueSafe_ite ?_ ?_) | rfl | split)

/-! ### Operations of Host -/

theorem State.intake_torqueSafe (s : State) (q : Fin 16) (hdr payload : List Byte) (crcOk : Bool) (origin : Origin) (h : s.TorqueSafe) :
    (State.intake s q hdr payload crcOk origin).TorqueSafe := by
  unfold State.intake
  dsimp only
  repeat' (first | with_reducible assumption | (with_reducible apply State.reply_torqueSafe) | (with_reducible apply State.setQueue_torqueSafe) | (with_reducible refine torqueSafe_ite ?_ ?_) | rfl | split)

theorem State.haltQueue_torqueSafe (s : State) (q : Fin 16) (err : Nat) (h : s.TorqueSafe) :
    (State.haltQueue s q err).TorqueSafe := by
  exact h

theorem State.fetchN_torqueSafe (n : Nat) (s : State) (q : Fin 16) (h : s.TorqueSafe) : (State.fetchN n s q).TorqueSafe := by
  induction n generalizing s with
  | zero => exact h
  | succ n ih =>
    unfold State.fetchN
    try dsimp only
    repeat' (first | (with_reducible apply ih) | (with_reducible apply State.intake_torqueSafe) | (with_reducible apply State.haltQueue_torqueSafe) | (with_reducible apply State.setQueue_torqueSafe) | with_reducible assumption | rfl | split)

theorem State.fetch_torqueSafe (s : State) (q : Fin 16) (h : s.TorqueSafe) : (State.fetch s q).TorqueSafe := by
  exact State.fetchN_torqueSafe _ _ _ h

theorem State.raiseMsix_torqueSafe (s : State) (q : Fin 16) (h : s.TorqueSafe) :
    (State.raiseMsix s q).TorqueSafe := by
  unfold State.raiseMsix
  dsimp only
  repeat' (first | with_reducible assumption | (with_reducible apply State.emit_torqueSafe) | (with_reducible apply State.setQueue_torqueSafe) | (with_reducible refine torqueSafe_ite ?_ ?_) | rfl | split)

theorem State.putOut_torqueSafe (s : State) (q : Fin 16) (r : Reply) (h : s.TorqueSafe) :
    (State.putOut s q r).TorqueSafe := by
  unfold State.putOut
  dsimp only
  repeat' (first | with_reducible assumption | (with_reducible apply State.emit_torqueSafe) | (with_reducible apply State.raiseMsix_torqueSafe) | (with_reducible apply State.reply_torqueSafe) | (with_reducible apply State.setQueue_torqueSafe) | (with_reducible refine torqueSafe_ite ?_ ?_) | (with_reducible refine torqueSafe_foldl _ _ _ ?_ (fun s x hS => ?_)) | rfl | split)

theorem State.writeReply_torqueSafe (s : State) (q : Fin 16) (h : s.TorqueSafe) :
    (State.writeReply s q).TorqueSafe := by
  unfold State.writeReply
  dsimp only
  repeat' (first | with_reducible assumption | (with_reducible apply State.fetch_torqueSafe) | (with_reducible apply State.finishTag_torqueSafe) | (with_reducible apply State.putOut_torqueSafe) | (with_reducible apply State.setQueue_torqueSafe) | (with_reducible refine torqueSafe_ite ?_ ?_) | (with_reducible refine torqueSafe_foldl _ _ _ ?_ (fun s x hS => ?_)) | rfl | split)

theorem State.countErr_torqueSafe (s : State) (hi lo : Nat) (h : s.TorqueSafe) :
    (State.countErr s hi lo).TorqueSafe := by
  exact h

theorem State.udpPacket_torqueSafe (s : State) (q : Fin 16) (port : Fin 2) (src : Endpoint) (bs : List Byte) (h : s.TorqueSafe) :
    (State.udpPacket s q port src bs).TorqueSafe := by
  unfold State.udpPacket
  dsimp only
  repeat' (first | with_reducible assumption | (with_reducible apply State.countErr_torqueSafe) | (with_reducible apply State.intake_torqueSafe) | (with_reducible apply State.reply_torqueSafe) | (with_reducible apply State.setQueue_torqueSafe) | (with_reducible refine torqueSafe_ite ?_ ?_) | rfl | split)

theorem State.dropJob_torqueSafe (s : State) (h : s.TorqueSafe) :
    (State.dropJob s).TorqueSafe := by
  exact h

theorem State.dropImage_torqueSafe (s : State) (o : Pkt) (h : s.TorqueSafe) :
    (State.dropImage s o).TorqueSafe := by
  unfold State.dropImage
  repeat' (first | with_reducible assumption | (with_reducible apply State.dropJob_torqueSafe) | (with_reducible apply State.sendBenjo_torqueSafe) | (with_reducible refine torqueSafe_ite ?_ ?_) | rfl | split)

theorem State.showPanel_torqueSafe (s : State) (bs : List Byte) (at_ : Option Nat) (h : s.TorqueSafe) :
    (State.showPanel s bs at_).TorqueSafe := by
  unfold State.showPanel
  dsimp only
  repeat' (first | with_reducible assumption | (with_reducible apply State.emit_torqueSafe) | (with_reducible apply State.setHost_torqueSafe) | (with_reducible refine torqueSafe_ite ?_ ?_) | rfl | split)

theorem State.toPending_torqueSafe (s : State) (p : Pkt) (h : s.TorqueSafe) :
    (State.toPending s p).TorqueSafe := by
  unfold State.toPending
  dsimp only
  repeat' (first | with_reducible assumption | (with_reducible apply State.finish_torqueSafe) | (with_reducible apply State.interim_torqueSafe) | (with_reducible apply State.nextFree_torqueSafe) | (with_reducible apply State.setHost_torqueSafe) | (with_reducible apply State.setQueue_torqueSafe) | (with_reducible apply State.showPanel_torqueSafe) | (with_reducible apply State.withdrawSwap_torqueSafe) | (with_reducible refine torqueSafe_ite ?_ ?_) | rfl | split)

theorem State.closePresence_torqueSafe (s : State) (last : Byte) (h : s.TorqueSafe) :
    (State.closePresence s last).TorqueSafe := by
  unfold State.closePresence
  dsimp only
  repeat' (first | with_reducible assumption | (with_reducible apply State.dropJob_torqueSafe) | (with_reducible apply State.sendBenjo_torqueSafe) | (with_reducible apply State.setHost_torqueSafe) | (with_reducible apply State.showPanel_torqueSafe) | (with_reducible refine torqueSafe_ite ?_ ?_) | rfl | split)

theorem State.denyGate_torqueSafe (s : State) (last : Byte) (status : Nat) (reason : Word) (h : s.TorqueSafe) :
    (State.denyGate s last status reason).TorqueSafe := by
  unfold State.denyGate
  repeat' (first | with_reducible assumption | (with_reducible apply State.closePresence_torqueSafe) | (with_reducible apply State.finish_torqueSafe) | rfl | split)

theorem State.expireGate_torqueSafe (s : State) (h : s.TorqueSafe) :
    (State.expireGate s).TorqueSafe := by
  unfold State.expireGate
  repeat' (first | with_reducible assumption | (with_reducible apply State.denyGate_torqueSafe) | (with_reducible refine torqueSafe_ite ?_ ?_) | rfl | split)

theorem State.canForget_torqueSafe (s : State) (q tag : Nat) (h : s.TorqueSafe) :
    (State.canForget s q tag).TorqueSafe := by
  exact h

theorem State.startReset_torqueSafe (s : State) (q : Fin 16) (by_ : List (Nat × Nat)) (h : s.TorqueSafe) :
    (State.startReset s q by_).TorqueSafe := by
  unfold State.startReset
  dsimp only
  repeat' (first | with_reducible assumption | (with_reducible apply State.canForget_torqueSafe) | (with_reducible apply State.closePresence_torqueSafe) | (with_reducible apply State.dropImage_torqueSafe) | (with_reducible apply State.expireGate_torqueSafe) | (with_reducible apply State.finishTag_torqueSafe) | (with_reducible apply State.setCell_torqueSafe) | (with_reducible apply State.setQueue_torqueSafe) | (with_reducible refine torqueSafe_ite ?_ ?_) | (with_reducible refine torqueSafe_foldl _ _ _ ?_ (fun s x hS => ?_)) | rfl | split)

theorem State.abortTarget_torqueSafe (s : State) (o p : Pkt) (h : s.TorqueSafe) :
    (State.abortTarget s o p).TorqueSafe := by
  unfold State.abortTarget
  dsimp only
  repeat' (first | with_reducible assumption | (with_reducible apply State.closePresence_torqueSafe) | (with_reducible apply State.dropImage_torqueSafe) | (with_reducible apply State.dropPart_torqueSafe) | (with_reducible apply State.finishN_torqueSafe) | (with_reducible refine torqueSafe_ite ?_ ?_) | rfl | split)

/-! ### Operations of Time -/

theorem State.tick_torqueSafe (s : State) (h : s.TorqueSafe) :
    (State.tick s).TorqueSafe := by
  unfold State.tick
  dsimp only
  repeat' (first | with_reducible assumption | (with_reducible apply State.setNow_torqueSafe) | (with_reducible apply State.setTime_torqueSafe) | (with_reducible refine torqueSafe_ite ?_ ?_) | rfl | split)

theorem State.tbEnter_torqueSafe (s : State) (st : TbState) (h : s.TorqueSafe) :
    (State.tbEnter s st).TorqueSafe := by
  unfold State.tbEnter
  dsimp only
  repeat' (first | with_reducible assumption | (with_reducible apply State.notice_torqueSafe) | (with_reducible apply State.setTime_torqueSafe) | (with_reducible refine torqueSafe_ite ?_ ?_) | rfl | split)

theorem State.holdOver_torqueSafe (s : State) (h : s.TorqueSafe) :
    (State.holdOver s).TorqueSafe := by
  unfold State.holdOver
  dsimp only
  repeat' (first | with_reducible assumption | (with_reducible apply State.nextFree_torqueSafe) | (with_reducible apply State.setTime_torqueSafe) | (with_reducible apply State.tbEnter_torqueSafe) | (with_reducible refine torqueSafe_ite ?_ ?_) | rfl | split)

theorem State.tbLost_torqueSafe (s : State) (h : s.TorqueSafe) :
    (State.tbLost s).TorqueSafe := by
  unfold State.tbLost
  repeat' (first | with_reducible assumption | (with_reducible apply State.holdOver_torqueSafe) | (with_reducible apply State.tbEnter_torqueSafe) | (with_reducible refine torqueSafe_ite ?_ ?_) | rfl | split)

theorem State.correctPhase_torqueSafe (s : State) (d : Int) (h : s.TorqueSafe) :
    (State.correctPhase s d).TorqueSafe := by
  unfold State.correctPhase
  dsimp only
  repeat' (first | with_reducible assumption | (with_reducible apply State.setTime_torqueSafe) | (with_reducible refine torqueSafe_ite ?_ ?_) | rfl | split)

theorem State.measure_torqueSafe (s : State) (d : Int) (h : s.TorqueSafe) :
    (State.measure s d).TorqueSafe := by
  unfold State.measure
  dsimp only
  repeat' (first | with_reducible assumption | (with_reducible apply State.correctPhase_torqueSafe) | (with_reducible apply State.nextFree_torqueSafe) | (with_reducible apply State.setTime_torqueSafe) | (with_reducible apply State.tbEnter_torqueSafe) | (with_reducible refine torqueSafe_ite ?_ ?_) | rfl | split)

theorem State.setPtpSlot_torqueSafe (s : State) (n : Fin 2) (v : SlotServo) (h : s.TorqueSafe) :
    (State.setPtpSlot s n v).TorqueSafe := by
  exact h

theorem State.syncDone_torqueSafe (s : State) (n p : Fin 2) (t1 t2 : Int) (h : s.TorqueSafe) :
    (State.syncDone s n p t1 t2).TorqueSafe := by
  unfold State.syncDone
  dsimp only
  repeat' (first | with_reducible assumption | (with_reducible apply State.measure_torqueSafe) | (with_reducible apply State.setPtpSlot_torqueSafe) | (with_reducible apply State.tbEnter_torqueSafe) | (with_reducible refine torqueSafe_ite ?_ ?_) | rfl | split)

theorem State.ptpOut_torqueSafe (s : State) (n p : Fin 2) (m : PtpOut) (h : s.TorqueSafe) :
    (State.ptpOut s n p m).TorqueSafe := by
  exact h

theorem State.takeAnnounce_torqueSafe (s : State) (n p : Fin 2) (source : BitVec 80) (ds : PtpDataset) (utc : Int) (valid : Bool) (h : s.TorqueSafe) :
    (State.takeAnnounce s n p source ds utc valid).TorqueSafe := by
  unfold State.takeAnnounce
  dsimp only
  repeat' (first | with_reducible assumption | (with_reducible apply State.setPtpSlot_torqueSafe) | (with_reducible apply State.setTime_torqueSafe) | (with_reducible refine torqueSafe_ite ?_ ?_) | rfl | split)

theorem State.ptpSend_torqueSafe (s : State) (n p : Fin 2) (h : s.TorqueSafe) :
    (State.ptpSend s n p).TorqueSafe := by
  unfold State.ptpSend
  dsimp only
  repeat' (first | with_reducible assumption | (with_reducible apply State.ptpOut_torqueSafe) | (with_reducible apply State.setPtpSlot_torqueSafe) | (with_reducible refine torqueSafe_ite ?_ ?_) | rfl | split)

theorem State.ptpSends_torqueSafe (s : State) (h : s.TorqueSafe) :
    (State.ptpSends s).TorqueSafe := by
  unfold State.ptpSends
  repeat' (first | with_reducible assumption | (with_reducible apply State.ptpSend_torqueSafe) | (with_reducible refine torqueSafe_ite ?_ ?_) | rfl | split)

theorem State.setSource_torqueSafe (s : State) (src : Nat) (h : s.TorqueSafe) :
    (State.setSource s src).TorqueSafe := by
  unfold State.setSource
  dsimp only
  repeat' (first | with_reducible assumption | (with_reducible apply State.setTime_torqueSafe) | (with_reducible apply State.tbEnter_torqueSafe) | (with_reducible refine torqueSafe_ite ?_ ?_) | rfl | split)

theorem State.setDomain_torqueSafe (s : State) (n : Fin 2) (v : Word) (h : s.TorqueSafe) :
    (State.setDomain s n v).TorqueSafe := by
  unfold State.setDomain
  dsimp only
  repeat' (first | with_reducible assumption | (with_reducible apply State.holdOver_torqueSafe) | (with_reducible apply State.setTime_torqueSafe) | (with_reducible refine torqueSafe_ite ?_ ?_) | rfl | split)

theorem State.useSlot_torqueSafe (s : State) (n : Fin 2) (h : s.TorqueSafe) :
    (State.useSlot s n).TorqueSafe := by
  unfold State.useSlot
  dsimp only
  repeat' (first | with_reducible assumption | (with_reducible apply State.correctPhase_torqueSafe) | (with_reducible apply State.notice_torqueSafe) | (with_reducible apply State.setTime_torqueSafe) | (with_reducible apply State.tbLost_torqueSafe) | (with_reducible refine torqueSafe_ite ?_ ?_) | rfl | split)

theorem State.setSelect_torqueSafe (s : State) (v : Nat) (h : s.TorqueSafe) :
    (State.setSelect s v).TorqueSafe := by
  unfold State.setSelect
  dsimp only
  repeat' (first | with_reducible assumption | (with_reducible apply State.setTime_torqueSafe) | (with_reducible apply State.useSlot_torqueSafe) | (with_reducible refine torqueSafe_ite ?_ ?_) | rfl | split)

/-! ### Operations of Motion -/

theorem State.protect_torqueSafe (s : State) (c : Fin 16) (code : ChFault) (h : s.TorqueSafe) :
    (State.protect s c code).TorqueSafe := by
  unfold State.protect
  dsimp only
  repeat' (first | with_reducible assumption | (with_reducible apply State.nextFree_torqueSafe) | (with_reducible apply State.notice_torqueSafe) | (with_reducible apply State.setChain_torqueSafe) | (with_reducible refine torqueSafe_ite ?_ ?_) | rfl | split)

theorem State.segFault_torqueSafe (s : State) (c : Fin 16) (f : ChFault) (h : s.TorqueSafe) :
    (State.segFault s c f).TorqueSafe := by
  exact h

theorem State.barrierOut_torqueSafe (s : State) (c : Fin 16) (h : s.TorqueSafe) :
    (State.barrierOut s c).TorqueSafe := by
  exact h

theorem State.cancelBarriers_torqueSafe (s : State) (c : Nat) (flushed : List (List Byte)) (h : s.TorqueSafe) :
    (State.cancelBarriers s c flushed).TorqueSafe := by
  unfold State.cancelBarriers
  dsimp only
  repeat' (first | with_reducible assumption | (with_reducible apply State.barrierOut_torqueSafe) | (with_reducible refine torqueSafe_ite ?_ ?_) | (with_reducible refine torqueSafe_foldOn _ _ _ ?_ (fun s x hS => ?_)) | rfl | split)

theorem State.flush_torqueSafe (s : State) (c : Fin 16) (h : s.TorqueSafe) :
    (State.flush s c).TorqueSafe := by
  unfold State.flush
  dsimp only
  repeat' (first | with_reducible assumption | (with_reducible apply State.cancelBarriers_torqueSafe) | (with_reducible apply State.setChain_torqueSafe) | rfl | split)

theorem State.shedChain_torqueSafe (s : State) (c : Fin 16) (h : s.TorqueSafe) :
    (State.shedChain s c).TorqueSafe := by
  unfold State.shedChain
  dsimp only
  repeat' (first | with_reducible assumption | (with_reducible apply State.setChain_torqueSafe) | rfl | split)

theorem State.applyStop_torqueSafe (s : State) (c : Fin 16) (kind : Nat) (h : s.TorqueSafe) :
    (State.applyStop s c kind).TorqueSafe := by
  unfold State.applyStop
  dsimp only
  repeat' (first | with_reducible assumption | (with_reducible apply State.flush_torqueSafe) | (with_reducible apply State.nextFree_torqueSafe) | (with_reducible apply State.protect_torqueSafe) | (with_reducible apply State.setChain_torqueSafe) | (with_reducible refine torqueSafe_ite ?_ ?_) | rfl | split)

theorem State.applyResume_torqueSafe (s : State) (c : Fin 16) (h : s.TorqueSafe) :
    (State.applyResume s c).TorqueSafe := by
  unfold State.applyResume
  dsimp only
  repeat' (first | with_reducible assumption | (with_reducible apply State.setChain_torqueSafe) | (with_reducible refine torqueSafe_ite ?_ ?_) | rfl | split)

theorem State.addMotionCmd_torqueSafe (s : State) (m : MotionCmd) (h : s.TorqueSafe) :
    (State.addMotionCmd s m).TorqueSafe := by
  exact h

/-! ### Operations of Safety -/

theorem State.setTestTorque_torqueSafe (s : State) (c : Fin 16) (num : Int) (h : s.TorqueSafe) :
    (State.setTestTorque s c num).TorqueSafe := by
  unfold State.setTestTorque
  dsimp only
  repeat' (first | with_reducible assumption | (with_reducible apply State.setAxis_torqueSafe) | (with_reducible refine torqueSafe_ite ?_ ?_) | (with_reducible refine torqueSafe_foldOn _ _ _ ?_ (fun s x hS => ?_)) | rfl | split)

theorem State.restartAxes_torqueSafe (s : State) (axes : List Nat) (h : s.TorqueSafe) :
    (State.restartAxes s axes).TorqueSafe := by
  unfold State.restartAxes
  dsimp only
  repeat' (first | with_reducible assumption | (with_reducible apply State.setLoops_torqueSafe) | (with_reducible refine torqueSafe_ite ?_ ?_) | (with_reducible refine torqueSafe_foldOn _ _ _ ?_ (fun s x hS => ?_)) | rfl | split)

theorem State.restartLoops_torqueSafe (s : State) (c : Fin 16) (h : s.TorqueSafe) :
    (State.restartLoops s c).TorqueSafe := by
  unfold State.restartLoops
  repeat' (first | with_reducible assumption | (with_reducible apply State.restartAxes_torqueSafe) | rfl | split)

theorem State.abortTest_safeBut (s : State) (c : Fin 16) (h : s.TorqueSafe) : (s.abortTest c).SafeBut c := by
  unfold State.abortTest
  dsimp only
  split
  · exact h.but c
  · have key : ∀ t : State, t.SafeBut c → (t.notice .brakeTest c.val 3).SafeBut c := fun _ h => h
    exact key _ (State.setIndex_safeBut _ _ _ ((State.restartLoops_torqueSafe _ _ (State.setTestTorque_torqueSafe _ _ _ h)).but c))

theorem State.toSto_torqueSafe (s : State) (c : Fin 16) (cause : Nat) (fast : Bool) (h : s.TorqueSafe) :
    (State.toSto s c cause fast).TorqueSafe := by
  unfold State.toSto
  have h1 := State.abortTest_safeBut s c h
  exact State.setIndex_drive_torqueSafe _ _ _ (safeBut_ite (State.protect_safeBut _ _ _ _ h1) h1)

theorem State.toSs1_torqueSafe (s : State) (c : Fin 16) (cause : Nat) (h : s.TorqueSafe) :
    (State.toSs1 s c cause).TorqueSafe := by
  unfold State.toSs1
  exact State.setIndex_drive_torqueSafe _ _ _ (State.addMotionCmd_safeBut _ _ _
    (State.protect_safeBut _ _ _ _ (State.abortTest_safeBut s c h)))

theorem State.stopIndex_torqueSafe (s : State) (c : Fin 16) (cat cause : Nat) (fast : Bool) (h : s.TorqueSafe) :
    (State.stopIndex s c cat cause fast).TorqueSafe := by
  unfold State.stopIndex
  dsimp only
  repeat' (first | with_reducible assumption | (with_reducible apply State.setIndex_torqueSafe) | (with_reducible apply State.toSs1_torqueSafe) | (with_reducible apply State.toSto_torqueSafe) | (with_reducible refine torqueSafe_ite ?_ ?_) | rfl | split)

theorem State.motionStop34_torqueSafe (s : State) (c : Fin 16) (h : s.TorqueSafe) :
    (State.motionStop34 s c).TorqueSafe := by
  unfold State.motionStop34
  repeat' (first | with_reducible assumption | (with_reducible apply State.stopIndex_torqueSafe) | rfl | split)

theorem State.enterBath_torqueSafe (s : State) (cause : Nat) (h : s.TorqueSafe) :
    (State.enterBath s cause).TorqueSafe := by
  unfold State.enterBath
  dsimp only
  repeat' (first | with_reducible assumption | (with_reducible apply State.setSafety_torqueSafe) | (with_reducible apply State.stopIndex_torqueSafe) | (with_reducible refine torqueSafe_foldOn _ _ _ ?_ (fun s x hS => ?_)) | rfl | split)

theorem State.applyFuncs_torqueSafe (s : State) (c : Fin 16) (old : BitVec 32) (h : s.TorqueSafe) :
    (State.applyFuncs s c old).TorqueSafe := by
  unfold State.applyFuncs
  dsimp only
  repeat' (first | with_reducible assumption | (with_reducible apply State.setIndex_torqueSafe) | (with_reducible apply State.stopIndex_torqueSafe) | (with_reducible refine torqueSafe_ite ?_ ?_) | (with_reducible refine torqueSafe_foldl _ _ _ ?_ (fun s x hS => ?_)) | rfl | split)

theorem State.releaseNodes_torqueSafe (s : State) (c : Fin 16) (h : s.TorqueSafe) :
    (State.releaseNodes s c).TorqueSafe := by
  unfold State.releaseNodes
  dsimp only
  repeat' (first | with_reducible assumption | (with_reducible apply State.sendMgmt_torqueSafe) | (with_reducible refine torqueSafe_ite ?_ ?_) | (with_reducible refine torqueSafe_foldl _ _ _ ?_ (fun s x hS => ?_)) | rfl | split)

theorem State.clearAxisFaults_torqueSafe (s : State) (axes : List Nat) (h : s.TorqueSafe) :
    (State.clearAxisFaults s axes).TorqueSafe := by
  unfold State.clearAxisFaults
  dsimp only
  repeat' (first | with_reducible assumption | (with_reducible apply State.restartAxes_torqueSafe) | (with_reducible apply State.setAxis_torqueSafe) | (with_reducible refine torqueSafe_ite ?_ ?_) | (with_reducible refine torqueSafe_foldl _ _ _ ?_ (fun s x hS => ?_)) | rfl | split)

theorem State.toRun_torqueSafe (s : State) (c : Fin 16) (h : s.TorqueSafe) :
    (State.toRun s c).TorqueSafe := by
  unfold State.toRun
  exact State.setChain_torqueSafe _ _ _ (State.setIndex_drive_torqueSafe _ _ _ (h.but c))

theorem State.refuseReset_torqueSafe (s : State) (reason : Nat) (h : s.TorqueSafe) :
    (State.refuseReset s reason).TorqueSafe := by
  exact h

theorem State.evalFuncs_torqueSafe (s : State) (h : s.TorqueSafe) :
    (State.evalFuncs s).TorqueSafe := by
  unfold State.evalFuncs
  dsimp only
  repeat' (first | with_reducible assumption | (with_reducible apply State.applyFuncs_torqueSafe) | (with_reducible apply State.refuseReset_torqueSafe) | (with_reducible apply State.setSafety_torqueSafe) | (with_reducible apply State.toRun_torqueSafe) | (with_reducible refine torqueSafe_ite ?_ ?_) | (with_reducible refine torqueSafe_foldOn _ _ _ ?_ (fun s x hS => ?_)) | rfl | split)

theorem State.clearPairs_torqueSafe (s : State) (h : s.TorqueSafe) :
    (State.clearPairs s).TorqueSafe := by
  exact h

theorem State.judgeReset_torqueSafe (s : State) (chains : List Nat) (srst : Bool) (h : s.TorqueSafe) :
    (State.judgeReset s chains srst).TorqueSafe := by
  unfold State.judgeReset
  dsimp only
  repeat' (first | with_reducible assumption | (with_reducible apply State.clearAxisFaults_torqueSafe) | (with_reducible apply State.clearPairs_torqueSafe) | (with_reducible apply State.refuseReset_torqueSafe) | (with_reducible apply State.releaseNodes_torqueSafe) | (with_reducible apply State.setChain_torqueSafe) | (with_reducible apply State.setSafety_torqueSafe) | (with_reducible apply State.setSys_torqueSafe) | (with_reducible apply State.toRun_torqueSafe) | (with_reducible refine torqueSafe_ite ?_ ?_) | (with_reducible refine torqueSafe_foldOn _ _ _ ?_ (fun s x hS => ?_)) | rfl | split)

theorem SafetySt.pressTaken_keeps (f : SafetySt) :
    f.pressTaken.index = f.index ∧ f.pressTaken.en1 = f.en1 ∧ f.pressTaken.en2 = f.en2 := by
  unfold SafetySt.pressTaken
  split <;> exact ⟨rfl, rfl, rfl⟩

theorem State.judgeResets_torqueSafe (s : State) (h : s.TorqueSafe) : (State.judgeResets s).TorqueSafe := by
  have k := s.safety.pressTaken_keeps
  have h1 : (s.setSafety { s.safety.pressTaken with funcCand := [] }).TorqueSafe :=
    s.setSafety_torqueSafe _ h k.1 k.2.1 k.2.2
  unfold State.judgeResets
  dsimp only
  refine torqueSafe_foldl _ _ _ ?_ (fun s x hS => State.judgeReset_torqueSafe _ _ _ hS)
  split
  · exact State.judgeReset_torqueSafe _ _ _ h1
  · exact State.refuseReset_torqueSafe _ _ h1
  · exact h1

theorem State.ss1Cycle_torqueSafe (s : State) (c : Fin 16) (h : s.TorqueSafe) :
    (State.ss1Cycle s c).TorqueSafe := by
  unfold State.ss1Cycle
  dsimp only
  repeat' (first | with_reducible assumption | (with_reducible apply State.setIndex_torqueSafe) | (with_reducible apply State.toSto_torqueSafe) | (with_reducible refine torqueSafe_ite ?_ ?_) | rfl | split)

theorem State.slsCycle_torqueSafe (s : State) (c : Fin 16) (h : s.TorqueSafe) :
    (State.slsCycle s c).TorqueSafe := by
  unfold State.slsCycle
  dsimp only
  repeat' (first | with_reducible assumption | (with_reducible apply State.setIndex_torqueSafe) | (with_reducible apply State.stopIndex_torqueSafe) | (with_reducible refine torqueSafe_ite ?_ ?_) | rfl | split)

theorem State.brakeFault_torqueSafe (s : State) (c : Fin 16) (h : s.TorqueSafe) :
    (State.brakeFault s c).TorqueSafe := by
  unfold State.brakeFault
  dsimp only
  repeat' (first | with_reducible assumption | (with_reducible apply State.setIndex_torqueSafe) | (with_reducible apply State.stopIndex_torqueSafe) | rfl | split)

theorem State.requestBrakeTests_torqueSafe (s : State) (v : BitVec 16) (h : s.TorqueSafe) :
    (State.requestBrakeTests s v).TorqueSafe := by
  unfold State.requestBrakeTests
  dsimp only
  repeat' (first | with_reducible assumption | (with_reducible apply State.setIndex_torqueSafe) | (with_reducible refine torqueSafe_foldOn _ _ _ ?_ (fun s x hS => ?_)) | rfl | split)

theorem State.startBrakeTest_torqueSafe (s : State) (c : Fin 16) (h : s.TorqueSafe) :
    (State.startBrakeTest s c).TorqueSafe := by
  unfold State.startBrakeTest
  try dsimp only
  repeat' (first | (with_reducible refine State.setIndex_drive_torqueSafe _ _ _ (State.TorqueSafe.but ?_ _)) | with_reducible assumption | (with_reducible apply State.drive_torqueSafe) | (with_reducible apply State.setIndex_torqueSafe) | (with_reducible refine torqueSafe_ite ?_ ?_) | rfl | split)

theorem State.endBrakeTest_torqueSafe (s : State) (c : Fin 16) (pass : Bool) (h : s.TorqueSafe) :
    (State.endBrakeTest s c pass).TorqueSafe := by
  unfold State.endBrakeTest
  try dsimp only
  repeat' (first | (with_reducible refine State.setIndex_drive_torqueSafe _ _ _ (State.TorqueSafe.but ?_ _)) | with_reducible assumption | (with_reducible apply State.brakeFault_torqueSafe) | (with_reducible apply State.drive_torqueSafe) | (with_reducible apply State.notice_torqueSafe) | (with_reducible apply State.restartLoops_torqueSafe) | (with_reducible apply State.setIndex_torqueSafe) | (with_reducible apply State.setTestTorque_torqueSafe) | (with_reducible apply State.toRun_torqueSafe) | (with_reducible refine torqueSafe_ite ?_ ?_) | rfl | split)

/-- After every index is driven, all are safe, whatever was enabled before. -/
theorem State.driveAll_safe (s : State) : s.driveAll.TorqueSafe := by
  have key : ∀ (l : List Nat) (s : State) (d : Fin 16), (d.val ∈ l ∨ s.IndexSafe d) →
      (foldOn l s (fun s c => s.drive (f16 c))).IndexSafe d := by
    intro l
    induction l with
    | nil => exact fun s d h => h.resolve_left (by simp)
    | cons a r ih =>
      intro s d h
      refine ih _ d ?_
      by_cases hd : d.val ∈ r
      · exact .inl hd
      · refine .inr (s.drive_indexSafe _ _ (fun hne => h.resolve_left (fun hm => ?_)))
        have ha : d.val = a := (List.mem_cons.1 hm).resolve_right hd
        exact hne (Fin.ext (by simp only [f16, fin, ← ha, Nat.mod_eq_of_lt d.isLt]))
  exact fun d => key _ s d (.inl (List.mem_range.2 d.isLt))

theorem State.driveAll_torqueSafe (s : State) (h : s.TorqueSafe) : s.driveAll.TorqueSafe := by
  exact s.driveAll_safe

theorem State.dropBrakes_torqueSafe (s : State) (h : s.TorqueSafe) :
    (State.dropBrakes s).TorqueSafe := by
  unfold State.dropBrakes
  dsimp only
  repeat' (first | with_reducible assumption | (with_reducible apply State.setIndex_torqueSafe) | (with_reducible refine torqueSafe_foldOn _ _ _ ?_ (fun s x hS => ?_)) | rfl | split)

theorem State.channelFault_torqueSafe (s : State) (ch : Fin 2) (h : s.TorqueSafe) :
    (State.channelFault s ch).TorqueSafe := by
  unfold State.channelFault
  dsimp only
  repeat' (first | with_reducible assumption | (with_reducible apply State.driveAll_torqueSafe) | (with_reducible apply State.dropBrakes_torqueSafe) | (with_reducible apply State.enterBath_torqueSafe) | (with_reducible apply State.setSafety_torqueSafe) | (with_reducible refine torqueSafe_ite ?_ ?_) | rfl | split)

/-! ### Operations of SchedImage -/

theorem State.storeSched_torqueSafe (s : State) (p : Pkt) (bs : List Byte) (h : s.TorqueSafe) :
    (State.storeSched s p bs).TorqueSafe := by
  unfold State.storeSched
  dsimp only
  repeat' (first | with_reducible assumption | (with_reducible apply State.finish_torqueSafe) | (with_reducible apply State.finishOk_torqueSafe) | (with_reducible apply State.setSolver_torqueSafe) | (with_reducible refine torqueSafe_ite ?_ ?_) | rfl | split)

/-! ### Operations of Tiles -/

theorem State.tileErrors_torqueSafe (s : State) (t : Fin 16) (n : Nat) (h : s.TorqueSafe) :
    (State.tileErrors s t n).TorqueSafe := by
  exact h

theorem State.cutRun_torqueSafe (s : State) (t : Fin 16) (h : s.TorqueSafe) :
    (State.cutRun s t).TorqueSafe := by
  unfold State.cutRun
  repeat' (first | with_reducible assumption | (with_reducible apply State.nextFree_torqueSafe) | (with_reducible apply State.tileErrors_torqueSafe) | (with_reducible refine torqueSafe_ite ?_ ?_) | rfl | split)

theorem State.kernelFault_torqueSafe (s : State) (t : Fin 16) (cause : Nat) (h : s.TorqueSafe) :
    (State.kernelFault s t cause).TorqueSafe := by
  unfold State.kernelFault
  dsimp only
  repeat' (first | with_reducible assumption | (with_reducible apply State.cutRun_torqueSafe) | (with_reducible apply State.notice_torqueSafe) | (with_reducible apply State.setKernel_torqueSafe) | (with_reducible apply State.setTile_torqueSafe) | rfl | split)

theorem State.sticky_torqueSafe (s : State) (t : Fin 16) (o : OpOut) (h : s.TorqueSafe) :
    (State.sticky s t o).TorqueSafe := by
  unfold State.sticky
  dsimp only
  repeat' (first | with_reducible assumption | (with_reducible apply State.notice_torqueSafe) | (with_reducible apply State.setKernel_torqueSafe) | (with_reducible apply State.setTile_torqueSafe) | (with_reducible refine torqueSafe_ite ?_ ?_) | rfl | split)

theorem State.tileRun_torqueSafe (s : State) (t : Fin 16) (op : Nat) (f : Core → DWord → Core → OpOut)
    (fin : State → KernelImage → OpOut → State) (h : s.TorqueSafe) (hf : ∀ s im o, s.TorqueSafe → (fin s im o).TorqueSafe) :
    (s.tileRun t op f fin).TorqueSafe := by
  unfold State.tileRun
  try dsimp only
  repeat' (first | (with_reducible apply hf) | with_reducible assumption | (with_reducible apply State.kernelFault_torqueSafe) | (with_reducible apply State.setKernel_torqueSafe) | (with_reducible apply State.setTile_torqueSafe) | (with_reducible apply State.sticky_torqueSafe) | (with_reducible refine torqueSafe_ite ?_ ?_) | (with_reducible refine torqueSafe_foldl _ _ _ ?_ (fun s x hS => ?_)) | rfl | split)

theorem State.tileOp_torqueSafe (s : State) (t : Fin 16) (op : Nat) (f : Core → DWord → Core → OpOut) (h : s.TorqueSafe) :
    (State.tileOp s t op f).TorqueSafe := by
  refine State.tileRun_torqueSafe _ _ _ _ _ h (fun s im o h => ?_)
  try dsimp only
  repeat' (first | with_reducible assumption | (with_reducible apply State.kernelFault_torqueSafe) | (with_reducible apply State.setTile_torqueSafe) | (with_reducible apply State.tileRun_torqueSafe) | (with_reducible refine torqueSafe_ite ?_ ?_) | rfl | split)

theorem State.activate_torqueSafe (s : State) (k : Fin 64) (seq : Word) (block : List Word) (h : s.TorqueSafe) :
    (State.activate s k seq block).TorqueSafe := by
  unfold State.activate
  dsimp only
  repeat' (first | with_reducible assumption | (with_reducible apply State.setKernel_torqueSafe) | (with_reducible apply State.setTile_torqueSafe) | (with_reducible refine torqueSafe_ite ?_ ?_) | rfl | split)

theorem State.commit_torqueSafe (s : State) (t : Fin 16) (im : KernelImage) (h : s.TorqueSafe) :
    (State.commit s t im).TorqueSafe := by
  exact h

/-! ### Operations of Solver -/

theorem State.requestParts_torqueSafe (s : State) (x : ProbSt) (h : s.TorqueSafe) :
    (State.requestParts s x).TorqueSafe := by
  unfold State.requestParts
  repeat' (first | with_reducible assumption | (with_reducible apply State.askUnit_torqueSafe) | (with_reducible refine torqueSafe_foldl _ _ _ ?_ (fun s x hS => ?_)) | rfl | split)

theorem State.releaseParts_torqueSafe (s : State) (x : ProbSt) (h : s.TorqueSafe) :
    (State.releaseParts s x).TorqueSafe := by
  unfold State.releaseParts
  repeat' (first | with_reducible assumption | (with_reducible apply State.leaveUnit_torqueSafe) | (with_reducible refine torqueSafe_foldl _ _ _ ?_ (fun s x hS => ?_)) | rfl | split)

theorem State.noteSolve_torqueSafe (s : State) (p : Fin 4) (v : SolveSt) (h : s.TorqueSafe) :
    (State.noteSolve s p v).TorqueSafe := by
  exact h

theorem State.laneOp_torqueSafe (s : State) (p : Fin 4) (op : Nat) (f : SchedImage → LaneInstr → SolveSt → SolveSt) (h : s.TorqueSafe) :
    (State.laneOp s p op f).TorqueSafe := by
  unfold State.laneOp
  dsimp only
  repeat' (first | with_reducible assumption | (with_reducible apply State.noteSolve_torqueSafe) | rfl | split)

theorem State.latchPlan_torqueSafe (s : State) (h : s.TorqueSafe) :
    (State.latchPlan s).TorqueSafe := by
  exact h

theorem State.latchDue_torqueSafe (s : State) (h : s.TorqueSafe) :
    (State.latchDue s).TorqueSafe := by
  unfold State.latchDue
  repeat' (first | with_reducible assumption | (with_reducible apply State.latchPlan_torqueSafe) | (with_reducible refine torqueSafe_ite ?_ ?_) | rfl | split)

theorem State.lateStage_torqueSafe (s : State) (h : s.TorqueSafe) :
    (State.lateStage s).TorqueSafe := by
  unfold State.lateStage
  dsimp only
  repeat' (first | with_reducible assumption | (with_reducible apply State.setMotion_torqueSafe) | (with_reducible refine torqueSafe_ite ?_ ?_) | rfl | split)

theorem State.stageProblems_torqueSafe (s : State) (ps : List (Nat × Option SchedImage)) (h : s.TorqueSafe) :
    (State.stageProblems s ps).TorqueSafe := by
  unfold State.stageProblems
  dsimp only
  repeat' (first | with_reducible assumption | (with_reducible apply State.setFree_torqueSafe) | (with_reducible apply State.setSolve_torqueSafe) | (with_reducible refine torqueSafe_foldl _ _ _ ?_ (fun s x hS => ?_)) | rfl | split)

theorem State.dropStaged_torqueSafe (s : State) (h : s.TorqueSafe) :
    (State.dropStaged s).TorqueSafe := by
  exact h

theorem State.assembleOne_torqueSafe (s : State) (p : Fin 4) (g : SchedImage) (late : Bool) (h : s.TorqueSafe) :
    (State.assembleOne s p g late).TorqueSafe := by
  unfold State.assembleOne
  dsimp only
  repeat' (first | with_reducible assumption | (with_reducible apply State.setProb_torqueSafe) | (with_reducible apply State.setSolve_torqueSafe) | (with_reducible apply State.setSolver_torqueSafe) | (with_reducible refine torqueSafe_ite ?_ ?_) | (with_reducible refine torqueSafe_foldl _ _ _ ?_ (fun s x hS => ?_)) | rfl | split)

theorem State.corrected_torqueSafe (s : State) (p : Fin 4) (n : Nat) (h : s.TorqueSafe) :
    (State.corrected s p n).TorqueSafe := by
  exact h

theorem State.notSolved_torqueSafe (s : State) (p : Fin 4) (flags : Nat) (h : s.TorqueSafe) :
    (State.notSolved s p flags).TorqueSafe := by
  unfold State.notSolved
  dsimp only
  repeat' (first | with_reducible assumption | (with_reducible apply State.corrected_torqueSafe) | (with_reducible apply State.nextFree_torqueSafe) | (with_reducible apply State.releaseParts_torqueSafe) | (with_reducible apply State.setSolve_torqueSafe) | (with_reducible refine torqueSafe_ite ?_ ?_) | rfl | split)

theorem State.overrun_torqueSafe (s : State) (p : Fin 4) (h : s.TorqueSafe) :
    (State.overrun s p).TorqueSafe := by
  unfold State.overrun
  dsimp only
  repeat' (first | with_reducible assumption | (with_reducible apply State.notSolved_torqueSafe) | (with_reducible apply State.setSolver_torqueSafe) | (with_reducible refine torqueSafe_ite ?_ ?_) | rfl | split)

theorem State.newBank_torqueSafe (s : State) (axis : Nat) (k0 k1 : List Word) (h : s.TorqueSafe) :
    (State.newBank s axis k0 k1).TorqueSafe := by
  exact h

theorem State.solveMiss_torqueSafe (s : State) (p : Fin 4) (g : SchedImage) (h : s.TorqueSafe) :
    (State.solveMiss s p g).TorqueSafe := by
  unfold State.solveMiss
  dsimp only
  repeat' (first | with_reducible assumption | (with_reducible apply State.motionStop34_torqueSafe) | (with_reducible apply State.newBank_torqueSafe) | (with_reducible apply State.protect_torqueSafe) | (with_reducible apply State.setChain_torqueSafe) | (with_reducible apply State.setMotion_torqueSafe) | (with_reducible refine torqueSafe_ite ?_ ?_) | (with_reducible refine torqueSafe_foldl _ _ _ ?_ (fun s x hS => ?_)) | rfl | split)

theorem State.distribute_torqueSafe (s : State) (p : Fin 4) (g : SchedImage) (h : s.TorqueSafe) :
    (State.distribute s p g).TorqueSafe := by
  unfold State.distribute
  dsimp only
  repeat' (first | with_reducible assumption | (with_reducible apply State.newBank_torqueSafe) | (with_reducible apply State.setChain_torqueSafe) | (with_reducible apply State.setMotion_torqueSafe) | (with_reducible apply State.setSolve_torqueSafe) | (with_reducible apply State.tick_torqueSafe) | (with_reducible refine torqueSafe_foldl _ _ _ ?_ (fun s x hS => ?_)) | rfl | split)

theorem State.distributeKept_torqueSafe (s : State) (p : Fin 4) (g : SchedImage) (h : s.TorqueSafe) :
    (State.distributeKept s p g).TorqueSafe := by
  unfold State.distributeKept
  dsimp only
  repeat' (first | with_reducible assumption | (with_reducible apply State.distribute_torqueSafe) | (with_reducible apply State.setSolve_torqueSafe) | rfl | split)

theorem State.takeBack_torqueSafe (s : State) (p : Fin 4) (h : s.TorqueSafe) :
    (State.takeBack s p).TorqueSafe := by
  unfold State.takeBack
  dsimp only
  repeat' (first | with_reducible assumption | (with_reducible apply State.setChain_torqueSafe) | (with_reducible apply State.setMotion_torqueSafe) | (with_reducible apply State.setSolve_torqueSafe) | (with_reducible apply State.solveMiss_torqueSafe) | (with_reducible apply State.tick_torqueSafe) | (with_reducible refine torqueSafe_ite ?_ ?_) | (with_reducible refine torqueSafe_foldl _ _ _ ?_ (fun s x hS => ?_)) | rfl | split)

theorem State.sendSolve_torqueSafe (s : State) (key : Nat) (x : List Word) (h : s.TorqueSafe) :
    (State.sendSolve s key x).TorqueSafe := by
  exact h

theorem State.settleSolve_torqueSafe (s : State) (p : Fin 4) (h : s.TorqueSafe) :
    (State.settleSolve s p).TorqueSafe := by
  unfold State.settleSolve
  dsimp only
  repeat' (first | with_reducible assumption | (with_reducible apply State.distribute_torqueSafe) | (with_reducible apply State.distributeKept_torqueSafe) | (with_reducible apply State.diverge_torqueSafe) | (with_reducible apply State.notSolved_torqueSafe) | (with_reducible apply State.sendSolve_torqueSafe) | (with_reducible apply State.setSolve_torqueSafe) | (with_reducible apply State.setSolver_torqueSafe) | (with_reducible apply State.solveMiss_torqueSafe) | (with_reducible apply State.tick_torqueSafe) | (with_reducible refine torqueSafe_ite ?_ ?_) | rfl | split)

theorem State.keepRecord_torqueSafe (s : State) (p : Fin 4) (h : s.TorqueSafe) :
    (State.keepRecord s p).TorqueSafe := by
  exact h

theorem State.settle_torqueSafe (s : State) (p : Fin 4) (h : s.TorqueSafe) :
    (State.settle s p).TorqueSafe := by
  unfold State.settle
  repeat' (first | with_reducible assumption | (with_reducible apply State.keepRecord_torqueSafe) | (with_reducible apply State.settleSolve_torqueSafe) | (with_reducible refine torqueSafe_ite ?_ ?_) | rfl | split)

theorem State.auxBanks_torqueSafe (s : State) (h : s.TorqueSafe) :
    (State.auxBanks s).TorqueSafe := by
  unfold State.auxBanks
  repeat' (first | with_reducible assumption | (with_reducible apply State.newBank_torqueSafe) | (with_reducible refine torqueSafe_foldOn _ _ _ ?_ (fun s x hS => ?_)) | rfl | split)

/-! ### Operations of Can -/

theorem State.canEnter_torqueSafe (s : State) (n : Fin 4) (st : CanState) (h : s.TorqueSafe) :
    (State.canEnter s n st).TorqueSafe := by
  unfold State.canEnter
  dsimp only
  repeat' (first | with_reducible assumption | (with_reducible apply State.notice_torqueSafe) | (with_reducible apply State.setCanN_torqueSafe) | (with_reducible refine torqueSafe_ite ?_ ?_) | rfl | split)

theorem State.canConfine_torqueSafe (s : State) (n : Fin 4) (h : s.TorqueSafe) :
    (State.canConfine s n).TorqueSafe := by
  unfold State.canConfine
  dsimp only
  repeat' (first | with_reducible assumption | (with_reducible apply State.canEnter_torqueSafe) | (with_reducible apply State.setCanN_torqueSafe) | (with_reducible refine torqueSafe_ite ?_ ?_) | rfl | split)

theorem State.canBuf_torqueSafe (s : State) (n : Fin 4) (b : Fin 64) (f : CanBuf → CanBuf) (h : s.TorqueSafe) :
    (State.canBuf s n b f).TorqueSafe := by
  exact h

theorem State.canShare_torqueSafe (s : State) (n : Fin 4) (b kind : Nat) (rest : List Byte) (h : s.TorqueSafe) :
    (State.canShare s n b kind rest).TorqueSafe := by
  unfold State.canShare
  repeat' (first | with_reducible assumption | (with_reducible apply State.sendBenjo_torqueSafe) | (with_reducible refine torqueSafe_ite ?_ ?_) | rfl | split)

theorem State.canStore_torqueSafe (s : State) (n : Fin 4) (f : CanFrame) (stamp : DWord) (h : s.TorqueSafe) :
    (State.canStore s n f stamp).TorqueSafe := by
  unfold State.canStore
  dsimp only
  repeat' (first | with_reducible assumption | (with_reducible apply State.canShare_torqueSafe) | (with_reducible apply State.setCanN_torqueSafe) | (with_reducible refine torqueSafe_ite ?_ ?_) | rfl | split)

theorem State.canLock_torqueSafe (s : State) (n : Fin 4) (b : Fin 64) (h : s.TorqueSafe) :
    (State.canLock s n b).TorqueSafe := by
  exact h

theorem State.canRelease_torqueSafe (s : State) (n : Fin 4) (b : Fin 64) (h : s.TorqueSafe) :
    (State.canRelease s n b).TorqueSafe := by
  exact h

theorem State.endTx_torqueSafe (s : State) (n : Fin 4) (b : Fin 64) (v : Verdict) (outcome : Word) (h : s.TorqueSafe) :
    (State.endTx s n b v outcome).TorqueSafe := by
  unfold State.endTx
  dsimp only
  repeat' (first | with_reducible assumption | (with_reducible apply State.canBuf_torqueSafe) | (with_reducible apply State.finishN_torqueSafe) | (with_reducible apply State.finishTag_torqueSafe) | (with_reducible refine torqueSafe_ite ?_ ?_) | (with_reducible refine torqueSafe_foldl _ _ _ ?_ (fun s x hS => ?_)) | rfl | split)

theorem State.leaveBus_torqueSafe (s : State) (n : Fin 4) (b : Fin 64) (h : s.TorqueSafe) :
    (State.leaveBus s n b).TorqueSafe := by
  unfold State.leaveBus
  dsimp only
  repeat' (first | with_reducible assumption | (with_reducible apply State.canBuf_torqueSafe) | (with_reducible apply State.canShare_torqueSafe) | (with_reducible apply State.endTx_torqueSafe) | (with_reducible apply State.setCanN_torqueSafe) | (with_reducible refine torqueSafe_ite ?_ ?_) | rfl | split)

theorem State.settleCancels_torqueSafe (s : State) (h : s.TorqueSafe) :
    (State.settleCancels s).TorqueSafe := by
  unfold State.settleCancels
  dsimp only
  repeat' (first | with_reducible assumption | (with_reducible apply State.endTx_torqueSafe) | (with_reducible refine torqueSafe_ite ?_ ?_) | (with_reducible refine torqueSafe_foldOn _ _ _ ?_ (fun s x hS => ?_)) | rfl | split)

theorem State.setCanCtrl_torqueSafe (s : State) (n : Fin 4) (v : Word) (h : s.TorqueSafe) :
    (State.setCanCtrl s n v).TorqueSafe := by
  unfold State.setCanCtrl
  dsimp only
  repeat' (first | with_reducible assumption | (with_reducible apply State.canEnter_torqueSafe) | (with_reducible apply State.leaveBus_torqueSafe) | (with_reducible apply State.setCanN_torqueSafe) | (with_reducible refine torqueSafe_ite ?_ ?_) | rfl | split)

/-! ### Operations of Loops -/

theorem State.traceEvent_torqueSafe (s : State) (e : Fin 16) (source : Nat) (h : s.TorqueSafe) :
    (State.traceEvent s e source).TorqueSafe := by
  unfold State.traceEvent
  dsimp only
  repeat' (first | with_reducible assumption | (with_reducible apply State.setEngine_torqueSafe) | (with_reducible refine torqueSafe_ite ?_ ?_) | rfl | split)

theorem State.traceRow_torqueSafe (s : State) (e : Fin 16) (seq : Word) (h : s.TorqueSafe) :
    (State.traceRow s e seq).TorqueSafe := by
  unfold State.traceRow
  dsimp only
  repeat' (first | with_reducible assumption | (with_reducible apply State.setEngine_torqueSafe) | (with_reducible refine torqueSafe_ite ?_ ?_) | rfl | split)

theorem State.armTrace_torqueSafe (s : State) (e : Fin 16) (h : s.TorqueSafe) :
    (State.armTrace s e).TorqueSafe := by
  exact h

theorem State.setGroup_torqueSafe (s : State) (k : Nat) (g : GroupSt) (h : s.TorqueSafe) :
    (State.setGroup s k g).TorqueSafe := by
  exact h

theorem State.markPrimary_torqueSafe (s : State) (key m : Nat) (h : s.TorqueSafe) :
    (State.markPrimary s key m).TorqueSafe := by
  unfold State.markPrimary
  dsimp only
  repeat' (first | with_reducible assumption | (with_reducible apply State.setLoops_torqueSafe) | (with_reducible refine torqueSafe_ite ?_ ?_) | (with_reducible refine torqueSafe_foldOn _ _ _ ?_ (fun s x hS => ?_)) | rfl | split)

theorem State.endHandover_torqueSafe (s : State) (key : Nat) (faulted : Bool) (h : s.TorqueSafe) :
    (State.endHandover s key faulted).TorqueSafe := by
  unfold State.endHandover
  dsimp only
  repeat' (first | with_reducible assumption | (with_reducible apply State.finishTag_torqueSafe) | (with_reducible apply State.markPrimary_torqueSafe) | (with_reducible apply State.setGroup_torqueSafe) | rfl | split)

theorem State.axisFault_torqueSafe (s : State) (a : Nat) (cause : Nat) (once : Bool) (h : s.TorqueSafe) :
    (State.axisFault s a cause once).TorqueSafe := by
  unfold State.axisFault
  dsimp only
  repeat' (first | with_reducible assumption | (with_reducible apply State.endHandover_torqueSafe) | (with_reducible apply State.motionStop34_torqueSafe) | (with_reducible apply State.notice_torqueSafe) | (with_reducible apply State.protect_torqueSafe) | (with_reducible apply State.setAxis_torqueSafe) | (with_reducible apply State.traceEvent_torqueSafe) | (with_reducible refine torqueSafe_ite ?_ ?_) | (with_reducible refine torqueSafe_foldOn _ _ _ ?_ (fun s x hS => ?_)) | (with_reducible refine torqueSafe_foldl _ _ _ ?_ (fun s x hS => ?_)) | rfl | split)

theorem State.slotMiss_torqueSafe (s : State) (e : Fin 16) (k : Fin 32) (seq : Word) (h : s.TorqueSafe) :
    (State.slotMiss s e k seq).TorqueSafe := by
  unfold State.slotMiss
  dsimp only
  repeat' (first | with_reducible assumption | (with_reducible apply State.axisFault_torqueSafe) | (with_reducible apply State.setLoops_torqueSafe) | (with_reducible apply State.setSlot_torqueSafe) | (with_reducible apply State.setTwin_torqueSafe) | (with_reducible apply State.traceEvent_torqueSafe) | (with_reducible refine torqueSafe_ite ?_ ?_) | rfl | split)

theorem State.advanceHandover_torqueSafe (s : State) (key : Nat) (h : s.TorqueSafe) :
    (State.advanceHandover s key).TorqueSafe := by
  unfold State.advanceHandover
  dsimp only
  repeat' (first | with_reducible assumption | (with_reducible apply State.endHandover_torqueSafe) | (with_reducible apply State.setGroup_torqueSafe) | (with_reducible refine torqueSafe_ite ?_ ?_) | rfl | split)

theorem State.traceRows_torqueSafe (s : State) (h : s.TorqueSafe) :
    (State.traceRows s).TorqueSafe := by
  unfold State.traceRows
  repeat' (first | with_reducible assumption | (with_reducible apply State.traceRow_torqueSafe) | (with_reducible refine torqueSafe_ite ?_ ?_) | (with_reducible refine torqueSafe_foldOn _ _ _ ?_ (fun s x hS => ?_)) | rfl | split)

theorem State.completeCoeffs_torqueSafe (s : State) (l : LoopSlot) (t : Nat) (h : s.TorqueSafe) :
    (State.completeCoeffs s l t).TorqueSafe := by
  unfold State.completeCoeffs
  repeat' (first | with_reducible assumption | (with_reducible apply State.finishTag_torqueSafe) | (with_reducible refine torqueSafe_ite ?_ ?_) | (with_reducible refine torqueSafe_foldl _ _ _ ?_ (fun s x hS => ?_)) | rfl | split)

theorem State.maskChanged_torqueSafe (s : State) (h : s.TorqueSafe) :
    (State.maskChanged s).TorqueSafe := by
  exact h

theorem State.engineLost_torqueSafe (s : State) (e : Fin 16) (masked : Bool) (h : s.TorqueSafe) :
    (State.engineLost s e masked).TorqueSafe := by
  unfold State.engineLost
  dsimp only
  repeat' (first | with_reducible assumption | (with_reducible apply State.axisFault_torqueSafe) | (with_reducible apply State.latchUnit_torqueSafe) | (with_reducible apply State.maskChanged_torqueSafe) | (with_reducible apply State.setCell_torqueSafe) | (with_reducible apply State.setEngine_torqueSafe) | (with_reducible refine torqueSafe_ite ?_ ?_) | (with_reducible refine torqueSafe_foldl _ _ _ ?_ (fun s x hS => ?_)) | rfl | split)

theorem State.evalGroup_torqueSafe (s : State) (key : Nat) (fresh : List (Nat × Nat)) (m : AxisIn) (sp : Setpoint) (seq : Word) (t : Nat) (h : s.TorqueSafe) :
    (State.evalGroup s key fresh m sp seq t).TorqueSafe := by
  unfold State.evalGroup
  dsimp only
  repeat' (first | with_reducible assumption | (with_reducible apply State.advanceHandover_torqueSafe) | (with_reducible apply State.axisFault_torqueSafe) | (with_reducible apply State.completeCoeffs_torqueSafe) | (with_reducible apply State.engineLost_torqueSafe) | (with_reducible apply State.setAxis_torqueSafe) | (with_reducible apply State.setGroup_torqueSafe) | (with_reducible apply State.setSlot_torqueSafe) | (with_reducible apply State.slotMiss_torqueSafe) | (with_reducible apply State.traceEvent_torqueSafe) | (with_reducible refine torqueSafe_ite ?_ ?_) | (with_reducible refine torqueSafe_foldl _ _ _ ?_ (fun s x hS => ?_)) | rfl | split)

theorem State.spans_torqueSafe (s : State) (slots : List (Nat × Nat)) (h : s.TorqueSafe) :
    (State.spans s slots).TorqueSafe := by
  unfold State.spans
  repeat' (first | with_reducible assumption | (with_reducible apply State.setEngine_torqueSafe) | (with_reducible refine torqueSafe_foldOn _ _ _ ?_ (fun s x hS => ?_)) | rfl | split)

theorem State.activateLoops_torqueSafe (s : State) (n : NodeRec) (loops : List Nat) (seq : Word) (bs : List Byte) (h : s.TorqueSafe) :
    (State.activateLoops s n loops seq bs).TorqueSafe := by
  unfold State.activateLoops
  dsimp only
  repeat' (first | with_reducible assumption | (with_reducible apply State.activate_torqueSafe) | (with_reducible refine torqueSafe_ite ?_ ?_) | (with_reducible refine torqueSafe_foldOn _ _ _ ?_ (fun s x hS => ?_)) | rfl | split)

theorem State.markSeen_torqueSafe (s : State) (ps : List (Nat × Nat)) (seq : Word) (h : s.TorqueSafe) :
    (State.markSeen s ps seq).TorqueSafe := by
  unfold State.markSeen
  dsimp only
  repeat' (first | with_reducible assumption | (with_reducible apply State.setSlot_torqueSafe) | (with_reducible refine torqueSafe_foldl _ _ _ ?_ (fun s x hS => ?_)) | rfl | split)

theorem State.recordProbes_torqueSafe (s : State) (a : Nat) (seq : Word) (h : s.TorqueSafe) :
    (State.recordProbes s a seq).TorqueSafe := by
  unfold State.recordProbes
  dsimp only
  repeat' (first | with_reducible assumption | (with_reducible apply State.setEngine_torqueSafe) | (with_reducible refine torqueSafe_foldOn _ _ _ ?_ (fun s x hS => ?_)) | rfl | split)

theorem State.axisBatch_torqueSafe (s : State) (a : Nat) (m : AxisIn) (seq : Word) (sample : Nat) (h : s.TorqueSafe) :
    (State.axisBatch s a m seq sample).TorqueSafe := by
  unfold State.axisBatch
  dsimp only
  repeat' (first | with_reducible assumption | (with_reducible apply State.evalGroup_torqueSafe) | (with_reducible apply State.markSeen_torqueSafe) | (with_reducible apply State.recordProbes_torqueSafe) | (with_reducible apply State.setAxis_torqueSafe) | (with_reducible apply State.setChain_torqueSafe) | (with_reducible apply State.setFree_torqueSafe) | (with_reducible refine torqueSafe_ite ?_ ?_) | (with_reducible refine torqueSafe_foldl _ _ _ ?_ (fun s x hS => ?_)) | rfl | split)

theorem State.takeAxes_torqueSafe (s : State) (n : NodeRec) (seq : Word) (bs : List Byte) (h : s.TorqueSafe) :
    (State.takeAxes s n seq bs).TorqueSafe := by
  unfold State.takeAxes
  dsimp only
  repeat' (first | with_reducible assumption | (with_reducible apply State.setAxis_torqueSafe) | (with_reducible refine torqueSafe_ite ?_ ?_) | (with_reducible refine torqueSafe_foldl _ _ _ ?_ (fun s x hS => ?_)) | rfl | split)

theorem State.coeffsWhileFaulted_torqueSafe (s : State) (a : Nat) (t : Nat) (h : s.TorqueSafe) :
    (State.coeffsWhileFaulted s a t).TorqueSafe := by
  unfold State.coeffsWhileFaulted
  dsimp only
  repeat' (first | with_reducible assumption | (with_reducible apply State.completeCoeffs_torqueSafe) | (with_reducible apply State.setSlot_torqueSafe) | (with_reducible refine torqueSafe_ite ?_ ?_) | (with_reducible refine torqueSafe_foldl _ _ _ ?_ (fun s x hS => ?_)) | rfl | split)

theorem State.activateEngines_torqueSafe (s : State) (old : Option Cell) (new : Cell) (pl : Placement) (h : s.TorqueSafe) :
    (State.activateEngines s old new pl).TorqueSafe := by
  unfold State.activateEngines
  dsimp only
  repeat' (first | with_reducible assumption | (with_reducible apply State.endHandover_torqueSafe) | (with_reducible apply State.finishTag_torqueSafe) | (with_reducible apply State.setLoops_torqueSafe) | (with_reducible refine torqueSafe_ite ?_ ?_) | (with_reducible refine torqueSafe_foldOn _ _ _ ?_ (fun s x hS => ?_)) | (with_reducible refine torqueSafe_foldl _ _ _ ?_ (fun s x hS => ?_)) | rfl | split)

/-! ### Operations of Nibble -/

theorem State.countMiss_torqueSafe (s : State) (h : s.TorqueSafe) :
    (State.countMiss s).TorqueSafe := by
  exact h

theorem State.swapDelivery_torqueSafe (s : State) (d : Delivery) (h : s.TorqueSafe) :
    (State.swapDelivery s d).TorqueSafe := by
  unfold State.swapDelivery
  dsimp only
  repeat' (first | with_reducible assumption | (with_reducible apply State.countMiss_torqueSafe) | (with_reducible apply State.setNibble_torqueSafe) | (with_reducible refine torqueSafe_ite ?_ ?_) | (with_reducible refine torqueSafe_foldl _ _ _ ?_ (fun s x hS => ?_)) | rfl | split)

theorem State.swapMiss_torqueSafe (s : State) (d : Delivery) (h : s.TorqueSafe) :
    (State.swapMiss s d).TorqueSafe := by
  unfold State.swapMiss
  repeat' (first | with_reducible assumption | (with_reducible apply State.countMiss_torqueSafe) | (with_reducible apply State.setNibble_torqueSafe) | (with_reducible refine torqueSafe_ite ?_ ?_) | (with_reducible refine torqueSafe_foldl _ _ _ ?_ (fun s x hS => ?_)) | rfl | split)

theorem State.readmitPoints_torqueSafe (s : State) (node : Nat) (h : s.TorqueSafe) :
    (State.readmitPoints s node).TorqueSafe := by
  exact h

theorem State.removePoints_torqueSafe (s : State) (node : Nat) (h : s.TorqueSafe) :
    (State.removePoints s node).TorqueSafe := by
  exact h

theorem State.deliverSub_torqueSafe (s : State) (sub : Fin 16) (h : s.TorqueSafe) :
    (State.deliverSub s sub).TorqueSafe := by
  unfold State.deliverSub
  dsimp only
  repeat' (first | with_reducible assumption | (with_reducible apply State.finishN_torqueSafe) | (with_reducible apply State.sendBenjo_torqueSafe) | (with_reducible apply State.setSub_torqueSafe) | (with_reducible refine torqueSafe_ite ?_ ?_) | rfl | split)

theorem State.dropDelivered_torqueSafe (s : State) (sub : Fin 16) (n : Nat) (h : s.TorqueSafe) :
    (State.dropDelivered s sub n).TorqueSafe := by
  unfold State.dropDelivered
  dsimp only
  repeat' (first | with_reducible assumption | (with_reducible apply State.finishOk_torqueSafe) | (with_reducible apply State.setSub_torqueSafe) | rfl | split)

theorem State.publish_torqueSafe (s : State) (e : Ev) (h : s.TorqueSafe) :
    (State.publish s e).TorqueSafe := by
  unfold State.publish
  dsimp only
  repeat' (first | with_reducible assumption | (with_reducible apply State.deliverSub_torqueSafe) | (with_reducible apply State.setSub_torqueSafe) | (with_reducible refine torqueSafe_ite ?_ ?_) | (with_reducible refine torqueSafe_foldOn _ _ _ ?_ (fun s x hS => ?_)) | rfl | split)

theorem State.release_torqueSafe (s : State) (e : Ev) (h : s.TorqueSafe) :
    (State.release s e).TorqueSafe := by
  unfold State.release
  dsimp only
  repeat' (first | with_reducible assumption | (with_reducible apply State.publish_torqueSafe) | (with_reducible apply State.setNibble_torqueSafe) | (with_reducible refine torqueSafe_ite ?_ ?_) | (with_reducible refine torqueSafe_foldl _ _ _ ?_ (fun s x hS => ?_)) | rfl | split)

theorem State.makeRoom_torqueSafe (s : State) (h : s.TorqueSafe) :
    (State.makeRoom s).TorqueSafe := by
  unfold State.makeRoom
  dsimp only
  repeat' (first | with_reducible assumption | (with_reducible apply State.release_torqueSafe) | (with_reducible apply State.setNibble_torqueSafe) | (with_reducible refine torqueSafe_ite ?_ ?_) | rfl | split)

theorem State.takeEvent_torqueSafe (s : State) (e : Ev) (h : s.TorqueSafe) :
    (State.takeEvent s e).TorqueSafe := by
  unfold State.takeEvent
  dsimp only
  repeat' (first | with_reducible assumption | (with_reducible apply State.makeRoom_torqueSafe) | (with_reducible apply State.setNibble_torqueSafe) | (with_reducible refine torqueSafe_ite ?_ ?_) | rfl | split)

theorem State.nodeEvent_torqueSafe (s : State) (node : Nat) (base : Nat) (r : List Byte) (h : s.TorqueSafe) :
    (State.nodeEvent s node base r).TorqueSafe := by
  unfold State.nodeEvent
  dsimp only
  repeat' (first | with_reducible assumption | (with_reducible apply State.setNibble_torqueSafe) | (with_reducible apply State.takeEvent_torqueSafe) | (with_reducible refine torqueSafe_ite ?_ ?_) | rfl | split)

theorem State.takeDelivery_torqueSafe (s : State) (node : Nat) (seq : Word) (bs : List Byte) (h : s.TorqueSafe) :
    (State.takeDelivery s node seq bs).TorqueSafe := by
  unfold State.takeDelivery
  dsimp only
  repeat' (first | with_reducible assumption | (with_reducible apply State.nodeEvent_torqueSafe) | (with_reducible apply State.setNibble_torqueSafe) | (with_reducible refine torqueSafe_ite ?_ ?_) | (with_reducible refine torqueSafe_foldOn _ _ _ ?_ (fun s x hS => ?_)) | (with_reducible refine torqueSafe_foldl _ _ _ ?_ (fun s x hS => ?_)) | rfl | split)

theorem State.missDelivery_torqueSafe (s : State) (node : Nat) (seq : Word) (h : s.TorqueSafe) :
    (State.missDelivery s node seq).TorqueSafe := by
  unfold State.missDelivery
  dsimp only
  repeat' (first | with_reducible assumption | (with_reducible apply State.setNibble_torqueSafe) | (with_reducible refine torqueSafe_ite ?_ ?_) | rfl | split)

theorem State.activatePoints_torqueSafe (s : State) (entered : List Delivery) (h : s.TorqueSafe) :
    (State.activatePoints s entered).TorqueSafe := by
  unfold State.activatePoints
  dsimp only
  repeat' (first | with_reducible assumption | (with_reducible apply State.activate_torqueSafe) | (with_reducible refine torqueSafe_ite ?_ ?_) | (with_reducible refine torqueSafe_foldOn _ _ _ ?_ (fun s x hS => ?_)) | rfl | split)

theorem State.setWindow_torqueSafe (s : State) (w : Nat) (h : s.TorqueSafe) :
    (State.setWindow s w).TorqueSafe := by
  exact h

theorem State.activateNibbles_torqueSafe (s : State) (old : Option Cell) (new : Cell) (h : s.TorqueSafe) :
    (State.activateNibbles s old new).TorqueSafe := by
  unfold State.activateNibbles
  dsimp only
  repeat' (first | with_reducible assumption | (with_reducible apply State.finishTag_torqueSafe) | (with_reducible apply State.setNibble_torqueSafe) | (with_reducible refine torqueSafe_ite ?_ ?_) | (with_reducible refine torqueSafe_foldl _ _ _ ?_ (fun s x hS => ?_)) | rfl | split)

theorem State.holdRemoved_torqueSafe (s : State) (h : s.TorqueSafe) :
    (State.holdRemoved s).TorqueSafe := by
  exact h

theorem State.pointCommand_torqueSafe (s : State) (p : Pkt) (force : Bool) (h : s.TorqueSafe) :
    (State.pointCommand s p force).TorqueSafe := by
  unfold State.pointCommand
  dsimp only
  repeat' (first | with_reducible assumption | (with_reducible apply State.finish_torqueSafe) | (with_reducible apply State.setNibble_torqueSafe) | (with_reducible refine torqueSafe_ite ?_ ?_) | rfl | split)

/-! ### Operations of Ring -/

theorem State.putHop_torqueSafe (s : State) (r : Fin 4) (h : Nat) (n : NodeSt) (hP : s.TorqueSafe) :
    (State.putHop s r h n).TorqueSafe := by
  exact hP

theorem State.ringEmit_torqueSafe (s : State) (r : Fin 4) (laneB : Bool) (at_ : Nat) (bs : List Byte) (h : s.TorqueSafe) :
    (State.ringEmit s r laneB at_ bs).TorqueSafe := by
  exact h

theorem State.ringSendAt_torqueSafe (s : State) (r : Fin 4) (laneB : Bool) (at_ : Nat) (bs : List Byte) (h : s.TorqueSafe) :
    (State.ringSendAt s r laneB at_ bs).TorqueSafe := by
  unfold State.ringSendAt
  dsimp only
  repeat' (first | with_reducible assumption | (with_reducible apply State.ringEmit_torqueSafe) | (with_reducible apply State.setRing_torqueSafe) | (with_reducible refine torqueSafe_ite ?_ ?_) | rfl | split)

theorem State.sendCopies_torqueSafe (s : State) (r : Fin 4) (f : HdrFields) (payload : List Byte) (h : s.TorqueSafe) :
    (State.sendCopies s r f payload).TorqueSafe := by
  unfold State.sendCopies
  repeat' (first | with_reducible assumption | (with_reducible apply State.ringSendAt_torqueSafe) | (with_reducible refine torqueSafe_foldl _ _ _ ?_ (fun s x hS => ?_)) | rfl | split)

theorem State.sendStart_torqueSafe (s : State) (r : Fin 4) (laneB : Bool) (type aux : Nat) (payload : List Byte) (h : s.TorqueSafe) :
    (State.sendStart s r laneB type aux payload).TorqueSafe := by
  exact h

theorem State.ringDown_torqueSafe (s : State) (r : Fin 4) (k : Option NoticeKind) (b : Nat) (h : s.TorqueSafe) :
    (State.ringDown s r k b).TorqueSafe := by
  unfold State.ringDown
  dsimp only
  repeat' (first | with_reducible assumption | (with_reducible apply State.notice_torqueSafe) | (with_reducible apply State.setRing_torqueSafe) | rfl | split)

theorem State.ringListen_torqueSafe (s : State) (r : Fin 4) (h : s.TorqueSafe) :
    (State.ringListen s r).TorqueSafe := by
  unfold State.ringListen
  dsimp only
  repeat' (first | with_reducible assumption | (with_reducible apply State.setRing_torqueSafe) | (with_reducible refine torqueSafe_ite ?_ ?_) | rfl | split)

theorem State.sendPoll_torqueSafe (s : State) (r : Fin 4) (h : s.TorqueSafe) :
    (State.sendPoll s r).TorqueSafe := by
  exact h

theorem State.enterRanging_torqueSafe (s : State) (r : Fin 4) (starter : Bool) (h : s.TorqueSafe) :
    (State.enterRanging s r starter).TorqueSafe := by
  unfold State.enterRanging
  dsimp only
  repeat' (first | with_reducible assumption | (with_reducible apply State.ringDown_torqueSafe) | (with_reducible apply State.sendPoll_torqueSafe) | (with_reducible apply State.setRing_torqueSafe) | (with_reducible refine torqueSafe_ite ?_ ?_) | (with_reducible refine torqueSafe_foldl _ _ _ ?_ (fun s x hS => ?_)) | rfl | split)

theorem State.sendConfig_torqueSafe (s : State) (r : Fin 4) (h : s.TorqueSafe) :
    (State.sendConfig s r).TorqueSafe := by
  unfold State.sendConfig
  dsimp only
  repeat' (first | with_reducible assumption | (with_reducible apply State.sendPoll_torqueSafe) | (with_reducible apply State.sendStart_torqueSafe) | (with_reducible apply State.setRing_torqueSafe) | (with_reducible refine torqueSafe_ite ?_ ?_) | rfl | split)

theorem State.enterConfig_torqueSafe (s : State) (r : Fin 4) (h : s.TorqueSafe) :
    (State.enterConfig s r).TorqueSafe := by
  unfold State.enterConfig
  dsimp only
  repeat' (first | with_reducible assumption | (with_reducible apply State.ringDown_torqueSafe) | (with_reducible apply State.sendConfig_torqueSafe) | (with_reducible apply State.setRing_torqueSafe) | (with_reducible refine torqueSafe_ite ?_ ?_) | rfl | split)

theorem State.sendActivate_torqueSafe (s : State) (r : Fin 4) (h : s.TorqueSafe) :
    (State.sendActivate s r).TorqueSafe := by
  unfold State.sendActivate
  dsimp only
  repeat' (first | with_reducible assumption | (with_reducible apply State.sendConfig_torqueSafe) | (with_reducible apply State.setRing_torqueSafe) | (with_reducible refine torqueSafe_ite ?_ ?_) | rfl | split)

theorem State.nextPoll_torqueSafe (s : State) (r : Fin 4) (h : s.TorqueSafe) :
    (State.nextPoll s r).TorqueSafe := by
  unfold State.nextPoll
  dsimp only
  repeat' (first | with_reducible assumption | (with_reducible apply State.enterConfig_torqueSafe) | (with_reducible apply State.sendActivate_torqueSafe) | (with_reducible apply State.sendPoll_torqueSafe) | (with_reducible apply State.setRing_torqueSafe) | (with_reducible refine torqueSafe_ite ?_ ?_) | rfl | split)

theorem State.sendCold_torqueSafe (s : State) (r : Fin 4) (h : s.TorqueSafe) :
    (State.sendCold s r).TorqueSafe := by
  exact h

theorem State.enterCold_torqueSafe (s : State) (r : Fin 4) (h : s.TorqueSafe) :
    (State.enterCold s r).TorqueSafe := by
  exact h

theorem State.hearDevice_torqueSafe (s : State) (r : Fin 4) (coldstart : Bool) (h : s.TorqueSafe) :
    (State.hearDevice s r coldstart).TorqueSafe := by
  unfold State.hearDevice
  dsimp only
  repeat' (first | with_reducible assumption | (with_reducible apply State.enterRanging_torqueSafe) | (with_reducible apply State.ringDown_torqueSafe) | (with_reducible apply State.setRing_torqueSafe) | (with_reducible refine torqueSafe_ite ?_ ?_) | rfl | split)

theorem State.ringError_torqueSafe (s : State) (r : Fin 4) (hi lo : Nat) (h : s.TorqueSafe) :
    (State.ringError s r hi lo).TorqueSafe := by
  exact h

theorem State.ringForward_torqueSafe (s : State) (r : Fin 4) (laneB : Bool) (frame : List Byte) (h : s.TorqueSafe) :
    (State.ringForward s r laneB frame).TorqueSafe := by
  unfold State.ringForward
  dsimp only
  repeat' (first | with_reducible assumption | (with_reducible apply State.emit_torqueSafe) | (with_reducible refine torqueSafe_ite ?_ ?_) | rfl | split)

theorem State.takeCold_torqueSafe (s : State) (r : Fin 4) (own : Bool) (h : List Byte) (hP : s.TorqueSafe) :
    (State.takeCold s r own h).TorqueSafe := by
  unfold State.takeCold
  dsimp only
  repeat' (first | with_reducible assumption | (with_reducible apply State.hearDevice_torqueSafe) | (with_reducible apply State.ringDown_torqueSafe) | (with_reducible apply State.setRing_torqueSafe) | (with_reducible refine torqueSafe_ite ?_ ?_) | rfl | split)

theorem State.takeRangeRsp_torqueSafe (s : State) (r : Fin 4) (arr : Int) (frame h : List Byte) (hP : s.TorqueSafe) :
    (State.takeRangeRsp s r arr frame h).TorqueSafe := by
  unfold State.takeRangeRsp
  dsimp only
  repeat' (first | with_reducible assumption | (with_reducible apply State.nextPoll_torqueSafe) | (with_reducible apply State.putHop_torqueSafe) | (with_reducible apply State.setRing_torqueSafe) | (with_reducible refine torqueSafe_ite ?_ ?_) | rfl | split)

theorem State.removeNode_torqueSafe (s : State) (r : Fin 4) (h : Nat) (result : Nat) (hP : s.TorqueSafe) :
    (State.removeNode s r h result).TorqueSafe := by
  unfold State.removeNode
  dsimp only
  repeat' (first | with_reducible assumption | (with_reducible apply State.axisFault_torqueSafe) | (with_reducible apply State.notice_torqueSafe) | (with_reducible apply State.putHop_torqueSafe) | (with_reducible apply State.removePoints_torqueSafe) | (with_reducible apply State.sendMgmt_torqueSafe) | (with_reducible apply State.setRing_torqueSafe) | (with_reducible refine torqueSafe_ite ?_ ?_) | (with_reducible refine torqueSafe_foldl _ _ _ ?_ (fun s x hS => ?_)) | rfl | split)

theorem State.countResult_torqueSafe (s : State) (r : Fin 4) (h : Nat) (res : SlotResult) (hP : s.TorqueSafe) :
    (State.countResult s r h res).TorqueSafe := by
  unfold State.countResult
  dsimp only
  repeat' (first | with_reducible assumption | (with_reducible apply State.putHop_torqueSafe) | (with_reducible apply State.removeNode_torqueSafe) | (with_reducible apply State.setRing_torqueSafe) | (with_reducible refine torqueSafe_ite ?_ ?_) | rfl | split)

theorem State.closePrev_torqueSafe (s : State) (r : Fin 4) (h : Nat) (hP : s.TorqueSafe) :
    (State.closePrev s r h).TorqueSafe := by
  unfold State.closePrev
  dsimp only
  repeat' (first | with_reducible assumption | (with_reducible apply State.countResult_torqueSafe) | (with_reducible apply State.putHop_torqueSafe) | rfl | split)

theorem State.closeCycle_torqueSafe (s : State) (r : Fin 4) (h : Nat) (hP : s.TorqueSafe) :
    (State.closeCycle s r h).TorqueSafe := by
  unfold State.closeCycle
  dsimp only
  repeat' (first | with_reducible assumption | (with_reducible apply State.closePrev_torqueSafe) | (with_reducible apply State.countResult_torqueSafe) | (with_reducible apply State.putHop_torqueSafe) | (with_reducible refine torqueSafe_ite ?_ ?_) | rfl | split)

theorem State.missOpen_torqueSafe (s : State) (r : Fin 4) (h : Nat) (hP : s.TorqueSafe) :
    (State.missOpen s r h).TorqueSafe := by
  unfold State.missOpen
  dsimp only
  repeat' (first | with_reducible assumption | (with_reducible apply State.missDelivery_torqueSafe) | (with_reducible apply State.putHop_torqueSafe) | (with_reducible refine torqueSafe_ite ?_ ?_) | rfl | split)

theorem State.settleCycle_torqueSafe (s : State) (r : Fin 4) (h : Nat) (hP : s.TorqueSafe) :
    (State.settleCycle s r h).TorqueSafe := by
  unfold State.settleCycle
  dsimp only
  repeat' (first | with_reducible assumption | (with_reducible apply State.closeCycle_torqueSafe) | (with_reducible apply State.missOpen_torqueSafe) | (with_reducible apply State.putHop_torqueSafe) | (with_reducible refine torqueSafe_ite ?_ ?_) | rfl | split)

theorem State.newCycle_torqueSafe (s : State) (r : Fin 4) (h : Nat) (seq : Word) (hP : s.TorqueSafe) :
    (State.newCycle s r h seq).TorqueSafe := by
  unfold State.newCycle
  dsimp only
  repeat' (first | with_reducible assumption | (with_reducible apply State.closeCycle_torqueSafe) | (with_reducible apply State.closePrev_torqueSafe) | (with_reducible apply State.missOpen_torqueSafe) | (with_reducible apply State.putHop_torqueSafe) | (with_reducible refine torqueSafe_ite ?_ ?_) | rfl | split)

theorem State.takeCopy_torqueSafe (s : State) (r : Fin 4) (h : Nat) (rec : NodeRec) (seq : Word) (null fault : Bool) (payload : List Byte) (hP : s.TorqueSafe) :
    (State.takeCopy s r h rec seq null fault payload).TorqueSafe := by
  unfold State.takeCopy
  dsimp only
  repeat' (first | with_reducible assumption | (with_reducible apply State.missDelivery_torqueSafe) | (with_reducible apply State.putHop_torqueSafe) | (with_reducible apply State.takeAxes_torqueSafe) | (with_reducible apply State.takeDelivery_torqueSafe) | (with_reducible refine torqueSafe_ite ?_ ?_) | rfl | split)

theorem State.nodeCopy_torqueSafe (s : State) (r : Fin 4) (laneB : Bool) (arr : Int) (bs : List Byte) (h : s.TorqueSafe) :
    (State.nodeCopy s r laneB arr bs).TorqueSafe := by
  unfold State.nodeCopy
  dsimp only
  repeat' (first | with_reducible assumption | (with_reducible apply State.newCycle_torqueSafe) | (with_reducible apply State.putHop_torqueSafe) | (with_reducible apply State.ringError_torqueSafe) | (with_reducible apply State.settleCycle_torqueSafe) | (with_reducible apply State.takeCopy_torqueSafe) | (with_reducible refine torqueSafe_ite ?_ ?_) | rfl | split)

theorem State.takeRecords_torqueSafe (s : State) (r : Fin 4) (gen : Nat) (recs : List (List Byte)) (h : s.TorqueSafe) :
    (State.takeRecords s r gen recs).TorqueSafe := by
  unfold State.takeRecords
  dsimp only
  repeat' (first | with_reducible assumption | (with_reducible apply State.putHop_torqueSafe) | (with_reducible apply State.setRing_torqueSafe) | (with_reducible refine torqueSafe_ite ?_ ?_) | (with_reducible refine torqueSafe_foldl _ _ _ ?_ (fun s x hS => ?_)) | rfl | split)

theorem State.answerPoll_torqueSafe (s : State) (r : Fin 4) (laneB : Bool) (arr : Int) (h : s.TorqueSafe) :
    (State.answerPoll s r laneB arr).TorqueSafe := by
  exact h

theorem State.strayGen_torqueSafe (s : State) (r : Fin 4) (type gen : Nat) (h : s.TorqueSafe) :
    (State.strayGen s r type gen).TorqueSafe := by
  unfold State.strayGen
  repeat' (first | with_reducible assumption | (with_reducible apply State.ringError_torqueSafe) | (with_reducible refine torqueSafe_ite ?_ ?_) | rfl | split)

theorem State.deviceFrame_torqueSafe (s : State) (r : Fin 4) (laneB : Bool) (arr : Int) (bs : List Byte) (h : s.TorqueSafe) :
    (State.deviceFrame s r laneB arr bs).TorqueSafe := by
  unfold State.deviceFrame
  dsimp only
  repeat' (first | with_reducible assumption | (with_reducible apply State.answerPoll_torqueSafe) | (with_reducible apply State.hearDevice_torqueSafe) | (with_reducible apply State.pairTo_torqueSafe) | (with_reducible apply State.ringError_torqueSafe) | (with_reducible apply State.setRing_torqueSafe) | (with_reducible apply State.setTwin_torqueSafe) | (with_reducible apply State.strayGen_torqueSafe) | (with_reducible apply State.takeRecords_torqueSafe) | (with_reducible refine torqueSafe_ite ?_ ?_) | rfl | split)

theorem State.ownFrame_torqueSafe (s : State) (r : Fin 4) (arr : Int) (bs : List Byte) (h : s.TorqueSafe) :
    (State.ownFrame s r arr bs).TorqueSafe := by
  unfold State.ownFrame
  dsimp only
  repeat' (first | with_reducible assumption | (with_reducible apply State.setRing_torqueSafe) | (with_reducible apply State.takeCold_torqueSafe) | (with_reducible refine torqueSafe_ite ?_ ?_) | rfl | split)

theorem State.takeNodeFrame_torqueSafe (s : State) (r : Fin 4) (laneB : Bool) (arr : Int) (bs : List Byte) (h : s.TorqueSafe) :
    (State.takeNodeFrame s r laneB arr bs).TorqueSafe := by
  unfold State.takeNodeFrame
  dsimp only
  repeat' (first | with_reducible assumption | (with_reducible apply State.nodeCopy_torqueSafe) | (with_reducible apply State.ringError_torqueSafe) | (with_reducible apply State.setRing_torqueSafe) | (with_reducible refine torqueSafe_ite ?_ ?_) | rfl | split)

theorem State.endCmds_torqueSafe (s : State) (r : Fin 4) (h : s.TorqueSafe) :
    (State.endCmds s r).TorqueSafe := by
  unfold State.endCmds
  dsimp only
  repeat' (first | with_reducible assumption | (with_reducible apply State.setAxis_torqueSafe) | (with_reducible refine torqueSafe_foldOn _ _ _ ?_ (fun s x hS => ?_)) | rfl | split)

theorem State.sendService_torqueSafe (s : State) (r : Fin 4) (head : Nat) (seq : Word) (h : s.TorqueSafe) :
    (State.sendService s r head seq).TorqueSafe := by
  unfold State.sendService
  dsimp only
  repeat' (first | with_reducible assumption | (with_reducible apply State.sendCopies_torqueSafe) | (with_reducible apply State.setRing_torqueSafe) | (with_reducible refine torqueSafe_ite ?_ ?_) | rfl | split)

theorem State.checkReturn_torqueSafe (s : State) (r : Fin 4) (h : s.TorqueSafe) :
    (State.checkReturn s r).TorqueSafe := by
  unfold State.checkReturn
  dsimp only
  repeat' (first | with_reducible assumption | (with_reducible apply State.notice_torqueSafe) | (with_reducible apply State.setRing_torqueSafe) | (with_reducible refine torqueSafe_ite ?_ ?_) | (with_reducible refine torqueSafe_foldl _ _ _ ?_ (fun s x hS => ?_)) | rfl | split)

theorem State.sendSummary_torqueSafe (s : State) (r : Fin 4) (seq : Word) (h : s.TorqueSafe) :
    (State.sendSummary s r seq).TorqueSafe := by
  unfold State.sendSummary
  dsimp only
  repeat' (first | with_reducible assumption | (with_reducible apply State.sendBenjo_torqueSafe) | (with_reducible apply State.setRing_torqueSafe) | (with_reducible refine torqueSafe_ite ?_ ?_) | (with_reducible refine torqueSafe_foldl _ _ _ ?_ (fun s x hS => ?_)) | rfl | split)

theorem State.ringTick_torqueSafe (s : State) (r : Fin 4) (h : s.TorqueSafe) :
    (State.ringTick s r).TorqueSafe := by
  unfold State.ringTick
  dsimp only
  repeat' (first | with_reducible assumption | (with_reducible apply State.ringEmit_torqueSafe) | (with_reducible apply State.sendCold_torqueSafe) | (with_reducible apply State.sendConfig_torqueSafe) | (with_reducible apply State.sendService_torqueSafe) | (with_reducible apply State.setRing_torqueSafe) | (with_reducible refine torqueSafe_ite ?_ ?_) | (with_reducible refine torqueSafe_foldl _ _ _ ?_ (fun s x hS => ?_)) | rfl | split)

theorem State.announceRings_torqueSafe (s : State) (nc : Cell) (np : Placement) (at_ : Nat) (h : s.TorqueSafe) :
    (State.announceRings s nc np at_).TorqueSafe := by
  unfold State.announceRings
  dsimp only
  repeat' (first | with_reducible assumption | (with_reducible apply State.setRing_torqueSafe) | (with_reducible refine torqueSafe_ite ?_ ?_) | (with_reducible refine torqueSafe_foldOn _ _ _ ?_ (fun s x hS => ?_)) | rfl | split)

theorem State.activateRings_torqueSafe (s : State) (oc : Option Cell) (op : Placement) (h : s.TorqueSafe) :
    (State.activateRings s oc op).TorqueSafe := by
  unfold State.activateRings
  dsimp only
  repeat' (first | with_reducible assumption | (with_reducible apply State.removeNode_torqueSafe) | (with_reducible apply State.ringDown_torqueSafe) | (with_reducible apply State.ringListen_torqueSafe) | (with_reducible apply State.setRing_torqueSafe) | (with_reducible refine torqueSafe_ite ?_ ?_) | (with_reducible refine torqueSafe_foldOn _ _ _ ?_ (fun s x hS => ?_)) | (with_reducible refine torqueSafe_foldl _ _ _ ?_ (fun s x hS => ?_)) | rfl | split)

theorem State.readmitNodes_torqueSafe (s : State) (h : s.TorqueSafe) :
    (State.readmitNodes s).TorqueSafe := by
  unfold State.readmitNodes
  dsimp only
  repeat' (first | with_reducible assumption | (with_reducible apply State.finishTag_torqueSafe) | (with_reducible apply State.putHop_torqueSafe) | (with_reducible apply State.readmitPoints_torqueSafe) | (with_reducible apply State.setAxis_torqueSafe) | (with_reducible refine torqueSafe_ite ?_ ?_) | (with_reducible refine torqueSafe_foldOn _ _ _ ?_ (fun s x hS => ?_)) | (with_reducible refine torqueSafe_foldl _ _ _ ?_ (fun s x hS => ?_)) | rfl | split)

/-! ### Operations of Separation -/

theorem State.frameFails_torqueSafe (s : State) (node err : Nat) (h : s.TorqueSafe) :
    (State.frameFails s node err).TorqueSafe := by
  exact h

theorem State.checkLinks_torqueSafe (s : State) (h : s.TorqueSafe) :
    (State.checkLinks s).TorqueSafe := by
  unfold State.checkLinks
  dsimp only
  repeat' (first | with_reducible assumption | (with_reducible apply State.setSep_torqueSafe) | (with_reducible refine torqueSafe_ite ?_ ?_) | (with_reducible refine torqueSafe_foldl _ _ _ ?_ (fun s x hS => ?_)) | rfl | split)

theorem State.checkSources_torqueSafe (s : State) (h : s.TorqueSafe) :
    (State.checkSources s).TorqueSafe := by
  unfold State.checkSources
  dsimp only
  repeat' (first | with_reducible assumption | (with_reducible apply State.setSep_torqueSafe) | (with_reducible refine torqueSafe_ite ?_ ?_) | (with_reducible refine torqueSafe_foldl _ _ _ ?_ (fun s x hS => ?_)) | rfl | split)

theorem State.sepDecide_torqueSafe (s : State) (hb1 hb2 : Bool) (c : Fin 16) (h : s.TorqueSafe) :
    (State.sepDecide s hb1 hb2 c).TorqueSafe := by
  unfold State.sepDecide
  dsimp only
  repeat' (first | with_reducible assumption | (with_reducible apply State.setSep_torqueSafe) | (with_reducible apply State.stopIndex_torqueSafe) | (with_reducible refine torqueSafe_ite ?_ ?_) | (with_reducible refine torqueSafe_foldl _ _ _ ?_ (fun s x hS => ?_)) | rfl | split)

theorem State.writeCaps_torqueSafe (s : State) (h : s.TorqueSafe) :
    (State.writeCaps s).TorqueSafe := by
  unfold State.writeCaps
  dsimp only
  repeat' (first | with_reducible assumption | (with_reducible apply State.setSlot_torqueSafe) | (with_reducible refine torqueSafe_ite ?_ ?_) | (with_reducible refine torqueSafe_foldl _ _ _ ?_ (fun s x hS => ?_)) | rfl | split)

theorem State.activateLinks_torqueSafe (s : State) (old : Option Cell) (new : Cell) (h : s.TorqueSafe) :
    (State.activateLinks s old new).TorqueSafe := by
  unfold State.activateLinks
  dsimp only
  repeat' (first | with_reducible assumption | (with_reducible apply State.setSep_torqueSafe) | (with_reducible refine torqueSafe_ite ?_ ?_) | (with_reducible refine torqueSafe_foldOn _ _ _ ?_ (fun s x hS => ?_)) | (with_reducible refine torqueSafe_foldl _ _ _ ?_ (fun s x hS => ?_)) | rfl | split)

/-! ### Operations of Cells -/

theorem State.takeCell_torqueSafe (s : State) (p : Pkt) (kind : JobKind) (bs : List Byte) (h : s.TorqueSafe) :
    (State.takeCell s p kind bs).TorqueSafe := by
  unfold State.takeCell
  dsimp only
  repeat' (first | with_reducible assumption | (with_reducible apply State.finish_torqueSafe) | (with_reducible apply State.setCell_torqueSafe) | (with_reducible refine torqueSafe_ite ?_ ?_) | rfl | split)

theorem State.endJob_torqueSafe (s : State) (j : Job) (v : Verdict) (h : s.TorqueSafe) :
    (State.endJob s j v).TorqueSafe := by
  unfold State.endJob
  dsimp only
  repeat' (first | with_reducible assumption | (with_reducible apply State.dropJob_torqueSafe) | (with_reducible apply State.dropStaged_torqueSafe) | (with_reducible apply State.finishTag_torqueSafe) | (with_reducible apply State.sendHello_torqueSafe) | (with_reducible refine torqueSafe_ite ?_ ?_) | rfl | split)

theorem State.announceJob_torqueSafe (s : State) (j : Job) (h : s.TorqueSafe) :
    (State.announceJob s j).TorqueSafe := by
  unfold State.announceJob
  dsimp only
  repeat' (first | with_reducible assumption | (with_reducible apply State.announceRings_torqueSafe) | (with_reducible apply State.dropStaged_torqueSafe) | (with_reducible apply State.sendHello_torqueSafe) | (with_reducible apply State.setCell_torqueSafe) | (with_reducible apply State.stageProblems_torqueSafe) | (with_reducible apply State.withdrawSwap_torqueSafe) | (with_reducible refine torqueSafe_ite ?_ ?_) | rfl | split)

theorem State.reportShed_torqueSafe (s : State) (log : List (Nat × Verdict)) (h : s.TorqueSafe) :
    (State.reportShed s log).TorqueSafe := by
  unfold State.reportShed
  repeat' (first | with_reducible assumption | (with_reducible apply State.notice_torqueSafe) | (with_reducible refine torqueSafe_foldl _ _ _ ?_ (fun s x hS => ?_)) | rfl | split)

theorem State.takeOut_torqueSafe (s : State) (c : Nat) (h : s.TorqueSafe) :
    (State.takeOut s c).TorqueSafe := by
  unfold State.takeOut
  repeat' (first | with_reducible assumption | (with_reducible apply State.motionStop34_torqueSafe) | (with_reducible apply State.shedChain_torqueSafe) | rfl | split)

theorem State.placeRegrade_torqueSafe (s : State) (j : Job) (h : s.TorqueSafe) :
    (State.placeRegrade s j).TorqueSafe := by
  unfold State.placeRegrade
  dsimp only
  repeat' (first | with_reducible assumption | (with_reducible apply State.reportShed_torqueSafe) | (with_reducible apply State.sendHello_torqueSafe) | (with_reducible apply State.setCell_torqueSafe) | (with_reducible apply State.takeOut_torqueSafe) | (with_reducible apply State.withdrawSwap_torqueSafe) | (with_reducible refine torqueSafe_ite ?_ ?_) | (with_reducible refine torqueSafe_foldl _ _ _ ?_ (fun s x hS => ?_)) | rfl | split)

theorem State.placedJob_torqueSafe (s : State) (j : Job) (h : s.TorqueSafe) :
    (State.placedJob s j).TorqueSafe := by
  unfold State.placedJob
  dsimp only
  repeat' (first | with_reducible assumption | (with_reducible apply State.announceJob_torqueSafe) | (with_reducible apply State.endJob_torqueSafe) | (with_reducible apply State.setCell_torqueSafe) | (with_reducible apply State.setQueue_torqueSafe) | (with_reducible apply State.toPending_torqueSafe) | (with_reducible refine torqueSafe_ite ?_ ?_) | rfl | split)

theorem State.placeJob_torqueSafe (s : State) (j : Job) (h : s.TorqueSafe) :
    (State.placeJob s j).TorqueSafe := by
  unfold State.placeJob
  dsimp only
  repeat' (first | with_reducible assumption | (with_reducible apply State.announceJob_torqueSafe) | (with_reducible apply State.endJob_torqueSafe) | (with_reducible apply State.placedJob_torqueSafe) | (with_reducible apply State.reportShed_torqueSafe) | (with_reducible refine torqueSafe_ite ?_ ?_) | rfl | split)

theorem State.withdraw_torqueSafe (s : State) (j : Job) (h : s.TorqueSafe) :
    (State.withdraw s j).TorqueSafe := by
  unfold State.withdraw
  repeat' (first | with_reducible assumption | (with_reducible apply State.endJob_torqueSafe) | rfl | split)

theorem State.activateSolver_torqueSafe (s : State) (j : Job) (h : s.TorqueSafe) :
    (State.activateSolver s j).TorqueSafe := by
  unfold State.activateSolver
  dsimp only
  repeat' (first | with_reducible assumption | (with_reducible apply State.setSolver_torqueSafe) | (with_reducible apply State.stageProblems_torqueSafe) | (with_reducible refine torqueSafe_ite ?_ ?_) | (with_reducible refine torqueSafe_foldOn _ _ _ ?_ (fun s x hS => ?_)) | (with_reducible refine torqueSafe_foldl _ _ _ ?_ (fun s x hS => ?_)) | rfl | split)

theorem State.activateKernels_torqueSafe (s : State) (j : Job) (h : s.TorqueSafe) :
    (State.activateKernels s j).TorqueSafe := by
  unfold State.activateKernels
  dsimp only
  repeat' (first | with_reducible assumption | (with_reducible apply State.setTiles_torqueSafe) | (with_reducible refine torqueSafe_ite ?_ ?_) | (with_reducible refine torqueSafe_foldOn _ _ _ ?_ (fun s x hS => ?_)) | rfl | split)

theorem State.activateChains_torqueSafe (s : State) (had : Bool) (j : Job) (h : s.TorqueSafe) :
    (State.activateChains s had j).TorqueSafe := by
  unfold State.activateChains
  dsimp only
  repeat' (first | with_reducible assumption | (with_reducible apply State.enterBath_torqueSafe) | (with_reducible apply State.setMotion_torqueSafe) | (with_reducible refine torqueSafe_ite ?_ ?_) | (with_reducible refine torqueSafe_foldOn _ _ _ ?_ (fun s x hS => ?_)) | (with_reducible refine torqueSafe_foldl _ _ _ ?_ (fun s x hS => ?_)) | rfl | split)

theorem State.putInForce_torqueSafe (s : State) (j : Job) (h : s.TorqueSafe) :
    (State.putInForce s j).TorqueSafe := by
  unfold State.putInForce
  dsimp only
  repeat' (first | with_reducible assumption | (with_reducible apply State.activateChains_torqueSafe) | (with_reducible apply State.activateEngines_torqueSafe) | (with_reducible apply State.activateKernels_torqueSafe) | (with_reducible apply State.activateLinks_torqueSafe) | (with_reducible apply State.activateNibbles_torqueSafe) | (with_reducible apply State.activateRings_torqueSafe) | (with_reducible apply State.activateSolver_torqueSafe) | (with_reducible apply State.holdRemoved_torqueSafe) | (with_reducible apply State.setCell_torqueSafe) | (with_reducible apply State.takeOut_torqueSafe) | (with_reducible refine torqueSafe_ite ?_ ?_) | (with_reducible refine torqueSafe_foldl _ _ _ ?_ (fun s x hS => ?_)) | rfl | split)

theorem State.leavePair_torqueSafe (s : State) (h : s.TorqueSafe) :
    (State.leavePair s).TorqueSafe := by
  unfold State.leavePair
  dsimp only
  repeat' (first | with_reducible assumption | (with_reducible apply State.pairTo_torqueSafe) | (with_reducible apply State.setTwin_torqueSafe) | (with_reducible refine torqueSafe_ite ?_ ?_) | rfl | split)

theorem State.showPlaced_torqueSafe (s : State) (h : s.TorqueSafe) :
    (State.showPlaced s).TorqueSafe := by
  unfold State.showPlaced
  dsimp only
  repeat' (first | with_reducible assumption | (with_reducible apply State.sendHello_torqueSafe) | (with_reducible refine torqueSafe_ite ?_ ?_) | rfl | split)

theorem State.activateRegrade_torqueSafe (s : State) (j : Job) (h : s.TorqueSafe) :
    (State.activateRegrade s j).TorqueSafe := by
  unfold State.activateRegrade
  dsimp only
  repeat' (first | with_reducible assumption | (with_reducible apply State.leavePair_torqueSafe) | (with_reducible apply State.putInForce_torqueSafe) | (with_reducible apply State.setCell_torqueSafe) | (with_reducible apply State.showPlaced_torqueSafe) | (with_reducible refine torqueSafe_ite ?_ ?_) | rfl | split)

/-! ### Operations of Plan -/

theorem State.takeOver_torqueSafe (s : State) (h : s.TorqueSafe) :
    (State.takeOver s).TorqueSafe := by
  unfold State.takeOver
  dsimp only
  repeat' (first | with_reducible assumption | (with_reducible apply State.passSync_torqueSafe) | (with_reducible apply State.setTwin_torqueSafe) | (with_reducible refine torqueSafe_ite ?_ ?_) | rfl | split)

theorem State.enterBracket_torqueSafe (s : State) (h : s.TorqueSafe) :
    (State.enterBracket s).TorqueSafe := by
  unfold State.enterBracket
  dsimp only
  repeat' (first | with_reducible assumption | (with_reducible apply State.maskChanged_torqueSafe) | (with_reducible apply State.setTwin_torqueSafe) | (with_reducible refine torqueSafe_ite ?_ ?_) | rfl | split)

theorem State.applyCmds_torqueSafe (s : State) (m : MotionSt) (c : Fin 16) (h : s.TorqueSafe) :
    (State.applyCmds s m c).TorqueSafe := by
  unfold State.applyCmds
  dsimp only
  repeat' (first | with_reducible assumption | (with_reducible apply State.applyResume_torqueSafe) | (with_reducible apply State.applyStop_torqueSafe) | (with_reducible apply State.setChain_torqueSafe) | (with_reducible refine torqueSafe_ite ?_ ?_) | rfl | split)

theorem State.reachBarrier_torqueSafe (s : State) (c : Fin 16) (r : List Byte) (h : s.TorqueSafe) :
    (State.reachBarrier s c r).TorqueSafe := by
  unfold State.reachBarrier
  dsimp only
  repeat' (first | with_reducible assumption | (with_reducible apply State.segFault_torqueSafe) | (with_reducible apply State.setChain_torqueSafe) | (with_reducible refine torqueSafe_ite ?_ ?_) | (with_reducible refine torqueSafe_foldOn _ _ _ ?_ (fun s x hS => ?_)) | rfl | split)

theorem State.nextSegment_torqueSafe (s : State) (c : Fin 16) (t0 : Word) (h : s.TorqueSafe) :
    (State.nextSegment s c t0).TorqueSafe := by
  unfold State.nextSegment
  dsimp only
  repeat' (first | with_reducible assumption | (with_reducible apply State.reachBarrier_torqueSafe) | (with_reducible apply State.setChain_torqueSafe) | (with_reducible refine torqueSafe_ite ?_ ?_) | rfl | split)

theorem State.segmentDone_torqueSafe (s : State) (c : Fin 16) (held : Option (List Word)) (h : s.TorqueSafe) :
    (State.segmentDone s c held).TorqueSafe := by
  unfold State.segmentDone
  dsimp only
  repeat' (first | with_reducible assumption | (with_reducible apply State.nextSegment_torqueSafe) | (with_reducible apply State.setChain_torqueSafe) | (with_reducible refine torqueSafe_ite ?_ ?_) | rfl | split)

theorem State.replan_torqueSafe (s : State) (c : Fin 16) (r : ChainRec) (h : s.TorqueSafe) :
    (State.replan s c r).TorqueSafe := by
  unfold State.replan
  dsimp only
  repeat' (first | with_reducible assumption | (with_reducible apply State.setChain_torqueSafe) | (with_reducible refine torqueSafe_ite ?_ ?_) | rfl | split)

theorem State.moveFeed_torqueSafe (s : State) (c : Fin 16) (r : ChainRec) (h : s.TorqueSafe) :
    (State.moveFeed s c r).TorqueSafe := by
  exact h

theorem State.pathFault_torqueSafe (s : State) (c : Fin 16) (n : Nat) (h : s.TorqueSafe) :
    (State.pathFault s c n).TorqueSafe := by
  unfold State.pathFault
  dsimp only
  repeat' (first | with_reducible assumption | (with_reducible apply State.motionStop34_torqueSafe) | (with_reducible apply State.protect_torqueSafe) | (with_reducible apply State.segFault_torqueSafe) | (with_reducible refine torqueSafe_ite ?_ ?_) | rfl | split)

theorem State.runPath_torqueSafe (s : State) (c : Fin 16) (r : List Byte) (h : s.TorqueSafe) :
    (State.runPath s c r).TorqueSafe := by
  unfold State.runPath
  dsimp only
  repeat' (first | with_reducible assumption | (with_reducible apply State.notice_torqueSafe) | (with_reducible apply State.segFault_torqueSafe) | (with_reducible apply State.segmentDone_torqueSafe) | (with_reducible refine torqueSafe_ite ?_ ?_) | rfl | split)

theorem State.runChain_torqueSafe (s : State) (c : Fin 16) (h : ChainRec) (hP : s.TorqueSafe) :
    (State.runChain s c h).TorqueSafe := by
  unfold State.runChain
  dsimp only
  repeat' (first | with_reducible assumption | (with_reducible apply State.nextFree_torqueSafe) | (with_reducible apply State.nextSegment_torqueSafe) | (with_reducible apply State.pathFault_torqueSafe) | (with_reducible apply State.reachBarrier_torqueSafe) | (with_reducible apply State.replan_torqueSafe) | (with_reducible apply State.runPath_torqueSafe) | (with_reducible apply State.segmentDone_torqueSafe) | (with_reducible apply State.setChain_torqueSafe) | (with_reducible refine torqueSafe_ite ?_ ?_) | rfl | split)

theorem State.stageChain_torqueSafe (s : State) (c : Fin 16) (h : ChainRec) (hP : s.TorqueSafe) :
    (State.stageChain s c h).TorqueSafe := by
  unfold State.stageChain
  dsimp only
  repeat' (first | with_reducible assumption | (with_reducible apply State.moveFeed_torqueSafe) | (with_reducible apply State.nextSegment_torqueSafe) | (with_reducible apply State.runChain_torqueSafe) | (with_reducible apply State.setChain_torqueSafe) | (with_reducible refine torqueSafe_ite ?_ ?_) | rfl | split)

theorem State.releaseBarriers_torqueSafe (s : State) (h : s.TorqueSafe) :
    (State.releaseBarriers s).TorqueSafe := by
  unfold State.releaseBarriers
  dsimp only
  repeat' (first | with_reducible assumption | (with_reducible apply State.segmentDone_torqueSafe) | (with_reducible apply State.setChain_torqueSafe) | (with_reducible refine torqueSafe_ite ?_ ?_) | (with_reducible refine torqueSafe_foldOn _ _ _ ?_ (fun s x hS => ?_)) | rfl | split)

theorem State.releaseAll_torqueSafe (s : State) (h : s.TorqueSafe) :
    (State.releaseAll s).TorqueSafe := by
  unfold State.releaseAll
  repeat' (first | with_reducible assumption | (with_reducible apply State.releaseBarriers_torqueSafe) | (with_reducible refine torqueSafe_foldOn _ _ _ ?_ (fun s x hS => ?_)) | rfl | split)

theorem State.setForces_torqueSafe (s : State) (c : Fin 16) (h : s.TorqueSafe) :
    (State.setForces s c).TorqueSafe := by
  unfold State.setForces
  dsimp only
  repeat' (first | with_reducible assumption | (with_reducible apply State.setSlot_torqueSafe) | (with_reducible refine torqueSafe_ite ?_ ?_) | (with_reducible refine torqueSafe_foldl _ _ _ ?_ (fun s x hS => ?_)) | rfl | split)

theorem State.stageOne_torqueSafe (s : State) (c : Fin 16) (h : s.TorqueSafe) :
    (State.stageOne s c).TorqueSafe := by
  unfold State.stageOne
  repeat' (first | with_reducible assumption | (with_reducible apply State.stageChain_torqueSafe) | (with_reducible refine torqueSafe_ite ?_ ?_) | rfl | split)

theorem State.completeCmd_torqueSafe (s : State) (m : MotionCmd) (h : s.TorqueSafe) :
    (State.completeCmd s m).TorqueSafe := by
  unfold State.completeCmd
  dsimp only
  repeat' (first | with_reducible assumption | (with_reducible apply State.finishTag_torqueSafe) | (with_reducible refine torqueSafe_foldl _ _ _ ?_ (fun s x hS => ?_)) | rfl | split)

theorem State.newReferences_torqueSafe (s : State) (h : s.TorqueSafe) :
    (State.newReferences s).TorqueSafe := by
  exact h

/-! ### Operations of Dispatcher -/

theorem State.dispatch_torqueSafe (s : State) (h : s.TorqueSafe) :
    (State.dispatch s).TorqueSafe := by
  unfold State.dispatch
  dsimp only
  repeat' (first | with_reducible assumption | (with_reducible apply State.arbitrate_torqueSafe) | (with_reducible apply State.setDisp_torqueSafe) | (with_reducible refine torqueSafe_ite ?_ ?_) | (with_reducible refine torqueSafe_foldOn _ _ _ ?_ (fun s x hS => ?_)) | (with_reducible refine torqueSafe_foldl _ _ _ ?_ (fun s x hS => ?_)) | rfl | split)

theorem State.setMemcls_torqueSafe (s : State) (r : Fin 8) (cls : BitVec 2) (h : s.TorqueSafe) :
    (State.setMemcls s r cls).TorqueSafe := by
  exact h

theorem State.scrubbed_torqueSafe (s : State) (b unit n : Nat) (h : s.TorqueSafe) :
    (State.scrubbed s b unit n).TorqueSafe := by
  unfold State.scrubbed
  dsimp only
  repeat' (first | with_reducible assumption | (with_reducible apply State.corrected_torqueSafe) | (with_reducible apply State.setTile_torqueSafe) | (with_reducible refine torqueSafe_ite ?_ ?_) | (with_reducible refine torqueSafe_foldOn _ _ _ ?_ (fun s x hS => ?_)) | rfl | split)

theorem State.stepDone_torqueSafe (s : State) (i r : Nat) (h : s.TorqueSafe) :
    (State.stepDone s i r).TorqueSafe := by
  unfold State.stepDone
  dsimp only
  repeat' (first | with_reducible assumption | (with_reducible apply State.setArb_torqueSafe) | (with_reducible refine torqueSafe_ite ?_ ?_) | rfl | split)

/-! ### Operations of PageRead -/

theorem State.readSide_torqueSafe (s : State) (pg o : Nat) (h : s.TorqueSafe) :
    (State.readSide s pg o).TorqueSafe := by
  unfold State.readSide
  dsimp only
  repeat' (first | with_reducible assumption | (with_reducible apply State.canLock_torqueSafe) | (with_reducible apply State.canRelease_torqueSafe) | (with_reducible refine torqueSafe_ite ?_ ?_) | rfl | split)

theorem State.readSides_torqueSafe (s : State) (pg o n : Nat) (h : s.TorqueSafe) :
    (State.readSides s pg o n).TorqueSafe := by
  unfold State.readSides
  repeat' (first | with_reducible assumption | (with_reducible apply State.readSide_torqueSafe) | (with_reducible refine torqueSafe_foldOn _ _ _ ?_ (fun s x hS => ?_)) | rfl | split)

/-! ### Operations of PageWrite -/

theorem State.putHost_torqueSafe (s : State) (o : Nat) (w : Word) (h : s.TorqueSafe) :
    (State.putHost s o w).TorqueSafe := by
  unfold State.putHost
  dsimp only
  repeat' (first | with_reducible assumption | (with_reducible apply State.setHost_torqueSafe) | (with_reducible apply State.setQueue_torqueSafe) | (with_reducible refine torqueSafe_ite ?_ ?_) | rfl | split)

theorem State.putTime_torqueSafe (s : State) (o : Nat) (w : Word) (h : s.TorqueSafe) :
    (State.putTime s o w).TorqueSafe := by
  unfold State.putTime
  dsimp only
  repeat' (first | with_reducible assumption | (with_reducible apply State.setDomain_torqueSafe) | (with_reducible apply State.setSelect_torqueSafe) | (with_reducible apply State.setSource_torqueSafe) | (with_reducible apply State.setTime_torqueSafe) | (with_reducible apply State.syncOutLow_torqueSafe) | (with_reducible refine torqueSafe_ite ?_ ?_) | rfl | split)

theorem State.putMotion_torqueSafe (s : State) (o : Nat) (w : Word) (h : s.TorqueSafe) :
    (State.putMotion s o w).TorqueSafe := by
  unfold State.putMotion
  dsimp only
  repeat' (first | with_reducible assumption | (with_reducible apply State.setMotion_torqueSafe) | (with_reducible refine torqueSafe_ite ?_ ?_) | rfl | split)

theorem State.putLoop_torqueSafe (s : State) (k o : Nat) (w : Word) (h : s.TorqueSafe) :
    (State.putLoop s k o w).TorqueSafe := by
  unfold State.putLoop
  dsimp only
  repeat' (first | with_reducible assumption | (with_reducible apply State.setAxis_torqueSafe) | (with_reducible apply State.setEngine_torqueSafe) | (with_reducible apply State.setLoops_torqueSafe) | (with_reducible refine torqueSafe_ite ?_ ?_) | rfl | split)

theorem State.putSlotWord_torqueSafe (s : State) (e k : Nat) (pg o : Nat) (v : Word) (h : s.TorqueSafe) :
    (State.putSlotWord s e k pg o v).TorqueSafe := by
  unfold State.putSlotWord
  dsimp only
  repeat' (first | with_reducible assumption | (with_reducible apply State.setSlot_torqueSafe) | (with_reducible refine torqueSafe_ite ?_ ?_) | (with_reducible refine torqueSafe_foldl _ _ _ ?_ (fun s x hS => ?_)) | rfl | split)

theorem State.putSolver_torqueSafe (s : State) (k o : Nat) (w : Word) (h : s.TorqueSafe) :
    (State.putSolver s k o w).TorqueSafe := by
  unfold State.putSolver
  dsimp only
  repeat' (first | with_reducible assumption | (with_reducible apply State.setSolve_torqueSafe) | (with_reducible apply State.setSolver_torqueSafe) | (with_reducible refine torqueSafe_ite ?_ ?_) | rfl | split)

theorem State.putTiles_torqueSafe (s : State) (k o : Nat) (w : Word) (h : s.TorqueSafe) :
    (State.putTiles s k o w).TorqueSafe := by
  unfold State.putTiles
  dsimp only
  repeat' (first | with_reducible assumption | (with_reducible apply State.setKernel_torqueSafe) | (with_reducible apply State.setTile_torqueSafe) | (with_reducible apply State.setTiles_torqueSafe) | (with_reducible refine torqueSafe_ite ?_ ?_) | rfl | split)

theorem State.putDisp_torqueSafe (s : State) (o : Nat) (w : Word) (h : s.TorqueSafe) :
    (State.putDisp s o w).TorqueSafe := by
  unfold State.putDisp
  dsimp only
  repeat' (first | with_reducible assumption | (with_reducible apply State.setDisp_torqueSafe) | (with_reducible apply State.setMemcls_torqueSafe) | (with_reducible refine torqueSafe_ite ?_ ?_) | rfl | split)

theorem State.putNibbles_torqueSafe (s : State) (o : Nat) (w : Word) (h : s.TorqueSafe) :
    (State.putNibbles s o w).TorqueSafe := by
  unfold State.putNibbles
  dsimp only
  repeat' (first | with_reducible assumption | (with_reducible apply State.setNibble_torqueSafe) | (with_reducible apply State.setWindow_torqueSafe) | rfl | split)

theorem State.putSafety_torqueSafe (s : State) (o : Nat) (w v : Word) (h : s.TorqueSafe) :
    (State.putSafety s o w v).TorqueSafe := by
  unfold State.putSafety
  dsimp only
  repeat' (first | with_reducible assumption | (with_reducible apply State.requestBrakeTests_torqueSafe) | (with_reducible apply State.setSafety_torqueSafe) | (with_reducible refine torqueSafe_ite ?_ ?_) | rfl | split)

theorem State.putSep_torqueSafe (s : State) (o : Nat) (w : Word) (h : s.TorqueSafe) :
    (State.putSep s o w).TorqueSafe := by
  unfold State.putSep
  dsimp only
  repeat' (first | with_reducible assumption | (with_reducible apply State.setSep_torqueSafe) | (with_reducible refine torqueSafe_ite ?_ ?_) | rfl | split)

theorem State.putLink_torqueSafe (s : State) (n k : Nat) (w : Word) (h : s.TorqueSafe) :
    (State.putLink s n k w).TorqueSafe := by
  unfold State.putLink
  dsimp only
  repeat' (first | with_reducible assumption | (with_reducible apply State.setSep_torqueSafe) | (with_reducible refine torqueSafe_ite ?_ ?_) | rfl | split)

theorem State.putCan_torqueSafe (s : State) (n : Fin 4) (o : Nat) (w v : Word) (h : s.TorqueSafe) :
    (State.putCan s n o w v).TorqueSafe := by
  unfold State.putCan
  dsimp only
  repeat' (first | with_reducible assumption | (with_reducible apply State.setCanCtrl_torqueSafe) | (with_reducible apply State.setCanN_torqueSafe) | (with_reducible refine torqueSafe_ite ?_ ?_) | rfl | split)

theorem State.putPower_torqueSafe (s : State) (o : Nat) (w : Word) (h : s.TorqueSafe) :
    (State.putPower s o w).TorqueSafe := by
  unfold State.putPower
  dsimp only
  repeat' (first | with_reducible assumption | (with_reducible apply State.setSys_torqueSafe) | (with_reducible refine torqueSafe_ite ?_ ?_) | rfl | split)

theorem State.putTrace_torqueSafe (s : State) (o : Nat) (w v : Word) (h : s.TorqueSafe) :
    (State.putTrace s o w v).TorqueSafe := by
  unfold State.putTrace
  dsimp only
  repeat' (first | with_reducible assumption | (with_reducible apply State.armTrace_torqueSafe) | (with_reducible apply State.setEngine_torqueSafe) | (with_reducible refine torqueSafe_ite ?_ ?_) | rfl | split)

theorem State.putFault_torqueSafe (s : State) (w : Word) (h : s.TorqueSafe) :
    (State.putFault s w).TorqueSafe := by
  exact h

theorem State.putWord_torqueSafe (s : State) (pg o : Nat) (v : Word) (h : s.TorqueSafe) :
    (State.putWord s pg o v).TorqueSafe := by
  unfold State.putWord
  dsimp only
  repeat' (first | with_reducible assumption | (with_reducible apply State.canBuf_torqueSafe) | (with_reducible apply State.putCan_torqueSafe) | (with_reducible apply State.putDisp_torqueSafe) | (with_reducible apply State.putFault_torqueSafe) | (with_reducible apply State.putHost_torqueSafe) | (with_reducible apply State.putLink_torqueSafe) | (with_reducible apply State.putLoop_torqueSafe) | (with_reducible apply State.putMotion_torqueSafe) | (with_reducible apply State.putNibbles_torqueSafe) | (with_reducible apply State.putPower_torqueSafe) | (with_reducible apply State.putSafety_torqueSafe) | (with_reducible apply State.putSep_torqueSafe) | (with_reducible apply State.putSlotWord_torqueSafe) | (with_reducible apply State.putSolver_torqueSafe) | (with_reducible apply State.putTiles_torqueSafe) | (with_reducible apply State.putTime_torqueSafe) | (with_reducible apply State.putTrace_torqueSafe) | (with_reducible apply State.setRgCtrl_torqueSafe) | (with_reducible apply State.setRing_torqueSafe) | (with_reducible apply State.setSys_torqueSafe) | (with_reducible apply State.setTwin_torqueSafe) | (with_reducible refine torqueSafe_ite ?_ ?_) | rfl | split)

theorem State.putWords_torqueSafe (s : State) (pg : Nat) (ws : List (Nat × Word)) (h : s.TorqueSafe) :
    (State.putWords s pg ws).TorqueSafe := by
  unfold State.putWords
  repeat' (first | with_reducible assumption | (with_reducible apply State.putWord_torqueSafe) | (with_reducible refine torqueSafe_foldl _ _ _ ?_ (fun s x hS => ?_)) | rfl | split)

theorem State.commitBcfg_torqueSafe (s : State) (words : List Word) (slot : Nat) (h : s.TorqueSafe) :
    (State.commitBcfg s words slot).TorqueSafe := by
  exact h

theorem State.storeBcfg_torqueSafe (s : State) (h : s.TorqueSafe) :
    (State.storeBcfg s).TorqueSafe := by
  unfold State.storeBcfg
  dsimp only
  repeat' (first | with_reducible assumption | (with_reducible apply State.commitBcfg_torqueSafe) | (with_reducible apply State.setSys_torqueSafe) | (with_reducible refine torqueSafe_ite ?_ ?_) | rfl | split)

theorem State.latchEnabled_torqueSafe (s : State) (old : Vector QueueSt 16) (h : s.TorqueSafe) :
    (State.latchEnabled s old).TorqueSafe := by
  unfold State.latchEnabled
  dsimp only
  repeat' (first | with_reducible assumption | (with_reducible apply State.setQueue_torqueSafe) | (with_reducible refine torqueSafe_ite ?_ ?_) | (with_reducible refine torqueSafe_foldOn _ _ _ ?_ (fun s x hS => ?_)) | rfl | split)

theorem State.writeWords_torqueSafe (s : State) (pg : Nat) (ws : List (Nat × Word)) (h : s.TorqueSafe) :
    (State.writeWords s pg ws).TorqueSafe := by
  unfold State.writeWords
  dsimp only
  repeat' (first | with_reducible assumption | (with_reducible apply State.latchDue_torqueSafe) | (with_reducible apply State.latchEnabled_torqueSafe) | (with_reducible apply State.putWords_torqueSafe) | (with_reducible apply State.storeBcfg_torqueSafe) | (with_reducible refine torqueSafe_ite ?_ ?_) | rfl | split)

theorem State.writeResets_torqueSafe (s : State) (pg : Nat) (ws : List (Nat × Word)) (by_ : Option (Nat × Nat)) (h : s.TorqueSafe) :
    (State.writeResets s pg ws by_).TorqueSafe := by
  unfold State.writeResets
  dsimp only
  repeat' (first | with_reducible assumption | (with_reducible apply State.finishTag_torqueSafe) | (with_reducible apply State.setQueue_torqueSafe) | (with_reducible apply State.startReset_torqueSafe) | (with_reducible refine torqueSafe_ite ?_ ?_) | (with_reducible refine torqueSafe_foldl _ _ _ ?_ (fun s x hS => ?_)) | rfl | split)

/-! ### Operations of SafetyCycle -/

theorem State.commitSafety_torqueSafe (s : State) (q tag : Nat) (w0 : Word) (h : s.TorqueSafe) :
    (State.commitSafety s q tag w0).TorqueSafe := by
  unfold State.commitSafety
  dsimp only
  repeat' (first | with_reducible assumption | (with_reducible apply State.finishTag_torqueSafe) | (with_reducible apply State.setSys_torqueSafe) | rfl | split)

theorem State.configChanged_torqueSafe (s : State) (q tag : Nat) (w0 : Word) (h : s.TorqueSafe) :
    (State.configChanged s q tag w0).TorqueSafe := by
  unfold State.configChanged
  dsimp only
  repeat' (first | with_reducible assumption | (with_reducible apply State.commitSafety_torqueSafe) | (with_reducible apply State.enterBath_torqueSafe) | (with_reducible apply State.setSafety_torqueSafe) | (with_reducible apply State.setSys_torqueSafe) | (with_reducible refine torqueSafe_ite ?_ ?_) | rfl | split)

theorem State.toGate_torqueSafe (s : State) (p : Pkt) (h : s.TorqueSafe) :
    (State.toGate s p).TorqueSafe := by
  unfold State.toGate
  repeat' (first | with_reducible assumption | (with_reducible apply State.setQueue_torqueSafe) | (with_reducible apply State.toPending_torqueSafe) | (with_reducible refine torqueSafe_ite ?_ ?_) | rfl | split)

theorem State.putSafe_torqueSafe (s : State) (r : SafeRec) (h : s.TorqueSafe) :
    (State.putSafe s r).TorqueSafe := by
  unfold State.putSafe
  dsimp only
  repeat' (first | with_reducible assumption | (with_reducible apply State.setIndex_torqueSafe) | (with_reducible apply State.setSafety_torqueSafe) | (with_reducible apply State.setSep_torqueSafe) | (with_reducible refine torqueSafe_ite ?_ ?_) | rfl | split)

theorem SafetySt.assigns_keep (l : List Nat) (f : SafetySt) (a b : Nat → Nat) (v : Nat → Bool) :
    let g := l.foldl (fun f i => f.assign (a i) (b i) (v i)) f
    g.index = f.index ∧ g.en1 = f.en1 ∧ g.en2 = f.en2 := by
  induction l generalizing f with
  | nil => exact ⟨rfl, rfl, rfl⟩
  | cons i r ih => exact ih (f.assign (a i) (b i) (v i))

theorem State.applySafe_torqueSafe (s : State) (p : Pkt) (h : s.TorqueSafe) : (State.applySafe s p).TorqueSafe := by
  unfold State.applySafe
  try dsimp only
  repeat' (first | with_reducible assumption | (with_reducible apply State.configChanged_torqueSafe) | (with_reducible apply State.putSafe_torqueSafe) | (with_reducible apply State.setSafety_torqueSafe) | (with_reducible refine torqueSafe_ite ?_ ?_) | (with_reducible refine torqueSafe_foldl _ _ _ ?_ (fun s x hS => ?_)) | rfl | split | exact (SafetySt.assigns_keep _ _ _ _ _).1 | exact (SafetySt.assigns_keep _ _ _ _ _).2.1 | exact (SafetySt.assigns_keep _ _ _ _ _).2.2)

theorem State.applySafes_torqueSafe (s : State) (h : s.TorqueSafe) :
    (State.applySafes s).TorqueSafe := by
  unfold State.applySafes
  dsimp only
  repeat' (first | with_reducible assumption | (with_reducible apply State.applySafe_torqueSafe) | (with_reducible refine torqueSafe_foldl _ _ _ ?_ (fun s x hS => ?_)) | rfl | split)

theorem State.heartbeats_torqueSafe (s : State) (hb1 hb2 digestsEqual : Bool) (h : s.TorqueSafe) :
    (State.heartbeats s hb1 hb2 digestsEqual).TorqueSafe := by
  unfold State.heartbeats
  dsimp only
  repeat' (first | with_reducible assumption | (with_reducible apply State.dropBrakes_torqueSafe) | (with_reducible apply State.enterBath_torqueSafe) | (with_reducible apply State.setSafety_torqueSafe) | (with_reducible refine torqueSafe_ite ?_ ?_) | rfl | split)

theorem State.adoptDemands_torqueSafe (s : State) (p : Option PeerSafety) (h : s.TorqueSafe) :
    (State.adoptDemands s p).TorqueSafe := by
  unfold State.adoptDemands
  dsimp only
  repeat' (first | with_reducible assumption | (with_reducible apply State.stopIndex_torqueSafe) | (with_reducible refine torqueSafe_ite ?_ ?_) | (with_reducible refine torqueSafe_foldOn _ _ _ ?_ (fun s x hS => ?_)) | rfl | split)

theorem State.judgePaired_torqueSafe (s : State) (h : s.TorqueSafe) :
    (State.judgePaired s).TorqueSafe := by
  unfold State.judgePaired
  try dsimp only
  repeat' (first | with_reducible assumption | (with_reducible apply State.judgeReset_torqueSafe) | (with_reducible apply State.refuseReset_torqueSafe) | (with_reducible apply State.sendBenjo_torqueSafe) | (with_reducible apply State.setSafety_torqueSafe) | (with_reducible apply State.setTwin_torqueSafe) | (with_reducible refine torqueSafe_ite ?_ ?_) | (with_reducible refine torqueSafe_foldl _ _ _ ?_ (fun s x hS => ?_)) | rfl | split | exact (SafetySt.pressTaken_keeps _).1 | exact (SafetySt.pressTaken_keeps _).2.1 | exact (SafetySt.pressTaken_keeps _).2.2)

theorem State.sepBoundary_torqueSafe (s : State) (hb1 hb2 : Bool) (h : s.TorqueSafe) :
    (State.sepBoundary s hb1 hb2).TorqueSafe := by
  unfold State.sepBoundary
  repeat' (first | with_reducible assumption | (with_reducible apply State.sepDecide_torqueSafe) | (with_reducible apply State.writeCaps_torqueSafe) | (with_reducible refine torqueSafe_ite ?_ ?_) | (with_reducible refine torqueSafe_foldOn _ _ _ ?_ (fun s x hS => ?_)) | rfl | split)

/-! ### Operations of Sys -/

theorem State.holdReset_torqueSafe (s : State) (cause : Nat) (fast : Bool) (h : s.TorqueSafe) :
    (State.holdReset s cause fast).TorqueSafe := by
  intro c hc
  have h1 : (s.holdReset cause fast).safety.en1 = 0 := rfl
  have h2 : (s.holdReset cause fast).safety.en2 = 0 := rfl
  rw [h1, h2] at hc
  simp at hc

theorem State.channelStarts_torqueSafe (s : State) (ch : Fin 2) (h : s.TorqueSafe) :
    (State.channelStarts s ch).TorqueSafe := by
  unfold State.channelStarts
  dsimp only
  repeat' (first | with_reducible assumption | (with_reducible apply State.setSafety_torqueSafe) | rfl | split)

theorem State.commitWrite_torqueSafe (s : State) (w : FlashWrite) (h : s.TorqueSafe) :
    (State.commitWrite s w).TorqueSafe := by
  unfold State.commitWrite
  dsimp only
  repeat' (first | with_reducible assumption | (with_reducible apply State.commitBcfg_torqueSafe) | (with_reducible apply State.commitSafety_torqueSafe) | (with_reducible apply State.finishTag_torqueSafe) | (with_reducible apply State.setSys_torqueSafe) | (with_reducible refine torqueSafe_ite ?_ ?_) | (with_reducible refine torqueSafe_foldl _ _ _ ?_ (fun s x hS => ?_)) | rfl | split)

theorem State.flashWrite_torqueSafe (s : State) (w : FlashWrite) (h : s.TorqueSafe) :
    (State.flashWrite s w).TorqueSafe := by
  unfold State.flashWrite
  dsimp only
  repeat' (first | with_reducible assumption | (with_reducible apply State.commitWrite_torqueSafe) | (with_reducible apply State.setSys_torqueSafe) | (with_reducible refine torqueSafe_ite ?_ ?_) | rfl | split)

/-! ### Operations of Presence -/

theorem State.accept_torqueSafe (s : State) (p : Pkt) (h : s.TorqueSafe) :
    (State.accept s p).TorqueSafe := by
  unfold State.accept
  dsimp only
  repeat' (first | with_reducible assumption | (with_reducible apply State.announceJob_torqueSafe) | (with_reducible apply State.flashWrite_torqueSafe) | (with_reducible apply State.setCell_torqueSafe) | (with_reducible apply State.setQueue_torqueSafe) | (with_reducible apply State.setTwin_torqueSafe) | (with_reducible refine torqueSafe_ite ?_ ?_) | rfl | split)

/-! ### Operations of Twin -/

theorem State.giveHeads_torqueSafe (s : State) (h : s.TorqueSafe) :
    (State.giveHeads s).TorqueSafe := by
  exact h

theorem State.formPair_torqueSafe (s : State) (active : Bool) (h : s.TorqueSafe) :
    (State.formPair s active).TorqueSafe := by
  unfold State.formPair
  dsimp only
  repeat' (first | with_reducible assumption | (with_reducible apply State.giveHeads_torqueSafe) | (with_reducible apply State.pairTo_torqueSafe) | (with_reducible apply State.setCell_torqueSafe) | (with_reducible apply State.setTwin_torqueSafe) | (with_reducible refine torqueSafe_ite ?_ ?_) | rfl | split)

theorem State.takeHello_torqueSafe (s : State) (b : List Byte) (h : s.TorqueSafe) :
    (State.takeHello s b).TorqueSafe := by
  unfold State.takeHello
  dsimp only
  repeat' (first | with_reducible assumption | (with_reducible apply State.confirmAll_torqueSafe) | (with_reducible apply State.diverge_torqueSafe) | (with_reducible apply State.formPair_torqueSafe) | (with_reducible apply State.pairTo_torqueSafe) | (with_reducible apply State.setTwin_torqueSafe) | (with_reducible apply State.takeHeads_torqueSafe) | (with_reducible refine torqueSafe_ite ?_ ?_) | rfl | split)

theorem State.takeResults_torqueSafe (s : State) (r : Fin 4) (bs : List Byte) (h : s.TorqueSafe) :
    (State.takeResults s r bs).TorqueSafe := by
  unfold State.takeResults
  dsimp only
  repeat' (first | with_reducible assumption | (with_reducible apply State.closeCycle_torqueSafe) | (with_reducible apply State.closePrev_torqueSafe) | (with_reducible apply State.putHop_torqueSafe) | (with_reducible refine torqueSafe_ite ?_ ?_) | (with_reducible refine torqueSafe_foldl _ _ _ ?_ (fun s x hS => ?_)) | rfl | split)

theorem State.takeSlot_torqueSafe (s : State) (r : Fin 4) (seq : Word) (b : List Byte) (h : s.TorqueSafe) :
    (State.takeSlot s r seq b).TorqueSafe := by
  unfold State.takeSlot
  dsimp only
  repeat' (first | with_reducible assumption | (with_reducible apply State.setSlot_torqueSafe) | (with_reducible apply State.setTwin_torqueSafe) | (with_reducible refine torqueSafe_ite ?_ ?_) | rfl | split)

theorem State.takePeerDelivery_torqueSafe (s : State) (seq : Word) (bs : List Byte) (h : s.TorqueSafe) :
    (State.takePeerDelivery s seq bs).TorqueSafe := by
  unfold State.takePeerDelivery
  repeat' (first | with_reducible assumption | (with_reducible apply State.takeDelivery_torqueSafe) | rfl | split)

theorem State.takeSummary_torqueSafe (s : State) (b : List Byte) (h : s.TorqueSafe) :
    (State.takeSummary s b).TorqueSafe := by
  unfold State.takeSummary
  dsimp only
  repeat' (first | with_reducible assumption | (with_reducible apply State.sendDigest_torqueSafe) | (with_reducible apply State.setTwin_torqueSafe) | (with_reducible apply State.takePeerDelivery_torqueSafe) | (with_reducible apply State.takeResults_torqueSafe) | (with_reducible apply State.takeSlot_torqueSafe) | (with_reducible refine torqueSafe_ite ?_ ?_) | (with_reducible refine torqueSafe_foldl _ _ _ ?_ (fun s x hS => ?_)) | rfl | split)

theorem State.takeDigest_torqueSafe (s : State) (b : List Byte) (h : s.TorqueSafe) :
    (State.takeDigest s b).TorqueSafe := by
  unfold State.takeDigest
  dsimp only
  repeat' (first | with_reducible assumption | (with_reducible apply State.diverge_torqueSafe) | (with_reducible apply State.setTwin_torqueSafe) | (with_reducible refine torqueSafe_ite ?_ ?_) | rfl | split)

theorem State.takeSolve_torqueSafe (s : State) (b : List Byte) (h : s.TorqueSafe) :
    (State.takeSolve s b).TorqueSafe := by
  unfold State.takeSolve
  dsimp only
  repeat' (first | with_reducible assumption | (with_reducible apply State.diverge_torqueSafe) | (with_reducible apply State.setTwin_torqueSafe) | (with_reducible apply State.takeBack_torqueSafe) | (with_reducible refine torqueSafe_ite ?_ ?_) | rfl | split)

theorem State.takeSafety_torqueSafe (s : State) (b : List Byte) (h : s.TorqueSafe) :
    (State.takeSafety s b).TorqueSafe := by
  exact h

theorem State.takeCan_torqueSafe (s : State) (b : List Byte) (h : s.TorqueSafe) :
    (State.takeCan s b).TorqueSafe := by
  unfold State.takeCan
  dsimp only
  repeat' (first | with_reducible assumption | (with_reducible apply State.canBuf_torqueSafe) | (with_reducible apply State.canConfine_torqueSafe) | (with_reducible apply State.endTx_torqueSafe) | (with_reducible apply State.setCanN_torqueSafe) | (with_reducible refine torqueSafe_ite ?_ ?_) | rfl | split)

theorem State.dropPartner_torqueSafe (s : State) (q : Fin 16) (p : Pkt) (h : s.TorqueSafe) :
    (State.dropPartner s q p).TorqueSafe := by
  unfold State.dropPartner
  repeat' (first | with_reducible assumption | (with_reducible apply State.dropJob_torqueSafe) | (with_reducible apply State.dropTag_torqueSafe) | (with_reducible refine torqueSafe_ite ?_ ?_) | rfl | split)

theorem State.takeCommand_torqueSafe (s : State) (b : List Byte) (h : s.TorqueSafe) :
    (State.takeCommand s b).TorqueSafe := by
  unfold State.takeCommand
  dsimp only
  repeat' (first | with_reducible assumption | (with_reducible apply State.accept_torqueSafe) | (with_reducible apply State.dropDelivered_torqueSafe) | (with_reducible apply State.dropPartner_torqueSafe) | (with_reducible apply State.sendBenjo_torqueSafe) | (with_reducible apply State.setQueue_torqueSafe) | (with_reducible apply State.takeCan_torqueSafe) | (with_reducible refine torqueSafe_ite ?_ ?_) | rfl | split)

theorem State.laneError_torqueSafe (s : State) (lane : Fin 2) (h : s.TorqueSafe) :
    (State.laneError s lane).TorqueSafe := by
  exact h

theorem State.laneUp_torqueSafe (s : State) (lane : Fin 2) (h : s.TorqueSafe) :
    (State.laneUp s lane).TorqueSafe := by
  unfold State.laneUp
  dsimp only
  repeat' (first | with_reducible assumption | (with_reducible apply State.sendHello_torqueSafe) | (with_reducible apply State.setTwin_torqueSafe) | (with_reducible refine torqueSafe_ite ?_ ?_) | rfl | split)

theorem State.takeBenjo_torqueSafe (s : State) (type : Nat) (b : List Byte) (h : s.TorqueSafe) :
    (State.takeBenjo s type b).TorqueSafe := by
  unfold State.takeBenjo
  dsimp only
  repeat' (first | with_reducible assumption | (with_reducible apply State.correctPhase_torqueSafe) | (with_reducible apply State.setTwin_torqueSafe) | (with_reducible apply State.takeCommand_torqueSafe) | (with_reducible apply State.takeDigest_torqueSafe) | (with_reducible apply State.takeHello_torqueSafe) | (with_reducible apply State.takeSafety_torqueSafe) | (with_reducible apply State.takeSolve_torqueSafe) | (with_reducible apply State.takeSummary_torqueSafe) | (with_reducible refine torqueSafe_ite ?_ ?_) | rfl | split)

theorem State.dropCell_torqueSafe (s : State) (h : s.TorqueSafe) :
    (State.dropCell s).TorqueSafe := by
  unfold State.dropCell
  dsimp only
  repeat' (first | with_reducible assumption | (with_reducible apply State.ringDown_torqueSafe) | (with_reducible apply State.setCell_torqueSafe) | (with_reducible apply State.setLoops_torqueSafe) | (with_reducible apply State.setMotion_torqueSafe) | (with_reducible apply State.setNibble_torqueSafe) | (with_reducible apply State.setSolver_torqueSafe) | (with_reducible refine torqueSafe_foldOn _ _ _ ?_ (fun s x hS => ?_)) | rfl | split)

theorem State.survive_torqueSafe (s : State) (h : s.TorqueSafe) :
    (State.survive s).TorqueSafe := by
  unfold State.survive
  dsimp only
  repeat' (first | with_reducible assumption | (with_reducible apply State.dropPartner_torqueSafe) | (with_reducible apply State.dropTag_torqueSafe) | (with_reducible apply State.pairTo_torqueSafe) | (with_reducible apply State.setTwin_torqueSafe) | (with_reducible apply State.settleCancels_torqueSafe) | (with_reducible refine torqueSafe_ite ?_ ?_) | (with_reducible refine torqueSafe_foldl _ _ _ ?_ (fun s x hS => ?_)) | rfl | split)

theorem State.ownResult_torqueSafe (s : State) (own : Option Bool) (h : s.TorqueSafe) :
    (State.ownResult s own).TorqueSafe := by
  unfold State.ownResult
  dsimp only
  repeat' (first | with_reducible assumption | (with_reducible apply State.sendBenjo_torqueSafe) | (with_reducible apply State.setTwin_torqueSafe) | (with_reducible refine torqueSafe_ite ?_ ?_) | rfl | split)

theorem State.announceSwap_torqueSafe (s : State) (tick : Nat) (h : s.TorqueSafe) :
    (State.announceSwap s tick).TorqueSafe := by
  exact h

theorem State.adopt_torqueSafe (s t : State) : (s.adopt t).TorqueSafe := by
  exact State.driveAll_safe _

/-! ### Operations of Cycle -/

theorem State.byItself_torqueSafe (s : State) (h : s.TorqueSafe) :
    (State.byItself s).TorqueSafe := by
  unfold State.byItself
  repeat' (first | with_reducible assumption | (with_reducible apply State.dispatch_torqueSafe) | (with_reducible apply State.ptpSends_torqueSafe) | (with_reducible apply State.ringTick_torqueSafe) | (with_reducible apply State.sendIdle_torqueSafe) | (with_reducible apply State.sendState_torqueSafe) | (with_reducible apply State.sendTime_torqueSafe) | (with_reducible refine torqueSafe_foldOn _ _ _ ?_ (fun s x hS => ?_)) | rfl | split)

theorem State.cycle_torqueSafe (s : State) (h : s.TorqueSafe) :
    (State.cycle s).TorqueSafe := by
  unfold State.cycle
  repeat' (first | with_reducible assumption | (with_reducible apply State.byItself_torqueSafe) | (with_reducible apply State.tick_torqueSafe) | rfl | split)

end Sys2Proof.Machine
end

