-- ==== Sys2Proof/WellFormed.lean ====
section
/-! DEFINITION. Which commands are well formed: the bounds that the spec puts on an operand and that its type does not
already hold. -/

namespace Sys2Proof

/-- The data bytes that a CAN DLC stands for (R385). -/
def dlcLength (d : Nat) : Nat := if d ≤ 8 then d else ([12, 16, 20, 24, 32, 48, 64] : List Nat).getD (d - 9) 64

/-- A CAN frame that a bus can carry: standard identifiers have 11 bits, a remote frame is classic, bit rate switching and
more than 8 bytes are CAN FD, and the data has the length of the DLC (R385, R386). -/
def CanFrame.wf (f : CanFrame) : Bool :=
  (f.ext || decide (f.id.toNat < 2 ^ 11)) && !(f.rtr && f.fd) && (f.fd || (!f.brs && decide (f.dlc.val ≤ 8))) &&
    f.data.length == dlcLength f.dlc.val

/-- A command keeps the bounds of its operands. -/
def Instr.wf (i : Instr) : Bool :=
  match i with
  | .sqDoorbell _ tail mem => decide (tail % 64 = 0) && decide (tail < 2 ^ 24) && decide (mem.length % 64 = 0)
  | .cqDoorbell _ head => decide (head % 64 = 0) && decide (head < 2 ^ 24)
  | .udpDatagram _ src dstPort data =>
    decide (src.port < 65536) && decide (dstPort < 65536) && decide (data.length ≤ 8972)
  | .debugSpiTransaction req _ => decide (req.length ≤ 1033)
  | .loopBatch node => decide (node < 1016)
  | .safetyFrame node _ bytes => decide (node < 1016) && decide (bytes.length ≤ 1472)
  | .rangeRsp _ _ _ _ frame => decide (frame.length ≤ 1500)
  | .slotLostDeadline _ hop => decide (1 ≤ hop) && decide (hop ≤ 254)
  | .nodeFrame _ _ _ _ frame => decide (frame.length ≤ 1500)
  | .coldstart _ _ _ frame => decide (frame.length ≤ 1500)
  | .tbCtrlSource src => decide (src ≠ 3)
  | .npDev window => decide (2 ≤ window.toNat) && decide (window.toNat ≤ 200)
  | .arbitrationRound _ reqs _ => decide reqs.Nodup
  | .canFrameReceived _ f _ => f.wf
  | .canBusError _ _ lec => decide (lec.val ≠ 0)
  | .benjoFrame _ bytes => decide (bytes.length ≤ 8212)
  | .dipEnd minMv => decide (minMv < 65536)
  | _ => true

end Sys2Proof
end

