-- ==== Sys2Proof/Tests/Slice0.lean ====
section
/-! SUPPORT. Small tests: the well-formedness checks, one step of a few commands with results worked out from the rules, and
for each statement with hypotheses a state that meets them. -/

namespace Sys2Proof.Tests

set_option Elab.async false

open Machine

/-! ### A packet and a device for the witnesses -/

/-- A packet of queue `q` and tag 5 that has passed its checks. -/
def pk (q : Fin 16) (op : Nat) (p0 p1 : Word) (b : List Byte) : Pkt where
  opcode := op
  ordered := false
  fence := false
  tag := 5
  queue := q.val
  qbyte := q.val
  cls := 3
  deadline := 0
  p0 := p0
  p1 := p1
  seq := 0
  payload := b
  arrival := 0
  index := 0
  credit := true
  origin := .pcie
  phase := .accepted

/-- `s` with an item in the current slot of interpreter core 0. -/
def working (s : State) (t : WorkTarget) : State :=
  s.setDisp { s.disp with
    workers := ⟨(({ cur := some (freeItem .commandStep 3 t, 0) } : Worker) :: List.replicate 40 {}).toArray, by simp⟩ }

theorem working_current (s : State) (t : WorkTarget) : (working s t).disp.current t = true := by
  simp [working, State.setDisp, DispSt.current, freeItem]

/-- `s` with an expired delay entry whose item is in a current slot. -/
def due (s : State) (e : DelayEntry) : State :=
  working (s.setDisp { s.disp with fired := [e] }) (.expiry e)

/-- `s` with one packet in flight on a queue. -/
def holding (s : State) (q : Fin 16) (p : Pkt) : State :=
  working (s.setQueue q { s.host.queues[q] with inflight := [p] }) (.packet q.val p.tag)

/-- The packet in flight begins. -/
theorem holding_begins (s : State) (q : Fin 16) (op : Nat) (p0 p1 : Word) (b : List Byte) :
    (holding s q (pk q op p0 p1 b)).Begins q 5 op (pk q op p0 p1 b) := by
  have e : (holding s q (pk q op p0 p1 b)).host.queues[q] = { s.host.queues[q] with inflight := [pk q op p0 p1 b] } := by
    simp [holding, working, State.setQueue, State.setHost, State.setDisp]
  refine ⟨?_, rfl⟩
  unfold State.candidatePkt
  rw [e]
  have w : (holding s q (pk q op p0 p1 b)).disp.current (.packet q.val 5) = true := working_current _ _
  simp [QueueSt.named, QueueSt.find, QueueSt.startable, pk] at w ⊢
  exact w

/-- Some packet begins in a state in which a condition of a completion statement holds. -/
def Meets (op : Nat) (pre : Pkt → State → Prop) : Prop :=
  ∃ (q : Fin 16) (tag : Fin 1024) (s : State) (p : Pkt), s.Begins q tag op p ∧ pre p.begun (s.begun q p)

theorem meets {op : Nat} {pre : Pkt → State → Prop} (s : State) (q : Fin 16) (p0 p1 : Word) (b : List Byte)
    (h : pre (pk q op p0 p1 b).begun ((holding s q (pk q op p0 p1 b)).begun q (pk q op p0 p1 b))) : Meets op pre :=
  ⟨q, 5, _, _, holding_begins s q op p0 p1 b, h⟩

/-- Some packet in flight that begins, whoever sent it. -/
theorem meets' {op : Nat} {pre : Pkt → State → Prop} (q : Fin 16) (tag : Fin 1024) (s : State) (p : Pkt)
    (h : s.Begins q tag op p ∧ pre p.begun (s.begun q p)) : Meets op pre := ⟨q, tag, s, p, h⟩

/-- A device that runs, with every unit ready and every index in RUN. -/
def base : State :=
  { State.reset with
    sys := { inReset := false, coreHold := none, running := true, ready := 0x1FFFFF, slUp := true }
    safety := { cfgValid := true, ch1Ok := true, ch2Ok := true, bath := false, en1 := 0xFFFF, en2 := 0xFFFF
                index := Vector.replicate 16 { state := .run, cause := 0 } } }

/-- A cell of one chain with two axes on a drive node, an I/O node with an input, an output and a safety input range, and a
command group of two loops. -/
def cell : Cell where
  chains := [⟨0, 2, 1, 0, List.replicate 7 0, List.replicate 2 ⟨List.replicate 6 0, List.replicate 7 0, [0, 0x3F800000, 0x3F800000, 0x3F800000, 0x3F800000, 0x3F800000]⟩⟩]
  aux := [⟨0, 0x3F800000, [0x3F800000, 0x3F800000], [0, 0x3F800000], 0xFF⟩]
  nodes := [⟨0x021122334455, 0, 1, 0, 0, 0, 2, [0, 1], 64, 64, 4, 0⟩, ⟨0x021122334456, 0, 2, 2, 0, 1, 0, [], 64, 64, 4, 0⟩]
  points := [⟨0, 8, 1, 0, 0, 0, 0, 0⟩, ⟨8, 8, 1, 0, 1, 0, 0, 0⟩, ⟨16, 4, 1, 8, 0, 0, 0, 2⟩]
  loops := [⟨0, 0, 0, 0xFFFF, List.replicate 6 0⟩, ⟨0, 1, 0, 0xFFFF, List.replicate 6 0⟩, ⟨1, 0, 0xFF, 0xFFFF, List.replicate 6 0⟩]
  groups := [[0, 1, 0xFFFF, 0xFFFF]]

/-- The device with that cell in force: loops 0 and 1 in slots 0 and 1 of engine 0. -/
def celled : State :=
  { base with
    cell := { active := some cell, placement := { loops := [⟨0, 0, 0, 0⟩, ⟨1, 0, 0, 1⟩] } }
    loops := { base.loops with
      groups := [(0, { axis := 0, members := [0, 1], command := true })]
      engines := vmod base.loops.engines 0 (fun e =>
        { e with
          slots := (e.slots.set 0 { valid := true, kind := 0, group := 0, loop := 0, primary := true }).set 1
            { valid := true, kind := 1, member := 1, group := 0, loop := 1 } }) } }

/-- Two packets in flight on queue 0. -/
def holdingTwo (s : State) (p o : Pkt) : State :=
  working (s.setQueue 0 { s.host.queues[(0 : Fin 16)] with inflight := [p, o] }) (.packet p.queue p.tag)

/-- A placement command is under way. -/
def busyCell (s : State) : State :=
  s.setCell { s.cell with job := some { kind := .bind, queue := 1, tag := 7, cell := s.theCell, current := [], bind := none, phase := .placing } }

/-- A schedule image of problem 0 for chain 0, and one of problem 1 for the same chain. -/
def schedule : SchedImage where
  index := 0
  problem := 0
  chainMask := 1
  partitions := 1
  length := 100
  nVar := 1
  nCon := 0
  family := 0
  binding := 0
  compiler := 0
  evalKnots := []
  vars := [(0, 0)]
  cons := []
  pEnt := []
  aEnt := []
  vEnt := []
  vecs := []
  blocks := []
  pairs := []
  consts := []
  program := [⟨13, 0, 0xFF, 0xFF, 0xFF, 0xFF, 0, 0xFF⟩, ⟨0, 0, 0xFF, 0xFF, 0xFF, 0xFF, 0, 0xFF⟩]
  vecWords := [0]

def withSchedule (s : State) : State := s.setSolver { s.solver with images := s.solver.images.set 0 (some schedule) }
def withCurrent (s : State) : State :=
  (withSchedule s).setSolver { (withSchedule s).solver with
    current := s.solver.current.set 0 (some 0)
    probs := s.solver.probs.set 0 { active := true, first := 0, count := 1, sched := 0, complete := some 0 }
    solves := s.solver.solves.set 0 { s.solver.solves[(0 : Fin 4)] with
      mem := { s.solver.solves[(0 : Fin 4)].mem with image := some schedule } } }
def withClash (s : State) : State :=
  (withSchedule s).setSolver { (withSchedule s).solver with
    images := (withSchedule s).solver.images.set 1 (some { schedule with index := 1, problem := 1 })
    current := s.solver.current.set 1 (some 1) }

/-- A kernel of one instruction for a loop, in the last place of the store. -/
def kernel : KernelImage where
  memcfg := 0
  mode := 0
  bindKind := 0
  rate := 0
  program := [0xD800000000000000, 0xD800000000000000]
  ivec := 0xFFFF
  xBytes := 64
  yBytes := 0
  cycles := 100
  inOff := 0
  outOff := 8
  extraOff := 0
  extraLen := 0
  ien := 0
  init := []

def withKernel (s : State) (st : KState) (bind : Option Word) : State :=
  s.setKernel 63 { s.tiles.kernels[(63 : Fin 64)] with image := some kernel, state := st, bind := bind }

/-- Controller 3 with a given buffer 63 and frame on the bus. -/
def withCan (s : State) (b : CanBuf) (on : Option CanOnBus) : State :=
  s.setCanN 3 { s.can[(3 : Fin 4)] with configured := true, ctrl := 0x70000000, state := .active, sync := true
                                        bufs := s.can[(3 : Fin 4)].bufs.set 63 b, onBus := on }

/-- A CAN_CFG payload: 1 Mbit/s and 4 Mbit/s, and every buffer off. -/
def canConfig : List Byte :=
  leBytes 4 0x013E1E3C ++ leBytes 4 0x079DE800 ++ leBytes 4 0x70000000 ++ List.replicate 516 0

/-- The active device of a pair. -/
def paired (swapTick : Option Nat) (reply : Option (Nat × Nat)) : State :=
  base.setTwin { base.twin with state := .paired, active := true, lane0 := true, lane1 := true, swapTick := swapTick, swapReply := reply }

/-- A command waits for presence. -/
def waiting (s : State) (op : Nat) : State :=
  (s.setHost { s.host with presence := some ⟨14, 6, op, 1234, 0⟩, lastCode := some 1234 }).setQueue 14
    { s.host.queues[(14 : Fin 16)] with inflight := [{ pk 14 op 0 0 [] with tag := 6, phase := .pending }] }

/-- A staged image of the header alone. -/
def image : FwImage := ⟨[0x52, 0x46, 0x46, 0x57, 0x00, 0x01, 0, 0] ++ leBytes 4 0x01020304 ++ List.replicate 20 0 ++
  [0x04] ++ beBytes 48 0xfbf96095915eb587390f850ec95b35f618ae121c72a70808ad8f9f4c261b602b63541743e395f7c778e52bb28c18dc83 ++
  beBytes 48 0x016a6ff3f72c9368326ad50a3bd148a53cd2213bb480e4730ad019db87ae100995ec65df011e19811a15dc9ddfc9ab3c ++ List.replicate 3 0 ++
  beBytes 48 0xf43f21997c2ae29de689cfe1ab3affd903c51721cbb02a551d03ae9b8a90e503c4453df1607430c2528c8f5462eed767 ++
  beBytes 48 0xf9218107d7e5308c53e94825ed3b3cf6739c67f5ccc9af34af4e32dcda473c156bd9846aa6b4bf3b7d4510d00434ec24 ++ List.replicate 28 0⟩
def staged (verified : Bool) : State := base.setSys { base.sys with staged := some image, verified := verified }

/-- The device keeps its own time: no PTP domain is the source. -/
def localTime : State := base.setTime { base.time with ctrl := 0x26006400 }

/-- `s` at an elapsed time and a cell time of `ns` both. -/
def onTime (s : State) (ns : Nat) : State := { s with now := ns, time := { s.time with cellNs := ns } }

/-- `s` not yet ready. -/
def unready (s : State) : State := s.setSys { s.sys with ready := 0 }

/-- The four verdicts of a fragment are met on every stream that no other packet holds up. -/
theorem fragments_met (op : Nat) (st : Stream) (busy : State → Bool)
    (hb : ∀ p, busy ((holding base 0 p).begun 0 p) = false) :
    (∃ b, Meets op (fun p t => judgeFrag (t.cell.partOf st) st p (busy t) = .stored b)) ∧
    (∃ v, Meets op (fun p t => judgeFrag (t.cell.partOf st) st p (busy t) = .bad v false)) ∧
    (∃ v, Meets op (fun p t => judgeFrag (t.cell.partOf st) st p (busy t) = .bad v true)) ∧
    (∃ b, Meets op (fun p t => judgeFrag (t.cell.partOf st) st p (busy t) = .whole b)) := by
  have e : ∀ a b c, judgeFrag none st (pk 0 op a b c).begun false = judgeFrag none st (pk 0 0 a b c).begun false :=
    fun _ _ _ => rfl
  refine ⟨⟨[0], meets base 0 0 (BitVec.ofNat 32 (streamLimits st).2) [0] ?_⟩, ⟨badAt atP0, meets base 0 1 0 [] ?_⟩,
    ⟨badAt atP1, meets base 0 0 0 [] ?_⟩,
    ⟨List.replicate (streamLimits st).1 0, meets base 0 0 (BitVec.ofNat 32 (streamLimits st).1) (List.replicate (streamLimits st).1 0) ?_⟩⟩ <;>
  (rw [hb]; show judgeFrag none st _ false = _; rw [e]; cases st <;> decide +kernel)

/-- A running cell without objects, and a rule that reads a point it does not have. -/
def ruled : State := { base with cell := { active := some {} }, nibble := { rules := [⟨[(1, 0)], false, false, 8, 0, 0⟩] } }

/-- A reply that waits on queue 0 and has the tag of a packet already gone. -/
def restarting : State :=
  base.setSys { base.sys with restartAfter := some (0, 6) }

/-- A placement job of a packet. -/
def job (k : JobKind) (ph : JobPhase) (st : List Nat) : Job :=
  { kind := k, queue := 1, tag := 7, cell := cell, current := [], bind := none, phase := ph, toStage := st }
def withJob (s : State) (j : Option Job) (re : Option Job) : State := s.setCell { s.cell with job := j, regrade := re }

/-- A PTP slot with a locked master on port 0. -/
def slot (n : Nat) : SlotServo :=
  { heard := (Vector.replicate 2 []).set 0 [⟨⟨128, 6, 0x21, 0, 128, n, 0⟩, 0, 0, true⟩], offset := some 0, locked := true, lockedAt := some 0 }
def ptp (c : Word) (cur : Fin 2) (sw : Option (Fin 2 × Nat)) : State :=
  base.setTime { base.time with ctrl := c, slots := (base.time.slots.set 0 (slot 1)).set 1 (slot 2), curSlot := cur, switchTo := sw }
def msg (k : PtpKind) : PtpMsg := ⟨0, 0, 0, 0, false, 0, k⟩

/-- The same with the word of domain slot 0 and its servo changed, and an address on both ports. -/
def servo (w : Word) (f : SlotServo → SlotServo) : State :=
  let s := (ptp 0x66006400 0 none).setHost { base.host with ip0 := 1, ip1 := 1 }
  s.setTime { s.time with domain := s.time.domain.set 0 w, slots := s.time.slots.set 0 (f (slot 1)) }

/-- The device under PPS in a state of its time base, with a cell time. -/
def pps (st : TbState) (ns : Nat) : State :=
  onTime (base.setTime { base.time with ctrl := 0xA6006400, state := st }) ns

/-- `s` as the standby of a pair. -/
def standby (s : State) : State := s.setTwin { s.twin with state := .paired, active := false }

/-- The signature and the header of that image hold. -/
theorem image_valid : base.sys.imageValid image = true := by decide +kernel

/-- The digest of the message abc that FIPS 180-4 gives. -/
theorem test_sha384_abc : beNat (sha384 [0x61, 0x62, 0x63]) =
    0xCB00753F45A35E8BB5A03D699AC65007272C32AB0EDED1631A8B605A43FF5BED8086072BA1E7CC2358BAECA134C825A7 := by decide +kernel

/-- A kernel image of one instruction for a loop. -/
def kernelBytes : List Byte :=
  ([0x4B, 0x45, 0x52, 0x4E, 0x00, 0x01, 0x03, 0x01, 0x00, 0x00, 0x00, 0x00, 0x01, 0x00, 0xFF, 0xFF, 0x40, 0x00, 0x00, 0x00, 0x00, 0x00, 0x00, 0x00, 0x64, 0x00, 0x00, 0x00, 0x08] ++ List.replicate 31 0 ++ [0xE7, 0x4E, 0x3E, 0x76, 0x00, 0x00, 0x00, 0x00, 0x00, 0x00, 0x00, 0xD8, 0xEE, 0x0B, 0x22, 0xD5])

/-- A rule table without rules. -/
def ruleBytes : List Byte :=
  ([0x52, 0x55, 0x4C, 0x45, 0x00, 0x01] ++ List.replicate 10 0)

/-- A schedule image. -/
def schedBytes : List Byte :=
  ([0x53, 0x43, 0x48, 0x44, 0x00, 0x01, 0x00, 0x00, 0x01, 0x00, 0x01, 0x0A, 0x3C, 0x02, 0x00, 0x00, 0x01, 0x00, 0x00, 0x00, 0x00, 0x00, 0x00, 0x00, 0x07] ++ List.replicate 35 0 ++ [0xF1, 0x3D, 0xE4, 0xD5, 0x01, 0x00, 0x08, 0x00, 0x01, 0x00, 0x00, 0x00, 0xE0, 0x00, 0x00, 0x00, 0x8A, 0xB2, 0x28, 0x8C, 0x02, 0x00, 0x08, 0x00, 0x00, 0x00, 0x00, 0x00, 0xE8, 0x00, 0x00, 0x00, 0x00, 0x00, 0x00, 0x00, 0x03, 0x00, 0x0C, 0x00, 0x01, 0x00, 0x00, 0x00, 0xE8, 0x00, 0x00, 0x00, 0x31, 0x3A, 0x53, 0xBE, 0x04, 0x00, 0x0C, 0x00, 0x00, 0x00, 0x00, 0x00, 0xF4, 0x00, 0x00, 0x00, 0x00, 0x00, 0x00, 0x00, 0x05, 0x00, 0x0C, 0x00, 0x00, 0x00, 0x00, 0x00, 0xF4, 0x00, 0x00, 0x00, 0x00, 0x00, 0x00, 0x00, 0x06, 0x00, 0x28, 0x00, 0x05, 0x00, 0x00, 0x00, 0xF4, 0x00, 0x00, 0x00, 0xDB, 0x32, 0x68, 0xE7, 0x07, 0x00, 0x04, 0x00, 0x01, 0x00, 0x00, 0x00, 0xBC, 0x01, 0x00, 0x00, 0xB0, 0xD3, 0xC5, 0x5B, 0x09, 0x00, 0x04, 0x00, 0x01, 0x00, 0x00, 0x00, 0xC0, 0x01, 0x00, 0x00, 0xAB, 0xC4, 0x54, 0xDD, 0x0A, 0x00, 0x10, 0x00, 0x07, 0x00, 0x00, 0x00, 0xC4, 0x01, 0x00, 0x00, 0xD8, 0xB7, 0xA5, 0x47, 0x0B, 0x00, 0x08, 0x00, 0x01, 0x00, 0x00, 0x00, 0x34, 0x02, 0x00, 0x00, 0x0B, 0x91, 0x4F, 0x33] ++ List.replicate 18 0 ++ [0x80, 0x3F, 0x00, 0x00, 0x01] ++ List.replicate 37 0 ++ [0x01, 0x01, 0x02] ++ List.replicate 37 0 ++ [0x02, 0x01, 0x03] ++ List.replicate 37 0 ++ [0x03, 0x00, 0x04, 0x00, 0x00, 0x00, 0x00, 0x00, 0x01] ++ List.replicate 31 0 ++ [0x04, 0x01, 0x05] ++ List.replicate 39 0 ++ [0x01, 0x00, 0x00, 0x00, 0x80, 0x3F, 0x0D, 0x00, 0xFF, 0xFF, 0xFF, 0xFF, 0x00, 0x00, 0xFF, 0x00, 0x00, 0x00, 0x00, 0x00, 0x00, 0x00, 0x09, 0x00, 0xFF, 0xFF, 0xFF, 0xFF, 0x00, 0x00, 0xFF, 0x00, 0x00, 0x00, 0x00, 0x00, 0x00, 0x00, 0x0A, 0x00, 0xFF, 0xFF, 0xFF, 0xFF, 0x00, 0x00, 0xFF, 0x00, 0x00, 0x00, 0x00, 0x00, 0x00, 0x00, 0x0B, 0x00, 0xFF, 0xFF, 0xFF, 0xFF, 0x00, 0x00, 0xFF, 0x00, 0x00, 0x00, 0x00, 0x00, 0x00, 0x00, 0x0B, 0x00, 0xFF, 0xFF, 0xFF, 0xFF, 0x00, 0x00, 0xFF, 0x00, 0x00, 0x00, 0x00, 0x00, 0x00, 0x00, 0x0E, 0x00, 0xFF, 0xFF, 0xFF, 0xFF, 0x00, 0x00, 0xFF] ++ List.replicate 9 0 ++ [0xFF, 0xFF, 0xFF, 0xFF, 0x00, 0x00, 0xFF] ++ List.replicate 11 0 ++ [0x02, 0x00, 0x00, 0x00])

/-- A cell image without objects, one with a safety I/O node, and an amendment that changes nothing. -/
def cellBytes : List Byte :=
  ([0x43, 0x45, 0x4C, 0x4C, 0x00, 0x01, 0x02, 0x00, 0x40, 0x00, 0x00, 0x00, 0x00, 0x00, 0x00, 0x00, 0x01] ++ List.replicate 11 0 ++ [0xBF, 0x0B, 0x38, 0x0D, 0x01, 0x00, 0x80, 0x02, 0x00, 0x00, 0x00, 0x00, 0x40, 0x00, 0x00, 0x00, 0x00, 0x00, 0x00, 0x00, 0x03, 0x00, 0x20, 0x00, 0x00, 0x00, 0x00, 0x00, 0x40, 0x00, 0x00, 0x00, 0x00, 0x00, 0x00, 0x00])

def nodeBytes : List Byte :=
  ([0x43, 0x45, 0x4C, 0x4C, 0x00, 0x01, 0x02, 0x00, 0x60, 0x00, 0x00, 0x00, 0x00, 0x00, 0x00, 0x00, 0x01] ++ List.replicate 11 0 ++ [0x39, 0xCA, 0x2F, 0xF9, 0x01, 0x00, 0x80, 0x02, 0x00, 0x00, 0x00, 0x00, 0x40, 0x00, 0x00, 0x00, 0x00, 0x00, 0x00, 0x00, 0x03, 0x00, 0x20, 0x00, 0x01, 0x00, 0x00, 0x00, 0x40, 0x00, 0x00, 0x00, 0xAD, 0xFD, 0xBF, 0x17, 0x02, 0x00, 0x00, 0x00, 0x00, 0x01, 0x00, 0x01, 0x02, 0x00, 0x01, 0x00, 0xFF, 0xFF, 0xFF, 0xFF, 0xFF, 0xFF, 0xFF, 0xFF, 0x40, 0x00, 0x00, 0x00, 0x04, 0x00, 0x00, 0x00, 0x00, 0x00, 0x00, 0x00])

def amendBytes : List Byte :=
  ([0x43, 0x45, 0x4C, 0x4C, 0x00, 0x01, 0x01, 0x00, 0x30, 0x00, 0x00, 0x00, 0x00, 0x00, 0x00, 0x00, 0x01] ++ List.replicate 11 0 ++ [0xDB, 0xEC, 0xD9, 0x8A, 0x02, 0x00, 0x20, 0x00, 0x00, 0x00, 0x00, 0x00, 0x30, 0x00, 0x00, 0x00, 0x00, 0x00, 0x00, 0x00])

/-- The cell that an image holds. -/
def held (b : List Byte) (a : Option Cell) : Cell :=
  match validate b a with
  | .ok c => c
  | .error _ => {}

/-- The three images pass validation, whichever part reads them, and one without its header does not. -/
theorem images_valid : (validate cellBytes none).isOk = true ∧ (validate nodeBytes none).isOk = true ∧
    (validate amendBytes (some {})).isOk = true ∧ (validate [] none).isOk = false := by
  unfold validate headerErrors
  cases Config.gradeH <;> decide +kernel

theorem ok_held {b : List Byte} {a : Option Cell} (h : (validate b a).isOk = true) : validate b a = .ok (held b a) := by
  unfold held
  cases e : validate b a with
  | ok c => rfl
  | error v => rw [e] at h; cases h

theorem node_rings : (held nodeBytes none).ringBits = [rdRing 0] ∧ altersSafety {} (held nodeBytes none) = true ∧
    (held cellBytes none).ringBits = [] ∧ altersSafety {} (held cellBytes none) = false ∧
    altersSafety {} (held amendBytes (some {})) = false ∧ (held amendBytes (some {})).ringBits = [] := by
  unfold held validate headerErrors
  cases Config.gradeH <;> decide +kernel

/-- A DWELL segment record of 1 ms. -/
def wait : List Byte :=
  ([0x00, 0x00, 0x00, 0x00, 0x04] ++ List.replicate 19 0 ++ [0x6F, 0x12, 0x83, 0x3A] ++ List.replicate 68 0)

/-! ### Solver, tiles and motion -/

/-- Problem 0 solves on the partition it was granted, and `op` is the first instruction of its program. -/
def solving (op : Nat) : State :=
  let s := withCurrent celled
  let s := s.setDisp { s.disp with arbs := s.disp.arbs.set 0 { s.disp.arbs[(0 : Fin 25)] with holder := some ⟨0, 0, false, false, 0⟩ } }
  s.setSolve 0 { s.solver.solves[(0 : Fin 4)] with
    running := true, mem := { s.solver.solves[(0 : Fin 4)].mem with
      image := some { schedule with program := [⟨op, 0, 0xFF, 0xFF, 0xFF, 0xFF, 0, 0xFF⟩] } } }

/-- Tile 0 runs a kernel of one instruction with the operation `op` and no memory slot. -/
def tiled (op : Nat) : State :=
  let s := base.setKernel 0 { base.tiles.kernels[(0 : Fin 64)] with
    image := some { kernel with program := [BitVec.ofNat 64 (op * 2 ^ 58)] }, state := .bound, bind := some 0 }
  s.setTile 0 { s.tiles.tiles[(0 : Fin 16)] with busy := true }

/-- Tile 0 with an activation of kernel 0 waiting. -/
def activating : State :=
  let s := base.setKernel 0 { base.tiles.kernels[(0 : Fin 64)] with
    image := some kernel, state := .bound, bind := some 0, waiting := some (7, [1, 2]) }
  let s := s.setTile 0 { s.tiles.tiles[(0 : Fin 16)] with queue := [0] }
  s.setDisp { s.disp with arbs := s.disp.arbs.set 8 { s.disp.arbs[(8 : Fin 25)] with holder := some ⟨0, 0, false, false, 0⟩ } }

/-- A BARRIER record of chain 0 alone with a timeout of 5 ticks, and chain 0 arrived there. -/
def barrier : List Byte := List.replicate 4 0 ++ [7] ++ List.replicate 19 0 ++ [1, 0, 9, 0, 5, 0, 0, 0] ++ List.replicate 64 0
def arrived : State :=
  celled.setChain 0 { celled.motion.chains[(0 : Fin 16)] with
    state := .waitBarrier, queue := [barrier], executing := true, arrived := some 0 }

/-- Index 0 changed. -/
def onIndex (s : State) (f : IndexSt → IndexSt) : State := s.setIndex 0 (f s.safety.index[(0 : Fin 16)])

/-- Ring 0 in a state. -/
def ringed (s : State) (st : RingState) (r : RingSt → RingSt) : State := s.setRing 0 (r { s.rings[(0 : Fin 4)] with state := st })

/-- A frame of ring 0 with a source address and the first 22 bytes of its header. -/
def ringFrame (src h : List Byte) : List Byte := ringDst 0 ++ src ++ celled.etherBytes ++ h ++ leBytes 4 (crc32c h)

/-- The lane of ring 0 takes the frame, with the header it carries. -/
def passes (s : State) (f : List Byte) : Bool :=
  match s.ringCheck 0 true f with
  | .ok h => h == f.drop 14
  | .error _ => false

/-- A header of a type, origin, stream and auxiliary byte, of generation 0. -/
def hdr (type origin stream aux : Byte) : List Byte := [0x10 + type, 0, origin, stream] ++ List.replicate 15 0 ++ [aux, 0, 0]

/-- The address of the node of hop 1. -/
def nodeAddr : List Byte := leBytes 6 0x021122334455

/-- Subscription 1 with an event of four bytes held since 0 and an armed packet of 1,024 bytes on queue 15. -/
def heldEvent : State :=
  let s := base.setHost { base.host with subs := base.host.subs.set 1 { present := true, held := [⟨0, [1, 2, 3, 4]⟩] } }
  due (s.setQueue 15 { s.host.queues[(15 : Fin 16)] with inflight := [{ pk 15 0x61 1 1024 [] with phase := .started }] }) ⟨1000, 5, 1, 0⟩

/-! ### Safety, twin, CAN and supplies -/

/-- The safety state changed. -/
def safe (s : State) (f : SafetySt → SafetySt) : State := s.setSafety (f s.safety)

/-- A payload of the I/O node with its safety frame at offset 32: type 3, connection 0, sequence number 1, stamp 10, watchdog 40 µs. -/
def linkFrame : List Byte :=
  List.replicate 32 0 ++ [0x13, 0x00, 0x1E, 0x00, 0x00, 0x00, 0x00, 0x00, 0x01, 0x00, 0x00, 0x00, 0x0A, 0x00, 0x00, 0x00, 0x00, 0x00, 0x00, 0x00, 0x28, 0x00, 0x00, 0x00, 0x00, 0x00, 0x1C, 0x1B, 0xD5, 0xC0]

/-- The I/O node's link is configured, and its last accepted frame. -/
def linked (s : State) (st : LinkState) (v : Option LinkVal) : State :=
  s.setSep { s.sep with links := mput {} s.sep.links 1 { cfg := 0x82000040, state := st, last := v } }

/-- A cell with one body sensor, and a safety frame of that sensor: type 1, connection 0, sequence number 1, stamp 10. -/
def sensing : State :=
  { base with cell := { active := some { nodes := [⟨0x021122334457, 0, 1, 3, 0, 0, 0, [], 64, 0, 4, 0⟩], bodies := [⟨0, 1, 1, 0, 40⟩] } } }
def sensorFrame : List Byte := [0x11, 0x00, 0x1E, 0x00, 0x00, 0x00, 0x00, 0x00, 0x01, 0x00, 0x00, 0x00, 0x0A, 0x00, 0x00, 0x00, 0x00, 0x00, 0x00, 0x00, 0x28, 0x00, 0x00, 0x00, 0x00, 0x00, 0x02, 0x13, 0x88, 0x9B]

/-- Benjo frames: STATE, a reserved type and IDLE. -/
def benjoState : List Byte := ([0x09] ++ List.replicate 11 0 ++ [0x1C, 0xB6, 0x73, 0x94])
def benjoOther : List Byte := ([0x0B] ++ List.replicate 11 0 ++ [0x7C, 0x1E, 0x90, 0xF6])
def benjoIdle : List Byte := (List.replicate 12 0 ++ [0x5D, 0xB5, 0x60, 0x2B])

/-- The pair changed. -/
def twinned (s : State) (f : TwinSt → TwinSt) : State := s.setTwin (f s.twin)

/-- A classical frame with standard identifier 0x123, and the words of a buffer that takes it. -/
def canFrame : CanFrame := ⟨0x123, false, false, false, false, 2, [1, 2]⟩
def receiving (k : Fin 64) (s : State) : State :=
  s.canBuf 3 k (fun b => { b with cfg := 0x40000123, mask := 0x7FF })

/-- The system state changed. -/
def system (s : State) (f : SysSt → SysSt) : State := s.setSys (f s.sys)

/-- SRST_N pressed in both channels since 0, at a cell time. -/
def pressing (ns : Nat) (f : SafetySt → SafetySt) : State :=
  onTime (safe base (fun x => f { x with srst := Vector.replicate 2 { pressed := true } })) ns

/-- Witness of StepRunsFront: a queue with a command. -/
theorem witness_StepRunsFront : ∃ (s : State) (c : Instr) (rest : List Instr), s.pending = c :: rest :=
  ⟨State.reset.setPending [.presenceTimeout], .presenceTimeout, [], rfl⟩

/-- Witness of EmptyQueuePassesACycle. -/
theorem witness_EmptyQueuePassesACycle : State.reset.pending = [] ∧ State.reset.isReady rdTime = false := by decide

/-- Witness of StepIsFifo: an idle step and a command. -/
theorem witness_StepIsFifo : (∃ t, step State.reset = .next t ∧ State.reset.pending = []) ∧
    (∃ t, step (State.reset.setPending [.presenceTimeout]) = .next t) := ⟨⟨_, rfl, rfl⟩, ⟨_, rfl⟩⟩

/-- Witness of OtpBitsOnlyRise and of the other invariants of a step. -/
theorem witness_OtpBitsOnlyRise : ∃ t, step State.reset = .next t := ⟨_, rfl⟩

/-- Witness of RamsStayCanonical and TorqueStaysSafe: an image that lists a nibble, and enabled pairs of indexes in RUN. -/
theorem witness_RamsStayCanonical :
    (base.setNibble { base.nibble with front := [(5, 0)] }).memWf = true := by decide +kernel

theorem witness_TorqueStaysSafe : base.TorqueSafe := by
  unfold State.TorqueSafe State.IndexSafe
  decide +kernel

/-- A device whose key hash is locked. -/
def locked : State := State.reset.setSys { State.reset.sys with otp := State.reset.sys.otp.set 16 1 }
theorem witness_KeyHashStaysLocked : ∃ k, locked.KeyFrozen k := ⟨fun _ => 0, by decide, by decide⟩

/-- Witness of FrontImageFrozen: a command that is none of those named. -/
theorem witness_FrontImageFrozen : ∃ t, exec .presenceTimeout State.reset = .next t := ⟨_, rfl⟩

/-- Witness of each clause of HostCommandsComplete. -/
theorem witness_HostCommandsComplete :
    Meets 0x00 (fun _ _ => True) ∧
    Meets 0x01 (fun _ _ => True) ∧
    (∃ (o : Pkt), Meets 0x02 (fun p t => t.expireGate.findTag (p.p0.toNat % 1024) = some o ∧ o.phase = .started ∧ t.expireGate.beforeGate o = false)) ∧
    Meets 0x02 (fun p t => t.expireGate.findTag (p.p0.toNat % 1024) = none ∧ t.expireGate.replyWaits (p.p0.toNat % 1024) = true) ∧
    Meets 0x02 (fun p t => t.expireGate.findTag (p.p0.toNat % 1024) = none ∧ t.expireGate.replyWaits (p.p0.toNat % 1024) = false) ∧
    (∃ (o : Pkt), Meets 0x02 (fun p t => t.expireGate.findTag (p.p0.toNat % 1024) = some o ∧ (o.phase ≠ .started ∨ t.expireGate.beforeGate o = true))) ∧
    Meets 0x03 (fun p _ => p.p0.toNat ≤ 15 ∧ p.p0.toNat ≠ p.queue) ∧
    Meets 0x03 (fun p _ => 15 < p.p0.toNat ∨ p.p0.toNat = p.queue) ∧
    Meets 0x04 (fun p _ => 1 ≤ p.p1.toNat ∧ p.p1.toNat ≤ 4096) ∧
    Meets 0x04 (fun p _ => p.p1.toNat = 0 ∨ 4096 < p.p1.toNat) :=
  ⟨meets base 0 0 0 [] (by decide +kernel),
   meets base 0 0 0 [] (by decide +kernel),
   ⟨{ pk 0 0x00 0 0 [] with tag := 6, index := 1, phase := .started }, meets' 0 5 (holdingTwo base (pk 0 0x02 6 0 []) { pk 0 0x00 0 0 [] with tag := 6, index := 1, phase := .started }) (pk 0 0x02 6 0 []) ⟨⟨by decide +kernel, by decide +kernel⟩, by decide +kernel⟩⟩,
   meets' 0 5 ((holding base 0 (pk 0 0x02 6 0 [])).reply { pk 1 0x00 0 0 [] with tag := 6 } ⟨stOk, 0, 0⟩ []) (pk 0 0x02 6 0 []) ⟨⟨by decide +kernel, by decide +kernel⟩, by decide +kernel⟩,
   meets base 0 6 0 [] (by decide +kernel),
   ⟨{ pk 0 0x00 0 0 [] with tag := 6, index := 1 }, meets' 0 5 (holdingTwo base (pk 0 0x02 6 0 []) { pk 0 0x00 0 0 [] with tag := 6, index := 1 }) (pk 0 0x02 6 0 []) ⟨⟨by decide +kernel, by decide +kernel⟩, by decide +kernel⟩⟩,
   meets base 0 15 0 [] (by decide +kernel),
   meets base 0 16 0 [] (by decide +kernel),
   meets base 0 0 4096 [] (by decide +kernel),
   meets base 0 0 4097 [] (by decide +kernel)⟩

/-- Witness of each clause of PlaceReadAnswers. -/
theorem witness_PlaceReadAnswers :
    Meets 0x12 (fun p t => p.p0.toNat ≤ t.cell.placement.records.length) ∧
    Meets 0x12 (fun p t => t.cell.placement.records.length < p.p0.toNat) :=
  ⟨meets base 0 0 0 [] (by decide +kernel),
   meets base 0 1 0 [] (by decide +kernel)⟩

/-- Witness of each clause of MotionCommandsComplete. -/
theorem witness_MotionCommandsComplete :
    Meets 0x21 (fun p t => t.theCell.hasChains (chainMask p).toNat = true ∧ p.p1.toNat ≤ 2) ∧
    Meets 0x21 (fun p t => t.theCell.hasChains (chainMask p).toNat = false) ∧
    Meets 0x21 (fun p t => t.theCell.hasChains (chainMask p).toNat = true ∧ 2 < p.p1.toNat) ∧
    Meets 0x22 (fun p t => t.theCell.hasChains (chainMask p).toNat = true ∧ (chainsOf (chainMask p)).all (fun c => t.safety.index[f16 c].test.isNone && !t.resumeRefused c) = true) ∧
    Meets 0x22 (fun p t => t.theCell.hasChains (chainMask p).toNat = false) ∧
    Meets 0x22 (fun p t => t.theCell.hasChains (chainMask p).toNat = true ∧ (chainsOf (chainMask p)).any (fun c => t.safety.index[f16 c].test.isSome) = true) ∧
    Meets 0x22 (fun p t => t.theCell.hasChains (chainMask p).toNat = true ∧ (chainsOf (chainMask p)).any (fun c => t.safety.index[f16 c].test.isSome) = false ∧ (chainsOf (chainMask p)).any t.resumeRefused = true) ∧
    (∃ (ch : ChainRec), Meets 0x23 (fun p t => t.theCell.chainRec (p.p0.toNat % 16) = some ch)) ∧
    Meets 0x23 (fun p t => t.theCell.chainRec (p.p0.toNat % 16) = none) ∧
    Meets 0x24 (fun p t => t.theCell.hasChains (chainMask p).toNat = true ∧ p.p1.toNat ≤ 65536) ∧
    Meets 0x24 (fun p t => t.theCell.hasChains (chainMask p).toNat = false) ∧
    Meets 0x24 (fun p t => t.theCell.hasChains (chainMask p).toNat = true ∧ 65536 < p.p1.toNat) :=
  ⟨meets celled 0 1 2 [] (by decide +kernel),
   meets celled 0 2 0 [] (by decide +kernel),
   meets celled 0 1 3 [] (by decide +kernel),
   meets celled 0 1 0 [] (by decide +kernel),
   meets celled 0 2 0 [] (by decide +kernel),
   meets (celled.setIndex 0 { celled.safety.index[(0 : Fin 16)] with test := some ⟨0, 0, false⟩ }) 0 1 0 [] (by decide +kernel),
   meets (celled.setIndex 0 { celled.safety.index[(0 : Fin 16)] with state := .sto }) 0 1 0 [] (by decide +kernel),
   ⟨cell.chains.head (by decide), meets celled 0 0 0 [] (by decide +kernel)⟩,
   meets celled 0 1 0 [] (by decide +kernel),
   meets celled 0 1 65536 [] (by decide +kernel),
   meets celled 0 2 0 [] (by decide +kernel),
   meets celled 0 1 65537 [] (by decide +kernel)⟩

/-- Witness of each clause of LoopCommandsComplete. -/
theorem witness_LoopCommandsComplete :
    (∃ (i : Nat) (l : LoopRec), Meets 0x30 (fun p t => t.loopNamed p.p0 = some (i, l) ∧ p.payload.length = 24 ∧ lowest (coeffErrors (wordsAt p.payload 0 6) ((t.slotsOfLoop i).any (fun e => (t.loops.engines[f16 e.1].slots[f32i e.2]).limits (t.loops.groupOf (t.loops.engines[f16 e.1].slots[f32i e.2]).key).command))) = none)) ∧
    Meets 0x30 (fun p t => t.loopNamed p.p0 = none) ∧
    (∃ (i : Nat) (l : LoopRec), Meets 0x30 (fun p t => t.loopNamed p.p0 = some (i, l) ∧ p.payload.length ≠ 24)) ∧
    (∃ (i : Nat) (l : LoopRec) (o : Nat), Meets 0x30 (fun p t => t.loopNamed p.p0 = some (i, l) ∧ p.payload.length = 24 ∧ lowest (coeffErrors (wordsAt p.payload 0 6) ((t.slotsOfLoop i).any (fun e => (t.loops.engines[f16 e.1].slots[f32i e.2]).limits (t.loops.groupOf (t.loops.engines[f16 e.1].slots[f32i e.2]).key).command))) = some o)) ∧
    Meets 0x31 (fun p t => t.handoverCheck p = none) ∧
    (∃ (v : Verdict), Meets 0x31 (fun p t => t.handoverCheck p = some v)) ∧
    Meets 0x32 (fun p t => fld p.p0 7 4 = 0 ∧ fld p.p0 31 11 = 0 ∧ fld p.p1 25 22 < 12 ∧ t.loops.engines[f16 p.p0.toNat].trace.state = .idle) ∧
    Meets 0x32 (fun p _ => fld p.p0 7 4 ≠ 0 ∨ fld p.p0 31 11 ≠ 0) ∧
    Meets 0x32 (fun p _ => fld p.p0 7 4 = 0 ∧ fld p.p0 31 11 = 0 ∧ 12 ≤ fld p.p1 25 22) ∧
    Meets 0x32 (fun p t => fld p.p0 7 4 = 0 ∧ fld p.p0 31 11 = 0 ∧ fld p.p1 25 22 < 12 ∧ t.loops.engines[f16 p.p0.toNat].trace.state ≠ .idle) ∧
    (∃ (i : Nat) (l : LoopRec) (e : Nat × Nat), Meets 0x33 (fun p t => t.loopNamed p.p0 = some (i, l) ∧ (t.slotsOfLoop i).head? = some e)) ∧
    Meets 0x33 (fun p t => t.loopNamed p.p0 = none) :=
  ⟨⟨0, cell.loops.head (by decide), meets celled 0 0x05000000 0 (List.replicate 24 0) (by decide +kernel)⟩,
   meets celled 0 0x05000003 0 [] (by decide +kernel),
   ⟨0, cell.loops.head (by decide), meets celled 0 0x05000000 0 [0] (by decide +kernel)⟩,
   ⟨0, cell.loops.head (by decide), 4, meets celled 0 0x05000000 0 (List.replicate 16 0 ++ [1] ++ List.replicate 7 0) (by decide +kernel)⟩,
   meets celled 0 0 0x00010001 [] (by decide +kernel),
   ⟨badAt atP0, meets celled 0 1 0 [] (by decide +kernel)⟩,
   meets celled 0 15 0 [] (by decide +kernel),
   meets celled 0 0x10 0 [] (by decide +kernel),
   meets celled 0 0 0x03000000 [] (by decide +kernel),
   meets (celled.setEngine 0 { celled.loops.engines[(0 : Fin 16)] with trace := { state := .armed } }) 0 0 0 [] (by decide +kernel),
   ⟨0, cell.loops.head (by decide), (0, 0), meets celled 0 0x05000000 0 [] (by decide +kernel)⟩,
   meets celled 0 0 0 [] (by decide +kernel)⟩

/-- Witness of each clause of TraceCommandsComplete. -/
theorem witness_TraceCommandsComplete :
    Meets 0xC0 (fun p t => p.p0.toNat ≤ 15 ∧ t.loops.engines[f16 p.p0.toNat].trace.state = .held ∧ p.p1.toNat ≤ 16 + 40 * t.loops.engines[f16 p.p0.toNat].trace.rows.length) ∧
    Meets 0xC0 (fun p _ => 15 < p.p0.toNat) ∧
    Meets 0xC0 (fun p t => p.p0.toNat ≤ 15 ∧ t.loops.engines[f16 p.p0.toNat].trace.state ≠ .held) ∧
    Meets 0xC0 (fun p t => p.p0.toNat ≤ 15 ∧ t.loops.engines[f16 p.p0.toNat].trace.state = .held ∧ 16 + 40 * t.loops.engines[f16 p.p0.toNat].trace.rows.length < p.p1.toNat) ∧
    Meets 0xC1 (fun p _ => p.p0.toNat ≤ 65535) ∧
    Meets 0xC1 (fun p _ => 65535 < p.p0.toNat) ∧
    Meets 0xC2 (fun p _ => p.p0.toNat ≤ 15) ∧
    Meets 0xC2 (fun p _ => 15 < p.p0.toNat) :=
  ⟨meets (celled.setEngine 15 { celled.loops.engines[(15 : Fin 16)] with trace := { state := .held } }) 0 15 16 [] (by decide +kernel),
   meets base 0 16 0 [] (by decide +kernel),
   meets base 0 15 0 [] (by decide +kernel),
   meets (celled.setEngine 15 { celled.loops.engines[(15 : Fin 16)] with trace := { state := .held } }) 0 15 17 [] (by decide +kernel),
   meets base 0 65535 0 [] (by decide +kernel),
   meets base 0 65536 0 [] (by decide +kernel),
   meets base 0 15 0 [] (by decide +kernel),
   meets base 0 16 0 [] (by decide +kernel)⟩

/-- Witness of each clause of ScheduleCommandsComplete. -/
theorem witness_ScheduleCommandsComplete :
    (∃ (g : SchedImage), Meets 0x41 (fun p t => t.solver.named p.p0 = some g ∧ t.swapClash g = false ∧ t.cell.job = none ∧ t.cellOn = false)) ∧
    (∃ (g : SchedImage), Meets 0x41 (fun p t => t.solver.named p.p0 = some g ∧ t.swapClash g = false ∧ t.cell.job = none ∧ t.cellOn = true)) ∧
    Meets 0x41 (fun p t => t.solver.named p.p0 = none) ∧
    (∃ (g : SchedImage), Meets 0x41 (fun p t => t.solver.named p.p0 = some g ∧ t.swapClash g = true)) ∧
    (∃ (g : SchedImage), Meets 0x41 (fun p t => t.solver.named p.p0 = some g ∧ t.swapClash g = false ∧ t.cell.job ≠ none)) ∧
    (∃ (g : SchedImage), Meets 0x42 (fun p t => t.solver.named p.p0 = some g ∧ (t.solver.isCurrent g.index && t.cellOn) = false)) ∧
    Meets 0x42 (fun p t => t.solver.named p.p0 = none) ∧
    (∃ (g : SchedImage), Meets 0x42 (fun p t => t.solver.named p.p0 = some g ∧ t.solver.isCurrent g.index = true ∧ t.cellOn = true)) ∧
    Meets 0x43 (fun p t => p.p0.toNat ≤ 3 ∧ t.cellOn = true ∧ (t.imageOf (f4 p.p0.toNat)).isNone = false) ∧
    Meets 0x43 (fun p t => 3 < p.p0.toNat ∨ t.cellOn = false ∨ (t.imageOf (f4 p.p0.toNat)).isNone = true) :=
  ⟨⟨schedule, meets (withSchedule base) 0 0 0 [] (by decide +kernel)⟩,
   ⟨schedule, meets (withSchedule celled) 0 0 0 [] (by decide +kernel)⟩,
   meets base 0 15 0 [] (by decide +kernel),
   ⟨schedule, meets (withClash celled) 0 0 0 [] (by decide +kernel)⟩,
   ⟨schedule, meets (withSchedule (busyCell celled)) 0 0 0 [] (by decide +kernel)⟩,
   ⟨schedule, meets (withSchedule base) 0 0 0 [] (by decide +kernel)⟩,
   meets base 0 16 0 [] (by decide +kernel),
   ⟨schedule, meets (withCurrent celled) 0 0 0 [] (by decide +kernel)⟩,
   meets (withCurrent celled) 0 0 0 [] (by decide +kernel),
   meets celled 0 3 0 [] (by decide +kernel)⟩

/-- Witness of each clause of KernelCommandsComplete. -/
theorem witness_KernelCommandsComplete :
    (∃ (im : KernelImage), Meets 0x51 (fun p t => p.p0.toNat ≤ 63 ∧ t.tiles.kernels[f64 p.p0.toNat].image = some im ∧ t.theCell.bindOk im p.p1 = true ∧ (List.range 64).any (fun i => i != (f64 p.p0.toNat).val && t.tiles.kernels[f64 i].bind == some p.p1) = false ∧ (t.tiles.kernels[f64 p.p0.toNat].state = .stored ∨ t.tiles.kernels[f64 p.p0.toNat].state = .empty ∨ (t.tiles.kernels[f64 p.p0.toNat].state = .faulted ∧ t.tiles.kernels[f64 p.p0.toNat].bind = some p.p1)) ∧ t.cell.job = none)) ∧
    Meets 0x51 (fun p t => 63 < p.p0.toNat ∨ t.tiles.kernels[f64 p.p0.toNat].image = none) ∧
    (∃ (im : KernelImage), Meets 0x51 (fun p t => p.p0.toNat ≤ 63 ∧ t.tiles.kernels[f64 p.p0.toNat].image = some im ∧ t.theCell.bindOk im p.p1 = false)) ∧
    (∃ (im : KernelImage), Meets 0x51 (fun p t => p.p0.toNat ≤ 63 ∧ t.tiles.kernels[f64 p.p0.toNat].image = some im ∧ t.theCell.bindOk im p.p1 = true ∧ ((List.range 64).any (fun i => i != (f64 p.p0.toNat).val && t.tiles.kernels[f64 i].bind == some p.p1) = true ∨ t.tiles.kernels[f64 p.p0.toNat].state = .bound ∨ (t.tiles.kernels[f64 p.p0.toNat].state = .faulted ∧ t.tiles.kernels[f64 p.p0.toNat].bind ≠ some p.p1) ∨ t.cell.job ≠ none))) ∧
    Meets 0x52 (fun p t => p.p0.toNat ≤ 63 ∧ t.tiles.kernels[f64 p.p0.toNat].state = .stored) ∧
    Meets 0x52 (fun p t => 63 < p.p0.toNat ∨ t.tiles.kernels[f64 p.p0.toNat].state = .empty) ∧
    Meets 0x52 (fun p t => p.p0.toNat ≤ 63 ∧ (t.tiles.kernels[f64 p.p0.toNat].state = .bound ∨ t.tiles.kernels[f64 p.p0.toNat].state = .faulted)) ∧
    Meets 0x53 (fun p _ => p.p0.toNat ≤ 15) ∧
    Meets 0x53 (fun p _ => 15 < p.p0.toNat) :=
  ⟨⟨kernel, meets (withKernel celled .stored none) 0 63 0x05000000 [] (by decide +kernel)⟩,
   meets celled 0 64 0 [] (by decide +kernel),
   ⟨kernel, meets (withKernel celled .stored none) 0 63 0x05000003 [] (by decide +kernel)⟩,
   ⟨kernel, meets (withKernel celled .bound (some 0x05000000)) 0 63 0x05000000 [] (by decide +kernel)⟩,
   meets (withKernel celled .stored none) 0 63 0 [] (by decide +kernel),
   meets base 0 63 0 [] (by decide +kernel),
   meets (withKernel celled .faulted none) 0 63 0 [] (by decide +kernel),
   meets base 0 15 0 [] (by decide +kernel),
   meets base 0 16 0 [] (by decide +kernel)⟩

/-- Witness of each clause of EventCommandsComplete. -/
theorem witness_EventCommandsComplete :
    Meets 0x60 (fun p t => 1 ≤ p.p0.toNat ∧ p.p0.toNat ≤ 15 ∧ subscribeError p.payload = none ∧ t.host.subs[f16 p.p0.toNat].present = false) ∧
    Meets 0x60 (fun p _ => p.p0.toNat = 0 ∨ 15 < p.p0.toNat) ∧
    (∃ (o : Nat), Meets 0x60 (fun p _ => 1 ≤ p.p0.toNat ∧ p.p0.toNat ≤ 15 ∧ subscribeError p.payload = some o)) ∧
    Meets 0x60 (fun p t => 1 ≤ p.p0.toNat ∧ p.p0.toNat ≤ 15 ∧ subscribeError p.payload = none ∧ t.host.subs[f16 p.p0.toNat].present = true) ∧
    Meets 0x62 (fun p t => 1 ≤ p.p0.toNat ∧ p.p0.toNat ≤ 15 ∧ t.host.subs[f16 p.p0.toNat].present = true) ∧
    Meets 0x62 (fun p t => p.p0.toNat = 0 ∨ 15 < p.p0.toNat ∨ t.host.subs[f16 p.p0.toNat].present = false) :=
  ⟨meets base 0 15 0 [0x01, 0x00, 0x00, 0x00, 0x00, 0x00, 0x00, 0x00, 0x00, 0x00, 0x00, 0x00, 0x01, 0x00, 0x00, 0x00] (by decide +kernel),
   meets base 0 16 0 [] (by decide +kernel),
   ⟨0, meets base 0 1 0 [] (by decide +kernel)⟩,
   meets (base.setHost { base.host with subs := base.host.subs.set 15 { present := true } }) 0 15 0 [0x01, 0x00, 0x00, 0x00, 0x00, 0x00, 0x00, 0x00, 0x00, 0x00, 0x00, 0x00, 0x01, 0x00, 0x00, 0x00] (by decide +kernel),
   meets (base.setHost { base.host with subs := base.host.subs.set 15 { present := true } }) 0 15 0 [] (by decide +kernel),
   meets base 0 15 0 [] (by decide +kernel)⟩

/-- Witness of each clause of PointCommandsComplete. -/
theorem witness_PointCommandsComplete :
    Meets 0x65 (fun p _ => p.p0.toNat ≤ 131071 ∧ 1 ≤ p.p1.toNat ∧ p.p0.toNat + p.p1.toNat ≤ 131072) ∧
    Meets 0x65 (fun p _ => 131071 < p.p0.toNat) ∧
    Meets 0x65 (fun p _ => p.p0.toNat ≤ 131071 ∧ (p.p1.toNat = 0 ∨ 131072 < p.p0.toNat + p.p1.toNat)) ∧
    Meets 0x63 (fun p _ => p.payload.length ≠ 8 * p.p0.toNat) ∧
    (∃ (v : Verdict), Meets 0x63 (fun p t => p.payload.length = 8 * p.p0.toNat ∧ firstVerdict (t.pointRecBad true) (numbered 0 (chunks 8 p.p0.toNat p.payload)) = some v)) ∧
    Meets 0x63 (fun p t => p.payload.length = 8 * p.p0.toNat ∧ firstVerdict (t.pointRecBad true) (numbered 0 (chunks 8 p.p0.toNat p.payload)) = none) ∧
    Meets 0x64 (fun p _ => p.payload.length ≠ 8 * p.p0.toNat) ∧
    (∃ (v : Verdict), Meets 0x64 (fun p t => p.payload.length = 8 * p.p0.toNat ∧ firstVerdict (t.pointRecBad false) (numbered 0 (chunks 8 p.p0.toNat p.payload)) = some v)) ∧
    Meets 0x64 (fun p t => p.payload.length = 8 * p.p0.toNat ∧ firstVerdict (t.pointRecBad false) (numbered 0 (chunks 8 p.p0.toNat p.payload)) = none) :=
  ⟨meets base 0 131071 1 [] (by decide +kernel),
   meets base 0 131072 1 [] (by decide +kernel),
   meets base 0 131071 2 [] (by decide +kernel),
   meets celled 0 1 0 [] (by decide +kernel),
   ⟨⟨stRefused, 0, 0⟩, meets celled 0 1 0 [0x10, 0x00, 0x00, 0x00, 0x01, 0x00, 0x00, 0x00] (by decide +kernel)⟩,
   meets celled 0 1 0 [0x07, 0x00, 0x00, 0x00, 0x01, 0x00, 0x00, 0x00] (by decide +kernel),
   meets celled 0 1 0 [] (by decide +kernel),
   ⟨badAt 0 (ident 4 0), meets celled 0 1 0 [0x07, 0x00, 0x00, 0x00, 0x01, 0x00, 0x00, 0x00] (by decide +kernel)⟩,
   meets celled 0 1 0 [0x08, 0x00, 0x00, 0x00, 0x01, 0x00, 0x00, 0x00] (by decide +kernel)⟩

/-- Witness of each clause of GatedSafetyCommandsCheckFirst. -/
theorem witness_GatedSafetyCommandsCheckFirst :
    Meets 0x70 (fun p _ => p.p0.toNat = 0 ∨ 512 < p.p0.toNat) ∧
    Meets 0x70 (fun p _ => 1 ≤ p.p0.toNat ∧ p.p0.toNat ≤ 512 ∧ p.payload.length ≠ 8 * p.p0.toNat) ∧
    (∃ (v : Verdict), Meets 0x70 (fun p t => 1 ≤ p.p0.toNat ∧ p.p0.toNat ≤ 512 ∧ p.payload.length = 8 * p.p0.toNat ∧ t.safeRecsBad p.payload p.p0.toNat = some v)) ∧
    Meets 0x70 (fun p t => 1 ≤ p.p0.toNat ∧ p.p0.toNat ≤ 512 ∧ p.payload.length = 8 * p.p0.toNat ∧ t.safeRecsBad p.payload p.p0.toNat = none) ∧
    Meets 0x71 (fun p _ => p.p0.toNat = 0 ∨ 4096 < p.p0.toNat) ∧
    Meets 0x71 (fun p _ => 1 ≤ p.p0.toNat ∧ p.p0.toNat ≤ 4096 ∧ p.payload.length ≠ 8 * p.p0.toNat) ∧
    (∃ (v : Verdict), Meets 0x71 (fun p t => 1 ≤ p.p0.toNat ∧ p.p0.toNat ≤ 4096 ∧ p.payload.length = 8 * p.p0.toNat ∧ t.assignRecsBad p.payload p.p0.toNat = some v)) ∧
    Meets 0x71 (fun p t => 1 ≤ p.p0.toNat ∧ p.p0.toNat ≤ 4096 ∧ p.payload.length = 8 * p.p0.toNat ∧ t.assignRecsBad p.payload p.p0.toNat = none) :=
  ⟨meets base 14 513 0 [] (by decide +kernel),
   meets base 14 512 0 [] (by decide +kernel),
   ⟨badAt 0, meets base 14 1 0 [0x00, 0x0C, 0x00, 0x00, 0x00, 0x00, 0x00, 0x00] (by decide +kernel)⟩,
   meets celled 14 1 0 [0x00, 0x0A, 0x70, 0x00, 0x00, 0x00, 0x00, 0x20] (by decide +kernel),
   meets base 14 4097 0 [] (by decide +kernel),
   meets base 14 4096 0 [] (by decide +kernel),
   ⟨badAt 0 (ident 4 0), meets celled 14 1 0 [0x07, 0x00, 0x00, 0x00, 0x01, 0x00, 0x00, 0x00] (by decide +kernel)⟩,
   meets celled 14 1 0 [0x10, 0x00, 0x00, 0x00, 0x01, 0x00, 0x00, 0x00] (by decide +kernel)⟩

/-- Witness of each clause of TimeCommandsComplete. -/
theorem witness_TimeCommandsComplete :
    Meets 0x80 (fun _ _ => True) ∧
    Meets 0x81 (fun p t => t.timeSetCheck p = none) ∧
    (∃ (v : Verdict), Meets 0x81 (fun p t => t.timeSetCheck p = some v)) ∧
    Meets 0x82 (fun p _ => p.p0.toNat ≤ 2) ∧
    Meets 0x82 (fun p _ => 2 < p.p0.toNat) ∧
    Meets 0x83 (fun p _ => syncOutCheck p.p0.toNat p.p1.toNat = none) ∧
    (∃ (v : Verdict), Meets 0x83 (fun p _ => syncOutCheck p.p0.toNat p.p1.toNat = some v)) ∧
    Meets 0x84 (fun _ _ => True) :=
  ⟨meets base 0 0 0 [] (by decide +kernel),
   meets localTime 0 0 0 (List.replicate 8 0 ++ [0xFF, 0xC9, 0x9A, 0x3B]) (by decide +kernel),
   ⟨badAt 8, meets localTime 0 0 0 (List.replicate 8 0 ++ [0x00, 0xCA, 0x9A, 0x3B]) (by decide +kernel)⟩,
   meets base 0 2 0 [] (by decide +kernel),
   meets base 0 3 0 [] (by decide +kernel),
   meets base 0 1000 999 [] (by decide +kernel),
   ⟨badAt atP1, meets base 0 1000 1000 [] (by decide +kernel)⟩,
   meets base 0 0 0 [] (by decide +kernel)⟩

/-- Witness of each clause of RingCommandsComplete. -/
theorem witness_RingCommandsComplete :
    Meets 0x90 (fun p _ => p.p0.toNat ≤ 3) ∧
    Meets 0x90 (fun p _ => 3 < p.p0.toNat) ∧
    Meets 0x91 (fun p t => p.p0.toNat ≤ 3 ∧ (p.p1.toNat = 0xFF ∨ (1 ≤ p.p1.toNat ∧ p.p1.toNat ≤ 254 ∧ ((t.theCell.hops (f4 p.p0.toNat).val).map (·.1)).contains p.p1.toNat = true))) ∧
    Meets 0x91 (fun p _ => 3 < p.p0.toNat) ∧
    Meets 0x91 (fun p t => p.p0.toNat ≤ 3 ∧ p.p1.toNat ≠ 0xFF ∧ (p.p1.toNat = 0 ∨ 254 < p.p1.toNat ∨ ¬ ((t.theCell.hops (f4 p.p0.toNat).val).map (·.1)).contains p.p1.toNat = true)) ∧
    (∃ (rec : NodeRec), Meets 0x92 (fun p t => t.theCell.nodes[p.p0.toNat]? = some rec ∧ (t.rings[f4 rec.ring].hop rec.hop).scheduled = false ∧ (t.rings[f4 rec.ring].hop rec.hop).state ≠ .readmit)) ∧
    Meets 0x92 (fun p t => t.theCell.nodes[p.p0.toNat]? = none) ∧
    (∃ (rec : NodeRec), Meets 0x92 (fun p t => t.theCell.nodes[p.p0.toNat]? = some rec ∧ ((t.rings[f4 rec.ring].hop rec.hop).scheduled = true ∨ (t.rings[f4 rec.ring].hop rec.hop).state = .readmit))) :=
  ⟨meets base 0 3 0 [] (by decide +kernel),
   meets base 0 4 0 [] (by decide +kernel),
   meets celled 0 0 2 [] (by decide +kernel),
   meets base 0 4 0 [] (by decide +kernel),
   meets celled 0 0 3 [] (by decide +kernel),
   ⟨cell.nodes.head (by decide), meets celled 0 0 0 [] (by decide +kernel)⟩,
   meets celled 0 2 0 [] (by decide +kernel),
   ⟨cell.nodes.head (by decide), meets (celled.setRing 0 (celled.rings[(0 : Fin 4)].putHop 1 { state := .run })) 0 0 0 [] (by decide +kernel)⟩⟩

/-- Witness of each clause of CanCommandsComplete. -/
theorem witness_CanCommandsComplete :
    Meets 0xA0 (fun p t => t.can[canOf p].bufs[bufOf p].use = 2 ∧ p.payload.length = 72 ∧ frameErrors t.can[canOf p] p.payload = [] ∧ t.can[canOf p].bufs[bufOf p].tx = none) ∧
    Meets 0xA0 (fun p t => t.can[canOf p].bufs[bufOf p].use ≠ 2) ∧
    Meets 0xA0 (fun p t => t.can[canOf p].bufs[bufOf p].use = 2 ∧ p.payload.length ≠ 72) ∧
    (∃ (o : Nat), Meets 0xA0 (fun p t => t.can[canOf p].bufs[bufOf p].use = 2 ∧ p.payload.length = 72 ∧ (frameErrors t.can[canOf p] p.payload).head? = some o)) ∧
    Meets 0xA0 (fun p t => t.can[canOf p].bufs[bufOf p].use = 2 ∧ p.payload.length = 72 ∧ frameErrors t.can[canOf p] p.payload = [] ∧ t.can[canOf p].bufs[bufOf p].tx ≠ none) ∧
    Meets 0xA1 (fun p t => p.origin ≠ .partner ∧ t.can[canOf p].bufs[bufOf p].tx ≠ none ∧ (∀ o, t.can[canOf p].onBus = some o → o.buf ≠ (bufOf p).val)) ∧
    (∃ (o : CanOnBus), Meets 0xA1 (fun p t => t.can[canOf p].bufs[bufOf p].tx ≠ none ∧ (p.origin = .partner ∨ ∃ o, t.can[canOf p].onBus = some o ∧ o.buf = (bufOf p).val))) ∧
    Meets 0xA1 (fun p t => t.can[canOf p].bufs[bufOf p].tx = none) ∧
    (∃ (f : CanFrame) (w : DWord), Meets 0xA2 (fun p t => t.can[canOf p].bufs[bufOf p].use = 1 ∧ t.can[canOf p].bufs[bufOf p].full = true ∧ t.can[canOf p].bufs[bufOf p].lock = none ∧ t.can[canOf p].bufs[bufOf p].frame = some (f, w))) ∧
    Meets 0xA3 (fun p t => p.payload.length = 528 ∧ canCfgErrors p.payload = [] ∧ t.can[canOf p].waiting = []) ∧
    Meets 0xA3 (fun p _ => p.payload.length ≠ 528) ∧
    (∃ (o : Nat), Meets 0xA3 (fun p _ => p.payload.length = 528 ∧ (canCfgErrors p.payload).head? = some o)) ∧
    Meets 0xA3 (fun p t => p.payload.length = 528 ∧ canCfgErrors p.payload = [] ∧ t.can[canOf p].waiting ≠ []) :=
  ⟨meets (withCan base { cfg := 0x80000000 } none) 0 0x3F03 0 (List.replicate 72 0) (by decide +kernel),
   meets (withCan base {} none) 0 0x3F03 0 [] (by decide +kernel),
   meets (withCan base { cfg := 0x80000000 } none) 0 0x3F03 0 [] (by decide +kernel),
   ⟨0, meets (withCan base { cfg := 0x80000000 } none) 0 0x3F03 0 ([0, 0, 0, 0x80] ++ List.replicate 68 0) (by decide +kernel)⟩,
   meets (withCan base { cfg := 0x80000000, tx := some (frameOf [], 0, 6) } none) 0 0x3F03 0 (List.replicate 72 0) (by decide +kernel),
   meets (withCan base { cfg := 0x80000000, tx := some (frameOf [], 0, 6) } none) 0 0x3F03 0 [] (⟨by decide +kernel, by decide +kernel, fun o h => absurd h (by revert o; decide +kernel)⟩),
   ⟨⟨63, 0, false⟩, meets (withCan base { cfg := 0x80000000, tx := some (frameOf [], 0, 6) } (some ⟨63, 0, false⟩)) 0 0x3F03 0 [] (by decide +kernel)⟩,
   meets (withCan base { cfg := 0x80000000 } none) 0 0x3F03 0 [] (by decide +kernel),
   ⟨frameOf [], 9, meets (withCan base { cfg := 0x40000000, full := true, frame := some (frameOf [], 9) } none) 0 0x3F03 0 [] (by decide +kernel)⟩,
   meets (withCan base { cfg := 0x80000000 } none) 0 3 0 canConfig (by decide +kernel),
   meets base 0 3 0 [] (by decide +kernel),
   ⟨0, meets base 0 3 0 (List.replicate 528 0) (by decide +kernel)⟩,
   meets (withCan base { cfg := 0x80000000, tx := some (frameOf [], 0, 6) } none) 0 3 0 canConfig (by decide +kernel)⟩

/-- Witness of each clause of CanRxReadRefusals. -/
theorem witness_CanRxReadRefusals :
    Meets 0xA2 (fun p t => t.can[canOf p].bufs[bufOf p].use ≠ 1) ∧
    Meets 0xA2 (fun p t => t.can[canOf p].bufs[bufOf p].use = 1 ∧ (t.can[canOf p].bufs[bufOf p].full = false ∨ t.can[canOf p].bufs[bufOf p].lock ≠ none)) :=
  ⟨meets (withCan base { cfg := 0x80000000 } none) 0 0x3F03 0 [] (by decide +kernel),
   meets (withCan base { cfg := 0x40000000, full := true, lock := some 0 } none) 0 0x3F03 0 [] (by decide +kernel)⟩

/-- Witness of each clause of TwinCommandsComplete. -/
theorem witness_TwinCommandsComplete :
    Meets 0xB0 (fun _ _ => True) ∧
    (∃ (v : Verdict), Meets 0xB1 (fun p _ => roleBad p.payload = some v)) ∧
    Meets 0xB1 (fun p t => roleBad p.payload = none ∧ t.cellOn = true ∧ byteAt p.payload 0 ≠ fld t.twin.cfg 31 30) ∧
    Meets 0xB1 (fun p t => roleBad p.payload = none ∧ (t.cellOn = false ∨ byteAt p.payload 0 = fld t.twin.cfg 31 30)) ∧
    Meets 0xB2 (fun p t => p.origin ≠ .partner ∧ (t.pairActive = false ∨ t.twin.swapReply ≠ none)) ∧
    Meets 0xB2 (fun p _ => p.origin = .partner) ∧
    Meets 0xB2 (fun p t => p.origin ≠ .partner ∧ t.pairActive = true ∧ t.twin.swapReply = none ∧ t.twin.swapTick ≠ none) ∧
    Meets 0xB2 (fun p t => p.origin ≠ .partner ∧ t.pairActive = true ∧ t.twin.swapReply = none ∧ t.twin.swapTick = none ∧ (t.setTwin { t.twin with swapReply := some (p.queue, p.tag) }).swapBlocked = true) ∧
    Meets 0xB2 (fun p t => p.origin ≠ .partner ∧ t.pairActive = true ∧ t.twin.swapReply = none ∧ t.twin.swapTick = none ∧ (t.setTwin { t.twin with swapReply := some (p.queue, p.tag) }).swapBlocked = false) :=
  ⟨meets base 0 0 0 [] (by decide +kernel),
   ⟨badAt 0, meets base 14 0 0 [] (by decide +kernel)⟩,
   meets celled 14 0 0 [0x02, 0x01, 0xA0, 0x05, 0x00, 0x00, 0x00, 0x00, 0x00, 0x00, 0x00, 0x00, 0x00, 0x00, 0x00, 0x00] (by decide +kernel),
   meets base 14 0 0 [0x02, 0x01, 0xA0, 0x05, 0x00, 0x00, 0x00, 0x00, 0x00, 0x00, 0x00, 0x00, 0x00, 0x00, 0x00, 0x00] (by decide +kernel),
   meets base 0 0 0 [] (by decide +kernel),
   meets' 0 5 (holding base 0 { pk 0 0xB2 0 0 [] with origin := .partner }) { pk 0 0xB2 0 0 [] with origin := .partner } ⟨⟨by decide +kernel, by decide +kernel⟩, by decide +kernel⟩,
   meets (paired (some 20) none) 0 0 0 [] (by decide +kernel),
   meets (waiting (paired none none) 0x70) 0 0 0 [] (by decide +kernel),
   meets (paired none none) 0 0 0 [] (by decide +kernel)⟩

/-- Witness of each clause of FirmwareCommandsComplete. -/
theorem witness_FirmwareCommandsComplete :
    (∃ (im : FwImage), Meets 0xD1 (fun _ t => t.sys.staged = some im ∧ t.sys.burning = none ∧ t.sys.imageValid im = true)) ∧
    (∃ (im : FwImage), Meets 0xD1 (fun _ t => t.sys.staged = some im ∧ t.sys.burning = none ∧ t.sys.imageValid im = false)) ∧
    Meets 0xD1 (fun _ t => t.sys.staged = none) ∧
    Meets 0xD1 (fun _ t => t.sys.staged ≠ none ∧ t.sys.burning ≠ none) ∧
    Meets 0xD2 (fun p t => t.sys.verified = true ∧ t.sys.staged ≠ none ∧ t.sys.burning = none ∧ (bitAt p.p0 0 && t.cellOn) = false) ∧
    Meets 0xD2 (fun _ t => t.sys.verified = false ∨ t.sys.staged = none) ∧
    Meets 0xD2 (fun p t => t.sys.verified = true ∧ t.sys.staged ≠ none ∧ (t.sys.burning ≠ none ∨ (bitAt p.p0 0 && t.cellOn) = true)) ∧
    Meets 0xD3 (fun p t => p.payload.length = 8 * p.p0.toNat ∧ otpRecsBad p.payload p.p0.toNat 0 t.sys.otp = none) ∧
    Meets 0xD3 (fun p _ => p.payload.length ≠ 8 * p.p0.toNat) ∧
    (∃ (v : Verdict), Meets 0xD3 (fun p t => p.payload.length = 8 * p.p0.toNat ∧ otpRecsBad p.payload p.p0.toNat 0 t.sys.otp = some v)) :=
  ⟨⟨image, meets (staged false) 0 0 0 [] (⟨rfl, rfl, image_valid⟩)⟩,
   ⟨⟨[]⟩, meets (base.setSys { base.sys with staged := some ⟨[]⟩ }) 0 0 0 [] (⟨rfl, rfl, by decide +kernel⟩)⟩,
   meets base 0 0 0 [] (by decide +kernel),
   meets ((staged true).setSys { (staged true).sys with burning := some image }) 0 0 0 [] (by decide +kernel),
   meets (staged true) 14 1 0 [] (by decide +kernel),
   meets base 14 0 0 [] (by decide +kernel),
   meets ((staged true).setSys { (staged true).sys with burning := some image }) 14 0 0 [] (by decide +kernel),
   meets base 14 1 0 [0x10, 0x00, 0x00, 0x00, 0x01, 0x00, 0x00, 0x00] (by decide +kernel),
   meets base 14 1 0 [] (by decide +kernel),
   ⟨badAt 0, meets base 14 1 0 [0x11, 0x00, 0x00, 0x00, 0x01, 0x00, 0x00, 0x00] (by decide +kernel)⟩⟩

/-- Witness of each clause of ParameterCommandsComplete. -/
theorem witness_ParameterCommandsComplete :
    (∃ (v : Verdict), Meets 0xE0 (fun p _ => paramCheck p.p0 p.p1 = some v)) ∧
    Meets 0xE0 (fun p _ => paramCheck p.p0 p.p1 = none) ∧
    (∃ (v : Verdict), Meets 0xE1 (fun p _ => paramCheck p.p0 p.p1 = some v)) ∧
    Meets 0xE1 (fun p _ => paramCheck p.p0 p.p1 = none ∧ p.payload.length ≠ 4 * p.p1.toNat) ∧
    (∃ (v : Verdict), Meets 0xE1 (fun p t => paramCheck p.p0 p.p1 = none ∧ p.payload.length = 4 * p.p1.toNat ∧ t.writeCheck (some p.queue) (pageOf p.p0) (wordsFrom (offsetOf p.p0) (wordsAt p.payload 0 p.p1.toNat)) = some v)) ∧
    Meets 0xE1 (fun p t => paramCheck p.p0 p.p1 = none ∧ p.payload.length = 4 * p.p1.toNat ∧ t.writeCheck (some p.queue) (pageOf p.p0) (wordsFrom (offsetOf p.p0) (wordsAt p.payload 0 p.p1.toNat)) = none) :=
  ⟨⟨badAt atP0, meets base 0 0x10000000 1 [] (by decide +kernel)⟩,
   meets base 0 0 256 [] (by decide +kernel),
   ⟨badAt atP1, meets base 0 0 257 [] (by decide +kernel)⟩,
   meets base 0 0 256 [] (by decide +kernel),
   ⟨⟨stRefused, 0, 0⟩, meets base 0 0x00040A00 1 [0, 0, 0, 0] (by decide +kernel)⟩,
   meets base 0 0x00000700 1 [0, 0, 0, 0] (by decide +kernel)⟩

/-- Witness of each clause of FragmentsAreCollected, and of what its last fragments carry: a kernel image and a rule table. -/
theorem witness_FragmentsAreCollected :
    ((∃ b, Meets 0x10 (fun p t => judgeFrag (t.cell.partOf .cell) .cell p ((fun t => t.cell.job.isSome) t) = .stored b)) ∧
      (∃ v, Meets 0x10 (fun p t => judgeFrag (t.cell.partOf .cell) .cell p ((fun t => t.cell.job.isSome) t) = .bad v false)) ∧
      (∃ v, Meets 0x10 (fun p t => judgeFrag (t.cell.partOf .cell) .cell p ((fun t => t.cell.job.isSome) t) = .bad v true)) ∧
      (∃ b, Meets 0x10 (fun p t => judgeFrag (t.cell.partOf .cell) .cell p ((fun t => t.cell.job.isSome) t) = .whole b))) ∧
    ((∃ b, Meets 0x11 (fun p t => judgeFrag (t.cell.partOf .cell) .cell p ((fun t => t.cell.job.isSome) t) = .stored b)) ∧
      (∃ v, Meets 0x11 (fun p t => judgeFrag (t.cell.partOf .cell) .cell p ((fun t => t.cell.job.isSome) t) = .bad v false)) ∧
      (∃ v, Meets 0x11 (fun p t => judgeFrag (t.cell.partOf .cell) .cell p ((fun t => t.cell.job.isSome) t) = .bad v true)) ∧
      (∃ b, Meets 0x11 (fun p t => judgeFrag (t.cell.partOf .cell) .cell p ((fun t => t.cell.job.isSome) t) = .whole b))) ∧
    ((∃ b, Meets 0x13 (fun p t => judgeFrag (t.cell.partOf .cell) .cell p ((fun t => t.cell.job.isSome) t) = .stored b)) ∧
      (∃ v, Meets 0x13 (fun p t => judgeFrag (t.cell.partOf .cell) .cell p ((fun t => t.cell.job.isSome) t) = .bad v false)) ∧
      (∃ v, Meets 0x13 (fun p t => judgeFrag (t.cell.partOf .cell) .cell p ((fun t => t.cell.job.isSome) t) = .bad v true)) ∧
      (∃ b, Meets 0x13 (fun p t => judgeFrag (t.cell.partOf .cell) .cell p ((fun t => t.cell.job.isSome) t) = .whole b))) ∧
    ((∃ b, Meets 0x40 (fun p t => judgeFrag (t.cell.partOf .sched) .sched p ((fun _ => false) t) = .stored b)) ∧
      (∃ v, Meets 0x40 (fun p t => judgeFrag (t.cell.partOf .sched) .sched p ((fun _ => false) t) = .bad v false)) ∧
      (∃ v, Meets 0x40 (fun p t => judgeFrag (t.cell.partOf .sched) .sched p ((fun _ => false) t) = .bad v true)) ∧
      (∃ b, Meets 0x40 (fun p t => judgeFrag (t.cell.partOf .sched) .sched p ((fun _ => false) t) = .whole b))) ∧
    ((∃ b, Meets 0x50 (fun p t => judgeFrag (t.cell.partOf .kernel) .kernel p ((fun _ => false) t) = .stored b)) ∧
      (∃ v, Meets 0x50 (fun p t => judgeFrag (t.cell.partOf .kernel) .kernel p ((fun _ => false) t) = .bad v false)) ∧
      (∃ v, Meets 0x50 (fun p t => judgeFrag (t.cell.partOf .kernel) .kernel p ((fun _ => false) t) = .bad v true)) ∧
      (∃ b, Meets 0x50 (fun p t => judgeFrag (t.cell.partOf .kernel) .kernel p ((fun _ => false) t) = .whole b))) ∧
    ((∃ b, Meets 0x66 (fun p t => judgeFrag (t.cell.partOf .rule) .rule p ((fun t => t.nibble.rulesNext.isSome) t) = .stored b)) ∧
      (∃ v, Meets 0x66 (fun p t => judgeFrag (t.cell.partOf .rule) .rule p ((fun t => t.nibble.rulesNext.isSome) t) = .bad v false)) ∧
      (∃ v, Meets 0x66 (fun p t => judgeFrag (t.cell.partOf .rule) .rule p ((fun t => t.nibble.rulesNext.isSome) t) = .bad v true)) ∧
      (∃ b, Meets 0x66 (fun p t => judgeFrag (t.cell.partOf .rule) .rule p ((fun t => t.nibble.rulesNext.isSome) t) = .whole b))) ∧
    ((∃ b, Meets 0xD0 (fun p t => judgeFrag (t.cell.partOf .fw) .fw p ((fun t => t.sys.burning.isSome) t) = .stored b)) ∧
      (∃ v, Meets 0xD0 (fun p t => judgeFrag (t.cell.partOf .fw) .fw p ((fun t => t.sys.burning.isSome) t) = .bad v false)) ∧
      (∃ v, Meets 0xD0 (fun p t => judgeFrag (t.cell.partOf .fw) .fw p ((fun t => t.sys.burning.isSome) t) = .bad v true)) ∧
      (∃ b, Meets 0xD0 (fun p t => judgeFrag (t.cell.partOf .fw) .fw p ((fun t => t.sys.burning.isSome) t) = .whole b))) :=
  ⟨fragments_met 0x10 .cell (fun t => t.cell.job.isSome) (fun p => by first | rfl | (unfold State.begun; split <;> rfl)),
   fragments_met 0x11 .cell (fun t => t.cell.job.isSome) (fun p => by first | rfl | (unfold State.begun; split <;> rfl)),
   fragments_met 0x13 .cell (fun t => t.cell.job.isSome) (fun p => by first | rfl | (unfold State.begun; split <;> rfl)),
   fragments_met 0x40 .sched (fun _ => false) (fun p => by first | rfl | (unfold State.begun; split <;> rfl)),
   fragments_met 0x50 .kernel (fun _ => false) (fun p => by first | rfl | (unfold State.begun; split <;> rfl)),
   fragments_met 0x66 .rule (fun t => t.nibble.rulesNext.isSome) (fun p => by first | rfl | (unfold State.begun; split <;> rfl)),
   fragments_met 0xD0 .fw (fun t => t.sys.burning.isSome) (fun p => by first | rfl | (unfold State.begun; split <;> rfl))⟩

/-- The whole images that those commands take: each passes the checks of its kind. -/
theorem test_images : kernelCheck kernelBytes = none ∧ schedCheck schedBytes = none ∧ (celled.ruleCheck ruleBytes).isOk = true :=
  by and_intros <;> decide +kernel

/-- Witness of FragmentOrder. -/
theorem witness_FragmentOrder :
    (let p := (pk 0 0x10 0 16777216 [0]); p.p0 = 0 ∧ (streamLimits .cell).1 ≤ p.p1.toNat ∧ p.p1.toNat ≤ (streamLimits .cell).2 ∧ p.payload.length < p.p1.toNat) ∧
    (let p := (pk 0 0x10 0 32 (List.replicate 32 0)); p.p0 = 0 ∧ (streamLimits .cell).1 ≤ p.p1.toNat ∧ p.payload.length = p.p1.toNat) ∧
    (let p := (pk 0 0x10 0 32 (List.replicate 33 0)); p.p0 = 0 ∧ (streamLimits .cell).1 ≤ p.p1.toNat ∧ p.p1.toNat < p.payload.length) ∧
    (let p := (pk 0 0x10 1 32 []); p.p0 ≠ 0) ∧
    (let p := (pk 0 0x10 0 31 []); p.p0 = 0 ∧ p.p1.toNat < (streamLimits .cell).1) ∧
    (let p := (pk 0 0x10 0 16777217 []); p.p0 = 0 ∧ (streamLimits .cell).2 < p.p1.toNat) ∧
    (let p := (pk 0 0x10 3 64 []); let i := (⟨.cell, 0, 0x10, [0, 0], 64, 0⟩ : Partial); i.queue = p.queue ∧ i.opcode = p.opcode ∧ p.p0 ≠ 0 ∧ p.p0.toNat ≠ i.bytes.length) ∧
    (let p := (pk 0 0x10 2 65 []); let i := (⟨.cell, 0, 0x10, [0, 0], 64, 0⟩ : Partial); i.queue = p.queue ∧ i.opcode = p.opcode ∧ p.p0 ≠ 0 ∧ p.p0.toNat = i.bytes.length ∧ p.p0.toNat + p.payload.length ≤ p.p1.toNat ∧ i.total ≠ p.p1.toNat) ∧
    (let p := (pk 0 0x10 2 64 (List.replicate 62 0)); let i := (⟨.cell, 0, 0x10, [0, 0], 64, 0⟩ : Partial); i.queue = p.queue ∧ i.opcode = p.opcode ∧ p.p0.toNat = i.bytes.length ∧ p.p0.toNat + p.payload.length ≤ p.p1.toNat ∧ i.total = p.p1.toNat ∧ p.lastFrag = true) ∧
    (let p := (pk 0 0x10 2 64 []); let i := (⟨.cell, 1, 0x10, [0, 0], 64, 0⟩ : Partial); i.queue ≠ p.queue ∨ i.opcode ≠ p.opcode) :=
  by and_intros <;> decide +kernel

/-- Witness of each clause of CellImageIsTaken: no active cell, an image that is refused, a ring that is not ready, a safety
object on queue 0, an image that is placed, and an amendment that waits for the rule table. -/
theorem witness_CellImageIsTaken :
    base.cell.active = none ∧ (∃ v, validate [] none = .error v) ∧
    (∃ c ms, validate nodeBytes none = .ok c ∧ (unready base).notReady c.ringBits = some ms) ∧
    (∃ c, validate nodeBytes none = .ok c ∧ base.notReady c.ringBits = none ∧ altersSafety base.theCell c = true ∧
      (pk 0 0x10 0 0 []).queue ≠ 14) ∧
    (∃ c, validate cellBytes none = .ok c ∧ base.notReady c.ringBits = none ∧ altersSafety base.theCell c = false) ∧
    (ruled.cellOn = true ∧ ∃ c v, validate amendBytes ruled.cell.active = .ok c ∧ ruled.notReady c.ringBits = none ∧
      altersSafety ruled.theCell c = false ∧ ruled.amendBusy ruled.theCell c = some v) := by
  refine ⟨rfl, ?_, ?_, ?_, ?_, ?_⟩
  · cases e : validate [] none with
    | error v => exact ⟨v, rfl⟩
    | ok c => have h := images_valid.2.2.2; rw [e] at h; cases h
  · exact ⟨_, _, ok_held images_valid.2.1, by rw [node_rings.1]; rfl⟩
  · exact ⟨_, ok_held images_valid.2.1, by rw [node_rings.1]; decide +kernel, node_rings.2.1, by decide⟩
  · exact ⟨_, ok_held images_valid.1, by rw [node_rings.2.2.1]; rfl, node_rings.2.2.2.1⟩
  · refine ⟨rfl, held amendBytes (some {}), ⟨stBusy, 0, ident 4 0⟩, ok_held images_valid.2.2.1, ?_, node_rings.2.2.2.2.1, ?_⟩
    · rw [node_rings.2.2.2.2.2]; rfl
    · unfold held validate headerErrors
      cases Config.gradeH <;> decide +kernel

/-- Witness of SegPushChecks. -/
theorem witness_SegPushChecks :
    (celled.theCell.chainRec ((pk 0 0x20 1 0 []).p0.toNat % 16) = none) ∧
    (celled.theCell.chainRec ((pk 0 0x20 0 0 []).p0.toNat % 16) = cell.chains.head? ∧ (celled.setChain 0 { celled.motion.chains[(0 : Fin 16)] with state := .shed }).motion.chains[f16 0].state = .shed) ∧
    (celled.motion.chains[f16 0].state ≠ .shed ∧ 256 < (pk 0 0x20 0 257 []).p1.toNat) ∧
    (let p := pk 0 0x20 0 1 (List.replicate 4 0 ++ [0x20] ++ List.replicate 91 0); 1 ≤ p.p1.toNat ∧ p.p1.toNat ≤ 256 ∧ p.payload.length = 96 * p.p1.toNat ∧ (segFirstBad cell (cell.chains.head (by decide)) 0 (segRecords p.p1.toNat p.payload)).isSome = true) ∧
    (let p := pk 0 0x20 0 1 wait; p.payload.length = 96 * p.p1.toNat ∧ segFirstBad cell (cell.chains.head (by decide)) 0 (segRecords p.p1.toNat p.payload) = none ∧ celled.segPushCheck p = none) :=
  by and_intros <;> decide +kernel

/-- Witness of HostEventsComplete. -/
theorem witness_HostEventsComplete :
    (base.isReady rdQueues = true) ∧
    (let s := due (onTime (base.setQueue 0 { base.host.queues[(0 : Fin 16)] with msixAt := some 0, msixTail := 32 }) 2000) ⟨2, 6, 0, 0⟩; s.expired (DelayEntry.ofUser 6 (0 : Fin 16).val) = true ∧ base.expired (DelayEntry.ofUser 6 (0 : Fin 16).val) = false ∧ s.host.queues[(0 : Fin 16)].msixAt = some 0 ∧ 0 + 2000 ≤ s.time.cellNs ∧ s.host.queues[(0 : Fin 16)].cqTail ≠ s.host.queues[(0 : Fin 16)].msixTail) ∧
    (let s := base.setHost { base.host with ip0 := 1 }; s.isReady rdQueues = true ∧ s.isReady rdEth = true ∧ bitAt s.host.ctrl 0 = true ∧ s.host.ip0 ≠ 0 ∧ bitAt s.host.queues[(0 : Fin 16)].qcfg 31 = true ∧ s.host.queues[(0 : Fin 16)].onPort 0 = true ∧ s.host.queues[(0 : Fin 16)].resetting = false ∧ s.host.queues[(0 : Fin 16)].bound = none ∧ u16 [0, 0, 1, 0, 0, 0, 0, 0] 0 = 0 ∧ u16 [0, 0, 1, 0, 0, 0, 0, 0] 2 = 1 ∧ 0 ≤ s.host.segLen ∧ s.host.assembling = []) ∧
    (let p := { pk 0 0x20 0 0 [] with deadline := 1, index := 1 }; let o := { pk 0 0x20 0 0 [] with tag := 6 }; let s := due (onTime (holdingTwo base p o) 1001) ⟨2, 3, 0, 5⟩; let mine := fun (e : DelayEntry) => e.ofUser 3 (0 : Fin 16).val && e.b == (5 : Fin 1024).val; let u := s.entryRun mine; s.host.queues[(0 : Fin 16)].find (5 : Fin 1024) = some p ∧ p.phase = .accepted ∧ p.late s.time.cellNs = true ∧ s.expired mine = true ∧ (match rowOf p.opcode 0 5 ((u.setQueue 0 u.host.queues[(0 : Fin 16)].unfenced).setDisp (u.disp.trying p)) with | .next t => (t.host.queues[(0 : Fin 16)].find (5 : Fin 1024)).isSome | _ => false) = true) ∧
    (let p := { pk 0 0x04 0 0 [] with deadline := 1 }; let s := due (onTime (holding base 0 p) 1001) ⟨2, 3, 0, 5⟩; let mine := fun (e : DelayEntry) => e.ofUser 3 (0 : Fin 16).val && e.b == (5 : Fin 1024).val; let u := s.entryRun mine; (match rowOf p.opcode 0 5 ((u.setQueue 0 u.host.queues[(0 : Fin 16)].unfenced).setDisp (u.disp.trying p)) with | .next t => (t.host.queues[(0 : Fin 16)].find (5 : Fin 1024)).isNone | _ => false) = true) ∧
    (let mine := fun (e : DelayEntry) => e.ofUser 4 (0 : Fin 16).val && e.b == (7 : Word).toNat; (due base ⟨0, 4, 0, 7⟩).expired mine = true ∧ base.expired mine = false) ∧
    (let s := due (onTime (base.setCell { base.cell with partials := [⟨.fw, 0, 0xD0, [], 256, 0⟩] }) 10000000000) ⟨0, 8, streamNo .fw, 0⟩; s.expired (DelayEntry.ofUser 8 (streamNo .fw)) = true ∧ s.cell.partOf .fw = some ⟨.fw, 0, 0xD0, [], 256, 0⟩ ∧ 0 + 10000000000 ≤ s.time.cellNs) ∧
    ((base.writeReply 0).sys.restartAfter = none) ∧
    ((restarting.writeReply 0).sys.restartAfter = some (0, 6) ∧ (restarting.writeReply 0).inFlight 0 6 = false ∧ ((restarting.writeReply 0).host.queues[(0 : Fin 16)].replies.any (fun r => r.pkt.tag == 6)) = false) :=
  by and_intros <;> decide +kernel

/-- Witness of PageEventsComplete. -/
theorem witness_PageEventsComplete :
    (base.isReady rdQueues = true ∧ base.writeCheck none 0x0100 [((0x40 : Fin 256).val, 0xB0000010)] = none) ∧
    (State.reset.isReady rdQueues = false) ∧
    (base.sys.porstLow = false ∧ base.spiCheck [1, 0, 0, 0, 0] false ≠ none) ∧
    (base.spiCheck [0x0B, 0, 0, 0, 0] false = none) ∧
    (let r : List Byte := [0x02, 0x00, 0x07, 0x00, 0x00, 0x00, 0x00, 0x00, 0x00, 0x4B, 0x02, 0x91, 0x4B]; let s := base.setSys { base.sys with dbgEn := true }; 9 + 4 * (byteAt r 4 + 1) ≤ r.length ∧ s.spiCheck r true = none ∧ byteAt r 0 ≠ 0x0B) :=
  by and_intros <;> decide +kernel

/-- Witness of PresenceEventsComplete. -/
theorem witness_PresenceEventsComplete :
    ((waiting base 0x70).host.presence = some ⟨14, 6, 0x70, 1234, 0⟩) ∧
    (let s := onTime (waiting base 0x70) 50000000; let b : Press := ⟨50, true, true, true, true, 0⟩; 50 ≤ b.low ∧ b.inWindow = true ∧ b.seenHigh50 = true ∧ s.time.cellNs ≤ 0 + 60000000000 ∧ 0 + 1000000 * b.low ≤ s.time.cellNs) ∧
    ((100 : Nat) < 101 ∧ (5000 : Nat) < 5001 ∧ 0 + 1000000 * (5001 + 50) ≤ (onTime (waiting base 0x70) 5051000000).time.cellNs) ∧
    (0 + 60000000000 < (onTime (waiting base 0x70) 60000000001).time.cellNs ∧ (waiting base 0x70).time.cellNs ≤ 0 + 60000000000) ∧
    (let s := due (onTime (waiting base 0x70) 60000000000) ⟨60000000, 0, 14, 6⟩; 0 + 60000000000 ≤ s.time.cellNs ∧ s.expired (fun e => e.user == 0) = true ∧ base.expired (fun e => e.user == 0) = false) ∧
    (let s := due (onTime base 5000000000) ⟨5000000, 8, 5, 0⟩; 0 + 5000000000 ≤ s.time.cellNs ∧ s.expired (DelayEntry.ofUser 8 5) = true) :=
  by and_intros <;> decide +kernel

/-- Witness of PlacementEventsComplete. -/
theorem witness_PlacementEventsComplete :
    ((withJob celled none (some (job .degraded .placing []))).cell.regrade = some (job .degraded .placing []) ∧ (job .degraded .placing []).phase = .placing) ∧
    ((withJob celled (some (job .load .placing [])) none).cell.regrade = none ∧ (withJob celled (some (job .load .placing [])) none).cell.job = some (job .load .placing [])) ∧
    (let j := job .load (.announced 16) [3]; (withJob celled (some j) none).cell.job = some j ∧ j.toStage.contains (3 : Fin 4).val = true ∧ (j.placement.problems.flatMap (fun e => if e.1 = (3 : Fin 4).val then (List.range e.2.2.1).map (e.2.1 + ·) else [])).all (fun i => (withJob celled (some j) none).servedUnit i 1) = true) ∧
    (let s := celled.setProb 0 { celled.solver.probs[(0 : Fin 4)] with staging := true }; s.cell.job = none ∧ s.solver.probs[(0 : Fin 4)].staging = true ∧ s.solver.probs[(0 : Fin 4)].parts.all (fun i => s.servedUnit i 1) = true) ∧
    (let j := job .load (.announced 16) [3]; let s := onTime (withJob celled (some j) none) 14000000; s.cell.job = some j ∧ j.phase = .announced 16 ∧ j.toStage ≠ [] ∧ 16 * 1000000 ≤ s.stamp + 2000000) ∧
    (let j := job .load (.announced 16) []; let s := onTime (withJob celled (some j) none) 16000000; s.cell.regrade = none ∧ s.cell.job = some j ∧ s.onGrid 1000000 0 = true ∧ 16 ≤ s.tickNo ∧ s.digestsDiffer j = false ∧ j.kind ≠ .amend) ∧
    (let j := job .load (.announced 16) []; let s := onTime ((withJob celled (some j) none).setTwin { base.twin with state := .paired, peerDigest := 1 }) 16000000; s.cell.regrade = none ∧ s.cell.job = some j ∧ s.onGrid 1000000 0 = true ∧ 16 ≤ s.tickNo ∧ s.digestsDiffer j = true) ∧
    (let j := { job .amend (.announced 16) [] with cell := {} }; let s := onTime (withJob ruled (some j) none) 16000000; s.cell.regrade = none ∧ s.cell.job = some j ∧ s.onGrid 1000000 0 = true ∧ 16 ≤ s.tickNo ∧ s.digestsDiffer j = false ∧ j.kind = .amend ∧ (s.tablesBusy s.theCell j.cell).isSome = true) ∧
    (let j := job .degraded (.announced 16) []; let s := onTime (withJob celled none (some j)) 16000000; s.cell.regrade = some j ∧ s.cell.job = none ∧ s.jobDue j = true ∧ s.onGrid 1000000 0 = true ∧ s.digestsDiffer j = false ∧ (onTime celled 1).onGrid 1000000 0 = false) ∧
    (let j := { job .degraded (.announced 16) [] with rejoin := true }; let s := onTime ((withJob celled none (some j)).setTwin { base.twin with state := .paired, peerDigest := 1 }) 16000000; s.cell.regrade = some j ∧ s.cell.job = none ∧ s.jobDue j = true ∧ s.onGrid 1000000 0 = true ∧ s.digestsDiffer j = true ∧ j.rejoin = true ∧ (s.setCell { s.cell with regrade := none }).leavePair.cell.job = none) ∧
    (celled.cell.partMask.getLsbD 7 = false ∧ ∀ i : Fin 4, celled.solver.solves[i].running = false) ∧
    (celled.cell.tileMask.getLsbD 15 = false ∧ celled.kernelsOn 15 = [] ∧ celled.tiles.tiles[(15 : Fin 16)].busy = false ∧ (unready celled).isReady rdDsp = false ∧ celled.sys.inReset = false ∧ celled.isReady rdDsp = true) :=
  by and_intros <;> decide +kernel

/-- Witness of TimeEventsComplete. -/
theorem witness_TimeEventsComplete :
    (let s := base; s.isReady rdTime = true ∧ s.time.syncInEdge = false ∧ s.time.source ≠ 2) ∧
    (let s := pps .locked 2000000; s.isReady rdTime = true ∧ s.time.syncInEdge = false ∧ s.time.source = 2 ∧ 1000000 < (ppsOffset s.time.cellNs).natAbs) ∧
    (let s := standby (pps .locked 0); s.isReady rdTime = true ∧ s.time.source = 2 ∧ (ppsOffset s.time.cellNs).natAbs ≤ 1000000 ∧ s.followsPair = true) ∧
    (let s := pps .locked 1000000; s.time.source = 2 ∧ (ppsOffset s.time.cellNs).natAbs ≤ 1000000 ∧ s.followsPair = false ∧ s.time.state = .locked) ∧
    (let s := { pps .holdover 0 with cell := celled.cell }; s.time.source = 2 ∧ s.followsPair = false ∧ s.time.state = .holdover ∧ s.cellOn = true) ∧
    (let s := pps .freerun 0; s.time.source = 2 ∧ s.followsPair = false ∧ s.time.state = .freerun ∧ s.cellOn = false) ∧
    (State.reset.isReady rdTime = false) ∧
    ((ptp 0x66006400 0 none).slotLost 0 = false ∧ base.time.switchTo = none ∧ localTime.time.source ≠ 1) ∧
    (let s := ptp 0x66006400 0 (some (1, 1000000)); s.time.switchTo = some (1, 1000000) ∧ s.time.cellNs < 1000000) ∧
    (let s := onTime (base.setTime { base.time with outPer := 1000 }) 0; s.isReady rdTime = true ∧ s.time.outPer ≠ 0 ∧ s.drivesSync = true ∧ s.time.cellNs % 1000000000 % s.time.outPer.toNat = s.time.outOfs.toNat) ∧
    (let s := onTime (base.setTime { base.time with ctrl := 0xA6006400, lastPps := some 0 }) 3000000000; s.time.lastPps = some 0 ∧ s.time.source = 2 ∧ 0 + 3000000000 ≤ s.now) ∧
    (let s := onTime (ptp 0x26006400 0 none) 30000000000; s.slotLost 1 = true ∧ s.time.source ≠ 1) ∧
    (let s := onTime (ptp 0x66006400 0 none) 30000000000; let t := s.setPtpSlot 0 (s.time.slots[(0 : Fin 2)].silent s.now); s.slotLost 0 = true ∧ s.time.source = 1 ∧ (0 : Fin 2) = s.time.curSlot ∧ s.followsPair = false ∧ s.time.select = 2 ∧ t.time.maySwitch (1 - 0) = true) ∧
    (let s := onTime (ptp 0x46006400 0 none) 30000000000; s.slotLost 0 = true ∧ s.time.source = 1 ∧ (0 : Fin 2) = s.time.curSlot ∧ s.followsPair = false ∧ s.time.select ≠ 2) ∧
    (let s := onTime (ptp 0x66006400 0 (some (1, 1000000))) 1000000; s.time.switchTo = some (1, 1000000) ∧ 1000000 ≤ s.time.cellNs ∧ s.time.maySwitch 1 = true) ∧
    (let s := onTime ((ptp 0x66006400 0 (some (1, 1000000))).setPtpSlot 1 {}) 1000000; s.time.switchTo = some (1, 1000000) ∧ 1000000 ≤ s.time.cellNs ∧ s.time.maySwitch 1 = false ∧ s.time.slots[s.time.curSlot].parent.isSome = true) ∧
    (let s := onTime (((ptp 0x66006400 0 (some (1, 1000000))).setPtpSlot 1 {}).setPtpSlot 0 {}) 1000000; s.time.switchTo = some (1, 1000000) ∧ 1000000 ≤ s.time.cellNs ∧ s.time.maySwitch 1 = false ∧ s.time.slots[s.time.curSlot].parent = none) ∧
    (let s := onTime (ptp 0x66006400 1 none) 60000000000; s.time.source = 1 ∧ s.time.select = 2 ∧ s.time.curSlot = 1 ∧ s.time.slots[(0 : Fin 2)].lockedAt = some 0 ∧ 0 + 60000000000 ≤ s.now ∧ s.time.maySwitch 0 = true ∧ s.time.switchTo = none ∧ s.followsPair = false) ∧
    (let s := servo 0x80000000 (fun v => { v with heard := Vector.replicate 2 [] }); s.ptpOn 0 (msg .unsupported).l2 = true ∧ s.slotOf (msg .unsupported) = some 0 ∧ s.time.slots[(0 : Fin 2)].heard[(0 : Fin 2)] = [] ∧ (0 : Fin 2) ≠ (s.setTime { s.time with curSlot := 1 }).time.curSlot) ∧
    (let s := servo 0x80000000 (fun v => { v with syncAt := some (7, 9), reqAt := some (8, 5), syncPair := some (1, 2) }); s.ptpOn 0 false = true ∧ s.slotOf (msg (.sync 7 none)) = some 0 ∧ s.ptpPort 0 0 = .slave ∧ s.time.slots[(0 : Fin 2)].syncAt = some (7, 9) ∧ s.time.slots[(0 : Fin 2)].reqAt = some (8, 5) ∧ s.time.slots[(0 : Fin 2)].syncPair = some (1, 2) ∧ bitAt s.time.domain[(0 : Fin 2)] 30 = false) ∧
    (let s := servo 0x80000000 id; s.ptpOn 1 false = true ∧ s.ptpPort 0 1 = .master ∧ bitAt s.time.domain[(0 : Fin 2)] 30 = false) ∧
    (let s := servo 0xC0000000 (fun v => { v with peers := v.peers.set 0 { sent := some (7, 1), resp := some (2, 3) } }); s.ptpOn 0 false = true ∧ s.slotOf (msg (.pdelayReq 7)) = some 0 ∧ bitAt s.time.domain[(0 : Fin 2)] 30 = true ∧ s.time.slots[(0 : Fin 2)].peers[(0 : Fin 2)].sent = some (7, 1) ∧ s.time.slots[(0 : Fin 2)].peers[(0 : Fin 2)].resp = some (2, 3)) ∧
    ((2 : BitVec 2) ≠ 3 ∧ (ptp 0x66006400 0 none).time.source ≠ 0 ∧ (ptp 0x66006400 0 none).time.source = (1 : BitVec 2).toNat ∧ (pps .locked 0).time.state = .locked ∧ (pps .locked 0).time.source ≠ (1 : BitVec 2).toNat ∧ (pps .locked 0).time.source ≠ 0 ∧ (ptp 0x26006400 0 none).time.source = 0) ∧
    (let s := ptp 0x66006400 0 none; domainOk 0x80D00500 s.time.domain[(1 : Fin 2)] = true ∧ setFld (0x80D00500 : Word) 28 24 0 ≠ s.time.domain[(0 : Fin 2)] ∧ s.time.source = 1 ∧ (0 : Fin 2) = s.time.curSlot ∧ (1 : Fin 2) ≠ s.time.curSlot) :=
  by and_intros <;> decide +kernel

/-- Witness of EventCommandsComplete_arm. -/
theorem witness_EventCommandsComplete_arm :
    ((holding (base.setHost { base.host with subs := base.host.subs.set 15 { present := true } }) 15 (pk 15 0x61 15 1024 [])).candidatePkt 15 5 0x61 = some (pk 15 0x61 15 1024 []) ∧ (pk 15 0x61 15 1024 []).late (holding (base.setHost { base.host with subs := base.host.subs.set 15 { present := true } }) 15 (pk 15 0x61 15 1024 [])).time.cellNs = false ∧ (holding (base.setHost { base.host with subs := base.host.subs.set 15 { present := true } }) 15 (pk 15 0x61 15 1024 [])).evtArmFirst (pk 15 0x61 15 1024 []) = true ∧ ((base.setHost { base.host with subs := base.host.subs.set 15 { present := true } }).host.subs[f16 15]).present = true) ∧
    ((holding base 0 (pk 0 0x61 0 1024 [])).candidatePkt 0 5 0x61 = some (pk 0 0x61 0 1024 []) ∧ (pk 0 0x61 0 1024 []).late (holding base 0 (pk 0 0x61 0 1024 [])).time.cellNs = false) ∧
    ((holding base 15 (pk 15 0x61 16 1024 [])).candidatePkt 15 5 0x61 = some (pk 15 0x61 16 1024 []) ∧ (pk 15 0x61 16 1024 []).late (holding base 15 (pk 15 0x61 16 1024 [])).time.cellNs = false ∧ (base.host.subs[f16 15]).present = false) ∧
    ((holding (base.setHost { base.host with subs := base.host.subs.set 15 { present := true } }) 15 (pk 15 0x61 15 1023 [])).candidatePkt 15 5 0x61 = some (pk 15 0x61 15 1023 []) ∧ (pk 15 0x61 15 1023 []).late (holding (base.setHost { base.host with subs := base.host.subs.set 15 { present := true } }) 15 (pk 15 0x61 15 1023 [])).time.cellNs = false ∧ 262144 < (pk 15 0x61 15 262145 []).p1.toNat) :=
  by and_intros <;> decide +kernel

/-- Witness of MotionCommandsComplete_segPush. -/
theorem witness_MotionCommandsComplete_segPush :
    ((holding celled 0 (pk 0 0x20 0 1 wait)).candidatePkt 0 5 0x20 = some (pk 0 0x20 0 1 wait) ∧ (pk 0 0x20 0 1 wait).late (holding celled 0 (pk 0 0x20 0 1 wait)).time.cellNs = false ∧ (holding celled 0 (pk 0 0x20 0 1 wait)).segPushFirst (pk 0 0x20 0 1 wait) = true ∧ ((holding celled 0 (pk 0 0x20 0 1 wait)).begun 0 (pk 0 0x20 0 1 wait)).segPushCheck (pk 0 0x20 0 1 wait).begun = none) ∧
    ((holding celled 0 (pk 0 0x20 0 257 [])).candidatePkt 0 5 0x20 = some (pk 0 0x20 0 257 []) ∧ (pk 0 0x20 0 257 []).late (holding celled 0 (pk 0 0x20 0 257 [])).time.cellNs = false ∧ ((holding celled 0 (pk 0 0x20 0 257 [])).begun 0 (pk 0 0x20 0 257 [])).segPushCheck (pk 0 0x20 0 257 []).begun = some (badAt atP1 (ident 1 0))) :=
  by and_intros <;> decide +kernel

/-- Witness of LaneInstructionsComplete. -/
theorem witness_LaneInstructionsComplete :
    (∀ op ∈ List.range 15, (solving op).nextLane 0 op ≠ none) :=
  by decide +kernel

/-- Witness of LaneOnlyWhereItIsNext. -/
theorem witness_LaneOnlyWhereItIsNext :
    (∀ op ∈ List.range 15, base.nextLane 0 op = none) :=
  by decide +kernel

/-- Witness of SolverEventsComplete. -/
theorem witness_SolverEventsComplete :
    ((onTime celled 80000).cellOn = true ∧ (onTime celled 80000).onGrid 1000000 80000 = true) ∧
    (let s := onTime (withCurrent celled) 230000; s.cellOn = true ∧ s.onGrid 1000000 230000 = true ∧ s.imageOf 0 = some schedule ∧ s.solver.probs[(0 : Fin 4)].complete = some s.tickNo ∧ s.solver.probs[(0 : Fin 4)].staging = false ∧ s.partsDown s.solver.probs[(0 : Fin 4)] = false) ∧
    (let s := onTime (withCurrent celled) 1230000; s.cellOn = true ∧ s.onGrid 1000000 230000 = true ∧ s.imageOf 0 = some schedule ∧ s.solver.probs[(0 : Fin 4)].complete ≠ some s.tickNo) ∧
    (930000 ≤ (onTime celled 930000).stamp % 1000000 ∧ (onTime celled 930000).onGrid 1000000 930000 = true) :=
  by and_intros <;> decide +kernel

/-- Witness of TileInstructionsComplete. -/
theorem witness_TileInstructionsComplete :
    (∀ op ∈ (List.range 0x36).filter knownTileOp ++ [0x36, 0x37], ((tiled op).nextIns 0).map (fun r => insOp r.2.2) = some op) ∧
    (let s := (tiled 0).setKernel 0 { (tiled 0).tiles.kernels[(0 : Fin 64)] with image := some { kernel with program := [0x0000000080000000] } }; (s.nextIns 0).isSome = true ∧ (insSlots 0x0000000080000000).any (fun j => slotEn j && !kernel.inWindow (s.tiles.tiles[(0 : Fin 16)].core.slotAddr j)) = false) ∧
    ((insSlots 0x00000000B0000000).any (fun j => slotEn j && !{ kernel with xBytes := 0 }.inWindow ((tiled 0).tiles.tiles[(0 : Fin 16)].core.slotAddr j)) = true) :=
  by and_intros <;> decide +kernel

/-- Witness of TileFrame: every command of a tile answers a next state. -/
theorem witness_TileFrame : ∃ u, exec (.tNop 0) (tiled 0) = .next u :=
  ⟨_, rfl⟩

/-- Witness of TileEventsComplete. -/
theorem witness_TileEventsComplete :
    (let x := activating.tiles.tiles[(0 : Fin 16)]; x.busy = false ∧ x.faulted = false ∧ x.queue = [0] ∧ activating.tiles.kernels[f64 0].state = .bound ∧ activating.tiles.kernels[f64 0].image = some kernel ∧ activating.tiles.kernels[f64 0].waiting = some (7, [1, 2]) ∧ kernel.holds kernel.inOff 2 = true ∧ activating.holdsUnit (8 + (0 : Fin 16).val) 0 = true ∧ base.holdsUnit (8 + (0 : Fin 16).val) 0 = false) ∧
    (let s := (tiled 0).setTile 0 { (tiled 0).tiles.tiles[(0 : Fin 16)] with core := { (tiled 0).tiles.tiles[(0 : Fin 16)].core with cyc := 100 } }; ∃ im, s.tiles.kernels[f64 s.tiles.tiles[(0 : Fin 16)].core.kernel].image = some im ∧ s.tiles.tiles[(0 : Fin 16)].busy = true ∧ im.cycles ≤ s.tiles.tiles[(0 : Fin 16)].core.cyc) ∧
    (let im := { kernel with ivec := 1 }; let c : Core := { tst := 0x0200, ien := 1, ipend := 1 }; let s := (base.setKernel 0 { base.tiles.kernels[(0 : Fin 64)] with image := some im }).setTile 0 { base.tiles.tiles[(0 : Fin 16)] with busy := true, core := c }; s.tiles.kernels[f64 s.tiles.tiles[(0 : Fin 16)].core.kernel].image = some im ∧ s.tiles.tiles[(0 : Fin 16)].busy = true ∧ c.cyc < im.cycles ∧ s.tiles.tiles[(0 : Fin 16)].core.interruptDue im = true) :=
  by and_intros <;> decide +kernel

/-- Witness of MotionEventsComplete. -/
theorem witness_MotionEventsComplete :
    (celled.onGrid 1000000 0 = true ∧ (onTime celled 1).onGrid 1000000 0 = false) ∧
    (let s := (due (onTime arrived 5000000) ⟨5000, 7, 0, 0⟩).entryRun (DelayEntry.ofUser 7 (0 : Fin 16).val); (due arrived ⟨5000, 7, 0, 0⟩).expired (DelayEntry.ofUser 7 (0 : Fin 16).val) = true ∧ celled.expired (DelayEntry.ofUser 7 (0 : Fin 16).val) = false ∧ s.motion.chains[(0 : Fin 16)].atBarrier = some barrier ∧ (maskBits 16 (barMask barrier)).filter (fun m => s.hasReached m (barId barrier) (barMask barrier)) = [0] ∧ s.motion.chains[f16 0].current = some barrier ∧ s.motion.chains[f16 0].arrived = some 0 ∧ barTimeout barrier ≠ 0 ∧ 0 + barTimeout barrier * 1000000 ≤ s.time.cellNs) ∧
    (let s := onTime arrived 4999999; (maskBits 16 (barMask barrier)).filter (fun m => s.hasReached m (barId barrier) (barMask barrier)) = [0] ∧ s.motion.chains[f16 0].arrived = some 0 ∧ ¬ 0 + barTimeout barrier * 1000000 ≤ s.time.cellNs) ∧
    (celled.motion.chains[(0 : Fin 16)].atBarrier = none ∧ celled.theCell.auxCmdOk (0 : Fin 32).val 0x3F800000 = true ∧ celled.theCell.auxCmdOk (1 : Fin 32).val 0x7F800000 = false) :=
  by and_intros <;> decide +kernel

/-- Witness of LoopEventsComplete. -/
theorem witness_LoopEventsComplete :
    (let s := onTime celled 60500; s.cellOn = true ∧ s.ringOfAxis (0 : Fin 160).val = some 0 ∧ s.shutterOf 0 ≤ s.stamp + 2000 ∧ (s.stamp + 2000 - s.shutterOf 0) % s.servo = 0) ∧
    (let s := onTime celled 60501; s.ringOfAxis (0 : Fin 160).val = some 0 ∧ (s.stamp + 2000 - s.shutterOf 0) % s.servo ≠ 0) ∧
    (let n : NodeRec := ⟨0x021122334455, 0, 1, 0, 0, 0, 2, [0, 1], 64, 64, 4, 0⟩; let s := ringed celled .run (fun x => x.putHop 1 { x.hop 1 with data := some (7, false, List.replicate 24 0) }); s.cellOn = true ∧ s.theCell.nodes[0]? = some n ∧ n.kind = 0 ∧ (mget {} s.rings[f4 n.ring].nodes n.hop).data = some (7, false, List.replicate 24 0)) ∧
    (let s := ringed celled .run (fun x => x.putHop 1 { x.hop 1 with data := some (7, true, []) }); s.theCell.nodes[0]?.isSome = true ∧ (mget {} s.rings[(0 : Fin 4)].nodes 1).data = some (7, true, [])) ∧
    (let s := onTime (ringed celled .run id) 1000000; let l := s.loops.engines[(0 : Fin 16)].slots[(1 : Fin 32)]; l.valid = true ∧ s.loops.engines[(0 : Fin 16)].faulted = false ∧ s.loops.engines[(0 : Fin 16)].masked = false ∧ s.ringOfAxis l.axis = some 0 ∧ s.rings[(0 : Fin 4)].state = .run ∧ s.suspended l.axis = false ∧ s.loops.axes[f160 l.axis].fault = false ∧ (s.pastCutoff (s.cutoffOffset l.loop l.axis)).isSome = true ∧ (l.missed ((s.pastCutoff (s.cutoffOffset l.loop l.axis)).getD 0)).isSome = true) ∧
    (let s := onTime (ringed (onIndex celled (fun x => { x with test := some ⟨0, 1, false⟩ })) .run id) 1000000; let l := s.loops.engines[(0 : Fin 16)].slots[(1 : Fin 32)]; l.valid = true ∧ s.ringOfAxis l.axis = some 0 ∧ s.rings[(0 : Fin 4)].state = .run ∧ s.suspended l.axis = true ∧ (l.missed ((s.pastCutoff (s.cutoffOffset l.loop l.axis)).getD 0)).isSome = true) ∧
    (let s := onTime (ringed (celled.setAxis 0 { celled.loops.axes[(0 : Fin 160)] with fault := true }) .run id) 1000000; let l := s.loops.engines[(0 : Fin 16)].slots[(1 : Fin 32)]; s.loops.axes[f160 l.axis].fault = true ∧ s.suspended l.axis = false ∧ (l.missed ((s.pastCutoff (s.cutoffOffset l.loop l.axis)).getD 0)).isSome = true) ∧
    (celled.loops.engines[(0 : Fin 16)].slots[(31 : Fin 32)].valid = false) :=
  by and_intros <;> decide +kernel

/-- Witness of RingEventsComplete. -/
theorem witness_RingEventsComplete :
    (let s := onTime (ringed celled .listen id) 4000000; s.rings[(0 : Fin 4)].state = .listen ∧ s.rings[(0 : Fin 4)].windowAt + s.windowNs ≤ s.now ∧ (ringed celled .listen id).now < s.rings[(0 : Fin 4)].windowAt + s.windowNs) ∧
    (let s := onTime (ringed celled .coldstart id) 4000000; s.rings[(0 : Fin 4)].state = .coldstart ∧ s.rings[(0 : Fin 4)].windowAt + s.windowNs ≤ s.now) ∧
    (let s := onTime (ringed celled .backoff id) 12000000; s.rings[(0 : Fin 4)].state = .backoff ∧ s.ringMember = false ∧ s.rings[(0 : Fin 4)].collidedAt + s.windowNs ≤ s.now) ∧
    (let u := onTime (ringed celled .backoff id) 12000000; let v := u.setTwin { u.twin with twinId := true }; let s := v.setCell { v.cell with active := some { cell with mode := 1 } }; s.rings[(0 : Fin 4)].state = .backoff ∧ s.ringMember = true ∧ s.rings[(0 : Fin 4)].collidedAt + 3 * s.windowNs ≤ s.now) ∧
    ((match celled.ringCheck 0 false [] with | .error e => e == (31, 24) | .ok _ => false) = true) ∧
    (let f := ringFrame nodeAddr (hdr 5 0 0 0); passes celled f = true ∧ byteAt (f.drop 14) 0 % 16 = 5 ∧ celled.ownSource 0 f = false) ∧
    (let s := ringed celled .ranging id; let f := ringFrame (s.laneBytes 0 false) (hdr 5 0 0 255); passes s f = true ∧ byteAt (f.drop 14) 0 % 16 = 5 ∧ s.ownSource 0 f = true ∧ (byteAt (f.drop 14) 1).testBit 0 = false ∧ 254 < byteAt (f.drop 14) 19 ∧ s.rings[(0 : Fin 4)].state = .ranging) ∧
    (let s := ringed celled .ranging (fun x => { x.putHop 1 { x.hop 1 with node := 0 } with pollHop := 1, starter := true }); let f := ringFrame nodeAddr (hdr 4 1 1 0); passes s f = true ∧ byteAt (f.drop 14) 0 % 16 = 4 ∧ s.rings[(0 : Fin 4)].starter = true ∧ s.rings[(0 : Fin 4)].state = .ranging ∧ s.rings[(0 : Fin 4)].activateAt = none ∧ s.rings[(0 : Fin 4)].configQ = [] ∧ byteAt (f.drop 14) 2 = s.rings[(0 : Fin 4)].pollHop ∧ s.rings[(0 : Fin 4)].pollConf = false ∧ s.theCell.nodes[(s.rings[(0 : Fin 4)].hop (byteAt (f.drop 14) 2)).node]? = some (⟨0x021122334455, 0, 1, 0, 0, 0, 2, [0, 1], 64, 64, 4, 0⟩ : NodeRec) ∧ leAt f 6 6 = (⟨0x021122334455, 0, 1, 0, 0, 0, 2, [0, 1], 64, 64, 4, 0⟩ : NodeRec).mac.toNat) ∧
    (let s := onTime (ringed celled .ranging (fun x => { x.putHop 1 { state := .ranging } with pollHop := 1, pollB := true, starter := true })) 10000000; s.rings[(0 : Fin 4)].starter = true ∧ s.rings[(0 : Fin 4)].state = .ranging ∧ s.rings[(0 : Fin 4)].activateAt = none ∧ s.rings[(0 : Fin 4)].configQ = [] ∧ s.twinMode = false ∧ s.rings[(0 : Fin 4)].pollConf = false ∧ s.rings[(0 : Fin 4)].pollB = true ∧ (s.rings[(0 : Fin 4)].hop 1).delA = none ∧ (s.rings[(0 : Fin 4)].hop 1).delB = none ∧ (s.rings[(0 : Fin 4)].hop 1).state = .ranging ∧ s.rings[(0 : Fin 4)].pollAt + (2 * s.cell.placement.rings[(0 : Fin 4)].lPlan + 10000) ≤ s.now) ∧
    (let s := onTime (ringed celled .config (fun x => { x with activateAt := some 5 })) 5; s.rings[(0 : Fin 4)].activateAt = some 5 ∧ s.rings[(0 : Fin 4)].state = .config ∧ 5 ≤ s.stamp ∧ celled.rings[(0 : Fin 4)].activateAt = none) ∧
    (let s := ringed celled .run (fun x => x.putHop 1 { x.hop 1 with node := 0, state := .run }); let f := ringFrame nodeAddr (hdr 0 1 1 0); passes s f = true ∧ s.ownSource 0 f = false ∧ byteAt (f.drop 14) 0 % 16 ≤ 1 ∧ byteAt (f.drop 14) 3 ≠ 0 ∧ s.rings[(0 : Fin 4)].state = .run ∧ (s.rings[(0 : Fin 4)].hop (byteAt (f.drop 14) 3)).state = .run ∧ u16 (f.drop 14) 20 = s.rings[(0 : Fin 4)].gen.toNat % 65536) ∧
    (let s := ringed celled .run (fun x => { x.putHop 1 { x.hop 1 with node := 0, state := .run } with gen := 1 }); let f := ringFrame nodeAddr (hdr 0 1 1 0); passes s f = true ∧ u16 (f.drop 14) 20 ≠ s.rings[(0 : Fin 4)].gen.toNat % 65536) ∧
    (let f := ringFrame nodeAddr (hdr 0 0 0 0); let g := ringFrame nodeAddr (hdr 4 1 1 0); let o := ringFrame (celled.laneBytes 0 true) (hdr 0 0 0 0); passes celled f = true ∧ celled.ownSource 0 f = false ∧ byteAt (f.drop 14) 3 = 0 ∧ passes celled g = true ∧ byteAt (g.drop 14) 0 % 16 = 4 ∧ passes celled o = true ∧ celled.ownSource 0 o = true) ∧
    (let s := onTime (ringed celled .run (fun x => x.putHop 1 { x.hop 1 with node := 0, state := .run })) 1000000; s.rings[(0 : Fin 4)].state = .run ∧ (s.rings[(0 : Fin 4)].hop 1).scheduled = true ∧ (s.deadlineCycle 0 (s.rings[(0 : Fin 4)].hop 1)).isSome = true ∧ (s.rings[(0 : Fin 4)].hop 1).cycle = none) ∧
    (let s := onTime (ringed celled .run (fun x => x.putHop 1 { x.hop 1 with node := 0, state := .run })) 1000000; let q := (s.deadlineCycle 0 (s.rings[(0 : Fin 4)].hop 1)).getD 0; let n := (s.newCycle 0 1 (w32 q)).rings[(0 : Fin 4)].hop 1; n.scheduled = true ∧ n.live = true ∧ n.final = false) ∧
    (let s := onTime (ringed celled .run id) 62500; s.rings[(0 : Fin 4)].state = .run ∧ s.cellOn = true ∧ s.shutterOf 0 + s.outSlot 0 ≤ s.stamp ∧ s.onGrid s.servo ((s.shutterOf 0 + s.outSlot 0) % s.servo) = true) ∧
    (let s := ringed celled .run id; s.rings[(0 : Fin 4)].state = .run ∧ s.onGrid s.servo 0 = true ∧ s.seqNo % 1024 = 0 ∧ celled.rings[(0 : Fin 4)].state ≠ .run) :=
  by and_intros <;> decide +kernel

/-- Witness of DispatcherEventsComplete. -/
theorem witness_DispatcherEventsComplete :
    (base.onGrid 1000 0 = true ∧ (onTime base 1).onGrid 1000 0 = false) ∧
    ((base.setCell { base.cell with partMask := 1 }).unitMasked (0 : Fin 25).val = true ∧ base.unitMasked (0 : Fin 25).val = false) ∧
    ((0 : Fin 8) ≠ 5 ∧ (0 : Fin 8) ≠ 6 ∧ ((5 : Fin 8) = 5 ∨ (5 : Fin 8) = 6)) ∧
    (let s := onTime base 1000000000; taskUnit 3 (0 : Fin 25).val = true ∧ s.disp.enabled 3 = true ∧ s.disp.lastOf 3 (0 : Fin 25).val + fld s.disp.bg[(3 : Fin 6)] 31 20 * 1000000 ≤ s.now) ∧
    (let s := onTime base 10000000; (0 : Fin 6).val ≠ 3 ∧ taskUnit (0 : Fin 6).val (0 : Fin 25).val = true ∧ s.disp.enabled 0 = true ∧ s.disp.lastOf (0 : Fin 6).val (0 : Fin 25).val + fld s.disp.bg[(0 : Fin 6)] 31 20 * 1000000 ≤ s.now ∧ s.disp.promoted.contains (32 * (0 : Fin 6).val + (0 : Fin 25).val) = false ∧ (s.setDisp { s.disp with promoted := [0] }).disp.promoted.contains (32 * (0 : Fin 6).val + (0 : Fin 25).val) = true) ∧
    (taskUnit 3 (24 : Fin 25).val = false) ∧
    (let h : Requester := ⟨2, 3, true, false, 0⟩; let s := base.setDisp { base.disp with arbs := base.disp.arbs.set 0 { base.disp.arbs[(0 : Fin 25)] with holder := some h } }; (0 : Fin 6).val ≠ 3 ∧ onCore (0 : Fin 6).val (0 : Fin 25).val = false ∧ taskUnit (0 : Fin 6).val (0 : Fin 25).val = true ∧ s.disp.enabled 0 = true ∧ s.holdsUnit (0 : Fin 25).val (requesterFor (0 : Fin 6).val) = true) ∧
    (let s := working base (.task 4 0); onCore (4 : Fin 6).val (0 : Fin 25).val = true ∧ taskUnit (4 : Fin 6).val (0 : Fin 25).val = true ∧ s.disp.enabled 4 = true ∧ s.disp.current (.task (4 : Fin 6).val (0 : Fin 25).val) = true) ∧
    (base.laneIdle (0 : Fin 25).val = true ∧ base.disp.enabled 3 = true ∧ taskUnit (3 : Fin 6).val (0 : Fin 25).val = true ∧ base.holdsUnit (0 : Fin 25).val (requesterFor (0 : Fin 6).val) = false) :=
  by and_intros <;> decide +kernel

/-- Witness of NibbleEventsComplete. -/
theorem witness_NibbleEventsComplete :
    (let s := onTime celled 62500; s.isReady rdNibble = true ∧ s.onGrid s.servo 0 = true ∧ (onTime celled 1).onGrid celled.servo 0 = false) ∧
    (let s := onTime celled 1000; s.cellOn = true ∧ s.isReady rdNibble = true ∧ s.onGrid s.servo 1000 = true ∧ base.cellOn = false) ∧
    (base.isReady rdNibble = true ∧ base.onGrid 1000 0 = true ∧ (unready base).isReady rdNibble = false) ∧
    (2 ≤ (20 : BitVec 8).toNat ∧ (20 : BitVec 8).toNat ≤ 200 ∧ (1 : BitVec 8).toNat < 2) ∧
    (let s := onTime heldEvent 1000000; s.expired (DelayEntry.ofUser 5 (1 : Fin 16).val) = true ∧ s.isStandby = false ∧ s.armed (1 : Fin 16).val = [{ pk 15 0x61 1 1024 [] with phase := .started }] ∧ (s.host.subs[(1 : Fin 16)]).held = [⟨0, [1, 2, 3, 4]⟩] ∧ 0 + 1000000 ≤ s.time.cellNs) ∧
    (let s := onTime heldEvent 999999; (armedTake 1024 (s.host.subs[(1 : Fin 16)]).held 0).length = 1 ∧ 4 + 4 ≤ 1024 ∧ s.time.cellNs < 0 + 1000000) ∧
    ((due base ⟨0, 5, 1, 0⟩).armed (1 : Fin 16).val = [] ∧ (due base ⟨0, 5, 1, 0⟩).expired (DelayEntry.ofUser 5 (1 : Fin 16).val) = true ∧ base.expired (DelayEntry.ofUser 5 (1 : Fin 16).val) = false) :=
  by and_intros <;> decide +kernel

/-- Witness of SafetyInputEventsComplete. -/
theorem witness_SafetyInputEventsComplete :
    (let s := (celled.setSafety { celled.safety with sinCfg := celled.safety.sinCfg.set 0 0xA0828000 }); bitAt s.safety.sinCfg[(0 : Fin 16)] 31 = true ∧ s.onGrid 250000 0 = true ∧ fld s.safety.sinCfg[(0 : Fin 16)] 26 23 + 1 ≤ 17 ∧ s.safety.sins[(0 : Fin 16)].lineA ≠ true) ∧
    (let s := onTime (safe base (fun x => { x with sins := x.sins.set 0 { since := some 0 } })) 10000000000; s.safety.sins[(0 : Fin 16)].since = some 0 ∧ 0 + fld s.safety.sinCfg[(0 : Fin 16)] 22 13 * 1000000 + 250000 ≤ s.time.cellNs) ∧
    (let s := onTime (safe base (fun x => { x with estop := { since := some 0 } })) 10000000000; s.safety.estop.since = some 0 ∧ 0 + fld s.safety.estopCfg 30 21 * 1000000 + 50000 ≤ s.time.cellNs) ∧
    ((onTime base 375000).onGrid 100000000 ((1 : Fin 4).val * 250000 + 125000) = true) ∧
    ((if (0 : Fin 2).val = 0 then celled.safety.ch1Ok else celled.safety.ch2Ok) = true ∧ celled.stoOn 0 = true ∧ celled.mayPulse (0 : Fin 16).val false (0 : Fin 2).val = true) ∧
    (let s := safe celled (fun x => { x with outTests := [((0, false, 0), 0, 0)] }); s.stoOn 0 = true ∧ s.mayPulse (0 : Fin 16).val false (0 : Fin 2).val = false) ∧
    (let s := safe celled (fun x => { x with en1 := 0, outFaults := [(0, false)] }); s.safety.ch1Ok = true ∧ s.stoOn 0 = false ∧ s.safety.outFaults.contains (0, false) = true ∧ (safe celled (fun x => { x with ch1Ok := false })).safety.ch1Ok = false) ∧
    (bitAt base.safety.estopCfg 31 = true ∧ base.onGrid 50000 0 = true ∧ base.safety.estop.lineA ≠ false) ∧
    (let p := base.safety.estop.change false false false (fld base.safety.estopCfg 30 21 * 1000000) base.time.cellNs; p.active = true ∧ base.safety.estop.active = false) ∧
    (let s := safe base (fun x => { x with estop := { lineA := false, lineB := true } }); s.safety.estop.active = true ∧ s.safety.estop.lineA ≠ true) ∧
    (base.onGrid 250000 0 = true ∧ base.safety.srst[(0 : Fin 2)].pressed = false ∧ (1 : Nat) = 1 ∧ 2 ≤ 2 ∧ (onTime base 1).onGrid 250000 0 = false) ∧
    (let s := pressing 0 id; s.onGrid 250000 0 = true ∧ s.safety.srst[(1 : Fin 2)].pressed = true ∧ 2 ≤ 2 ∧ s.safety.boot = false ∧ s.safety.stuck = false ∧ s.time.cellNs - s.safety.srst[(1 : Fin 2)].since < 100000000) ∧
    (let s := pressing 0 (fun x => { x with boot := true }); s.safety.srst[(1 : Fin 2)].pressed = true ∧ s.safety.boot = true) ∧
    (let s := pressing 3000000000 id; s.onGrid 250000 0 = true ∧ s.safety.srst[(1 : Fin 2)].pressed = true ∧ 100000000 ≤ s.time.cellNs - s.safety.srst[(1 : Fin 2)].since ∧ s.time.cellNs - s.safety.srst[(1 : Fin 2)].since ≤ 3000000000) ∧
    (let s := pressing 3000250000 id; s.onGrid 250000 0 = true ∧ s.safety.srst[(1 : Fin 2)].pressed = true ∧ 3000000000 < s.time.cellNs - s.safety.srst[(1 : Fin 2)].since) ∧
    (let s := pressing 30000000000 id; s.safety.stuck = false ∧ ∃ x ∈ s.safety.srst.toList, x.pressed = true ∧ x.since + 30000000000 ≤ s.time.cellNs) ∧
    (∀ x ∈ base.safety.srst.toList, x.pressed = true → base.time.cellNs < x.since + 30000000000) ∧
    (∀ x ∈ (onTime base 100000000).safety.srst.toList, x.pressed = false ∧ x.since + 100000000 ≤ (onTime base 100000000).time.cellNs) ∧
    (∃ x ∈ base.safety.srst.toList, x.pressed = true ∨ base.time.cellNs < x.since + 100000000) :=
  by and_intros <;> decide +kernel

/-- Witness of SafetyFunctionEventsComplete. -/
theorem witness_SafetyFunctionEventsComplete :
    (let s := onTime (onIndex base (fun x => { x with state := .ss1, ss1At := some 0 })) 10000000000; s.safety.index[(0 : Fin 16)].ss1At = some 0 ∧ s.safety.index[(0 : Fin 16)].state = .ss1 ∧ 0 + fld s.safety.index[(0 : Fin 16)].cfg 31 22 * 1000000 ≤ s.now) ∧
    ((21 : Nat) > 20 ∧ false ≠ base.brakeOpen 0 ∧ base.safety.index[(0 : Fin 16)].ss1At = none) ∧
    (let s := due (onIndex base (fun x => { x with sinceH := 8 })) ⟨0, 2, 0, 0⟩; s.expired (DelayEntry.ofUser 2 (0 : Fin 16).val) = true ∧ fld s.safety.index[(0 : Fin 16)].brk 31 24 ≠ 0 ∧ s.safety.index[(0 : Fin 16)].due = none ∧ fld s.safety.index[(0 : Fin 16)].brk 31 24 ≤ s.safety.index[(0 : Fin 16)].hours s.time.cellNs) ∧
    (let s := due base ⟨0, 2, 0, 0⟩; s.expired (DelayEntry.ofUser 2 (0 : Fin 16).val) = true ∧ s.safety.index[(0 : Fin 16)].hours s.time.cellNs < fld s.safety.index[(0 : Fin 16)].brk 31 24 ∧ base.expired (DelayEntry.ofUser 2 (0 : Fin 16).val) = false) ∧
    (let s := (onIndex celled (fun x => { x with test := some ⟨0, 3, false⟩, lifted := false })); s.safety.index[(0 : Fin 16)].test = some ⟨0, 3, false⟩ ∧ fld s.safety.index[(0 : Fin 16)].brk 10 0 < max 2048 0) ∧
    (let s := (onIndex celled (fun x => { x with test := some ⟨0, 1, false⟩, lifted := true })); s.safety.index[(0 : Fin 16)].test = some ⟨0, 1, false⟩ ∧ fld s.safety.index[(0 : Fin 16)].brk 10 0 < max 2048 0 ∧ s.safety.index[(0 : Fin 16)].lifted = true) ∧
    (let s := onTime (onIndex celled (fun x => { x with test := some ⟨0, 0, false⟩, lifted := false })) 20000000; s.safety.index[(0 : Fin 16)].test = some ⟨0, 0, false⟩ ∧ s.safety.index[(0 : Fin 16)].lifted = false ∧ s.now - 0 = 20000000) ∧
    (let s := onTime (onIndex celled (fun x => { x with test := some ⟨0, 0, false⟩, lifted := false })) 20000001; s.safety.index[(0 : Fin 16)].test = some ⟨0, 0, false⟩ ∧ 20000000 < s.now - 0) ∧
    (let s := onTime (onIndex celled (fun x => { x with test := some ⟨0, 2, false⟩, lifted := false })) 249999999; s.safety.index[(0 : Fin 16)].test = some ⟨0, 2, false⟩ ∧ s.now - 0 < 250000000) ∧
    (let s := onTime (onIndex celled (fun x => { x with test := some ⟨0, 4, true⟩, lifted := false })) 2349999999; s.safety.index[(0 : Fin 16)].test = some ⟨0, 4, true⟩ ∧ s.now - 0 < 1300000000 + 1050000000) ∧
    (base.safety.index[(0 : Fin 16)].test = none ∧ base.safety.index[(0 : Fin 16)].due = none) ∧
    (let s := onTime (onIndex celled (fun x => { x with test := some ⟨0, 1, false⟩, lifted := false })) 200000000; s.safety.index[(0 : Fin 16)].test = some ⟨0, 1, false⟩ ∧ s.safety.index[(0 : Fin 16)].lifted = false ∧ 200000000 ≤ s.now - 0) ∧
    (let s := onTime (onIndex celled (fun x => { x with test := some ⟨0, 2, true⟩, lifted := false })) 1300000000; s.safety.index[(0 : Fin 16)].test = some ⟨0, 2, true⟩ ∧ s.safety.index[(0 : Fin 16)].lifted = false ∧ 250000000 + 1050000000 ≤ s.now - 0) ∧
    (let s := onTime (onIndex (onIndex celled (fun x => { x with test := some ⟨0, 3, false⟩, lifted := false })) (fun x => { x with brk := setFld x.brk 19 18 2 })) 1250000000; s.safety.index[(0 : Fin 16)].test = some ⟨0, 3, false⟩ ∧ s.safety.index[(0 : Fin 16)].lifted = false ∧ ¬ fld s.safety.index[(0 : Fin 16)].brk 10 0 < max 0 0 ∧ 1250000000 ≤ s.now - 0 ∧ fld s.safety.index[(0 : Fin 16)].brk 19 18 = 2) ∧
    (let s := onTime (onIndex (onIndex celled (fun x => { x with test := some ⟨0, 3, true⟩, lifted := false })) (fun x => { x with brk := setFld x.brk 19 18 2 })) 2300000000; s.safety.index[(0 : Fin 16)].test = some ⟨0, 3, true⟩ ∧ s.safety.index[(0 : Fin 16)].lifted = false ∧ ¬ fld s.safety.index[(0 : Fin 16)].brk 10 0 < max 0 0 ∧ 1250000000 + 1050000000 ≤ s.now - 0) ∧
    (let s := onTime (onIndex celled (fun x => { x with test := some ⟨0, 4, false⟩, lifted := false })) 1300000000; s.safety.index[(0 : Fin 16)].test = some ⟨0, 4, false⟩ ∧ s.safety.index[(0 : Fin 16)].lifted = false ∧ 1300000000 ≤ s.now - 0) ∧
    (let s := onTime (onIndex celled (fun x => { x with test := some ⟨0, 5, false⟩, lifted := false })) 1400000000; s.safety.index[(0 : Fin 16)].test = some ⟨0, 5, false⟩ ∧ s.safety.index[(0 : Fin 16)].lifted = false ∧ 1400000000 ≤ s.now - 0) ∧
    (let s := onTime (onIndex base (fun x => { x with due := some 0 })) 100000000000000; s.safety.index[(0 : Fin 16)].due = some 0 ∧ s.safety.index[(0 : Fin 16)].overdue = false ∧ s.safety.index[(0 : Fin 16)].test = none ∧ 0 + fld s.safety.index[(0 : Fin 16)].brk 23 20 * 3600000000000 ≤ s.time.cellNs ∧ s.motion.chains[(0 : Fin 16)].moving s.tickNo = false) ∧
    (let c : Copy := ⟨1, true, []⟩; let s := system (unready base) (fun x => { x with safe0 := c }); s.sys.inReset = false ∧ s.sys.running = true ∧ s.isReady rdSafetycpu = false ∧ newerCopy s.sys.safe0 s.sys.safe1 = some c ∧ base.isReady rdSafetycpu = true) ∧
    (newerCopy (unready base).sys.safe0 (unready base).sys.safe1 = none) ∧
    (base.onGrid 1000000 0 = true ∧ (onTime base 1).onGrid 1000000 0 = false) ∧
    (let s := onTime celled 100000; s.cellOn = true ∧ s.onGrid 1000000 100000 = true) ∧
    (let s := linked celled .waiting none; let c := (s.linkCfg 1).getD ⟨0, 0, 0, 0⟩; let r := (s.theCell.nodes[(1 : Nat)]?).getD ⟨0, 0, 0, 0, 0, 0, 0, [], 0, 0, 0, 0⟩; let f := linkFrame.drop c.offset; let placed := decide (u16 f 2 ≤ f.length) && (r.kind == 3 || s.theCell.framePlace 1 r c.offset (u16 f 2)); (s.linkCfg 1).isSome = true ∧ (s.theCell.nodes[(1 : Nat)]?).isSome = true ∧ c.type ≠ 1 ∧ frameCheck c (s.sep.linkOf 1) placed none f 20 = none ∧ (s.sep.linkOf 1).state ≠ .ok) ∧
    (let s := linked celled .ok (some ⟨0, 5, 10, []⟩); let c := (s.linkCfg 1).getD ⟨0, 0, 0, 0⟩; let r := (s.theCell.nodes[(1 : Nat)]?).getD ⟨0, 0, 0, 0, 0, 0, 0, [], 0, 0, 0, 0⟩; let f := linkFrame.drop c.offset; let placed := decide (u16 f 2 ≤ f.length) && (r.kind == 3 || s.theCell.framePlace 1 r c.offset (u16 f 2)); (s.linkCfg 1).isSome = true ∧ (s.theCell.nodes[(1 : Nat)]?).isSome = true ∧ c.type ≠ 1 ∧ frameCheck c (s.sep.linkOf 1) placed none f 20 = none ∧ (s.sep.linkOf 1).state = .ok ∧ (s.sep.linkOf 1).last = some ⟨0, 5, 10, []⟩) ∧
    (let s := linked celled .waiting none; let c := (s.linkCfg 1).getD ⟨0, 0, 0, 0⟩; let r := (s.theCell.nodes[(1 : Nat)]?).getD ⟨0, 0, 0, 0, 0, 0, 0, [], 0, 0, 0, 0⟩; let f := linkFrame.drop c.offset; let placed := decide (u16 f 2 ≤ f.length) && (r.kind == 3 || s.theCell.framePlace 1 r c.offset (u16 f 2)); (s.linkCfg 1).isSome = true ∧ (s.theCell.nodes[(1 : Nat)]?).isSome = true ∧ c.type ≠ 1 ∧ frameCheck c (s.sep.linkOf 1) placed none f 50051 = some 6) ∧
    (let s := sensing; let c := (s.linkCfg 0).getD ⟨0, 0, 0, 0⟩; (s.linkCfg 0).isSome = true ∧ c.type = 1 ∧ c.offset = 0 ∧ (s.theCell.sourceOf 0).isSome = true ∧ frameCheck c (s.sep.linkOf 0) (decide (u16 sensorFrame 2 ≤ sensorFrame.length)) none sensorFrame 20 = none) ∧
    (celled.linkCfg 0 = none ∧ base.cellOn = false) :=
  by and_intros <;> decide +kernel

/-- Witness of TwinEventsComplete. -/
theorem witness_TwinEventsComplete :
    (State.reset.isReady rdTwin = false) ∧
    (base.isReady rdTwin = true ∧ benjoOk [] = false ∧ benjoOk benjoOther = true ∧ 10 < byteAt benjoOther 0) ∧
    (benjoOk benjoState = true ∧ byteAt benjoState 0 = 9) ∧
    (let s := twinned base (fun x => { x with seen := [(0, 0)] }); benjoOk benjoIdle = true ∧ byteAt benjoIdle 0 ≠ 9 ∧ (s.laneUp 0).twin.seen.contains (byteAt benjoIdle 0, wordAt benjoIdle 4) = true ∧ (base.laneUp 0).twin.seen.contains (byteAt benjoIdle 0, wordAt benjoIdle 4) = false) ∧
    (let s := onTime (twinned base (fun x => { x with lane0 := true, lane1 := true })) 20000; s.twin.lane0 = true ∧ s.twin.laneAt0 + 20000 ≤ s.now ∧ s.twin.lane1 = true ∧ (s.setTwin { s.twin with lane0 := false }).twin.linkLost = false) ∧
    (let s := onTime (twinned base (fun x => { x with lane0 := true, state := .join })) 20000; s.twin.lane0 = true ∧ s.twin.laneAt0 + 20000 ≤ s.now ∧ (s.setTwin { s.twin with lane0 := false }).twin.linkLost = true ∧ s.twin.state = .join) ∧
    (let s := onTime (twinned base (fun x => { x with lane0 := true, state := .alone })) 20000; s.twin.lane0 = true ∧ s.twin.laneAt0 + 20000 ≤ s.now ∧ (s.setTwin { s.twin with lane0 := false }).twin.linkLost = true ∧ s.twin.state ≠ .join) ∧
    (let s := onTime (twinned base (fun x => { x with state := .paired })) 2000000; s.twin.state = .paired ∧ s.twin.linkLost = true ∧ s.twin.ringAt + 2 * s.servo ≤ s.now) ∧
    (let s := onTime (twinned base (fun x => { x with state := .paired, partnerRing := true, ringAt := 2000000 })) 2000000; s.twin.state = .paired ∧ s.twin.active = false ∧ s.partnerHeard = true ∧ s.twin.safetyAt + 2000000 ≤ s.now) ∧
    (let s := onTime (twinned base (fun x => { x with state := .check, ownCheck := some true, peerCheck := some false })) 1000000; s.twin.state = .check ∧ s.onGrid 1000000 0 = true ∧ s.roleHeld = false ∧ s.twin.ownCheck.isSome = true ∧ s.twin.peerCheck.isSome = true) ∧
    (let s := onTime (twinned base (fun x => { x with state := .check })) 60000000; s.twin.state = .check ∧ s.onGrid 1000000 0 = true ∧ s.roleHeld = false ∧ s.twin.checkAt + 60000000 ≤ s.now ∧ s.twin.ownCheck = none) ∧
    (let s := twinned base (fun x => { x with state := .check }); s.twin.ownCheck = none ∧ s.twin.peerCheck = none ∧ s.now < s.twin.checkAt + 60000000) ∧
    (base.twin.state ≠ .check ∧ base.twin.state ≠ .paired ∧ base.twin.state ≠ .join ∧ base.twin.swapTick = none) ∧
    (let s := due (onTime (twinned base (fun x => { x with state := .paired, active := true })) 60000000000000) ⟨0, 1, 0, 0⟩; s.expired (fun e => e.user == 1) = true ∧ base.expired (fun e => e.user == 1) = false ∧ s.onGrid 1000000 0 = true ∧ s.pairActive = true ∧ s.twin.swapTick = none ∧ s.swapBlocked = false ∧ s.swapDue ≤ s.tickNo + 16) ∧
    (let s := due (twinned base (fun x => { x with state := .paired, active := true })) ⟨0, 1, 0, 0⟩; s.onGrid 1000000 0 = true ∧ s.expired (fun e => e.user == 1) = true ∧ s.twin.swapAgain = false ∧ s.tickNo + 16 < s.swapDue) ∧
    (let s := onTime (twinned base (fun x => { x with state := .paired, swapTick := some 5 })) 5000000; s.twin.swapTick = some 5 ∧ s.twin.state = .paired ∧ s.onGrid 1000000 0 = true ∧ 5 ≤ s.tickNo ∧ s.twin.swapReply = none) ∧
    (let s := onTime (twinned base (fun x => { x with state := .paired, swapTick := some 5, swapReply := some (0, 5) })) 5000000; s.twin.swapTick = some 5 ∧ s.twin.state = .paired ∧ s.onGrid 1000000 0 = true ∧ 5 ≤ s.tickNo ∧ s.twin.swapReply = some (0, 5)) ∧
    (let s := twinned base (fun x => { x with state := .join, lane0 := true }); s.twin.state = .join ∧ s.twin.linkLost = false ∧ s.onGrid 1000000 0 = true) :=
  by and_intros <;> decide +kernel

/-- Witness of CanEventsComplete. -/
theorem witness_CanEventsComplete :
    (let s := withCan base {} none; s.can[(3 : Fin 4)].onLine = true ∧ canFrame.fd = false) ∧
    (let s := onTime (withCan base { lock := some 0 } none) 10000000; s.can[(3 : Fin 4)].bufs[(63 : Fin 64)].lock = some 0 ∧ 0 + 10000000 ≤ s.now) ∧
    (let s := withCan base { cfg := 0x80000000, tx := some (canFrame, 0, 5) } none; s.can[(3 : Fin 4)].onLine = true ∧ s.can[(3 : Fin 4)].mode = 1 ∧ s.isStandby = false ∧ s.can[(3 : Fin 4)].onBus = none ∧ bestKey s.can[(3 : Fin 4)].waiting = some 63) ∧
    (let s := withCan base { tx := some (canFrame, 0, 5) } (some ⟨63, 7, false⟩); s.can[(3 : Fin 4)].onBus = some ⟨63, 7, false⟩ ∧ (⟨63, 7, false⟩ : CanOnBus).won = false) ∧
    (let s := withCan base { tx := some (canFrame, 0, 5) } (some ⟨63, 7, true⟩); s.can[(3 : Fin 4)].onBus = some ⟨63, 7, true⟩ ∧ (⟨63, 7, true⟩ : CanOnBus).won = true ∧ (1 : Fin 7).val ≠ 0 ∧ s.can[(3 : Fin 4)].onLine = true) ∧
    (let s := withCan base {} none; (1 : Fin 7).val ≠ 0 ∧ s.can[(3 : Fin 4)].onLine = true ∧ s.can[(3 : Fin 4)].onBus = none) ∧
    (let s := (withCan base {} none).setCanN 3 { (withCan base {} none).can[(3 : Fin 4)] with state := .busOff }; s.can[(3 : Fin 4)].state = .busOff ∧ s.can[(3 : Fin 4)].recovering = false) ∧
    (let s := (withCan base {} none).setCanN 3 { (withCan base {} none).can[(3 : Fin 4)] with state := .busOff, recovering := true }; s.can[(3 : Fin 4)].state = .busOff ∧ s.can[(3 : Fin 4)].recovering = true) ∧
    (let s := (withCan base {} none).setCanN 3 { (withCan base {} none).can[(3 : Fin 4)] with sync := false }; s.can[(3 : Fin 4)].mode ≠ 0 ∧ s.can[(3 : Fin 4)].sync = false ∧ s.can[(3 : Fin 4)].state ≠ .busOff ∧ s.can[(3 : Fin 4)].state ≠ .off) :=
  by and_intros <;> decide +kernel

/-- Witness of CanFrameGoesToItsBuffer. -/
theorem witness_CanFrameGoesToItsBuffer :
    (let s := receiving 5 (withCan base {} none); s.can[(3 : Fin 4)].onLine = true ∧ canFrame.fd = false ∧ fld s.can[(3 : Fin 4)].bufs[(5 : Fin 64)].cfg 31 30 = 1 ∧ bitAt s.can[(3 : Fin 4)].bufs[(5 : Fin 64)].cfg 29 = canFrame.ext ∧ (canFrame.id.toNat ^^^ fld s.can[(3 : Fin 4)].bufs[(5 : Fin 64)].cfg 28 0) &&& fld s.can[(3 : Fin 4)].bufs[(5 : Fin 64)].mask 28 0 = 0 ∧ ∀ j : Fin 64, j < 5 → ¬ fld s.can[(3 : Fin 4)].bufs[j].cfg 31 30 = 1) ∧
    (let s := withCan base {} none; s.can[(3 : Fin 4)].onLine = true ∧ ∀ j : Fin 64, ¬ fld s.can[(3 : Fin 4)].bufs[j].cfg 31 30 = 1) :=
  by and_intros <;> decide +kernel

/-- Witness of SupplyEventsComplete. -/
theorem witness_SupplyEventsComplete :
    (5000 ≤ 5000 ∧ base.sys.porstLow = false) ∧
    (base.sys.inReset = false ∧ base.sys.running = true) ∧
    (let s := onTime (system State.reset (fun x => { x with aboveAt := 0 })) 1000000; s.sys.inReset = true ∧ s.resetReleased = true) ∧
    (let s := unready base; (4 : Fin 21).val ≠ rdSafelight ∧ (4 : Fin 21).val ≠ rdSafetycpu ∧ (4 : Fin 21).val ≠ rdTwin ∧ s.mayReport (4 : Fin 21).val = true ∧ s.sys.ready.getLsbD (4 : Fin 21).val = false ∧ s.sys.dropped.getLsbD (4 : Fin 21).val = false ∧ s.noUnits (4 : Fin 21).val = false) ∧
    (let s := (unready base).setCell { base.cell with tileMask := 0xFFFF }; s.noUnits rdDsp = true ∧ s.mayReport rdDsp = true ∧ s.sys.ready.getLsbD rdDsp = false) ∧
    (base.sys.dipAt = none ∧ base.sys.caution = false ∧ base.sys.burning = none ∧ base.sys.stopSeen = false) ∧
    (let s := onTime (unready base) 2000000; s.mayReport rdSafelight = true ∧ s.mayReport rdSafetycpu = true ∧ s.mayReport rdTwin = true ∧ s.sys.ready = 0 ∧ base.sys.ready.getLsbD 4 = true) ∧
    (let s := onTime (system base (fun x => { x with dipAt := some 0 })) 50000; s.sys.dipAt = some 0 ∧ s.sys.caution = false ∧ s.sys.inReset = false ∧ 0 + 50000 ≤ s.now) ∧
    (let s := system base (fun x => { x with dipAt := some 0 }); s.sys.dipAt = some 0 ∧ s.sys.deep = false ∧ s.sys.inReset = false) ∧
    (let s := onTime (system base (fun x => { x with caution := true })) 100000000; s.sys.caution = true ∧ s.sys.dipAt = none ∧ s.sys.aboveAt + 100000000 ≤ s.now) ∧
    (let s := onTime (system base (fun x => { x with dipAt := some 0 })) 5000000; s.sys.stopSeen = false ∧ s.sys.inReset = false ∧ 5000 ≤ s.belowUs) ∧
    (20000 ≤ 20000 ∧ base.sys.slUp = true ∧ base.sys.hot = false) ∧
    (let s := onTime (system base (fun x => { x with slUp := false })) 1; s.sys.slUp = false ∧ s.now ≠ 0) ∧
    (let s := system base (fun x => { x with hot := true }); s.sys.hot = true ∧ s.isReady rdSafetycpu = true ∧ s.safety.intFault1 = false) ∧
    (base.sys.thermalAt = none ∧ base.sys.inReset = false) ∧
    (let s := system base (fun x => { x with burning := some image }); s.sys.burning = some image ∧ s.sys.caution = false) :=
  by and_intros <;> decide +kernel

/-- Witness of CanTxRecordRefusals: BRS without FD, in a transmit buffer. -/
theorem witness_CanTxRecordRefusals :
    ∃ (q : Fin 16) (tag : Fin 1024) (s : State) (p : Pkt), s.Begins q tag 0xA0 p ∧
      s.can[canOf p.begun].bufs[bufOf p.begun].use = 2 ∧ p.begun.payload.length = 72 ∧
      (byteAt p.begun.payload 5).testBit 1 = true ∧ (byteAt p.begun.payload 5).testBit 0 = false :=
  ⟨0, 5, _, _, holding_begins (withCan base { cfg := 0x80000000 } none) 0 0xA0 0x3F03 0 (List.replicate 5 0 ++ [2] ++ List.replicate 66 0),
    by decide +kernel⟩

/-- Witness of CompletionAddsOneReply. -/
theorem witness_CompletionAddsOneReply :
    ((pk 0 0 0 0 []).origin ≠ .partner ∧ (holding base 0 (pk 0 0 0 0 [])).host.queues[f16 (pk 0 0 0 0 []).queue].resetting = false) ∧
    (let s := base.setQueue 0 { base.host.queues[(0 : Fin 16)] with inflight := [pk 0 0 0 0 [], { pk 0 0 0 0 [] with tag := 6 }], resetting := true }; s.host.queues[f16 (pk 0 0 0 0 []).queue].resetting = true ∧ ∃ o ∈ s.host.queues[f16 (pk 0 0 0 0 []).queue].inflight, o.tag ≠ (pk 0 0 0 0 []).tag) :=
  by and_intros <;> decide +kernel

/-- Witness of PresenceWindowOpens. -/
theorem witness_PresenceWindowOpens :
    ((pk 14 0x70 0 0 []).origin ≠ .partner ∧ (system base (fun x => { x with caution := true })).sys.caution = true) ∧
    (base.sys.caution = false ∧ (waiting base 0x70).host.presence ≠ none ∧ base.host.presence = none) :=
  by and_intros <;> decide +kernel

/-- Witness of PacketsThatMayNotStart. -/
theorem witness_PacketsThatMayNotStart :
    (packetOf (.ping 0 5) = some (0, 5, 0) ∧ base.candidatePkt 0 5 0 = none) ∧
    (let p := { pk 0 0 0 0 [] with deadline := 1 }; let s := onTime (holding base 0 p) 1001; s.candidatePkt 0 5 0 = some p ∧ p.late s.time.cellNs = true ∧ (s.begun 0 p).refused 0 p = false) ∧
    (let p := { pk 0 0x20 0 0 [] with index := 1 }; let o := { pk 0 0x20 0 0 [] with tag := 6 }; let s := holdingTwo base p o; s.candidatePkt 0 5 0x20 = some p ∧ s.segPushFirst p = false) ∧
    (let p := { pk 15 0x61 0 0 [] with index := 1 }; let o := { pk 15 0x61 0 0 [] with tag := 6 }; let s := working (base.setQueue 15 { base.host.queues[(15 : Fin 16)] with inflight := [o, p] }) (.packet 15 5); s.candidatePkt 15 5 0x61 = some p ∧ s.evtArmFirst p = false) :=
  by and_intros <;> decide +kernel

/-- Witness of TimeSetChecks. -/
theorem witness_TimeSetChecks :
    (celled.cellOn = true ∧ (ptp 0x66006400 0 none).time.source = 1) ∧
    (let p := pk 0 0x81 0 0 (List.replicate 8 0 ++ [0xFF, 0xFF, 0xFF, 0xFF]); localTime.cellOn = false ∧ localTime.time.source ≠ 1 ∧ p.payload.length = 12 ∧ zeroed p.payload 6 2 = true ∧ 999999999 < u32 p.payload 8) ∧
    (∃ (q : Fin 16) (tag : Fin 1024) (s : State) (p : Pkt), s.Begins q tag 0x81 p ∧ s.timeSetCheck p = none) :=
  ⟨by decide +kernel,
   by decide +kernel,
   ⟨0, 5, _, _, holding_begins localTime 0 0x81 0 0 (List.replicate 12 0), by decide +kernel⟩⟩

/-- Witness of ReadsOnlyReply. -/
theorem witness_ReadsOnlyReply :
    (Instr.ping 0 5 ∈ [Instr.ping 0 5, .readyRead 0 5]) :=
  by decide +kernel

/-- Smoke test of well-formedness: each check refuses a command that breaks it. -/
theorem test_wf_refuses :
    ([(.sqDoorbell 0 63 [] : Instr),
      (.sqDoorbell 0 0x1000000 [] : Instr),
      (.sqDoorbell 0 64 [0] : Instr),
      (.cqDoorbell 0 1 : Instr),
      (.cqDoorbell 0 0x1000000 : Instr),
      (.udpDatagram 0 ⟨0, 65536⟩ 0 [] : Instr),
      (.udpDatagram 0 ⟨0, 0⟩ 65536 [] : Instr),
      (.udpDatagram 0 ⟨0, 0⟩ 0 (List.replicate 8973 0) : Instr),
      (.debugSpiTransaction (List.replicate 1034 0) true : Instr),
      (.loopBatch 1016 : Instr),
      (.safetyFrame 1016 0 [] : Instr),
      (.safetyFrame 0 0 (List.replicate 1473 0) : Instr),
      (.rangeRsp 0 false 0 true (List.replicate 1501 0) : Instr),
      (.slotLostDeadline 0 0 : Instr),
      (.slotLostDeadline 0 255 : Instr),
      (.nodeFrame 0 true 0 true (List.replicate 1501 0) : Instr),
      (.coldstart 0 false true (List.replicate 1501 0) : Instr),
      (.tbCtrlSource 3 : Instr),
      (.npDev 1 : Instr),
      (.npDev 201 : Instr),
      (.arbitrationRound 0 [1, 1] true : Instr),
      (.canFrameReceived 0 ⟨0x800, false, false, false, false, 0, []⟩ 0 : Instr),
      (.canFrameReceived 0 ⟨0, false, true, true, false, 0, []⟩ 0 : Instr),
      (.canFrameReceived 0 ⟨0, false, false, false, true, 0, []⟩ 0 : Instr),
      (.canFrameReceived 0 ⟨0, false, false, false, false, 9, List.replicate 12 0⟩ 0 : Instr),
      (.canFrameReceived 0 ⟨0, false, false, false, false, 1, []⟩ 0 : Instr),
      (.canBusError 0 .transmitter 0 : Instr),
      (.benjoFrame 0 (List.replicate 8213 0) : Instr),
      (.dipEnd 65536 : Instr)].all (fun i => !i.wf)) = true :=
  by decide +kernel

/-- A frame with an extended identifier and 12 bytes of CAN FD is well formed. -/
theorem test_wf_accepts :
    (Instr.canFrameReceived 0 ⟨0x1FFFFFFF, true, false, true, true, 9, List.replicate 12 0⟩ 0).wf = true :=
  by decide +kernel

/-- No word spells a command: the table gives no row bits. -/
theorem test_decode_none :
    decodeTableWord 32 0x12345678 = none ∧ State.reset.withFetchWord 32 7 = State.reset :=
  ⟨rfl, rfl⟩

/-- The worked example of R87: HQ_QCFG and HQ_QTAGS of queue 3 after reset. -/
theorem test_param_read_queue_3 :
    State.reset.readWords 0x0100 0x58 2 = [0x30000020, 0x00C00040] :=
  by decide +kernel

/-- The worked example of R440: with neither firmware slot valid, SYS_READY reads 0x21 and page 0x0100 is not served. -/
theorem test_spi_ready :
    let s := system base (fun x => { x with ready := 0x21 }); s.readWords 0x0000 1 1 = [0x21] ∧
      s.spiCheck [0x0B, 0, 0, 1, 0] false = none ∧ s.spiCheck [0x0B, 0, 1, 0, 0] false = some stNotReady :=
  by decide +kernel

/-- The notch kernel of R252: the access reads 0x013C, and the post-update by 4 modulo 48 leaves 16. -/
theorem test_circular :
    let c : Core := { b := Vector.replicate 4 0x0100, l := Vector.replicate 4 48, i := Vector.replicate 4 60, s := Vector.replicate 4 4 };
    c.slotAddr 0x8800 = 0x013C ∧ (c.slotUpdate 0x8800).i[(0 : Fin 4)] = 16 :=
  by decide +kernel

/-- The correlation kernel of R247: the 65,536th product saturates or wraps, and raises GUARD_OVF. -/
theorem test_guard_overflow :
    accOf (0x7FFF8000000000000000 + 2 ^ 63) false = (0x7FFFFFFFFFFFFFFFFFFF, true) ∧
      accOf (0x7FFF8000000000000000 + 2 ^ 63) true = (0x80000000000000000000, true) :=
  by decide +kernel

/-- The worked example of R183: e = 60, p = 2,400, d = −17, i = 302, y = 91,343. -/
theorem test_loop_law :
    let l : LoopSlot := { cfg := 0xC0000000, kp := 0x38001400, ki := 0x88000CCD, kd := 0x08000001, df := 0x10000001, omin := -500000
                          omax := 500000, fPrev := 16610, i := 300, d := -16, first := false }
    let x := l.law ⟨16710, 16650, 88658⟩ false
    x.e = 60 ∧ x.p = 2400 ∧ x.d = -17 ∧ x.i = 302 ∧ x.y = 91343 :=
  by decide +kernel

/-- The block of R230: the pivot that is exactly 0 becomes the floor, and (1.0, 0.5) solves to (0.25, 0). -/
theorem test_factor :
    floorRule (f32Fma (f32Neg (f32Mul 0x3F000000 0x40800000)) 0x3F000000 0x3F800000) 0x358637BD = (0x358637BD, true) ∧
      (solveBlock [[], [0x3F000000]] [0x40800000, 0x358637BD] [0x3F800000, 0x3F000000] 2 0).vals = [0x3E800000, 0] :=
  by decide +kernel

/-- The door of R322: changes 10.00 ms apart are no fault, 10.25 ms apart are. -/
theorem test_discrepancy :
    let p : PairSt := { lineA := true, lineB := true, active := false }
    let a := p.change false false false 10000000 500000
    a.active = true ∧ (a.change true false false 10000000 10500000).cause = 0 ∧ (a.change true false false 10000000 10750000).cause = 1 :=
  by decide +kernel

/-- Chain 6 of R354 and R359: the scales 0.12546 and 0.11815 in units of 2⁻¹⁶. -/
theorem test_separation_scale :
    let x : SepPar := ⟨1, 1600, 60, 5000, 160⟩; x.scale 484 4200 = 8222 ∧ x.scale 476 4320 = 7742 ∧
      x.tooNear 492 535 = false ∧ x.tooNear 492 544 = true :=
  by decide +kernel

/-- The dividers that the reset values of CN_NBT and CN_DBT encode (R387): 500 kbit/s and 2 Mbit/s at 80 MHz. -/
theorem test_can_rates :
    nbtDivider 0x013E1E3C = 160 ∧ dbtDivider 0x079DE800 = 40 :=
  by decide +kernel

/-- The dips of R415: 4,980 µs below warning at 60.4 ms. -/
theorem test_below_warning :
    (onTime (system base (fun x => { x with spans := (List.range 12).reverse.map (fun k => (5000000 * (k + 1), 5000000 * (k + 1) + 400000)) ++ [(0, 180000)] })) 60400000).belowUs = 4980 :=
  by decide +kernel

/-- The swap of R378: 60 min after the last at 1,000,000 ms. -/
theorem test_swap_due :
    (twinned base (fun x => { x with lastSwap := 1000000000000 })).swapDue = 4600000 :=
  by decide +kernel

/-- The CRC-32C of R34 on the nine digits of the usual check. -/
theorem test_crc :
    crc32c [0x31, 0x32, 0x33, 0x34, 0x35, 0x36, 0x37, 0x38, 0x39] = 0xE3069283 :=
  by decide +kernel

end Sys2Proof.Tests
end

section
/-! SUPPORT. The fragments of the image streams (R9, R10, R12): how one is judged, and the rows that take them. -/

namespace Sys2Proof.Machine

/-! ### Judging a fragment (R10) -/

/-- A total length outside the limits of its stream. -/
abbrev badTotal (st : Stream) (p : Pkt) : Prop := p.p1.toNat < (streamLimits st).1 ∨ (streamLimits st).2 < p.p1.toNat

theorem not_badTotal {st : Stream} {p : Pkt} (h1 : (streamLimits st).1 ≤ p.p1.toNat)
    (h2 : p.p1.toNat ≤ (streamLimits st).2) : ¬ badTotal st p := fun h => h.elim (Nat.not_lt.2 h1) (Nat.not_lt.2 h2)

/-- A stream that holds the partial image of another queue or opcode is BUSY. -/
theorem judgeFrag_foreign {i : Partial} {p : Pkt} (h : i.queue ≠ p.queue ∨ i.opcode ≠ p.opcode) (st : Stream) (b : Bool) :
    judgeFrag (some i) st p b = .bad busy false := by
  have hc : (i.queue != p.queue || i.opcode != p.opcode) = true := by simpa using h
  simp only [judgeFrag, hc, if_true]

section Own
variable {i : Partial} {p : Pkt} (hq : i.queue = p.queue) (ho : i.opcode = p.opcode)
include hq ho

/-- The partial image of the packet's own queue and opcode is no foreign one. -/
theorem own_not_foreign : (i.queue != p.queue || i.opcode != p.opcode) = false := by simp [hq, ho]

/-- A last fragment, and any fragment of a rule table, that meets a busy unit is BUSY (R12, log entry 20). -/
theorem judgeFrag_busy {st : Stream} (h : p.lastFrag = true ∨ st = .rule) :
    judgeFrag (some i) st p true = .bad busy false := by
  have hb : (p.lastFrag || decide (st = .rule)) = true := by simpa using h
  simp only [judgeFrag, own_not_foreign hq ho, hb, Bool.true_and, Bool.false_eq_true, if_false, if_true]

/-- A fragment at offset 0 begins the image anew. -/
theorem judgeFrag_restart (st : Stream) (h : p.p0 = 0) : judgeFrag (some i) st p false = judgeFrag none st p false := by
  have h0 : p.p0.toNat = 0 := by simp [h]
  simp only [judgeFrag, own_not_foreign hq ho, h0, ne_eq, not_true_eq_false, false_and, if_false, bne_self_eq_false,
    Bool.false_and, if_true]

/-- A fragment at another offset goes on with the image that is held. -/
theorem judgeFrag_continued (st : Stream) (h : p.p0 ≠ 0) :
    judgeFrag (some i) st p false =
      if p.p0.toNat ≠ i.bytes.length then .bad (badAt atP0) true
      else if badTotal st p then .bad (badAt atP1) true
      else if p.p1.toNat < p.p0.toNat + p.payload.length then .bad (badAt atP1) true
      else if i.total ≠ p.p1.toNat then .bad (badAt atP1) true
      else if p.p0.toNat + p.payload.length = p.p1.toNat then .whole (i.bytes ++ p.payload)
      else .stored (i.bytes ++ p.payload) := by
  have h0 : p.p0.toNat ≠ 0 := fun e => h (BitVec.eq_of_toNat_eq e)
  simp [judgeFrag, own_not_foreign hq ho, h0]

end Own

/-- The same without a partial image. -/
theorem judgeFrag_none_busy {st : Stream} {p : Pkt} (h : p.lastFrag = true ∨ st = .rule) :
    judgeFrag none st p true = .bad busy false := by
  have hb : (p.lastFrag || decide (st = .rule)) = true := by simpa using h
  simp only [judgeFrag, hb, Bool.true_and, Bool.false_eq_true, if_false, if_true]

/-- Without a partial image the first fragment must stand at offset 0. -/
theorem judgeFrag_none_elsewhere {p : Pkt} (st : Stream) (h : p.p0 ≠ 0) :
    judgeFrag none st p false = .bad (badAt atP0) false := by
  have h0 : p.p0.toNat ≠ 0 := fun e => h (BitVec.eq_of_toNat_eq e)
  simp [judgeFrag, h0]

/-- The first fragment of an image. -/
theorem judgeFrag_first {p : Pkt} (st : Stream) (h : p.p0 = 0) :
    judgeFrag none st p false =
      if badTotal st p then .bad (badAt atP1) true
      else if p.p1.toNat < p.payload.length then .bad (badAt atP1) true
      else if p.payload.length = p.p1.toNat then .whole p.payload
      else .stored p.payload := by
  simp [judgeFrag, h]

/-- Settles O13: each clause is one branch of the rule for a first, a continued or a foreign fragment. -/
theorem fragmentOrder : Obligations.FragmentOrder := by
  unfold Obligations.FragmentOrder
  intro st p i
  refine ⟨fun h0 h1 h2 => ?_, judgeFrag_none_elsewhere st, fun h0 hb => ?_, fun hq ho h0 => ?_,
    fun b h => judgeFrag_foreign h st b, fun hq ho h0 => judgeFrag_restart hq ho st h0,
    fun hq ho h => ⟨judgeFrag_busy hq ho h, judgeFrag_none_busy h⟩⟩
  · rw [judgeFrag_first st h0, if_neg (not_badTotal h1 h2)]
    refine ⟨fun h => ?_, fun h => ?_, fun h => if_pos h⟩
    · rw [if_neg (by omega), if_neg (by omega)]
    · rw [if_neg (by omega), if_pos h]
  · rw [judgeFrag_first st h0, if_pos hb]
  · rw [judgeFrag_continued hq ho st h0]
    refine ⟨fun h => if_pos h, fun h hb => ?_, fun h h1 h2 h3 => ?_⟩
    · rw [if_neg (by omega)]
      rcases or_assoc.2 hb with hb | hb
      · rw [if_pos hb]
      · rw [if_pos hb, ite_self]
    · rw [if_neg (by omega), if_neg (not_badTotal h1 h2), if_neg (by omega)]
      exact ⟨fun ht => if_pos ht, fun ht => if_neg (by omega)⟩

/-- Settles O12: each of the seven rows hands its packet to the rule of its stream. -/
theorem fragmentsAreCollected : Obligations.FragmentsAreCollected := by
  unfold Obligations.FragmentsAreCollected
  exact ⟨takesFragments_of fun _ _ _ => rfl, takesFragments_of fun _ _ _ => rfl, takesFragments_of fun _ _ _ => rfl,
    takesFragments_of fun _ _ _ => rfl, takesFragments_of fun _ _ _ => rfl, takesFragments_of fun _ _ _ => rfl,
    takesFragments_of fun _ _ _ => rfl⟩

end Sys2Proof.Machine
end

section
/-! SUPPORT. The commands that read (R12, R36, R67, R82, R384, R410). -/

namespace Sys2Proof.Machine

/-! ### Commands that read -/

theorem State.finish_badAt_repliesOnly (s : State) (p : Pkt) (w0 w1 : Word) : s.repliesOnly (s.finish p (badAt w0 w1)) :=
  s.finish_repliesOnly p _ _ (by decide : stBadParam ≠ stInternal)

theorem State.finish_busy_repliesOnly (s : State) (p : Pkt) : s.repliesOnly (s.finish p busy) :=
  s.finish_repliesOnly p _ _ (by decide : stBusy ≠ stInternal)

/-- A row that starts its packet and goes on with an effect on replies alone only replies. -/
theorem exec_repliesOnly {c : Instr} {s : State} {q : Fin 16} {tag : Fin 1024} {op : Nat} {f : Pkt → State → State}
    (he : exec c s = .next (s.startPkt q tag op f)) (hf : ∀ p (t : State), t.repliesOnly (f p t)) :
    ∃ t, exec c s = .next t ∧ s.repliesOnly t :=
  ⟨_, he, s.startPkt_repliesOnly q tag op f hf⟩

/-- Settles O60: each of the rows starts its packet and then answers or refuses, which touches replies alone. -/
theorem readsOnlyReply : Obligations.ReadsOnlyReply := by
  unfold Obligations.ReadsOnlyReply
  intro c q tag s h
  simp only [List.mem_cons, List.not_mem_nil, or_false] at h
  have ok := State.finishOk_repliesOnly
  have bad := State.finish_badAt_repliesOnly
  rcases h with rfl | rfl | rfl | rfl | rfl | rfl | rfl | rfl | rfl | rfl | rfl | rfl | rfl | rfl
  · exact exec_repliesOnly rfl fun p t => ok t p _ _ _
  · exact exec_repliesOnly rfl fun p t => ok t p _ _ _
  · exact exec_repliesOnly rfl fun p t => repliesOnly_ite (bad t p _ _) (ok t p _ _ _)
  · exact exec_repliesOnly rfl fun p t => repliesOnly_ite (bad t p _ _) (ok t p _ _ _)
  · refine exec_repliesOnly rfl fun p t => ?_
    cases t.theCell.chainRec (p.p0.toNat % 16) with
    | none => exact bad t p _ _
    | some ch => exact ok t p _ _ _
  · refine exec_repliesOnly rfl fun p t => ?_
    cases t.loopNamed p.p0 with
    | none => exact bad t p _ _
    | some l =>
      dsimp only
      cases (t.slotsOfLoop l.1).head? with
      | none => exact bad t p _ _
      | some e => exact ok t p _ _ _
  · exact exec_repliesOnly rfl fun p t => repliesOnly_ite (bad t p _ _) (ok t p _ _ _)
  · exact exec_repliesOnly rfl fun p t => repliesOnly_ite (bad t p _ _) (ok t p _ _ _)
  · exact exec_repliesOnly rfl fun p t =>
      repliesOnly_ite (bad t p _ _) (repliesOnly_ite (bad t p _ _) (ok t p _ _ _))
  · exact exec_repliesOnly rfl fun p t => ok t p _ _ _
  · exact exec_repliesOnly rfl fun p t => ok t p _ _ _
  · exact exec_repliesOnly rfl fun p t => repliesOnly_ite (bad t p _ _) (ok t p _ _ _)
  · exact exec_repliesOnly rfl fun p t => ok t p _ _ _
  · exact exec_repliesOnly rfl fun p t => repliesOnly_ite (bad t p _ _)
      (repliesOnly_ite (t.finish_busy_repliesOnly p) (repliesOnly_ite (bad t p _ _) (ok t p _ _ _)))

end Sys2Proof.Machine
end

section
/-! SUPPORT. What a whole cell image starts (R11, R14, R69, R441). -/

namespace Sys2Proof.Machine

theorem State.cellOn_false {s : State} : s.cellOn = false ↔ s.cell.active = none := by
  simp [State.cellOn]

/-! ### A whole cell image, check by check -/

/-- CELL_AMEND needs an active cell (R441). -/
theorem State.takeCell_amend_without_cell {s : State} (h : s.cell.active = none) (p : Pkt) (b : List Byte) :
    s.takeCell p .amend b = s.finish p (badAt 0) := by
  simp [State.takeCell, State.cellOn_false.2 h]

/-- The safety rule lets an image through (R11). -/
theorem safetyRule_met {s : State} {k : JobKind} {c : Cell} {p : Pkt}
    (hs : k = .check ∨ altersSafety s.theCell c = false ∨ p.queue = 14) :
    ¬ (decide (k ≠ .check) && altersSafety s.theCell c && p.queue != 14) = true := by
  rcases hs with h | h | h <;> simp [h]

section HasCell
variable {s : State} {k : JobKind} {b : List Byte} {c : Cell} (hc : k ≠ .amend ∨ s.cellOn = true)
include hc

theorem State.not_amend_without_cell : ¬ (decide (k = .amend) && !s.cellOn) = true := by
  rcases hc with h | h <;> simp [h]

/-- An image that breaks a rule completes with the verdict of its validation (R14). -/
theorem State.takeCell_invalid {v : Verdict} (hv : validate b (if k = .amend then s.cell.active else none) = .error v)
    (p : Pkt) : s.takeCell p k b = s.finish p v := by
  unfold State.takeCell
  rw [if_neg (State.not_amend_without_cell hc), hv]

variable (hv : validate b (if k = .amend then s.cell.active else none) = .ok c)
include hv

/-- An image that uses a ring that is not ready is NOT_READY (R69). -/
theorem State.takeCell_notReady {ms : Nat} (hm : s.notReady c.ringBits = some ms) (p : Pkt) :
    s.takeCell p k b = s.finish p ⟨stNotReady, w32 ms, 0⟩ := by
  unfold State.takeCell
  rw [if_neg (State.not_amend_without_cell hc), hv]
  simp only [hm]

variable (hr : s.notReady c.ringBits = none)
include hr

/-- An image that alters a safety object is refused on a queue other than 14 (R11). -/
theorem State.takeCell_refused {p : Pkt} (hk : k ≠ .check) (ha : altersSafety s.theCell c = true) (hq : p.queue ≠ 14) :
    s.takeCell p k b = s.finish p ⟨stRefused, 0, 0⟩ := by
  unfold State.takeCell
  rw [if_neg (State.not_amend_without_cell hc), hv]
  simp only [hr]
  exact if_pos (by simp [hk, ha, hq])

variable {p : Pkt} (hs : k = .check ∨ altersSafety s.theCell c = false ∨ p.queue = 14)
include hs

/-- A CELL_AMEND that must wait for its chains or the rule table completes (R175, R305). -/
theorem State.takeCell_waits {v : Verdict} (hw : (if k = .amend then s.amendBusy s.theCell c else none) = some v) :
    s.takeCell p k b = s.finish p v := by
  unfold State.takeCell
  rw [if_neg (State.not_amend_without_cell hc), hv]
  simp only [hr]
  rw [if_neg (safetyRule_met hs), hw]

/-- Any other image starts the placement job of its command. -/
theorem State.takeCell_places (hw : (if k = .amend then s.amendBusy s.theCell c else none) = none) :
    s.takeCell p k b = s.setCell { s.cell with job := some {
      kind := k, queue := p.queue, tag := p.tag, cell := c, current := s.solver.currentList, bind := none
      phase := .placing, altersSafety := altersSafety s.theCell c } } := by
  unfold State.takeCell
  rw [if_neg (State.not_amend_without_cell hc), hv]
  simp only [hr]
  rw [if_neg (safetyRule_met hs), hw]

end HasCell

theorem State.repliesOnly.active {s t : State} (h : s.repliesOnly t) : t.cell.active = s.cell.active := by
  obtain ⟨_, _, _, _, _, rfl⟩ := h
  rfl

/-- Settles O14: the checks of `State.takeCell` in their order. -/
theorem cellImageIsTaken : Obligations.CellImageIsTaken := by
  unfold Obligations.CellImageIsTaken
  intro s p k b c
  refine ⟨fun hk ha => hk ▸ s.takeCell_amend_without_cell ha p b, fun v hc hv => State.takeCell_invalid hc hv p,
    fun hc hv => ⟨fun ms hm => State.takeCell_notReady hc hv hm p, fun hr => ?_⟩⟩
  refine ⟨fun hk ha hq => ?_, fun hs hw => State.takeCell_places hc hv hr hs ?_, fun v hk hs hw =>
    State.takeCell_waits hc hv hr (.inr hs) (by rw [if_pos hk, hw])⟩
  · rw [State.takeCell_refused hc hv hr hk ha hq]
    exact ⟨rfl, (s.finish_repliesOnly p _ _ (by decide : stRefused ≠ stInternal)).active⟩
  · split
    · exact hw ‹_›
    · rfl

end Sys2Proof.Machine
end

section
/-! SUPPORT. The commands of the placement, the schedules and the kernels that complete at once or start a placement
(R33, R77, R78, R219, R260, R270). -/

namespace Sys2Proof.Machine

/-- Settles O15: PLACE_READ judges param0 against the number of records, and answers otherwise. -/
theorem placeReadAnswers : Obligations.PlaceReadAnswers := by
  unfold Obligations.PlaceReadAnswers
  exact ⟨completes_of (fun _ _ _ => rfl) fun p t h => if_neg (Nat.not_lt.2 h),
    completes_of (fun _ _ _ => rfl) fun p t h => if_pos h⟩

/-! ### SCHED_SWAP, SCHED_UNLOAD, SOLVER_REPORT -/

/-- Settles O20: each clause fixes the outcome of every check of its row, one path through it. -/
theorem scheduleCommandsComplete : Obligations.ScheduleCommandsComplete := by
  unfold Obligations.ScheduleCommandsComplete
  refine ⟨fun g => completes_of (fun _ _ _ => rfl) fun p t ⟨hg, hclash, hjob, hcell⟩ => ?_,
    fun g => completes_of (fun _ _ _ => rfl) fun p t ⟨hg, hclash, hjob, hcell⟩ => ?_,
    completes_of (fun _ _ _ => rfl) fun p t hg => ?_,
    fun g => completes_of (fun _ _ _ => rfl) fun p t ⟨hg, hclash⟩ => ?_,
    fun g => completes_of (fun _ _ _ => rfl) fun p t ⟨hg, hclash, hjob⟩ => ?_,
    fun g => completes_of (fun _ _ _ => rfl) fun p t ⟨hg, hfree⟩ => ?_,
    completes_of (fun _ _ _ => rfl) fun p t hg => ?_,
    fun g => completes_of (fun _ _ _ => rfl) fun p t ⟨hg, hcur, hcell⟩ => ?_,
    completes_of (fun _ _ _ => rfl) fun p t ⟨hp, hcell, him⟩ => if_neg (by simp [Nat.not_lt.2 hp, hcell, him]),
    completes_of (fun _ _ _ => rfl) fun p t h => if_pos h⟩
  · simp [hg, hclash, hjob, hcell]
  · simp [hg, hclash, hjob, hcell]
  · simp only [hg]
  · simp only [hg, hclash, if_true]
  · simp [hg, hclash, Option.isSome_iff_ne_none.2 hjob]
  · simp [hg, hfree]
  · simp only [hg]
  · simp [hg, hcur, hcell]

/-! ### KERNEL_BIND, KERNEL_UNLOAD, TILE_STATUS -/

/-- Settles O21: each clause fixes the state of the kernel, its object and the job, one path through the row. -/
theorem kernelCommandsComplete : Obligations.KernelCommandsComplete := by
  unfold Obligations.KernelCommandsComplete
  refine ⟨fun im => completes_of (fun _ _ _ => rfl) fun p t ⟨hp, him, hok, hfree, hst, hjob⟩ => ?_,
    completes_of (fun _ _ _ => rfl) fun p t h => ?_,
    fun im => completes_of (fun _ _ _ => rfl) fun p t ⟨hp, him, hok⟩ => ?_,
    fun im => completes_of (fun _ _ _ => rfl) fun p t ⟨hp, him, hok, hbusy⟩ => ?_,
    completes_of (fun _ _ _ => rfl) fun p t ⟨hp, hst⟩ => ?_,
    completes_of (fun _ _ _ => rfl) fun p t h => ?_,
    completes_of (fun _ _ _ => rfl) fun p t ⟨hp, hst⟩ => ?_,
    completes_of (fun _ _ _ => rfl) fun p t h => if_neg (Nat.not_lt.2 h),
    completes_of (fun _ _ _ => rfl) fun p t h => if_pos h⟩
  · rcases hst with hst | hst | ⟨hst, hbind⟩ <;>
      simp only [Nat.not_lt.2 hp, if_false, him, hok, hfree, hjob, hst, Bool.not_true, Bool.false_or,
        Option.isSome_none, Bool.false_eq_true]
    rw [hbind, bne_self_eq_false]
    rfl
  · rcases h with h | h
    · simp only [h, if_true]
    · simp only [h, ite_self]
  · simp only [Nat.not_lt.2 hp, if_false, him, hok, Bool.not_false, if_true]
  · simp only [Nat.not_lt.2 hp, if_false, him, hok, Bool.not_true, Bool.false_eq_true]
    refine if_pos ?_
    rcases hbusy with h | h | ⟨h, h'⟩ | h
    · simp only [h, Bool.true_or]
    · simp only [h, Bool.or_true, Bool.true_or]
    · simp only [h, bne_iff_ne.2 h', Bool.or_true, Bool.true_or]
    · simp only [Option.isSome_iff_ne_none.2 h, Bool.or_true]
  · simp only [Nat.not_lt.2 hp, if_false, hst]
  · rcases h with h | h
    · simp only [h, if_true]
    · simp only [h, ite_self]
  · rcases hst with hst | hst <;> simp only [Nat.not_lt.2 hp, if_false, hst]

end Sys2Proof.Machine
end

section
/-! SUPPORT. The events of placement, staging, activation and unit faults (R18, R26, R28, R30, R31, R220, R221, R236, R268). -/

namespace Sys2Proof.Machine

theorem State.jobDue_iff {s : State} {j : Job} {a : Nat} (h : j.phase = .announced a) : s.jobDue j = true ↔ a ≤ s.tickNo := by
  simp [State.jobDue, h]

/-! ### The commands -/

theorem exec_placementComplete (s : State) : exec .placementComplete s = execPlacementComplete s := rfl
theorem exec_stagingComplete (p : Fin 4) (b : Bool) (s : State) :
    exec (.stagingComplete p b) s = execStagingComplete p b s := rfl
theorem exec_stagingDeadline (s : State) : exec .stagingDeadline s = execStagingDeadline s := rfl
theorem exec_activation (s : State) : exec .activation s = execActivation s := rfl
theorem exec_partitionFault (p : Fin 8) (s : State) : exec (.partitionFault p) s = execPartitionFault p s := rfl
theorem exec_tileFault (t : Fin 16) (b : Bool) (s : State) : exec (.tileFault t b) s = execTileFault t b s := rfl

/-! ### Placement and staging -/

/-- PLACEMENT_COMPLETE takes a degraded placement first (R30). -/
theorem exec_placementComplete_regrade {s : State} {j : Job} (hr : s.cell.regrade = some j) (hp : j.phase = .placing) :
    exec .placementComplete s = .next (s.placeRegrade j) := by
  simp only [exec_placementComplete, execPlacementComplete, hr, hp, if_true]

theorem exec_placementComplete_job {s : State} {j : Job} (hr : s.cell.regrade = none) (hj : s.cell.job = some j)
    (hp : j.phase = .placing) : exec .placementComplete s = .next (s.placeJob j) := by
  simp only [exec_placementComplete, execPlacementComplete, hr, hj, hp, if_true]

/-- The arbiters of the partitions that a job gives to a problem have served its staging (R220, R281). -/
abbrev State.stagingServed (s : State) (j : Job) (p : Fin 4) : Bool :=
  (j.placement.problems.flatMap (fun e => if e.1 = p.val then (List.range e.2.2.1).map (e.2.1 + ·) else [])).all
    (fun i => s.servedUnit i 1)

/-- STAGING_COMPLETE of a problem that the announced placement has left to stage. -/
theorem exec_stagingComplete_job {s : State} {j : Job} {p : Fin 4} (hj : s.cell.job = some j)
    (hp : j.toStage.contains p.val = true) (hs : s.stagingServed j p = true) (eccOk : Bool) :
    exec (.stagingComplete p eccOk) s = if eccOk then
        .next (s.setCell { s.cell with job := some { j with toStage := j.toStage.filter (· != p.val) } })
      else .next (s.endJob j ⟨stInternal, 0, 0⟩) := by
  simp only [exec_stagingComplete, execStagingComplete, hj, hp, if_true, hs, Bool.not_true, Bool.false_eq_true,
    if_false, State.withdraw]

/-- STAGING_COMPLETE of a problem that a degraded placement has moved (R221). -/
theorem exec_stagingComplete_moved {s : State} {p : Fin 4} (hj : s.cell.job = none)
    (hp : s.solver.probs[p].staging = true) (hs : s.solver.probs[p].parts.all (fun i => s.servedUnit i 1) = true) :
    exec (.stagingComplete p true) s = .next (s.setProb p { s.solver.probs[p] with staging := false }) := by
  simp only [exec_stagingComplete, execStagingComplete, hj, hp, hs, Bool.and_self, if_true]

/-- At the deadline a placement with problems left to stage is withdrawn (R220). -/
theorem exec_stagingDeadline_withdraws {s : State} {j : Job} {a : Nat} (hj : s.cell.job = some j) (ha : j.phase = .announced a)
    (hs : j.toStage ≠ []) (ht : a * 1000000 ≤ s.stamp + 2000000) :
    exec .stagingDeadline s = .next (s.endJob j ⟨stInternal, 0, 0⟩) := by
  simp [exec_stagingDeadline, execStagingDeadline, hj, ha, hs, ht, State.withdraw]

/-! ### Activation -/

/-- Between planning tick boundaries nothing is activated. -/
theorem exec_activation_offGrid {s : State} (h : s.onGrid 1000000 0 = false) : exec .activation s = .next s := by
  simp only [exec_activation, execActivation, h, Bool.not_false, if_true]

/-- At its boundary the placement of a command comes into force, unless the partner has placed something else (R26) or the
rule table keeps its cell out (R305). -/
theorem exec_activation_job {s : State} {j : Job} (hr : s.cell.regrade = none) (hj : s.cell.job = some j)
    (hg : s.onGrid 1000000 0 = true) (hd : s.jobDue j = true) :
    exec .activation s = .next (
      if s.digestsDiffer j = true then (s.endJob j ⟨stInternal, 0, 0⟩).leavePair
      else match (if j.kind = .amend then s.tablesBusy s.theCell j.cell else none) with
        | some v => s.endJob j v
        | none => (((s.putInForce j).setCell { (s.putInForce j).cell with job := none }).showPlaced.finishTag j.queue j.tag
          ⟨stOk, j.placement.digest, 0⟩)) := by
  simp only [exec_activation, execActivation, hg, Bool.not_true, Bool.false_eq_true, if_false, hr, hj, hd]
  cases s.digestsDiffer j with
  | true => rfl
  | false => cases (if j.kind = .amend then s.tablesBusy s.theCell j.cell else none) <;> rfl

/-- At its boundary a re-placement is dealt with, and no command's placement where none is left. -/
theorem exec_activation_regrade {s : State} {j : Job} (hr : s.cell.regrade = some j) (hd : s.jobDue j = true)
    (hg : s.onGrid 1000000 0 = true) (hj : (s.activateRegrade j).cell.job = none) :
    exec .activation s = .next (s.activateRegrade j) := by
  simp only [exec_activation, execActivation, hg, Bool.not_true, Bool.false_eq_true, if_false, hr, hd, if_true, hj]

/-- A re-placement is dropped where the digests differ and this device is the standby, or where it only follows a join. -/
theorem State.activateRegrade_dropped {s : State} {j : Job} (hd : s.digestsDiffer j = true)
    (hs : s.twin.active = false ∨ j.rejoin = true) :
    s.activateRegrade j = (s.setCell { s.cell with regrade := none }).leavePair := by
  rcases hs with h | h <;> simp [State.activateRegrade, hd, h]

/-- Any other re-placement comes into force. -/
theorem State.activateRegrade_inForce {s : State} {j : Job}
    (h : s.digestsDiffer j = false ∨ (s.twin.active = true ∧ j.rejoin = false)) :
    s.activateRegrade j = ((s.putInForce j).setCell { (s.putInForce j).cell with regrade := none }).showPlaced := by
  rcases h with h | ⟨ha, hj⟩ <;> simp [State.activateRegrade, *]

/-! ### Faults of units -/

/-- PARTITION_FAULT while no solve runs ends none and masks the partition (R236). -/
theorem exec_partitionFault_idle {s : State} {p : Fin 8} (hm : s.cell.partMask.getLsbD p.val = false)
    (hs : ∀ i : Fin 4, s.solver.solves[i].running = false) :
    let t := s.setCell { s.cell with partMask := bvSet s.cell.partMask p.val }
    exec (.partitionFault p) s = .next (t.latchUnit rdSolver (t.cell.partMask == 0xFF)).maskChanged := by
  intro t
  have hidle : ∀ i : Nat, s.solver.solves[f4 i].running = false := fun i => hs (f4 i)
  rw [exec_partitionFault]
  unfold execPartitionFault
  extract_lets uses u
  have hu : u = s :=
    List.foldl_fixed' (fun i => by simp only [hidle, Bool.and_false, Bool.false_eq_true, if_false]) _
  clear_value u
  subst hu
  exact if_neg (by simp only [hm, Bool.false_eq_true, not_false_eq_true])

/-- TILE_FAULT of an idle tile without kernels masks it; a failed self-test is no fault (R268). -/
theorem exec_tileFault_idle {s : State} {k : Fin 16} {b : Bool} (hm : s.cell.tileMask.getLsbD k.val = false)
    (hk : s.kernelsOn k = []) (hi : s.tiles.tiles[k].busy = false) (hb : (b && (s.isReady rdDsp || s.sys.inReset)) = false) :
    let x := s.tiles.tiles[k]
    let t := s.setTile k { x with faulted := x.faulted || !b, busy := false, queue := [] }
    let u := t.setCell { t.cell with tileMask := bvSet t.cell.tileMask k.val }
    exec (.tileFault k b) s = .next (u.latchUnit rdDsp (u.cell.tileMask == 0xFFFF)).maskChanged := by
  have hm' : (s.setTile k { s.tiles.tiles[k] with
      faulted := s.tiles.tiles[k].faulted || !b, busy := false, queue := [] }).cell.tileMask.getLsbD k.val = false := hm
  simp only [exec_tileFault, execTileFault, hb, Bool.false_eq_true, if_false, hk, State.cutRun, hi, List.foldl_nil, hm']

/-- Settles O35: the events of a placement in the order of its life, then the faults of its units. -/
theorem placementEventsComplete : Obligations.PlacementEventsComplete := by
  unfold Obligations.PlacementEventsComplete
  intro s
  refine ⟨fun j hr hp => exec_placementComplete_regrade hr hp, fun j hr hj hp => exec_placementComplete_job hr hj hp,
    fun p j hj hp hs => ?_, fun p hj hp hs => exec_stagingComplete_moved hj hp hs,
    fun j a hj ha hs ht => exec_stagingDeadline_withdraws hj ha hs ht, fun j a hr hj ha hg ht => ?_,
    fun j hr hj hd hg => ⟨fun h hn => ?_, fun h h' hn => ?_⟩, exec_activation_offGrid, fun e m => rfl,
    fun p hm hs => exec_partitionFault_idle hm hs, fun k b hm hk hi hb => ?_, fun k h => ?_⟩
  · exact ⟨exec_stagingComplete_job hj hp hs true, exec_stagingComplete_job hj hp hs false⟩
  · rw [exec_activation_job hr hj hg ((State.jobDue_iff ha).2 ht)]
    refine ⟨fun h => ?_, fun h hw => ?_, fun v h hk hv => ?_⟩
    · rw [if_pos h]
    · have hw' : (if j.kind = .amend then s.tablesBusy s.theCell j.cell else none) = none := by
        split
        · exact hw.resolve_left (not_not_intro ‹_›)
        · rfl
      simp only [h, hw', Bool.false_eq_true, if_false]
    · simp only [h, hk, hv, Bool.false_eq_true, if_false, if_true]
  · rw [← State.activateRegrade_inForce h] at hn ⊢
    exact exec_activation_regrade hr hd hg hn
  · rw [← State.activateRegrade_dropped h h'] at hn ⊢
    exact exec_activation_regrade hr hd hg hn
  · refine exec_tileFault_idle hm hk hi ?_
    cases b
    · rfl
    · simp [hb rfl]
  · have hb : (s.isReady rdDsp || s.sys.inReset) = true := by simpa using h
    simp only [exec_tileFault, execTileFault, hb, Bool.and_self, if_true]

end Sys2Proof.Machine
end

section
/-! SUPPORT. The events of the host interface (R10, R43, R48, R49, R51, R52, R53, R55, R406, R408). -/

namespace Sys2Proof.Machine

/-! ### Delay entries (R279, R280) -/

theorem State.onExpiry_expired {s : State} {f : DelayEntry → Bool} (h : s.expired f = true) (g : State → State) :
    s.onExpiry f g = g (s.entryRun f) := if_pos h

theorem State.onExpiry_waits {s : State} {f : DelayEntry → Bool} (h : s.expired f = false) (g : State → State) :
    s.onExpiry f g = s := if_neg (by simp only [h, Bool.false_eq_true, not_false_eq_true])

@[simp] theorem State.entryRun_host (s : State) (f : DelayEntry → Bool) : (s.entryRun f).host = s.host := rfl
@[simp] theorem State.entryRun_cell (s : State) (f : DelayEntry → Bool) : (s.entryRun f).cell = s.cell := rfl
@[simp] theorem State.entryRun_time (s : State) (f : DelayEntry → Bool) : (s.entryRun f).time = s.time := rfl

/-! ### The commands -/

theorem exec_sqDoorbell (q : Fin 16) (tail : Nat) (mem : List Byte) (s : State) :
    exec (.sqDoorbell q tail mem) s = execSqDoorbell q tail mem s := rfl
theorem exec_cqDoorbell (q : Fin 16) (head : Nat) (s : State) : exec (.cqDoorbell q head) s = execCqDoorbell q head s := rfl
theorem exec_resetQ (q : Fin 16) (s : State) : exec (.resetQ q) s = execResetQ q s := rfl
theorem exec_msixModerationExpiry (q : Fin 16) (s : State) :
    exec (.msixModerationExpiry q) s = execMsixModerationExpiry q s := rfl
theorem exec_udpDatagram (port : Fin 2) (src : Endpoint) (dst : Nat) (data : List Byte) (s : State) :
    exec (.udpDatagram port src dst data) s = execUdpDatagram port src dst data s := rfl
theorem exec_reassemblyTimeout (q : Fin 16) (seq : Word) (s : State) :
    exec (.reassemblyTimeout q seq) s = execReassemblyTimeout q seq s := rfl
theorem exec_packetDeadline (q : Fin 16) (tag : Fin 1024) (s : State) :
    exec (.packetDeadline q tag) s = execPacketDeadline q tag s := rfl
theorem exec_partialImageTimeout (st : Stream) (s : State) :
    exec (.partialImageTimeout st) s = execPartialImageTimeout st s := rfl
theorem exec_replyWrite (q : Fin 16) (s : State) : exec (.replyWrite q) s = execReplyWrite q s := rfl

/-! ### Doorbells and the reset of a queue -/

section Ready
variable {s : State} (h : s.isReady rdQueues = true) (q : Fin 16)
include h

theorem exec_sqDoorbell_ready (tail : Nat) (mem : List Byte) :
    exec (.sqDoorbell q tail mem) s =
      let x := s.host.queues[q]
      .next ((s.setQueue q { x with
        sqTail := tail, sqMem := mem.take ((tail % 2 ^ x.sqLog2 + 2 ^ x.sqLog2 - x.sqHead) % 2 ^ x.sqLog2) }).fetch q) := by
  simp only [exec_sqDoorbell, execSqDoorbell, h, Bool.not_true, Bool.false_eq_true, if_false]

theorem exec_cqDoorbell_ready (head : Nat) :
    exec (.cqDoorbell q head) s = .next ((s.setQueue q { s.host.queues[q] with cqHead := head }).fetch q) := by
  simp only [exec_cqDoorbell, execCqDoorbell, h, Bool.not_true, Bool.false_eq_true, if_false]

theorem exec_resetQ_ready : exec (.resetQ q) s = .next (s.startReset q []) := by
  simp only [exec_resetQ, execResetQ, h, if_true]

end Ready

/-! ### Moderated vectors, reassembly and partial images -/

/-- A moderated vector is raised again once 2 µs have passed and replies have come (R48). -/
theorem exec_msixModerationExpiry_raises {s : State} {q : Fin 16} {t : Nat} (ha : s.host.queues[q].msixAt = some t)
    (ht : t + 2000 ≤ s.time.cellNs) (hc : s.host.queues[q].cqTail ≠ s.host.queues[q].msixTail)
    (he : s.expired (DelayEntry.ofUser 6 q.val) = true) :
    exec (.msixModerationExpiry q) s = .next ((s.entryRun (DelayEntry.ofUser 6 q.val)).raiseMsix q) := by
  rw [exec_msixModerationExpiry, execMsixModerationExpiry, State.onExpiry_expired he]
  simp only [State.entryRun_host, State.entryRun_time, ha, Nat.not_lt.2 ht, hc, if_false]

/-- A partial image is discarded 10 s after its last fragment (R10). -/
theorem exec_partialImageTimeout_discards {s : State} {st : Stream} {i : Partial} (hi : s.cell.partOf st = some i)
    (ht : i.last + 10000000000 ≤ s.time.cellNs) (he : s.expired (DelayEntry.ofUser 8 (streamNo st)) = true) :
    exec (.partialImageTimeout st) s = .next (((s.entryRun (DelayEntry.ofUser 8 (streamNo st))).dropPart st).notice
      .partialImage (streamNo st) i.queue) := by
  rw [exec_partialImageTimeout, execPartialImageTimeout, State.onExpiry_expired he]
  simp only [State.entryRun_cell, State.entryRun_time, hi, ht, if_true]

/-! ### Datagrams (R51 to R54) -/

/-- A datagram of one segment, from the endpoint that an enabled queue is bound to, is handed over whole. -/
theorem exec_udpDatagram_whole {s : State} {q : Fin 16} {port : Fin 2} {src : Endpoint} {data : List Byte}
    (hrq : s.isReady rdQueues = true) (hre : s.isReady rdEth = true) (hport : bitAt s.host.ctrl port.val = true)
    (hip : (if port.val = 0 then s.host.ip0 else s.host.ip1) ≠ 0) (hen : bitAt s.host.queues[q].qcfg 31 = true)
    (hon : s.host.queues[q].onPort port = true) (hrst : s.host.queues[q].resetting = false)
    (hbound : s.host.queues[q].bound = none ∨ s.host.queues[q].bound = some src) (hlen : 8 ≤ data.length)
    (hidx : u16 data 0 = 0) (hcount : u16 data 2 = 1) (hseg : data.length - 8 ≤ s.host.segLen)
    (hasm : s.host.assembling = []) :
    exec (.udpDatagram port src (fld s.host.ctrl 31 16 + q.val) data) s =
      .next (s.udpPacket q port src (data.drop 8)) := by
  have hq : f16 (fld s.host.ctrl 31 16 + q.val - fld s.host.ctrl 31 16) = q := by
    rw [Nat.add_sub_cancel_left]
    exact Fin.ext (Nat.mod_eq_of_lt q.isLt)
  have hlo : ¬ fld s.host.ctrl 31 16 + q.val < fld s.host.ctrl 31 16 := by omega
  have hhi : ¬ fld s.host.ctrl 31 16 + 15 < fld s.host.ctrl 31 16 + q.val := by omega
  have hsame : s.setHost { s.host with assembling := [] } = s := by
    rw [← hasm]
    rfl
  rw [exec_udpDatagram, execUdpDatagram]
  simp only [hrq, hre, hport, beq_eq_false_iff_ne.2 hip, hlo, hhi, decide_false, Bool.not_true, Bool.or_self,
    Bool.false_eq_true, if_false, hq, hen, hon, hrst, hcount, hidx, List.length_drop, Nat.not_lt.2 hlen,
    Nat.not_lt.2 hseg, hasm, List.filter_nil, List.find?_nil, Option.getD_none]
  rcases hbound with hb | hb
  all_goals
    simp only [hb]
    simp [putSeg, congrArg (State.udpPacket · q port src (data.drop 8)) hsame]

/-! ### Packet deadlines (R43, R56) -/

section Deadline
variable {s : State} {q : Fin 16} {tag : Fin 1024} {p : Pkt}

/-- The delay entry of the deadline of a packet. -/
abbrev deadlineEntry (q : Fin 16) (tag : Fin 1024) : DelayEntry → Bool := fun e => e.ofUser 3 q.val && e.b == tag.val

variable (hp : s.host.queues[q].find tag = some p) (ha : p.phase = .accepted) (hl : p.late s.time.cellNs = true)
  (he : s.expired (deadlineEntry q tag) = true)
include hp ha hl he

/-- A packet that has not started by its deadline is judged by its row. -/
theorem exec_packetDeadline_judges {t : State}
    (hr : rowOf p.opcode q tag (((s.entryRun (deadlineEntry q tag)).setQueue q
      (s.entryRun (deadlineEntry q tag)).host.queues[q].unfenced).setDisp
        ((s.entryRun (deadlineEntry q tag)).disp.trying p)) = .next t) :
    exec (.packetDeadline q tag) s =
      let u := s.entryRun (deadlineEntry q tag)
      if (t.host.queues[q].find tag).isSome then .next (u.finish p ⟨stDeadline, 0, 0⟩)
      else .next ((t.setQueue q { t.host.queues[q] with inflight := (u.host.queues[q].remove tag).inflight }).setDisp
        { t.disp with workers := u.disp.workers }) := by
  rw [exec_packetDeadline, execPacketDeadline]
  simp only [State.entryRun_host] at hr
  simp only [he, Bool.not_true, Bool.false_eq_true, if_false, State.entryRun_host, State.entryRun_time, hp, ha, hl,
    decide_true, Bool.and_self, if_true, hr]

end Deadline

/-! ### Writing replies (R36, R406) -/

theorem exec_replyWrite_plain {s : State} {q : Fin 16} (h : (s.writeReply q).sys.restartAfter = none) :
    exec (.replyWrite q) s = .next (s.writeReply q) := by
  simp only [exec_replyWrite, execReplyWrite, h]

/-- The reply of an FW_ACTIVATE that restarts is followed by a main-die reset. -/
theorem exec_replyWrite_restarts {s : State} {q : Fin 16} {tag : Nat}
    (h : (s.writeReply q).sys.restartAfter = some (q.val, tag)) (hf : (s.writeReply q).inFlight q.val tag = false)
    (hw : ((s.writeReply q).host.queues[q].replies.any (fun r => r.pkt.tag == tag)) = false) :
    exec (.replyWrite q) s = .next ((s.writeReply q).holdReset 3 true) := by
  simp only [exec_replyWrite, execReplyWrite, h, hf, hw, decide_true, Bool.not_false, Bool.and_self, if_true]

/-- Settles O32: one lemma for each event, in the order of the statement. -/
theorem hostEventsComplete : Obligations.HostEventsComplete := by
  unfold Obligations.HostEventsComplete
  intro s q
  refine ⟨fun tail mem h => exec_sqDoorbell_ready h q tail mem, fun head h => exec_cqDoorbell_ready h q head,
    fun h => exec_resetQ_ready h q, fun t ha ht hc he => exec_msixModerationExpiry_raises ha ht hc he,
    fun he => congrArg _ (State.onExpiry_waits he _), ?_,
    fun seq => ⟨fun he => congrArg _ (State.onExpiry_expired he _), fun he => congrArg _ (State.onExpiry_waits he _)⟩,
    fun tag p hp ha hl he t hr => ?_, fun st i hi ht he => exec_partialImageTimeout_discards hi ht he,
    exec_replyWrite_plain, fun tag h hf hw => exec_replyWrite_restarts h hf hw⟩
  · intro port src dst data hrq hre hport hip hdst hen hon hrst hbound hlen hidx hcount hseg hasm
    rw [hdst]
    exact exec_udpDatagram_whole hrq hre hport hip hen hon hrst hbound hlen hidx hcount hseg hasm
  · rw [exec_packetDeadline_judges hp ha hl he hr]
    exact ⟨fun h => if_pos (Option.isSome_iff_ne_none.2 h),
      fun h => if_neg (Option.isSome_iff_ne_none.not.2 (not_not_intro h))⟩

end Sys2Proof.Machine
end

section
/-! SUPPORT. What completing a packet and opening the presence window do to the queues (R37, R39, R55, R58 to R61, R88). -/

namespace Sys2Proof.Machine

/-! ### Replies (R36, R88) -/

theorem State.setQueue_queue_same (s : State) (q : Fin 16) (x : QueueSt) : (s.setQueue q x).host.queues[q] = x := by
  simp

/-- The log record of a completion with INTERNAL (R88). -/
abbrev State.logInternal (s : State) (p : Pkt) (v : Verdict) : State :=
  if v.status = stInternal then s.logRec 0x0F (s.openWord p 0).toNat p.queue p.tag else s

theorem State.logInternal_queues (s : State) (p : Pkt) (v : Verdict) :
    (s.logInternal p v).host.queues = s.host.queues := by
  unfold State.logInternal
  split <;> rfl

/-- On a queue under reset the reply is discarded, and only an INTERNAL completion leaves a trace (R55, R88). -/
theorem State.reply_discarded {s : State} {p : Pkt} (ho : p.origin ≠ .partner)
    (hr : s.host.queues[f16 p.queue].resetting = true) (v : Verdict) (b : List Byte) :
    s.reply p v b = s.logInternal p v := by
  simp only [State.reply, ho, hr, if_false, if_true]

/-- What the final reply of a packet says (R36, R88): its status, the result words that the spec gives, and its payload. -/
structure Reply.Answers (r : Reply) (p : Pkt) (v : Verdict) (b : List Byte) : Prop where
  pkt : r.pkt = p
  status : r.status = v.status
  interim : r.interim = false
  dup : r.dup = false
  w0 : p.givesW0 v = true → r.w0 = v.w0
  w1 : p.givesW1 v = true → r.w1 = v.w1
  payload : r.payload = b
  waiters : r.waiters = []

/-- On a queue that is not under reset one final reply more waits, and no other queue changes. -/
theorem State.reply_queues {s : State} {p : Pkt} (ho : p.origin ≠ .partner)
    (hr : s.host.queues[f16 p.queue].resetting = false) (v : Verdict) (b : List Byte) :
    ∃ r : Reply, r.Answers p v b ∧ (s.reply p v b).host.queues = s.host.queues.set (f16 p.queue)
      { s.host.queues[f16 p.queue] with replies := s.host.queues[f16 p.queue].replies ++ [r] } := by
  have hq := s.logInternal_queues p v
  simp only [State.reply, ho, hr, if_false, Bool.false_eq_true]
  split <;>
    (simp only [State.setQueue_host, State.setDisp_host, hq]
     exact ⟨_, ⟨rfl, rfl, rfl, rfl, fun h => if_pos h, fun h => if_pos h, rfl, rfl⟩, rfl⟩)

/-! ### Completion (R37, R39, R55) -/

theorem State.dropTag_queue (s : State) (q : Fin 16) (tag : Nat) :
    (s.dropTag q tag).host.queues[q] = s.host.queues[q].remove tag :=
  s.setQueue_queue_same _ _

/-- While other packets of a queue under reset are in flight, completing one of them only takes its tag. -/
theorem State.finish_under_reset {s : State} {p o : Pkt} (ho : p.origin ≠ .partner)
    (hr : s.host.queues[f16 p.queue].resetting = true) (hmem : o ∈ s.host.queues[f16 p.queue].inflight)
    (htag : o.tag ≠ p.tag) (v : Verdict) (b : List Byte) :
    s.finish p v b = (s.dropTag (f16 p.queue) p.tag).logInternal p v := by
  have hq : (s.dropTag (f16 p.queue) p.tag).host.queues[f16 p.queue] = s.host.queues[f16 p.queue].remove p.tag :=
    s.dropTag_queue _ _
  have hbusy : (s.host.queues[f16 p.queue].remove p.tag).inflight.isEmpty = false := by
    have hstays : o ∈ (s.host.queues[f16 p.queue].remove p.tag).inflight := List.mem_filter.2 ⟨hmem, by simp [htag]⟩
    simpa using List.ne_nil_of_mem hstays
  have hr' : (s.dropTag (f16 p.queue) p.tag).host.queues[f16 p.queue].resetting = true := by rw [hq]; exact hr
  unfold State.finish State.finishN
  simp only [State.reply_discarded ho hr', ho, if_false, State.logInternal_queues, hq, hbusy, Bool.and_false,
    Bool.false_eq_true]

/-- Settles O57: the reply rule of a queue that is not under reset, and the rule of one that is. -/
theorem completionAddsOneReply : Obligations.CompletionAddsOneReply := by
  unfold Obligations.CompletionAddsOneReply
  intro s p v b ho
  refine ⟨fun hr => ?_, fun hr ⟨o, hmem, htag⟩ => State.finish_under_reset ho hr hmem htag v b⟩
  have hq : (s.dropTag (f16 p.queue) p.tag).host.queues[f16 p.queue] = s.host.queues[f16 p.queue].remove p.tag :=
    s.dropTag_queue _ _
  obtain ⟨r, hans, hset⟩ := State.reply_queues (s := s.dropTag (f16 p.queue) p.tag) ho (by rw [hq]; exact hr) v b
  simp only [State.finish_plain s p v b ho hr, hset, hq]
  refine ⟨?_, ⟨r, ?_, hans.pkt, hans.status, hans.interim, hans.dup, hans.w0, hans.w1, hans.payload, hans.waiters⟩,
    fun k hk => ?_⟩
  · simp [QueueSt.remove]
  · simp [QueueSt.remove]
  · have hne : (f16 p.queue).val ≠ k.val := fun e => hk (Fin.ext e.symm)
    simp [State.dropTag, hne]

/-! ### The presence window opens (R58 to R61, R412) -/

/-- The code that a window takes for a free number, other than the previous one (R59). -/
def pendingCode (last : Option Nat) (n : Nat) : Nat :=
  match last with
  | some c => if n % 9999 < c then n % 9999 else n % 9999 + 1
  | none => n % 10000

theorem pendingCode_le (last : Option Nat) (n : Nat) : pendingCode last n ≤ 9999 := by
  cases last with
  | none => simp only [pendingCode]; omega
  | some c => simp only [pendingCode]; split <;> omega

theorem pendingCode_ne (last : Option Nat) (n : Nat) : last ≠ some (pendingCode last n) := by
  cases last with
  | none => exact nofun
  | some c =>
    simp only [pendingCode, ne_eq, Option.some.injEq]
    split <;> omega

/-- Withdrawing an announced swap changes the twin and what is sent to the partner (R378). -/
theorem State.withdrawSwap_twin (s : State) : ∃ w l, s.withdrawSwap = (s.setTwin w).setOut l := by
  unfold State.withdrawSwap
  split
  · exact ⟨s.twin, s.out, rfl⟩
  · dsimp only
    split
    · exact ⟨_, _, rfl⟩
    · exact ⟨{ s.twin with swapTick := none, swapAgain := true }, s.out, rfl⟩

theorem State.withdrawSwap_host (s : State) : s.withdrawSwap.host = s.host := by
  obtain ⟨w, l, h⟩ := s.withdrawSwap_twin
  rw [h]
  rfl

theorem State.withdrawSwap_time (s : State) : s.withdrawSwap.time = s.time := by
  obtain ⟨w, l, h⟩ := s.withdrawSwap_twin
  rw [h]
  rfl

/-- The window of a packet with a code opens in a state (R59). -/
def State.openWindow (s : State) (p : Pkt) (code : Nat) : State :=
  let t := s.setHost { s.host with presence := some ⟨p.queue, p.tag, p.opcode, code, s.time.cellNs⟩, lastCode := some code }
  t.setQueue (f16 p.queue) (t.host.queues[f16 p.queue].setPhase p.tag .pending)

/-- Outside supply caution and with no command pending, a gated command opens its window (R59 to R61). -/
theorem State.toPending_opens {s : State} (hc : s.sys.caution = false) (hp : s.host.presence = none) (p : Pkt)
    {code : Nat} (hcode : pendingCode s.host.lastCode (Config.freeNat s.withdrawSwap.free) = code) :
    s.toPending p =
      ((s.withdrawSwap.nextFree.openWindow p code).interim p code).showPanel (panelBytes code 0x3F) none := by
  subst hcode
  unfold State.toPending
  simp only [hc, hp, Option.isSome_none, Bool.false_eq_true, if_false, State.withdrawSwap_host]
  rfl

/-- The panel message is written and nothing else of the host interface changes. -/
theorem State.showPanel_host (s : State) (bs : List Byte) (a : Option Nat) :
    (s.showPanel bs a).host = { s.host with panel := bs, panelAt := a } := by
  unfold State.showPanel
  split <;> rfl

/-- The interim reply changes the host interface in its queue alone. -/
theorem State.interim_host (s : State) (p : Pkt) (code : Nat) :
    ∃ qs, (s.interim p code).host = { s.host with queues := qs } := by
  unfold State.interim
  dsimp only
  split
  · exact ⟨s.host.queues, rfl⟩
  · exact ⟨_, rfl⟩

/-- The interim reply of a packet of the host on a queue that is not under reset (R60). -/
theorem State.interim_replies {s : State} {p : Pkt} (ho : p.origin ≠ .partner)
    (hr : s.host.queues[f16 p.queue].resetting = false) (code : Nat) :
    ∃ r : Reply, (s.interim p code).host.queues[f16 p.queue].replies = s.host.queues[f16 p.queue].replies ++ [r] ∧
      r.pkt = p ∧ r.status = stPending ∧ r.interim = true ∧ r.w0 = w32 code := by
  refine ⟨⟨p, stPending, true, false, false, w32 code, s.openWord p 1, [], true, [], none⟩, ?_, rfl, rfl, rfl, rfl⟩
  simp only [State.interim, hr, ho, decide_false, Bool.or_self, Bool.false_eq_true, if_false, State.setQueue_queue_same]

theorem State.openWindow_queue (s : State) (p : Pkt) (code : Nat) :
    (s.openWindow p code).host.queues[f16 p.queue] = s.host.queues[f16 p.queue].setPhase p.tag .pending :=
  State.setQueue_queue_same _ _ _

/-- Settles O58: supply caution first, then another pending command, and else the window opens. -/
theorem presenceWindowOpens : Obligations.PresenceWindowOpens := by
  unfold Obligations.PresenceWindowOpens
  intro s p ho
  refine ⟨fun hc => ?_, fun hc hp => ?_, fun hc hp => ?_⟩
  · simp only [State.toPending, hc, if_true]
  · simp only [State.toPending, hc, Option.isSome_iff_ne_none.2 hp, Bool.false_eq_true, if_false, if_true]
  · obtain ⟨code, hcode⟩ : ∃ code, pendingCode s.host.lastCode (Config.freeNat s.withdrawSwap.free) = code := ⟨_, rfl⟩
    have hhost := congrArg State.host (State.toPending_opens hc hp p hcode)
    rw [State.showPanel_host] at hhost
    obtain ⟨qs, hqs⟩ := (s.withdrawSwap.nextFree.openWindow p code).interim_host p code
    refine ⟨code, hcode ▸ pendingCode_le _ _, hcode ▸ pendingCode_ne _ _, ?_, ?_, ?_, fun hr => ?_⟩
    · rw [hhost, hqs, ← s.withdrawSwap_time]
      rfl
    · rw [hhost, hqs]
      rfl
    · rw [hhost]
      rfl
    · have hq := s.withdrawSwap.nextFree.openWindow_queue p code
      simp only [State.nextFree_host, State.withdrawSwap_host] at hq
      obtain ⟨r, happ, hsays⟩ := State.interim_replies ho (s := s.withdrawSwap.nextFree.openWindow p code)
        (by rw [hq]; exact hr) code
      rw [hhost]
      refine ⟨r, happ.trans ?_, hsays⟩
      rw [hq]
      rfl

end Sys2Proof.Machine
end

section
/-! SUPPORT. The rows of the command reference start their packet and go on with their effect (R35, R41, R43, R56, R65, R74). -/

namespace Sys2Proof.Machine

/-- A packet that may start, in time or refused by its checks, has its effect. -/
theorem State.startPkt_runs {s : State} {q : Fin 16} {tag : Fin 1024} {op : Nat} {p : Pkt}
    (h : s.candidatePkt q tag op = some p) (f : Pkt → State → State)
    (hr : p.late s.time.cellNs = false ∨ (f p.begun (s.begun q p)).refused q p = true) :
    s.startPkt q tag op f = s.passOn q p (f p.begun (s.begun q p)) := by
  unfold State.startPkt
  rw [h]
  rcases hr with hr | hr <;>
    simp only [hr, Bool.false_and, Bool.not_true, Bool.and_false, Bool.false_eq_true, if_false]

/-- A packet waits behind earlier ones: a SEG_PUSH of its chain (R74), an EVT_ARM of its subscription (R65). -/
abbrev State.waitsInFlow (s : State) (op : Nat) (p : Pkt) : Prop :=
  (op = 0x20 ∧ s.segPushFirst p = false) ∨ (op = 0x61 ∧ s.evtArmFirst p = false)

/-- A row does nothing where no packet may start or the packet waits, and otherwise starts it with an effect. -/
structure RowStarts (c : Instr) (q : Fin 16) (tag : Fin 1024) (op : Nat) (f : Pkt → State → State) : Prop where
  idle : ∀ s : State, s.candidatePkt q tag op = none → exec c s = .next s
  waits : ∀ (s : State) (p : Pkt), s.candidatePkt q tag op = some p → s.waitsInFlow op p → exec c s = .next s
  starts : ∀ (s : State) (p : Pkt), s.candidatePkt q tag op = some p → ¬ s.waitsInFlow op p →
    exec c s = .next (s.startPkt q tag op f)

section Row
variable {c : Instr} {q : Fin 16} {tag : Fin 1024} {op : Nat} {f : Pkt → State → State}

/-- A row whose packets wait for no others. -/
theorem rowStarts_of (hop : op ≠ 0x20 ∧ op ≠ 0x61) (he : ∀ s : State, exec c s = .next (s.startPkt q tag op f)) :
    RowStarts c q tag op f where
  idle s h := by rw [he, State.startPkt_none h]
  waits _ _ _ hw := by
    rcases hw with ⟨h, -⟩ | ⟨h, -⟩
    · exact absurd h hop.1
    · exact absurd h hop.2
  starts s _ _ _ := he s

/-- A row whose packet must be the first of its flow. -/
theorem rowStarts_of_first {isFirst : State → Pkt → Bool}
    (hw : ∀ s p, State.waitsInFlow s op p ↔ isFirst s p = false)
    (he : ∀ s : State, exec c s = match s.candidatePkt q tag op with
      | none => .next s
      | some p => if !isFirst s p then .next s else .next (s.startPkt q tag op f)) : RowStarts c q tag op f where
  idle s h := by simp only [he, h]
  waits s p h hp := by simp only [he, h, (hw s p).1 hp, Bool.not_false, if_true]
  starts s p h hp := by
    have hfirst : isFirst s p = true := by simpa using mt (hw s p).2 hp
    simp only [he, h, hfirst, Bool.not_true, Bool.false_eq_true, if_false]

end Row

/-- Every packet row starts its packet; SEG_PUSH and EVT_ARM alone wait in a flow. -/
theorem exists_rowStarts {c : Instr} {q : Fin 16} {tag : Fin 1024} {op : Nat} (h : packetOf c = some (q, tag, op)) :
    ∃ f, RowStarts c q tag op f := by
  cases c <;> cases h
  case segPush =>
    exact ⟨_, rowStarts_of_first (isFirst := State.segPushFirst) (fun _ _ => by simp [State.waitsInFlow]) fun _ => rfl⟩
  case evtArm =>
    exact ⟨_, rowStarts_of_first (isFirst := State.evtArmFirst) (fun _ _ => by simp [State.waitsInFlow]) fun _ => rfl⟩
  all_goals exact ⟨_, rowStarts_of (by decide) fun _ => rfl⟩

/-- Settles O59: each row starts its packet, and starting one is late, or refused by its checks, or its effect. -/
theorem packetsThatMayNotStart : Obligations.PacketsThatMayNotStart := by
  unfold Obligations.PacketsThatMayNotStart
  intro c q tag op hc
  obtain ⟨f, hrow⟩ := exists_rowStarts hc
  refine ⟨f, fun s => ⟨hrow.idle s, hrow.waits s, fun p hp hw => ⟨fun hl hr => ?_, fun hr => ?_⟩⟩⟩
  · rw [hrow.starts s p hp hw, State.startPkt_late hp hl f hr]
  · rw [hrow.starts s p hp hw, State.startPkt_runs hp f hr]

end Sys2Proof.Machine
end

section
/-! SUPPORT. The event commands and the commands that wait for presence (R58, R65, R66, R79, R81, R86, R313, R403, R406). -/

namespace Sys2Proof.Machine

/-! ### EVT_SUBSCRIBE, EVT_ARM, EVT_CANCEL -/

/-- A number or a count from 1 to its limit passes the check of its bounds (R79, R81). -/
theorem not_badNumber {n m : Nat} (h1 : 1 ≤ n) (hm : n ≤ m) : ¬ (n = 0 ∨ m < n) := by omega

/-- What EVT_ARM does with its started packet (R65, R79). -/
def armEffect (p : Pkt) (t : State) : State :=
  if p.queue ≠ 15 then t.finish p (badAt 0)
  else if 15 < p.p0.toNat ∨ t.host.subs[f16 p.p0.toNat].present = false then t.finish p (badAt atP0)
  else if p.p1.toNat < 1024 ∨ 262144 < p.p1.toNat then t.finish p (badAt atP1)
  else t.deliverSub (f16 p.p0.toNat)

section Arm
variable {p : Pkt} {t : State}

theorem armEffect_otherQueue (hq : p.queue ≠ 15) : armEffect p t = t.finish p (badAt 0) := if_pos hq

variable (hq : p.queue = 15)
include hq

theorem armEffect_noSub (h : 15 < p.p0.toNat ∨ t.host.subs[f16 p.p0.toNat].present = false) :
    armEffect p t = t.finish p (badAt atP0) :=
  (if_neg (not_not_intro hq)).trans (if_pos h)

variable (h15 : p.p0.toNat ≤ 15) (hsub : t.host.subs[f16 p.p0.toNat].present = true)
include h15 hsub

theorem armEffect_badSize (h : p.p1.toNat < 1024 ∨ 262144 < p.p1.toNat) : armEffect p t = t.finish p (badAt atP1) := by
  simp only [armEffect, hq, ne_eq, not_true_eq_false, Nat.not_lt.2 h15, hsub, or_self, Bool.true_eq_false, if_false, h, if_true]

theorem armEffect_arms (hlo : 1024 ≤ p.p1.toNat) (hhi : p.p1.toNat ≤ 262144) :
    armEffect p t = t.deliverSub (f16 p.p0.toNat) := by
  simp only [armEffect, hq, ne_eq, not_true_eq_false, Nat.not_lt.2 h15, hsub, or_self, Bool.true_eq_false, if_false,
    Nat.not_lt.2 hlo, Nat.not_lt.2 hhi]

end Arm

/-- EVT_ARM that begins, and is the first of its subscription to start, has its effect (R65). -/
theorem exec_evtArm_begins {q : Fin 16} {tag : Fin 1024} {s : State} {p : Pkt} (hb : s.Begins q tag 0x61 p)
    (hfirst : s.evtArmFirst p = true) {u : State} (hu : armEffect p.begun (s.begun q p) = u) :
    exec (.evtArm q tag) s = .next (s.passOn q p u) := by
  rw [← hu, ← State.startPkt_begins hb]
  change execEvtArm q tag s = _
  unfold execEvtArm
  rw [hb.1]
  simp only [hfirst, Bool.not_true, Bool.false_eq_true, if_false]
  rfl

/-- Settles O22: each clause fixes the checks of its row up to the one that decides. -/
theorem eventCommandsComplete : Obligations.EventCommandsComplete := by
  unfold Obligations.EventCommandsComplete
  refine ⟨completes_of (fun _ _ _ => rfl) fun p t ⟨h1, h15, hok, hnew⟩ => ?_,
    completes_of (fun _ _ _ => rfl) fun p t h => if_pos h,
    fun o => completes_of (fun _ _ _ => rfl) fun p t ⟨h1, h15, hbad⟩ => ?_,
    completes_of (fun _ _ _ => rfl) fun p t ⟨h1, h15, hok, hold⟩ => ?_,
    fun q tag s p hb hfirst => ?_,
    completes_of (fun _ _ _ => rfl) fun p t ⟨h1, h15, hsub⟩ => if_neg ?_,
    completes_of (fun _ _ _ => rfl) fun p t h => if_pos h⟩
  · simp only [not_badNumber h1 h15, hok, hnew, Bool.false_eq_true, if_false]
  · simp only [not_badNumber h1 h15, hbad, if_false]
  · simp only [not_badNumber h1 h15, hok, hold, if_false, if_true]
  · exact ⟨fun hq h15 hsub hlo hhi => exec_evtArm_begins hb hfirst (armEffect_arms hq h15 hsub hlo hhi),
      fun hq => exec_evtArm_begins hb hfirst (armEffect_otherQueue hq),
      fun hq h => exec_evtArm_begins hb hfirst (armEffect_noSub hq h),
      fun hq h15 hsub h => exec_evtArm_begins hb hfirst (armEffect_badSize hq h15 hsub h)⟩
  · simp only [hsub, Bool.true_eq_false, or_false]
    exact not_badNumber h1 h15

/-! ### SAFE_PARAM_SET and SAFE_POINT_ASSIGN -/

/-- A list of `m` records at most is judged by its count, its length and `bad`, and then waits for presence (R58, R81). -/
def gateRecords (m : Nat) (bad : State → List Byte → Nat → Option Verdict) (p : Pkt) (t : State) : State :=
  if p.p0.toNat = 0 ∨ m < p.p0.toNat then t.finish p (badAt atP0)
  else if p.payload.length ≠ 8 * p.p0.toNat then t.finish p (badAt 0)
  else match bad t p.payload p.p0.toNat with
    | some v => t.finish p v
    | none => t.toGate p

/-- A row that judges its records so completes as its checks say, in their order. -/
theorem gateRecords_completes {c : Fin 16 → Fin 1024 → Instr} {op m : Nat}
    {bad : State → List Byte → Nat → Option Verdict}
    (he : ∀ q tag s, exec (c q tag) s = .next (s.startPkt q tag op (gateRecords m bad))) :
    Completes c op (fun p _ => p.p0.toNat = 0 ∨ m < p.p0.toNat) (fun p t => t.finish p (badAt atP0)) ∧
    Completes c op (fun p _ => 1 ≤ p.p0.toNat ∧ p.p0.toNat ≤ m ∧ p.payload.length ≠ 8 * p.p0.toNat)
      (fun p t => t.finish p (badAt 0)) ∧
    (∀ v, Completes c op (fun p t => 1 ≤ p.p0.toNat ∧ p.p0.toNat ≤ m ∧ p.payload.length = 8 * p.p0.toNat ∧
      bad t p.payload p.p0.toNat = some v) (fun p t => t.finish p v)) ∧
    Completes c op (fun p t => 1 ≤ p.p0.toNat ∧ p.p0.toNat ≤ m ∧ p.payload.length = 8 * p.p0.toNat ∧
      bad t p.payload p.p0.toNat = none) (fun p t => t.toGate p) := by
  refine ⟨completes_of he fun p t h => if_pos h, completes_of he fun p t ⟨h1, hm, hlen⟩ => ?_,
    fun v => completes_of he fun p t ⟨h1, hm, hlen, hbad⟩ => ?_, completes_of he fun p t ⟨h1, hm, hlen, hok⟩ => ?_⟩
  · exact (if_neg (not_badNumber h1 hm)).trans (if_pos hlen)
  · simp only [gateRecords, not_badNumber h1 hm, hlen, hbad, ne_eq, not_true_eq_false, if_false]
  · simp only [gateRecords, not_badNumber h1 hm, hlen, hok, ne_eq, not_true_eq_false, if_false]

/-- Settles O24: both rows judge count, length and records in this order, and what passes goes to the gate. -/
theorem gatedSafetyCommandsCheckFirst : Obligations.GatedSafetyCommandsCheckFirst := by
  unfold Obligations.GatedSafetyCommandsCheckFirst
  obtain ⟨hcount, hlen, hbad, hok⟩ := gateRecords_completes (c := Instr.safeParamSet) (op := 0x70) (m := 512)
    (bad := State.safeRecsBad) fun _ _ _ => rfl
  exact ⟨hcount, hlen, hbad, hok, gateRecords_completes (bad := State.assignRecsBad) fun _ _ _ => rfl⟩

/-! ### FW_VERIFY, FW_ACTIVATE, OTP_PROGRAM -/

/-- Settles O30: each clause fixes the firmware's state, or the checks of the OTP records, and so the path through its row. -/
theorem firmwareCommandsComplete : Obligations.FirmwareCommandsComplete := by
  unfold Obligations.FirmwareCommandsComplete
  refine ⟨fun im => completes_of (fun _ _ _ => rfl) fun p t ⟨him, hidle, hvalid⟩ => ?_,
    fun im => completes_of (fun _ _ _ => rfl) fun p t ⟨him, hidle, hvalid⟩ => ?_,
    completes_of (fun _ _ _ => rfl) fun p t hnone => ?_,
    completes_of (fun _ _ _ => rfl) fun p t ⟨hsome, hburn⟩ => ?_,
    completes_of (fun _ _ _ => rfl) fun p t ⟨hver, hsome, hidle, hcell⟩ => ?_,
    completes_of (fun _ _ _ => rfl) fun p t h => if_pos (by simpa using h),
    completes_of (fun _ _ _ => rfl) fun p t ⟨hver, hsome, h⟩ => ?_,
    completes_of (fun _ _ _ => rfl) fun p t ⟨hlen, hok⟩ => ?_,
    completes_of (fun _ _ _ => rfl) fun p t hlen => if_pos hlen,
    fun v => completes_of (fun _ _ _ => rfl) fun p t ⟨hlen, hbad⟩ => ?_⟩
  · simp only [him, hidle, hvalid, Option.isSome_none, Bool.false_eq_true, if_false, if_true]
  · simp only [him, hidle, hvalid, Option.isSome_none, Bool.false_eq_true, if_false]
  · simp only [hnone]
  · obtain ⟨im, him⟩ := Option.ne_none_iff_exists'.1 hsome
    simp only [him, Option.isSome_iff_ne_none.2 hburn, if_true]
  · simp only [hver, Option.isNone_eq_false_iff.2 (Option.isSome_iff_ne_none.2 hsome), hidle, hcell, Option.isSome_none, Bool.not_true,
      Bool.or_self, Bool.false_eq_true, if_false]
  · refine (if_neg ?_).trans (if_pos ?_)
    · simp [hver, hsome]
    · rcases h with h | h
      · simp [Option.isSome_iff_ne_none.2 h]
      · simp only [h, Bool.or_true]
  · simp only [hlen, hok, ne_eq, not_true_eq_false, if_false]
  · simp only [hlen, hbad, ne_eq, not_true_eq_false, if_false]

end Sys2Proof.Machine
end

section
/-! SUPPORT. Writes and reads of the pages from outside the packets (R47, R408, R419, R433, R437 to R440). -/

namespace Sys2Proof.Machine

theorem exec_bar0MirrorWrite (w : Fin 256) (v : Word) (s : State) :
    exec (.bar0MirrorWrite w v) s = execBar0MirrorWrite w v s := rfl
theorem exec_debugSpiTransaction (req : List Byte) (keys : Bool) (s : State) :
    exec (.debugSpiTransaction req keys) s = execDebugSpiTransaction req keys s := rfl

/-- A debug request with all its bytes, outside SYS_PORST_N, is answered as its checks say (R437). -/
theorem exec_debugSpi_answers {s : State} {req : List Byte} (hpor : s.sys.porstLow = false) (hlen : 5 ≤ req.length)
    (hwrite : byteAt req 0 = 0x02 → 9 + 4 * (byteAt req 4 + 1) ≤ req.length) (keys : Bool) :
    exec (.debugSpiTransaction req keys) s = .next (match s.spiCheck req keys with
      | some st => s.emit (.spi (spiAnswer st []))
      | none =>
        if byteAt req 0 = 0x0B then
          (s.readSides (u16 req 1) (byteAt req 3) (byteAt req 4 + 1)).emit (.spi (spiAnswer stOk
            (s.readWords (u16 req 1) (byteAt req 3) (byteAt req 4 + 1))))
        else
          let ws := wordsFrom (byteAt req 3) (wordsAt req 5 (byteAt req 4 + 1))
          ((s.writeWords (u16 req 1) ws).writeResets (u16 req 1) ws none).emit (.spi (spiAnswer stOk []))) := by
  have hwhole : (byteAt req 0 == 0x02 && decide (req.length < 9 + 4 * (byteAt req 4 + 1))) = false := by
    simpa using hwrite
  rw [exec_debugSpiTransaction, execDebugSpiTransaction]
  simp only [hpor, Nat.not_lt.2 hlen, hwhole, decide_false, Bool.or_self, Bool.false_eq_true, if_false]
  cases s.spiCheck req keys with
  | some st => rfl
  | none => exact (apply_ite Host.Outcome.next _ _ _).symm

/-- Settles O33: the two mirrors, then the debug port by the outcome of its checks. -/
theorem pageEventsComplete : Obligations.PageEventsComplete := by
  unfold Obligations.PageEventsComplete
  intro s
  refine ⟨fun w v hr hok => ?_, fun w v hr => ?_, fun w v => rfl, fun req keys hpor hlen hwrite => ?_⟩
  · simp only [exec_bar0MirrorWrite, execBar0MirrorWrite, hr, hok, Bool.not_true, Bool.false_eq_true, if_false]
  · simp only [exec_bar0MirrorWrite, execBar0MirrorWrite, hr, Bool.not_false, if_true]
  · rw [exec_debugSpi_answers hpor hlen hwrite keys]
    refine ⟨fun st hst => by rw [hst], fun hok hread => ?_, fun hok hread => ?_⟩
    · rw [hok]
      exact congrArg _ (if_pos hread)
    · rw [hok]
      exact congrArg _ (if_neg hread)

end Sys2Proof.Machine
end

section
/-! SUPPORT. How the presence window ends (R61 to R64, R412). -/

namespace Sys2Proof.Machine

/-! ### The commands -/

theorem exec_acceptNRelease (b : Press) (s : State) : exec (.acceptNRelease b) s = execAcceptNRelease b s := rfl
theorem exec_presenceDenied (x h : Bool) (d l : Nat) (s : State) :
    exec (.presenceDenied x d l h) s = execPresenceDenied x d l h s := rfl
theorem exec_presenceTimeout (s : State) : exec .presenceTimeout s = execPresenceTimeout s := rfl
theorem exec_panelClear (s : State) : exec .panelClear s = execPanelClear s := rfl

section Window
variable {s : State} {w : Presence} (hw : s.host.presence = some w)
include hw

/-! ### After the window has run out (R64) -/

theorem State.gateOver_true (h : w.opened + 60000000000 < s.time.cellNs) : s.gateOver = true := by
  simp only [State.gateOver, hw, h, decide_true]

theorem State.gateOver_false (h : s.time.cellNs ≤ w.opened + 60000000000) : s.gateOver = false := by
  simp only [State.gateOver, hw, Nat.not_lt.2 h, decide_false]

theorem exec_acceptNRelease_over (h : s.gateOver = true) (b : Press) :
    exec (.acceptNRelease b) s = .next (s.denyGate 0x54 stPresTimeout 0) := by
  simp only [exec_acceptNRelease, execAcceptNRelease, hw, State.expireGate, h, if_true]

theorem exec_presenceDenied_over (h : s.gateOver = true) (x y : Bool) (d l : Nat) :
    exec (.presenceDenied x d l y) s = .next (s.denyGate 0x54 stPresTimeout 0) := by
  simp only [exec_presenceDenied, execPresenceDenied, hw, State.expireGate, h, if_true]

/-- At its delay entry the window times out, 60 s after it opened (R64, R280). -/
theorem exec_presenceTimeout_ends (h : w.opened + 60000000000 ≤ s.time.cellNs)
    (he : s.expired (fun e => e.user == 0) = true) :
    exec .presenceTimeout s = .next ((s.entryRun (fun e => e.user == 0)).denyGate 0x54 stPresTimeout 0) := by
  rw [exec_presenceTimeout, execPresenceTimeout, State.onExpiry_expired he]
  simp only [State.entryRun_host, State.entryRun_time, hw, Nat.not_lt.2 h, if_false]

/-! ### While it is open -/

/-- A press that began inside the window and is at least 50 ms long is judged at its release (R62, R63, R412). -/
theorem exec_acceptNRelease_judges (hopen : s.gateOver = false) {b : Press} (hlow : 50 ≤ b.low) (hin : b.inWindow = true)
    (hseen : b.seenHigh50 = true) (hfit : w.opened + 1000000 * b.low ≤ s.time.cellNs) :
    exec (.acceptNRelease b) s = .next (
      if b.sealOk = false then s.denyGate 0x44 stPresDenied 3
      else if 100 < b.disagree then s.denyGate 0x44 stPresDenied 2
      else if 5000 < b.low then s.denyGate 0x44 stPresDenied 4
      else if b.keysOn = false then s.denyGate 0x44 stPresDenied 1
      else if s.sys.caution = true then s.denyGate 0x44 stPresDenied 5
      else match s.gated with
        | none => s.closePresence 0x41
        | some p => (s.closePresence 0x41).accept p) := by
  have hpress : ¬ (b.low < 50 ∨ b.inWindow = false ∨ b.seenHigh50 = false ∨ s.time.cellNs < w.opened + 1000000 * b.low) := by
    simp only [hin, hseen, Bool.true_eq_false, false_or]
    omega
  simp only [exec_acceptNRelease, execAcceptNRelease, hw, hopen, hpress, Bool.false_eq_true, if_false, Bool.not_eq_true',
    apply_ite Host.Outcome.next]
  cases s.gated <;> rfl

/-- Without a press a window is denied for the seal, the keys or a long press, in this order (R63). -/
theorem exec_presenceDenied_open (hopen : s.gateOver = false) (x y : Bool) (d l : Nat) :
    exec (.presenceDenied x d l y) s = .next (
      if x = true then s.denyGate 0x44 stPresDenied 3
      else if 100 < d then s.denyGate 0x44 stPresDenied 2
      else if 5000 < l ∧ y = true ∧ w.opened + 1000000 * (l + 50) ≤ s.time.cellNs then s.denyGate 0x44 stPresDenied 4
      else s) := by
  simp only [exec_presenceDenied, execPresenceDenied, hw, hopen, Bool.false_eq_true, if_false, apply_ite Host.Outcome.next]

end Window

/-- The final message goes once it has stood for 5 s and no window is open (R61). -/
theorem exec_panelClear_clears {s : State} {t : Nat} (hp : s.host.presence = none) (hat : s.host.panelAt = some t)
    (ht : t + 5000000000 ≤ s.time.cellNs) (he : s.expired (DelayEntry.ofUser 8 5) = true) :
    exec .panelClear s = .next ((s.entryRun (DelayEntry.ofUser 8 5)).showPanel [] none) := by
  rw [exec_panelClear, execPanelClear, State.onExpiry_expired he]
  simp only [State.entryRun_host, State.entryRun_time, hp, hat, Nat.not_lt.2 ht, Option.isSome_none, decide_false,
    Bool.or_self, Bool.false_eq_true, if_false]

/-- Settles O34: a window that has run out, one that is open, the delay entry of the window and that of the panel. -/
theorem presenceEventsComplete : Obligations.PresenceEventsComplete := by
  unfold Obligations.PresenceEventsComplete
  intro s w hw
  refine ⟨fun b hlow hin hseen hopen hfit =>
      exec_acceptNRelease_judges hw (State.gateOver_false hw hopen) hlow hin hseen hfit,
    fun hover => ⟨exec_acceptNRelease_over hw (State.gateOver_true hw hover),
      exec_presenceDenied_over hw (State.gateOver_true hw hover)⟩,
    fun hopen d l h => ?_, fun hopen d l h hd => ?_, fun hopen d l hd hl hfit => ?_,
    fun ht he => exec_presenceTimeout_ends hw ht he, fun he => congrArg _ (State.onExpiry_waits he _),
    fun t ht he => exec_panelClear_clears rfl rfl ht he⟩
  · rw [exec_presenceDenied_open hw (State.gateOver_false hw hopen), if_pos rfl]
  · rw [exec_presenceDenied_open hw (State.gateOver_false hw hopen), if_neg Bool.false_ne_true, if_pos hd]
  · rw [exec_presenceDenied_open hw (State.gateOver_false hw hopen), if_neg Bool.false_ne_true, if_neg (Nat.not_lt.2 hd),
      if_pos ⟨hl, rfl, hfit⟩]

end Sys2Proof.Machine
end

section
/-! SUPPORT. The events of the nibble plane: the image swap, the rule pass, the Developer, its window and held events (R65, R80,
R293, R296, R302, R309, R310, R312). -/

namespace Sys2Proof.Machine

/-! ### The commands -/

theorem exec_imageSwap (s : State) : exec .imageSwap s = execImageSwap s := rfl
theorem exec_rulePass (s : State) : exec .rulePass s = execRulePass s := rfl
theorem exec_developerTick (s : State) : exec .developerTick s = execDeveloperTick s := rfl
theorem exec_npDev (w : BitVec 8) (s : State) : exec (.npDev w) s = execNpDev w s := rfl
theorem exec_evtHoldExpiry (k : Fin 16) (s : State) : exec (.evtHoldExpiry k) s = execEvtHoldExpiry k s := rfl

/-! ### The grids of the plane -/

theorem exec_imageSwap_offGrid {s : State} (h : s.onGrid s.servo 0 = false) : exec .imageSwap s = .next s := by
  simp only [exec_imageSwap, execImageSwap, h, Bool.not_false, if_true]

/-- Before NIBBLE is ready a swap writes the trace rows alone. -/
theorem exec_imageSwap_notReady {s : State} (hg : s.onGrid s.servo 0 = true) (hr : s.isReady rdNibble = false) :
    exec .imageSwap s = .next s.traceRows := by
  simp only [exec_imageSwap, execImageSwap, hg, hr, Bool.not_true, Bool.not_false, Bool.false_eq_true, if_false, if_true]

theorem exec_rulePass_runs {s : State} (hc : s.cellOn = true) (hr : s.isReady rdNibble = true)
    (hg : s.onGrid s.servo 1000 = true) :
    exec .rulePass s =
      let rs := s.nibble.rules.filter (fun r => s.inGroup r ((s.seqNo + 1) % s.phaseCount))
      let x := s.nibble.pass s.theCell rs []
      .next (s.setNibble { x with passMax := satN 16383 (max x.passMax (64 + ceilDiv rs.length 8)) }) := by
  simp only [exec_rulePass, execRulePass, hc, hr, hg, Bool.not_true, Bool.or_self, Bool.false_eq_true, if_false]

theorem exec_rulePass_idle {s : State} (h : s.cellOn = false ∨ s.isReady rdNibble = false ∨ s.onGrid s.servo 1000 = false) :
    exec .rulePass s = .next s :=
  if_pos (by simpa [or_assoc] using h)

theorem exec_developerTick_runs {s : State} (hr : s.isReady rdNibble = true) (hg : s.onGrid 1000 0 = true) :
    exec .developerTick s =
      let due := fun (e : Ev) => decide (e.stamp + s.nibble.windowIn * 10000 ≤ s.stamp)
      .next ((s.nibble.lateQ.foldr insertEv (s.nibble.store.filter due)).foldl (fun u e => u.release e)
        (s.setNibble { s.nibble with store := s.nibble.store.filter (fun e => !due e), lateQ := [] })) := by
  simp only [exec_developerTick, execDeveloperTick, hr, hg, Bool.not_true, Bool.or_self, Bool.false_eq_true, if_false]

theorem exec_developerTick_idle {s : State} (h : s.isReady rdNibble = false ∨ s.onGrid 1000 0 = false) :
    exec .developerTick s = .next s :=
  if_pos (by simpa using h)

theorem exec_npDev_takes {w : BitVec 8} (h2 : 2 ≤ w.toNat) (h200 : w.toNat ≤ 200) (s : State) :
    exec (.npDev w) s = .next (s.setWindow w.toNat) := if_pos ⟨h2, h200⟩

theorem exec_npDev_ignores {w : BitVec 8} (h : w.toNat < 2 ∨ 200 < w.toNat) (s : State) :
    exec (.npDev w) s = .next s := if_neg (by omega)

/-! ### Held events (R65, R66) -/

/-- A standby delivers nothing (R369). -/
theorem State.deliverSub_standby {s : State} (h : s.isStandby = true) (k : Fin 16) : s.deliverSub k = s := if_pos h

/-- Without an armed packet, or without a held record, nothing is delivered. -/
theorem State.deliverSub_idle {s : State} {k : Fin 16} (h : s.armed k.val = [] ∨ s.host.subs[k].held = []) :
    s.deliverSub k = s := by
  unfold State.deliverSub
  dsimp only
  split
  · rfl
  · rcases h with h | h
    · rw [h]
    · rw [h]
      split
      · contradiction
      · rfl

/-- The first armed packet takes the records that fit once the next would not, or the oldest has waited 1 ms (R65). -/
theorem State.deliverSub_armed {s : State} {k : Fin 16} {p : Pkt} {ps : List Pkt} {e : EvRec} {es : List EvRec}
    (hs : s.isStandby = false) (ha : s.armed k.val = p :: ps) (he : s.host.subs[k].held = e :: es) :
    s.deliverSub k =
      let b := s.host.subs[k]
      let take := armedTake p.p1.toNat b.held 0
      let size := (take.map (fun r => r.bytes.length)).sum
      let more := ((b.held.drop take.length).head?.map (fun r => r.bytes.length)).getD
        ((take.getLast?.map (fun r => r.bytes.length)).getD 0)
      if p.p1.toNat < size + more ∨ e.released + 1000000 ≤ s.time.cellNs then
        let v := s.setSub k { b with held := b.held.drop take.length, dropped := 0 }
        (if v.pairActive then v.sendBenjo 6 ([5, BitVec.ofNat 8 k.val, 0, 0] ++ leBytes 2 take.length ++ [0, 0]) else v).finishN 17 p
          ⟨stOk, w32 take.length, w32 b.dropped⟩ (take.flatMap (·.bytes)) (decide (b.dropped ≠ 0)) []
      else s := by
  unfold State.deliverSub
  simp only [hs, ha, he, Bool.false_eq_true, if_false, Bool.or_eq_true, decide_eq_true_eq]

/-- At its delay entry a subscription delivers (R65, R280). -/
theorem exec_evtHoldExpiry_delivers {s : State} {k : Fin 16} (he : s.expired (DelayEntry.ofUser 5 k.val) = true) :
    exec (.evtHoldExpiry k) s = .next ((s.entryRun (DelayEntry.ofUser 5 k.val)).deliverSub k) :=
  congrArg _ (State.onExpiry_expired he _)

/-- Settles O48: one lemma for each event, in the order of the statement; a swap on its grid passes both of its guards. -/
theorem nibbleEventsComplete : Obligations.NibbleEventsComplete := by
  unfold Obligations.NibbleEventsComplete
  intro s
  refine ⟨fun hr hg => (if_neg (by simp [hg])).trans (if_neg (by simp [hr])), exec_imageSwap_notReady,
    exec_imageSwap_offGrid, exec_rulePass_runs, exec_rulePass_idle, exec_developerTick_runs, exec_developerTick_idle,
    fun w h2 h200 => exec_npDev_takes h2 h200 s, fun w h => exec_npDev_ignores h s,
    fun k he => congrArg _ (State.onExpiry_waits he _), fun k he h => ?_, fun k p ps e es ha he hs => ?_⟩
  · rw [exec_evtHoldExpiry_delivers he]
    rcases h with h | h
    · exact congrArg _ (State.deliverSub_standby (s := s.entryRun _) h k)
    · exact congrArg _ (State.deliverSub_idle (s := s.entryRun _) h)
  · intro t hheld b take size more
    rw [exec_evtHoldExpiry_delivers he, State.deliverSub_armed (s := s.entryRun _) hs ha hheld]
    exact ⟨fun h => congrArg _ (if_pos h), fun hfit hnew => congrArg _ (if_neg fun h =>
      h.elim (Nat.not_lt.2 hfit) (Nat.not_le.2 hnew))⟩

end Sys2Proof.Machine
end

section
/-! SUPPORT. What every command keeps (R86, R403, R405): each answers a next state, with the queue and the elapsed time as they
were; and only an accepted OTP_PROGRAM writes the OTP array, whose bits it only sets. -/

namespace Sys2Proof.Machine

/-- The outcome is a next state with the queue, the elapsed time and the OTP array of `s`. -/
def State.Keeps (s : State) (o : Host.Outcome State Fault Refusal) : Prop := ∃ t, o = .next t ∧ t.kept = s.kept

@[simp] theorem State.keeps_next {s t : State} : s.Keeps (.next t) ↔ t.kept = s.kept :=
  ⟨fun ⟨_, h, k⟩ => by cases h; exact k, fun h => ⟨t, rfl, h⟩⟩

@[simp] theorem State.keeps_ite {s : State} {c : Prop} [Decidable c] {o o' : Host.Outcome State Fault Refusal} :
    s.Keeps (if c then o else o') ↔ if c then s.Keeps o else s.Keeps o' := by
  split <;> rfl

/-- A packet row keeps what its effect keeps (R35, R41, R43). -/
theorem State.keeps_startPkt (s : State) (q : Fin 16) (tag : Fin 1024) (op : Nat) {f : Pkt → State → State}
    (hf : ∀ p t, (f p t).kept = t.kept) : s.Keeps (.next (s.startPkt q tag op f)) :=
  State.keeps_next.2 (s.startPkt_kept q tag op f hf)

/-- An expiry row keeps what its effect keeps (R279, R280). -/
theorem State.keeps_onExpiry (s : State) (f : DelayEntry → Bool) {g : State → State}
    (hg : ∀ t, (g t).kept = t.kept) : s.Keeps (.next (s.onExpiry f g)) :=
  State.keeps_next.2 (s.onExpiry_kept f g hg)

/-! ### Host queues -/

@[simp] theorem execSqDoorbell_keeps (q : Fin 16) (tail : Nat) (mem : List Byte) (s : State) :
    s.Keeps (execSqDoorbell q tail mem s) := by
  simp [execSqDoorbell]

@[simp] theorem execCqDoorbell_keeps (q : Fin 16) (head : Nat) (s : State) : s.Keeps (execCqDoorbell q head s) := by
  simp [execCqDoorbell]

@[simp] theorem execMsixModerationExpiry_keeps (q : Fin 16) (s : State) : s.Keeps (execMsixModerationExpiry q s) := by
  refine State.keeps_onExpiry _ _ fun t => ?_
  dsimp only
  split <;> simp [ite_kept]

@[simp] theorem execUdpDatagram_keeps (port : Fin 2) (src : Endpoint) (dstPort : Nat) (data : List Byte) (s : State) :
    s.Keeps (execUdpDatagram port src dstPort data s) := by
  simp [execUdpDatagram, ite_kept]

@[simp] theorem execReassemblyTimeout_keeps (q : Fin 16) (seq : Word) (s : State) : s.Keeps (execReassemblyTimeout q seq s) :=
  State.keeps_onExpiry _ _ fun t => by simp

@[simp] theorem execPartialImageTimeout_keeps (st : Stream) (s : State) : s.Keeps (execPartialImageTimeout st s) := by
  refine State.keeps_onExpiry _ _ fun t => ?_
  split <;> simp [ite_kept]

@[simp] theorem execResetQ_keeps (q : Fin 16) (s : State) : s.Keeps (execResetQ q s) := by
  simp [execResetQ]

@[simp] theorem execPing_keeps (q : Fin 16) (tag : Fin 1024) (s : State) : s.Keeps (execPing q tag s) :=
  State.keeps_startPkt _ _ _ _ fun p t => by simp

@[simp] theorem execReadyRead_keeps (q : Fin 16) (tag : Fin 1024) (s : State) : s.Keeps (execReadyRead q tag s) :=
  State.keeps_startPkt _ _ _ _ fun p t => by simp

@[simp] theorem execAbort_keeps (q : Fin 16) (tag : Fin 1024) (s : State) : s.Keeps (execAbort q tag s) := by
  refine State.keeps_startPkt _ _ _ _ fun p t => ?_
  dsimp only
  split <;> simp [ite_kept]

@[simp] theorem execQueueReset_keeps (q : Fin 16) (tag : Fin 1024) (s : State) : s.Keeps (execQueueReset q tag s) :=
  State.keeps_startPkt _ _ _ _ fun p t => by simp [ite_kept]

@[simp] theorem execLogRead_keeps (q : Fin 16) (tag : Fin 1024) (s : State) : s.Keeps (execLogRead q tag s) :=
  State.keeps_startPkt _ _ _ _ fun p t => by simp [ite_kept]

/-! ### Motion -/

@[simp] theorem execBarrierTimeout_keeps (c : Fin 16) (s : State) : s.Keeps (execBarrierTimeout c s) := by
  refine State.keeps_onExpiry _ _ fun t => ?_
  split <;> simp [ite_kept, foldOn_kept]

@[simp] theorem execSegPush_keeps (q : Fin 16) (tag : Fin 1024) (s : State) : s.Keeps (execSegPush q tag s) := by
  unfold execSegPush
  repeat' split
  · simp
  · simp
  · refine State.keeps_startPkt _ _ _ _ fun p t => ?_
    split <;> simp

@[simp] theorem execMotionStop_keeps (q : Fin 16) (tag : Fin 1024) (s : State) : s.Keeps (execMotionStop q tag s) :=
  State.keeps_startPkt _ _ _ _ fun p t => by simp [ite_kept]

@[simp] theorem execMotionResume_keeps (q : Fin 16) (tag : Fin 1024) (s : State) : s.Keeps (execMotionResume q tag s) :=
  State.keeps_startPkt _ _ _ _ fun p t => by simp [ite_kept]

@[simp] theorem execSegqStatus_keeps (q : Fin 16) (tag : Fin 1024) (s : State) : s.Keeps (execSegqStatus q tag s) := by
  refine State.keeps_startPkt _ _ _ _ fun p t => ?_
  split <;> simp

@[simp] theorem execOverrideSet_keeps (q : Fin 16) (tag : Fin 1024) (s : State) : s.Keeps (execOverrideSet q tag s) :=
  State.keeps_startPkt _ _ _ _ fun p t => by simp [ite_kept]

@[simp] theorem execMoAuxcmd_keeps (k : Fin 32) (v : Word) (s : State) : s.Keeps (execMoAuxcmd k v s) := by
  simp [execMoAuxcmd]

/-! ### Safety inputs and functions -/

@[simp] theorem execSafeInputChange_keeps (i : Fin 16) (lineB level : Bool) (samples : Nat) (s : State) :
    s.Keeps (execSafeInputChange i lineB level samples s) := by
  simp [execSafeInputChange]

@[simp] theorem execEstopChange_keeps (lineB level : Bool) (samples : Nat) (s : State) :
    s.Keeps (execEstopChange lineB level samples s) := by
  simp [execEstopChange]

@[simp] theorem execDiscrepancyTimeout_keeps (i : Option (Fin 16)) (s : State) : s.Keeps (execDiscrepancyTimeout i s) := by
  unfold execDiscrepancyTimeout
  dsimp only
  repeat' split
  all_goals simp

@[simp] theorem execTestPulseCheck_keeps (k : Fin 4) (a b : BitVec 16) (s : State) : s.Keeps (execTestPulseCheck k a b s) := by
  simp [execTestPulseCheck, foldOn_kept]

@[simp] theorem execOutputTestPulse_keeps (p : Fin 16) (lineB : Bool) (ch : Fin 2) (highInPulse lowOutside : Bool) (s : State) :
    s.Keeps (execOutputTestPulse p lineB ch highInPulse lowOutside s) := by
  simp [execOutputTestPulse, ite_kept]

@[simp] theorem execSrstNPress_keeps (ch : Fin 2) (samples : Nat) (s : State) : s.Keeps (execSrstNPress ch samples s) := by
  simp [execSrstNPress]

@[simp] theorem execSrstNRelease_keeps (ch : Fin 2) (samples : Nat) (s : State) : s.Keeps (execSrstNRelease ch samples s) := by
  simp [execSrstNRelease]

@[simp] theorem execResetStuck_keeps (s : State) : s.Keeps (execResetStuck s) := by
  simp [execResetStuck]

@[simp] theorem execSrstNOpen_keeps (s : State) : s.Keeps (execSrstNOpen s) := by
  simp [execSrstNOpen]

@[simp] theorem execSs1Timeout_keeps (c : Fin 16) (s : State) : s.Keeps (execSs1Timeout c s) := by
  unfold execSs1Timeout
  dsimp only
  split <;> simp

@[simp] theorem execBrakeFeedbackMismatch_keeps (p : Fin 16) (released : Bool) (ms : Nat) (s : State) :
    s.Keeps (execBrakeFeedbackMismatch p released ms s) := by
  simp [execBrakeFeedbackMismatch]

@[simp] theorem execBrakeTestDue_keeps (c : Fin 16) (s : State) : s.Keeps (execBrakeTestDue c s) :=
  State.keeps_onExpiry _ _ fun t => by simp [ite_kept]

@[simp] theorem execSfBrkreq_keeps (v : BitVec 16) (s : State) : s.Keeps (execSfBrkreq v s) := by
  simp [execSfBrkreq]

@[simp] theorem execBrakeTestStep_keeps (c : Fin 16) (fbClosed : Bool) (disp1 disp2 : Nat) (s : State) :
    s.Keeps (execBrakeTestStep c fbClosed disp1 disp2 s) := by
  unfold execBrakeTestStep
  dsimp only
  split <;> simp

@[simp] theorem execBrakeTestOverdue_keeps (c : Fin 16) (s : State) : s.Keeps (execBrakeTestOverdue c s) := by
  unfold execBrakeTestOverdue
  dsimp only
  split <;> simp

@[simp] theorem execChannelInternalFault_keeps (ch : Fin 2) (s : State) : s.Keeps (execChannelInternalFault ch s) := by
  simp [execChannelInternalFault, ite_kept]

/-! ### Schedules -/

@[simp] theorem execSchedLoad_keeps (q : Fin 16) (tag : Fin 1024) (s : State) : s.Keeps (execSchedLoad q tag s) := by
  refine State.keeps_startPkt _ _ _ _ fun p t => State.fragment_kept _ _ _ _ _ fun b u => ?_
  simp

@[simp] theorem execSchedUnload_keeps (q : Fin 16) (tag : Fin 1024) (s : State) : s.Keeps (execSchedUnload q tag s) := by
  refine State.keeps_startPkt _ _ _ _ fun p t => ?_
  split <;> simp [ite_kept]

/-! ### Signal tiles -/

@[simp] theorem execKernelLoad_keeps (q : Fin 16) (tag : Fin 1024) (s : State) : s.Keeps (execKernelLoad q tag s) := by
  refine State.keeps_startPkt _ _ _ _ fun p t => State.fragment_kept _ _ _ _ _ fun b u => ?_
  dsimp only
  repeat' split
  all_goals simp

@[simp] theorem execKernelUnload_keeps (q : Fin 16) (tag : Fin 1024) (s : State) : s.Keeps (execKernelUnload q tag s) := by
  refine State.keeps_startPkt _ _ _ _ fun p t => ?_
  dsimp only
  repeat' split
  all_goals simp

@[simp] theorem execTileStatus_keeps (q : Fin 16) (tag : Fin 1024) (s : State) : s.Keeps (execTileStatus q tag s) :=
  State.keeps_startPkt _ _ _ _ fun p t => by simp [ite_kept]

@[simp] theorem execKernelActivation_keeps (t : Fin 16) (s : State) : s.Keeps (execKernelActivation t s) := by
  unfold execKernelActivation
  dsimp only
  repeat' split
  all_goals simp

@[simp] theorem execKernelOverrun_keeps (t : Fin 16) (s : State) : s.Keeps (execKernelOverrun t s) := by
  unfold execKernelOverrun
  dsimp only
  split <;> simp

@[simp] theorem execInterruptEntry_keeps (t : Fin 16) (s : State) : s.Keeps (execInterruptEntry t s) := by
  unfold execInterruptEntry
  dsimp only
  split <;> simp

@[simp] theorem execTEnd_keeps (t : Fin 16) (corrected : Nat) (s : State) : s.Keeps (execTEnd t corrected s) :=
  State.keeps_next.2 (State.tileRun_kept _ _ _ _ _ fun s im o => by simp [ite_kept])

/-! ### Loop engines -/

@[simp] theorem execArm_keeps (e : Fin 16) (s : State) : s.Keeps (execArm e s) := by
  simp [execArm]

@[simp] theorem execLoopCutoffMiss_keeps (e : Fin 16) (slot : Fin 32) (s : State) : s.Keeps (execLoopCutoffMiss e slot s) := by
  unfold execLoopCutoffMiss
  dsimp only
  repeat' split
  all_goals simp

@[simp] theorem execLoopEngineFault_keeps (e : Fin 16) (masked : Bool) (s : State) :
    s.Keeps (execLoopEngineFault e masked s) := by
  simp [execLoopEngineFault]

@[simp] theorem execLoopBatch_keeps (node : Nat) (s : State) : s.Keeps (execLoopBatch node s) := by
  unfold execLoopBatch
  repeat' split
  all_goals simp [foldl_kept]

@[simp] theorem execSetpointEvaluation_keeps (a : Fin 160) (s : State) : s.Keeps (execSetpointEvaluation a s) := by
  unfold execSetpointEvaluation
  split <;> simp

@[simp] theorem execLoopCoeffSet_keeps (q : Fin 16) (tag : Fin 1024) (s : State) : s.Keeps (execLoopCoeffSet q tag s) := by
  refine State.keeps_startPkt _ _ _ _ fun p t => ?_
  dsimp only
  repeat' split
  all_goals simp [foldl_kept]

@[simp] theorem execLoopHandover_keeps (q : Fin 16) (tag : Fin 1024) (s : State) : s.Keeps (execLoopHandover q tag s) := by
  refine State.keeps_startPkt _ _ _ _ fun p t => ?_
  split <;> simp

@[simp] theorem execProbeSet_keeps (q : Fin 16) (tag : Fin 1024) (s : State) : s.Keeps (execProbeSet q tag s) :=
  State.keeps_startPkt _ _ _ _ fun p t => by simp [ite_kept]

@[simp] theorem execLoopStateRead_keeps (q : Fin 16) (tag : Fin 1024) (s : State) : s.Keeps (execLoopStateRead q tag s) := by
  refine State.keeps_startPkt _ _ _ _ fun p t => ?_
  repeat' split
  all_goals simp

@[simp] theorem execTraceUpload_keeps (q : Fin 16) (tag : Fin 1024) (s : State) : s.Keeps (execTraceUpload q tag s) :=
  State.keeps_startPkt _ _ _ _ fun p t => by simp [ite_kept]

@[simp] theorem execTraceTrigger_keeps (q : Fin 16) (tag : Fin 1024) (s : State) : s.Keeps (execTraceTrigger q tag s) :=
  State.keeps_startPkt _ _ _ _ fun p t => by simp [ite_kept, foldOn_kept]

@[simp] theorem execTraceRelease_keeps (q : Fin 16) (tag : Fin 1024) (s : State) : s.Keeps (execTraceRelease q tag s) :=
  State.keeps_startPkt _ _ _ _ fun p t => by simp [ite_kept]

/-! ### Nibble plane -/

@[simp] theorem execRulePass_keeps (s : State) : s.Keeps (execRulePass s) := by
  simp [execRulePass]

@[simp] theorem execDeveloperTick_keeps (s : State) : s.Keeps (execDeveloperTick s) := by
  simp [execDeveloperTick, foldl_kept]

@[simp] theorem execImageSwap_keeps (s : State) : s.Keeps (execImageSwap s) := by
  unfold execImageSwap
  dsimp only
  repeat' split
  all_goals simp [foldl_kept]

@[simp] theorem execNpDev_keeps (window : BitVec 8) (s : State) : s.Keeps (execNpDev window s) := by
  simp [execNpDev]

@[simp] theorem execEvtSubscribe_keeps (q : Fin 16) (tag : Fin 1024) (s : State) : s.Keeps (execEvtSubscribe q tag s) := by
  refine State.keeps_startPkt _ _ _ _ fun p t => ?_
  repeat' split
  all_goals simp [ite_kept]

@[simp] theorem execEvtArm_keeps (q : Fin 16) (tag : Fin 1024) (s : State) : s.Keeps (execEvtArm q tag s) := by
  unfold execEvtArm
  repeat' split
  · simp
  · simp
  · exact State.keeps_startPkt _ _ _ _ fun p t => by simp [ite_kept]

@[simp] theorem execEvtCancel_keeps (q : Fin 16) (tag : Fin 1024) (s : State) : s.Keeps (execEvtCancel q tag s) :=
  State.keeps_startPkt _ _ _ _ fun p t => by simp [ite_kept, foldl_kept]

@[simp] theorem execEvtHoldExpiry_keeps (sub : Fin 16) (s : State) : s.Keeps (execEvtHoldExpiry sub s) :=
  State.keeps_onExpiry _ _ fun t => by simp

@[simp] theorem execPointForce_keeps (q : Fin 16) (tag : Fin 1024) (s : State) : s.Keeps (execPointForce q tag s) :=
  State.keeps_startPkt _ _ _ _ fun p t => by simp

@[simp] theorem execPointWrite_keeps (q : Fin 16) (tag : Fin 1024) (s : State) : s.Keeps (execPointWrite q tag s) :=
  State.keeps_startPkt _ _ _ _ fun p t => by simp

@[simp] theorem execPointRead_keeps (q : Fin 16) (tag : Fin 1024) (s : State) : s.Keeps (execPointRead q tag s) :=
  State.keeps_startPkt _ _ _ _ fun p t => by simp [ite_kept]

@[simp] theorem execRuleLoad_keeps (q : Fin 16) (tag : Fin 1024) (s : State) : s.Keeps (execRuleLoad q tag s) := by
  refine State.keeps_startPkt _ _ _ _ fun p t => State.fragment_kept _ _ _ _ _ fun b u => ?_
  split <;> simp

/-! ### Solver -/

/-- A fold that carries a state beside other data keeps what each of its steps keeps. -/
theorem foldl_fst_kept {α β : Type} (l : List α) (g : State × β → α → State × β) (x : State × β)
    (h : ∀ x a, (g x a).1.kept = x.1.kept) : (l.foldl g x).1.kept = x.1.kept := by
  induction l generalizing x with
  | nil => rfl
  | cons a r ih => exact (ih _).trans (h x a)

@[simp] theorem execAssembly_keeps (s : State) : s.Keeps (execAssembly s) := by
  unfold execAssembly
  split
  · simp
  · refine State.keeps_next.2 ((State.setSolver_kept _ _).trans ((foldl_fst_kept _ _ _ fun x p => ?_).trans ?_))
    · dsimp only
      split <;> simp
    · simp

@[simp] theorem execSolveRequest_keeps (p : Fin 4) (s : State) : s.Keeps (execSolveRequest p s) := by
  unfold execSolveRequest
  repeat' split
  all_goals simp

@[simp] theorem execLHalt_keeps (p : Fin 4) (corrected : Nat) (s : State) : s.Keeps (execLHalt p corrected s) := by
  unfold execLHalt
  split <;> simp

@[simp] theorem execSolveOverrun_keeps (p : Fin 4) (s : State) : s.Keeps (execSolveOverrun p s) := by
  simp [execSolveOverrun]

@[simp] theorem execDistribution_keeps (s : State) : s.Keeps (execDistribution s) := by
  simp [execDistribution, foldOn_kept]

@[simp] theorem execSolverReport_keeps (q : Fin 16) (tag : Fin 1024) (s : State) : s.Keeps (execSolverReport q tag s) :=
  State.keeps_startPkt _ _ _ _ fun p t => by simp [ite_kept]

/-! ### Dispatcher -/

@[simp] theorem execDelayTick_keeps (s : State) : s.Keeps (execDelayTick s) := by
  simp [execDelayTick]

@[simp] theorem execArbitrationRound_keeps (i : Fin 25) (reqs : List (Fin 8)) (release : Bool) (s : State) :
    s.Keeps (execArbitrationRound i reqs release s) := by
  simp [execArbitrationRound]

@[simp] theorem execAbMemcls_keeps (r : Fin 8) (cls : BitVec 2) (s : State) : s.Keeps (execAbMemcls r cls s) := by
  simp [execAbMemcls]

@[simp] theorem execBackgroundPromotion_keeps (b : Fin 6) (unit : Fin 25) (s : State) :
    s.Keeps (execBackgroundPromotion b unit s) := by
  simp [execBackgroundPromotion, ite_kept]

@[simp] theorem execBackgroundStep_keeps (b : Fin 6) (unit : Fin 25) (corrected : Nat) (s : State) :
    s.Keeps (execBackgroundStep b unit corrected s) := by
  simp [execBackgroundStep, ite_kept]

/-! ### Cell time -/

@[simp] theorem execPtpMessage_keeps (port : Fin 2) (m : PtpMsg) (s : State) : s.Keeps (execPtpMessage port m s) := by
  unfold execPtpMessage
  dsimp only
  repeat' split
  all_goals simp

@[simp] theorem execPtpSlotLoss_keeps (slot : Fin 2) (s : State) : s.Keeps (execPtpSlotLoss slot s) := by
  simp [execPtpSlotLoss]

@[simp] theorem execSlotSwitch_keeps (s : State) : s.Keeps (execSlotSwitch s) := by
  unfold execSlotSwitch
  dsimp only
  repeat' split
  all_goals simp

@[simp] theorem execSlot0Return_keeps (s : State) : s.Keeps (execSlot0Return s) := by
  simp [execSlot0Return]

@[simp] theorem execSyncInEdge_keeps (falling : Bool) (s : State) : s.Keeps (execSyncInEdge falling s) := by
  simp [execSyncInEdge, ite_kept]

@[simp] theorem execPpsLoss_keeps (s : State) : s.Keeps (execPpsLoss s) := by
  unfold execPpsLoss
  split <;> simp

@[simp] theorem execSyncOutEdge_keeps (s : State) : s.Keeps (execSyncOutEdge s) := by
  simp [execSyncOutEdge]

@[simp] theorem execTbCtrlSource_keeps (src : BitVec 2) (s : State) : s.Keeps (execTbCtrlSource src s) := by
  simp [execTbCtrlSource]

@[simp] theorem execTbDomain_keeps (slot : Fin 2) (v : Word) (s : State) : s.Keeps (execTbDomain slot v s) := by
  simp [execTbDomain]

@[simp] theorem execTimeRead_keeps (q : Fin 16) (tag : Fin 1024) (s : State) : s.Keeps (execTimeRead q tag s) :=
  State.keeps_startPkt _ _ _ _ fun p t => by simp

@[simp] theorem execTimeSet_keeps (q : Fin 16) (tag : Fin 1024) (s : State) : s.Keeps (execTimeSet q tag s) := by
  refine State.keeps_startPkt _ _ _ _ fun p t => ?_
  split <;> simp

@[simp] theorem execPtpSelect_keeps (q : Fin 16) (tag : Fin 1024) (s : State) : s.Keeps (execPtpSelect q tag s) :=
  State.keeps_startPkt _ _ _ _ fun p t => by simp [ite_kept]

@[simp] theorem execSyncOutCfg_keeps (q : Fin 16) (tag : Fin 1024) (s : State) : s.Keeps (execSyncOutCfg q tag s) := by
  refine State.keeps_startPkt _ _ _ _ fun p t => ?_
  split <;> simp

@[simp] theorem execSyncInRead_keeps (q : Fin 16) (tag : Fin 1024) (s : State) : s.Keeps (execSyncInRead q tag s) :=
  State.keeps_startPkt _ _ _ _ fun p t => by simp

/-! ### Ocnel ring -/

@[simp] theorem execRingWindowExpiry_keeps (r : Fin 4) (s : State) : s.Keeps (execRingWindowExpiry r s) := by
  unfold execRingWindowExpiry
  dsimp only
  split <;> simp

@[simp] theorem execColdstart_keeps (r : Fin 4) (laneB fcsOk : Bool) (frame : List Byte) (s : State) :
    s.Keeps (execColdstart r laneB fcsOk frame s) := by
  unfold execColdstart
  dsimp only
  split <;> simp [ite_kept]

@[simp] theorem execRangeRsp_keeps (r : Fin 4) (laneB : Bool) (frac : Fin 20) (fcsOk : Bool) (frame : List Byte) (s : State) :
    s.Keeps (execRangeRsp r laneB frac fcsOk frame s) := by
  unfold execRangeRsp
  dsimp only
  split <;> simp [ite_kept]

@[simp] theorem execRangePollTimeout_keeps (r : Fin 4) (s : State) : s.Keeps (execRangePollTimeout r s) := by
  simp [execRangePollTimeout, ite_kept]

@[simp] theorem execRingActivateBoundary_keeps (r : Fin 4) (s : State) : s.Keeps (execRingActivateBoundary r s) := by
  unfold execRingActivateBoundary
  dsimp only
  split <;> simp

@[simp] theorem execNodeFrame_keeps (r : Fin 4) (laneB : Bool) (frac : Fin 20) (fcsOk : Bool) (frame : List Byte) (s : State) :
    s.Keeps (execNodeFrame r laneB frac fcsOk frame s) := by
  unfold execNodeFrame
  dsimp only
  split <;> simp [ite_kept]

@[simp] theorem execSlotLostDeadline_keeps (r : Fin 4) (hop : Nat) (s : State) : s.Keeps (execSlotLostDeadline r hop s) := by
  unfold execSlotLostDeadline
  dsimp only
  repeat' split
  all_goals simp

@[simp] theorem execDeviceOutputFrame_keeps (r : Fin 4) (s : State) : s.Keeps (execDeviceOutputFrame r s) := by
  simp [execDeviceOutputFrame, ite_kept]

@[simp] theorem execRangingRound_keeps (r : Fin 4) (s : State) : s.Keeps (execRangingRound r s) := by
  simp [execRangingRound, ite_kept, foldl_kept]

@[simp] theorem execRingStatus_keeps (q : Fin 16) (tag : Fin 1024) (s : State) : s.Keeps (execRingStatus q tag s) :=
  State.keeps_startPkt _ _ _ _ fun p t => by simp [ite_kept]

@[simp] theorem execRingRerange_keeps (q : Fin 16) (tag : Fin 1024) (s : State) : s.Keeps (execRingRerange q tag s) :=
  State.keeps_startPkt _ _ _ _ fun p t => by simp [ite_kept, foldl_kept]

@[simp] theorem execNodeReadmit_keeps (q : Fin 16) (tag : Fin 1024) (s : State) : s.Keeps (execNodeReadmit q tag s) := by
  refine State.keeps_startPkt _ _ _ _ fun p t => ?_
  split <;> simp [ite_kept]

/-! ### Separation monitoring -/

@[simp] theorem execSafetyFrame_keeps (node : Nat) (arrival : Nat) (bytes : List Byte) (s : State) :
    s.Keeps (execSafetyFrame node arrival bytes s) := by
  unfold execSafetyFrame
  dsimp only
  repeat' split
  all_goals simp

@[simp] theorem execSeparationIntake_keeps (s : State) : s.Keeps (execSeparationIntake s) := by
  simp [execSeparationIntake, foldOn_kept]

/-! ### Cells -/

@[simp] theorem execCellLoad_keeps (q : Fin 16) (tag : Fin 1024) (s : State) : s.Keeps (execCellLoad q tag s) := by
  refine State.keeps_startPkt _ _ _ _ fun p t => State.fragment_kept _ _ _ _ _ fun b u => ?_
  simp

@[simp] theorem execCellAmend_keeps (q : Fin 16) (tag : Fin 1024) (s : State) : s.Keeps (execCellAmend q tag s) := by
  refine State.keeps_startPkt _ _ _ _ fun p t => State.fragment_kept _ _ _ _ _ fun b u => ?_
  simp

@[simp] theorem execCellCheck_keeps (q : Fin 16) (tag : Fin 1024) (s : State) : s.Keeps (execCellCheck q tag s) := by
  refine State.keeps_startPkt _ _ _ _ fun p t => State.fragment_kept _ _ _ _ _ fun b u => ?_
  simp

@[simp] theorem execSchedSwap_keeps (q : Fin 16) (tag : Fin 1024) (s : State) : s.Keeps (execSchedSwap q tag s) := by
  refine State.keeps_startPkt _ _ _ _ fun p t => ?_
  split <;> simp [ite_kept]

@[simp] theorem execKernelBind_keeps (q : Fin 16) (tag : Fin 1024) (s : State) : s.Keeps (execKernelBind q tag s) := by
  refine State.keeps_startPkt _ _ _ _ fun p t => ?_
  dsimp only
  split <;> simp [ite_kept]

@[simp] theorem execPlaceRead_keeps (q : Fin 16) (tag : Fin 1024) (s : State) : s.Keeps (execPlaceRead q tag s) :=
  State.keeps_startPkt _ _ _ _ fun p t => by simp [ite_kept]

@[simp] theorem execPlacementComplete_keeps (s : State) : s.Keeps (execPlacementComplete s) := by
  unfold execPlacementComplete
  repeat' split
  all_goals simp

@[simp] theorem execStagingComplete_keeps (p : Fin 4) (eccOk : Bool) (s : State) : s.Keeps (execStagingComplete p eccOk s) := by
  unfold execStagingComplete
  dsimp only
  split <;> simp

@[simp] theorem execStagingDeadline_keeps (s : State) : s.Keeps (execStagingDeadline s) := by
  unfold execStagingDeadline
  repeat' split
  all_goals simp

@[simp] theorem execActivation_keeps (s : State) : s.Keeps (execActivation s) := by
  unfold execActivation
  dsimp only
  repeat' split
  all_goals simp

@[simp] theorem execPartitionFault_keeps (p : Fin 8) (s : State) : s.Keeps (execPartitionFault p s) := by
  simp [execPartitionFault, ite_kept, foldOn_kept]

@[simp] theorem execTileFault_keeps (t : Fin 16) (selfTest : Bool) (s : State) : s.Keeps (execTileFault t selfTest s) := by
  simp [execTileFault, foldl_kept]

/-! ### CAN -/

@[simp] theorem execCanFrameReceived_keeps (n : Fin 4) (f : CanFrame) (sof : DWord) (s : State) :
    s.Keeps (execCanFrameReceived n f sof s) := by
  simp [execCanFrameReceived]

@[simp] theorem execBufferLockRead_keeps (n : Fin 4) (b : Fin 64) (s : State) : s.Keeps (execBufferLockRead n b s) := by
  simp [execBufferLockRead]

@[simp] theorem execBufferReleaseRead_keeps (n : Fin 4) (b : Fin 64) (s : State) : s.Keeps (execBufferReleaseRead n b s) := by
  simp [execBufferReleaseRead]

@[simp] theorem execCanLockTimeout_keeps (n : Fin 4) (b : Fin 64) (s : State) : s.Keeps (execCanLockTimeout n b s) := by
  unfold execCanLockTimeout
  split <;> simp

@[simp] theorem execCanRxRead_keeps (q : Fin 16) (tag : Fin 1024) (s : State) : s.Keeps (execCanRxRead q tag s) := by
  refine State.keeps_startPkt _ _ _ _ fun p t => ?_
  dsimp only
  repeat' split
  all_goals simp

@[simp] theorem execCanTx_keeps (q : Fin 16) (tag : Fin 1024) (s : State) : s.Keeps (execCanTx q tag s) := by
  refine State.keeps_startPkt _ _ _ _ fun p t => ?_
  repeat' split
  all_goals simp [ite_kept]

@[simp] theorem execCanSofOpportunity_keeps (n : Fin 4) (s : State) : s.Keeps (execCanSofOpportunity n s) := by
  unfold execCanSofOpportunity
  dsimp only
  repeat' split
  all_goals simp

@[simp] theorem execCanArbitrationEnd_keeps (n : Fin 4) (won : Bool) (s : State) : s.Keeps (execCanArbitrationEnd n won s) := by
  unfold execCanArbitrationEnd
  dsimp only
  split <;> simp

@[simp] theorem execCanFrameComplete_keeps (n : Fin 4) (s : State) : s.Keeps (execCanFrameComplete n s) := by
  unfold execCanFrameComplete
  dsimp only
  split <;> simp

@[simp] theorem execCanCancel_keeps (q : Fin 16) (tag : Fin 1024) (s : State) : s.Keeps (execCanCancel q tag s) :=
  State.keeps_startPkt _ _ _ _ fun p t => by simp [ite_kept]

@[simp] theorem execCanCfg_keeps (q : Fin 16) (tag : Fin 1024) (s : State) : s.Keeps (execCanCfg q tag s) := by
  refine State.keeps_startPkt _ _ _ _ fun p t => ?_
  repeat' split
  all_goals simp [ite_kept]

@[simp] theorem execCanBusIntegration_keeps (n : Fin 4) (s : State) : s.Keeps (execCanBusIntegration n s) := by
  simp [execCanBusIntegration]

@[simp] theorem execCanBusError_keeps (n : Fin 4) (e : CanError) (lec : Fin 7) (s : State) :
    s.Keeps (execCanBusError n e lec s) := by
  unfold execCanBusError
  dsimp only
  repeat' split
  all_goals simp

@[simp] theorem execRecover_keeps (n : Fin 4) (s : State) : s.Keeps (execRecover n s) := by
  simp [execRecover]

@[simp] theorem execCanRecoveryComplete_keeps (n : Fin 4) (s : State) : s.Keeps (execCanRecoveryComplete n s) := by
  simp [execCanRecoveryComplete]

/-! ### Reference stage -/

@[simp] theorem execReferenceStage_keeps (s : State) : s.Keeps (execReferenceStage s) := by
  simp [execReferenceStage, foldl_kept, foldOn_kept]

/-! ### Parameter pages -/

@[simp] theorem execParamRead_keeps (q : Fin 16) (tag : Fin 1024) (s : State) : s.Keeps (execParamRead q tag s) := by
  refine State.keeps_startPkt _ _ _ _ fun p t => ?_
  split <;> simp

@[simp] theorem execParamWrite_keeps (q : Fin 16) (tag : Fin 1024) (s : State) : s.Keeps (execParamWrite q tag s) := by
  refine State.keeps_startPkt _ _ _ _ fun p t => ?_
  dsimp only
  repeat' split
  all_goals simp

@[simp] theorem execBar0MirrorWrite_keeps (w : Fin 256) (v : Word) (s : State) : s.Keeps (execBar0MirrorWrite w v s) := by
  unfold execBar0MirrorWrite
  repeat' split
  all_goals simp

@[simp] theorem execSysBcfg_keeps (w : Fin 32) (v : Word) (s : State) : s.Keeps (execSysBcfg w v s) := by
  simp [execSysBcfg]

@[simp] theorem execDebugSpiTransaction_keeps (req : List Byte) (keysOn100ms : Bool) (s : State) :
    s.Keeps (execDebugSpiTransaction req keysOn100ms s) := by
  unfold execDebugSpiTransaction
  split <;> simp

/-! ### Safety cycle -/

@[simp] theorem execSafetyConfigLoad_keeps (s : State) : s.Keeps (execSafetyConfigLoad s) := by
  unfold execSafetyConfigLoad
  repeat' split
  all_goals simp [ite_kept]

@[simp] theorem execSafeParamSet_keeps (q : Fin 16) (tag : Fin 1024) (s : State) : s.Keeps (execSafeParamSet q tag s) := by
  refine State.keeps_startPkt _ _ _ _ fun p t => ?_
  dsimp only
  repeat' split
  all_goals simp

@[simp] theorem execSafePointAssign_keeps (q : Fin 16) (tag : Fin 1024) (s : State) :
    s.Keeps (execSafePointAssign q tag s) := by
  refine State.keeps_startPkt _ _ _ _ fun p t => ?_
  dsimp only
  repeat' split
  all_goals simp

@[simp] theorem execSafetyCycleBoundary_keeps (hb1 hb2 digestsEqual : Bool) (s : State) :
    s.Keeps (execSafetyCycleBoundary hb1 hb2 digestsEqual s) := by
  simp [execSafetyCycleBoundary, ite_kept, foldOn_kept]

/-! ### Bring-up, supplies and firmware -/

@[simp] theorem execPorstN_keeps (low : Bool) (ns : Nat) (s : State) : s.Keeps (execPorstN low ns s) := by
  simp [execPorstN]

@[simp] theorem execFirmwareWatchdog_keeps (s : State) : s.Keeps (execFirmwareWatchdog s) := by
  simp [execFirmwareWatchdog]

@[simp] theorem execMainDieResetRelease_keeps (twinId dbgEn : Bool) (s : State) :
    s.Keeps (execMainDieResetRelease twinId dbgEn s) := by
  unfold execMainDieResetRelease
  dsimp only
  split
  · simp
  · rw [State.keeps_next, State.setTwin_kept, State.setHost_kept, State.nextFree_kept]
    split
    · exact State.setSys_kept _ _ rfl
    · exact State.setSys_kept _ _ rfl

@[simp] theorem execFunctionReady_keeps (f : Fin 21) (pass : Bool) (s : State) : s.Keeps (execFunctionReady f pass s) := by
  simp [execFunctionReady, ite_kept]

@[simp] theorem execVddCoreDip_keeps (s : State) : s.Keeps (execVddCoreDip s) := by
  simp [execVddCoreDip]

@[simp] theorem execSupplyCautionEntry_keeps (s : State) : s.Keeps (execSupplyCautionEntry s) := by
  unfold execSupplyCautionEntry
  dsimp only
  split <;> simp

@[simp] theorem execDipEnd_keeps (minMv : Nat) (s : State) : s.Keeps (execDipEnd minMv s) := by
  unfold execDipEnd
  dsimp only
  split <;> simp

@[simp] theorem execSupplyStop_keeps (_ch : Fin 2) (s : State) : s.Keeps (execSupplyStop _ch s) := by
  simp [execSupplyStop]

@[simp] theorem execVddCoreResetLevel_keeps (s : State) : s.Keeps (execVddCoreResetLevel s) := by
  simp [execVddCoreResetLevel]

@[simp] theorem execVddSlLow_keeps (reset : Bool) (ns : Nat) (s : State) : s.Keeps (execVddSlLow reset ns s) := by
  simp [execVddSlLow]

@[simp] theorem execVddSlGood_keeps (s : State) : s.Keeps (execVddSlGood s) := by
  unfold execVddSlGood
  dsimp only
  repeat' split
  all_goals simp

@[simp] theorem execThermalLimit_keeps (e : ThermalEvent) (s : State) : s.Keeps (execThermalLimit e s) := by
  unfold execThermalLimit
  split <;> simp [ite_kept]

@[simp] theorem execFwStage_keeps (q : Fin 16) (tag : Fin 1024) (s : State) : s.Keeps (execFwStage q tag s) := by
  refine State.keeps_startPkt _ _ _ _ fun p t => State.fragment_kept _ _ _ _ _ fun b u => ?_
  split <;> simp

@[simp] theorem execFwVerify_keeps (q : Fin 16) (tag : Fin 1024) (s : State) : s.Keeps (execFwVerify q tag s) := by
  refine State.keeps_startPkt _ _ _ _ fun p t => ?_
  split <;> simp [ite_kept]

@[simp] theorem execFwProgramComplete_keeps (s : State) : s.Keeps (execFwProgramComplete s) := by
  unfold execFwProgramComplete
  dsimp only
  repeat' split
  all_goals simp

@[simp] theorem execFwActivate_keeps (q : Fin 16) (tag : Fin 1024) (s : State) : s.Keeps (execFwActivate q tag s) :=
  State.keeps_startPkt _ _ _ _ fun p t => by simp [ite_kept]

@[simp] theorem execOtpProgram_keeps (q : Fin 16) (tag : Fin 1024) (s : State) : s.Keeps (execOtpProgram q tag s) := by
  refine State.keeps_startPkt _ _ _ _ fun p t => ?_
  repeat' split
  all_goals simp

@[simp] theorem execReplyWrite_keeps (q : Fin 16) (s : State) : s.Keeps (execReplyWrite q s) := by
  unfold execReplyWrite
  dsimp only
  split <;> simp

/-! ### Presence -/

@[simp] theorem execTwinRoleCfg_keeps (q : Fin 16) (tag : Fin 1024) (s : State) : s.Keeps (execTwinRoleCfg q tag s) := by
  refine State.keeps_startPkt _ _ _ _ fun p t => ?_
  split <;> simp [ite_kept]

@[simp] theorem execPresenceDenied_keeps (sealBad : Bool) (disagree low : Nat) (seenHigh50 : Bool) (s : State) :
    s.Keeps (execPresenceDenied sealBad disagree low seenHigh50 s) := by
  unfold execPresenceDenied
  split <;> simp

@[simp] theorem execPresenceTimeout_keeps (s : State) : s.Keeps (execPresenceTimeout s) := by
  refine State.keeps_onExpiry _ _ fun t => ?_
  split <;> simp [ite_kept]

@[simp] theorem execPanelClear_keeps (s : State) : s.Keeps (execPanelClear s) := by
  refine State.keeps_onExpiry _ _ fun t => ?_
  split <;> simp [ite_kept]

/-! ### Twin -/

@[simp] theorem execBenjoLaneDown_keeps (lane : Fin 2) (s : State) : s.Keeps (execBenjoLaneDown lane s) := by
  simp [execBenjoLaneDown, ite_kept]

@[simp] theorem execPartnerLost_keeps (s : State) : s.Keeps (execPartnerLost s) := by
  simp [execPartnerLost]

@[simp] theorem execSafetyFrameLoss_keeps (s : State) : s.Keeps (execSafetyFrameLoss s) := by
  simp [execSafetyFrameLoss]

@[simp] theorem execSelfTestResult_keeps (own : Option Bool) (s : State) : s.Keeps (execSelfTestResult own s) := by
  simp [execSelfTestResult, ite_kept]

@[simp] theorem execProofSwapDue_keeps (s : State) : s.Keeps (execProofSwapDue s) := by
  unfold execProofSwapDue
  split
  · simp
  · exact State.keeps_onExpiry _ _ fun t => by simp [ite_kept]

@[simp] theorem execProofSwapNow_keeps (q : Fin 16) (tag : Fin 1024) (s : State) : s.Keeps (execProofSwapNow q tag s) := by
  refine State.keeps_startPkt _ _ _ _ fun p t => ?_
  dsimp only
  repeat' split
  all_goals simp

@[simp] theorem execProofSwap_keeps (s : State) : s.Keeps (execProofSwap s) := by
  unfold execProofSwap
  repeat' split
  all_goals simp

@[simp] theorem execResyncComplete_keeps (s : State) : s.Keeps (execResyncComplete s) := by
  unfold execResyncComplete
  repeat' split
  all_goals simp

@[simp] theorem execTwinStatus_keeps (q : Fin 16) (tag : Fin 1024) (s : State) : s.Keeps (execTwinStatus q tag s) :=
  State.keeps_startPkt _ _ _ _ fun p t => by simp

/-! ### Packet deadlines -/

/-- The row that judges a late packet is one of the rows above. -/
theorem rowOf_keeps (op : Nat) (q : Fin 16) (tag : Fin 1024) (s : State) : s.Keeps (rowOf op q tag s) := by
  unfold rowOf
  split <;> simp

@[simp] theorem execPacketDeadline_keeps (q : Fin 16) (tag : Fin 1024) (s : State) : s.Keeps (execPacketDeadline q tag s) := by
  unfold execPacketDeadline
  dsimp only
  split
  · simp
  · split
    next p _ =>
      split
      · obtain ⟨t, ht, hk⟩ := rowOf_keeps p.opcode q tag _
        rw [ht]
        simp [hk]
      · simp
    next => simp

/-! ### Every command -/

/-- The outcome is a next state with the queue and the elapsed time of `s`, no OTP bit cleared and a locked key hash kept. -/
def State.Goes (s : State) (o : Host.Outcome State Fault Refusal) : Prop := ∃ t, o = .next t ∧ s.Lasts t

theorem State.Keeps.goes {s : State} {o : Host.Outcome State Fault Refusal} (h : s.Keeps o) : s.Goes o :=
  let ⟨t, ht, hk⟩ := h
  ⟨t, ht, .of_kept hk⟩

theorem State.goes_next {s t : State} (h : s.Lasts t) : s.Goes (.next t) := ⟨t, rfl, h⟩

theorem State.goes_next_kept {s t : State} (h : t.kept = s.kept) : s.Goes (.next t) := State.goes_next (.of_kept h)

theorem State.goes_ite {s : State} {c : Prop} [Decidable c] {o o' : Host.Outcome State Fault Refusal} (h : s.Goes o)
    (h' : s.Goes o') : s.Goes (if c then o else o') := by
  split <;> assumption

/-- At the panel an accepted packet may program the OTP array; every other outcome leaves it (R60, R61, R403). -/
theorem execAcceptNRelease_goes (b : Press) (s : State) : s.Goes (execAcceptNRelease b s) := by
  unfold execAcceptNRelease
  split
  · exact State.goes_next (.refl s)
  · repeat refine State.goes_ite (State.goes_next_kept (by simp)) ?_
    split
    · exact State.goes_next_kept (s.closePresence_kept _)
    · exact State.goes_next ((State.Lasts.of_kept (s.closePresence_kept _)).trans (State.accept_lasts _ _))

theorem lasts_foldl {α : Type} (l : List α) (g : State → α → State) (s : State)
    (h : ∀ (t : State) x, t.Lasts (g t x)) : s.Lasts (l.foldl g s) := by
  induction l generalizing s with
  | nil => exact .refl s
  | cons a r ih => exact (h s a).trans (ih _)

/-- Writes held back by a supply caution are carried out at its end, OTP records among them. -/
theorem execSupplyCautionEnd_goes (s : State) : s.Goes (execSupplyCautionEnd s) := by
  refine State.goes_ite (State.goes_next (.refl s)) (State.goes_next (.trans (.of_kept (s.setSys_kept _ ?_))
    (lasts_foldl _ _ _ State.commitWrite_lasts)))
  rfl

/-- A COMMAND frame of the active can carry an accepted OTP_PROGRAM. -/
theorem execBenjoFrame_goes (lane : Fin 2) (bytes : List Byte) (s : State) : s.Goes (execBenjoFrame lane bytes s) := by
  have hup : s.Lasts (s.laneUp lane) := .of_kept (s.laneUp_kept lane)
  unfold execBenjoFrame
  dsimp only
  repeat refine State.goes_ite (State.goes_next_kept (by simp)) ?_
  exact State.goes_next ((hup.trans (.of_kept (State.setTwin_kept _ _))).trans (State.takeBenjo_lasts _ _ _))

/-- What every command does. -/
theorem exec_goes (c : Instr) (s : State) : s.Goes (exec c s) := by
  cases c with
  | acceptNRelease b => exact execAcceptNRelease_goes b s
  | supplyCautionEnd => exact execSupplyCautionEnd_goes s
  | benjoFrame lane bytes => exact execBenjoFrame_goes lane bytes s
  | tNop t | tMac t | tMpy t | tMac4 t | tMpy4 t | tClra t | tAdda t | tSha t | tLda t | tSth t | tStl t | tStg t | tAdd t
  | tSub t | tAdds t | tSubs t | tAnd t | tOr t | tXor t | tAsh t | tLsh t | tAbs t | tNeg t | tMin t | tMax t | tCls t
  | tCmp t | tSel t | tMov t | tMovi t | tAddi t | tModi t | tBxclr t | tBxupd t | tBr t | tCall t | tRet t | tDbnz t
  | tLoop t | tReti t | tSwi t =>
    exact State.goes_next_kept (s.tileOp_kept t _ _)
  | lSpmv p | lAxpy p | lDot p | lSdiv p | lBsolve p | lFactor p | lProj p | lCopy p | lOuter p | lInner p | lEnd p
  | lSync p | lWarm p | lEmit p =>
    exact State.goes_next_kept (s.laneOp_kept p _ _)
  | _ => exact State.Keeps.goes (by simp [exec])

/-- One TIME cycle leaves the OTP array. -/
theorem State.cycle_otp (s : State) : s.cycle.sys.otp = s.sys.otp := by
  have ht : s.tick.sys = s.sys := by
    unfold State.tick
    dsimp only
    split <;> rfl
  have hb := s.tick.byItself_kept
  simp only [State.kept, Prod.mk.injEq] at hb
  rw [State.cycle, hb.2.2, ht]

/-- Settles O3: every arm of `exec` answers a next state. -/
theorem everyCommandAnswers : Obligations.EveryCommandAnswers := by
  unfold Obligations.EveryCommandAnswers
  intro c s
  obtain ⟨t, ht, -⟩ := exec_goes c s
  exact ⟨t, ht⟩

/-- Settles O5: an idle step leaves the OTP array, and a command sets bits of it at most. -/
theorem otpBitsOnlyRise : Obligations.OtpBitsOnlyRise := by
  unfold Obligations.OtpBitsOnlyRise
  intro s t hstep
  unfold step at hstep
  split at hstep
  · cases hstep
    exact fun w i hb => s.cycle_otp ▸ hb
  next c rest _ =>
    obtain ⟨u, hu, hlast⟩ := exec_goes c (s.setPending rest)
    cases hu.symm.trans hstep
    exact hlast.rises

end Sys2Proof.Machine
end

section
/-! SUPPORT. Steps, and the commands of the host, the motion pipeline and the loop engines (R67, R72 to R76, R89, R152, R154,
R155, R190, R200, R410). -/

namespace Sys2Proof.Machine

/-- Settles O1: the second branch of `step`. -/
theorem stepRunsFront : Obligations.StepRunsFront := by
  unfold Obligations.StepRunsFront
  intro s c rest h
  rw [step, h]

/-! ### The host's commands -/

/-- Settles O11: each clause fixes what ABORT finds, or the range of the parameter, and so the path through its row. -/
theorem hostCommandsComplete : Obligations.HostCommandsComplete := by
  unfold Obligations.HostCommandsComplete
  refine ⟨completes_of (fun _ _ _ => rfl) fun p t _ => rfl, completes_of (fun _ _ _ => rfl) fun p t _ => rfl,
    fun o => completes_of (fun _ _ _ => rfl) fun p t ⟨ho, hst, hgate⟩ => ?_,
    completes_of (fun _ _ _ => rfl) fun p t ⟨hnone, hwait⟩ => ?_,
    completes_of (fun _ _ _ => rfl) fun p t ⟨hnone, hwait⟩ => ?_,
    fun o => completes_of (fun _ _ _ => rfl) fun p t ⟨ho, h⟩ => ?_,
    completes_of (fun _ _ _ => rfl) fun p t ⟨h15, hown⟩ => if_neg (not_or_intro (Nat.not_lt.2 h15) hown),
    completes_of (fun _ _ _ => rfl) fun p t h => if_pos h,
    completes_of (fun _ _ _ => rfl) fun p t ⟨h1, hm⟩ => if_neg (not_badNumber h1 hm),
    completes_of (fun _ _ _ => rfl) fun p t h => if_pos h⟩
  · simp only [ho, hst, hgate, decide_true, Bool.not_false, Bool.and_self, if_true]
  · simp only [hnone, hwait, if_true]
  · simp only [hnone, hwait, Bool.false_eq_true, if_false]
  · simp only [ho]
    exact if_neg (by rcases h with h | h <;> simp [h])

/-! ### SEG_PUSH (R74, R152, R154, R155) -/

theorem segRecords_length (n : Nat) (bs : List Byte) : (segRecords n bs).length = n := by
  induction n generalizing bs with
  | zero => rfl
  | succ n ih => exact congrArg Nat.succ (ih _)

section SegPush
variable {s : State} {p : Pkt}

theorem State.segPushCheck_noChain (h : s.theCell.chainRec (p.p0.toNat % 16) = none) :
    s.segPushCheck p = some (badAt atP0) := by
  simp only [State.segPushCheck, h]

variable {ch : ChainRec} (hch : s.theCell.chainRec (p.p0.toNat % 16) = some ch)
include hch

theorem State.segPushCheck_shed (h : s.motion.chains[f16 (p.p0.toNat % 16)].state = .shed) :
    s.segPushCheck p = some ⟨stRefused, 0, 0⟩ := by
  simp only [State.segPushCheck, hch, h, if_true]

variable (hst : s.motion.chains[f16 (p.p0.toNat % 16)].state ≠ .shed)
include hst

theorem State.segPushCheck_badCount (h : p.p1.toNat = 0 ∨ 256 < p.p1.toNat ∨ p.payload.length ≠ 96 * p.p1.toNat) :
    s.segPushCheck p = some (badAt atP1 (ident 1 (p.p0.toNat % 16))) := by
  simp only [State.segPushCheck, hch, hst, if_false, h, if_true]

variable (h1 : 1 ≤ p.p1.toNat) (h256 : p.p1.toNat ≤ 256) (hlen : p.payload.length = 96 * p.p1.toNat)
include h1 h256 hlen

theorem State.segPushCheck_badRecord {o : Nat}
    (ho : segFirstBad s.theCell ch 0 (segRecords p.p1.toNat p.payload) = some o) :
    s.segPushCheck p = some (badAt (w32 o) (ident 1 (p.p0.toNat % 16))) := by
  have hn : ¬ (p.p1.toNat = 0 ∨ 256 < p.p1.toNat ∨ p.payload.length ≠ 96 * p.p1.toNat) := by omega
  simp only [State.segPushCheck, hch, hst, if_false, hn, ho]

/-- Records that keep every rule are judged by the free entries. -/
theorem State.segPushCheck_goodRecords (ho : segFirstBad s.theCell ch 0 (segRecords p.p1.toNat p.payload) = none) :
    s.segPushCheck p = if 256 - s.motion.chains[f16 (p.p0.toNat % 16)].queue.length < p.p1.toNat
      then some ⟨stBusy, 0, w32 (256 - s.motion.chains[f16 (p.p0.toNat % 16)].queue.length)⟩ else none := by
  have hn : ¬ (p.p1.toNat = 0 ∨ 256 < p.p1.toNat ∨ p.payload.length ≠ 96 * p.p1.toNat) := by omega
  simp only [State.segPushCheck, hch, hst, if_false, hn, ho]

end SegPush

/-- A push that passes names at least one segment and finds an entry free for each. -/
theorem State.segPushCheck_passes {s : State} {p : Pkt} (h : s.segPushCheck p = none) :
    1 ≤ p.p1.toNat ∧ p.p1.toNat ≤ 256 - s.motion.chains[f16 (p.p0.toNat % 16)].queue.length := by
  cases hch : s.theCell.chainRec (p.p0.toNat % 16) with
  | none => exact absurd (h.symm.trans (State.segPushCheck_noChain hch)) nofun
  | some ch =>
    by_cases hst : s.motion.chains[f16 (p.p0.toNat % 16)].state = .shed
    · exact absurd (h.symm.trans (State.segPushCheck_shed hch hst)) nofun
    by_cases hn : p.p1.toNat = 0 ∨ 256 < p.p1.toNat ∨ p.payload.length ≠ 96 * p.p1.toNat
    · exact absurd (h.symm.trans (State.segPushCheck_badCount hch hst hn)) nofun
    have h1 : 1 ≤ p.p1.toNat := by omega
    have h256 : p.p1.toNat ≤ 256 := by omega
    have hlen : p.payload.length = 96 * p.p1.toNat := by omega
    cases ho : segFirstBad s.theCell ch 0 (segRecords p.p1.toNat p.payload) with
    | some o => exact absurd (h.symm.trans (State.segPushCheck_badRecord hch hst h1 h256 hlen ho)) nofun
    | none =>
      rw [State.segPushCheck_goodRecords hch hst h1 h256 hlen ho] at h
      split at h
      · cases h
      · exact ⟨h1, Nat.not_lt.1 ‹_›⟩

/-- Settles O17: the checks of SEG_PUSH in their order. -/
theorem segPushChecks : Obligations.SegPushChecks := by
  unfold Obligations.SegPushChecks
  intro s p ch
  refine ⟨State.segPushCheck_noChain, fun hch => ⟨State.segPushCheck_shed hch, State.segPushCheck_badCount hch,
    fun hst h1 h256 hlen => ⟨fun o => State.segPushCheck_badRecord hch hst h1 h256 hlen,
      State.segPushCheck_goodRecords hch hst h1 h256 hlen⟩⟩, fun h => ?_⟩
  obtain ⟨h1, hfree⟩ := State.segPushCheck_passes h
  rw [List.length_append, segRecords_length]
  omega

/-- What SEG_PUSH does with its started packet (R74). -/
def segPushEffect (p : Pkt) (t : State) : State :=
  match t.segPushCheck p with
  | some v => t.finish p v
  | none =>
    let c := f16 (p.p0.toNat % 16)
    let u := t.setChain c { t.motion.chains[c] with
      queue := t.motion.chains[c].queue ++ (segRecords p.p1.toNat p.payload).map segStored }
    u.finishOk p p.p1 (w32 (256 - u.motion.chains[c].queue.length))

theorem segPushEffect_refused {p : Pkt} {t : State} {v : Verdict} (h : t.segPushCheck p = some v) :
    segPushEffect p t = t.finish p v := by
  simp only [segPushEffect, h]

/-- A push that passes appends its records and answers the count and the free entries. -/
theorem segPushEffect_pushes {p : Pkt} {t : State} (h : t.segPushCheck p = none) :
    segPushEffect p t =
      let c := f16 (p.p0.toNat % 16)
      let u := t.setChain c { t.motion.chains[c] with
        queue := t.motion.chains[c].queue ++ (segRecords p.p1.toNat p.payload).map segStored }
      u.finishOk p p.p1 (w32 (256 - u.motion.chains[c].queue.length)) := by
  simp only [segPushEffect, h]

/-- SEG_PUSH that begins, and is the first of its chain to start, has its effect (R152). -/
theorem exec_segPush_begins {q : Fin 16} {tag : Fin 1024} {s : State} {p : Pkt} (hb : s.Begins q tag 0x20 p)
    (hfirst : s.segPushFirst p = true) :
    exec (.segPush q tag) s = .next (s.passOn q p (segPushEffect p.begun (s.begun q p))) := by
  rw [← State.startPkt_begins hb]
  change execSegPush q tag s = _
  unfold execSegPush
  rw [hb.1]
  simp only [hfirst, Bool.not_true, Bool.false_eq_true, if_false]
  rfl

/-! ### The other motion commands -/

/-- Chains may resume where none of them is under a brake test and none is refused (R75, R337). -/
theorem mayResume_iff {cs : List Nat} {test : Nat → Option BrkTest} {refused : Nat → Bool} :
    cs.all (fun c => (test c).isNone && !refused c) = true ↔
      cs.any (fun c => (test c).isSome) = false ∧ cs.any refused = false := by
  simp only [List.all_eq_true, List.any_eq_false, Bool.and_eq_true, Bool.not_eq_true', Bool.not_eq_true,
    Option.isNone_iff_eq_none, Option.isSome_eq_false_iff]
  exact forall₂_and

/-- Settles O16: SEG_PUSH by the outcome of its checks; the other rows judge mask, parameter and chains in this order. -/
theorem motionCommandsComplete : Obligations.MotionCommandsComplete := by
  unfold Obligations.MotionCommandsComplete
  refine ⟨fun q tag s p hb hfirst => ?_,
    completes_of (fun _ _ _ => rfl) fun p t ⟨hmask, h2⟩ => ?_,
    completes_of (fun _ _ _ => rfl) fun p t hmask => if_pos (by simp [hmask]),
    completes_of (fun _ _ _ => rfl) fun p t ⟨hmask, h2⟩ => ?_,
    completes_of (fun _ _ _ => rfl) fun p t ⟨hmask, hall⟩ => ?_,
    completes_of (fun _ _ _ => rfl) fun p t hmask => if_pos (by simp [hmask]),
    completes_of (fun _ _ _ => rfl) fun p t ⟨hmask, htest⟩ => ?_,
    completes_of (fun _ _ _ => rfl) fun p t ⟨hmask, htest, hrefused⟩ => ?_,
    fun ch => completes_of (fun _ _ _ => rfl) fun p t hch => ?_,
    completes_of (fun _ _ _ => rfl) fun p t hch => ?_,
    completes_of (fun _ _ _ => rfl) fun p t ⟨hmask, hfeed⟩ => ?_,
    completes_of (fun _ _ _ => rfl) fun p t hmask => if_pos (by simp [hmask]),
    completes_of (fun _ _ _ => rfl) fun p t ⟨hmask, hfeed⟩ => ?_⟩
  · rw [exec_segPush_begins hb hfirst]
    exact ⟨fun v hv => by rw [segPushEffect_refused hv],
      fun hok => congrArg (fun u => (Host.Outcome.next (s.passOn q p u) : Host.Outcome State Fault Refusal))
        (segPushEffect_pushes hok)⟩
  · simp only [hmask, Nat.not_lt.2 h2, Bool.not_true, Bool.false_eq_true, if_false]
  · simp only [hmask, h2, Bool.not_true, Bool.false_eq_true, if_false, if_true]
  · obtain ⟨htest, hrefused⟩ := mayResume_iff.1 hall
    simp only [hmask, htest, hrefused, Bool.not_true, Bool.false_eq_true, if_false]
  · simp only [hmask, htest, Bool.not_true, Bool.false_eq_true, if_false, if_true]
  · simp only [hmask, htest, hrefused, Bool.not_true, Bool.false_eq_true, if_false, if_true]
  · simp only [hch]
  · simp only [hch]
  · simp only [hmask, Nat.not_lt.2 hfeed, Bool.not_true, Bool.false_eq_true, if_false]
  · simp only [hmask, hfeed, Bool.not_true, Bool.false_eq_true, if_false, if_true]

/-! ### The loop commands -/

/-- Settles O18: each clause fixes the loop and the checks of its row up to the one that decides. -/
theorem loopCommandsComplete : Obligations.LoopCommandsComplete := by
  unfold Obligations.LoopCommandsComplete
  refine ⟨fun i l => completes_of (fun _ _ _ => rfl) fun p t ⟨hl, hlen, hok⟩ => ?_,
    completes_of (fun _ _ _ => rfl) fun p t hl => ?_,
    fun i l => completes_of (fun _ _ _ => rfl) fun p t ⟨hl, hlen⟩ => ?_,
    fun i l o => completes_of (fun _ _ _ => rfl) fun p t ⟨hl, hlen, hbad⟩ => ?_,
    completes_of (fun _ _ _ => rfl) fun p t hok => ?_,
    fun v => completes_of (fun _ _ _ => rfl) fun p t hv => ?_,
    completes_of (fun _ _ _ => rfl) fun p t ⟨h7, h31, h12, hidle⟩ => ?_,
    completes_of (fun _ _ _ => rfl) fun p t h => if_pos h,
    completes_of (fun _ _ _ => rfl) fun p t ⟨h7, h31, h12⟩ => ?_,
    completes_of (fun _ _ _ => rfl) fun p t ⟨h7, h31, h12, hidle⟩ => ?_,
    fun i l e => completes_of (fun _ _ _ => rfl) fun p t ⟨hl, he⟩ => ?_,
    completes_of (fun _ _ _ => rfl) fun p t hl => ?_⟩
  · simp only [hl, hlen, hok, ne_eq, not_true_eq_false, if_false]
  · simp only [hl]
  · simp only [hl, hlen, ne_eq, not_false_eq_true, if_true]
  · simp only [hl, hlen, hbad, ne_eq, not_true_eq_false, if_false]
  · simp only [hok]
  · simp only [hv]
  · simp only [h7, h31, Nat.not_le.2 h12, hidle, ne_eq, not_true_eq_false, or_self, if_false]
  · simp only [h7, h31, h12, ne_eq, not_true_eq_false, or_self, if_false, if_true]
  · simp only [h7, h31, Nat.not_le.2 h12, hidle, ne_eq, not_true_eq_false, not_false_eq_true, or_self, if_false, if_true]
  · simp only [hl, he]
  · simp only [hl]

end Sys2Proof.Machine
end

section
/-! SUPPORT. The commands of the points, cell time, the rings, the CAN controllers, the twin and the parameter pages (R80, R82 to
R85, R87, R94). -/

namespace Sys2Proof.Machine

/-! ### POINT_READ, POINT_FORCE, POINT_WRITE -/

section PointCommand
variable {p : Pkt} {t : State} {force : Bool}

theorem State.pointCommand_badLength (h : p.payload.length ≠ 8 * p.p0.toNat) :
    t.pointCommand p force = t.finish p (badAt atP0) := if_pos h

variable (hlen : p.payload.length = 8 * p.p0.toNat)
include hlen

theorem State.pointCommand_badRecord {v : Verdict}
    (h : firstVerdict (t.pointRecBad force) (numbered 0 (chunks 8 p.p0.toNat p.payload)) = some v) :
    t.pointCommand p force = t.finish p v := by
  simp only [State.pointCommand, hlen, ne_eq, not_true_eq_false, if_false, h]

/-- Records that pass their checks wait for the swap that applies them together (R80, R299). -/
theorem State.pointCommand_waits
    (h : firstVerdict (t.pointRecBad force) (numbered 0 (chunks 8 p.p0.toNat p.payload)) = none) :
    t.pointCommand p force = t.setNibble { t.nibble with cmds := t.nibble.cmds ++ [⟨p.queue, p.tag, force,
      t.theCell.allFast (chunks 8 p.p0.toNat p.payload),
      (chunks 8 p.p0.toNat p.payload).map (fun r => (u32 r 0, BitVec.ofNat 2 (byteAt r 4), byteAt r 5))⟩] } := by
  simp only [State.pointCommand, hlen, ne_eq, not_true_eq_false, if_false, h]

end PointCommand

/-- Settles O23: POINT_READ judges its range; the other two are one command with a flag. -/
theorem pointCommandsComplete : Obligations.PointCommandsComplete := by
  unfold Obligations.PointCommandsComplete
  exact ⟨completes_of (fun _ _ _ => rfl) fun p t ⟨h0, h1, hspan⟩ =>
      (if_neg (Nat.not_lt.2 h0)).trans (if_neg (by omega)),
    completes_of (fun _ _ _ => rfl) fun p t h => if_pos h,
    completes_of (fun _ _ _ => rfl) fun p t ⟨h0, h⟩ => (if_neg (Nat.not_lt.2 h0)).trans (if_pos h),
    completes_of (fun _ _ _ => rfl) fun p t h => State.pointCommand_badLength h,
    fun v => completes_of (fun _ _ _ => rfl) fun p t ⟨hlen, h⟩ => State.pointCommand_badRecord hlen h,
    completes_of (fun _ _ _ => rfl) fun p t ⟨hlen, h⟩ => State.pointCommand_waits hlen h,
    completes_of (fun _ _ _ => rfl) fun p t h => State.pointCommand_badLength h,
    fun v => completes_of (fun _ _ _ => rfl) fun p t ⟨hlen, h⟩ => State.pointCommand_badRecord hlen h,
    completes_of (fun _ _ _ => rfl) fun p t ⟨hlen, h⟩ => State.pointCommand_waits hlen h⟩

/-! ### Cell time -/

/-- What TIME_SET does once its checks have passed (R94). -/
def timeSetTo (p : Pkt) (t : State) : State :=
  let v := t.tbEnter .freerun
  (v.setTime { v.time with
    cellNs := leAt p.payload 0 6 * 1000000000 + u32 p.payload 8, lockHeld := false, slew := 0, skipped := false }).finishOk p

theorem timeSet_completes :
    Completes Instr.timeSet 0x81 (fun p t => t.timeSetCheck p = none) timeSetTo :=
  completes_of (fun _ _ _ => rfl) fun p t h => by simp only [h, timeSetTo]

/-- Settles O25: each clause fixes the check of its row. -/
theorem timeCommandsComplete : Obligations.TimeCommandsComplete := by
  unfold Obligations.TimeCommandsComplete
  exact ⟨completes_of (fun _ _ _ => rfl) fun p t _ => rfl, timeSet_completes,
    fun v => completes_of (fun _ _ _ => rfl) fun p t h => by simp only [h],
    completes_of (fun _ _ _ => rfl) fun p t h => if_neg (Nat.not_lt.2 h),
    completes_of (fun _ _ _ => rfl) fun p t h => if_pos h,
    completes_of (fun _ _ _ => rfl) fun p t h => by simp only [h],
    fun v => completes_of (fun _ _ _ => rfl) fun p t h => by simp only [h],
    completes_of (fun _ _ _ => rfl) fun p t _ => rfl⟩

/-! ### A TIME_SET of the active, on the standby (R94, R369) -/

theorem State.repliesOnly.time {s t : State} (h : s.repliesOnly t) : t.time = s.time := by
  obtain ⟨_, _, _, _, _, rfl⟩ := h
  rfl

theorem timeSetTo_cellNs (p : Pkt) (t : State) :
    (timeSetTo p t).time.cellNs = leAt p.payload 0 6 * 1000000000 + u32 p.payload 8 :=
  congrArg TimeSt.cellNs (State.finishOk_repliesOnly _ p 0 0 []).time

/-- A command that the active passed on leaves the standby's cell time, where that is the time the active applied it at. -/
theorem State.passOn_cellNs_partner {s t : State} {q : Fin 16} {p : Pkt} (ho : p.origin = .partner)
    (ht : t.time.cellNs = p.bound) : (s.passOn q p t).time.cellNs = s.time.cellNs := by
  simp only [State.passOn, ho, ht, if_true, State.setTime_time]

/-- TIME_SET to 0, which the active applied at its cell time 0. -/
def timeSetOfActive : Pkt where
  opcode := 0x81
  ordered := false
  fence := false
  tag := partnerTag 0
  queue := 0
  qbyte := 0
  cls := 0
  deadline := 0
  p0 := 0
  p1 := 0
  seq := 0
  payload := List.replicate 12 0
  arrival := 0
  index := 0
  credit := false
  origin := .partner
  phase := .accepted

/-- The command step of core 0 for that command. -/
def timeSetItem : WorkItem where
  kind := .commandStep
  cls := 0
  flowType := .none
  background := false
  flow := 0
  fseq := 0
  target := .packet 0 (partnerTag 0)
  ctx := 0

/-- A standby without a time source at cell time 1 ns, with that command in flight and its command step in the current slot of
core 0. -/
def standbyAtTimeSet : State :=
  { State.reset with
    host := { State.reset.host with queues := State.reset.host.queues.set 0 { inflight := [timeSetOfActive] } },
    disp := { State.reset.disp with workers := State.reset.disp.workers.set 0 { cur := some (timeSetItem, 0) } },
    twin := { State.reset.twin with state := .paired, active := false },
    time := { State.reset.time with cellNs := 1, ctrl := 0x26006400 } }

theorem standbyAtTimeSet_begins : standbyAtTimeSet.Begins 0 0 0x81 timeSetOfActive := ⟨rfl, rfl⟩

theorem standbyAtTimeSet_check : standbyAtTimeSet.timeSetCheck timeSetOfActive = none := by decide

/-- Refutes O26: on a standby, a TIME_SET of the active to the cell time at which the active applied it is taken for no change
of the clock, and the standby goes on with its own cell time. -/
theorem not_timeSetChecks : ¬ Obligations.TimeSetChecks := by
  unfold Obligations.TimeSetChecks
  rintro ⟨-, h⟩
  obtain ⟨t, ht, -, -, -, hcell, -⟩ := h 0 0 standbyAtTimeSet timeSetOfActive standbyAtTimeSet_begins
    standbyAtTimeSet_check
  have hc := timeSet_completes 0 0 standbyAtTimeSet timeSetOfActive standbyAtTimeSet_begins rfl
  cases hc.symm.trans ht
  rw [State.passOn_cellNs_partner rfl (timeSetTo_cellNs _ _)] at hcell
  exact absurd hcell (by decide)

/-! ### The rings -/

/-- Settles O27: RING_STATUS and RING_RERANGE judge the ring and the hop; NODE_READMIT looks its node up. -/
theorem ringCommandsComplete : Obligations.RingCommandsComplete := by
  unfold Obligations.RingCommandsComplete
  refine ⟨completes_of (fun _ _ _ => rfl) fun p t h => if_neg (Nat.not_lt.2 h),
    completes_of (fun _ _ _ => rfl) fun p t h => if_pos h,
    completes_of (fun _ _ _ => rfl) fun p t ⟨hring, hhop⟩ => ?_,
    completes_of (fun _ _ _ => rfl) fun p t h => if_pos h,
    completes_of (fun _ _ _ => rfl) fun p t ⟨hring, h⟩ => (if_neg (Nat.not_lt.2 hring)).trans (if_pos h),
    fun rec => completes_of (fun _ _ _ => rfl) fun p t ⟨hnode, hsched, hstate⟩ => ?_,
    completes_of (fun _ _ _ => rfl) fun p t h => ?_,
    fun rec => completes_of (fun _ _ _ => rfl) fun p t ⟨hnode, hbad⟩ => ?_⟩
  · refine (if_neg (Nat.not_lt.2 hring)).trans (if_neg ?_)
    rintro ⟨hne, h⟩
    obtain ⟨h1, hle, hin⟩ := hhop.resolve_left hne
    obtain h0 | h254 | hnot := h
    · omega
    · omega
    · exact hnot hin
  · simp only [hnode, hsched, hstate, decide_false, Bool.or_self, Bool.false_eq_true, if_false]
  · simp only [h]
  · simp only [hnode, Bool.or_eq_true, decide_eq_true_eq, hbad, if_true]

/-! ### The CAN controllers -/

/-- Settles O28: each clause fixes the buffer and the checks of its row up to the one that decides. -/
theorem canCommandsComplete : Obligations.CanCommandsComplete := by
  unfold Obligations.CanCommandsComplete
  refine ⟨completes_of (fun _ _ _ => rfl) fun p t ⟨huse, hlen, hok, htx⟩ => ?_,
    completes_of (fun _ _ _ => rfl) fun p t h => if_pos h,
    completes_of (fun _ _ _ => rfl) fun p t ⟨huse, hlen⟩ => (if_neg (not_not.2 huse)).trans (if_pos hlen),
    fun o => completes_of (fun _ _ _ => rfl) fun p t ⟨huse, hlen, hbad⟩ => ?_,
    completes_of (fun _ _ _ => rfl) fun p t ⟨huse, hlen, hok, htx⟩ => ?_,
    completes_of (fun _ _ _ => rfl) fun p t ⟨hown, htx, hoff⟩ => ?_,
    completes_of (fun _ _ _ => rfl) fun p t ⟨htx, hheld⟩ => ?_,
    completes_of (fun _ _ _ => rfl) fun p t h => if_pos (Option.isNone_iff_eq_none.2 h),
    fun f w => completes_of (fun _ _ _ => rfl) fun p t ⟨huse, hfull, hlock, hframe⟩ => ?_,
    completes_of (fun _ _ _ => rfl) fun p t ⟨hlen, hok, hfree⟩ => ?_,
    completes_of (fun _ _ _ => rfl) fun p t h => if_pos h,
    fun o => completes_of (fun _ _ _ => rfl) fun p t ⟨hlen, hbad⟩ => ?_,
    completes_of (fun _ _ _ => rfl) fun p t ⟨hlen, hok, hwait⟩ => ?_⟩
  · simp only [huse, hlen, hok, htx, ne_eq, not_true_eq_false, if_false, List.head?_nil, Option.isSome_none,
      Bool.false_eq_true]
  · simp only [huse, hlen, hbad, ne_eq, not_true_eq_false, if_false]
  · simp only [huse, hlen, hok, ne_eq, not_true_eq_false, if_false, List.head?_nil, Option.isSome_iff_ne_none.2 htx, if_true]
  · refine (if_neg (mt Option.isNone_iff_eq_none.1 htx)).trans (if_neg ?_)
    obtain hidle | ⟨o, hbus⟩ := Option.eq_none_or_eq_some t.can[canOf p].onBus
    · simp only [hown, hidle, decide_false, Bool.or_self, Bool.false_eq_true, not_false_eq_true]
    · simp only [hown, hbus, beq_eq_false_iff_ne.2 (hoff o hbus), decide_false, Bool.or_self, Bool.false_eq_true,
        not_false_eq_true]
  · refine (if_neg (mt Option.isNone_iff_eq_none.1 htx)).trans (if_pos ?_)
    obtain hown | ⟨o, hbus, hbuf⟩ := hheld
    · rw [decide_eq_true hown, Bool.true_or]
    · simp only [hbus, hbuf, beq_self_eq_true, Bool.or_true]
  · simp only [huse, hfull, hlock, hframe, ne_eq, not_true_eq_false, if_false, Bool.not_true, Option.isSome_none,
      Bool.or_self, Bool.false_eq_true]
  · simp only [hlen, hok, hfree, ne_eq, not_true_eq_false, if_false, List.head?_nil, List.isEmpty_nil, Bool.not_true,
      Bool.false_eq_true]
  · simp only [hlen, hbad, ne_eq, not_true_eq_false, if_false]
  · simp only [hlen, hok, ne_eq, not_true_eq_false, if_false, List.head?_nil, List.isEmpty_eq_false_iff.2 hwait,
      Bool.not_false, if_true]

/-! ### The twin -/

/-- The active of a pair takes PROOF_SWAP_NOW while none is outstanding (R378). -/
theorem swapNow_free {t : State} (hact : t.pairActive = true) (hfree : t.twin.swapReply = none) :
    ¬ (!t.pairActive || t.twin.swapReply.isSome) = true := by
  simp [hact, hfree]

/-- Settles O29: each clause fixes the checks of its row; PROOF_SWAP_NOW also asks whether its swap is announced or blocked. -/
theorem twinCommandsComplete : Obligations.TwinCommandsComplete := by
  unfold Obligations.TwinCommandsComplete
  refine ⟨completes_of (fun _ _ _ => rfl) fun p t _ => rfl,
    fun v => completes_of (fun _ _ _ => rfl) fun p t h => by simp only [h],
    completes_of (fun _ _ _ => rfl) fun p t ⟨hok, hcell, hmode⟩ => ?_,
    completes_of (fun _ _ _ => rfl) fun p t ⟨hok, hkeep⟩ => ?_,
    completes_of (fun _ _ _ => rfl) fun p t ⟨hown, hbusy⟩ => (if_neg hown).trans (if_pos ?_),
    completes_of (fun _ _ _ => rfl) fun p t h => if_pos h,
    completes_of (fun _ _ _ => rfl) fun p t ⟨hown, hact, hfree, htick⟩ => ?_,
    completes_of (fun _ _ _ => rfl) fun p t ⟨hown, hact, hfree, htick, hblock⟩ => ?_,
    completes_of (fun _ _ _ => rfl) fun p t ⟨hown, hact, hfree, htick, hblock⟩ => ?_⟩
  · simp only [hok, hcell, hmode, ne_eq, not_false_eq_true, decide_true, Bool.and_self, if_true]
  · have hpass : (t.cellOn && decide (byteAt p.payload 0 ≠ fld t.twin.cfg 31 30)) = false := by
      obtain hoff | hmode := hkeep
      · rw [hoff, Bool.false_and]
      · rw [decide_eq_false (not_not.2 hmode), Bool.and_false]
    simp only [hok, hpass, Bool.false_eq_true, if_false]
  · simpa only [Bool.or_eq_true, Bool.not_eq_true', Option.isSome_iff_ne_none] using hbusy
  · exact (if_neg hown).trans ((if_neg (swapNow_free hact hfree)).trans (if_pos (Option.isSome_iff_ne_none.2 htick)))
  · exact (if_neg hown).trans ((if_neg (swapNow_free hact hfree)).trans
      ((if_neg (by rw [State.setTwin_twin, htick]; decide)).trans (if_pos hblock)))
  · exact (if_neg hown).trans ((if_neg (swapNow_free hact hfree)).trans
      ((if_neg (by rw [State.setTwin_twin, htick]; decide)).trans (if_neg (Bool.eq_false_iff.1 hblock))))

/-! ### The parameter pages -/

/-- Settles O31: the location decides first, then the length and the words of a write. -/
theorem parameterCommandsComplete : Obligations.ParameterCommandsComplete := by
  unfold Obligations.ParameterCommandsComplete
  exact ⟨fun v => completes_of (fun _ _ _ => rfl) fun p t h => by simp only [h],
    completes_of (fun _ _ _ => rfl) fun p t h => by simp only [h],
    fun v => completes_of (fun _ _ _ => rfl) fun p t h => by simp only [h],
    completes_of (fun _ _ _ => rfl) fun p t ⟨hat, hlen⟩ => by simp only [hat, hlen, ne_eq, not_false_eq_true, if_true],
    fun v => completes_of (fun _ _ _ => rfl) fun p t ⟨hat, hlen, hbad⟩ => by
      simp only [hat, hlen, hbad, ne_eq, not_true_eq_false, if_false],
    completes_of (fun _ _ _ => rfl) fun p t ⟨hat, hlen, hok⟩ => by
      simp only [hat, hlen, hok, ne_eq, not_true_eq_false, if_false]⟩

end Sys2Proof.Machine
end

section
/-! SUPPORT. The events of the CAN controllers and of the twin link (R84, R85, R367 to R394). -/

namespace Sys2Proof.Machine

/-! ### The events of a CAN controller -/

section CanEvent
variable (n : Fin 4) (s : State)

theorem exec_canFrameReceived (f : CanFrame) (sof : DWord) :
    exec (.canFrameReceived n f sof) s = execCanFrameReceived n f sof s := rfl
theorem exec_canLockTimeout (b : Fin 64) : exec (.canLockTimeout n b) s = execCanLockTimeout n b s := rfl
theorem exec_canSofOpportunity : exec (.canSofOpportunity n) s = execCanSofOpportunity n s := rfl
theorem exec_canArbitrationEnd (won : Bool) : exec (.canArbitrationEnd n won) s = execCanArbitrationEnd n won s := rfl
theorem exec_canFrameComplete : exec (.canFrameComplete n) s = execCanFrameComplete n s := rfl
theorem exec_canBusError (e : CanError) (lec : Fin 7) : exec (.canBusError n e lec) s = execCanBusError n e lec s := rfl

end CanEvent

section CanEventCase
variable {n : Fin 4} {s : State}

/-- A frame that the controller cannot take changes nothing. -/
theorem exec_canFrameReceived_ignored {f : CanFrame} (sof : DWord)
    (h : s.can[n].onLine = false ∨ (f.fd = true ∧ bitAt s.can[n].ctrl 29 = false)) :
    exec (.canFrameReceived n f sof) s = .next s := by
  rw [exec_canFrameReceived]
  refine if_pos ?_
  simpa only [Bool.or_eq_true, Bool.and_eq_true, Bool.not_eq_true'] using h

theorem exec_canFrameReceived_taken {f : CanFrame} (sof : DWord) (hon : s.can[n].onLine = true)
    (hfd : f.fd = false ∨ bitAt s.can[n].ctrl 29 = true) :
    exec (.canFrameReceived n f sof) s = .next ((((s.setCanN n { s.can[n] with
      recN := recAfterGood s.can[n].recN s.free }).nextFree.canStore n f sof).canConfine n).canShare n 0 0 []) := by
  rw [exec_canFrameReceived]
  refine if_neg ?_
  rcases hfd with h | h <;> simp only [hon, h, Bool.not_true, Bool.false_and, Bool.and_false, Bool.or_self,
    Bool.false_eq_true, not_false_eq_true]

theorem exec_canLockTimeout_early {b : Fin 64} (h : ∀ t, s.can[n].bufs[b].lock = some t → s.now < t + 10000000) :
    exec (.canLockTimeout n b) s = .next s := by
  rw [exec_canLockTimeout, execCanLockTimeout]
  split
  next t ht => exact if_neg (Nat.not_le.2 (h t ht))
  next => rfl

/-- No frame starts on a bus that is not idle, nor from a controller that may not transmit or has nothing pending. -/
theorem exec_canSofOpportunity_idle (h : s.can[n].onLine = false ∨ s.can[n].mode ≠ 1 ∨ s.isStandby = true ∨
    s.can[n].onBus ≠ none ∨ bestKey s.can[n].waiting = none) : exec (.canSofOpportunity n) s = .next s := by
  rw [exec_canSofOpportunity, execCanSofOpportunity]
  split
  · rfl
  next hmay =>
    simp only [Bool.or_eq_true, Bool.not_eq_true', decide_eq_true_eq, Option.isSome_iff_ne_none, not_or] at hmay
    obtain ⟨⟨⟨hon, hmode⟩, hstandby⟩, hbus⟩ := hmay
    have hnone : bestKey s.can[n].waiting = none := by tauto
    simp only [hnone]

/-- A bus error of a controller off the bus, without an error code, or of a part that it does not play, is none. -/
theorem exec_canBusError_none {e : CanError} {lec : Fin 7} (h : s.can[n].onLine = false ∨ lec.val = 0 ∨
    (e = .transmitter ∧ s.can[n].onBus = none) ∨ (e ≠ .transmitter ∧ s.can[n].onBus ≠ none)) :
    exec (.canBusError n e lec) s = .next s := by
  rw [exec_canBusError]
  refine if_pos ?_
  obtain h | h | ⟨he, hbus⟩ | ⟨he, hbus⟩ := h
  · simp only [h, Bool.not_false, Bool.true_or]
  · simp only [h, decide_true, Bool.or_true, Bool.true_or]
  · simp only [he, hbus, decide_true, Option.isSome_none, Bool.bne_false, Bool.or_true]
  · simp only [he, Option.isSome_iff_ne_none.2 hbus, decide_false, Bool.bne_true, Bool.not_false, Bool.or_true]

end CanEventCase

/-- Settles O52: each event has one clause per branch of its row. -/
theorem canEventsComplete : Obligations.CanEventsComplete := by
  unfold Obligations.CanEventsComplete
  intro s n
  refine ⟨fun f sof => exec_canFrameReceived_taken sof, fun b => rfl, fun b => rfl, fun b t hlock hdue => ?_,
    fun i hon hmode hstandby hbus hbest => ?_, fun o hbus hwon => ⟨?_, ?_⟩, fun o hbus hwon => ?_,
    fun lec hlec hon => ⟨fun o hbus => ?_, fun hbus => ⟨?_, ?_⟩⟩, fun hoff hrec => if_pos ⟨hoff, hrec⟩,
    fun hoff hrec => if_pos ⟨hoff, hrec⟩, fun hmode hsync hoff hdead => ?_, fun f sof => exec_canFrameReceived_ignored sof,
    fun b => exec_canLockTimeout_early, exec_canSofOpportunity_idle, fun w hall => ?_, fun hall => ?_,
    fun e lec => exec_canBusError_none, fun h => if_neg ?_, fun h => if_neg ?_, fun h => if_pos ?_⟩
  · simp only [exec_canLockTimeout, execCanLockTimeout, hlock, hdue, if_true, State.canRelease]
  · simp only [exec_canSofOpportunity, execCanSofOpportunity, hon, hmode, hstandby, hbus, hbest, ne_eq, not_true_eq_false,
      decide_false, Bool.not_true, Option.isSome_none, Bool.or_self, Bool.false_eq_true, if_false]
  · simp only [exec_canArbitrationEnd, execCanArbitrationEnd, hbus, hwon, Bool.false_eq_true, if_false, if_true]
  · simp only [exec_canArbitrationEnd, execCanArbitrationEnd, hbus, hwon, Bool.false_eq_true, if_false]
  · simp only [exec_canFrameComplete, execCanFrameComplete, hbus, hwon, Bool.not_true, Bool.false_eq_true, if_false]
  · simp only [exec_canBusError, execCanBusError, hon, hlec, hbus, decide_true, decide_false, Option.isSome_some,
      bne_self_eq_false, Bool.not_true, Bool.or_self, Bool.false_eq_true, if_false]
  · simp only [exec_canBusError, execCanBusError, hon, hlec, hbus, reduceCtorEq, decide_false, Option.isSome_none,
      bne_self_eq_false, Bool.not_true, Bool.or_self, Bool.false_eq_true, if_false]
  · simp only [exec_canBusError, execCanBusError, hon, hlec, hbus, reduceCtorEq, decide_false, Option.isSome_none,
      bne_self_eq_false, Bool.not_true, Bool.or_self, Bool.false_eq_true, if_false]
  · refine if_neg ?_
    simp only [hmode, hsync, hoff, hdead, decide_false, Bool.or_self, Bool.false_eq_true, not_false_eq_true]
  · rw [exec_canArbitrationEnd, execCanArbitrationEnd]
    split
    · rfl
    next o ho => exact if_pos (hall o ho)
  · rw [exec_canFrameComplete, execCanFrameComplete]
    split
    · rfl
    next o ho => exact if_pos (by rw [hall o ho]; rfl)
  · rintro ⟨hoff, hrec⟩
    exact h.elim (absurd hoff) fun hr => Bool.noConfusion (hr.symm.trans hrec)
  · rintro ⟨hoff, hrec⟩
    exact h.elim (absurd hoff) fun hr => Bool.noConfusion (hr.symm.trans hrec)
  · simpa only [Bool.or_eq_true, decide_eq_true_eq, or_assoc] using h

/-! ### The events of the twin link -/

section TwinEvent
variable (s : State)

theorem exec_benjoFrame (lane : Fin 2) (b : List Byte) : exec (.benjoFrame lane b) s = execBenjoFrame lane b s := rfl
theorem exec_benjoLaneDown (lane : Fin 2) : exec (.benjoLaneDown lane) s = execBenjoLaneDown lane s := rfl
theorem exec_proofSwapDue : exec .proofSwapDue s = execProofSwapDue s := rfl
theorem exec_proofSwap : exec .proofSwap s = execProofSwap s := rfl

end TwinEvent

section TwinEventCase
variable {s : State}

/-- A lane that is down, or was not silent for 20 µs, stays as it is. -/
theorem exec_benjoLaneDown_not {lane : Fin 2}
    (h : (if lane.val = 0 then s.twin.lane0 else s.twin.lane1) = false ∨
      s.now < (if lane.val = 0 then s.twin.laneAt0 else s.twin.laneAt1) + 20000) :
    exec (.benjoLaneDown lane) s = .next s := by
  rw [exec_benjoLaneDown]
  refine if_pos ?_
  simpa only [Bool.or_eq_true, Bool.not_eq_true', decide_eq_true_eq] using h

/-- The state with a lane of the twin link down. -/
def State.laneDown (s : State) (lane : Fin 2) : State :=
  s.setTwin (if lane.val = 0 then { s.twin with lane0 := false } else { s.twin with lane1 := false })

theorem State.laneDown_state (s : State) (lane : Fin 2) : (s.laneDown lane).twin.state = s.twin.state := by
  unfold State.laneDown
  split <;> rfl

/-- What BENJO_LANE_DOWN does to a lane that was silent for 20 µs. -/
theorem exec_benjoLaneDown_silent {lane : Fin 2} (hup : (if lane.val = 0 then s.twin.lane0 else s.twin.lane1) = true)
    (hdue : (if lane.val = 0 then s.twin.laneAt0 else s.twin.laneAt1) + 20000 ≤ s.now) :
    let t := s.laneDown lane
    let u := t.setTwin { t.twin with seen := [] }
    exec (.benjoLaneDown lane) s = if !t.twin.linkLost then .next t
      else .next (if t.twin.state = .join then (u.setTwin { u.twin with resync := 0 }).dropCell.pairTo .alone true else u) := by
  intro t u
  rw [exec_benjoLaneDown]
  refine if_neg ?_
  simp only [hup, Nat.not_lt.2 hdue, decide_false, Bool.not_true, Bool.or_self, Bool.false_eq_true, not_false_eq_true]

/-! #### The roles after the self-test (R377) -/

/-- The role that a device takes once both results are known or waited for. -/
def State.takeRole (t : State) : State :=
  if t.twin.ownCheck = some true then
    if t.twin.active = false ∧ t.twin.peerCheck = some true then (t.setTwin { t.twin with resync := 0 }).pairTo .join false
    else t.pairTo .alone true
  else
    let u := t.setTwin { t.twin with selftest := 2 }
    if t.twin.peerCheck = some true then u.pairTo .out false else (u.enterBath 4).pairTo .out false

variable {own : Option Bool}

theorem exec_selfTestResult_waits (hcheck : s.twin.state = .check) {t : State} (ht : t = s.ownResult own)
    (h : t.roleHeld = true ∨ t.onGrid 1000000 0 = false ∨
      ((t.twin.ownCheck.isSome && t.twin.peerCheck.isSome) = false ∧ t.now < t.twin.checkAt + 60000000)) :
    exec (.selfTestResult own) s = .next t := by
  subst ht
  exact (if_neg (not_not.2 hcheck)).trans (if_pos h)

theorem getD_false_iff {o : Option Bool} : o.getD false = true ↔ o = some true := by
  cases o <;> simp

theorem exec_selfTestResult_decides (hcheck : s.twin.state = .check) {t : State} (ht : t = s.ownResult own)
    (hheld : t.roleHeld = false) (hgrid : t.onGrid 1000000 0 = true)
    (hknown : (t.twin.ownCheck.isSome && t.twin.peerCheck.isSome) = true ∨ t.twin.checkAt + 60000000 ≤ t.now) :
    exec (.selfTestResult own) s = .next t.takeRole := by
  have hgo : ¬ (t.roleHeld = true ∨ t.onGrid 1000000 0 = false ∨
      ((t.twin.ownCheck.isSome && t.twin.peerCheck.isSome) = false ∧ t.now < t.twin.checkAt + 60000000)) := by
    rintro (h | h | ⟨hunknown, hearly⟩)
    · exact Bool.noConfusion (hheld.symm.trans h)
    · exact Bool.noConfusion (hgrid.symm.trans h)
    · exact hknown.elim (fun h => Bool.noConfusion (hunknown.symm.trans h)) (Nat.not_le.2 hearly)
  subst ht
  refine (if_neg (not_not.2 hcheck)).trans ((if_neg hgo).trans ?_)
  simp only [State.takeRole, Bool.and_eq_true, getD_false_iff]
  by_cases hown : (s.ownResult own).twin.ownCheck = some true
  · cases hact : (s.ownResult own).twin.active
    · by_cases hpeer : (s.ownResult own).twin.peerCheck = some true <;> simp [hown, hact, hpeer]
    · simp [hown]
  · by_cases hpeer : (s.ownResult own).twin.peerCheck = some true <;> simp [hown, hpeer]

/-! #### The new standby (R371) -/

theorem State.sendBenjo_twin (s : State) (type : Nat) (b : List Byte) :
    (s.sendBenjo type b).twin = { s.twin with txSeq := s.twin.txSeq + 1 } := rfl

theorem State.passSync_twin (s : State) (drove : Bool) : (s.passSync drove).twin = s.twin := by
  unfold State.passSync
  split <;> rfl

theorem State.pairTo_paired (s : State) (active : Bool) :
    (s.pairTo .paired active).twin.state = .paired ∧ (s.pairTo .paired active).twin.active = active ∧
      (s.pairTo .paired active).twin.resync = s.twin.resync := by
  simp only [State.pairTo, ne_eq, not_true_eq_false, and_false, if_false, reduceCtorEq, false_and]
  split
  · simp only [State.passSync_twin, State.setTwin_twin, and_self]
  · simp only [State.sendHello, State.sendBenjo_twin, State.notice, State.setHost_twin, State.passSync_twin,
      State.setTwin_twin, and_self]

theorem State.formPair_twin (s : State) (active : Bool) :
    (s.formPair active).twin.state = .paired ∧ (s.formPair active).twin.active = active ∧
      (s.formPair active).twin.resync = s.twin.resync := by
  dsimp only [State.formPair]
  split
  · exact State.pairTo_paired _ active
  · exact State.pairTo_paired _ active

theorem exec_resyncComplete_joins (hjoin : s.twin.state = .join) (hlink : s.twin.linkLost = false)
    (hgrid : s.onGrid 1000000 0 = true) :
    ∃ t, exec .resyncComplete s = .next t ∧ t.twin.state = .paired ∧ t.twin.active = false ∧ t.twin.resync = 100 := by
  refine ⟨_, if_neg ?_, State.formPair_twin _ false⟩
  simp only [hjoin, hlink, hgrid, ne_eq, not_true_eq_false, Bool.false_eq_true, Bool.true_eq_false, or_self, not_false_eq_true]

/-! #### Proof swaps (R378) -/

theorem exec_proofSwapDue_judges (hgrid : s.onGrid 1000000 0 = true) (he : s.expired (fun e => e.user == 1) = true) :
    exec .proofSwapDue s = .next (if s.pairActive && s.twin.swapTick.isNone && !s.swapBlocked &&
        (s.twin.swapAgain || decide (s.swapDue ≤ s.tickNo + 16)) then
      (s.entryRun (fun e => e.user == 1)).announceSwap (s.tickNo + 16) else s.entryRun (fun e => e.user == 1)) := by
  rw [exec_proofSwapDue]
  refine (if_neg (by simp only [hgrid, Bool.not_true, Bool.false_eq_true, not_false_eq_true])).trans ?_
  rw [State.onExpiry_expired he]
  rfl

theorem exec_proofSwap_not (h : s.twin.swapTick = none ∨ s.twin.state ≠ .paired ∨ s.onGrid 1000000 0 = false ∨
    ∃ k, s.twin.swapTick = some k ∧ s.tickNo < k) : exec .proofSwap s = .next s := by
  rw [exec_proofSwap, execProofSwap]
  split
  · rfl
  next k hk =>
    refine if_pos ?_
    obtain hnone | hstate | hgrid | ⟨j, hj, hlt⟩ := h
    · cases hk.symm.trans hnone
    · exact .inl hstate
    · exact .inr (.inl hgrid)
    · exact .inr (.inr (Option.some.inj (hj.symm.trans hk) ▸ hlt))

end TwinEventCase

/-- Settles O51: each event has one clause per branch of its row; the roles are decided by `State.takeRole`. -/
theorem twinEventsComplete : Obligations.TwinEventsComplete := by
  unfold Obligations.TwinEventsComplete
  intro s
  refine ⟨fun lane b => ⟨fun hr => ?_, fun hr hbad => ?_, fun hr hok htype => ?_, fun hr hok htype => ⟨fun hne hseen => ?_,
      fun hnew => ?_⟩⟩, fun lane => ⟨exec_benjoLaneDown_not, fun hup hdue => ⟨fun hlost => ?_, fun hlost hstate => ?_,
      fun hlost hstate => ?_⟩⟩, fun hstate hlost hdue => if_neg ?_,
    fun hstate hact hheard hdue => if_pos ⟨hstate, hact, hheard, hdue⟩, fun h => if_pos h, fun h => if_neg ?_,
    fun own h => if_pos h, fun own hcheck => ⟨exec_selfTestResult_waits hcheck rfl, fun hheld hgrid hknown => ?_⟩,
    ⟨fun hgrid he hact htick hfree hdue => ?_, fun hgrid he hnot => ?_, fun h => ?_⟩,
    exec_proofSwap_not, fun k htick hstate hgrid hdue hreply => ?_, fun k q tag htick hstate hgrid hdue hreply => ?_,
    exec_resyncComplete_joins, fun h => if_pos h⟩
  · simp only [exec_benjoFrame, execBenjoFrame, hr, Bool.not_false, if_true]
  · simp only [exec_benjoFrame, execBenjoFrame, hr, hbad, Bool.not_true, Bool.not_false, Bool.false_eq_true, if_false, if_true]
  · simp only [exec_benjoFrame, execBenjoFrame, hr, hok, htype, Bool.not_true, Bool.false_eq_true, if_false, if_true]
  · simp only [exec_benjoFrame, execBenjoFrame, hr, hok, Nat.not_lt.2 htype, hne, hseen, Bool.not_true, Bool.false_eq_true,
      if_false, ne_eq, not_false_eq_true, and_self, if_true]
  · have hfresh : ¬ (byteAt b 0 ≠ 9 ∧ (s.laneUp lane).twin.seen.contains (byteAt b 0, wordAt b 4) = true) :=
      fun ⟨hne, hseen⟩ => hnew.elim hne fun h => Bool.noConfusion (h.symm.trans hseen)
    simp only [exec_benjoFrame, execBenjoFrame, hr, hok, Nat.not_lt.2 htype, hfresh, Bool.not_true, Bool.false_eq_true, if_false]
  · exact (exec_benjoLaneDown_silent hup hdue).trans (if_pos (by rw [State.laneDown, hlost]; rfl))
  · exact (exec_benjoLaneDown_silent hup hdue).trans ((if_neg (by rw [State.laneDown, hlost]; decide)).trans
      (congrArg Host.Outcome.next (if_neg (by rwa [State.laneDown_state]))))
  · exact (exec_benjoLaneDown_silent hup hdue).trans ((if_neg (by rw [State.laneDown, hlost]; decide)).trans
      (congrArg Host.Outcome.next (if_pos (by rwa [State.laneDown_state]))))
  · rintro (h | h | h)
    · exact h hstate
    · exact Bool.noConfusion (h.symm.trans hlost)
    · exact Nat.not_lt.2 hdue h
  · rintro ⟨hstate, hact, hheard, hdue⟩
    obtain h | h | h | h := h
    · exact h hstate
    · exact Bool.noConfusion (h.symm.trans hact)
    · exact Bool.noConfusion (h.symm.trans hheard)
    · exact Nat.not_le.2 h hdue
  · have hrole := exec_selfTestResult_decides hcheck rfl hheld hgrid hknown
    refine ⟨fun hown => ⟨fun h => ?_, fun hact hpeer => ?_⟩, fun hown => ⟨fun hpeer => ?_, fun hpeer => ?_⟩⟩
    · refine hrole.trans (congrArg Host.Outcome.next ((if_pos hown).trans (if_neg ?_)))
      rintro ⟨hact, hpeer⟩
      exact h.elim (fun h => Bool.noConfusion (hact.symm.trans h)) (absurd hpeer)
    · exact hrole.trans (congrArg Host.Outcome.next ((if_pos hown).trans (if_pos ⟨hact, hpeer⟩)))
    · exact hrole.trans (congrArg Host.Outcome.next ((if_neg hown).trans (if_pos hpeer)))
    · exact hrole.trans (congrArg Host.Outcome.next ((if_neg hown).trans (if_neg hpeer)))
  · rw [exec_proofSwapDue_judges hgrid he, if_pos]
    simpa only [hact, htick, hfree, Option.isNone_none, Bool.not_false, Bool.and_self, Bool.true_and, Bool.or_eq_true,
      decide_eq_true_eq] using hdue
  · rw [exec_proofSwapDue_judges hgrid he, if_neg]
    obtain h | h | h | ⟨h, hlate⟩ := hnot
    · simp [h]
    · simp [Option.isSome_iff_ne_none.1 h]
    · simp [h]
    · simp [h, hlate]
  · obtain h | h := h
    · exact if_pos (by simp only [h, Bool.not_false])
    · rw [exec_proofSwapDue, execProofSwapDue]
      split
      · rfl
      · rw [State.onExpiry_waits h]
  · simp only [exec_proofSwap, execProofSwap, htick, hstate, hgrid, Nat.not_lt.2 hdue, hreply, ne_eq, not_true_eq_false,
      Bool.true_eq_false, or_self, if_false]
  · simp only [exec_proofSwap, execProofSwap, htick, hstate, hgrid, Nat.not_lt.2 hdue, hreply, ne_eq, not_true_eq_false,
      Bool.true_eq_false, or_self, if_false]

end Sys2Proof.Machine
end

section
/-! SUPPORT. The events of the safety functions (R317, R327 to R339, R348, R358). -/

namespace Sys2Proof.Machine

section SafetyEvent
variable (s : State) (c : Fin 16) (ch : Fin 2)

theorem exec_ss1Timeout : exec (.ss1Timeout c) s = execSs1Timeout c s := rfl
theorem exec_brakeTestDue : exec (.brakeTestDue c) s = execBrakeTestDue c s := rfl
theorem exec_brakeTestStep (fb : Bool) (d1 d2 : Nat) :
    exec (.brakeTestStep c fb d1 d2) s = execBrakeTestStep c fb d1 d2 s := rfl
theorem exec_brakeTestOverdue : exec (.brakeTestOverdue c) s = execBrakeTestOverdue c s := rfl
theorem exec_channelInternalFault : exec (.channelInternalFault ch) s = execChannelInternalFault ch s := rfl
theorem exec_safetyConfigLoad : exec .safetyConfigLoad s = execSafetyConfigLoad s := rfl
theorem exec_safetyCycleBoundary (a b d : Bool) :
    exec (.safetyCycleBoundary a b d) s = execSafetyCycleBoundary a b d s := rfl
theorem exec_separationIntake : exec .separationIntake s = execSeparationIntake s := rfl
theorem exec_safetyFrame (node arrival : Nat) (bytes : List Byte) :
    exec (.safetyFrame node arrival bytes) s = execSafetyFrame node arrival bytes s := rfl

end SafetyEvent

section SafetyEventCase
variable {s : State} {c : Fin 16}

/-! ### SS1 and the brakes -/

theorem exec_ss1Timeout_not (h : s.safety.index[c].state ≠ .ss1 ∨ s.safety.index[c].ss1At = none) :
    exec (.ss1Timeout c) s = .next s := by
  rw [exec_ss1Timeout, execSs1Timeout]
  split
  next t ht =>
    have hstate := h.resolve_right fun hnone => by cases ht.symm.trans hnone
    simp only [hstate, decide_false, Bool.false_and, Bool.false_eq_true, if_false]
  next => rfl

theorem exec_ss1Timeout_ends {t : Nat} (ht : s.safety.index[c].ss1At = some t) (hstate : s.safety.index[c].state = .ss1)
    (hdue : t + fld s.safety.index[c].cfg 31 22 * 1000000 ≤ s.now) :
    exec (.ss1Timeout c) s = .next (s.toSto c s.safety.index[c].cause false) := by
  simp only [exec_ss1Timeout, execSs1Timeout, ht, hstate, hdue, decide_true, Bool.and_self, if_true]

/-- What BRAKE_TEST_DUE does once its delay entry has come. -/
theorem exec_brakeTestDue_judges (he : s.expired (DelayEntry.ofUser 2 c.val) = true) :
    exec (.brakeTestDue c) s = .next (
      if fld s.safety.index[c].brk 31 24 = 0 ∨ s.safety.index[c].due.isSome = true ∨
        s.safety.index[c].hours s.time.cellNs < fld s.safety.index[c].brk 31 24 then s.entryRun (DelayEntry.ofUser 2 c.val)
      else (s.entryRun (DelayEntry.ofUser 2 c.val)).setIndex c { s.safety.index[c] with due := some s.time.cellNs }) := by
  rw [exec_brakeTestDue, execBrakeTestDue, State.onExpiry_expired he]
  rfl

/-- An overdue test stops its index only once, while no test runs and the chain stands still. -/
theorem exec_brakeTestOverdue_not (h : s.safety.index[c].due = none ∨ s.safety.index[c].overdue = true ∨
    s.safety.index[c].test ≠ none ∨ s.motion.chains[c].moving s.tickNo = true) :
    exec (.brakeTestOverdue c) s = .next s := by
  rw [exec_brakeTestOverdue, execBrakeTestOverdue]
  split
  · rfl
  next t ht =>
    refine if_pos ?_
    obtain hnone | h | h | h := h
    · cases ht.symm.trans hnone
    · simp only [h, Bool.true_or]
    · simp only [Option.isSome_iff_ne_none.2 h, Bool.or_true, Bool.true_or]
    · simp only [h, Bool.or_true]

/-! #### A step of a brake test (R337) -/

/-- A step in which the brake holds, or that measures it, goes on to the rows of its step. -/
theorem not_cut {lifted : Bool} {far : Prop} [Decidable far] {n : Nat} (h : lifted = false ∨ ¬ far) :
    ¬ (lifted = true ∧ decide far = true ∧ n ≠ 3) := by
  rintro ⟨hl, hf, -⟩
  exact h.elim (fun h => Bool.noConfusion (h.symm.trans hl)) (absurd (of_decide_eq_true hf))

section BrakeStep
variable {α : Type} {n : Nat} {r0 r1 r2 r3 r4 r5 : α}

theorem brakeRow_one (h : n = 1) : (if n = 0 then r0 else if n = 1 then r1 else r5) = r1 := by
  subst h
  rfl

theorem brakeRow_two (h : n = 2) : (if n = 0 then r0 else if n = 1 then r1 else if n = 2 then r2 else r5) = r2 := by
  subst h
  rfl

theorem brakeRow_three (h : n = 3) :
    (if n = 0 then r0 else if n = 1 then r1 else if n = 2 then r2 else if n = 3 then r3 else r5) = r3 := by
  subst h
  rfl

theorem brakeRow_four (h : n = 4) : (if n = 0 then r0 else if n = 1 then r1 else if n = 2 then r2 else if n = 3 then r3
    else if n = 4 then r4 else r5) = r4 := by
  subst h
  rfl

theorem brakeRow_later (h : 5 ≤ n) : (if n = 0 then r0 else if n = 1 then r1 else if n = 2 then r2 else if n = 3 then r3
    else if n = 4 then r4 else r5) = r5 := by
  rw [if_neg (by omega), if_neg (by omega), if_neg (by omega), if_neg (by omega), if_neg (by omega)]

end BrakeStep

/-! ### Internal faults of the channels -/

theorem State.channelFault_one (s : State) : s.channelFault 0 =
    ((s.setSafety { s.safety with ch1Ok := false, mainFault := true }).enterBath 4).driveAll.dropBrakes := by
  simp only [State.channelFault, Fin.val_zero, if_true, Nat.add_zero]

theorem State.channelFault_two (s : State) : s.channelFault 1 =
    ((s.setSafety { s.safety with ch2Ok := false }).enterBath 5).driveAll.dropBrakes := by
  simp only [State.channelFault, Fin.val_one, one_ne_zero, if_false, Nat.reduceAdd]

/-! ### The safety configuration and the safety cycle -/

theorem exec_safetyConfigLoad_not (h : s.sys.inReset = true ∨ s.sys.running = false ∨ s.isReady rdSafetycpu = true) :
    exec .safetyConfigLoad s = .next s := by
  rw [exec_safetyConfigLoad]
  refine if_pos ?_
  simpa only [Bool.or_eq_true, Bool.not_eq_true', or_assoc] using h

theorem exec_separationIntake_not (h : s.cellOn = false ∨ s.onGrid 1000000 100000 = false) :
    exec .separationIntake s = .next s := by
  rw [exec_separationIntake]
  refine if_pos ?_
  simpa only [Bool.not_eq_true', Bool.and_eq_false_iff] using h

/-! ### Safety frames -/

theorem exec_safetyFrame_unlinked {node : Nat} (arrival : Nat) (bytes : List Byte)
    (h : s.linkCfg node = none ∨ s.theCell.nodes[node]? = none) : exec (.safetyFrame node arrival bytes) s = .next s := by
  rw [exec_safetyFrame, execSafetyFrame]
  split
  next k r hk hr =>
    obtain h | h := h
    · cases hk.symm.trans h
    · cases hr.symm.trans h
  next => rfl

/-- The last value of the source that a frame of this node is a part of. -/
def State.framePart (s : State) (node : Nat) : Option Nat :=
  (s.theCell.sourceOf node).bind (fun b => s.sep.sources[f16 b.1].parts.map (·.1))

/-- The check that a frame at the offset of its link fails (R348). -/
def State.frameVerdict (s : State) (node : Nat) (k : LinkCfg) (r : NodeRec) (arrival : Nat) (f : List Byte) : Option Nat :=
  frameCheck k (s.sep.linkOf node)
    (decide (u16 f 2 ≤ f.length) && (r.kind == 3 || s.theCell.framePlace node r k.offset (u16 f 2)))
    (s.framePart node) f arrival

/-- The frames that a link has lost before this sequence number. -/
def LinkSt.gapTo (l : LinkSt) (seq : Word) : Nat :=
  match l.state, l.last with
  | .ok, some v => (seq - v.seq).toNat - 1
  | _, _ => 0

theorem LinkSt.gapTo_eq (l : LinkSt) (seq : Word) :
    l.gapTo seq = if l.state = .ok then (l.last.map (fun v => (seq - v.seq).toNat - 1)).getD 0 else 0 := by
  unfold LinkSt.gapTo
  split
  next v hs hv => rw [if_pos hs, hv, Option.map_some, Option.getD_some]
  next hnot =>
    by_cases hs : l.state = .ok
    · rw [if_pos hs, Option.eq_none_iff_forall_ne_some.2 fun v => hnot v hs, Option.map_none, Option.getD_none]
    · rw [if_neg hs]

theorem LinkSt.gapTo_lost {l : LinkSt} (h : l.state ≠ .ok ∨ l.last = none) (seq : Word) : l.gapTo seq = 0 := by
  rw [LinkSt.gapTo_eq]
  obtain h | h := h
  · exact if_neg h
  · rw [h, Option.map_none, Option.getD_none, ite_self]

theorem LinkSt.gapTo_ok {l : LinkSt} {v : LinkVal} (hs : l.state = .ok) (hv : l.last = some v) (seq : Word) :
    l.gapTo seq = (seq - v.seq).toNat - 1 := by
  rw [LinkSt.gapTo_eq, if_pos hs, hv, Option.map_some, Option.getD_some]

/-- The value of a frame that passes its checks becomes the last of its link; a human source keeps no words there. -/
def State.linkTaken (s : State) (node : Nat) (k : LinkCfg) (arrival : Nat) (f : List Byte) : State :=
  s.setSep { s.sep with
    links := mput {} s.sep.links node { s.sep.linkOf node with
      state := .ok
      last := some { seq := wordAt f 8, stamp := leAt f 12 8, arrival := arrival
                     values := if k.type = 1 then [] else
                       wordsAt (slice f 24 (u16 f 2 - 28)) 0 (((slice f 24 (u16 f 2 - 28)).length + 3) / 4) }
      gaps := satN 0xFFFF ((s.sep.linkOf node).gaps + (s.sep.linkOf node).gapTo (wordAt f 8)) } }

theorem State.setSep_theCell (s : State) (x : SepSt) : (s.setSep x).theCell = s.theCell := rfl

section Frame
variable {node arrival : Nat} {bytes : List Byte} {k : LinkCfg} {r : NodeRec}
variable (hk : s.linkCfg node = some k) (hr : s.theCell.nodes[node]? = some r)
include hk hr

theorem exec_safetyFrame_fails {e : Nat} (he : s.frameVerdict node k r arrival (bytes.drop k.offset) = some e) :
    exec (.safetyFrame node arrival bytes) s = .next (s.frameFails node e) := by
  rw [State.frameVerdict, State.framePart] at he
  cases hsrc : s.theCell.sourceOf node with
  | none =>
    rw [hsrc, Option.bind_none] at he
    simp only [exec_safetyFrame, execSafetyFrame, hk, hr, hsrc, he]
  | some b =>
    rw [hsrc, Option.bind_some] at he
    simp only [exec_safetyFrame, execSafetyFrame, hk, hr, hsrc, he]

variable (hok : s.frameVerdict node k r arrival (bytes.drop k.offset) = none)
include hok

theorem exec_safetyFrame_noSource (hsrc : s.theCell.sourceOf node = none) :
    exec (.safetyFrame node arrival bytes) s = .next (s.linkTaken node k arrival (bytes.drop k.offset)) := by
  rw [State.frameVerdict, State.framePart, hsrc, Option.bind_none] at hok
  simp only [exec_safetyFrame, execSafetyFrame, hk, hr, State.setSep_theCell, hsrc, hok, ite_self]
  rfl

theorem exec_safetyFrame_plain (htype : k.type ≠ 1) :
    exec (.safetyFrame node arrival bytes) s = .next (s.linkTaken node k arrival (bytes.drop k.offset)) := by
  cases hsrc : s.theCell.sourceOf node with
  | none => exact exec_safetyFrame_noSource hk hr hok hsrc
  | some b =>
    rw [State.frameVerdict, State.framePart, hsrc, Option.bind_some] at hok
    simp only [exec_safetyFrame, execSafetyFrame, hk, hr, hsrc, hok]
    exact if_pos htype

/-- A frame of a human source is also taken as a part of its set. -/
theorem exec_safetyFrame_part (htype : k.type = 1) {b : Nat × BodyRec} (hsrc : s.theCell.sourceOf node = some b) :
    let f := bytes.drop k.offset
    let t := s.linkTaken node k arrival f
    let p := s.sep.sources[f16 b.1].takePart b.2 (leAt f 12 8) arrival (byteAt f 1 / 16) (byteAt f 1 % 16 + 1)
      (slice f 24 (u16 f 2 - 28))
    let u := t.setSep { t.sep with
      sources := t.sep.sources.set (f16 b.1) p.1, cnt := if p.2.1 then bump t.sep.cnt 23 16 1 else t.sep.cnt }
    exec (.safetyFrame node arrival bytes) s = .next (if p.2.2 then u.frameFails node 1 else u) := by
  rw [State.frameVerdict, State.framePart, hsrc, Option.bind_some] at hok
  simp only [exec_safetyFrame, execSafetyFrame, hk, hr, State.setSep_theCell, hsrc, hok]
  exact if_neg (not_not.2 htype)

end Frame

end SafetyEventCase

/-- Settles O50: each event has one clause per branch of its row. -/
theorem safetyFunctionEventsComplete : Obligations.SafetyFunctionEventsComplete := by
  unfold Obligations.SafetyFunctionEventsComplete
  intro s
  refine ⟨fun c t => exec_ss1Timeout_ends, fun c => exec_ss1Timeout_not, fun c shown ms hlong hne => if_neg ?_,
    fun c shown ms h => if_pos ?_, fun c he => ⟨fun hiv hdue hhours => ?_, fun h => ?_⟩, fun c he => ?_, fun v => rfl,
    fun c fb d1 d2 t htest => ?_, fun c t hdue hover htest hgrace hstill => ?_, fun c => exec_brakeTestOverdue_not,
    fun c fb d1 d2 htest => ?_, ?_, ?_, fun hreset hrun hready => ⟨fun k hk => ?_, fun hk => ?_⟩,
    exec_safetyConfigLoad_not, fun a b d hgrid => ?_, fun a b d hgrid => ?_, fun hcell hgrid => ?_,
    exec_separationIntake_not, fun node arrival bytes => exec_safetyFrame_unlinked arrival bytes,
    fun node arrival bytes k r hk hr => ?_⟩
  · simp only [hne, beq_iff_eq, Nat.not_le.2 hlong, decide_false, Bool.or_eq_true, Bool.false_eq_true, or_self,
      not_false_eq_true]
  · simpa only [Bool.or_eq_true, decide_eq_true_eq, beq_iff_eq] using h
  · rw [exec_brakeTestDue_judges he, if_neg]
    simp only [hiv, hdue, Nat.not_lt.2 hhours, Option.isSome_none, Bool.false_eq_true, or_self, not_false_eq_true]
  · rw [exec_brakeTestDue_judges he, if_pos]
    simpa only [Option.isSome_iff_ne_none] using h
  · rw [exec_brakeTestDue, execBrakeTestDue, State.onExpiry_waits he]
  · simp only [exec_brakeTestStep, execBrakeTestStep, htest]
    refine ⟨fun ⟨hs, hfar⟩ => ?_, fun ⟨hs, hfar, hlift⟩ => if_pos ⟨hlift, decide_eq_true hfar, hs⟩, fun hin => ?_⟩
    · exact (if_neg fun ⟨_, _, hne⟩ => hne hs).trans ((brakeRow_three hs).trans (if_pos (decide_eq_true hfar)))
    have hcut := not_cut (n := t.step) hin
    refine ⟨fun hs hfb hel => ?_, fun hs hfb hel => ?_, fun hs hel => (if_neg hcut).trans ((if_pos hs).trans (if_pos hel)),
      fun hs hel => (if_neg hcut).trans ((brakeRow_one hs).trans (if_pos hel)),
      fun hs hel => (if_neg hcut).trans ((brakeRow_two hs).trans (if_neg (Nat.not_le.2 hel))),
      fun hs hel => (if_neg hcut).trans ((brakeRow_two hs).trans (if_pos hel)),
      fun hs hnear hel hdir hfirst => (if_neg hcut).trans ((brakeRow_three hs).trans
        ((if_neg (mt of_decide_eq_true hnear)).trans ((if_pos hel).trans (if_pos ⟨hdir, hfirst⟩)))),
      fun hs hnear hel hdir => (if_neg hcut).trans ((brakeRow_three hs).trans
        ((if_neg (mt of_decide_eq_true hnear)).trans ((if_pos hel).trans (if_neg ?_)))),
      fun hs hel => (if_neg hcut).trans ((brakeRow_four hs).trans (if_neg (Nat.not_le.2 hel))),
      fun hs hel => (if_neg hcut).trans ((brakeRow_four hs).trans (if_pos hel)),
      fun hs hel => (if_neg hcut).trans ((brakeRow_later hs).trans (if_pos hel))⟩
    · refine (if_neg hcut).trans ((if_pos hs).trans ((if_neg ?_).trans (if_pos hfb)))
      rintro (h | ⟨-, h⟩)
      · exact Nat.not_lt.2 hel h
      · exact Bool.noConfusion (h.symm.trans hfb)
    · refine (if_neg hcut).trans ((if_pos hs).trans ((if_neg ?_).trans (if_neg (Bool.eq_false_iff.1 hfb))))
      omega
    · rintro ⟨h2, hf⟩
      exact hdir.elim (absurd h2) fun h => Bool.noConfusion (hf.symm.trans h)
  · simp only [exec_brakeTestOverdue, execBrakeTestOverdue, hdue, hover, htest, Nat.not_lt.2 hgrace, hstill, Option.isSome_none,
      decide_false, Bool.or_self, Bool.false_eq_true, if_false]
  · simp only [exec_brakeTestStep, execBrakeTestStep, htest]
  · rw [exec_channelInternalFault, execChannelInternalFault, State.channelFault_one, Fin.val_zero, if_pos rfl]
  · rw [exec_channelInternalFault, execChannelInternalFault, State.channelFault_two, Fin.val_one, if_neg one_ne_zero]
  · simp only [exec_safetyConfigLoad, execSafetyConfigLoad, hreset, hrun, hready, hk, Bool.not_true, Bool.or_self,
      Bool.false_eq_true, if_false]
  · simp only [exec_safetyConfigLoad, execSafetyConfigLoad, hreset, hrun, hready, hk, Bool.not_true, Bool.or_self,
      Bool.false_eq_true, if_false]
  · rw [exec_safetyCycleBoundary]
    exact if_neg (by simp only [hgrid, Bool.not_true, Bool.false_eq_true, not_false_eq_true])
  · rw [exec_safetyCycleBoundary]
    exact if_pos (by simp only [hgrid, Bool.not_false])
  · rw [exec_separationIntake]
    exact if_neg (by simp only [hcell, hgrid, Bool.and_self, Bool.not_true, Bool.false_eq_true, not_false_eq_true])
  · refine ⟨fun e => exec_safetyFrame_fails hk hr, fun hok htype h => ?_,
      fun hok htype => ⟨fun hnone => ?_, fun b hb => ?_⟩, fun v hok htype hstate hlast => ?_⟩
    · rw [exec_safetyFrame_plain hk hr hok htype, State.linkTaken, LinkSt.gapTo_lost h, if_neg htype]
      rfl
    · rw [exec_safetyFrame_noSource hk hr hok hnone, State.linkTaken, LinkSt.gapTo_eq, if_pos htype]
    · rw [exec_safetyFrame_part hk hr hok htype hb, State.linkTaken, LinkSt.gapTo_eq, if_pos htype]
    · rw [exec_safetyFrame_plain hk hr hok htype, State.linkTaken, LinkSt.gapTo_ok hstate hlast, if_neg htype]

end Sys2Proof.Machine
end

section
/-! SUPPORT. Steps and the clock (R90, R96, R119, R274, R367): an idle step moves elapsed time by one TIME cycle of 1 ns, and a
command by nothing. -/

namespace Sys2Proof.Machine

/-! ### One TIME cycle (R90) -/

/-- Until TIME is ready the clock moves elapsed time alone. -/
theorem State.tick_notReady {s : State} (h : s.isReady rdTime = false) : s.tick = s.setNow (s.now + 1) :=
  if_neg (Bool.eq_false_iff.1 h)

/-- Once TIME is ready cell time advances as well. -/
theorem State.tick_ready {s : State} (h : s.isReady rdTime = true) :
    s.tick = (s.setNow (s.now + 1)).setTime (s.time.advance (s.now + 1)) :=
  if_pos h

@[simp] theorem State.tick_pending (s : State) : s.tick.pending = s.pending := by
  cases h : s.isReady rdTime with
  | false => rw [State.tick_notReady h, State.setNow_pending]
  | true => rw [State.tick_ready h, State.setTime_pending, State.setNow_pending]

@[simp] theorem State.tick_now (s : State) : s.tick.now = s.now + 1 := by
  cases h : s.isReady rdTime with
  | false => rw [State.tick_notReady h, State.setNow_now]
  | true => rw [State.tick_ready h, State.setTime_now, State.setNow_now]

@[simp] theorem State.byItself_pending (s : State) : s.byItself.pending = s.pending := congrArg Prod.fst s.byItself_kept

@[simp] theorem State.byItself_now (s : State) : s.byItself.now = s.now :=
  congrArg (fun k => k.2.1) s.byItself_kept

@[simp] theorem State.cycle_pending (s : State) : s.cycle.pending = s.pending := by
  rw [State.cycle, State.byItself_pending, State.tick_pending]

@[simp] theorem State.cycle_now (s : State) : s.cycle.now = s.now + 1 := by
  rw [State.cycle, State.byItself_now, State.tick_now]

/-! ### Steps -/

/-- The first branch of `step`. -/
theorem step_idle {s : State} (h : s.pending = []) : step s = .next s.cycle := by
  rw [step, h]

/-- Settles O4: an idle step is one TIME cycle, which leaves the queue empty; a command runs on the rest of the queue, and no
command touches the queue or elapsed time (`exec_goes`). -/
theorem stepIsFifo : Obligations.StepIsFifo := by
  unfold Obligations.StepIsFifo
  intro s t hstep
  refine ⟨fun hidle => ?_, fun c rest hfront => ?_⟩
  · cases (step_idle hidle).symm.trans hstep
    exact ⟨s.cycle_pending.trans hidle, s.cycle_now⟩
  · obtain ⟨u, hu, hlast⟩ := exec_goes c (s.setPending rest)
    cases hu.symm.trans ((stepRunsFront s c rest hfront).symm.trans hstep)
    exact ⟨hlast.pending, hlast.now⟩

/-- Settles O2: the idle step is one TIME cycle, the tick of the clock and then what the block does by itself. -/
theorem emptyQueuePassesACycle : Obligations.EmptyQueuePassesACycle := by
  unfold Obligations.EmptyQueuePassesACycle
  exact fun s hidle => ⟨step_idle hidle, rfl, s.cycle_now, State.tick_notReady⟩

end Sys2Proof.Machine
end

section
/-! SUPPORT. The events of cell time: SYNC_IN and SYNC_OUT, the slots of PTP and its messages, and the written words of the
time base (R91, R94 to R96, R99, R100, R103 to R105, R107, R108). -/

namespace Sys2Proof.Machine

/-! ### The commands -/

section TimeEvent
variable (s : State) (slot port : Fin 2)

theorem exec_ptpMessage (m : PtpMsg) : exec (.ptpMessage port m) s = execPtpMessage port m s := rfl
theorem exec_ptpSlotLoss : exec (.ptpSlotLoss slot) s = execPtpSlotLoss slot s := rfl
theorem exec_slotSwitch : exec .slotSwitch s = execSlotSwitch s := rfl
theorem exec_slot0Return : exec .slot0Return s = execSlot0Return s := rfl
theorem exec_syncInEdge (edge : Bool) : exec (.syncInEdge edge) s = execSyncInEdge edge s := rfl
theorem exec_ppsLoss : exec .ppsLoss s = execPpsLoss s := rfl
theorem exec_syncOutEdge : exec .syncOutEdge s = execSyncOutEdge s := rfl
theorem exec_tbCtrlSource (src : BitVec 2) : exec (.tbCtrlSource src) s = execTbCtrlSource src s := rfl
theorem exec_tbDomain (v : Word) : exec (.tbDomain slot v) s = execTbDomain slot v s := rfl

end TimeEvent

/-! ### SYNC_IN (R104, R105) -/

/-- Entering ACQUIRE from another state ends a holdover and starts the count of measurements (R94). -/
theorem State.tbEnter_acquire {s : State} (h : s.time.state ≠ .acquire) :
    s.tbEnter .acquire = s.setTime { s.time with state := .acquire, lockRun := 0, holdFrom := none } := if_neg h

/-- An edge of SYNC_IN is captured and counted. -/
def State.captured (s : State) : State :=
  s.setTime { s.time with captures := s.time.captures + 1, syncIn := BitVec.ofNat 64 s.stamp }

/-- An edge of SYNC_IN is noted as the reference of source 2. -/
def State.ppsSeen (s : State) : State := s.setTime { s.time with lastPps := some s.now }

@[simp] theorem State.captured_state (s : State) : s.captured.time.state = s.time.state := rfl

theorem exec_syncInEdge_not {s : State} {edge : Bool} (h : s.isReady rdTime = false ∨ s.time.syncInEdge ≠ edge) :
    exec (.syncInEdge edge) s = .next s := by
  rw [exec_syncInEdge]
  refine if_pos ?_
  rcases h with h | h
  · simp only [h, Bool.not_false, Bool.true_or]
  · simp only [bne_iff_ne.2 h, Bool.or_true]

section SyncIn
variable {s : State} {edge : Bool} (hready : s.isReady rdTime = true) (hedge : s.time.syncInEdge = edge)
include hready hedge

theorem syncInEdge_selected : ¬(!s.isReady rdTime || s.time.syncInEdge != edge) = true := by
  simp only [hready, hedge, Bool.not_true, bne_self_eq_false, Bool.or_self, Bool.false_eq_true, not_false_eq_true]

theorem exec_syncInEdge_captures (hsrc : s.time.source ≠ 2) : exec (.syncInEdge edge) s = .next s.captured :=
  (if_neg (syncInEdge_selected hready hedge)).trans (if_pos hsrc)

variable (hsrc : s.time.source = 2)
include hsrc

theorem exec_syncInEdge_rejects (hfar : 1000000 < (ppsOffset s.time.cellNs).natAbs) :
    exec (.syncInEdge edge) s =
      .next (s.captured.setTime { s.captured.time with rejects := satN 255 (s.captured.time.rejects + 1) }) :=
  (if_neg (syncInEdge_selected hready hedge)).trans ((if_neg (not_not_intro hsrc)).trans (if_pos hfar))

variable (hnear : (ppsOffset s.time.cellNs).natAbs ≤ 1000000)
include hnear

/-- A standby follows its partner and only notes the edge (R107). -/
theorem exec_syncInEdge_noted (hpair : s.followsPair = true) : exec (.syncInEdge edge) s = .next s.captured.ppsSeen :=
  (if_neg (syncInEdge_selected hready hedge)).trans
    ((if_neg (not_not_intro hsrc)).trans ((if_neg (Nat.not_lt.2 hnear)).trans (if_pos hpair)))

variable (hpair : s.followsPair = false)
include hpair

/-- Any other device takes the edge as a measurement, the first one of ACQUIRE where it was in FREERUN or HOLDOVER. -/
theorem exec_syncInEdge_steers {first : Bool}
    (hfirst : (decide (s.time.state = .freerun) || decide (s.time.state = .holdover)) = first) :
    let v := (if first = true then s.captured.tbEnter .acquire else s.captured).ppsSeen
    let t := v.measure (-ppsOffset s.time.cellNs)
    exec (.syncInEdge edge) s = if (first && !v.cellOn) = true then .next (t.setTime { t.time with
        cellNs := moveCell v.time.cellNs (-ppsOffset s.time.cellNs), slew := 0, skipped := false })
      else .next t := by
  subst hfirst
  exact (if_neg (syncInEdge_selected hready hedge)).trans ((if_neg (not_not_intro hsrc)).trans
    ((if_neg (Nat.not_lt.2 hnear)).trans (if_neg (Bool.eq_false_iff.1 hpair))))

/-- In ACQUIRE and LOCKED an accepted edge is one measurement. -/
theorem exec_syncInEdge_measures (hst : s.time.state = .acquire ∨ s.time.state = .locked) :
    exec (.syncInEdge edge) s = .next (s.captured.ppsSeen.measure (-ppsOffset s.time.cellNs)) :=
  exec_syncInEdge_steers hready hedge hsrc hnear hpair (first := false) (by rcases hst with h | h <;> rw [h] <;> rfl)

/-- In FREERUN and HOLDOVER it takes the time base to ACQUIRE, and without a cell sets cell time at once. -/
theorem exec_syncInEdge_acquires (hst : s.time.state = .freerun ∨ s.time.state = .holdover) :
    let v := (s.captured.tbEnter .acquire).ppsSeen
    let t := v.measure (-ppsOffset s.time.cellNs)
    (s.cellOn = true → exec (.syncInEdge edge) s = .next t) ∧
    (s.cellOn = false → exec (.syncInEdge edge) s = .next (t.setTime { t.time with
      cellNs := moveCell v.time.cellNs (-ppsOffset s.time.cellNs), slew := 0, skipped := false })) := by
  have hne : s.captured.time.state ≠ .acquire := by rcases hst with h | h <;> rw [State.captured_state, h] <;> decide
  have hcell : (s.captured.tbEnter .acquire).ppsSeen.cellOn = s.cellOn := by
    rw [State.tbEnter_acquire hne]
    rfl
  have h := exec_syncInEdge_steers hready hedge hsrc hnear hpair (first := true)
    (by rcases hst with h | h <;> rw [h] <;> rfl)
  simp only [if_true, Bool.true_and, hcell] at h
  exact ⟨fun hc => h.trans (if_neg (by rw [hc]; decide)), fun hc => h.trans (if_pos (by rw [hc]; decide))⟩

end SyncIn

/-! ### SYNC_OUT and the loss of SYNC_IN (R94, R103) -/

theorem exec_syncOutEdge_rises {s : State} (hready : s.isReady rdTime = true) (hper : s.time.outPer ≠ 0)
    (hdrive : s.drivesSync = true)
    (hmeets : s.time.cellNs % 1000000000 % s.time.outPer.toNat = s.time.outOfs.toNat) :
    exec .syncOutEdge s =
      .next (s.setTime { s.time with outLeft := min s.time.outW.toNat (s.time.outPer.toNat / 2) }) := by
  have hper' : (s.time.outPer.toNat == 0) = false := beq_eq_false_iff_ne.2 fun e => hper (BitVec.eq_of_toNat_eq e)
  simp only [exec_syncOutEdge, execSyncOutEdge, hready, hper', hdrive, hmeets, Bool.not_true, Bool.or_self,
    Bool.false_eq_true, ne_eq, not_true_eq_false, false_and, if_false]

theorem exec_ppsLoss_loses {s : State} {t : Nat} (hlast : s.time.lastPps = some t) (hsrc : s.time.source = 2)
    (hpair : s.followsPair = false) (ht : t + 3000000000 ≤ s.now) :
    exec .ppsLoss s = .next (s.setTime { s.time with lastPps := none }).tbLost := by
  rw [exec_ppsLoss, execPpsLoss, hlast]
  exact if_pos ⟨hsrc, hpair, ht⟩

/-! ### The slots (R94, R99, R100) -/

/-- A slot that is not lost only drops the masters that it no longer hears. -/
theorem exec_ptpSlotLoss_not {s : State} {slot : Fin 2} (h : s.slotLost slot = false) :
    exec (.ptpSlotLoss slot) s = .next (s.setPtpSlot slot (s.time.slots[slot].fresh s.now)) := by
  rw [exec_ptpSlotLoss, execPtpSlotLoss]
  exact if_pos (by rw [h, Bool.not_false])

/-- The servo of a lost slot starts again. -/
def State.slotSilent (s : State) (slot : Fin 2) : State := s.setPtpSlot slot (s.time.slots[slot].silent s.now)

/-- The loss of the slot in use is met by a switch to the other slot where that is allowed, and loses the reference where it is
not. -/
theorem exec_ptpSlotLoss_lost {s : State} {slot : Fin 2} (hlost : s.slotLost slot = true) :
    exec (.ptpSlotLoss slot) s =
      let t := s.slotSilent slot
      if s.time.source ≠ 1 ∨ slot ≠ s.time.curSlot ∨ s.followsPair = true ∨ s.time.switchTo.isSome = true then .next t
      else if s.time.select = 2 ∧ t.time.maySwitch (1 - slot) = true then
        .next (t.setTime { t.time with switchTo := some (1 - slot, s.nextPlan) })
      else .next t.tbLost := by
  rw [exec_ptpSlotLoss, execPtpSlotLoss]
  exact if_neg (Bool.eq_false_iff.1 (by rw [hlost, Bool.not_true]))

theorem exec_slotSwitch_none {s : State} (h : s.time.switchTo = none) : exec .slotSwitch s = .next s := by
  simp only [exec_slotSwitch, execSlotSwitch, h]

section SlotSwitch
variable {s : State} {n : Fin 2} {b : Nat} (hto : s.time.switchTo = some (n, b))
include hto

theorem exec_slotSwitch_waits (hb : s.time.cellNs < b) : exec .slotSwitch s = .next s := by
  simp only [exec_slotSwitch, execSlotSwitch, hto, hb, if_true]

/-- At its boundary a switch is made, or given up: then a slot in use that is lost is a lost reference. -/
theorem exec_slotSwitch_due (hb : b ≤ s.time.cellNs) :
    exec .slotSwitch s =
      let t := s.setTime { s.time with switchTo := none }
      if s.time.maySwitch n = true then
        .next ((t.setTime { t.time with curSlot := n, slew := s.time.slots[n].offset.getD 0 }).notice .slotSwitch n.val 0)
      else if t.slotLost s.time.curSlot = true then .next t.tbLost else .next t := by
  simp only [exec_slotSwitch, execSlotSwitch, hto, Nat.not_lt.2 hb, if_false]
  rfl

end SlotSwitch

/-- The conditions of the return to slot 0 (R99). -/
structure State.ReturnDue (s : State) (t : Nat) : Prop where
  source : s.time.source = 1
  select : s.time.select = 2
  slot   : s.time.curSlot = 1
  locked : s.time.slots[(0 : Fin 2)].lockedAt = some t
  long   : t + 60000000000 ≤ s.now
  may    : s.time.maySwitch 0 = true
  idle   : s.time.switchTo = none
  own    : s.followsPair = false

theorem exec_slot0Return_due {s : State} {t : Nat} (h : s.ReturnDue t) :
    exec .slot0Return s = .next (s.setTime { s.time with switchTo := some (0, s.nextPlan) }) := by
  obtain ⟨hsrc, hsel, hcur, hlock, hlong, hmay, hidle, hown⟩ := h
  simp only [exec_slot0Return, execSlot0Return, hsrc, hsel, hcur, hlock, hlong, hmay, hidle, hown, beq_self_eq_true,
    decide_true, Option.isNone_none, Bool.not_false, Bool.and_self, if_true]

theorem exec_slot0Return_not {s : State} (h : ∀ t, ¬ s.ReturnDue t) : exec .slot0Return s = .next s := by
  rw [exec_slot0Return, execSlot0Return]
  refine if_neg fun hall => ?_
  simp only [Bool.and_eq_true, beq_iff_eq, decide_eq_true_eq, Option.isNone_iff_eq_none, Bool.not_eq_true'] at hall
  obtain ⟨⟨⟨⟨⟨⟨hsrc, hsel⟩, hcur⟩, hlong⟩, hmay⟩, hidle⟩, hown⟩ := hall
  split at hlong
  next t hlock => exact h t ⟨hsrc, hsel, hcur, hlock, of_decide_eq_true hlong, hmay, hidle, hown⟩
  next => exact Bool.false_ne_true hlong

/-! ### PTP messages (R96, R99) -/

section PtpMessage
variable {s : State} {port : Fin 2} {m : PtpMsg} (hon : s.ptpOn port m.l2 = true)
include hon

theorem exec_ptpMessage_unsupported (hk : m.kind = .unsupported) :
    exec (.ptpMessage port m) s = .next (s.setTime { s.time with ptpDiscarded := s.time.ptpDiscarded + 1 }) := by
  simp only [exec_ptpMessage, execPtpMessage, hon, hk, Bool.not_true, Bool.false_eq_true, if_false, if_true]

variable {n : Fin 2} (hn : s.slotOf m = some n)
include hn

theorem exec_ptpMessage_announce {ds : PtpDataset} {utc : Int} {valid : Bool} (hk : m.kind = .announce ds utc valid) :
    exec (.ptpMessage port m) s = .next (s.takeAnnounce n port m.source ds utc valid) := by
  simp only [exec_ptpMessage, execPtpMessage, hon, hn, hk, Bool.not_true, Bool.false_eq_true, if_false, reduceCtorEq]

/-- As master on the port the device answers Delay_Req, but for the peer-to-peer profile. -/
theorem exec_ptpMessage_delayReq {seq : BitVec 16} (hk : m.kind = .delayReq seq) (hrole : s.ptpPort n port = .master)
    (he2e : bitAt s.time.domain[n] 30 = false) :
    exec (.ptpMessage port m) s = .next (s.ptpOut n port (.delayResp seq (s.hostIn port m.frac.val + s.domainOfs n))) := by
  simp only [exec_ptpMessage, execPtpMessage, hon, hn, hk, hrole, he2e, Bool.not_true, Bool.false_eq_true, if_false,
    reduceCtorEq, and_self, if_true]

section Slave
variable (hrole : s.ptpPort n port = .slave) {b : Heard} (hb : s.time.slots[n].best port = some b) (hm : b.source = m.source)
include hrole hb hm

theorem exec_ptpMessage_sync_oneStep {seq : BitVec 16} {t1 : Int} (hk : m.kind = .sync seq (some t1)) :
    exec (.ptpMessage port m) s = .next (s.syncDone n port t1 (s.hostIn port m.frac.val)) := by
  simp only [exec_ptpMessage, execPtpMessage, hon, hn, hk, hrole, hb, hm, beq_self_eq_true, Bool.not_true,
    Bool.false_eq_true, if_false, reduceCtorEq, ne_eq, not_true_eq_false, or_self, Bool.true_eq_false]

theorem exec_ptpMessage_sync_twoStep {seq : BitVec 16} (hk : m.kind = .sync seq none) :
    exec (.ptpMessage port m) s =
      .next (s.setPtpSlot n { s.time.slots[n] with syncAt := some (seq, s.hostIn port m.frac.val) }) := by
  simp only [exec_ptpMessage, execPtpMessage, hon, hn, hk, hrole, hb, hm, beq_self_eq_true, Bool.not_true,
    Bool.false_eq_true, if_false, reduceCtorEq, ne_eq, not_true_eq_false, or_self, Bool.true_eq_false]

theorem exec_ptpMessage_followUp {seq : BitVec 16} {t1 t2 : Int} (hk : m.kind = .followUp seq t1)
    (hat : s.time.slots[n].syncAt = some (seq, t2)) :
    exec (.ptpMessage port m) s = .next (s.syncDone n port t1 t2) := by
  simp only [exec_ptpMessage, execPtpMessage, hon, hn, hk, hrole, hb, hm, hat, beq_self_eq_true, Bool.not_true,
    Bool.false_eq_true, if_false, reduceCtorEq, and_self, if_true]

theorem exec_ptpMessage_delayResp {seq : BitVec 16} {t1 t2 t3 t4 : Int} (hk : m.kind = .delayResp seq t4)
    (hreq : s.time.slots[n].reqAt = some (seq, t3)) (hpair : s.time.slots[n].syncPair = some (t1, t2))
    (he2e : bitAt s.time.domain[n] 30 = false) :
    exec (.ptpMessage port m) s =
      .next (s.setPtpSlot n { s.time.slots[n] with reqAt := none, delay := ((t2 - t1) + (t4 - t3)) / 2 }) := by
  simp only [exec_ptpMessage, execPtpMessage, hon, hn, hk, hrole, hb, hm, hreq, hpair, he2e, beq_self_eq_true, Bool.not_true,
    Bool.false_eq_true, if_false, reduceCtorEq, and_self, if_true]

end Slave

section Peer
variable (hp2p : bitAt s.time.domain[n] 30 = true)
include hp2p

theorem exec_ptpMessage_pdelayReq {seq : BitVec 16} (hk : m.kind = .pdelayReq seq) :
    exec (.ptpMessage port m) s = .next ((s.ptpOut n port (.pdelayResp seq (s.hostIn port m.frac.val))).ptpOut n port
      (.pdelayFollowUp seq (s.hostOut port))) := by
  simp only [exec_ptpMessage, execPtpMessage, hon, hn, hk, hp2p, Bool.not_true, Bool.false_eq_true, if_false, reduceCtorEq,
    if_true]
  rfl

variable {seq : BitVec 16} {t1 : Int} (hsent : s.time.slots[n].peers[port].sent = some (seq, t1))
include hsent

theorem exec_ptpMessage_pdelayFollowUp {t2 t3 t4 : Int} (hk : m.kind = .pdelayFollowUp seq t3)
    (hresp : s.time.slots[n].peers[port].resp = some (t2, t4)) :
    exec (.ptpMessage port m) s = .next (s.setPtpSlot n { s.time.slots[n] with
      peers := s.time.slots[n].peers.set port { delay := ((t4 - t1) - (t3 - t2)) / 2 } }) := by
  simp only [exec_ptpMessage, execPtpMessage, hon, hn, hk, hp2p, hsent, hresp, Bool.not_true, Bool.false_eq_true, if_false,
    reduceCtorEq, and_self, if_true]

theorem exec_ptpMessage_pdelayRespOneStep {turn : Int} (hk : m.kind = .pdelayRespOneStep seq turn) :
    exec (.ptpMessage port m) s = .next (s.setPtpSlot n { s.time.slots[n] with
      peers := s.time.slots[n].peers.set port { delay := ((s.hostIn port m.frac.val - t1) - turn) / 2 } }) := by
  simp only [exec_ptpMessage, execPtpMessage, hon, hn, hk, hp2p, hsent, Bool.not_true, Bool.false_eq_true, if_false,
    reduceCtorEq, and_self, if_true]

end Peer

end PtpMessage

/-! ### The written words (R94, R108) -/

section Source
variable {s : State} {src : BitVec 2}

/-- A new word of TB_CTRL, taken as it is. -/
def State.setCtrl (s : State) (w : Word) : State := s.setTime { s.time with ctrl := w }

/-- The same with what belonged to the old source forgotten: the last edge of SYNC_IN and a decided switch of slots. -/
def State.resourced (s : State) (w : Word) : State :=
  (s.setCtrl w).setTime { (s.setCtrl w).time with lastPps := none, switchTo := none }

@[simp] theorem State.resourced_state (s : State) (w : Word) : (s.resourced w).time.state = s.time.state := rfl
@[simp] theorem State.resourced_lockHeld (s : State) (w : Word) : (s.resourced w).time.lockHeld = s.time.lockHeld := rfl

/-- TB_CTRL with another source. -/
abbrev State.ctrlWith (s : State) (src : BitVec 2) : Word := setFld s.time.ctrl 31 30 src.toNat

theorem exec_tbCtrlSource_reserved (s : State) : exec (.tbCtrlSource 3) s = .next s :=
  (exec_tbCtrlSource s 3).trans (if_pos rfl)

variable (hok : src ≠ 3)
include hok

theorem exec_tbCtrlSource_same (h : s.time.source = src.toNat) :
    exec (.tbCtrlSource src) s = .next (s.setCtrl (s.ctrlWith src)) := by
  rw [exec_tbCtrlSource, execTbCtrlSource, if_neg hok]
  simp only [State.setSource, State.setCtrl, h, if_true]

variable (hnew : s.time.source ≠ src.toNat)
include hnew

/-- What a change of the source does to the state of the time base (R94). -/
theorem exec_tbCtrlSource_new :
    let t := s.resourced (s.ctrlWith src)
    exec (.tbCtrlSource src) s = .next (if src.toNat = 0 then t.tbEnter .freerun
      else if s.time.source = 0 then t
      else match t.time.state with
        | .acquire | .locked => t.tbEnter (if t.time.lockHeld then .holdover else .freerun)
        | _ => t) := by
  rw [exec_tbCtrlSource, execTbCtrlSource, if_neg hok]
  simp only [State.setSource, State.resourced, State.setCtrl, if_neg hnew] <;> rfl

theorem exec_tbCtrlSource_off (h : src = 0) :
    exec (.tbCtrlSource src) s = .next ((s.resourced (s.ctrlWith src)).tbEnter .freerun) := by
  rw [exec_tbCtrlSource_new hok hnew, if_pos (by rw [h]; rfl)]

theorem exec_tbCtrlSource_on (h : s.time.source = 0) :
    exec (.tbCtrlSource src) s = .next (s.resourced (s.ctrlWith src)) := by
  rw [exec_tbCtrlSource_new hok hnew, if_neg fun e => hnew (h.trans e.symm), if_pos h]

theorem exec_tbCtrlSource_changes (h0 : src ≠ 0) (hold : s.time.source ≠ 0)
    (hst : s.time.state = .acquire ∨ s.time.state = .locked) :
    exec (.tbCtrlSource src) s =
      .next ((s.resourced (s.ctrlWith src)).tbEnter (if s.time.lockHeld = true then .holdover else .freerun)) := by
  rw [exec_tbCtrlSource_new hok hnew, if_neg (fun e : src.toNat = 0 => h0 (BitVec.eq_of_toNat_eq e)),
    if_neg hold, State.resourced_state, State.resourced_lockHeld]
  rcases hst with h | h <;> rw [h]

end Source

/-- A new domain word restarts the servo of its slot; for the slot in use the time base goes to HOLDOVER. -/
theorem exec_tbDomain_new {s : State} {slot : Fin 2} {v : Word} (hok : domainOk v s.time.domain[1 - slot] = true)
    (hnew : setFld v 28 24 0 ≠ s.time.domain[slot]) :
    exec (.tbDomain slot v) s =
      let t := s.setTime { s.time with
        domain := s.time.domain.set slot (setFld v 28 24 0)
        slots := s.time.slots.set slot { listenFrom := s.now, restarted := true } }
      .next (if s.time.source = 1 ∧ slot = s.time.curSlot then t.holdOver else t) :=
  (if_pos hok).trans (congrArg _ (if_neg hnew))

/-- Settles O36: the events in the order of the statement, each by the lemma of its row. -/
theorem timeEventsComplete : Obligations.TimeEventsComplete := by
  unfold Obligations.TimeEventsComplete
  intro s
  refine ⟨fun edge hready hedge => ⟨exec_syncInEdge_captures hready hedge, exec_syncInEdge_rejects hready hedge,
      exec_syncInEdge_noted hready hedge, exec_syncInEdge_measures hready hedge, fun hsrc hnear hpair hst => ?_⟩,
    fun edge => exec_syncInEdge_not, fun slot => exec_ptpSlotLoss_not, exec_slotSwitch_none,
    fun n b => exec_slotSwitch_waits, fun h => exec_slot0Return_not fun t due => ?_,
    exec_syncOutEdge_rises, fun t => exec_ppsLoss_loses, fun slot hlost => ?_, fun n b hto hb => ?_,
    fun t hsrc hsel hcur hlock hlong hmay hidle hown =>
      exec_slot0Return_due ⟨hsrc, hsel, hcur, hlock, hlong, hmay, hidle, hown⟩,
    fun port m hon => ⟨exec_ptpMessage_unsupported hon, fun n hn => ?_⟩,
    fun src hok => ⟨exec_tbCtrlSource_same hok, exec_tbCtrlSource_off hok, exec_tbCtrlSource_on hok,
      exec_tbCtrlSource_changes hok⟩,
    exec_tbCtrlSource_reserved s, fun slot v hok hnew => ?_⟩
  · have hnow : (s.captured.tbEnter .acquire).now = s.now :=
      congrArg (fun k => k.2.1) (s.captured.tbEnter_kept .acquire)
    have h := exec_syncInEdge_acquires hready hedge hsrc hnear hpair hst
    rwa [State.ppsSeen, hnow] at h
  · obtain ⟨hsrc, hsel, hcur, hlock, -, hmay, hidle, hown⟩ := due
    have hnone : s.time.slots[(0 : Fin 2)].lockedAt = none := by
      simpa [hsrc, hsel, hcur, hmay, hidle, hown] using h
    cases hlock.symm.trans hnone
  · rw [exec_ptpSlotLoss_lost hlost]
    refine ⟨fun h => if_pos ?_, fun hsrc hcur hpair hidle => ?_⟩
    · simpa only [Option.isSome_iff_ne_none] using h
    · rw [if_neg (by simp [hsrc, hcur, hpair, hidle])]
      exact ⟨fun hsel hmay => if_pos ⟨hsel, hmay⟩, fun h => if_neg fun ⟨hsel, hmay⟩ =>
        h.elim (absurd hsel) fun hmay' => Bool.noConfusion (hmay'.symm.trans hmay)⟩
  · rw [exec_slotSwitch_due hto hb]
    exact ⟨fun h => if_pos h, fun h hheld => (if_neg (Bool.eq_false_iff.1 h)).trans (if_neg (Bool.eq_false_iff.1 hheld)),
      fun h hlost => (if_neg (Bool.eq_false_iff.1 h)).trans (if_pos hlost)⟩
  · refine ⟨fun ds utc valid hk hother => ?_,
      fun seq t1 hk hrole ⟨b, hb, hm⟩ => exec_ptpMessage_sync_oneStep hon hn hrole hb hm hk,
      fun seq hk hrole ⟨b, hb, hm⟩ => exec_ptpMessage_sync_twoStep hon hn hrole hb hm hk,
      fun seq t1 t2 hk hat hrole ⟨b, hb, hm⟩ => exec_ptpMessage_followUp hon hn hrole hb hm hk hat,
      fun seq hk hrole he2e => exec_ptpMessage_delayReq hon hn hk hrole he2e,
      fun seq t1 t2 t3 t4 hk hreq hpair hrole ⟨b, hb, hm⟩ he2e =>
        exec_ptpMessage_delayResp hon hn hrole hb hm hk hreq hpair he2e,
      fun seq hk hp2p => exec_ptpMessage_pdelayReq hon hn hp2p hk,
      fun seq t1 t2 t3 t4 hk hsent hresp hp2p => exec_ptpMessage_pdelayFollowUp hon hn hp2p hsent hk hresp,
      fun seq turn t1 hk hsent hp2p => exec_ptpMessage_pdelayRespOneStep hon hn hp2p hsent hk⟩
    refine (exec_ptpMessage_announce hon hn hk).trans (congrArg _ (if_neg fun hmine => hother ?_))
    simp only [Bool.and_eq_true] at hmine
    obtain ⟨⟨hcur, -⟩, -⟩ := hmine
    exact of_decide_eq_true hcur
  · rw [exec_tbDomain_new hok hnew]
    exact ⟨fun h => congrArg _ (if_neg (not_and_or.2 h)), fun hsrc hcur => congrArg _ (if_pos ⟨hsrc, hcur⟩)⟩

end Sys2Proof.Machine
end

section
/-! SUPPORT. The start-up and slot events of a ring: its windows, the frames that come in, the polls, the boundary of
RUN, the deadlines of its nodes, its device frames and the ranging rounds (R112, R116, R121, R127, R128, R133, R141, R143
to R145). -/

namespace Sys2Proof.Machine

/-! ### The commands -/

section RingEvent
variable (s : State) (r : Fin 4) (b ok : Bool) (f : Fin 20) (bytes : List Byte)

theorem exec_ringWindowExpiry : exec (.ringWindowExpiry r) s = execRingWindowExpiry r s := rfl
theorem exec_coldstart : exec (.coldstart r b ok bytes) s = execColdstart r b ok bytes s := rfl
theorem exec_rangeRsp : exec (.rangeRsp r b f ok bytes) s = execRangeRsp r b f ok bytes s := rfl
theorem exec_rangePollTimeout : exec (.rangePollTimeout r) s = execRangePollTimeout r s := rfl
theorem exec_ringActivateBoundary : exec (.ringActivateBoundary r) s = execRingActivateBoundary r s := rfl
theorem exec_nodeFrame : exec (.nodeFrame r b f ok bytes) s = execNodeFrame r b f ok bytes s := rfl
theorem exec_slotLostDeadline (hop : Nat) : exec (.slotLostDeadline r hop) s = execSlotLostDeadline r hop s := rfl
theorem exec_deviceOutputFrame : exec (.deviceOutputFrame r) s = execDeviceOutputFrame r s := rfl
theorem exec_rangingRound : exec (.rangingRound r) s = execRangingRound r s := rfl

end RingEvent

/-! ### The windows of start-up (R141) -/

/-- What waits for an instant and what happens from it on. -/
theorem ite_before {α : Type} {now due : Nat} (x y : α) :
    (now < due → (if now < due then x else y) = x) ∧ (due ≤ now → (if now < due then x else y) = y) :=
  ⟨fun h => if_pos h, fun h => if_neg (Nat.not_lt.2 h)⟩

section Window
variable {s : State} {r : Fin 4}

theorem exec_ringWindowExpiry_listen (hst : s.rings[r].state = .listen) :
    exec (.ringWindowExpiry r) s = if s.now < s.rings[r].windowAt + s.windowNs then .next s
      else .next (if s.rings[r].heard then s.setRing r { s.rings[r] with windowAt := s.now, heard := false }
        else s.enterCold r) := by
  simp only [exec_ringWindowExpiry, execRingWindowExpiry, hst, apply_ite Host.Outcome.next]

theorem exec_ringWindowExpiry_coldstart (hst : s.rings[r].state = .coldstart) :
    exec (.ringWindowExpiry r) s = if s.now < s.rings[r].windowAt + s.windowNs then .next s
      else .next (s.enterRanging r true) := by
  simp only [exec_ringWindowExpiry, execRingWindowExpiry, hst]

/-- A twin device waits three windows for its partner, any other device one. -/
theorem exec_ringWindowExpiry_backoff (hst : s.rings[r].state = .backoff) :
    exec (.ringWindowExpiry r) s = if s.ringMember = true then
        if s.now < s.rings[r].collidedAt + 3 * s.windowNs then .next s
        else .next (if s.rings[r].heard then s.enterRanging r false else s.enterCold r)
      else if s.now < s.rings[r].collidedAt + s.windowNs then .next s else .next (s.enterCold r) := by
  simp only [exec_ringWindowExpiry, execRingWindowExpiry, hst, apply_ite Host.Outcome.next]

/-- A ring without a window, or past start-up, waits for none. -/
theorem exec_ringWindowExpiry_none (hst : s.rings[r].state = .ranging ∨ s.rings[r].state = .config ∨
    s.rings[r].state = .run ∨ s.rings[r].state = .down) : exec (.ringWindowExpiry r) s = .next s := by
  rw [exec_ringWindowExpiry, execRingWindowExpiry]
  rcases hst with h | h | h | h <;> rw [h]

end Window

/-! ### Frames that come in (R112, R116) -/

/-- To forward a frame puts it out and leaves everything else. -/
theorem State.ringForward_same {α : Type} (g : State → α) (s : State) (r : Fin 4) (b : Bool) (bytes : List Byte)
    (h : ∀ o, g (s.emit o) = g s) : g (s.ringForward r b bytes) = g s := by
  unfold State.ringForward
  split
  · exact h _
  · rfl

section Frame
variable {s : State} {r : Fin 4} {b ok : Bool} {f : Fin 20} {bytes h : List Byte}

@[simp] theorem State.ringForward_rings : (s.ringForward r b bytes).rings = s.rings :=
  State.ringForward_same State.rings s r b bytes fun _ => rfl

@[simp] theorem State.ringForward_theCell : (s.ringForward r b bytes).theCell = s.theCell :=
  State.ringForward_same State.theCell s r b bytes fun _ => rfl

@[simp] theorem State.ringForward_ringCheck :
    (s.ringForward r b bytes).ringCheck r ok bytes = s.ringCheck r ok bytes :=
  State.ringForward_same (fun t => t.ringCheck r ok bytes) s r b bytes fun _ => rfl

@[simp] theorem State.ringForward_ownSource :
    (s.ringForward r b bytes).ownSource r bytes = s.ownSource r bytes :=
  State.ringForward_same (fun t => t.ownSource r bytes) s r b bytes fun _ => rfl

@[simp] theorem State.ringForward_laneIn (n : Nat) :
    (s.ringForward r b bytes).laneIn r b n = s.laneIn r b n :=
  State.ringForward_same (fun t => t.laneIn r b n) s r b bytes fun _ => rfl

section Rejected
variable {e : Nat × Nat} (hbad : s.ringCheck r ok bytes = .error e)
include hbad

theorem exec_coldstart_rejected :
    exec (.coldstart r b ok bytes) s = .next ((s.ringForward r b bytes).ringError r e.1 e.2) := by
  simp only [exec_coldstart, execColdstart, State.ringForward_ringCheck, hbad]

theorem exec_rangeRsp_rejected :
    exec (.rangeRsp r b f ok bytes) s = .next ((s.ringForward r b bytes).ringError r e.1 e.2) := by
  simp only [exec_rangeRsp, execRangeRsp, State.ringForward_ringCheck, hbad]

theorem exec_nodeFrame_rejected :
    exec (.nodeFrame r b f ok bytes) s = .next ((s.ringForward r b bytes).ringError r e.1 e.2) := by
  simp only [exec_nodeFrame, execNodeFrame, State.ringForward_ringCheck, hbad]

end Rejected

variable (hok : s.ringCheck r ok bytes = .ok h)
include hok

/-- A valid COLDSTART is taken as the device's own or as another's (R141, R143). -/
theorem exec_coldstart_taken (htype : byteAt h 0 % 16 = 5) :
    exec (.coldstart r b ok bytes) s = .next ((s.ringForward r b bytes).takeCold r (s.ownSource r bytes) h) := by
  simp only [exec_coldstart, execColdstart, State.ringForward_ringCheck, State.ringForward_ownSource, hok, htype, if_true]

theorem exec_rangeRsp_taken (htype : byteAt h 0 % 16 = 4) :
    exec (.rangeRsp r b f ok bytes) s =
      .next ((s.ringForward r b bytes).takeRangeRsp r (s.laneIn r b f.val) bytes h) := by
  simp only [exec_rangeRsp, execRangeRsp, State.ringForward_ringCheck, State.ringForward_laneIn, hok, htype, if_true]

/-- Where a valid frame goes (R116). -/
theorem exec_nodeFrame_valid :
    let t := s.ringForward r b bytes
    let at_ := s.laneIn r b f.val
    exec (.nodeFrame r b f ok bytes) s = .next (
      if s.ownSource r bytes = true then t.ownFrame r at_ h
      else if byteAt h 0 % 16 = 4 then t.takeRangeRsp r at_ bytes h
      else if byteAt h 3 = 0 then t.deviceFrame r b at_ h
      else t.takeNodeFrame r b at_ h) := by
  simp only [exec_nodeFrame, execNodeFrame, State.ringForward_ringCheck, State.ringForward_ownSource, hok]

end Frame

section Taken
variable {s : State} {r : Fin 4} {h : List Byte}

theorem State.takeCold_other : s.takeCold r false h = s.hearDevice r true := rfl

/-- The own COLDSTART that came round on channel B carries no count (R143). -/
theorem State.takeCold_own_chB (hB : (byteAt h 1).testBit 0 = true) : s.takeCold r true h = s := if_pos hB

/-- The own COLDSTART of channel A tells the hops of the ring; above 254 a ring in RANGING fails (R143). -/
theorem State.takeCold_own_chA (hA : (byteAt h 1).testBit 0 = false) :
    let u := s.setRing r { s.rings[r] with hopCount := byteAt h 19 }
    s.takeCold r true h =
      if 254 < byteAt h 19 ∧ u.rings[r].state = .ranging then u.ringDown r (some .ringFailure) 1 else u :=
  if_neg (Bool.eq_false_iff.1 hA)

/-- A reply to the poll under way gives the delay of its hop on the lane of the poll (R127, R144). -/
theorem State.takeRangeRsp_polled {arr : Int} {bytes : List Byte} {rec : NodeRec} (hstart : s.rings[r].starter = true)
    (hst : s.rings[r].state = .ranging) (hact : s.rings[r].activateAt = none) (hq : s.rings[r].configQ = [])
    (hhop : byteAt h 2 = s.rings[r].pollHop) (hconf : s.rings[r].pollConf = false)
    (hnode : s.theCell.nodes[(s.rings[r].hop (byteAt h 2)).node]? = some rec) (hmac : leAt bytes 6 6 = rec.mac.toNat) :
    let turn : Int := if u32 h 8 = 0xFFFFFFFF then 0 else u32 h 8
    let d := ((arr - s.rings[r].pollDep - 5 * turn) / 10).toNat
    let n := s.rings[r].hop (byteAt h 2)
    s.takeRangeRsp r arr bytes h = (s.putHop r (byteAt h 2) (if s.rings[r].pollB
      then { n with delB := some d } else { n with delA := some d })).nextPoll r := by
  have hpoll : (byteAt h 2 != s.rings[r].pollHop) = false := by simp only [hhop, bne_self_eq_false]
  simp only [State.takeRangeRsp, hst, hstart, hact, hq, hpoll, hconf, hnode, hmac, reduceCtorEq, if_false, decide_true,
    decide_false, Bool.not_true, not_true_eq_false, not_false_eq_true, Bool.false_and, Option.isSome_none, List.isEmpty_nil,
    ne_eq, Bool.or_self, Bool.false_eq_true]

/-- A copy from a node of the schedule is held to the generation of the ring (R116). -/
theorem State.takeNodeFrame_scheduled {b : Bool} {arr : Int} (htype : byteAt h 0 % 16 ≤ 1)
    (hrun : s.rings[r].state = .run)
    (hn : (s.rings[r].hop (byteAt h 3)).state = .run ∨ (s.rings[r].hop (byteAt h 3)).state = .rerange) :
    s.takeNodeFrame r b arr h = if u16 h 20 ≠ s.rings[r].gen.toNat % 65536 then s.ringError r 23 16
      else s.nodeCopy r b arr h := by
  rcases hn with hn | hn <;>
    simp only [State.takeNodeFrame, hrun, hn, htype, reduceCtorEq, decide_true, decide_false, Bool.or_self, Bool.and_false,
      Bool.false_eq_true, ne_eq, not_true_eq_false, if_false, if_true]

end Taken

/-! ### The polls and the boundary of RUN (R144, R145) -/

section Poll
variable {s : State} {r : Fin 4}

/-- A poll of a device that is no twin is judged once its time is over. -/
theorem exec_rangePollTimeout_alone (hstart : s.rings[r].starter = true)
    (hst : s.rings[r].state = .ranging ∨ s.rings[r].state = .config) (hact : s.rings[r].activateAt = none)
    (hq : s.rings[r].configQ = []) (htwin : s.twinMode = false) :
    let n := s.rings[r].hop s.rings[r].pollHop
    exec (.rangePollTimeout r) s =
      if s.now < s.rings[r].pollAt + (2 * s.cell.placement.rings[r].lPlan + 10000) then .next s
      else .next ((if s.rings[r].pollConf = false ∧ s.rings[r].pollB = true ∧ n.delA = none ∧ n.delB = none ∧
          n.state = .ranging
        then s.putHop r s.rings[r].pollHop { n with state := .absent } else s).nextPoll r) := by
  have hpolls : (decide (s.rings[r].state ≠ .ranging) && decide (s.rings[r].state ≠ .config)) = false := by
    rcases hst with h | h <;> rw [h] <;> rfl
  simp only [exec_rangePollTimeout, execRangePollTimeout, hstart, hpolls, hact, hq, htwin, Bool.not_true, Bool.false_and,
    Option.isSome_none, List.isEmpty_nil, Bool.or_self, Bool.false_or, Bool.false_eq_true, if_false, decide_eq_true_eq,
    Bool.and_eq_true, Bool.not_eq_true', Option.isNone_iff_eq_none, and_assoc]

variable {t : Nat}

theorem exec_ringActivateBoundary_none (h : s.rings[r].activateAt = none) : exec (.ringActivateBoundary r) s = .next s := by
  simp only [exec_ringActivateBoundary, execRingActivateBoundary, h]

theorem exec_ringActivateBoundary_waits (h : s.rings[r].activateAt = some t)
    (hnot : s.rings[r].state ≠ .config ∨ s.stamp < t) : exec (.ringActivateBoundary r) s = .next s := by
  simp only [exec_ringActivateBoundary, execRingActivateBoundary, h, if_pos hnot]

theorem exec_ringActivateBoundary_runs (h : s.rings[r].activateAt = some t) (hst : s.rings[r].state = .config)
    (hdue : t ≤ s.stamp) :
    exec (.ringActivateBoundary r) s = .next ((s.setRing r { s.rings[r] with
      state := .run, activateAt := none, collisions := 0, adv := s.cell.placement.rings[r].adv
      nodes := s.rings[r].nodes.map (fun e =>
        (e.1, if e.2.state = .config then { e.2 with state := .run, run := 0 } else e.2))
      head := s.rings[r].starter, missA := 0, missB := 0, backRun := 0, ownData := [], backA := [], backB := []
      broken := false, breakHop := 0xFF }).notice .ringRun r.val 0) := by
  have hnot : ¬ (s.rings[r].state ≠ .config ∨ s.stamp < t) := fun e => e.elim (absurd hst) (Nat.not_lt.2 hdue)
  simp only [exec_ringActivateBoundary, execRingActivateBoundary, h, if_neg hnot]

end Poll

/-! ### The deadline of a node (R133) -/

section Deadline
variable {s : State} {r : Fin 4} {hop : Nat}

theorem exec_slotLostDeadline_none (h : s.rings[r].state ≠ .run ∨ (s.rings[r].hop hop).scheduled = false ∨
    s.deadlineCycle r (s.rings[r].hop hop) = none) : exec (.slotLostDeadline r hop) s = .next s := by
  rw [exec_slotLostDeadline, execSlotLostDeadline]
  split
  · rfl
  next hnot =>
    obtain ⟨hrun, hsched⟩ := not_or.1 hnot
    simp only [(h.resolve_left hrun).resolve_left hsched]

/-- The deadline of a cycle that is not older than the one held closes it where it is still open. -/
theorem exec_slotLostDeadline_due {q : Nat} (hrun : s.rings[r].state = .run)
    (hsched : (s.rings[r].hop hop).scheduled = true) (hq : s.deadlineCycle r (s.rings[r].hop hop) = some q)
    (hheld : ∀ c, (s.rings[r].hop hop).cycle = some c → c = w32 q ∨ 2 ^ 31 ≤ (c - w32 q).toNat) :
    let t := if (s.rings[r].hop hop).cycle = some (w32 q) then s else s.newCycle r hop (w32 q)
    let n := t.rings[r].hop hop
    exec (.slotLostDeadline r hop) s =
      if (!n.scheduled || !n.live || n.final) = true then .next t else .next (t.settleCycle r hop) := by
  have hnot : ¬ (s.rings[r].state ≠ .run ∨ (s.rings[r].hop hop).scheduled = false) := fun e =>
    e.elim (absurd hrun) fun hno => Bool.noConfusion (hno.symm.trans hsched)
  rw [exec_slotLostDeadline, execSlotLostDeadline]
  simp only [if_neg hnot, hq]
  refine if_neg ?_
  cases hc : (s.rings[r].hop hop).cycle with
  | none => exact Bool.false_ne_true
  | some c =>
    have hle := hheld c hc
    simpa only [Bool.and_eq_true, decide_eq_true_eq, not_and, Nat.not_lt, ne_eq, ← or_iff_not_imp_left] using hle

end Deadline

/-! ### The device frame (R121, R138) -/

/-- To judge the returned cycles leaves the registers of the ring. -/
theorem foldl_judgeReturn_rcfg (qs : List Word) (x : RingSt) : (qs.foldl RingSt.judgeReturn x).rcfg = x.rcfg :=
  List.foldlRecOn (motive := fun y => y.rcfg = x.rcfg) qs RingSt.judgeReturn rfl
    fun y hy _ _ => (show (RingSt.judgeReturn y _).rcfg = y.rcfg from rfl).trans hy

@[simp] theorem State.checkReturn_cell (s : State) (r : Fin 4) : (s.checkReturn r).cell = s.cell := by
  unfold State.checkReturn
  dsimp only
  split
  · rfl
  · split <;> rfl

@[simp] theorem State.checkReturn_rcfg (s : State) (r : Fin 4) : (s.checkReturn r).rings[r].rcfg = s.rings[r].rcfg := by
  unfold State.checkReturn
  dsimp only
  split
  · simp [State.notice, foldl_judgeReturn_rcfg]
  · split <;> simp [State.notice, foldl_judgeReturn_rcfg]

@[simp] theorem State.checkReturn_servo (s : State) (r : Fin 4) : (s.checkReturn r).servo = s.servo := by
  unfold State.servo
  rw [State.checkReturn_cell]

@[simp] theorem State.checkReturn_shutterOf (s : State) (r : Fin 4) : (s.checkReturn r).shutterOf r = s.shutterOf r := by
  unfold State.shutterOf
  rw [State.checkReturn_rcfg, State.checkReturn_servo]

@[simp] theorem State.setRing_phaseCount (s : State) (r : Fin 4) (x : RingSt) :
    (s.setRing r x).phaseCount = s.phaseCount := rfl

theorem exec_deviceOutputFrame_none {s : State} {r : Fin 4} (h : s.rings[r].state ≠ .run ∨ s.cellOn = false ∨
    s.stamp < s.shutterOf r + s.outSlot r ∨
    s.onGrid s.servo ((s.shutterOf r + s.outSlot r) % s.servo) = false) : exec (.deviceOutputFrame r) s = .next s :=
  (exec_deviceOutputFrame s r).trans (if_pos h)

/-! ### Ranging rounds (R128) -/

theorem State.setRing_get_same (s : State) (r : Fin 4) (x : RingSt) : (s.setRing r x).rings[r] = x := by simp

theorem State.setRing_get_other {s : State} {r o : Fin 4} (h : o ≠ r) (x : RingSt) :
    (s.setRing r x).rings[o] = s.rings[o] := by simp [Fin.val_ne_of_ne h.symm]

/-- What a ranging round keeps while it goes through the hops: the state and the sums of its ring, and the other rings. -/
def State.SumsKept (r : Fin 4) (s t : State) : Prop :=
  t.rings[r].state = s.rings[r].state ∧ t.rings[r].sumA = s.rings[r].sumA ∧ t.rings[r].sumB = s.rings[r].sumB ∧
    ∀ o : Fin 4, o ≠ r → t.rings[o] = s.rings[o]

section SumsKept
variable {r : Fin 4} {s t : State} (h : s.SumsKept r t)
include h

theorem State.SumsKept.setRing {x : RingSt} (hst : x.state = t.rings[r].state) (hA : x.sumA = t.rings[r].sumA)
    (hB : x.sumB = t.rings[r].sumB) : s.SumsKept r (t.setRing r x) := by
  obtain ⟨hst', hA', hB', ho⟩ := h
  rw [State.SumsKept, State.setRing_get_same]
  exact ⟨hst.trans hst', hA.trans hA', hB.trans hB', fun o hne => (State.setRing_get_other hne x).trans (ho o hne)⟩

theorem State.SumsKept.putHop (hop : Nat) (n : NodeSt) : s.SumsKept r (t.putHop r hop n) := h.setRing rfl rfl rfl

/-- A hop whose delays moved also queues its DELAY record. -/
theorem State.SumsKept.queueHop (hop : Nat) (n : NodeSt) (gen : Word) (recs : List (List Byte)) :
    s.SumsKept r (t.setRing r ((t.rings[r].putHop hop n).queueRecords gen recs)) := h.setRing rfl rfl rfl

end SumsKept

theorem exec_rangingRound_none {s : State} {r : Fin 4}
    (h : s.rings[r].state ≠ .run ∨ s.onGrid s.servo 0 = false ∨ s.seqNo % 1024 ≠ 0) :
    exec (.rangingRound r) s = .next s := (exec_rangingRound s r).trans (if_pos h)

/-- Behind the hops the loop delays become the means of the sums, which begin anew. -/
theorem exec_rangingRound_means {s : State} {r : Fin 4} (hrun : s.rings[r].state = .run)
    (hgrid : s.onGrid s.servo 0 = true) (hround : s.seqNo % 1024 = 0) :
    let mean := fun (u : Nat × Nat) => if u.2 = 0 then (0xFFFFFFFF : Word) else w32 (u.1 / u.2)
    let hold := fun (u : Nat × Nat) (old : Option Nat) => if u.2 = 0 then old else some (u.1 / u.2)
    ∃ t, s.SumsKept r t ∧ exec (.rangingRound r) s = .next (t.setRing r { t.rings[r] with
      loopA := mean t.rings[r].sumA, loopB := mean t.rings[r].sumB
      heldA := hold t.rings[r].sumA t.rings[r].heldA, heldB := hold t.rings[r].sumB t.rings[r].heldB
      sumA := (0, 0), sumB := (0, 0) }) := by
  have hnot : ¬ (s.rings[r].state ≠ .run ∨ s.onGrid s.servo 0 = false ∨ s.seqNo % 1024 ≠ 0) := by
    rw [hrun, hgrid, hround]
    decide
  refine ⟨_, ?_, (exec_rangingRound s r).trans (if_neg hnot)⟩
  refine List.foldlRecOn (motive := s.SumsKept r) _ _ ⟨rfl, rfl, rfl, fun _ _ => rfl⟩ fun t ht h _ => ?_
  dsimp only
  split
  · exact ht.queueHop _ _ _ _
  · exact ht.putHop _ _

/-- Settles O46: the events in the order of the statement, each by the lemma of its row. -/
theorem ringEventsComplete : Obligations.RingEventsComplete := by
  unfold Obligations.RingEventsComplete
  intro r s
  refine ⟨⟨fun hst => ?_, fun hst => ?_, fun hst => ?_, exec_ringWindowExpiry_none⟩,
    fun b ok bytes e => exec_coldstart_rejected, fun b ok bytes h hok htype => ?_,
    fun b ok f bytes e => exec_rangeRsp_rejected,
    fun b ok f bytes h rec hok htype hstart hst hact hq hhop hconf hnode hmac => ?_,
    fun hstart hst hact hq htwin => ?_,
    fun t hact => ⟨exec_ringActivateBoundary_runs hact, exec_ringActivateBoundary_waits hact⟩,
    exec_ringActivateBoundary_none, fun b ok f bytes e => exec_nodeFrame_rejected, fun b ok f bytes h hok => ?_,
    fun hop q hrun hsched hq hheld => ?_, fun hop => exec_slotLostDeadline_none,
    ⟨fun hrun hon ho hgrid => ?_, exec_deviceOutputFrame_none⟩, fun hrun hgrid hround => ?_, exec_rangingRound_none⟩
  · rw [exec_ringWindowExpiry_listen hst]
    exact ite_before _ _
  · rw [exec_ringWindowExpiry_coldstart hst]
    exact ite_before _ _
  · rw [exec_ringWindowExpiry_backoff hst]
    refine ⟨fun hm => ?_, fun hm => ?_⟩
    · rw [if_neg (Bool.eq_false_iff.1 hm)]
      exact ite_before _ _
    · rw [if_pos hm]
      exact ite_before _ _
  · rw [exec_coldstart_taken hok htype]
    refine ⟨fun hown => ?_, fun hown hB => ?_, fun hown hA => ?_⟩
    · rw [hown, State.takeCold_other]
    · rw [hown, State.takeCold_own_chB hB]
    · rw [hown, State.takeCold_own_chA hA]
  · rw [exec_rangeRsp_taken hok htype]
    have hpolled := State.takeRangeRsp_polled (s := s.ringForward r b bytes) (r := r) (h := h) (arr := s.laneIn r b f.val)
      (bytes := bytes) (rec := rec)
    simp only [State.ringForward_rings, State.ringForward_theCell] at hpolled
    exact congrArg _ (hpolled hstart hst hact hq hhop hconf hnode hmac)
  · rw [exec_rangePollTimeout_alone hstart hst hact hq htwin]
    exact ite_before _ _
  · rw [exec_nodeFrame_valid hok]
    refine ⟨fun hown => ?_, fun hown htype => ?_, fun hown htype hsrc => ?_, fun hown htype hsrc hrun hn => ?_⟩
    · rw [if_pos hown]
    · rw [if_neg (Bool.eq_false_iff.1 hown), if_pos htype]
    · rw [if_neg (Bool.eq_false_iff.1 hown), if_neg htype, if_pos hsrc]
    · have htake := State.takeNodeFrame_scheduled (s := s.ringForward r b bytes) (r := r) (b := b)
        (arr := s.laneIn r b f.val) htype
      rw [State.ringForward_rings] at htake
      rw [if_neg (Bool.eq_false_iff.1 hown), if_neg (by omega), if_neg hsrc, htake hrun hn]
      exact ⟨fun hgen => congrArg _ (if_neg (not_not.2 hgen)), fun hgen => congrArg _ (if_pos hgen)⟩
  · rw [exec_slotLostDeadline_due hrun hsched hq hheld]
    refine ⟨fun h1 h2 h3 => if_neg ?_, fun h => if_pos ?_⟩
    · rw [h1, h2, h3]
      decide
    · simpa only [Bool.or_eq_true, Bool.not_eq_true', or_assoc] using h
  · have hnot : ¬ (s.rings[r].state ≠ .run ∨ s.cellOn = false ∨ s.stamp < s.shutterOf r + s.outSlot r ∨
        s.onGrid s.servo ((s.shutterOf r + s.outSlot r) % s.servo) = false) := by
      rw [hrun, hon, hgrid]
      simpa using ho
    rw [exec_deviceOutputFrame, execDeviceOutputFrame]
    -- To judge the returns and to note the cycle changes neither the servo cycle nor the shutter offset nor the phases.
    refine (if_neg hnot).trans (congrArg _ ?_)
    simp only [State.checkReturn_servo, State.checkReturn_shutterOf, State.setRing_phaseCount]
  · obtain ⟨t, ⟨hst, hA, hB, ho⟩, hexec⟩ := exec_rangingRound_means hrun hgrid hround
    refine ⟨_, hexec, ?_⟩
    rw [State.setRing_get_same, ← hA, ← hB]
    exact ⟨rfl, rfl, rfl, rfl, hst.trans hrun, fun o hne => (State.setRing_get_other hne _).trans (ho o hne)⟩

end Sys2Proof.Machine
end

section
/-! SUPPORT. The events of the reference stage, of the barriers and of the auxiliary axes (R154, R158 to R160, R166, R167, R170,
R171, R176). -/

namespace Sys2Proof.Machine

/-! ### The reference stage (R159, R160) -/

/-- At a planning tick boundary the stages run one after the other, on the commands that waited when they began. -/
theorem exec_referenceStage_onGrid {s : State} (h : s.onGrid 1000000 0 = true) :
    let t := s.latchDue.takeOver.enterBracket
    let a := foldOn (List.range 16) (t.setMotion { t.motion with cmds := [] }) (fun u c => u.applyCmds t.motion (f16 c))
    let b := (foldOn (List.range 16) a (fun u c => u.stageOne (f16 c))).releaseAll
    let p := b.theCell.chains.foldl (fun u r => u.replan (f16 r.chain) r) b
    let c := (foldOn (List.range 16) p (fun u c => u.setForces (f16 c))).newReferences
    let d := t.motion.cmds.foldl (fun u x => u.completeCmd x) c
    exec .referenceStage s = .next (foldOn (List.range 16) d (fun u c => u.startBrakeTest (f16 c))).readmitNodes :=
  if_neg (by simp [h])

theorem exec_referenceStage_offGrid {s : State} (h : s.onGrid 1000000 0 = false) : exec .referenceStage s = .next s :=
  if_pos (by simp [h])

/-! ### Barriers (R170) -/

theorem exec_barrierTimeout (c : Fin 16) (s : State) : exec (.barrierTimeout c) s = execBarrierTimeout c s := rfl

/-- The timeout of the barrier at which a chain waits has run out, in cell time from the chain's arrival (R170). -/
def State.barrierLate (s : State) (m : Nat) : Bool :=
  match s.motion.chains[f16 m].current, s.motion.chains[f16 m].arrived with
  | some o, some a => decide (barTimeout o ≠ 0) && decide (a + barTimeout o * 1000000 ≤ s.time.cellNs)
  | _, _ => false

theorem State.barrierLate_iff {s : State} {m : Nat} : s.barrierLate m = true ↔
    ∃ o a, s.motion.chains[f16 m].current = some o ∧ s.motion.chains[f16 m].arrived = some a ∧
      barTimeout o ≠ 0 ∧ a + barTimeout o * 1000000 ≤ s.time.cellNs := by
  rw [State.barrierLate]
  cases s.motion.chains[f16 m].current with
  | none => simp
  | some o => cases s.motion.chains[f16 m].arrived <;> simp

/-- The chains that wait at the barrier of a chain take the fault together, as soon as one of them has waited too long. -/
theorem exec_barrierTimeout_expired {s : State} {c : Fin 16} {r : List Byte} (hb : s.motion.chains[c].atBarrier = some r)
    (he : s.expired (DelayEntry.ofUser 7 c.val) = true) :
    let u := s.entryRun (DelayEntry.ofUser 7 c.val)
    let mem := (maskBits 16 (barMask r)).filter (fun m => u.hasReached m (barId r) (barMask r))
    exec (.barrierTimeout c) s = .next (if mem.any u.barrierLate
      then foldOn mem u (fun u m => u.barrierOut (f16 m)) else u) := by
  have hu : (s.entryRun (DelayEntry.ofUser 7 c.val)).motion.chains[c].atBarrier = some r := hb
  rw [exec_barrierTimeout, execBarrierTimeout, State.onExpiry_expired he, hu]
  rfl

theorem exec_barrierTimeout_waits {s : State} {c : Fin 16} (he : s.expired (DelayEntry.ofUser 7 c.val) = false) :
    exec (.barrierTimeout c) s = .next s := congrArg _ (State.onExpiry_waits he _)

/-- Settles O44: the reference stage, the barrier whose delay entry runs, and MO_AUXCMD with a value within the limits or not. -/
theorem motionEventsComplete : Obligations.MotionEventsComplete := by
  unfold Obligations.MotionEventsComplete
  intro s
  refine ⟨exec_referenceStage_onGrid, exec_referenceStage_offGrid, fun c r hb he => ?_,
    fun c he => exec_barrierTimeout_waits he, fun k v h => if_neg (Bool.eq_false_iff.1 h), fun k v h => if_pos h⟩
  have hexec := exec_barrierTimeout_expired hb he
  refine ⟨fun ⟨m, hm, hlate⟩ => hexec.trans (congrArg _ (if_pos ?_)), fun hnone => hexec.trans (congrArg _ (if_neg ?_))⟩
  · exact List.any_eq_true.2 ⟨m, hm, State.barrierLate_iff.2 hlate⟩
  · rw [List.any_eq_true]
    exact fun ⟨m, hm, hlate⟩ => hnone m hm (State.barrierLate_iff.1 hlate)

end Sys2Proof.Machine
end

section
/-! SUPPORT. The events of the loop engines: setpoints, batches of a node, cut-offs and the arming of a capture (R165, R177, R181,
R193, R195, R198). -/

namespace Sys2Proof.Machine

theorem exec_setpointEvaluation (a : Fin 160) (s : State) :
    exec (.setpointEvaluation a) s = execSetpointEvaluation a s := rfl
theorem exec_loopBatch (k : Nat) (s : State) : exec (.loopBatch k) s = execLoopBatch k s := rfl
theorem exec_loopCutoffMiss (e : Fin 16) (k : Fin 32) (s : State) :
    exec (.loopCutoffMiss e k) s = execLoopCutoffMiss e k s := rfl

/-! ### Setpoints (R165) -/

section Setpoint
variable {s : State} {a : Fin 160} {r : Fin 4} (hr : s.ringOfAxis a.val = some r)
include hr

/-- 2 µs before a shutter instant the setpoint of the instant goes into its axis. -/
theorem exec_setpointEvaluation_due (hon : s.cellOn = true) (hle : s.shutterOf r ≤ s.stamp + 2000)
    (hgrid : (s.stamp + 2000 - s.shutterOf r) % s.servo = 0) :
    let sp := s.setpointAt a (w32 ((s.stamp + 2000 - s.shutterOf r) / s.servo)) (s.stamp + 2000)
    let x := s.loops.axes[a]
    let t := s.setAxis a { x with
      setPrev := x.setCur, setCur := some sp, vff := sw sp.vff, tff := if s.suspended a.val then x.tff else sw sp.tff }
    exec (.setpointEvaluation a) s = .next ((t.setFree (s.free + 3)).coeffsWhileFaulted a.val (s.stamp + 2000)) := by
  rw [exec_setpointEvaluation, execSetpointEvaluation, hr]
  exact if_neg (by simp [hon, hgrid, Nat.not_lt.2 hle])

theorem exec_setpointEvaluation_none (h : s.cellOn = false ∨ s.stamp + 2000 < s.shutterOf r ∨
    (s.stamp + 2000 - s.shutterOf r) % s.servo ≠ 0) : exec (.setpointEvaluation a) s = .next s := by
  rw [exec_setpointEvaluation, execSetpointEvaluation, hr]
  exact if_pos h

end Setpoint

/-! ### Batches of a node (R195) -/

section Batch
variable {s : State} {k : Nat} {n : NodeRec} {seq : Word} {bs : List Byte} (hn : s.theCell.nodes[k]? = some n)
include hn

/-- The latest copy of a drive node feeds the loops of its axes, then the kernels bound to the loops that were fed. -/
theorem exec_loopBatch_copy (hon : s.cellOn = true) (hdrive : n.kind = 0)
    (hcopy : (mget {} s.rings[f4 n.ring].nodes n.hop).data = some (seq, false, bs)) :
    let at_ := s.cycleStart seq + s.shutterOf (f4 n.ring)
    let axes := n.axisList.take n.naxes
    let fed := axes.filter (fun a => !s.loops.axes[f160 a].fault && !s.suspended a)
    let loops := (axes.flatMap (fun a => s.freshSlots a seq)).map (fun p => s.loops.engines[f16 p.1].slots[f32i p.2].loop)
    exec (.loopBatch k) s = .next ((axes.foldl (fun u a =>
      u.axisBatch a (axisIn bs (axisOffset n a)) seq at_) (s.spans (fed.flatMap (fun a => s.batchSlots a seq)))).activateLoops
        n loops seq bs) := by
  rw [exec_loopBatch, execLoopBatch, hn]
  refine (if_neg (by simp [hon, hdrive])).trans ?_
  rw [hcopy]
  exact if_neg Bool.false_ne_true

/-- A copy of a node in FAULT feeds nothing. -/
theorem exec_loopBatch_inFault (hcopy : (mget {} s.rings[f4 n.ring].nodes n.hop).data = some (seq, true, bs)) :
    exec (.loopBatch k) s = .next s := by
  rw [exec_loopBatch, execLoopBatch, hn]
  refine ite_eq_iff'.2 ⟨fun _ => rfl, fun _ => ?_⟩
  rw [hcopy]
  exact if_pos rfl

end Batch

/-! ### Cut-offs (R193, R194, R338) -/

section Cutoff
variable {s : State} {e : Fin 16} {k : Fin 32}

/-- A cut-off that passes on a working slot of a running ring without feedback: a suspended axis and a faulted one only count the
sample off, on any other the slot misses it. -/
theorem exec_loopCutoffMiss_missed {r : Fin 4} {n : Nat} {q : Word} (hv : s.loops.engines[e].slots[k].valid = true)
    (hf : s.loops.engines[e].faulted = false) (hm : s.loops.engines[e].masked = false)
    (hr : s.ringOfAxis s.loops.engines[e].slots[k].axis = some r) (hrun : s.rings[r].state = .run)
    (hcut : s.pastCutoff (s.cutoffOffset s.loops.engines[e].slots[k].loop s.loops.engines[e].slots[k].axis) = some n)
    (hmiss : s.loops.engines[e].slots[k].missed n = some q) :
    let l := s.loops.engines[e].slots[k]
    let x := s.loops.axes[f160 l.axis]
    exec (.loopCutoffMiss e k) s =
      if s.suspended l.axis then .next (s.setSlot e k { l with lastSeq := some q })
      else if x.fault then .next ((s.setSlot e k { l with lastSeq := some q }).setAxis (f160 l.axis)
        { x with causeHolds := x.causeHolds || x.cause == 1 })
      else .next (if l.primary && l.copy == 0 then (s.slotMiss e k q).advanceHandover l.key else s.slotMiss e k q) := by
  simp only [exec_loopCutoffMiss, execLoopCutoffMiss, hv, hf, hm, hr, hrun, hcut, hmiss, decide_true, Bool.not_true,
    Bool.or_self, Bool.false_eq_true, if_false, apply_ite Host.Outcome.next]

/-- A slot without a loop, or whose next sample has its cut-off to come, misses nothing. -/
theorem exec_loopCutoffMiss_none (h : s.loops.engines[e].slots[k].valid = false ∨
    s.pastCutoff (s.cutoffOffset s.loops.engines[e].slots[k].loop s.loops.engines[e].slots[k].axis) = none ∨
    ∃ n, s.pastCutoff (s.cutoffOffset s.loops.engines[e].slots[k].loop s.loops.engines[e].slots[k].axis) = some n ∧
      s.loops.engines[e].slots[k].missed n = none) : exec (.loopCutoffMiss e k) s = .next s := by
  rw [exec_loopCutoffMiss, execLoopCutoffMiss]
  rcases h with hv | hcut | ⟨n, hcut, hmiss⟩
  · simp only [hv, Bool.not_false, Bool.true_or, if_true]
  · simp only [hcut, ite_self]
  · simp only [hcut, hmiss, ite_self]

end Cutoff

/-- Settles O45: the events in the order of the statement, each by the lemma of its row. -/
theorem loopEventsComplete : Obligations.LoopEventsComplete := by
  unfold Obligations.LoopEventsComplete
  intro s
  refine ⟨fun a r hon hr => exec_setpointEvaluation_due hr hon, fun a r h hr => exec_setpointEvaluation_none hr h,
    fun k n seq bs hon hn hdrive => exec_loopBatch_copy hn hon hdrive, fun k n seq bs hn => exec_loopBatch_inFault hn,
    fun e k r n q => ?_, fun e k r n q => ?_, fun e k => exec_loopCutoffMiss_none, fun e => rfl⟩
  · intro l x hv hf hm hr hrun hsus hcut hmiss
    have hexec := (exec_loopCutoffMiss_missed hv hf hm hr hrun hcut hmiss).trans (if_neg (Bool.eq_false_iff.1 hsus))
    exact ⟨fun hx => hexec.trans (if_neg (Bool.eq_false_iff.1 hx)), fun hx => hexec.trans (if_pos hx)⟩
  · intro l hv hf hm hr hrun hsus hcut hmiss
    exact (exec_loopCutoffMiss_missed hv hf hm hr hrun hcut hmiss).trans (if_pos hsus)

end Sys2Proof.Machine
end

section
/-! SUPPORT. The events of the Enlarger and the solver around a planning tick: assembly, solve request, overrun and distribution
(R159, R161, R208, R227, R234 to R236, R241, R243). -/

namespace Sys2Proof.Machine

theorem exec_solveRequest (p : Fin 4) (s : State) : exec (.solveRequest p) s = execSolveRequest p s := rfl

/-! ### Assembly (R161, R208) -/

/-- At 80 µs of a planning tick the current images are assembled one after the other, in ascending problem index. -/
theorem exec_assembly_onGrid {s : State} (hon : s.cellOn = true) (hgrid : s.onGrid 1000000 80000 = true) :
    let late := s.latchDue.lateStage
    let t := late.setSolver { late.solver with snapshot := late.takeSnapshot }
    let img := fun (p : Nat) => t.imageOf (f4 p)
    let start := t.theCell.assemblyStart ((List.range 4).filterMap img)
    let r := (List.range 4).foldl (fun (x : State × Nat) p => match img p with
      | none => x
      | some g => (x.1.assembleOne (f4 p) g (decide (150000 < start + ceilDiv (x.2 + g.live) 32 + 500)), x.2 + g.live)) (t, 0)
    let u := satN 65535 ((start + ceilDiv r.2 32 + 500) / 4)
    exec .assembly s = .next (r.1.setSolver { r.1.solver with asmLast := u, asmMax := max r.1.solver.asmMax u }) :=
  if_neg (by simp [hon, hgrid])

/-! ### Solve requests (R227, R234) -/

/-- A solve at its start: the program at its first instruction, the scalars loaded, and nothing counted but the cycles of the
request. -/
def SolveSt.started (v : SolveSt) (tick cycles : Nat) : SolveSt :=
  { v with
    running := true, halted := false, tick := tick, pc := 0, loops := [], emitted := []
    scal := (((Vector.replicate 16 (0 : Word)).set 0 v.rhoIn).set 1 (nDiv f32One v.rhoIn 0).val |>.set 2 v.sigmaIn).set 3 f32One
    pivot := false, ovf := false, mismatch := false, cold := false, outerRun := 0, innerRun := 0
    gammaPre := 0, gammaStart := 0, gammaEnd := 0, floored := 0, saturated := 0, inverted := 0
    varMatched := 0, conMatched := 0, cycles := cycles }

/-- To ask for a unit concerns the arbiters alone. -/
theorem State.askUnit_setDisp (s : State) (i r : Nat) : ∃ d, s.askUnit i r = s.setDisp d := by
  unfold State.askUnit
  split
  · exact ⟨s.disp, rfl⟩
  · exact ⟨_, rfl⟩

theorem State.requestParts_setDisp (s : State) (x : ProbSt) : ∃ d, s.requestParts x = s.setDisp d := by
  refine List.foldlRecOn (motive := fun t : State => ∃ d, t = s.setDisp d) _ _ ⟨s.disp, rfl⟩ ?_
  rintro t ⟨d, rfl⟩ i -
  obtain ⟨d', h⟩ := (s.setDisp d).askUnit_setDisp i 0
  exact ⟨d', h⟩

/-- Storing a solve keeps it but for its counts. -/
theorem State.noteSolve_solve (s : State) (p : Fin 4) (v : SolveSt) :
    ∃ c, (s.noteSolve p v).solver.solves[p] = { v with cnt := c } := by
  simp [State.noteSolve, State.setSolver]

theorem State.noteSolve_disp (s : State) (p : Fin 4) (v : SolveSt) : (s.noteSolve p v).disp = s.disp := rfl

section Request
variable {s : State} {p : Fin 4} {g : SchedImage} (hon : s.cellOn = true) (hgrid : s.onGrid 1000000 230000 = true)
  (himg : s.imageOf p = some g)
include hon hgrid himg

/-- A problem with a complete assembly and its partitions in place asks for them, and its solve starts within the 2,048 cycles of
the grant. -/
theorem exec_solveRequest_starts (hdone : s.solver.probs[p].complete = some s.tickNo)
    (hstaged : s.solver.probs[p].staging = false) (hparts : s.partsDown s.solver.probs[p] = false) :
    ∃ sat cycles, 200 ≤ cycles ∧ cycles ≤ 2248 ∧ exec (.solveRequest p) s =
      let v := s.solver.solves[p].started s.tickNo cycles
      .next ((((s.requestParts s.solver.probs[p]).setSolve p v).noteSolve p (v.count sat)).nextFree) := by
  have hready : ¬ (s.solver.probs[p].complete ≠ some s.tickNo ∨ s.solver.probs[p].staging = true ∨
      s.partsDown s.solver.probs[p] = true) := by
    rw [hdone, hstaged, hparts]
    simp
  rw [exec_solveRequest, execSolveRequest, if_neg (by simp [hon, hgrid]), himg]
  dsimp only
  rw [if_neg hready]
  obtain ⟨d, hd⟩ := s.requestParts_setDisp s.solver.probs[p]
  rw [hd]
  refine ⟨_, _, Nat.le_add_right 200 _, ?_, rfl⟩
  split <;> omega

/-- A problem whose assembly is not complete, that is still staged, or whose partition is masked has no solve in the tick. -/
theorem exec_solveRequest_notSolved (h : s.solver.probs[p].complete ≠ some s.tickNo ∨ s.solver.probs[p].staging = true ∨
    s.partsDown s.solver.probs[p] = true) : exec (.solveRequest p) s = .next (s.notSolved p 1) := by
  rw [exec_solveRequest, execSolveRequest, if_neg (by simp [hon, hgrid]), himg]
  exact if_pos h

end Request

/-! ### Overrun and distribution (R235, R243) -/

theorem exec_solveOverrun_due {s : State} (p : Fin 4) (h : 930000 ≤ s.stamp % 1000000) :
    exec (.solveOverrun p) s = .next (s.overrun p) := if_neg (by simpa using h)

theorem exec_distribution_onGrid {s : State} (hon : s.cellOn = true) (hgrid : s.onGrid 1000000 930000 = true) :
    exec .distribution s =
      .next (foldOn (List.range 4) s (fun t p => (t.overrun (f4 p)).settle (f4 p))).auxBanks := if_neg (by simp [hon, hgrid])

/-- Settles O39: the stages of a planning tick in their order. -/
theorem solverEventsComplete : Obligations.SolverEventsComplete := by
  unfold Obligations.SolverEventsComplete
  intro s hon
  refine ⟨exec_assembly_onGrid hon, fun p g hgrid himg hdone hstaged hparts => ?_,
    fun p g hgrid himg => exec_solveRequest_notSolved hon hgrid himg, exec_solveOverrun_due, exec_distribution_onGrid hon⟩
  obtain ⟨sat, cycles, hlo, hhi, hexec⟩ := exec_solveRequest_starts hon hgrid himg hdone hstaged hparts
  refine ⟨_, hexec, ?_⟩
  obtain ⟨c, hsolve⟩ := State.noteSolve_solve ((s.requestParts s.solver.probs[p]).setSolve p
    (s.solver.solves[p].started s.tickNo cycles)) p ((s.solver.solves[p].started s.tickNo cycles).count sat)
  rw [State.nextFree_solver, hsolve, State.nextFree_disp, State.noteSolve_disp, State.setSolve_disp]
  exact ⟨rfl, rfl, rfl, rfl, rfl, rfl, rfl, rfl, rfl, hlo, hhi, rfl⟩

end Sys2Proof.Machine
end

section
/-! SUPPORT. The commands of the captures (R198, R199). -/

namespace Sys2Proof.Machine

/-- Settles O19: each clause fixes the checks of its row up to the one that decides: the engine, the capture, its length. -/
theorem traceCommandsComplete : Obligations.TraceCommandsComplete := by
  unfold Obligations.TraceCommandsComplete
  exact ⟨completes_of (fun _ _ _ => rfl) fun p t ⟨hengine, hheld, hlen⟩ =>
      (if_neg (Nat.not_lt.2 hengine)).trans ((if_neg (not_not_intro hheld)).trans (if_neg (Nat.not_lt.2 hlen))),
    completes_of (fun _ _ _ => rfl) fun p t hengine => if_pos hengine,
    completes_of (fun _ _ _ => rfl) fun p t ⟨hengine, hother⟩ => (if_neg (Nat.not_lt.2 hengine)).trans (if_pos hother),
    completes_of (fun _ _ _ => rfl) fun p t ⟨hengine, hheld, hend⟩ =>
      (if_neg (Nat.not_lt.2 hengine)).trans ((if_neg (not_not_intro hheld)).trans (if_pos hend)),
    completes_of (fun _ _ _ => rfl) fun p t hmask => if_neg (Nat.not_lt.2 hmask),
    completes_of (fun _ _ _ => rfl) fun p t hmask => if_pos hmask,
    completes_of (fun _ _ _ => rfl) fun p t hengine => if_neg (Nat.not_lt.2 hengine),
    completes_of (fun _ _ _ => rfl) fun p t hengine => if_pos hengine⟩

end Sys2Proof.Machine
end

section
/-! SUPPORT. The lane instructions of a solve (R226 to R232, R234, R244). -/

namespace Sys2Proof.Machine

/-! ### A lane instruction in its place and elsewhere -/

section LaneOp
variable {s : State} {p : Fin 4} {op : Nat} {f : SchedImage → LaneInstr → SolveSt → SolveSt}

theorem State.laneOp_none (h : s.nextLane p op = none) : s.laneOp p op f = s := by
  rw [State.laneOp, h]

theorem State.laneOp_some {g : SchedImage} {i : LaneInstr} (h : s.nextLane p op = some (g, i)) :
    let v := f g i s.solver.solves[p]
    s.laneOp p op f = s.noteSolve p { v with cycles := v.cycles + g.cost i, pc := v.pc + 1 } := by
  rw [State.laneOp, h]

theorem State.laneOp_disp : (s.laneOp p op f).disp = s.disp := by
  cases h : s.nextLane p op with
  | none => rw [State.laneOp_none h]
  | some x => rw [State.laneOp_some h]; rfl

end LaneOp

/-- A row that runs one lane operation, whatever the operation computes, does what LaneStep says. -/
theorem laneStep_of {c : Fin 4 → Instr} {op : Nat} {f : State → Fin 4 → SchedImage → LaneInstr → SolveSt → SolveSt}
    (h : ∀ p s, exec (c p) s = .next (s.laneOp p op (f s p))) : LaneStep c op f :=
  fun p s _ _ hnext => (h p s).trans (congrArg _ (State.laneOp_some hnext))

theorem exec_lHalt_none {s : State} {p : Fin 4} {n : Nat} (h : s.nextLane p opHalt = none) :
    exec (.lHalt p n) s = .next s := by
  change execLHalt p n s = .next s
  rw [execLHalt, h]

/-- The solve of a problem as HALT leaves it, before the errors corrected in its partitions are counted (R232, R244). -/
def State.haltedSolve (s : State) (p : Fin 4) (g : SchedImage) (i : LaneInstr) : SolveSt :=
  let nums := s.reportNumbers p g s.solver.solves[p]
  let v : SolveSt := { s.solver.solves[p].count nums.sat with
    cycles := s.solver.solves[p].cycles + g.cost i + g.reportCost, halted := true }
  { v with
    report := reportBytes v nums.vals v.flagByte 0 g.family, flags := v.flagByte, repTick := v.tick
    cycLast := v.cycles, cycMax := max v.cycMax v.cycles }

theorem exec_lHalt_some {s : State} {p : Fin 4} {n : Nat} {g : SchedImage} {i : LaneInstr}
    (h : s.nextLane p opHalt = some (g, i)) :
    exec (.lHalt p n) s =
      .next (((s.noteSolve p (s.haltedSolve p g i)).corrected p n).releaseParts s.solver.probs[p]) := by
  change execLHalt p n s = _
  rw [execLHalt, h]
  rfl

/-- Settles O37: each row runs its own lane operation, and HALT has its own equation. -/
theorem laneInstructionsComplete : Obligations.LaneInstructionsComplete := by
  unfold Obligations.LaneInstructionsComplete
  exact ⟨laneStep_of fun _ _ => rfl, laneStep_of fun _ _ => rfl, laneStep_of fun _ _ => rfl, laneStep_of fun _ _ => rfl,
    laneStep_of fun _ _ => rfl, laneStep_of fun _ _ => rfl, laneStep_of fun _ _ => rfl, laneStep_of fun _ _ => rfl,
    laneStep_of fun _ _ => rfl, laneStep_of fun _ _ => rfl, laneStep_of fun _ _ => rfl, laneStep_of fun _ _ => rfl,
    laneStep_of fun _ _ => rfl, laneStep_of fun _ _ => rfl, fun _ _ _ _ _ hnext => exec_lHalt_some hnext⟩

/-! ### What a lane instruction leaves unchanged -/

/-- The state with another solve of one problem, another SV_STAT and other arbiters: the reach of the lane instructions. -/
def State.withSolve (s : State) (p : Fin 4) (v : SolveSt) (stat : Word) (arbs : Vector ArbSt 25) : State :=
  (s.setSolver { s.solver with solves := s.solver.solves.set p v, stat := stat }).setDisp { s.disp with arbs := arbs }

/-- Two states that differ at most in the solve of one problem, in SV_STAT and in the arbiters. -/
def State.SolveOnly (s : State) (p : Fin 4) (t : State) : Prop := ∃ v stat arbs, t = s.withSolve p v stat arbs

namespace State.SolveOnly
variable {s t : State} {p : Fin 4}

theorem refl (s : State) (p : Fin 4) : s.SolveOnly p s :=
  ⟨s.solver.solves[p], s.solver.stat, s.disp.arbs, by rw [State.withSolve, Fin.getElem_fin, Vector.set_getElem_self]; rfl⟩

/-- Another solve and another SV_STAT on top of such a change are such a change. -/
theorem setSolver (h : s.SolveOnly p t) (v : SolveSt) (stat : Word) :
    s.SolveOnly p (t.setSolver { t.solver with solves := t.solver.solves.set p v, stat := stat }) := by
  obtain ⟨w, st, arbs, rfl⟩ := h
  refine ⟨v, stat, arbs, ?_⟩
  simp only [State.withSolve, State.setDisp_solver, State.setSolver_solver, Vector.set_set]
  rfl

theorem setArb (h : s.SolveOnly p t) (i : Nat) (a : ArbSt) : s.SolveOnly p (t.setArb i a) := by
  obtain ⟨v, stat, arbs, rfl⟩ := h
  exact ⟨v, stat, _, rfl⟩

theorem noteSolve (h : s.SolveOnly p t) (v : SolveSt) : s.SolveOnly p (t.noteSolve p v) := h.setSolver _ _

theorem laneOp (h : s.SolveOnly p t) (op : Nat) (f : SchedImage → LaneInstr → SolveSt → SolveSt) :
    s.SolveOnly p (t.laneOp p op f) := by
  cases hnext : t.nextLane p op with
  | none => rwa [State.laneOp_none hnext]
  | some x => rw [State.laneOp_some hnext]; exact h.noteSolve _

theorem corrected (h : s.SolveOnly p t) (n : Nat) : s.SolveOnly p (t.corrected p n) := h.setSolver _ t.solver.stat

theorem releaseParts (h : s.SolveOnly p t) (x : ProbSt) : s.SolveOnly p (t.releaseParts x) := by
  unfold State.releaseParts
  induction x.parts generalizing t with
  | nil => exact h
  | cons i r ih => exact ih (h.setArb _ _)

/-- The solve, SV_STAT and the arbiters of such a change are those that the new state holds. -/
theorem eq_withSolve (h : s.SolveOnly p t) : t = s.withSolve p t.solver.solves[p] t.solver.stat t.disp.arbs := by
  obtain ⟨v, stat, arbs, rfl⟩ := h
  simp only [State.withSolve, State.setDisp_solver, State.setSolver_solver, State.setDisp_disp, Fin.getElem_fin,
    Vector.getElem_set_self]

end State.SolveOnly

/-- A lane instruction acts only where its operation comes next, and changes only the solve of its problem, SV_STAT and,
for HALT, the arbiters. -/
def State.LaneConfined (s : State) (p : Fin 4) (op : Nat) (x : Instr) : Prop :=
  (s.nextLane p op = none → exec x s = .next s) ∧
  (∀ t, exec x s = .next t →
    t = s.withSolve p t.solver.solves[p] t.solver.stat t.disp.arbs ∧ (op ≠ opHalt → t.disp = s.disp))

/-- A row that runs a lane operation is confined to its place and to its solve, whatever the operation computes. -/
theorem laneConfined_of {s : State} {p : Fin 4} {op : Nat} {x : Instr} {f : SchedImage → LaneInstr → SolveSt → SolveSt}
    (h : exec x s = .next (s.laneOp p op f)) : s.LaneConfined p op x := by
  refine ⟨fun hnone => h.trans (congrArg _ (State.laneOp_none hnone)), fun t ht => ?_⟩
  obtain rfl := Host.Outcome.next.inj (h.symm.trans ht)
  exact ⟨((State.SolveOnly.refl s p).laneOp op f).eq_withSolve, fun _ => State.laneOp_disp⟩

theorem laneConfined_lHalt (s : State) (p : Fin 4) (n : Nat) : s.LaneConfined p opHalt (.lHalt p n) := by
  refine ⟨exec_lHalt_none, fun t ht => ⟨State.SolveOnly.eq_withSolve ?_, fun hop => absurd rfl hop⟩⟩
  cases hnext : s.nextLane p opHalt with
  | none =>
    obtain rfl := Host.Outcome.next.inj ((exec_lHalt_none hnext).symm.trans ht)
    exact .refl _ p
  | some x =>
    obtain rfl := Host.Outcome.next.inj ((exec_lHalt_some hnext).symm.trans ht)
    exact (((State.SolveOnly.refl s p).noteSolve _).corrected n).releaseParts _

/-- Settles O38: fourteen rows run a lane operation, and HALT stores its solve and releases partitions. -/
theorem laneOnlyWhereItIsNext : Obligations.LaneOnlyWhereItIsNext := by
  unfold Obligations.LaneOnlyWhereItIsNext
  intro p n s
  change ∀ x ∈ (_ : List (Nat × Instr)), s.LaneConfined p x.1 x.2
  simp only [List.forall_mem_cons]
  exact ⟨laneConfined_of rfl, laneConfined_of rfl, laneConfined_of rfl, laneConfined_of rfl, laneConfined_of rfl,
    laneConfined_of rfl, laneConfined_of rfl, laneConfined_of rfl, laneConfined_of rfl, laneConfined_of rfl,
    laneConfined_of rfl, laneConfined_of rfl, laneConfined_of rfl, laneConfined_of rfl, laneConfined_lHalt s p n,
    List.forall_mem_nil _⟩

end Sys2Proof.Machine
end

section
/-! SUPPORT. The instructions of a signal tile and its events (R250 to R258, R261 to R265). -/

namespace Sys2Proof.Machine

/-! ### One instruction in its place -/

/-- A slot of the instruction reaches outside the windows of the kernel (R261). -/
def Core.strays (c : Core) (im : KernelImage) (w : DWord) : Bool :=
  (insSlots w).any (fun j => slotEn j && !im.inWindow (c.slotAddr j))

/-- The state with the stores of an instruction made (R250). -/
def State.slotsStored (s : State) (t : Fin 16) (k : Fin 64) (w : DWord) : State :=
  let y := s.tiles.kernels[k]
  s.setKernel k { y with window := (insSlots w).foldl (fun m j => s.tiles.tiles[t].core.slotStoreTo m j) y.window }

/-- What an operation yields on the registers of a tile, before and after the memory slots (R250). -/
def State.opOut (s : State) (t : Fin 16) (k : Fin 64) (w : DWord) (f : Core → DWord → Core → OpOut) : OpOut :=
  let c := s.tiles.tiles[t].core
  f c w (c.afterSlots s.tiles.kernels[k].window (insSlots w))

/-- An operation's yield with the cycles of the instruction counted (R250). -/
def OpOut.counted (o : OpOut) (c : Core) (im : KernelImage) (w : DWord) : OpOut :=
  { o with core := { o.core with cyc := c.cyc + 1 + c.stall im (insSlots w) + o.extra } }

/-- The state with the stores made, the new registers on the tile and the sticky flags set (R247, R248). -/
def State.insDone (s : State) (t : Fin 16) (k : Fin 64) (w : DWord) (o : OpOut) : State :=
  ((s.slotsStored t k w).setTile t { s.tiles.tiles[t] with core := o.core }).sticky t o

section TileRun
variable {s : State} {t : Fin 16} {op : Nat} {f : Core → DWord → Core → OpOut} {fin : State → KernelImage → OpOut → State}
  {k : Fin 64} {im : KernelImage} {w : DWord}

theorem State.tileRun_none (h : s.nextIns t = none) : s.tileRun t op f fin = s := by
  rw [State.tileRun, h]

theorem State.tileRun_otherOp (h : s.nextIns t = some (k, im, w)) (hop : insOp w ≠ op) : s.tileRun t op f fin = s := by
  rw [State.tileRun, h]
  exact if_pos hop

/-- The kernel that a tile runs next is the one of its activation. -/
theorem State.nextIns_kernel (h : s.nextIns t = some (k, im, w)) : k = f64 s.tiles.tiles[t].core.kernel := by
  unfold State.nextIns at h
  dsimp only at h
  repeat' split at h
  all_goals simp_all

variable (h : s.nextIns t = some (k, im, w)) (hop : insOp w = op)
include h hop

theorem State.tileRun_strays (hout : s.tiles.tiles[t].core.strays im w = true) :
    s.tileRun t op f fin = s.kernelFault t 2 := by
  rw [State.tileRun, h]
  exact (if_neg (not_not_intro hop)).trans (if_pos hout)

section Inside
variable (hin : s.tiles.tiles[t].core.strays im w = false)
include hin

/-- Where every slot is inside the windows, the operation names a fault, or the instruction is completed. -/
theorem State.tileRun_inside :
    let o := (s.opOut t k w f).counted s.tiles.tiles[t].core im w
    s.tileRun t op f fin =
      (s.opOut t k w f).fault.elim (fin (s.insDone t k w o) im o) (fun n => (s.slotsStored t k w).kernelFault t n) := by
  rw [State.tileRun, h]
  refine (if_neg (not_not_intro hop)).trans ((if_neg (Bool.eq_false_iff.1 hin)).trans ?_)
  simp only [State.opOut, Core.afterSlots]
  generalize f _ _ _ = o
  obtain ⟨_, _, _, _, _, fault⟩ := o
  cases fault <;> rfl

theorem State.tileRun_faults {n : Nat} (hn : (s.opOut t k w f).fault = some n) :
    s.tileRun t op f fin = (s.slotsStored t k w).kernelFault t n := by
  rw [State.tileRun_inside h hop hin, hn, Option.elim_some]

theorem State.tileRun_completes (hn : (s.opOut t k w f).fault = none) :
    let o := (s.opOut t k w f).counted s.tiles.tiles[t].core im w
    s.tileRun t op f fin = fin (s.insDone t k w o) im o := by
  rw [State.tileRun_inside h hop hin, hn, Option.elim_none]

end Inside

end TileRun

/-- A row that runs one tile operation, whatever the operation computes, does what TileStep says. -/
theorem tileStep_of {c : Fin 16 → Instr} {op : Nat} {f : Core → DWord → Core → OpOut}
    (hc : ∀ t s, exec (c t) s = .next (s.tileOp t op f)) : TileStep c op f := by
  intro t s k im w hnext hop
  refine ⟨fun hout => ?_, fun hin => ⟨fun n hn => ?_, fun hn => ?_⟩⟩
  · exact (hc t s).trans (congrArg _ (State.tileRun_strays hnext hop hout))
  · exact (hc t s).trans (congrArg _ (State.tileRun_faults hnext hop hin hn))
  · exact (hc t s).trans (congrArg _ (State.tileRun_completes hnext hop hin hn))

/-! ### END (R263, R265) -/

/-- The yield of END: the registers after the slots, with its cycles counted. -/
def State.endOut (s : State) (t : Fin 16) (k : Fin 64) (im : KernelImage) (w : DWord) : OpOut :=
  (s.opOut t k w opNop).counted s.tiles.tiles[t].core im w

section End
variable {s : State} {t : Fin 16} (n : Nat) {k : Fin 64} {im : KernelImage} {w : DWord}
  (h : s.nextIns t = some (k, im, w)) (hop : insOp w = 0x36) (hin : s.tiles.tiles[t].core.strays im w = false)
include h hop hin

/-- An END whose stall takes it past the declared cycles commits nothing. -/
theorem exec_tEnd_late (hcyc : im.cycles < (s.endOut t k im w).core.cyc) :
    exec (.tEnd t n) s = .next (s.insDone t k w (s.endOut t k im w)) :=
  congrArg Host.Outcome.next ((State.tileRun_completes h hop hin rfl).trans (if_pos hcyc))

theorem exec_tEnd_commits (hcyc : (s.endOut t k im w).core.cyc ≤ im.cycles) :
    exec (.tEnd t n) s = .next (((s.insDone t k w (s.endOut t k im w)).commit t im).tileErrors t n) :=
  congrArg Host.Outcome.next ((State.tileRun_completes h hop hin rfl).trans (if_neg (Nat.not_lt.2 hcyc)))

end End

/-- Settles O40: forty-one rows run one tile operation each, and END commits where it is within the declared cycles. -/
theorem tileInstructionsComplete : Obligations.TileInstructionsComplete := by
  unfold Obligations.TileInstructionsComplete
  and_intros
  iterate 41 exact tileStep_of fun _ _ => rfl
  exact fun t n s k im w hnext hop hin => ⟨exec_tEnd_late n hnext hop hin, exec_tEnd_commits n hnext hop hin⟩

end Sys2Proof.Machine
end

section
/-! SUPPORT. The events of a signal tile: activation, overrun and interrupt entry (R257, R263, R265). -/

namespace Sys2Proof.Machine

/-! ### Activation (R263, R265) -/

theorem exec_kernelActivation (t : Fin 16) (s : State) : exec (.kernelActivation t) s = execKernelActivation t s := rfl

/-- A tile that runs, is faulted, has no activation waiting or does not hold its unit starts none. -/
theorem exec_kernelActivation_none {s : State} {t : Fin 16}
    (h : (s.tiles.tiles[t].busy || s.tiles.tiles[t].faulted || s.tiles.tiles[t].queue.isEmpty ||
      !s.holdsUnit (8 + t.val) 0) = true) : exec (.kernelActivation t) s = .next s := by
  rw [exec_kernelActivation, execKernelActivation]
  dsimp only
  split
  · rfl
  next hidle =>
    have hempty : s.tiles.tiles[t].queue = [] := by simp_all
    rw [hempty]

/-- The registers of a tile as an activation of kernel `k` starts (R263). -/
def Core.started (c : Core) (n k : Nat) (seq : Word) (im : KernelImage) : Core :=
  { c.undefined n with
    kernel := k, kseq := seq, pc := 0, mode := BitVec.ofNat 8 im.mode, ien := BitVec.ofNat 3 im.ien
    tst := 0x0200, bx := 31, cyc := 0, inHandler := false, noticed := false }

section Activation
variable {s : State} {t : Fin 16} {k : Nat} {rest : List Nat} {im : KernelImage} {seq : Word} {block : List Word}

/-- An idle tile that holds its unit starts the activation that came first. -/
theorem exec_kernelActivation_starts (hbusy : s.tiles.tiles[t].busy = false) (hfault : s.tiles.tiles[t].faulted = false)
    (hqueue : s.tiles.tiles[t].queue = k :: rest) (hunit : s.holdsUnit (8 + t.val) 0 = true)
    (hbound : s.tiles.kernels[f64 k].state = .bound) (himage : s.tiles.kernels[f64 k].image = some im)
    (hwaiting : s.tiles.kernels[f64 k].waiting = some (seq, block)) (hfits : im.holds im.inOff block.length = true) :
    let x := s.tiles.tiles[t]
    let y := s.tiles.kernels[f64 k]
    exec (.kernelActivation t) s = .next
      ((((s.setTile t { x with queue := rest }).setFree (s.free + 32)).setTile t
        { x with queue := rest, busy := true, core := x.core.started s.free k seq im }).setKernel (f64 k)
          { y with
            waiting := none
            window := (numbered 0 block).foldl (fun m e => mput 0 m (im.inOff + e.1) e.2) y.window }) := by
  rw [exec_kernelActivation, execKernelActivation]
  dsimp only
  rw [if_neg (by simpa [hunit] using And.intro hbusy hfault), hqueue]
  dsimp only
  rw [hwaiting, himage]
  dsimp only
  rw [if_neg (not_not_intro hbound), if_pos hfits]
  rfl

end Activation

/-! ### Overrun and interrupt entry (R257, R265) -/

section Running
variable {s : State} {t : Fin 16} {im : KernelImage}
  (himage : s.tiles.kernels[f64 s.tiles.tiles[t].core.kernel].image = some im) (hbusy : s.tiles.tiles[t].busy = true)
include himage hbusy

theorem exec_kernelOverrun_due (hcyc : im.cycles ≤ s.tiles.tiles[t].core.cyc) :
    let x := s.tiles.tiles[t]
    let k := f64 x.core.kernel
    let y := s.tiles.kernels[k]
    exec (.kernelOverrun t) s = .next (((s.cutRun t).setKernel k { y with
      overruns := satN 255 (y.overruns + 1), valid := false, cycLast := satN 65535 x.core.cyc,
      cycMax := max y.cycMax (satN 65535 x.core.cyc) }).setTile t { (s.cutRun t).tiles.tiles[t] with
        busy := false, overrun := true }) := by
  change execKernelOverrun t s = _
  rw [execKernelOverrun, himage]
  exact if_neg (by simpa using And.intro hbusy hcyc)

theorem exec_interruptEntry_due (hcyc : s.tiles.tiles[t].core.cyc < im.cycles)
    (hdue : s.tiles.tiles[t].core.interruptDue im = true) :
    let x := s.tiles.tiles[t]
    exec (.interruptEntry t) s = .next (s.setTile t { x with core := { x.core with
      ipc := w32 x.core.pc, istat := x.core.tst, tst := bvClr x.core.tst 9, pc := im.ivec,
      cyc := x.core.cyc + 4, inHandler := true } }) := by
  change execInterruptEntry t s = _
  rw [execInterruptEntry, himage]
  exact if_neg (by simpa using And.intro (And.intro hbusy hcyc) hdue)

end Running

/-- Settles O43: an activation that starts or none, an overrun, and an interrupt between instructions. -/
theorem tileEventsComplete : Obligations.TileEventsComplete := by
  unfold Obligations.TileEventsComplete
  refine fun t s => ⟨fun k rest im seq block hbusy hfault hqueue hunit hbound himage hwaiting hfits => ?_,
    exec_kernelActivation_none,
    fun im himage hbusy => ⟨exec_kernelOverrun_due himage hbusy, exec_interruptEntry_due himage hbusy⟩⟩
  refine ⟨_, exec_kernelActivation_starts hbusy hfault hqueue hunit hbound himage hwaiting hfits, ?_⟩
  simp [Core.started]

end Sys2Proof.Machine
end

section
/-! SUPPORT. What a tile instruction leaves as it was (R255, R258, R261, R265). -/

namespace Sys2Proof.Machine

/-! ### The reach of a tile's activation -/

/-- From `s` to `u` at most the tile `t`, the kernel that runs on it but for its image and binding, the device notices and
the count of free values change; and the same kernel is on the tile. -/
structure State.TileOnly (t : Fin 16) (s u : State) : Prop where
  rest : u = { s with
    tiles := u.tiles, free := u.free, host := { s.host with notices := u.host.notices, subs := u.host.subs } }
  ctrl : u.tiles.ctrl = s.tiles.ctrl
  tiles : ∀ j : Fin 16, j ≠ t → u.tiles.tiles[j] = s.tiles.tiles[j]
  kernels : ∀ j : Fin 64, j ≠ f64 s.tiles.tiles[t].core.kernel → u.tiles.kernels[j] = s.tiles.kernels[j]
  bound : ∀ j : Fin 64,
    u.tiles.kernels[j].image = s.tiles.kernels[j].image ∧ u.tiles.kernels[j].bind = s.tiles.kernels[j].bind
  onTile : u.tiles.tiles[t].core.kernel = s.tiles.tiles[t].core.kernel

namespace State.TileOnly
variable {t : Fin 16} {s u v : State}

theorem refl (t : Fin 16) (s : State) : s.TileOnly t s :=
  ⟨rfl, rfl, fun _ _ => rfl, fun _ _ => rfl, fun _ => ⟨rfl, rfl⟩, rfl⟩

theorem trans (h : s.TileOnly t u) (h' : u.TileOnly t v) : s.TileOnly t v where
  rest := by rw [h'.rest, h.rest]
  ctrl := h'.ctrl.trans h.ctrl
  tiles j hj := (h'.tiles j hj).trans (h.tiles j hj)
  kernels j hj := (h'.kernels j (h.onTile ▸ hj)).trans (h.kernels j hj)
  bound j := ⟨(h'.bound j).1.trans (h.bound j).1, (h'.bound j).2.trans (h.bound j).2⟩
  onTile := h'.onTile.trans h.onTile

theorem setTile (h : s.TileOnly t u) (x : TileSt) (hx : x.core.kernel = u.tiles.tiles[t].core.kernel) :
    s.TileOnly t (u.setTile t x) := by
  refine h.trans ⟨rfl, rfl, fun j hj => ?_, fun _ _ => rfl, fun _ => ⟨rfl, rfl⟩, ?_⟩
  · simp [Fin.val_ne_of_ne hj.symm]
  · simpa using hx

theorem setKernel (h : s.TileOnly t u) {k : Fin 64} (hk : k = f64 u.tiles.tiles[t].core.kernel) (y : KernelSt)
    (himage : y.image = u.tiles.kernels[k].image) (hbind : y.bind = u.tiles.kernels[k].bind) :
    s.TileOnly t (u.setKernel k y) := by
  refine h.trans ⟨rfl, rfl, fun _ _ => rfl, fun j hj => ?_, fun j => ?_, rfl⟩
  · simp [Fin.val_ne_of_ne (hk ▸ hj.symm)]
  · by_cases e : k = j
    · subst e
      simpa using And.intro himage hbind
    · simp [Fin.val_ne_of_ne e]

theorem notice (h : s.TileOnly t u) (k : NoticeKind) (a b : Nat) : s.TileOnly t (u.notice k a b) :=
  h.trans ⟨rfl, rfl, fun _ _ => rfl, fun _ _ => rfl, fun _ => ⟨rfl, rfl⟩, rfl⟩

theorem nextFree (h : s.TileOnly t u) : s.TileOnly t u.nextFree :=
  h.trans ⟨rfl, rfl, fun _ _ => rfl, fun _ _ => rfl, fun _ => ⟨rfl, rfl⟩, rfl⟩

theorem tileErrors (h : s.TileOnly t u) (n : Nat) : s.TileOnly t (u.tileErrors t n) := h.setTile _ rfl

theorem cutRun (h : s.TileOnly t u) : s.TileOnly t (u.cutRun t) := by
  unfold State.cutRun
  split
  · exact (h.tileErrors _).nextFree
  · exact h

theorem kernelFault (h : s.TileOnly t u) (cause : Nat) : s.TileOnly t (u.kernelFault t cause) := by
  refine .notice (.setTile (.setKernel h.cutRun rfl _ ?_ ?_) _ ?_) _ _ _ <;> rfl

theorem sticky (h : s.TileOnly t u) (o : OpOut) : s.TileOnly t (u.sticky t o) := by
  unfold State.sticky
  dsimp only
  split
  · refine .notice (.setKernel (.setTile h _ ?_) ?_ _ ?_ ?_) _ _ _ <;> simp
  · refine .setKernel (.setTile h _ ?_) ?_ _ ?_ ?_ <;> simp

theorem commit (h : s.TileOnly t u) (im : KernelImage) : s.TileOnly t (u.commit t im) := by
  refine .setTile (.setKernel h rfl _ ?_ ?_) _ ?_ <;> rfl

end State.TileOnly

/-! ### The kernel number is no register -/

@[simp] theorem Core.put_kernel (c : Core) (code : Nat) (v : Word) : (c.put code v).kernel = c.kernel := by
  unfold Core.put
  dsimp only
  repeat' split
  all_goals rfl

@[simp] theorem Core.slotWrite_kernel (c old : Core) (m : List (Nat × Word)) (j : Nat) :
    (c.slotWrite old m j).kernel = c.kernel := by
  unfold Core.slotWrite
  repeat' split
  all_goals simp

@[simp] theorem Core.slotUpdate_kernel (c : Core) (j : Nat) : (c.slotUpdate j).kernel = c.kernel := by
  unfold Core.slotUpdate
  split <;> rfl

/-- A fold keeps the kernel number that each of its steps keeps. -/
theorem foldl_kernel {α : Type} (l : List α) (g : Core → α → Core) (c : Core)
    (h : ∀ c a, (g c a).kernel = c.kernel) : (l.foldl g c).kernel = c.kernel :=
  List.foldlRecOn (motive := fun d : Core => d.kernel = c.kernel) l g rfl fun d hd a _ => (h d a).trans hd

@[simp] theorem Core.afterSlots_kernel (c : Core) (m : List (Nat × Word)) (ks : List Nat) :
    (c.afterSlots m ks).kernel = c.kernel :=
  (foldl_kernel _ _ _ fun _ _ => Core.slotUpdate_kernel _ _).trans
    (foldl_kernel _ _ _ fun _ _ => Core.slotWrite_kernel _ _ _ _)

@[simp] theorem Core.setLa_kernel (c : Core) (b : Bool) : (c.setLa b).kernel = c.kernel := rfl

@[simp] theorem Core.follow_kernel (c : Core) (a : Nat) (target : Option Nat) : (c.follow a target).kernel = c.kernel := by
  unfold Core.follow
  repeat' split
  all_goals rfl

theorem OpOut.ofAccs_kernel (mid : Core) (wrap : Bool) (xs : List (Fin 4 × Int)) :
    (OpOut.ofAccs mid wrap xs).core.kernel = mid.kernel :=
  List.foldlRecOn (motive := fun o : OpOut => o.core.kernel = mid.kernel) xs _ rfl fun _ ho _ _ => ho

theorem opClra_kernel (old : Core) (w : DWord) (mid : Core) : (opClra old w mid).core.kernel = mid.kernel :=
  foldl_kernel _ _ _ fun _ _ => rfl

theorem opSha_kernel (old : Core) (w : DWord) (mid : Core) : (opSha old w mid).core.kernel = mid.kernel := by
  unfold opSha
  dsimp only
  split
  · rfl
  · exact OpOut.ofAccs_kernel _ _ _

theorem opBr_kernel (old : Core) (w : DWord) (mid : Core) : (opBr old w mid).core.kernel = mid.kernel := by
  unfold opBr
  split <;> rfl

theorem opDbnz_kernel (old : Core) (w : DWord) (mid : Core) : (opDbnz old w mid).core.kernel = mid.kernel := by
  unfold opDbnz
  dsimp only
  split <;> exact mid.put_kernel _ _

theorem opLoop_kernel (old : Core) (w : DWord) (mid : Core) : (opLoop old w mid).core.kernel = mid.kernel := by
  unfold opLoop
  dsimp only
  split <;> rfl

theorem opReti_kernel (old : Core) (w : DWord) (mid : Core) : (opReti old w mid).core.kernel = mid.kernel := by
  unfold opReti
  dsimp only
  split <;> rfl

/-! ### The frame of a tile instruction -/

section Frame
variable {s : State} {t : Fin 16} {op : Nat} {f : Core → DWord → Core → OpOut}

/-- Whatever an instruction's operation computes, it stays within the reach of its tile, if what completes it does. -/
theorem State.tileRun_tileOnly {fin : State → KernelImage → OpOut → State}
    (hf : ∀ old w mid, (f old w mid).core.kernel = mid.kernel)
    (hfin : ∀ u im o, s.TileOnly t u → s.TileOnly t (fin u im o)) : s.TileOnly t (s.tileRun t op f fin) := by
  cases hnext : s.nextIns t with
  | none => rw [State.tileRun_none hnext]; exact .refl t s
  | some x =>
    obtain ⟨k, im, w⟩ := x
    by_cases hop : insOp w = op
    case neg => rw [State.tileRun_otherOp hnext hop]; exact .refl t s
    have hstored : s.TileOnly t (s.slotsStored t k w) :=
      (State.TileOnly.refl t s).setKernel (State.nextIns_kernel hnext) _ rfl rfl
    cases hout : s.tiles.tiles[t].core.strays im w with
    | true => rw [State.tileRun_strays hnext hop hout]; exact (State.TileOnly.refl t s).kernelFault _
    | false =>
      cases hn : (s.opOut t k w f).fault with
      | some n => rw [State.tileRun_faults hnext hop hout hn]; exact hstored.kernelFault n
      | none =>
        rw [State.tileRun_completes hnext hop hout hn]
        refine hfin _ _ _ ((hstored.setTile _ ?_).sticky _)
        exact (hf _ _ _).trans (Core.afterSlots_kernel _ _ _)

theorem State.tileOp_tileOnly (hf : ∀ old w mid, (f old w mid).core.kernel = mid.kernel) :
    s.TileOnly t (s.tileOp t op f) := by
  refine State.tileRun_tileOnly hf fun u im o hu => ?_
  have hgoes := hu.setTile { u.tiles.tiles[t] with core := u.tiles.tiles[t].core.follow u.tiles.tiles[t].core.pc o.target }
    (Core.follow_kernel _ _ _)
  dsimp only
  split
  · exact hgoes
  · exact hgoes.kernelFault 3

/-- A command answers at most a state within the reach of tile `t`. -/
def State.TileConfined (s : State) (t : Fin 16) (c : Instr) : Prop := ∀ u, exec c s = .next u → s.TileOnly t u

/-- A row that runs a tile operation is confined to its tile, whatever the operation computes. -/
theorem tileConfined_of {c : Instr} (hc : exec c s = .next (s.tileOp t op f))
    (hf : ∀ old w mid, (f old w mid).core.kernel = mid.kernel) : s.TileConfined t c := by
  intro u hu
  obtain rfl := Host.Outcome.next.inj (hc.symm.trans hu)
  exact State.tileOp_tileOnly hf

/-- An instruction that writes one register. -/
theorem tileConfined_put {c : Instr} {v : Core → DWord → Word} {sat : Core → DWord → Bool}
    (hc : exec c s = .next (s.tileOp t op fun old w mid =>
      { core := mid.put (insDst w) (v old w), sat := sat old w })) : s.TileConfined t c :=
  tileConfined_of hc fun _ _ mid => mid.put_kernel _ _

/-- An ALU instruction. -/
theorem tileConfined_alu {c : Instr} {a : Core → DWord → Alu}
    (hc : exec c s = .next (s.tileOp t op fun old w mid => OpOut.ofAlu mid w (a old w))) : s.TileConfined t c :=
  tileConfined_of hc fun _ _ mid => mid.put_kernel _ _

/-- An instruction that writes exact results to accumulators. -/
theorem tileConfined_accs {c : Instr} {xs : Core → DWord → List (Fin 4 × Int)}
    (hc : exec c s = .next (s.tileOp t op fun old w mid => OpOut.ofAccs mid old.wrap (xs old w))) : s.TileConfined t c :=
  tileConfined_of hc fun _ _ _ => OpOut.ofAccs_kernel _ _ _

theorem tileConfined_tEnd (s : State) (t : Fin 16) (n : Nat) : s.TileConfined t (.tEnd t n) := by
  intro u hu
  obtain rfl := Host.Outcome.next.inj hu
  refine State.tileRun_tileOnly (fun _ _ _ => rfl) fun u im o hu => ?_
  split
  · exact hu
  · exact (hu.commit im).tileErrors n

end Frame

/-- Settles O42: forty-one rows run a tile operation, which leaves the kernel number of its registers, and END commits. -/
theorem tileFrame : Obligations.TileFrame := by
  unfold Obligations.TileFrame
  intro t n s u c hc hu
  suffices hframe : ∀ c ∈ (_ : List Instr), s.TileConfined t c by
    obtain ⟨rest, ctrl, tiles, kernels, bound, -⟩ := hframe c hc u hu
    exact ⟨rest, ctrl, tiles, kernels, bound⟩
  simp only [List.forall_mem_cons]
  exact ⟨tileConfined_of rfl fun _ _ _ => rfl, tileConfined_accs rfl, tileConfined_accs rfl, tileConfined_accs rfl,
    tileConfined_accs rfl, tileConfined_of rfl opClra_kernel, tileConfined_accs rfl, tileConfined_of rfl opSha_kernel,
    tileConfined_accs rfl, tileConfined_put rfl, tileConfined_put rfl, tileConfined_put rfl, tileConfined_alu rfl,
    tileConfined_alu rfl, tileConfined_alu rfl, tileConfined_alu rfl, tileConfined_put rfl, tileConfined_put rfl,
    tileConfined_put rfl, tileConfined_put rfl, tileConfined_put rfl, tileConfined_put rfl, tileConfined_put rfl,
    tileConfined_put rfl, tileConfined_put rfl, tileConfined_put rfl, tileConfined_of rfl fun _ _ _ => rfl,
    tileConfined_put rfl, tileConfined_put rfl, tileConfined_put rfl, tileConfined_put rfl,
    tileConfined_of rfl fun _ _ _ => rfl, tileConfined_of rfl fun _ _ _ => rfl, tileConfined_of rfl fun _ _ _ => rfl,
    tileConfined_of rfl opBr_kernel, tileConfined_of rfl fun _ _ _ => rfl, tileConfined_of rfl fun _ _ _ => rfl,
    tileConfined_of rfl opDbnz_kernel, tileConfined_of rfl opLoop_kernel, tileConfined_of rfl opReti_kernel,
    tileConfined_of rfl fun _ _ _ => rfl, tileConfined_tEnd s t n, List.forall_mem_nil _⟩

end Sys2Proof.Machine
end

section
/-! SUPPORT. The RAMs stay in canonical form (R261, R291, R293), whatever command runs. One lemma per command. -/

namespace Sys2Proof.Machine

/-- The outcome is a next state whose RAMs are in canonical form. -/
def Canonical (o : Host.Outcome State Fault Refusal) : Prop := ∃ t, o = .next t ∧ t.memWf = true

@[simp] theorem canonical_next {t : State} : Canonical (.next t) ↔ t.memWf = true :=
  ⟨fun ⟨_, h, k⟩ => by cases h; exact k, fun h => ⟨t, rfl, h⟩⟩

@[simp] theorem canonical_ite {c : Prop} [Decidable c] {o o' : Host.Outcome State Fault Refusal} :
    Canonical (if c then o else o') ↔ if c then Canonical o else Canonical o' := by
  split <;> rfl

theorem canonical_if {c : Prop} [Decidable c] {o o' : Host.Outcome State Fault Refusal} (ho : Canonical o)
    (ho' : Canonical o') : Canonical (if c then o else o') := by
  split <;> assumption

theorem ite_memWf {c : Prop} [Decidable c] {s t : State} : (if c then s else t).memWf = if c then s.memWf else t.memWf :=
  apply_ite _ _ _ _

/-- A fold that carries a state beside other data keeps the form if each of its steps does. -/
theorem foldl_fst_memWf {α β : Type} (l : List α) (g : State × β → α → State × β) (x : State × β)
    (h : x.1.memWf = true) (hg : ∀ x a, x.1.memWf = true → (g x a).1.memWf = true) : (l.foldl g x).1.memWf = true :=
  List.foldlRecOn (motive := fun x : State × β => x.1.memWf = true) l g h fun x hx a _ => hg x a hx

/-- The back image becomes the front image at a swap, once removed points are cleared from it (R293). -/
theorem State.setSwapped_memWf {s : State} {c : Cell} {x : NibbleSt} (h : s.memWf = true)
    (hfront : x.front = (s.nibble.clearRemoved c).back) (hback : x.back = (s.nibble.clearRemoved c).back) :
    (s.setNibble x).memWf = true := by
  have hcleared := (s.nibble.clearRemoved_tame c).back (memWf_iff.1 h).2.1
  exact s.setImages_memWf x h (hfront ▸ hcleared) (hback ▸ hcleared)

/-- Host records that govern their points are written to the back image (R299). -/
theorem State.setGoverned_memWf {s : State} {c : Cell} {ms : List PointCmd} {x : NibbleSt} (h : s.memWf = true)
    (hfront : x.front = (ms.foldl (fun y m => y.applyCmd c m) s.nibble).front)
    (hback : x.back = (ms.foldl (fun y m => y.applyCmd c m) s.nibble).back) : (s.setNibble x).memWf = true := by
  have hms : Tame s.nibble (ms.foldl (fun y m => y.applyCmd c m) s.nibble) :=
    Tame.foldl _ _ (fun y m => y.applyCmd_tame c m) _
  exact s.setNibble_tame x h ⟨hfront.trans hms.front, fun hb => hback ▸ hms.back hb⟩

section Commands
variable {s : State} (h : s.memWf = true)
include h

/-- A row that does nothing but where it is due. -/
theorem canonical_unless {c : Prop} [Decidable c] {o : Host.Outcome State Fault Refusal} (ho : Canonical o) :
    Canonical (if c then .next s else o) :=
  canonical_if (canonical_next.2 h) ho

/-- A packet row keeps the form if its effect does (R35, R41, R43). -/
theorem canonical_startPkt (q : Fin 16) (tag : Fin 1024) (op : Nat) {f : Pkt → State → State}
    (hf : ∀ p t, t.memWf = true → (f p t).memWf = true) : Canonical (.next (s.startPkt q tag op f)) :=
  canonical_next.2 (s.startPkt_memWf q tag op f h hf)

/-- An expiry row keeps the form if its effect does (R279, R280). -/
theorem canonical_onExpiry (f : DelayEntry → Bool) {g : State → State}
    (hg : ∀ t, t.memWf = true → (g t).memWf = true) : Canonical (.next (s.onExpiry f g)) :=
  canonical_next.2 (s.onExpiry_memWf f g h hg)

/-! ### Host queues -/

@[simp] theorem execSqDoorbell_memWf (q : Fin 16) (tail : Nat) (mem : List Byte) :
    Canonical (execSqDoorbell q tail mem s) := by
  simp [h, execSqDoorbell, State.fetch_memWf, State.setQueue_memWf]

@[simp] theorem execCqDoorbell_memWf (q : Fin 16) (head : Nat) : Canonical (execCqDoorbell q head s) := by
  simp [h, execCqDoorbell, State.fetch_memWf, State.setQueue_memWf]

@[simp] theorem execMsixModerationExpiry_memWf (q : Fin 16) : Canonical (execMsixModerationExpiry q s) := by
  refine canonical_onExpiry h _ fun t ht => ?_
  dsimp only
  split <;> simp [ht, ite_memWf, State.raiseMsix_memWf, State.setQueue_memWf]

@[simp] theorem execUdpDatagram_memWf (port : Fin 2) (src : Endpoint) (dstPort : Nat) (data : List Byte) :
    Canonical (execUdpDatagram port src dstPort data s) := by
  have hcounted {c : Prop} [Decidable c] : (if c then s.countErr 23 16 else s).memWf = true :=
    memWf_ite (State.countErr_memWf _ _ _ h) h
  simp [h, hcounted, execUdpDatagram, State.countErr_memWf, State.setHost_memWf, State.udpPacket_memWf]

@[simp] theorem execReassemblyTimeout_memWf (q : Fin 16) (seq : Word) : Canonical (execReassemblyTimeout q seq s) :=
  canonical_onExpiry h _ fun t ht => by simp [ht, State.setHost_memWf]

@[simp] theorem execPartialImageTimeout_memWf (st : Stream) : Canonical (execPartialImageTimeout st s) := by
  refine canonical_onExpiry h _ fun t ht => ?_
  split <;> simp [ht, ite_memWf, State.dropPart_memWf, State.notice_memWf]

@[simp] theorem execResetQ_memWf (q : Fin 16) : Canonical (execResetQ q s) := by
  simp [h, execResetQ, State.startReset_memWf]

@[simp] theorem execPing_memWf (q : Fin 16) (tag : Fin 1024) : Canonical (execPing q tag s) :=
  canonical_startPkt h _ _ _ fun p t ht => by simp [ht, State.finishOk_memWf]

@[simp] theorem execReadyRead_memWf (q : Fin 16) (tag : Fin 1024) : Canonical (execReadyRead q tag s) :=
  canonical_startPkt h _ _ _ fun p t ht => by simp [ht, State.finishOk_memWf]

@[simp] theorem execAbort_memWf (q : Fin 16) (tag : Fin 1024) : Canonical (execAbort q tag s) := by
  refine canonical_startPkt h _ _ _ fun p t ht => ?_
  dsimp only
  split <;> simp [ht, ite_memWf, State.abortTarget_memWf, State.expireGate_memWf, State.finishOk_memWf]

@[simp] theorem execQueueReset_memWf (q : Fin 16) (tag : Fin 1024) : Canonical (execQueueReset q tag s) :=
  canonical_startPkt h _ _ _ fun p t ht => by simp [ht, ite_memWf, State.finish_memWf, State.startReset_memWf]

@[simp] theorem execLogRead_memWf (q : Fin 16) (tag : Fin 1024) : Canonical (execLogRead q tag s) :=
  canonical_startPkt h _ _ _ fun p t ht => by simp [ht, ite_memWf, State.finish_memWf, State.finishOk_memWf]

/-! ### Motion -/

@[simp] theorem execBarrierTimeout_memWf (c : Fin 16) : Canonical (execBarrierTimeout c s) := by
  refine canonical_onExpiry h _ fun t ht => ?_
  split
  · exact ht
  · exact memWf_ite (memWf_foldOn _ _ _ ht fun u m hu => State.barrierOut_memWf _ _ hu) ht

@[simp] theorem execSegPush_memWf (q : Fin 16) (tag : Fin 1024) : Canonical (execSegPush q tag s) := by
  unfold execSegPush
  repeat' split
  · simp [h]
  · simp [h]
  · refine canonical_startPkt h _ _ _ fun p t ht => ?_
    split
    · exact State.finish_memWf _ _ _ _ ht
    · exact State.finishOk_memWf _ _ _ _ _ (State.setChain_memWf _ _ _ ht)

@[simp] theorem execMotionStop_memWf (q : Fin 16) (tag : Fin 1024) : Canonical (execMotionStop q tag s) :=
  canonical_startPkt h _ _ _ fun p t ht => by simp [ht, ite_memWf, State.addMotionCmd_memWf, State.finish_memWf]

@[simp] theorem execMotionResume_memWf (q : Fin 16) (tag : Fin 1024) : Canonical (execMotionResume q tag s) :=
  canonical_startPkt h _ _ _ fun p t ht => by simp [ht, ite_memWf, State.addMotionCmd_memWf, State.finish_memWf]

@[simp] theorem execSegqStatus_memWf (q : Fin 16) (tag : Fin 1024) : Canonical (execSegqStatus q tag s) := by
  refine canonical_startPkt h _ _ _ fun p t ht => ?_
  split <;> simp [ht, State.finish_memWf, State.finishOk_memWf]

@[simp] theorem execOverrideSet_memWf (q : Fin 16) (tag : Fin 1024) : Canonical (execOverrideSet q tag s) :=
  canonical_startPkt h _ _ _ fun p t ht => by simp [ht, ite_memWf, State.addMotionCmd_memWf, State.finish_memWf]

@[simp] theorem execMoAuxcmd_memWf (k : Fin 32) (v : Word) : Canonical (execMoAuxcmd k v s) := by
  simp [h, execMoAuxcmd, State.setMotion_memWf]

/-! ### Safety inputs and functions -/

@[simp] theorem execSafeInputChange_memWf (i : Fin 16) (lineB level : Bool) (samples : Nat) :
    Canonical (execSafeInputChange i lineB level samples s) := by
  simp [h, execSafeInputChange, State.evalFuncs_memWf, State.setSafety_memWf]

@[simp] theorem execEstopChange_memWf (lineB level : Bool) (samples : Nat) :
    Canonical (execEstopChange lineB level samples s) := by
  simp [h, execEstopChange, State.enterBath_memWf, State.setSafety_memWf]

@[simp] theorem execDiscrepancyTimeout_memWf (i : Option (Fin 16)) : Canonical (execDiscrepancyTimeout i s) := by
  unfold execDiscrepancyTimeout
  dsimp only
  repeat' split
  all_goals simp [h, State.evalFuncs_memWf, State.setSafety_memWf]

@[simp] theorem execTestPulseCheck_memWf (k : Fin 4) (a b : BitVec 16) : Canonical (execTestPulseCheck k a b s) :=
  canonical_unless h (canonical_next.2 (State.evalFuncs_memWf _ (memWf_foldOn _ _ _ h
    fun _ _ hu => State.setSafety_memWf _ _ hu)))

@[simp] theorem execOutputTestPulse_memWf (p : Fin 16) (lineB : Bool) (ch : Fin 2) (highInPulse lowOutside : Bool) :
    Canonical (execOutputTestPulse p lineB ch highInPulse lowOutside s) := by
  have hpulse (x : SafetySt) (o : Out) : ((s.setSafety x).emit o).memWf = true :=
    State.emit_memWf _ _ (State.setSafety_memWf _ _ h)
  simp [h, hpulse, execOutputTestPulse, ite_memWf, State.enterBath_memWf, State.setSafety_memWf]

@[simp] theorem execSrstNPress_memWf (ch : Fin 2) (samples : Nat) : Canonical (execSrstNPress ch samples s) := by
  simp [h, execSrstNPress, State.setSafety_memWf]

@[simp] theorem execSrstNRelease_memWf (ch : Fin 2) (samples : Nat) : Canonical (execSrstNRelease ch samples s) := by
  simp [h, execSrstNRelease, State.setSafety_memWf]

@[simp] theorem execResetStuck_memWf : Canonical (execResetStuck s) := by
  simp [h, execResetStuck, State.notice_memWf, State.setSafety_memWf]

@[simp] theorem execSrstNOpen_memWf : Canonical (execSrstNOpen s) := by
  simp [h, execSrstNOpen, State.setSafety_memWf]

@[simp] theorem execSs1Timeout_memWf (c : Fin 16) : Canonical (execSs1Timeout c s) := by
  unfold execSs1Timeout
  dsimp only
  split <;> simp [h, State.toSto_memWf]

@[simp] theorem execBrakeFeedbackMismatch_memWf (p : Fin 16) (released : Bool) (ms : Nat) :
    Canonical (execBrakeFeedbackMismatch p released ms s) := by
  simp [h, execBrakeFeedbackMismatch, State.brakeFault_memWf]

@[simp] theorem execBrakeTestDue_memWf (c : Fin 16) : Canonical (execBrakeTestDue c s) :=
  canonical_onExpiry h _ fun t ht => by simp [ht, ite_memWf, State.setIndex_memWf]

@[simp] theorem execSfBrkreq_memWf (v : BitVec 16) : Canonical (execSfBrkreq v s) := by
  simp [h, execSfBrkreq, State.requestBrakeTests_memWf]

@[simp] theorem execBrakeTestStep_memWf (c : Fin 16) (fbClosed : Bool) (disp1 disp2 : Nat) :
    Canonical (execBrakeTestStep c fbClosed disp1 disp2 s) := by
  have hfault : (((s.abortTest c).drive c).brakeFault c).memWf = true :=
    State.brakeFault_memWf _ _ (State.drive_memWf _ _ (State.abortTest_memWf _ _ h))
  have hend : ((s.setTestTorque c 0).restartLoops c).memWf = true :=
    State.restartLoops_memWf _ _ (State.setTestTorque_memWf _ _ _ h)
  unfold execBrakeTestStep
  dsimp only
  split
  · simp [h]
  · simp [h, hfault, hend, State.endBrakeTest_memWf, State.setIndex_memWf, State.setTestTorque_memWf, State.toSto_memWf]

@[simp] theorem execBrakeTestOverdue_memWf (c : Fin 16) : Canonical (execBrakeTestOverdue c s) := by
  unfold execBrakeTestOverdue
  dsimp only
  split <;> simp [h, State.setIndex_memWf, State.stopIndex_memWf]

@[simp] theorem execChannelInternalFault_memWf (ch : Fin 2) : Canonical (execChannelInternalFault ch s) := by
  simp [h, execChannelInternalFault, ite_memWf, State.channelFault_memWf, State.setSafety_memWf]

/-! ### Schedules -/

@[simp] theorem execSchedLoad_memWf (q : Fin 16) (tag : Fin 1024) : Canonical (execSchedLoad q tag s) := by
  refine canonical_startPkt h _ _ _ fun p t ht => State.fragment_memWf _ _ _ _ _ ht fun b u hu => ?_
  simp [hu, State.storeSched_memWf]

@[simp] theorem execSchedUnload_memWf (q : Fin 16) (tag : Fin 1024) : Canonical (execSchedUnload q tag s) := by
  refine canonical_startPkt h _ _ _ fun p t ht => ?_
  split <;> simp [ht, ite_memWf, State.finish_memWf, State.finishOk_memWf, State.setSolver_memWf]

/-! ### Signal tiles -/

@[simp] theorem execKernelLoad_memWf (q : Fin 16) (tag : Fin 1024) : Canonical (execKernelLoad q tag s) := by
  refine canonical_startPkt h _ _ _ fun p t ht => State.fragment_memWf _ _ _ _ _ ht fun b u hu => ?_
  dsimp only
  repeat' split
  all_goals simp [hu, State.finish_memWf, State.finishOk_memWf, State.setKernel_memWf, SameAs.refl]

@[simp] theorem execKernelUnload_memWf (q : Fin 16) (tag : Fin 1024) : Canonical (execKernelUnload q tag s) := by
  refine canonical_startPkt h _ _ _ fun p t ht => memWf_ite (State.finish_memWf _ _ _ _ ht) ?_
  dsimp only
  split
  · exact State.finish_memWf _ _ _ _ ht
  · exact State.finishOk_memWf _ _ _ _ _ (State.setKernel_window _ _ _ ht rfl)
  · exact State.finish_memWf _ _ _ _ ht

@[simp] theorem execTileStatus_memWf (q : Fin 16) (tag : Fin 1024) : Canonical (execTileStatus q tag s) :=
  canonical_startPkt h _ _ _ fun p t ht => by simp [ht, ite_memWf, State.finish_memWf, State.finishOk_memWf]

@[simp] theorem execKernelActivation_memWf (t : Fin 16) : Canonical (execKernelActivation t s) := by
  have hqueue (x : TileSt) : (s.setTile t x).memWf = true := State.setTile_memWf _ _ _ h
  have hcore (n : Nat) (x y : TileSt) : (((s.setTile t x).setFree n).setTile t y).memWf = true :=
    State.setTile_memWf _ _ _ (State.setFree_memWf _ _ (hqueue x))
  unfold execKernelActivation
  dsimp only
  repeat' split
  all_goals rw [canonical_next]
  · exact h
  · exact h
  · exact State.setKernel_memWf _ _ _ (hqueue _) (SameAs.refl _)
  · exact State.setKernel_window _ _ _ (hcore _ _ _) (foldl_mwf _ _ _ ((memWf_iff.1 h).2.2 _) fun _ _ hm => mput_mwf _ _ hm)
  · exact State.kernelFault_memWf _ _ _ (State.setKernel_memWf _ _ _ (hcore _ _ _) (SameAs.refl _))
  · exact hqueue _

@[simp] theorem execKernelOverrun_memWf (t : Fin 16) : Canonical (execKernelOverrun t s) := by
  unfold execKernelOverrun
  dsimp only
  split
  · simp [h]
  · exact canonical_unless h (canonical_next.2 (State.setTile_memWf _ _ _ (State.setKernel_window _ _ _
      (State.cutRun_memWf _ _ h) ((memWf_iff.1 h).2.2 _))))

@[simp] theorem execInterruptEntry_memWf (t : Fin 16) : Canonical (execInterruptEntry t s) := by
  unfold execInterruptEntry
  dsimp only
  split <;> simp [h, State.setTile_memWf]

@[simp] theorem execTEnd_memWf (t : Fin 16) (corrected : Nat) : Canonical (execTEnd t corrected s) :=
  canonical_next.2 (State.tileRun_memWf _ _ _ _ _ h fun _ _ _ hu =>
    memWf_ite hu (State.tileErrors_memWf _ _ _ (State.commit_memWf _ _ _ hu)))

/-! ### Loop engines -/

@[simp] theorem execArm_memWf (e : Fin 16) : Canonical (execArm e s) := by
  simp [h, execArm, State.armTrace_memWf]

@[simp] theorem execLoopCutoffMiss_memWf (e : Fin 16) (slot : Fin 32) : Canonical (execLoopCutoffMiss e slot s) := by
  unfold execLoopCutoffMiss
  dsimp only
  repeat' split
  all_goals simp [h, State.advanceHandover_memWf, State.setAxis_memWf, State.setSlot_memWf, State.slotMiss_memWf]

@[simp] theorem execLoopEngineFault_memWf (e : Fin 16) (masked : Bool) : Canonical (execLoopEngineFault e masked s) := by
  simp [h, execLoopEngineFault, State.engineLost_memWf]

@[simp] theorem execLoopBatch_memWf (node : Nat) : Canonical (execLoopBatch node s) := by
  unfold execLoopBatch
  repeat' split
  · simp [h]
  · simp [h]
  · simp [h]
  · simp [h]
  · exact canonical_next.2 (State.activateLoops_memWf _ _ _ _ _ (memWf_foldl _ _ _ (State.spans_memWf _ _ h)
      fun _ _ hu => State.axisBatch_memWf _ _ _ _ _ hu))

@[simp] theorem execSetpointEvaluation_memWf (a : Fin 160) : Canonical (execSetpointEvaluation a s) := by
  unfold execSetpointEvaluation
  split
  · simp [h]
  · exact canonical_unless h (canonical_next.2 (State.coeffsWhileFaulted_memWf _ _ _ (State.setFree_memWf _ _
      (State.setAxis_memWf _ _ _ h))))

@[simp] theorem execLoopCoeffSet_memWf (q : Fin 16) (tag : Fin 1024) : Canonical (execLoopCoeffSet q tag s) := by
  refine canonical_startPkt h _ _ _ fun p t ht => ?_
  dsimp only
  split
  · exact State.finish_memWf _ _ _ _ ht
  · refine memWf_ite (State.finish_memWf _ _ _ _ ht) ?_
    split
    · exact State.finish_memWf _ _ _ _ ht
    · exact memWf_foldl _ _ _ ht fun _ _ hu => State.setSlot_memWf _ _ _ _ hu

@[simp] theorem execLoopHandover_memWf (q : Fin 16) (tag : Fin 1024) : Canonical (execLoopHandover q tag s) := by
  refine canonical_startPkt h _ _ _ fun p t ht => ?_
  split <;> simp [ht, State.finish_memWf, State.setGroup_memWf]

@[simp] theorem execProbeSet_memWf (q : Fin 16) (tag : Fin 1024) : Canonical (execProbeSet q tag s) :=
  canonical_startPkt h _ _ _ fun p t ht => by simp [ht, ite_memWf, State.finish_memWf, State.finishOk_memWf,
    State.setEngine_memWf]

@[simp] theorem execLoopStateRead_memWf (q : Fin 16) (tag : Fin 1024) : Canonical (execLoopStateRead q tag s) := by
  refine canonical_startPkt h _ _ _ fun p t ht => ?_
  repeat' split
  all_goals simp [ht, State.finish_memWf, State.finishOk_memWf]

@[simp] theorem execTraceUpload_memWf (q : Fin 16) (tag : Fin 1024) : Canonical (execTraceUpload q tag s) :=
  canonical_startPkt h _ _ _ fun p t ht => by simp [ht, ite_memWf, State.finish_memWf, State.finishOk_memWf]

@[simp] theorem execTraceTrigger_memWf (q : Fin 16) (tag : Fin 1024) : Canonical (execTraceTrigger q tag s) :=
  canonical_startPkt h _ _ _ fun _ _ ht => memWf_ite (State.finish_memWf _ _ _ _ ht)
    (State.finishOk_memWf _ _ _ _ _ (memWf_foldOn _ _ _ ht fun _ _ hu => memWf_ite (State.setEngine_memWf _ _ _ hu) hu))

@[simp] theorem execTraceRelease_memWf (q : Fin 16) (tag : Fin 1024) : Canonical (execTraceRelease q tag s) :=
  canonical_startPkt h _ _ _ fun p t ht => by simp [ht, ite_memWf, State.finish_memWf, State.finishOk_memWf,
    State.setEngine_memWf]

/-! ### Nibble plane -/

@[simp] theorem execRulePass_memWf : Canonical (execRulePass s) := by
  have hpass := s.nibble.pass_tame s.theCell
    (s.nibble.rules.filter (fun r => s.inGroup r ((s.seqNo + 1) % s.phaseCount))) []
  exact canonical_unless h (canonical_next.2 (State.setNibble_tame _ _ h ⟨hpass.front, hpass.back⟩))

@[simp] theorem execDeveloperTick_memWf : Canonical (execDeveloperTick s) :=
  canonical_unless h (canonical_next.2 (memWf_foldl _ _ _ (State.setNibble_memWf _ _ h (SameAs.refl _) (SameAs.refl _))
    fun _ _ hu => State.release_memWf _ _ hu))

@[simp] theorem execImageSwap_memWf : Canonical (execImageSwap s) := by
  have hrows := State.traceRows_memWf s h
  refine canonical_unless h (canonical_unless hrows ?_)
  refine canonical_next.2 (State.activatePoints_memWf _ _ (memWf_foldl _ _ _ ?_
    fun _ _ hu => State.finishTag_memWf _ _ _ _ _ hu))
  refine State.setSwapped_memWf (State.setGoverned_memWf (memWf_foldl _ _ _ (memWf_foldl _ _ _ (State.setNibble_memWf _ _ ?_
    (SameAs.refl _) (SameAs.refl _)) fun _ _ hu => State.swapDelivery_memWf _ _ hu) fun _ _ hu => State.swapMiss_memWf _ _ hu)
    rfl rfl) rfl rfl
  split
  · exact State.finishTag_memWf _ _ _ _ _ (State.setNibble_memWf _ _ hrows (SameAs.refl _) (SameAs.refl _))
  · exact State.setNibble_memWf _ _ hrows (SameAs.refl _) (SameAs.refl _)

@[simp] theorem execNpDev_memWf (window : BitVec 8) : Canonical (execNpDev window s) := by
  simp [h, execNpDev, State.setWindow_memWf]

@[simp] theorem execEvtSubscribe_memWf (q : Fin 16) (tag : Fin 1024) : Canonical (execEvtSubscribe q tag s) := by
  refine canonical_startPkt h _ _ _ fun p t ht => ?_
  repeat' split
  all_goals simp [ht, ite_memWf, State.finish_memWf, State.finishOk_memWf, State.setSub_memWf]

@[simp] theorem execEvtArm_memWf (q : Fin 16) (tag : Fin 1024) : Canonical (execEvtArm q tag s) := by
  unfold execEvtArm
  repeat' split
  · simp [h]
  · simp [h]
  · exact canonical_startPkt h _ _ _ fun p t ht => by
      simp [ht, ite_memWf, State.deliverSub_memWf, State.finish_memWf]

@[simp] theorem execEvtCancel_memWf (q : Fin 16) (tag : Fin 1024) : Canonical (execEvtCancel q tag s) :=
  canonical_startPkt h _ _ _ fun _ _ ht => memWf_ite (State.finish_memWf _ _ _ _ ht)
    (State.finishOk_memWf _ _ _ _ _ (State.setSub_memWf _ _ _ (memWf_foldl _ _ _ ht
      fun _ _ hu => State.finish_memWf _ _ _ _ hu)))

@[simp] theorem execEvtHoldExpiry_memWf (sub : Fin 16) : Canonical (execEvtHoldExpiry sub s) :=
  canonical_onExpiry h _ fun t ht => by simp [ht, State.deliverSub_memWf]

@[simp] theorem execPointForce_memWf (q : Fin 16) (tag : Fin 1024) : Canonical (execPointForce q tag s) :=
  canonical_startPkt h _ _ _ fun p t ht => by simp [ht, State.pointCommand_memWf]

@[simp] theorem execPointWrite_memWf (q : Fin 16) (tag : Fin 1024) : Canonical (execPointWrite q tag s) :=
  canonical_startPkt h _ _ _ fun p t ht => by simp [ht, State.pointCommand_memWf]

@[simp] theorem execPointRead_memWf (q : Fin 16) (tag : Fin 1024) : Canonical (execPointRead q tag s) :=
  canonical_startPkt h _ _ _ fun p t ht => by simp [ht, ite_memWf, State.finish_memWf, State.finishOk_memWf]

@[simp] theorem execRuleLoad_memWf (q : Fin 16) (tag : Fin 1024) : Canonical (execRuleLoad q tag s) := by
  refine canonical_startPkt h _ _ _ fun p t ht => State.fragment_memWf _ _ _ _ _ ht fun b u hu => ?_
  split <;> simp [hu, State.finish_memWf, State.setNibble_memWf, SameAs.refl]

/-! ### Solver -/

@[simp] theorem execAssembly_memWf : Canonical (execAssembly s) := by
  refine canonical_unless h (canonical_next.2 (State.setSolver_memWf _ _ (foldl_fst_memWf _ _ _ ?_ fun x p hx => ?_)))
  · exact State.setSolver_memWf _ _ (State.lateStage_memWf _ (State.latchDue_memWf _ h))
  · dsimp only
    split
    · exact hx
    · exact State.assembleOne_memWf _ _ _ _ hx

@[simp] theorem execSolveRequest_memWf (p : Fin 4) : Canonical (execSolveRequest p s) := by
  unfold execSolveRequest
  refine canonical_unless h ?_
  split
  · simp [h]
  · exact canonical_if (canonical_next.2 (State.notSolved_memWf _ _ _ h)) (canonical_next.2
      (State.nextFree_memWf _ (State.noteSolve_memWf _ _ _ (State.setSolve_memWf _ _ _ (State.requestParts_memWf _ _ h)))))

@[simp] theorem execLHalt_memWf (p : Fin 4) (corrected : Nat) : Canonical (execLHalt p corrected s) := by
  unfold execLHalt
  split
  · simp [h]
  · exact canonical_next.2 (State.releaseParts_memWf _ _ (State.corrected_memWf _ _ _ (State.noteSolve_memWf _ _ _ h)))

@[simp] theorem execSolveOverrun_memWf (p : Fin 4) : Canonical (execSolveOverrun p s) := by
  simp [h, execSolveOverrun, State.overrun_memWf]

@[simp] theorem execDistribution_memWf : Canonical (execDistribution s) :=
  canonical_unless h (canonical_next.2 (State.auxBanks_memWf _ (memWf_foldOn _ _ _ h fun _ _ hu =>
    State.settle_memWf _ _ (State.overrun_memWf _ _ hu))))

@[simp] theorem execSolverReport_memWf (q : Fin 16) (tag : Fin 1024) : Canonical (execSolverReport q tag s) :=
  canonical_startPkt h _ _ _ fun p t ht => by simp [ht, ite_memWf, State.finish_memWf, State.finishOk_memWf]

/-! ### Dispatcher -/

@[simp] theorem execDelayTick_memWf : Canonical (execDelayTick s) := by
  simp [h, execDelayTick, State.dispatch_memWf, State.setDisp_memWf]

@[simp] theorem execArbitrationRound_memWf (i : Fin 25) (reqs : List (Fin 8)) (release : Bool) :
    Canonical (execArbitrationRound i reqs release s) := by
  simp [h, execArbitrationRound, State.setArb_memWf]

@[simp] theorem execAbMemcls_memWf (r : Fin 8) (cls : BitVec 2) : Canonical (execAbMemcls r cls s) := by
  simp [h, execAbMemcls, State.setMemcls_memWf]

@[simp] theorem execBackgroundPromotion_memWf (b : Fin 6) (unit : Fin 25) : Canonical (execBackgroundPromotion b unit s) := by
  simp [h, execBackgroundPromotion, ite_memWf, State.askUnit_memWf, State.notice_memWf, State.setDisp_memWf]

@[simp] theorem execBackgroundStep_memWf (b : Fin 6) (unit : Fin 25) (corrected : Nat) :
    Canonical (execBackgroundStep b unit corrected s) := by
  simp [h, execBackgroundStep, ite_memWf, State.scrubbed_memWf, State.setDisp_memWf, State.stepDone_memWf]

/-! ### Cell time -/

@[simp] theorem execPtpMessage_memWf (port : Fin 2) (m : PtpMsg) : Canonical (execPtpMessage port m s) := by
  unfold execPtpMessage
  dsimp only
  repeat' split
  all_goals simp [h, State.ptpOut_memWf, State.setPtpSlot_memWf, State.setTime_memWf, State.syncDone_memWf,
    State.takeAnnounce_memWf]

@[simp] theorem execPtpSlotLoss_memWf (slot : Fin 2) : Canonical (execPtpSlotLoss slot s) := by
  simp [h, execPtpSlotLoss, State.setPtpSlot_memWf, State.setTime_memWf, State.tbLost_memWf]

@[simp] theorem execSlotSwitch_memWf : Canonical (execSlotSwitch s) := by
  unfold execSlotSwitch
  dsimp only
  repeat' split
  · simp [h]
  · simp [h]
  · exact canonical_next.2 (State.notice_memWf _ _ _ _ (State.setTime_memWf _ _ (State.setTime_memWf _ _ h)))
  · exact canonical_next.2 (State.tbLost_memWf _ (State.setTime_memWf _ _ h))
  · exact canonical_next.2 (State.setTime_memWf _ _ h)

@[simp] theorem execSlot0Return_memWf : Canonical (execSlot0Return s) := by
  simp [h, execSlot0Return, State.setTime_memWf]

@[simp] theorem execSyncInEdge_memWf (falling : Bool) : Canonical (execSyncInEdge falling s) := by
  have hcapture (x : TimeSt) : (s.setTime x).memWf = true := State.setTime_memWf _ _ h
  have henter {c : Prop} [Decidable c] (x y : TimeSt) (d : Int) :
      ((State.setTime (if c then (s.setTime x).tbEnter .acquire else s.setTime x) y).measure d).memWf = true :=
    State.measure_memWf _ _ (State.setTime_memWf _ _ (memWf_ite (State.tbEnter_memWf _ _ (hcapture x)) (hcapture x)))
  simp [h, hcapture, henter, execSyncInEdge, State.setTime_memWf]

@[simp] theorem execPpsLoss_memWf : Canonical (execPpsLoss s) := by
  unfold execPpsLoss
  split <;> simp [h, State.setTime_memWf, State.tbLost_memWf]

@[simp] theorem execSyncOutEdge_memWf : Canonical (execSyncOutEdge s) := by
  simp [h, execSyncOutEdge, State.setTime_memWf]

@[simp] theorem execTbCtrlSource_memWf (src : BitVec 2) : Canonical (execTbCtrlSource src s) := by
  simp [h, execTbCtrlSource, State.setSource_memWf]

@[simp] theorem execTbDomain_memWf (slot : Fin 2) (v : Word) : Canonical (execTbDomain slot v s) := by
  simp [h, execTbDomain, State.setDomain_memWf]

@[simp] theorem execTimeRead_memWf (q : Fin 16) (tag : Fin 1024) : Canonical (execTimeRead q tag s) :=
  canonical_startPkt h _ _ _ fun p t ht => by simp [ht, State.finishOk_memWf]

@[simp] theorem execTimeSet_memWf (q : Fin 16) (tag : Fin 1024) : Canonical (execTimeSet q tag s) := by
  refine canonical_startPkt h _ _ _ fun p t ht => ?_
  split
  · exact State.finish_memWf _ _ _ _ ht
  · exact State.finishOk_memWf _ _ _ _ _ (State.setTime_memWf _ _ (State.tbEnter_memWf _ _ ht))

@[simp] theorem execPtpSelect_memWf (q : Fin 16) (tag : Fin 1024) : Canonical (execPtpSelect q tag s) :=
  canonical_startPkt h _ _ _ fun p t ht => by simp [ht, ite_memWf, State.finish_memWf, State.finishOk_memWf,
    State.setSelect_memWf]

@[simp] theorem execSyncOutCfg_memWf (q : Fin 16) (tag : Fin 1024) : Canonical (execSyncOutCfg q tag s) := by
  refine canonical_startPkt h _ _ _ fun p t ht => ?_
  split
  · exact State.finish_memWf _ _ _ _ ht
  · exact State.finishOk_memWf _ _ _ _ _ (State.syncOutLow_memWf _ (State.setTime_memWf _ _ ht))

@[simp] theorem execSyncInRead_memWf (q : Fin 16) (tag : Fin 1024) : Canonical (execSyncInRead q tag s) :=
  canonical_startPkt h _ _ _ fun p t ht => by simp [ht, State.finishOk_memWf]

/-! ### Ocnel ring -/

@[simp] theorem execRingWindowExpiry_memWf (r : Fin 4) : Canonical (execRingWindowExpiry r s) := by
  unfold execRingWindowExpiry
  dsimp only
  split <;> simp [h, State.enterCold_memWf, State.enterRanging_memWf, State.setRing_memWf]

@[simp] theorem execColdstart_memWf (r : Fin 4) (laneB fcsOk : Bool) (frame : List Byte) :
    Canonical (execColdstart r laneB fcsOk frame s) := by
  unfold execColdstart
  dsimp only
  split <;> simp [h, ite_memWf, State.ringError_memWf, State.ringForward_memWf, State.takeCold_memWf]

@[simp] theorem execRangeRsp_memWf (r : Fin 4) (laneB : Bool) (frac : Fin 20) (fcsOk : Bool) (frame : List Byte) :
    Canonical (execRangeRsp r laneB frac fcsOk frame s) := by
  unfold execRangeRsp
  dsimp only
  split <;> simp [h, ite_memWf, State.ringError_memWf, State.ringForward_memWf, State.takeRangeRsp_memWf]

@[simp] theorem execRangePollTimeout_memWf (r : Fin 4) : Canonical (execRangePollTimeout r s) := by
  simp [h, execRangePollTimeout, ite_memWf, State.nextPoll_memWf, State.putHop_memWf, State.sendPoll_memWf]

@[simp] theorem execRingActivateBoundary_memWf (r : Fin 4) : Canonical (execRingActivateBoundary r s) := by
  unfold execRingActivateBoundary
  dsimp only
  split <;> simp [h, State.notice_memWf, State.setRing_memWf]

@[simp] theorem execNodeFrame_memWf (r : Fin 4) (laneB : Bool) (frac : Fin 20) (fcsOk : Bool) (frame : List Byte) :
    Canonical (execNodeFrame r laneB frac fcsOk frame s) := by
  unfold execNodeFrame
  dsimp only
  split <;> simp [h, ite_memWf, State.deviceFrame_memWf, State.ownFrame_memWf, State.ringError_memWf,
    State.ringForward_memWf, State.takeNodeFrame_memWf, State.takeRangeRsp_memWf]

@[simp] theorem execSlotLostDeadline_memWf (r : Fin 4) (hop : Nat) : Canonical (execSlotLostDeadline r hop s) := by
  unfold execSlotLostDeadline
  dsimp only
  repeat' split
  all_goals simp [h, State.newCycle_memWf, State.settleCycle_memWf]

@[simp] theorem execDeviceOutputFrame_memWf (r : Fin 4) : Canonical (execDeviceOutputFrame r s) := by
  have hsent (x : RingSt) (f : HdrFields) (b : List Byte) :
      ((((s.checkReturn r).setRing r x).sendCopies r f b).endCmds r).memWf = true :=
    State.endCmds_memWf _ _ (State.sendCopies_memWf _ _ _ _ (State.setRing_memWf _ _ _ (State.checkReturn_memWf _ _ h)))
  exact canonical_unless h (canonical_next.2 (memWf_ite (State.sendDigest_memWf _ _ (State.setTwin_memWf _ _
    (State.sendSummary_memWf _ _ _ (hsent _ _ _)))) (hsent _ _ _)))

@[simp] theorem execRangingRound_memWf (r : Fin 4) : Canonical (execRangingRound r s) :=
  canonical_unless h (canonical_next.2 (State.setRing_memWf _ _ _ (memWf_foldl _ _ _ h fun _ _ hu =>
    memWf_ite (State.setRing_memWf _ _ _ hu) (State.putHop_memWf _ _ _ _ hu))))

@[simp] theorem execRingStatus_memWf (q : Fin 16) (tag : Fin 1024) : Canonical (execRingStatus q tag s) :=
  canonical_startPkt h _ _ _ fun p t ht => by simp [ht, ite_memWf, State.finish_memWf, State.finishOk_memWf]

@[simp] theorem execRingRerange_memWf (q : Fin 16) (tag : Fin 1024) : Canonical (execRingRerange q tag s) :=
  canonical_startPkt h _ _ _ fun _ _ ht => memWf_ite (State.finish_memWf _ _ _ _ ht)
    (memWf_ite (State.finish_memWf _ _ _ _ ht) (State.finishOk_memWf _ _ _ _ _ (memWf_foldl _ _ _ ht fun _ _ hu =>
      State.setRing_memWf _ _ _ hu)))

@[simp] theorem execNodeReadmit_memWf (q : Fin 16) (tag : Fin 1024) : Canonical (execNodeReadmit q tag s) := by
  refine canonical_startPkt h _ _ _ fun p t ht => ?_
  split <;> simp [ht, ite_memWf, State.finish_memWf, State.sendMgmt_memWf, State.setRing_memWf]

/-! ### Separation monitoring -/

@[simp] theorem execSafetyFrame_memWf (node : Nat) (arrival : Nat) (bytes : List Byte) :
    Canonical (execSafetyFrame node arrival bytes s) := by
  have hlink (x : SepSt) : (s.setSep x).memWf = true := State.setSep_memWf _ _ h
  have htaken (x y : SepSt) : ((s.setSep x).setSep y).memWf = true := State.setSep_memWf _ _ (hlink x)
  unfold execSafetyFrame
  dsimp only
  repeat' split
  all_goals simp [h, hlink, htaken, State.frameFails_memWf]

@[simp] theorem execSeparationIntake_memWf : Canonical (execSeparationIntake s) :=
  canonical_unless h (canonical_next.2 (memWf_foldOn _ _ _ (State.checkSources_memWf _ (State.checkLinks_memWf _ h))
    fun _ _ hu => State.setSep_memWf _ _ hu))

/-! ### Cells -/

@[simp] theorem execCellLoad_memWf (q : Fin 16) (tag : Fin 1024) : Canonical (execCellLoad q tag s) := by
  refine canonical_startPkt h _ _ _ fun p t ht => State.fragment_memWf _ _ _ _ _ ht fun b u hu => ?_
  simp [hu, State.takeCell_memWf]

@[simp] theorem execCellAmend_memWf (q : Fin 16) (tag : Fin 1024) : Canonical (execCellAmend q tag s) := by
  refine canonical_startPkt h _ _ _ fun p t ht => State.fragment_memWf _ _ _ _ _ ht fun b u hu => ?_
  simp [hu, State.takeCell_memWf]

@[simp] theorem execCellCheck_memWf (q : Fin 16) (tag : Fin 1024) : Canonical (execCellCheck q tag s) := by
  refine canonical_startPkt h _ _ _ fun p t ht => State.fragment_memWf _ _ _ _ _ ht fun b u hu => ?_
  simp [hu, State.takeCell_memWf]

@[simp] theorem execSchedSwap_memWf (q : Fin 16) (tag : Fin 1024) : Canonical (execSchedSwap q tag s) := by
  refine canonical_startPkt h _ _ _ fun p t ht => ?_
  split <;> simp [ht, ite_memWf, State.finish_memWf, State.finishOk_memWf, State.setCell_memWf, State.setSolver_memWf]

@[simp] theorem execKernelBind_memWf (q : Fin 16) (tag : Fin 1024) : Canonical (execKernelBind q tag s) := by
  refine canonical_startPkt h _ _ _ fun p t ht => ?_
  dsimp only
  split <;> simp [ht, ite_memWf, State.finish_memWf, State.setCell_memWf]

@[simp] theorem execPlaceRead_memWf (q : Fin 16) (tag : Fin 1024) : Canonical (execPlaceRead q tag s) :=
  canonical_startPkt h _ _ _ fun p t ht => by simp [ht, ite_memWf, State.finish_memWf, State.finishOk_memWf]

@[simp] theorem execPlacementComplete_memWf : Canonical (execPlacementComplete s) := by
  unfold execPlacementComplete
  repeat' split
  all_goals simp [h, State.placeJob_memWf, State.placeRegrade_memWf]

@[simp] theorem execStagingComplete_memWf (p : Fin 4) (eccOk : Bool) : Canonical (execStagingComplete p eccOk s) := by
  unfold execStagingComplete
  dsimp only
  split <;> simp [h, State.setCell_memWf, State.setProb_memWf, State.withdraw_memWf]

@[simp] theorem execStagingDeadline_memWf : Canonical (execStagingDeadline s) := by
  unfold execStagingDeadline
  repeat' split
  all_goals simp [h, State.withdraw_memWf]

@[simp] theorem execActivation_memWf : Canonical (execActivation s) := by
  refine canonical_unless h ?_
  extract_lets u
  have hu : u.memWf = true := by
    unfold u
    split
    · exact memWf_ite (State.activateRegrade_memWf _ _ h) h
    · exact h
  clear_value u
  dsimp only
  repeat' split
  · exact canonical_next.2 hu
  · exact canonical_next.2 (State.leavePair_memWf _ (State.endJob_memWf _ _ _ hu))
  · exact canonical_next.2 (State.endJob_memWf _ _ _ hu)
  · exact canonical_next.2 (State.finishTag_memWf _ _ _ _ _ (State.showPlaced_memWf _ (State.setCell_memWf _ _
      (State.putInForce_memWf _ _ hu))))
  · exact canonical_next.2 hu

@[simp] theorem execPartitionFault_memWf (p : Fin 8) : Canonical (execPartitionFault p s) := by
  have hstopped (c : Nat → State → Bool) :
      (foldOn (List.range 4) s fun u i => if c i u then u.notSolved (f4 i) 1 else u).memWf = true :=
    memWf_foldOn _ _ _ h fun _ _ hu => memWf_ite (State.notSolved_memWf _ _ _ hu) hu
  exact canonical_unless (hstopped _) (canonical_next.2 (State.maskChanged_memWf _ (State.latchUnit_memWf _ _ _
    (State.setCell_memWf _ _ (hstopped _)))))

@[simp] theorem execTileFault_memWf (t : Fin 16) (selfTest : Bool) : Canonical (execTileFault t selfTest s) := by
  have hended (x : TileSt) (ks : List Nat) : (ks.foldl (fun s k =>
      s.setKernel (f64 k) { s.tiles.kernels[f64 k] with valid := false, waiting := none })
        ((s.cutRun t).setTile t x)).memWf = true :=
    memWf_foldl _ _ _ (State.setTile_memWf _ _ _ (State.cutRun_memWf _ _ h)) fun _ _ hu =>
      State.setKernel_memWf _ _ _ hu (SameAs.refl _)
  exact canonical_unless h (canonical_unless (hended _ _) (canonical_next.2 (State.maskChanged_memWf _
    (State.latchUnit_memWf _ _ _ (State.setCell_memWf _ _ (hended _ _))))))

/-! ### CAN -/

@[simp] theorem execCanFrameReceived_memWf (n : Fin 4) (f : CanFrame) (sof : DWord) :
    Canonical (execCanFrameReceived n f sof s) :=
  canonical_unless h (canonical_next.2 (State.canShare_memWf _ _ _ _ _ (State.canConfine_memWf _ _
    (State.canStore_memWf _ _ _ _ (State.nextFree_memWf _ (State.setCanN_memWf _ _ _ h))))))

@[simp] theorem execBufferLockRead_memWf (n : Fin 4) (b : Fin 64) : Canonical (execBufferLockRead n b s) := by
  simp [h, execBufferLockRead, State.canLock_memWf]

@[simp] theorem execBufferReleaseRead_memWf (n : Fin 4) (b : Fin 64) : Canonical (execBufferReleaseRead n b s) := by
  simp [h, execBufferReleaseRead, State.canRelease_memWf]

@[simp] theorem execCanLockTimeout_memWf (n : Fin 4) (b : Fin 64) : Canonical (execCanLockTimeout n b s) := by
  unfold execCanLockTimeout
  split <;> simp [h, State.canRelease_memWf, State.setCanN_memWf]

@[simp] theorem execCanRxRead_memWf (q : Fin 16) (tag : Fin 1024) : Canonical (execCanRxRead q tag s) := by
  refine canonical_startPkt h _ _ _ fun p t ht => ?_
  dsimp only
  repeat' split
  all_goals simp [ht, State.canBuf_memWf, State.finish_memWf, State.finishOk_memWf]

@[simp] theorem execCanTx_memWf (q : Fin 16) (tag : Fin 1024) : Canonical (execCanTx q tag s) := by
  refine canonical_startPkt h _ _ _ fun p t ht => ?_
  repeat' split
  all_goals simp [ht, ite_memWf, State.canBuf_memWf, State.finish_memWf]

@[simp] theorem execCanSofOpportunity_memWf (n : Fin 4) : Canonical (execCanSofOpportunity n s) := by
  unfold execCanSofOpportunity
  refine canonical_unless h ?_
  split
  · simp [h]
  · exact canonical_next.2 (State.emit_memWf _ _ (State.nextFree_memWf _ (State.setCanN_memWf _ _ _ h)))

@[simp] theorem execCanArbitrationEnd_memWf (n : Fin 4) (won : Bool) : Canonical (execCanArbitrationEnd n won s) := by
  unfold execCanArbitrationEnd
  dsimp only
  split <;> simp [h, State.leaveBus_memWf, State.setCanN_memWf]

@[simp] theorem execCanFrameComplete_memWf (n : Fin 4) : Canonical (execCanFrameComplete n s) := by
  unfold execCanFrameComplete
  dsimp only
  split
  · simp [h]
  · exact canonical_unless h (canonical_next.2 (State.canConfine_memWf _ _ (State.endTx_memWf _ _ _ _ _
      (State.canShare_memWf _ _ _ _ _ (State.setCanN_memWf _ _ _ h)))))

@[simp] theorem execCanCancel_memWf (q : Fin 16) (tag : Fin 1024) : Canonical (execCanCancel q tag s) :=
  canonical_startPkt h _ _ _ fun p t ht => by simp [ht, ite_memWf, State.canBuf_memWf, State.canShare_memWf,
    State.endTx_memWf, State.finish_memWf]

@[simp] theorem execCanCfg_memWf (q : Fin 16) (tag : Fin 1024) : Canonical (execCanCfg q tag s) := by
  refine canonical_startPkt h _ _ _ fun p t ht => memWf_ite (State.finish_memWf _ _ _ _ ht) ?_
  split
  · exact State.finish_memWf _ _ _ _ ht
  · exact memWf_ite (State.finish_memWf _ _ _ _ ht) (State.finishOk_memWf _ _ _ _ _ (State.canEnter_memWf _ _ _
      (State.setCanN_memWf _ _ _ ht)))

@[simp] theorem execCanBusIntegration_memWf (n : Fin 4) : Canonical (execCanBusIntegration n s) := by
  simp [h, execCanBusIntegration, State.setCanN_memWf]

@[simp] theorem execCanBusError_memWf (n : Fin 4) (e : CanError) (lec : Fin 7) : Canonical (execCanBusError n e lec s) := by
  have hcounted (x : CanSt) : (((s.setCanN n x).canConfine n).canShare n 0 0 []).memWf = true :=
    State.canShare_memWf _ _ _ _ _ (State.canConfine_memWf _ _ (State.setCanN_memWf _ _ _ h))
  refine canonical_unless h ?_
  dsimp only
  split
  · exact canonical_next.2 (State.canShare_memWf _ _ _ _ _ (State.canConfine_memWf _ _ (State.leaveBus_memWf _ _ _
      (State.setCanN_memWf _ _ _ h))))
  · exact canonical_next.2 (hcounted _)
  · exact canonical_next.2 (hcounted _)
  · simp [h]

@[simp] theorem execRecover_memWf (n : Fin 4) : Canonical (execRecover n s) := by
  simp [h, execRecover, State.setCanN_memWf]

@[simp] theorem execCanRecoveryComplete_memWf (n : Fin 4) : Canonical (execCanRecoveryComplete n s) := by
  simp [h, execCanRecoveryComplete, State.canEnter_memWf, State.setCanN_memWf]

/-! ### Reference stage -/

@[simp] theorem execReferenceStage_memWf : Canonical (execReferenceStage s) := by
  refine canonical_unless h (canonical_next.2 (State.readmitNodes_memWf _ ?_))
  refine memWf_foldOn _ _ _ (memWf_foldl _ _ _ ?_ fun _ _ hu => State.completeCmd_memWf _ _ hu)
    fun _ _ hu => State.startBrakeTest_memWf _ _ hu
  refine State.newReferences_memWf _ (memWf_foldOn _ _ _ (memWf_foldl _ _ _ (State.releaseAll_memWf _ ?_)
    fun _ _ hu => State.replan_memWf _ _ _ hu) fun _ _ hu => State.setForces_memWf _ _ hu)
  refine memWf_foldOn _ _ _ (memWf_foldOn _ _ _ (State.setMotion_memWf _ _ ?_) fun _ _ hu => State.applyCmds_memWf _ _ _ hu)
    fun _ _ hu => State.stageOne_memWf _ _ hu
  exact State.enterBracket_memWf _ (State.takeOver_memWf _ (State.latchDue_memWf _ h))

/-! ### Parameter pages -/

@[simp] theorem execParamRead_memWf (q : Fin 16) (tag : Fin 1024) : Canonical (execParamRead q tag s) := by
  refine canonical_startPkt h _ _ _ fun p t ht => ?_
  split <;> simp [ht, State.finish_memWf, State.finishOk_memWf, State.readSides_memWf]

@[simp] theorem execParamWrite_memWf (q : Fin 16) (tag : Fin 1024) : Canonical (execParamWrite q tag s) := by
  refine canonical_startPkt h _ _ _ fun p t ht => ?_
  dsimp only
  repeat' split
  all_goals simp [ht, State.finish_memWf, State.writeResets_memWf, State.writeWords_memWf]

@[simp] theorem execBar0MirrorWrite_memWf (w : Fin 256) (v : Word) : Canonical (execBar0MirrorWrite w v s) := by
  unfold execBar0MirrorWrite
  repeat' split
  all_goals simp [h, State.writeResets_memWf, State.writeWords_memWf]

@[simp] theorem execSysBcfg_memWf (w : Fin 32) (v : Word) : Canonical (execSysBcfg w v s) := by
  simp [h, execSysBcfg, State.writeWords_memWf]

@[simp] theorem execDebugSpiTransaction_memWf (req : List Byte) (keysOn100ms : Bool) :
    Canonical (execDebugSpiTransaction req keysOn100ms s) := by
  unfold execDebugSpiTransaction
  refine canonical_unless h ?_
  split
  · simp [h, State.emit_memWf]
  · exact canonical_if (canonical_next.2 (State.emit_memWf _ _ (State.readSides_memWf _ _ _ _ h)))
      (canonical_next.2 (State.emit_memWf _ _ (State.writeResets_memWf _ _ _ _ (State.writeWords_memWf _ _ _ h))))

/-! ### Safety cycle -/

@[simp] theorem execSafetyConfigLoad_memWf : Canonical (execSafetyConfigLoad s) := by
  unfold execSafetyConfigLoad
  repeat' split
  all_goals simp [h, ite_memWf, State.enterBath_memWf, State.setSafety_memWf]

@[simp] theorem execSafeParamSet_memWf (q : Fin 16) (tag : Fin 1024) : Canonical (execSafeParamSet q tag s) := by
  refine canonical_startPkt h _ _ _ fun p t ht => ?_
  dsimp only
  repeat' split
  all_goals simp [ht, State.finish_memWf, State.toGate_memWf]

@[simp] theorem execSafePointAssign_memWf (q : Fin 16) (tag : Fin 1024) : Canonical (execSafePointAssign q tag s) := by
  refine canonical_startPkt h _ _ _ fun p t ht => ?_
  dsimp only
  repeat' split
  all_goals simp [ht, State.finish_memWf, State.toGate_memWf]

@[simp] theorem execSafetyCycleBoundary_memWf (hb1 hb2 digestsEqual : Bool) :
    Canonical (execSafetyCycleBoundary hb1 hb2 digestsEqual s) := by
  refine canonical_unless h (canonical_next.2 ?_)
  have hbound (a b : Bool) : (s.applySafes.sepBoundary a b).memWf = true :=
    State.sepBoundary_memWf _ _ _ (State.applySafes_memWf _ h)
  have hcycle (c : Bool) (a b : Bool) : (foldOn (List.range 16)
      (if c then (s.applySafes.sepBoundary a b).heartbeats hb1 hb2 digestsEqual else s.applySafes.sepBoundary a b).evalFuncs
      fun u c => (u.ss1Cycle (f16 c)).slsCycle (f16 c)).memWf = true :=
    memWf_foldOn _ _ _ (State.evalFuncs_memWf _ (memWf_ite (State.heartbeats_memWf _ _ _ _ (hbound a b)) (hbound a b)))
      fun _ _ hu => State.slsCycle_memWf _ _ (State.ss1Cycle_memWf _ _ hu)
  exact memWf_ite (State.judgePaired_memWf _ (State.adoptDemands_memWf _ _ (State.adoptDemands_memWf _ _ (hcycle _ _ _))))
    (State.judgeResets_memWf _ (hcycle _ _ _))

/-! ### Bring-up, supplies and firmware -/

@[simp] theorem execPorstN_memWf (low : Bool) (ns : Nat) : Canonical (execPorstN low ns s) := by
  simp [h, execPorstN, State.holdReset_memWf, State.setSys_memWf]

@[simp] theorem execFirmwareWatchdog_memWf : Canonical (execFirmwareWatchdog s) := by
  simp [h, execFirmwareWatchdog, State.holdReset_memWf, State.setSys_memWf]

@[simp] theorem execMainDieResetRelease_memWf (twinId dbgEn : Bool) : Canonical (execMainDieResetRelease twinId dbgEn s) := by
  refine canonical_unless h (canonical_next.2 (State.setTwin_memWf _ _ (State.setHost_memWf _ _ (State.nextFree_memWf _
    (State.setSys_memWf _ _ ?_)))))
  split
  · exact State.logRec_memWf _ _ _ _ _ h
  · exact h

@[simp] theorem execFunctionReady_memWf (f : Fin 21) (pass : Bool) : Canonical (execFunctionReady f pass s) := by
  have hready {c : Prop} [Decidable c] (y : SysSt) : (if c then s else s.setSys y).memWf = true :=
    memWf_ite h (State.setSys_memWf _ _ h)
  have hstarts {c : Prop} [Decidable c] (y : SysSt) (x : SafetySt) (ch : Fin 2) :
      ((State.setSafety (if c then s else s.setSys y) x).channelStarts ch).memWf = true :=
    State.channelStarts_memWf _ _ (State.setSafety_memWf _ _ (hready y))
  have htold {t : State} (ht : t.memWf = true) : (if f.val = rdTwin then t.sendHello t.cell.nextDigest else t).memWf = true :=
    memWf_ite (State.sendHello_memWf _ _ _ ht) ht
  exact canonical_unless h (canonical_if (canonical_next.2 (State.setSys_memWf _ _ h)) (canonical_next.2
    (htold (memWf_ite (hstarts _ _ _) (memWf_ite (hstarts _ _ _) (hready _))))))

@[simp] theorem execVddCoreDip_memWf : Canonical (execVddCoreDip s) := by
  simp [h, execVddCoreDip, State.nextFree_memWf, State.setSys_memWf]

@[simp] theorem execSupplyCautionEntry_memWf : Canonical (execSupplyCautionEntry s) := by
  unfold execSupplyCautionEntry
  dsimp only
  split <;> simp [h, State.setSys_memWf]

@[simp] theorem execDipEnd_memWf (minMv : Nat) : Canonical (execDipEnd minMv s) := by
  have hsys (y : SysSt) : (s.setSys y).nextFree.memWf = true := State.nextFree_memWf _ (State.setSys_memWf _ _ h)
  unfold execDipEnd
  dsimp only
  split
  · simp [h]
  · simp [hsys, State.logRec_memWf]

@[simp] theorem execSupplyStop_memWf (_ch : Fin 2) : Canonical (execSupplyStop _ch s) := by
  simp [h, execSupplyStop, State.enterBath_memWf, State.setSys_memWf]

omit h in
@[simp] theorem execVddCoreResetLevel_memWf : Canonical (execVddCoreResetLevel s) := by
  simp [execVddCoreResetLevel, State.holdReset_memWf, State.setSys_memWf]

@[simp] theorem execVddSlLow_memWf (reset : Bool) (ns : Nat) : Canonical (execVddSlLow reset ns s) := by
  have hfault (y : SysSt) : ((s.setSys y).nextFree.channelFault 1).memWf = true :=
    State.channelFault_memWf _ _ (State.nextFree_memWf _ (State.setSys_memWf _ _ h))
  simp [h, hfault, execVddSlLow]

@[simp] theorem execVddSlGood_memWf : Canonical (execVddSlGood s) := by
  have hsys (y : SysSt) : (s.setSys y).nextFree.memWf = true := State.nextFree_memWf _ (State.setSys_memWf _ _ h)
  exact canonical_if (canonical_next.2 (hsys _)) (canonical_next.2 (memWf_ite (hsys _)
    (State.enterBath_memWf _ _ (hsys _))))

@[simp] theorem execThermalLimit_memWf (e : ThermalEvent) : Canonical (execThermalLimit e s) := by
  have hsys (y : SysSt) : (s.setSys y).memWf = true := State.setSys_memWf _ _ h
  unfold execThermalLimit
  split
  all_goals simp [h, hsys, ite_memWf, State.channelFault_memWf, State.logRec_memWf, State.notice_memWf, State.setSafety_memWf]

@[simp] theorem execFwStage_memWf (q : Fin 16) (tag : Fin 1024) : Canonical (execFwStage q tag s) := by
  refine canonical_startPkt h _ _ _ fun p t ht => State.fragment_memWf _ _ _ _ _ ht fun b u hu => ?_
  split <;> simp [hu, State.finish_memWf, State.finishOk_memWf, State.setSys_memWf]

@[simp] theorem execFwVerify_memWf (q : Fin 16) (tag : Fin 1024) : Canonical (execFwVerify q tag s) := by
  refine canonical_startPkt h _ _ _ fun p t ht => ?_
  split <;> simp [ht, ite_memWf, State.finish_memWf, State.finishOk_memWf, State.setSys_memWf]

@[simp] theorem execFwProgramComplete_memWf : Canonical (execFwProgramComplete s) := by
  unfold execFwProgramComplete
  dsimp only
  repeat' split
  all_goals simp [h, State.setSys_memWf]

@[simp] theorem execFwActivate_memWf (q : Fin 16) (tag : Fin 1024) : Canonical (execFwActivate q tag s) :=
  canonical_startPkt h _ _ _ fun p t ht => by simp [ht, ite_memWf, State.finish_memWf, State.toGate_memWf]

@[simp] theorem execOtpProgram_memWf (q : Fin 16) (tag : Fin 1024) : Canonical (execOtpProgram q tag s) := by
  refine canonical_startPkt h _ _ _ fun p t ht => ?_
  repeat' split
  all_goals simp [ht, State.finish_memWf, State.toGate_memWf]

@[simp] theorem execReplyWrite_memWf (q : Fin 16) : Canonical (execReplyWrite q s) := by
  unfold execReplyWrite
  dsimp only
  split <;> simp [h, State.holdReset_memWf, State.writeReply_memWf]

/-! ### Presence -/

@[simp] theorem execTwinRoleCfg_memWf (q : Fin 16) (tag : Fin 1024) : Canonical (execTwinRoleCfg q tag s) := by
  refine canonical_startPkt h _ _ _ fun p t ht => ?_
  split <;> simp [ht, ite_memWf, State.finish_memWf, State.toGate_memWf]

@[simp] theorem execPresenceDenied_memWf (sealBad : Bool) (disagree low : Nat) (seenHigh50 : Bool) :
    Canonical (execPresenceDenied sealBad disagree low seenHigh50 s) := by
  unfold execPresenceDenied
  split <;> simp [h, State.denyGate_memWf, State.expireGate_memWf]

@[simp] theorem execPresenceTimeout_memWf : Canonical (execPresenceTimeout s) := by
  refine canonical_onExpiry h _ fun t ht => ?_
  split <;> simp [ht, ite_memWf, State.denyGate_memWf]

@[simp] theorem execPanelClear_memWf : Canonical (execPanelClear s) := by
  refine canonical_onExpiry h _ fun t ht => ?_
  split <;> simp [ht, ite_memWf, State.showPanel_memWf]

/-! ### Twin -/

@[simp] theorem execBenjoLaneDown_memWf (lane : Fin 2) : Canonical (execBenjoLaneDown lane s) := by
  have htwin (x : TwinSt) : (s.setTwin x).memWf = true := State.setTwin_memWf _ _ h
  have hseen (x y : TwinSt) : ((s.setTwin x).setTwin y).memWf = true := State.setTwin_memWf _ _ (htwin x)
  exact canonical_unless h (canonical_unless (htwin _) (canonical_next.2 (memWf_ite (State.pairTo_memWf _ _ _
    (State.dropCell_memWf _ (State.setTwin_memWf _ _ (hseen _ _)))) (hseen _ _))))

@[simp] theorem execPartnerLost_memWf : Canonical (execPartnerLost s) := by
  simp [h, execPartnerLost, State.setTwin_memWf, State.survive_memWf]

@[simp] theorem execSafetyFrameLoss_memWf : Canonical (execSafetyFrameLoss s) := by
  simp [h, execSafetyFrameLoss, State.pairTo_memWf]

@[simp] theorem execSelfTestResult_memWf (own : Option Bool) : Canonical (execSelfTestResult own s) := by
  have hown := State.ownResult_memWf s own h
  have htest {c : Prop} [Decidable c] (x : TwinSt) :
      (if c then s.ownResult own else (s.ownResult own).setTwin x).memWf = true :=
    memWf_ite hown (State.setTwin_memWf _ _ hown)
  have hto {t : State} (ht : t.memWf = true) (st : PairState) (a : Bool) : Canonical (.next (t.pairTo st a)) :=
    canonical_next.2 (State.pairTo_memWf _ _ _ ht)
  refine canonical_unless h (canonical_unless hown (canonical_if ?_ ?_))
  · exact canonical_if (hto (htest _) _ _) (canonical_if (hto (htest _) _ _)
      (hto (State.enterBath_memWf _ _ (htest _)) _ _))
  · exact canonical_if (hto (State.setTwin_memWf _ _ (htest _)) _ _) (canonical_if (hto (htest _) _ _)
      (canonical_if (hto (htest _) _ _) (hto (State.enterBath_memWf _ _ (htest _)) _ _)))

@[simp] theorem execProofSwapDue_memWf : Canonical (execProofSwapDue s) :=
  canonical_unless h (canonical_onExpiry h _ fun _ ht => memWf_ite (State.announceSwap_memWf _ _ ht) ht)

@[simp] theorem execProofSwapNow_memWf (q : Fin 16) (tag : Fin 1024) : Canonical (execProofSwapNow q tag s) := by
  refine canonical_startPkt h _ _ _ fun p t ht => ?_
  dsimp only
  repeat' split
  all_goals simp [ht, State.announceSwap_memWf, State.finish_memWf, State.finishOk_memWf, State.setTwin_memWf]

@[simp] theorem execProofSwap_memWf : Canonical (execProofSwap s) := by
  unfold execProofSwap
  split
  · simp [h]
  · refine canonical_unless h (canonical_next.2 (State.passSync_memWf _ _ (State.setTwin_memWf _ _ ?_)))
    split
    · exact State.finishTag_memWf _ _ _ _ _ h
    · exact h

@[simp] theorem execResyncComplete_memWf : Canonical (execResyncComplete s) := by
  refine canonical_unless h (canonical_next.2 (State.formPair_memWf _ _ (State.setTwin_memWf _ _
    (State.nextFree_memWf _ ?_))))
  split
  · split
    next hwf => exact State.adopt_memWf _ _ hwf
    next => exact h
  · exact h

@[simp] theorem execTwinStatus_memWf (q : Fin 16) (tag : Fin 1024) : Canonical (execTwinStatus q tag s) :=
  canonical_startPkt h _ _ _ fun p t ht => by simp [ht, State.finishOk_memWf]

/-! ### Packet deadlines -/

/-- The row that judges a late packet is one of the rows above. -/
theorem rowOf_memWf (op : Nat) (q : Fin 16) (tag : Fin 1024) : Canonical (rowOf op q tag s) := by
  unfold rowOf
  split <;> simp [h]

@[simp] theorem execPacketDeadline_memWf (q : Fin 16) (tag : Fin 1024) : Canonical (execPacketDeadline q tag s) := by
  have htried (x : QueueSt) (d : DispSt) (f : DelayEntry → Bool) :
      (((s.entryRun f).setQueue q x).setDisp d).memWf = true :=
    State.setDisp_memWf _ _ (State.setQueue_memWf _ _ _ (State.entryRun_memWf _ _ h))
  unfold execPacketDeadline
  dsimp only
  split
  · simp [h]
  · split
    next p _ =>
      split
      · obtain ⟨t, ht, hwf⟩ := rowOf_memWf (htried _ _ _) p.opcode q tag
        rw [ht]
        simp [h, hwf, State.entryRun_memWf, State.finish_memWf, State.setDisp_memWf, State.setQueue_memWf]
      · simp [h, State.entryRun_memWf]
    next => simp [h, State.entryRun_memWf]

/-! ### Every command -/

/-- At the panel a packet is accepted, or the window closes (R60, R61). -/
@[simp] theorem execAcceptNRelease_memWf (b : Press) : Canonical (execAcceptNRelease b s) := by
  have hclosed := State.closePresence_memWf s 0x41 h
  unfold execAcceptNRelease
  split
  · simp [h]
  · refine canonical_if (canonical_next.2 (State.expireGate_memWf _ h)) (canonical_unless h ?_)
    iterate 5 refine canonical_if (canonical_next.2 (State.denyGate_memWf _ _ _ _ h)) ?_
    split
    · exact canonical_next.2 hclosed
    · exact canonical_next.2 (State.accept_memWf _ _ hclosed)

/-- Writes held back by a supply caution are carried out at its end (R415). -/
@[simp] theorem execSupplyCautionEnd_memWf : Canonical (execSupplyCautionEnd s) :=
  canonical_unless h (canonical_next.2 (memWf_foldl _ _ _ (State.setSys_memWf _ _ h)
    fun _ _ hu => State.commitWrite_memWf _ _ hu))

@[simp] theorem execBenjoFrame_memWf (lane : Fin 2) (bytes : List Byte) : Canonical (execBenjoFrame lane bytes s) := by
  have hup := State.laneUp_memWf s lane h
  refine canonical_unless h (canonical_if (canonical_next.2 (State.laneError_memWf _ _ h)) ?_)
  refine canonical_if (canonical_next.2 (State.laneError_memWf _ _ hup)) (canonical_unless hup ?_)
  exact canonical_next.2 (State.takeBenjo_memWf _ _ _ (State.setTwin_memWf _ _ hup))

/-- What every command leaves of the canonical form. -/
theorem exec_memWf (c : Instr) : Canonical (exec c s) := by
  cases c with
  | tNop t | tMac t | tMpy t | tMac4 t | tMpy4 t | tClra t | tAdda t | tSha t | tLda t | tSth t | tStl t | tStg t | tAdd t
  | tSub t | tAdds t | tSubs t | tAnd t | tOr t | tXor t | tAsh t | tLsh t | tAbs t | tNeg t | tMin t | tMax t | tCls t
  | tCmp t | tSel t | tMov t | tMovi t | tAddi t | tModi t | tBxclr t | tBxupd t | tBr t | tCall t | tRet t | tDbnz t
  | tLoop t | tReti t | tSwi t =>
    exact canonical_next.2 (State.tileOp_memWf s t _ _ h)
  | lSpmv p | lAxpy p | lDot p | lSdiv p | lBsolve p | lFactor p | lProj p | lCopy p | lOuter p | lInner p | lEnd p
  | lSync p | lWarm p | lEmit p =>
    exact canonical_next.2 (State.laneOp_memWf s p _ _ h)
  | _ => simp [exec, h]

end Commands

/-- Settles O8: an idle step is one TIME cycle, and a command runs on the rest of the queue; both keep the form. -/
theorem ramsStayCanonical : Obligations.RamsStayCanonical := by
  unfold Obligations.RamsStayCanonical
  intro s t hs hstep
  unfold step at hstep
  split at hstep
  · cases hstep
    exact State.cycle_memWf s hs
  next c rest _ =>
    obtain ⟨u, hu, hwf⟩ := exec_memWf (State.setPending_memWf s rest hs) c
    cases hu.symm.trans hstep
    exact hwf

end Sys2Proof.Machine
end

section
/-! SUPPORT. The events of the dispatcher and its arbiters: due delay entries, rounds, the classes of the requesters, and the
promotions and steps of the background tasks (R279, R281 to R288). -/

namespace Sys2Proof.Machine

/-! ### Delay entries and requests (R279, R281 to R285) -/

section DispatcherEvent
variable {s : State}

theorem exec_delayTick_onGrid (h : s.onGrid 1000 0 = true) :
    let due := fun (e : DelayEntry) => decide (e.tick * 1000 ≤ s.time.cellNs)
    exec .delayTick s = .next (s.setDisp { s.disp with
      delay := s.delayList.filter (fun e => !due e), fired := s.disp.fired ++ s.delayList.filter due
      late := bump s.disp.late 31 16
        ((s.delayList.filter due).filter (fun e => decide (e.tick * 1000 + 1000 < s.time.cellNs))).length }).dispatch :=
  if_neg (by simp only [h, Bool.not_true, Bool.false_eq_true, not_false_eq_true])

theorem exec_delayTick_offGrid (h : s.onGrid 1000 0 = false) : exec .delayTick s = .next s :=
  if_pos (by rw [h, Bool.not_false])

section Round
variable {i : Fin 25} (reqs : List (Fin 8)) (rel : Bool)

/-- A masked unit has no holder and no requests (R284). -/
theorem exec_arbitrationRound_masked (h : s.unitMasked i.val = true) :
    exec (.arbitrationRound i reqs rel) s = .next (s.setArb i.val { s.arb i.val with holder := none, waiting := [] }) :=
  if_pos h

theorem exec_arbitrationRound_open (h : s.unitMasked i.val = false) :
    exec (.arbitrationRound i reqs rel) s = .next (s.setArb i.val
      ((reqs.foldl (fun a r => s.newRequest i.val a r.val) (s.newClasses i.val (s.arb i.val))).round rel)) :=
  if_neg (Bool.eq_false_iff.1 h)

end Round

theorem exec_abMemcls_sets {r : Fin 8} (cls : BitVec 2) (h5 : r ≠ 5) (h6 : r ≠ 6) :
    exec (.abMemcls r cls) s = .next (s.setMemcls r cls) := if_neg (not_or.2 ⟨h5, h6⟩)

/-- Requesters 5 and 6 keep their class (R285). -/
theorem exec_abMemcls_fixed {r : Fin 8} (cls : BitVec 2) (h : r = 5 ∨ r = 6) : exec (.abMemcls r cls) s = .next s :=
  if_pos h

/-! ### Promotions of background tasks (R287, R288) -/

variable {b : Fin 6} {u : Fin 25}

/-- A promotion is considered no earlier than the deferral limit after the last step, of a task that is enabled and on a unit of
its own. -/
theorem exec_backgroundPromotion_none (h : taskUnit b.val u.val = false ∨ s.disp.enabled b = false ∨
    s.now < s.disp.lastOf b.val u.val + fld s.disp.bg[b] 31 20 * 1000000) :
    exec (.backgroundPromotion b u) s = .next s :=
  if_pos (by simpa only [Bool.or_eq_true, Bool.not_eq_true', decide_eq_true_eq, or_assoc] using h)

/-- Past the deferral limit the task decides: the re-calibration of a lane is reported, any other step is promoted once. -/
theorem exec_backgroundPromotion_passed (hunit : taskUnit b.val u.val = true) (hen : s.disp.enabled b = true)
    (hdue : s.disp.lastOf b.val u.val + fld s.disp.bg[b] 31 20 * 1000000 ≤ s.now) :
    let d := s.disp
    let key := 32 * b.val + u.val
    exec (.backgroundPromotion b u) s =
      if b.val = 3 then .next ((s.setDisp { d with
        bg := d.bg.set b (bump d.bg[b] 7 0 1), lastStep := mput 0 d.lastStep key s.now }).notice .recalMissed u.val 0)
      else if d.promoted.contains key then .next s
      else
        let t := s.setDisp { d with bg := d.bg.set b (bump d.bg[b] 15 8 1), promoted := d.promoted ++ [key] }
        .next (if onCore b.val u.val then t else t.askUnit u.val (requesterFor b.val)) :=
  if_neg (by simp only [hunit, hen, Nat.not_lt.2 hdue, Bool.not_true, decide_false, Bool.or_self, Bool.false_eq_true,
    not_false_eq_true])

/-! ### Steps of background tasks (R283, R286, R287) -/

/-- A step of a task may complete on a unit: on a lane in its span, on an interpreter core as the current item, on an arbitrated
unit while the task's requester holds it. -/
def State.stepHolds (s : State) (b u : Nat) : Bool :=
  if b = 3 then s.laneIdle u
  else if onCore b u then s.disp.current (.task b u)
  else s.holdsUnit u (requesterFor b)

theorem State.stepHolds_iff (s : State) (b u : Nat) : s.stepHolds b u = true ↔
    (b = 3 ∧ s.laneIdle u = true) ∨ (b ≠ 3 ∧ onCore b u = true ∧ s.disp.current (.task b u) = true) ∨
      (b ≠ 3 ∧ ¬ onCore b u = true ∧ s.holdsUnit u (requesterFor b) = true) := by
  unfold State.stepHolds
  split
  next hlane => simp only [hlane, true_and, ne_eq, not_true_eq_false, false_and, or_false]
  next hlane =>
    split
    next hcore => simp only [hlane, hcore, true_and, ne_eq, not_false_eq_true, not_true_eq_false, false_and, and_false,
      false_or, or_false]
    next hcore => simp only [hlane, hcore, true_and, ne_eq, not_false_eq_true, false_and, and_false, false_or,
      Bool.false_eq_true]

/-- The dispatcher after a completed step: the step leaves its slot, and its next deferral starts now, not promoted. -/
def State.stepEnded (s : State) (b u : Nat) : State :=
  s.setDisp { s.disp with
    lastStep := mput 0 s.disp.lastStep (32 * b + u) s.now, promoted := s.disp.promoted.filter (· != 32 * b + u)
    workers := s.disp.workers.map (fun (v : Worker) =>
      { v with cur := v.cur.filter (fun c => decide (c.1.target ≠ .task b u)) }) }

theorem exec_backgroundStep_none (n : Nat) (h : taskUnit b.val u.val = false ∨ s.disp.enabled b = false ∨
    ¬ s.stepHolds b.val u.val = true) : exec (.backgroundStep b u n) s = .next s :=
  if_pos (show (!taskUnit b.val u.val || !s.disp.enabled b || !s.stepHolds b.val u.val) = true by
    simpa only [Bool.or_eq_true, Bool.not_eq_true', Bool.not_eq_true, or_assoc] using h)

/-- A step that holds its unit completes; on an arbitrated unit it is the arbiter's preemption point (R283). -/
theorem exec_backgroundStep_completes (n : Nat) (hunit : taskUnit b.val u.val = true) (hen : s.disp.enabled b = true)
    (hholds : s.stepHolds b.val u.val = true) :
    let t := (s.stepEnded b.val u.val).scrubbed b.val u.val n
    exec (.backgroundStep b u n) s =
      .next (if b.val = 3 ∨ onCore b.val u.val = true then t else t.stepDone u.val (requesterFor b.val)) :=
  if_neg (show ¬ (!taskUnit b.val u.val || !s.disp.enabled b || !s.stepHolds b.val u.val) = true by
    simp only [hunit, hen, hholds, Bool.not_true, Bool.or_self, Bool.false_eq_true, not_false_eq_true])

end DispatcherEvent

/-- Settles O47: the events in the order of the statement, each by the lemma of its case. -/
theorem dispatcherEventsComplete : Obligations.DispatcherEventsComplete := by
  unfold Obligations.DispatcherEventsComplete
  refine fun s => ⟨exec_delayTick_onGrid, exec_delayTick_offGrid,
    fun i reqs rel => ⟨exec_arbitrationRound_masked reqs rel, exec_arbitrationRound_open reqs rel⟩,
    fun r cls => exec_abMemcls_sets cls, fun r cls => exec_abMemcls_fixed cls,
    fun b u => ⟨exec_backgroundPromotion_none, fun hunit hen hdue => ?_⟩, fun b u n => ?_⟩
  · have hexec := exec_backgroundPromotion_passed hunit hen hdue
    exact ⟨fun hlane => hexec.trans (if_pos hlane),
      fun hlane hprom => hexec.trans ((if_neg hlane).trans (if_pos hprom)),
      fun hlane hprom => hexec.trans ((if_neg hlane).trans (if_neg (Bool.eq_false_iff.1 hprom)))⟩
  · have hholds := s.stepHolds_iff b.val u.val
    refine ⟨fun h => exec_backgroundStep_none n (h.imp_right (Or.imp_right (mt hholds.1))), fun hunit hen h => ?_⟩
    have hexec := exec_backgroundStep_completes n hunit hen (hholds.2 h)
    exact ⟨fun hkept => hexec.trans (congrArg _ (if_pos hkept)),
      fun hlane hcore => hexec.trans (congrArg _ (if_neg (not_or.2 ⟨hlane, hcore⟩)))⟩

end Sys2Proof.Machine
end

section
/-! SUPPORT. Which commands leave the front image as it was (R293): all but the swap, the activation, the four that can reset
the main die and the two that lose or adopt a cell. One lemma per command. -/

namespace Sys2Proof.Machine

/-- The outcome is a next state with the front image of `s`. -/
def State.KeepsFront (s : State) (o : Host.Outcome State Fault Refusal) : Prop := ∃ t, o = .next t ∧ t.front = s.front

@[simp] theorem State.keepsFront_next {s t : State} : s.KeepsFront (.next t) ↔ t.front = s.front :=
  ⟨fun ⟨_, h, k⟩ => by cases h; exact k, fun h => ⟨t, rfl, h⟩⟩

@[simp] theorem State.keepsFront_ite {s : State} {c : Prop} [Decidable c] {o o' : Host.Outcome State Fault Refusal} :
    s.KeepsFront (if c then o else o') ↔ if c then s.KeepsFront o else s.KeepsFront o' := by
  split <;> rfl

/-- A packet row keeps the front image if its effect does (R35, R41, R43). -/
theorem State.keepsFront_startPkt {s : State} {q : Fin 16} {tag : Fin 1024} {op : Nat} {f : Pkt → State → State}
    (hf : ∀ p t, (f p t).front = t.front) : s.KeepsFront (.next (s.startPkt q tag op f)) :=
  State.keepsFront_next.2 (s.startPkt_front _ _ _ _ hf)

/-- An expiry row keeps the front image if its effect does (R279, R280). -/
theorem State.keepsFront_onExpiry {s : State} {f : DelayEntry → Bool} {g : State → State}
    (hg : ∀ t, (g t).front = t.front) : s.KeepsFront (.next (s.onExpiry f g)) :=
  State.keepsFront_next.2 (s.onExpiry_front _ _ hg)

section Rows
open State
variable (s : State) (q : Fin 16) (tag : Fin 1024)

/-! ### Commands that read -/

theorem State.repliesOnly.front {s t : State} (h : s.repliesOnly t) : t.front = s.front := by
  obtain ⟨_, _, _, _, _, rfl⟩ := h
  rfl

/-- The reading commands touch replies alone (`readsOnlyReply`). -/
@[simp] theorem readers_keepFront :
    s.KeepsFront (execPing q tag s) ∧ s.KeepsFront (execReadyRead q tag s) ∧ s.KeepsFront (execLogRead q tag s) ∧
    s.KeepsFront (execPlaceRead q tag s) ∧ s.KeepsFront (execSegqStatus q tag s) ∧
    s.KeepsFront (execLoopStateRead q tag s) ∧ s.KeepsFront (execSolverReport q tag s) ∧
    s.KeepsFront (execTileStatus q tag s) ∧ s.KeepsFront (execPointRead q tag s) ∧ s.KeepsFront (execTimeRead q tag s) ∧
    s.KeepsFront (execSyncInRead q tag s) ∧ s.KeepsFront (execRingStatus q tag s) ∧
    s.KeepsFront (execTwinStatus q tag s) ∧ s.KeepsFront (execTraceUpload q tag s) := by
  have hread := fun c hc => show s.KeepsFront (exec c s) from
    let ⟨t, ht, hreplies⟩ := readsOnlyReply c q tag s hc
    ⟨t, ht, hreplies.front⟩
  simp only [List.forall_mem_cons, List.not_mem_nil, false_imp_iff, implies_true, and_true] at hread
  exact hread

/-! ### Host queues -/

@[simp] theorem execSqDoorbell_keepsFront (tail : Nat) (mem : List Byte) :
    s.KeepsFront (execSqDoorbell q tail mem s) := by
  simp [execSqDoorbell, fetch_front, setQueue_front]

@[simp] theorem execCqDoorbell_keepsFront (head : Nat) : s.KeepsFront (execCqDoorbell q head s) := by
  simp [execCqDoorbell, fetch_front, setQueue_front]

@[simp] theorem execMsixModerationExpiry_keepsFront : s.KeepsFront (execMsixModerationExpiry q s) := by
  refine keepsFront_onExpiry fun t => ?_
  dsimp only
  split <;> simp [raiseMsix_front, setQueue_front, ite_front]

@[simp] theorem execUdpDatagram_keepsFront (port : Fin 2) (src : Endpoint) (dstPort : Nat) (data : List Byte) :
    s.KeepsFront (execUdpDatagram port src dstPort data s) := by
  simp [execUdpDatagram, countErr_front, setHost_front, udpPacket_front, ite_front]

@[simp] theorem execReassemblyTimeout_keepsFront (seq : Word) : s.KeepsFront (execReassemblyTimeout q seq s) :=
  keepsFront_onExpiry fun _ => by simp [setHost_front]

@[simp] theorem execPartialImageTimeout_keepsFront (st : Stream) : s.KeepsFront (execPartialImageTimeout st s) := by
  refine keepsFront_onExpiry fun t => ?_
  split <;> simp [dropPart_front, notice_front, ite_front]

@[simp] theorem execResetQ_keepsFront : s.KeepsFront (execResetQ q s) := by
  simp [execResetQ, startReset_front]

@[simp] theorem execAbort_keepsFront : s.KeepsFront (execAbort q tag s) := by
  refine keepsFront_startPkt fun _ t => ?_
  dsimp only
  split <;> simp [abortTarget_front, expireGate_front, finishOk_front, ite_front]

@[simp] theorem execQueueReset_keepsFront : s.KeepsFront (execQueueReset q tag s) :=
  keepsFront_startPkt fun _ _ => by simp [finish_front, startReset_front, ite_front]

/-! ### Motion -/

@[simp] theorem execBarrierTimeout_keepsFront (c : Fin 16) : s.KeepsFront (execBarrierTimeout c s) := by
  refine keepsFront_onExpiry fun t => ?_
  split <;> simp [barrierOut_front, foldOn_front, ite_front]

@[simp] theorem execSegPush_keepsFront : s.KeepsFront (execSegPush q tag s) := by
  unfold execSegPush
  repeat' split
  · simp
  · simp
  · refine keepsFront_startPkt fun _ t => ?_
    split <;> simp [finish_front, finishOk_front, setChain_front]

/-- MOTION_STOP, MOTION_RESUME and OVERRIDE_SET wait for the reference stage (R160, R167). -/
@[simp] theorem motionCommands_keepFront :
    s.KeepsFront (execMotionStop q tag s) ∧ s.KeepsFront (execMotionResume q tag s) ∧
    s.KeepsFront (execOverrideSet q tag s) := by
  refine ⟨?_, ?_, ?_⟩ <;> refine keepsFront_startPkt fun _ t => ?_
  all_goals simp [addMotionCmd_front, finish_front, ite_front]

@[simp] theorem execMoAuxcmd_keepsFront (k : Fin 32) (v : Word) : s.KeepsFront (execMoAuxcmd k v s) := by
  simp [execMoAuxcmd, setMotion_front]

/-! ### Safety inputs and functions -/

@[simp] theorem execSafeInputChange_keepsFront (i : Fin 16) (lineB level : Bool) (samples : Nat) :
    s.KeepsFront (execSafeInputChange i lineB level samples s) := by
  simp [execSafeInputChange, evalFuncs_front, setSafety_front]

@[simp] theorem execEstopChange_keepsFront (lineB level : Bool) (samples : Nat) :
    s.KeepsFront (execEstopChange lineB level samples s) := by
  simp [execEstopChange, enterBath_front, setSafety_front]

@[simp] theorem execDiscrepancyTimeout_keepsFront (i : Option (Fin 16)) : s.KeepsFront (execDiscrepancyTimeout i s) := by
  unfold execDiscrepancyTimeout
  dsimp only
  repeat' split
  all_goals simp [evalFuncs_front, setSafety_front]

@[simp] theorem execTestPulseCheck_keepsFront (k : Fin 4) (a b : BitVec 16) :
    s.KeepsFront (execTestPulseCheck k a b s) := by
  simp [execTestPulseCheck, evalFuncs_front, setSafety_front, foldOn_front]

@[simp] theorem execOutputTestPulse_keepsFront (p : Fin 16) (lineB : Bool) (ch : Fin 2) (highInPulse lowOutside : Bool) :
    s.KeepsFront (execOutputTestPulse p lineB ch highInPulse lowOutside s) := by
  simp [execOutputTestPulse, emit_front, enterBath_front, setSafety_front, ite_front]

@[simp] theorem execSrstNPress_keepsFront (ch : Fin 2) (samples : Nat) : s.KeepsFront (execSrstNPress ch samples s) := by
  simp [execSrstNPress, setSafety_front]

@[simp] theorem execSrstNRelease_keepsFront (ch : Fin 2) (samples : Nat) :
    s.KeepsFront (execSrstNRelease ch samples s) := by
  simp [execSrstNRelease, setSafety_front]

@[simp] theorem execResetStuck_keepsFront : s.KeepsFront (execResetStuck s) := by
  simp [execResetStuck, notice_front, setSafety_front]

@[simp] theorem execSrstNOpen_keepsFront : s.KeepsFront (execSrstNOpen s) := by
  simp [execSrstNOpen, setSafety_front]

@[simp] theorem execSs1Timeout_keepsFront (c : Fin 16) : s.KeepsFront (execSs1Timeout c s) := by
  unfold execSs1Timeout
  dsimp only
  split <;> simp [toSto_front]

@[simp] theorem execBrakeFeedbackMismatch_keepsFront (p : Fin 16) (released : Bool) (ms : Nat) :
    s.KeepsFront (execBrakeFeedbackMismatch p released ms s) := by
  simp [execBrakeFeedbackMismatch, brakeFault_front]

@[simp] theorem execBrakeTestDue_keepsFront (c : Fin 16) : s.KeepsFront (execBrakeTestDue c s) :=
  keepsFront_onExpiry fun _ => by simp [setIndex_front, ite_front]

@[simp] theorem execSfBrkreq_keepsFront (v : BitVec 16) : s.KeepsFront (execSfBrkreq v s) := by
  simp [execSfBrkreq, requestBrakeTests_front]

@[simp] theorem execBrakeTestStep_keepsFront (c : Fin 16) (fbClosed : Bool) (disp1 disp2 : Nat) :
    s.KeepsFront (execBrakeTestStep c fbClosed disp1 disp2 s) := by
  unfold execBrakeTestStep
  dsimp only
  split <;> simp [abortTest_front, brakeFault_front, drive_front, endBrakeTest_front, restartLoops_front, setIndex_front,
      setTestTorque_front, toSto_front]

@[simp] theorem execBrakeTestOverdue_keepsFront (c : Fin 16) : s.KeepsFront (execBrakeTestOverdue c s) := by
  unfold execBrakeTestOverdue
  dsimp only
  split <;> simp [setIndex_front, stopIndex_front]

@[simp] theorem execChannelInternalFault_keepsFront (ch : Fin 2) : s.KeepsFront (execChannelInternalFault ch s) := by
  simp [execChannelInternalFault, channelFault_front, setSafety_front, ite_front]

/-! ### Schedules -/

@[simp] theorem execSchedLoad_keepsFront : s.KeepsFront (execSchedLoad q tag s) := by
  refine keepsFront_startPkt fun _ _ => fragment_front _ _ _ _ _ fun _ u => ?_
  simp [storeSched_front]

@[simp] theorem execSchedUnload_keepsFront : s.KeepsFront (execSchedUnload q tag s) := by
  refine keepsFront_startPkt fun _ t => ?_
  split <;> simp [finish_front, finishOk_front, setSolver_front, ite_front]

/-! ### Signal tiles -/

@[simp] theorem execKernelLoad_keepsFront : s.KeepsFront (execKernelLoad q tag s) := by
  refine keepsFront_startPkt fun _ _ => fragment_front _ _ _ _ _ fun _ u => ?_
  dsimp only
  repeat' split
  all_goals simp [finish_front, finishOk_front, setKernel_front]

@[simp] theorem execKernelUnload_keepsFront : s.KeepsFront (execKernelUnload q tag s) := by
  refine keepsFront_startPkt fun _ t => ?_
  dsimp only
  repeat' split
  all_goals simp [finish_front, finishOk_front, setKernel_front]

@[simp] theorem execKernelActivation_keepsFront (t : Fin 16) : s.KeepsFront (execKernelActivation t s) := by
  unfold execKernelActivation
  dsimp only
  repeat' split
  all_goals simp [kernelFault_front, setFree_front, setKernel_front, setTile_front]

@[simp] theorem execKernelOverrun_keepsFront (t : Fin 16) : s.KeepsFront (execKernelOverrun t s) := by
  unfold execKernelOverrun
  dsimp only
  split <;> simp [cutRun_front, setKernel_front, setTile_front]

@[simp] theorem execInterruptEntry_keepsFront (t : Fin 16) : s.KeepsFront (execInterruptEntry t s) := by
  unfold execInterruptEntry
  dsimp only
  split <;> simp [setTile_front]

@[simp] theorem execTEnd_keepsFront (t : Fin 16) (corrected : Nat) : s.KeepsFront (execTEnd t corrected s) :=
  keepsFront_next.2 (tileRun_front _ _ _ _ _ fun s im o => by simp [commit_front, tileErrors_front, ite_front])

/-! ### Loop engines -/

@[simp] theorem execArm_keepsFront (e : Fin 16) : s.KeepsFront (execArm e s) := by
  simp [execArm, armTrace_front]

@[simp] theorem execLoopCutoffMiss_keepsFront (e : Fin 16) (slot : Fin 32) :
    s.KeepsFront (execLoopCutoffMiss e slot s) := by
  unfold execLoopCutoffMiss
  dsimp only
  repeat' split
  all_goals simp [advanceHandover_front, setAxis_front, setSlot_front, slotMiss_front]

@[simp] theorem execLoopEngineFault_keepsFront (e : Fin 16) (masked : Bool) :
    s.KeepsFront (execLoopEngineFault e masked s) := by
  simp [execLoopEngineFault, engineLost_front]

@[simp] theorem execLoopBatch_keepsFront (node : Nat) : s.KeepsFront (execLoopBatch node s) := by
  unfold execLoopBatch
  repeat' split
  all_goals simp [activateLoops_front, axisBatch_front, spans_front, foldl_front]

@[simp] theorem execSetpointEvaluation_keepsFront (a : Fin 160) : s.KeepsFront (execSetpointEvaluation a s) := by
  unfold execSetpointEvaluation
  split <;> simp [coeffsWhileFaulted_front, setAxis_front, setFree_front]

@[simp] theorem execLoopCoeffSet_keepsFront : s.KeepsFront (execLoopCoeffSet q tag s) := by
  refine keepsFront_startPkt fun _ t => ?_
  dsimp only
  repeat' split
  all_goals simp [finish_front, setSlot_front, foldl_front]

@[simp] theorem execLoopHandover_keepsFront : s.KeepsFront (execLoopHandover q tag s) := by
  refine keepsFront_startPkt fun _ t => ?_
  split <;> simp [finish_front, setGroup_front]

@[simp] theorem execProbeSet_keepsFront : s.KeepsFront (execProbeSet q tag s) :=
  keepsFront_startPkt fun _ _ => by simp [finish_front, finishOk_front, setEngine_front, ite_front]

@[simp] theorem execTraceTrigger_keepsFront : s.KeepsFront (execTraceTrigger q tag s) :=
  keepsFront_startPkt fun _ _ => by simp [finish_front, finishOk_front, setEngine_front, foldOn_front, ite_front]

@[simp] theorem execTraceRelease_keepsFront : s.KeepsFront (execTraceRelease q tag s) :=
  keepsFront_startPkt fun _ _ => by simp [finish_front, finishOk_front, setEngine_front, ite_front]

/-! ### Nibble plane -/

/-- A rule pass writes outputs to the back image (R302). -/
@[simp] theorem execRulePass_keepsFront : s.KeepsFront (execRulePass s) := by
  simp [execRulePass, setNibble_front, (NibbleSt.pass_tame _ _ _ _).front]

/-- Released events run their rules, which write outputs to the back image (R303, R309). -/
@[simp] theorem execDeveloperTick_keepsFront : s.KeepsFront (execDeveloperTick s) := by
  simp [execDeveloperTick, release_front, setNibble_front, foldl_front]

@[simp] theorem execNpDev_keepsFront (window : BitVec 8) : s.KeepsFront (execNpDev window s) := by
  simp [execNpDev, setWindow_front]

@[simp] theorem execEvtSubscribe_keepsFront : s.KeepsFront (execEvtSubscribe q tag s) := by
  refine keepsFront_startPkt fun _ t => ?_
  repeat' split
  all_goals simp [finish_front, finishOk_front, setSub_front, ite_front]

@[simp] theorem execEvtArm_keepsFront : s.KeepsFront (execEvtArm q tag s) := by
  unfold execEvtArm
  repeat' split
  · simp
  · simp
  · exact keepsFront_startPkt fun _ _ => by simp [deliverSub_front, finish_front, ite_front]

@[simp] theorem execEvtCancel_keepsFront : s.KeepsFront (execEvtCancel q tag s) :=
  keepsFront_startPkt fun _ _ => by simp [finish_front, finishOk_front, setSub_front, foldl_front, ite_front]

@[simp] theorem execEvtHoldExpiry_keepsFront (sub : Fin 16) : s.KeepsFront (execEvtHoldExpiry sub s) :=
  keepsFront_onExpiry fun _ => by simp [deliverSub_front]

/-- POINT_FORCE and POINT_WRITE wait for the swap that governs their points (R299). -/
@[simp] theorem pointCommands_keepFront :
    s.KeepsFront (execPointForce q tag s) ∧ s.KeepsFront (execPointWrite q tag s) :=
  ⟨keepsFront_startPkt fun p t => t.pointCommand_front p true,
    keepsFront_startPkt fun p t => t.pointCommand_front p false⟩

/-- A rule table waits for the next swap (R304). -/
@[simp] theorem execRuleLoad_keepsFront : s.KeepsFront (execRuleLoad q tag s) := by
  refine keepsFront_startPkt fun _ _ => fragment_front _ _ _ _ _ fun _ u => ?_
  split <;> simp [finish_front, setNibble_front]

/-! ### Solver -/

/-- A fold that carries a state beside other data keeps what each of its steps keeps. -/
theorem foldl_fst_front {α β : Type} (l : List α) (g : State × β → α → State × β) (x : State × β)
    (h : ∀ x a, (g x a).1.front = x.1.front) : (l.foldl g x).1.front = x.1.front := by
  induction l generalizing x with
  | nil => rfl
  | cons a r ih => exact (ih _).trans (h x a)

@[simp] theorem execAssembly_keepsFront : s.KeepsFront (execAssembly s) := by
  unfold execAssembly
  split
  · simp
  · refine keepsFront_next.2 ((setSolver_front _ _).trans ((foldl_fst_front _ _ _ fun x p => ?_).trans ?_))
    · dsimp only
      split <;> simp [assembleOne_front]
    · simp [latchDue_front, lateStage_front, setSolver_front]

@[simp] theorem execSolveRequest_keepsFront (p : Fin 4) : s.KeepsFront (execSolveRequest p s) := by
  unfold execSolveRequest
  repeat' split
  all_goals simp [nextFree_front, notSolved_front, noteSolve_front, requestParts_front, setSolve_front]

@[simp] theorem execLHalt_keepsFront (p : Fin 4) (corrected : Nat) : s.KeepsFront (execLHalt p corrected s) := by
  unfold execLHalt
  split <;> simp [corrected_front, noteSolve_front, releaseParts_front]

@[simp] theorem execSolveOverrun_keepsFront (p : Fin 4) : s.KeepsFront (execSolveOverrun p s) := by
  simp [execSolveOverrun, overrun_front]

@[simp] theorem execDistribution_keepsFront : s.KeepsFront (execDistribution s) := by
  simp [execDistribution, auxBanks_front, overrun_front, settle_front, foldOn_front]

/-! ### Dispatcher -/

@[simp] theorem execDelayTick_keepsFront : s.KeepsFront (execDelayTick s) := by
  simp [execDelayTick, dispatch_front, setDisp_front]

@[simp] theorem execArbitrationRound_keepsFront (i : Fin 25) (reqs : List (Fin 8)) (release : Bool) :
    s.KeepsFront (execArbitrationRound i reqs release s) := by
  simp [execArbitrationRound, setArb_front]

@[simp] theorem execAbMemcls_keepsFront (r : Fin 8) (cls : BitVec 2) : s.KeepsFront (execAbMemcls r cls s) := by
  simp [execAbMemcls, setMemcls_front]

@[simp] theorem execBackgroundPromotion_keepsFront (b : Fin 6) (unit : Fin 25) :
    s.KeepsFront (execBackgroundPromotion b unit s) := by
  simp [execBackgroundPromotion, askUnit_front, notice_front, setDisp_front, ite_front]

@[simp] theorem execBackgroundStep_keepsFront (b : Fin 6) (unit : Fin 25) (corrected : Nat) :
    s.KeepsFront (execBackgroundStep b unit corrected s) := by
  simp [execBackgroundStep, scrubbed_front, setDisp_front, stepDone_front, ite_front]

/-! ### Cell time -/

@[simp] theorem execPtpMessage_keepsFront (port : Fin 2) (m : PtpMsg) : s.KeepsFront (execPtpMessage port m s) := by
  unfold execPtpMessage
  dsimp only
  repeat' split
  all_goals simp [ptpOut_front, setPtpSlot_front, setTime_front, syncDone_front, takeAnnounce_front]

@[simp] theorem execPtpSlotLoss_keepsFront (slot : Fin 2) : s.KeepsFront (execPtpSlotLoss slot s) := by
  simp [execPtpSlotLoss, setPtpSlot_front, setTime_front, tbLost_front]

@[simp] theorem execSlotSwitch_keepsFront : s.KeepsFront (execSlotSwitch s) := by
  unfold execSlotSwitch
  dsimp only
  repeat' split
  all_goals simp [notice_front, setTime_front, tbLost_front]

@[simp] theorem execSlot0Return_keepsFront : s.KeepsFront (execSlot0Return s) := by
  simp [execSlot0Return, setTime_front]

@[simp] theorem execSyncInEdge_keepsFront (falling : Bool) : s.KeepsFront (execSyncInEdge falling s) := by
  simp [execSyncInEdge, measure_front, setTime_front, tbEnter_front, ite_front]

@[simp] theorem execPpsLoss_keepsFront : s.KeepsFront (execPpsLoss s) := by
  unfold execPpsLoss
  split <;> simp [setTime_front, tbLost_front]

@[simp] theorem execSyncOutEdge_keepsFront : s.KeepsFront (execSyncOutEdge s) := by
  simp [execSyncOutEdge, setTime_front]

@[simp] theorem execTbCtrlSource_keepsFront (src : BitVec 2) : s.KeepsFront (execTbCtrlSource src s) := by
  simp [execTbCtrlSource, setSource_front]

@[simp] theorem execTbDomain_keepsFront (slot : Fin 2) (v : Word) : s.KeepsFront (execTbDomain slot v s) := by
  simp [execTbDomain, setDomain_front]

@[simp] theorem execTimeSet_keepsFront : s.KeepsFront (execTimeSet q tag s) := by
  refine keepsFront_startPkt fun _ t => ?_
  split <;> simp [finish_front, finishOk_front, setTime_front, tbEnter_front]

@[simp] theorem execPtpSelect_keepsFront : s.KeepsFront (execPtpSelect q tag s) :=
  keepsFront_startPkt fun _ _ => by simp [finish_front, finishOk_front, setSelect_front, ite_front]

@[simp] theorem execSyncOutCfg_keepsFront : s.KeepsFront (execSyncOutCfg q tag s) := by
  refine keepsFront_startPkt fun _ t => ?_
  split <;> simp [finish_front, finishOk_front, setTime_front, syncOutLow_front]

/-! ### Ocnel ring -/

@[simp] theorem execRingWindowExpiry_keepsFront (r : Fin 4) : s.KeepsFront (execRingWindowExpiry r s) := by
  unfold execRingWindowExpiry
  dsimp only
  split <;> simp [enterCold_front, enterRanging_front, setRing_front]

@[simp] theorem execColdstart_keepsFront (r : Fin 4) (laneB fcsOk : Bool) (frame : List Byte) :
    s.KeepsFront (execColdstart r laneB fcsOk frame s) := by
  unfold execColdstart
  dsimp only
  split <;> simp [ringError_front, ringForward_front, takeCold_front, ite_front]

@[simp] theorem execRangeRsp_keepsFront (r : Fin 4) (laneB : Bool) (frac : Fin 20) (fcsOk : Bool) (frame : List Byte) :
    s.KeepsFront (execRangeRsp r laneB frac fcsOk frame s) := by
  unfold execRangeRsp
  dsimp only
  split <;> simp [ringError_front, ringForward_front, takeRangeRsp_front, ite_front]

@[simp] theorem execRangePollTimeout_keepsFront (r : Fin 4) : s.KeepsFront (execRangePollTimeout r s) := by
  simp [execRangePollTimeout, nextPoll_front, putHop_front, sendPoll_front, ite_front]

@[simp] theorem execRingActivateBoundary_keepsFront (r : Fin 4) : s.KeepsFront (execRingActivateBoundary r s) := by
  unfold execRingActivateBoundary
  dsimp only
  split <;> simp [notice_front, setRing_front]

@[simp] theorem execNodeFrame_keepsFront (r : Fin 4) (laneB : Bool) (frac : Fin 20) (fcsOk : Bool) (frame : List Byte) :
    s.KeepsFront (execNodeFrame r laneB frac fcsOk frame s) := by
  unfold execNodeFrame
  dsimp only
  split <;> simp [deviceFrame_front, ownFrame_front, ringError_front, ringForward_front, takeNodeFrame_front,
      takeRangeRsp_front, ite_front]

@[simp] theorem execSlotLostDeadline_keepsFront (r : Fin 4) (hop : Nat) :
    s.KeepsFront (execSlotLostDeadline r hop s) := by
  unfold execSlotLostDeadline
  dsimp only
  repeat' split
  all_goals simp [newCycle_front, settleCycle_front]

@[simp] theorem execDeviceOutputFrame_keepsFront (r : Fin 4) : s.KeepsFront (execDeviceOutputFrame r s) := by
  simp [execDeviceOutputFrame, checkReturn_front, endCmds_front, sendCopies_front, sendDigest_front, sendSummary_front,
      setRing_front, setTwin_front, ite_front]

@[simp] theorem execRangingRound_keepsFront (r : Fin 4) : s.KeepsFront (execRangingRound r s) := by
  simp [execRangingRound, putHop_front, setRing_front, foldl_front, ite_front]

@[simp] theorem execRingRerange_keepsFront : s.KeepsFront (execRingRerange q tag s) :=
  keepsFront_startPkt fun _ _ => by simp [finish_front, finishOk_front, setRing_front, foldl_front, ite_front]

@[simp] theorem execNodeReadmit_keepsFront : s.KeepsFront (execNodeReadmit q tag s) := by
  refine keepsFront_startPkt fun _ t => ?_
  split <;> simp [finish_front, sendMgmt_front, setRing_front, ite_front]

/-! ### Separation monitoring -/

@[simp] theorem execSafetyFrame_keepsFront (node : Nat) (arrival : Nat) (bytes : List Byte) :
    s.KeepsFront (execSafetyFrame node arrival bytes s) := by
  unfold execSafetyFrame
  dsimp only
  repeat' split
  all_goals simp [frameFails_front, setSep_front]

@[simp] theorem execSeparationIntake_keepsFront : s.KeepsFront (execSeparationIntake s) := by
  simp [execSeparationIntake, checkLinks_front, checkSources_front, setSep_front, foldOn_front]

/-! ### Cells -/

/-- A cell image starts a placement job (R11, R14); its points take effect at the activation. -/
@[simp] theorem cellImages_keepFront :
    s.KeepsFront (execCellLoad q tag s) ∧ s.KeepsFront (execCellAmend q tag s) ∧ s.KeepsFront (execCellCheck q tag s) := by
  refine ⟨?_, ?_, ?_⟩ <;> exact keepsFront_startPkt fun p t =>
    fragment_front _ _ _ _ _ fun b u => u.takeCell_front p _ b

@[simp] theorem execSchedSwap_keepsFront : s.KeepsFront (execSchedSwap q tag s) := by
  refine keepsFront_startPkt fun _ t => ?_
  split <;> simp [finish_front, finishOk_front, setCell_front, setSolver_front, ite_front]

@[simp] theorem execKernelBind_keepsFront : s.KeepsFront (execKernelBind q tag s) := by
  refine keepsFront_startPkt fun _ t => ?_
  dsimp only
  split <;> simp [finish_front, setCell_front, ite_front]

@[simp] theorem execPlacementComplete_keepsFront : s.KeepsFront (execPlacementComplete s) := by
  unfold execPlacementComplete
  repeat' split
  all_goals simp [placeJob_front, placeRegrade_front]

@[simp] theorem execStagingComplete_keepsFront (p : Fin 4) (eccOk : Bool) :
    s.KeepsFront (execStagingComplete p eccOk s) := by
  unfold execStagingComplete
  dsimp only
  split <;> simp [setCell_front, setProb_front, withdraw_front]

@[simp] theorem execStagingDeadline_keepsFront : s.KeepsFront (execStagingDeadline s) := by
  unfold execStagingDeadline
  repeat' split
  all_goals simp [withdraw_front]

@[simp] theorem execPartitionFault_keepsFront (p : Fin 8) : s.KeepsFront (execPartitionFault p s) := by
  simp [execPartitionFault, latchUnit_front, maskChanged_front, notSolved_front, setCell_front, foldOn_front, ite_front]

@[simp] theorem execTileFault_keepsFront (t : Fin 16) (selfTest : Bool) : s.KeepsFront (execTileFault t selfTest s) := by
  simp [execTileFault, cutRun_front, latchUnit_front, maskChanged_front, setCell_front, setKernel_front, setTile_front,
      foldl_front]

/-! ### CAN -/

@[simp] theorem execCanFrameReceived_keepsFront (n : Fin 4) (f : CanFrame) (sof : DWord) :
    s.KeepsFront (execCanFrameReceived n f sof s) := by
  simp [execCanFrameReceived, canConfine_front, canShare_front, canStore_front, nextFree_front, setCanN_front]

@[simp] theorem execBufferLockRead_keepsFront (n : Fin 4) (b : Fin 64) : s.KeepsFront (execBufferLockRead n b s) := by
  simp [execBufferLockRead, canLock_front]

@[simp] theorem execBufferReleaseRead_keepsFront (n : Fin 4) (b : Fin 64) :
    s.KeepsFront (execBufferReleaseRead n b s) := by
  simp [execBufferReleaseRead, canRelease_front]

@[simp] theorem execCanLockTimeout_keepsFront (n : Fin 4) (b : Fin 64) : s.KeepsFront (execCanLockTimeout n b s) := by
  unfold execCanLockTimeout
  split <;> simp [canRelease_front, setCanN_front]

@[simp] theorem execCanRxRead_keepsFront : s.KeepsFront (execCanRxRead q tag s) := by
  refine keepsFront_startPkt fun _ t => ?_
  dsimp only
  repeat' split
  all_goals simp [canBuf_front, finish_front, finishOk_front]

@[simp] theorem execCanTx_keepsFront : s.KeepsFront (execCanTx q tag s) := by
  refine keepsFront_startPkt fun _ t => ?_
  repeat' split
  all_goals simp [canBuf_front, finish_front, ite_front]

@[simp] theorem execCanSofOpportunity_keepsFront (n : Fin 4) : s.KeepsFront (execCanSofOpportunity n s) := by
  unfold execCanSofOpportunity
  dsimp only
  repeat' split
  all_goals simp [emit_front, nextFree_front, setCanN_front]

@[simp] theorem execCanArbitrationEnd_keepsFront (n : Fin 4) (won : Bool) :
    s.KeepsFront (execCanArbitrationEnd n won s) := by
  unfold execCanArbitrationEnd
  dsimp only
  split <;> simp [leaveBus_front, setCanN_front]

@[simp] theorem execCanFrameComplete_keepsFront (n : Fin 4) : s.KeepsFront (execCanFrameComplete n s) := by
  unfold execCanFrameComplete
  dsimp only
  split <;> simp [canConfine_front, canShare_front, endTx_front, setCanN_front]

@[simp] theorem execCanCancel_keepsFront : s.KeepsFront (execCanCancel q tag s) :=
  keepsFront_startPkt fun _ _ => by simp [canBuf_front, canShare_front, endTx_front, finish_front, ite_front]

@[simp] theorem execCanCfg_keepsFront : s.KeepsFront (execCanCfg q tag s) := by
  refine keepsFront_startPkt fun _ t => ?_
  repeat' split
  all_goals simp [canEnter_front, finish_front, finishOk_front, setCanN_front, ite_front]

@[simp] theorem execCanBusIntegration_keepsFront (n : Fin 4) : s.KeepsFront (execCanBusIntegration n s) := by
  simp [execCanBusIntegration, setCanN_front]

@[simp] theorem execCanBusError_keepsFront (n : Fin 4) (e : CanError) (lec : Fin 7) :
    s.KeepsFront (execCanBusError n e lec s) := by
  unfold execCanBusError
  dsimp only
  repeat' split
  all_goals simp [canConfine_front, canShare_front, leaveBus_front, setCanN_front]

@[simp] theorem execRecover_keepsFront (n : Fin 4) : s.KeepsFront (execRecover n s) := by
  simp [execRecover, setCanN_front]

@[simp] theorem execCanRecoveryComplete_keepsFront (n : Fin 4) : s.KeepsFront (execCanRecoveryComplete n s) := by
  simp [execCanRecoveryComplete, canEnter_front, setCanN_front]

/-! ### Reference stage -/

@[simp] theorem execReferenceStage_keepsFront : s.KeepsFront (execReferenceStage s) := by
  simp [execReferenceStage, applyCmds_front, completeCmd_front, enterBracket_front, latchDue_front, newReferences_front,
      readmitNodes_front, releaseAll_front, replan_front, setForces_front, setMotion_front, stageOne_front,
      startBrakeTest_front, takeOver_front, foldl_front, foldOn_front]

/-! ### Parameter pages -/

@[simp] theorem execParamRead_keepsFront : s.KeepsFront (execParamRead q tag s) := by
  refine keepsFront_startPkt fun _ t => ?_
  split <;> simp [finish_front, finishOk_front, readSides_front]

@[simp] theorem execParamWrite_keepsFront : s.KeepsFront (execParamWrite q tag s) := by
  refine keepsFront_startPkt fun _ t => ?_
  dsimp only
  repeat' split
  all_goals simp [finish_front, writeResets_front, writeWords_front]

@[simp] theorem execBar0MirrorWrite_keepsFront (w : Fin 256) (v : Word) : s.KeepsFront (execBar0MirrorWrite w v s) := by
  unfold execBar0MirrorWrite
  repeat' split
  all_goals simp [writeResets_front, writeWords_front]

@[simp] theorem execSysBcfg_keepsFront (w : Fin 32) (v : Word) : s.KeepsFront (execSysBcfg w v s) := by
  simp [execSysBcfg, writeWords_front]

@[simp] theorem execDebugSpiTransaction_keepsFront (req : List Byte) (keysOn100ms : Bool) :
    s.KeepsFront (execDebugSpiTransaction req keysOn100ms s) := by
  unfold execDebugSpiTransaction
  split <;> simp [emit_front, readSides_front, writeResets_front, writeWords_front]

/-! ### Safety cycle -/

@[simp] theorem execSafetyConfigLoad_keepsFront : s.KeepsFront (execSafetyConfigLoad s) := by
  unfold execSafetyConfigLoad
  repeat' split
  all_goals simp [enterBath_front, setSafety_front, ite_front]

/-- Safety records that pass their checks go to the presence gate (R58). -/
@[simp] theorem safeRecords_keepFront :
    s.KeepsFront (execSafeParamSet q tag s) ∧ s.KeepsFront (execSafePointAssign q tag s) := by
  refine ⟨?_, ?_⟩ <;> refine keepsFront_startPkt fun _ t => ?_
  all_goals
    dsimp only
    repeat' split
    all_goals simp [finish_front, toGate_front]

@[simp] theorem execSafetyCycleBoundary_keepsFront (hb1 hb2 digestsEqual : Bool) :
    s.KeepsFront (execSafetyCycleBoundary hb1 hb2 digestsEqual s) := by
  simp [execSafetyCycleBoundary, adoptDemands_front, applySafes_front, evalFuncs_front, heartbeats_front,
      judgePaired_front, judgeResets_front, sepBoundary_front, slsCycle_front, ss1Cycle_front, foldOn_front, ite_front]

/-! ### Bring-up, supplies and firmware -/

@[simp] theorem execMainDieResetRelease_keepsFront (twinId dbgEn : Bool) :
    s.KeepsFront (execMainDieResetRelease twinId dbgEn s) := by
  unfold execMainDieResetRelease
  split
  · simp
  · rw [keepsFront_next, setTwin_front, setHost_front, nextFree_front, setSys_front]
    split
    · exact logRec_front _ _ _ _ _
    · rfl

@[simp] theorem execFunctionReady_keepsFront (f : Fin 21) (pass : Bool) : s.KeepsFront (execFunctionReady f pass s) := by
  simp [execFunctionReady, channelStarts_front, sendHello_front, setSafety_front, setSys_front, ite_front]

@[simp] theorem execVddCoreDip_keepsFront : s.KeepsFront (execVddCoreDip s) := by
  simp [execVddCoreDip, nextFree_front, setSys_front]

@[simp] theorem execSupplyCautionEntry_keepsFront : s.KeepsFront (execSupplyCautionEntry s) := by
  unfold execSupplyCautionEntry
  dsimp only
  split <;> simp [setSys_front]

@[simp] theorem execDipEnd_keepsFront (minMv : Nat) : s.KeepsFront (execDipEnd minMv s) := by
  unfold execDipEnd
  dsimp only
  split <;> simp [logRec_front, nextFree_front, setSys_front]

@[simp] theorem execSupplyStop_keepsFront (_ch : Fin 2) : s.KeepsFront (execSupplyStop _ch s) := by
  simp [execSupplyStop, enterBath_front, setSys_front]

@[simp] theorem execVddSlLow_keepsFront (reset : Bool) (ns : Nat) : s.KeepsFront (execVddSlLow reset ns s) := by
  simp [execVddSlLow, channelFault_front, nextFree_front, setSys_front]

@[simp] theorem execVddSlGood_keepsFront : s.KeepsFront (execVddSlGood s) := by
  unfold execVddSlGood
  dsimp only
  repeat' split
  all_goals simp [enterBath_front, nextFree_front, setSys_front]

@[simp] theorem execThermalLimit_keepsFront (e : ThermalEvent) : s.KeepsFront (execThermalLimit e s) := by
  unfold execThermalLimit
  split <;> simp [channelFault_front, logRec_front, notice_front, setSafety_front, setSys_front, ite_front]

@[simp] theorem execFwStage_keepsFront : s.KeepsFront (execFwStage q tag s) := by
  refine keepsFront_startPkt fun _ _ => fragment_front _ _ _ _ _ fun _ u => ?_
  split <;> simp [finish_front, finishOk_front, setSys_front]

@[simp] theorem execFwVerify_keepsFront : s.KeepsFront (execFwVerify q tag s) := by
  refine keepsFront_startPkt fun _ t => ?_
  split <;> simp [finish_front, finishOk_front, setSys_front, ite_front]

@[simp] theorem execFwProgramComplete_keepsFront : s.KeepsFront (execFwProgramComplete s) := by
  unfold execFwProgramComplete
  dsimp only
  repeat' split
  all_goals simp [setSys_front]

@[simp] theorem execFwActivate_keepsFront : s.KeepsFront (execFwActivate q tag s) :=
  keepsFront_startPkt fun _ _ => by simp [finish_front, toGate_front, ite_front]

@[simp] theorem execOtpProgram_keepsFront : s.KeepsFront (execOtpProgram q tag s) := by
  refine keepsFront_startPkt fun _ t => ?_
  repeat' split
  all_goals simp [finish_front, toGate_front]

/-! ### Presence -/

@[simp] theorem execTwinRoleCfg_keepsFront : s.KeepsFront (execTwinRoleCfg q tag s) := by
  refine keepsFront_startPkt fun _ t => ?_
  split <;> simp [finish_front, toGate_front, ite_front]

@[simp] theorem execPresenceDenied_keepsFront (sealBad : Bool) (disagree low : Nat) (seenHigh50 : Bool) :
    s.KeepsFront (execPresenceDenied sealBad disagree low seenHigh50 s) := by
  unfold execPresenceDenied
  split <;> simp [denyGate_front, expireGate_front]

@[simp] theorem execPresenceTimeout_keepsFront : s.KeepsFront (execPresenceTimeout s) := by
  refine keepsFront_onExpiry fun t => ?_
  split <;> simp [denyGate_front, ite_front]

@[simp] theorem execPanelClear_keepsFront : s.KeepsFront (execPanelClear s) := by
  refine keepsFront_onExpiry fun t => ?_
  split <;> simp [showPanel_front, ite_front]

/-! ### Twin -/

@[simp] theorem execPartnerLost_keepsFront : s.KeepsFront (execPartnerLost s) := by
  simp [execPartnerLost, setTwin_front, survive_front]

@[simp] theorem execSafetyFrameLoss_keepsFront : s.KeepsFront (execSafetyFrameLoss s) := by
  simp [execSafetyFrameLoss, pairTo_front]

@[simp] theorem execSelfTestResult_keepsFront (own : Option Bool) : s.KeepsFront (execSelfTestResult own s) := by
  simp [execSelfTestResult, enterBath_front, ownResult_front, pairTo_front, setTwin_front, ite_front]

@[simp] theorem execProofSwapDue_keepsFront : s.KeepsFront (execProofSwapDue s) := by
  unfold execProofSwapDue
  split
  · simp
  · exact keepsFront_onExpiry fun _ => by simp [announceSwap_front, ite_front]

@[simp] theorem execProofSwapNow_keepsFront : s.KeepsFront (execProofSwapNow q tag s) := by
  refine keepsFront_startPkt fun _ t => ?_
  dsimp only
  repeat' split
  all_goals simp [announceSwap_front, finish_front, finishOk_front, setTwin_front]

@[simp] theorem execProofSwap_keepsFront : s.KeepsFront (execProofSwap s) := by
  unfold execProofSwap
  repeat' split
  all_goals simp [finishTag_front, passSync_front, setTwin_front]

/-! ### Packet deadlines -/

/-- The row that judges a late packet is one of the rows above. -/
theorem rowOf_keepsFront (op : Nat) : s.KeepsFront (rowOf op q tag s) := by
  unfold rowOf
  split <;> simp

@[simp] theorem execPacketDeadline_keepsFront : s.KeepsFront (execPacketDeadline q tag s) := by
  unfold execPacketDeadline
  dsimp only
  split
  · simp
  · split
    next p _ =>
      split
      · obtain ⟨t, ht, hk⟩ := rowOf_keepsFront _ q tag p.opcode
        rw [ht]
        simp [hk, entryRun_front, finish_front, setDisp_front, setQueue_front]
      · simp [entryRun_front]
    next => simp [entryRun_front]

/-! ### Every command -/

/-- At the panel a packet is accepted, or the window closes (R60, R61). -/
@[simp] theorem execAcceptNRelease_keepsFront (b : Press) : s.KeepsFront (execAcceptNRelease b s) := by
  unfold execAcceptNRelease
  repeat' split
  all_goals simp [accept_front, closePresence_front, denyGate_front, expireGate_front]

/-- Writes held back by a supply caution are carried out at its end (R412). -/
@[simp] theorem execSupplyCautionEnd_keepsFront : s.KeepsFront (execSupplyCautionEnd s) := by
  simp [execSupplyCautionEnd, commitWrite_front, setSys_front, foldl_front]

@[simp] theorem execBenjoFrame_keepsFront (lane : Fin 2) (bytes : List Byte) :
    s.KeepsFront (execBenjoFrame lane bytes s) := by
  simp [execBenjoFrame, laneError_front, laneUp_front, setTwin_front, takeBenjo_front]

end Rows

/-- Settles O9: eight commands are excepted, and every other one keeps the front image, by the lemma of its row. -/
theorem frontImageFrozen : Obligations.FrontImageFrozen := by
  unfold Obligations.FrontImageFrozen
  intro c s t hexec hc pt
  obtain ⟨u, hu, hfront⟩ : s.KeepsFront (exec c s) := by
    cases c with
    | imageSwap | activation | resyncComplete | benjoLaneDown _ | porstN _ _ | firmwareWatchdog | vddCoreResetLevel
    | replyWrite _ => exact hc.elim
    | tNop t | tMac t | tMpy t | tMac4 t | tMpy4 t | tClra t | tAdda t | tSha t | tLda t | tSth t | tStl t | tStg t | tAdd t
    | tSub t | tAdds t | tSubs t | tAnd t | tOr t | tXor t | tAsh t | tLsh t | tAbs t | tNeg t | tMin t | tMax t | tCls t
    | tCmp t | tSel t | tMov t | tMovi t | tAddi t | tModi t | tBxclr t | tBxupd t | tBr t | tCall t | tRet t | tDbnz t
    | tLoop t | tReti t | tSwi t =>
      exact State.keepsFront_next.2 (s.tileOp_front t _ _)
    | lSpmv p | lAxpy p | lDot p | lSdiv p | lBsolve p | lFactor p | lProj p | lCopy p | lOuter p | lInner p | lEnd p
    | lSync p | lWarm p | lEmit p =>
      exact State.keepsFront_next.2 (s.laneOp_front p _ _)
    | _ => simp [exec]
  cases hu.symm.trans hexec
  exact congrArg (mget uncovered · pt) hfront

end Sys2Proof.Machine
end

section
/-! SUPPORT. A locked key hash stays through every step (R405). -/

namespace Sys2Proof.Machine

/-- The key hash rests on the OTP array alone. -/
theorem State.KeyFrozen.congr {k : Fin 12 → Word} {s t : State} (h : s.KeyFrozen k) (ho : t.sys.otp = s.sys.otp) :
    t.KeyFrozen k := by
  unfold State.KeyFrozen State.otpLocked at h ⊢
  rwa [ho]

/-- Settles O6: an idle step leaves the OTP array, and a command keeps a locked key hash (`exec_goes`). -/
theorem keyHashStaysLocked : Obligations.KeyHashStaysLocked := by
  unfold Obligations.KeyHashStaysLocked
  intro k s t hk hstep
  cases hp : s.pending with
  | nil =>
    cases (step_idle hp).symm.trans hstep
    exact hk.congr s.cycle_otp
  | cons c rest =>
    obtain ⟨u, hu, hlast⟩ := exec_goes c (s.setPending rest)
    cases hu.symm.trans ((stepRunsFront s c rest hp).symm.trans hstep)
    exact hlast.frozen k hk

end Sys2Proof.Machine
end

section
/-! SUPPORT. Torque stays safe whatever command runs (R318, R328, R337). One lemma per command. -/

namespace Sys2Proof.Machine

/-- The outcome is a next state that is torque safe. -/
def Safely (o : Host.Outcome State Fault Refusal) : Prop := ∃ t, o = .next t ∧ t.TorqueSafe

@[simp] theorem safely_next {t : State} : Safely (.next t) ↔ t.TorqueSafe :=
  ⟨fun ⟨_, h, k⟩ => by cases h; exact k, fun h => ⟨t, rfl, h⟩⟩

@[simp] theorem safely_ite {c : Prop} [Decidable c] {o o' : Host.Outcome State Fault Refusal} :
    Safely (if c then o else o') ↔ if c then Safely o else Safely o' := by
  split <;> rfl

theorem safely_if {c : Prop} [Decidable c] {o o' : Host.Outcome State Fault Refusal} (ho : Safely o)
    (ho' : Safely o') : Safely (if c then o else o') := by
  split <;> assumption

theorem ite_torqueSafe {c : Prop} [Decidable c] {s t : State} :
    (if c then s else t).TorqueSafe ↔ if c then s.TorqueSafe else t.TorqueSafe := by
  split <;> rfl

/-- A fold that carries a state beside other data is safe if each of its steps keeps safety. -/
theorem foldl_fst_torqueSafe {α β : Type} (l : List α) (g : State × β → α → State × β) (x : State × β)
    (h : x.1.TorqueSafe) (hg : ∀ x a, x.1.TorqueSafe → (g x a).1.TorqueSafe) : (l.foldl g x).1.TorqueSafe :=
  List.foldlRecOn (motive := fun x : State × β => x.1.TorqueSafe) l g h fun x hx a _ => hg x a hx

/-- Loading configuration words moves no index and lifts none (R331). -/
theorem SafetySt.loadWords_index (f : SafetySt) (ws : List Word) (c : Fin 16) :
    (f.loadWords ws).index[c].state = f.index[c].state ∧ (f.loadWords ws).index[c].lifted = f.index[c].lifted := by
  refine List.foldlRecOn (motive := fun v : Vector IndexSt 16 =>
    v[c].state = f.index[c].state ∧ v[c].lifted = f.index[c].lifted) _ _ ⟨rfl, rfl⟩ fun v hv d _ => ?_
  rw [vmod, Fin.getElem_fin, Vector.getElem_set]
  split
  next e =>
    have e' : f16 d = c := Fin.ext e
    exact e' ▸ hv
  next => exact hv

/-- Safety rests on the states and lifts of the indices and on the enables. -/
theorem torqueSafe_of_index {s t : State} (h : s.TorqueSafe)
    (hi : ∀ c : Fin 16, t.safety.index[c].state = s.safety.index[c].state ∧
      t.safety.index[c].lifted = s.safety.index[c].lifted)
    (h1 : t.safety.en1 = s.safety.en1) (h2 : t.safety.en2 = s.safety.en2) : t.TorqueSafe := by
  intro c
  obtain ⟨hstate, hlifted⟩ := hi c
  unfold State.IndexSafe
  rw [hstate, hlifted, h1, h2]
  exact h c

section Commands
variable {s : State} (h : s.TorqueSafe)
include h

/-- A row that does nothing but where it is due. -/
theorem safely_unless {c : Prop} [Decidable c] {o : Host.Outcome State Fault Refusal} (ho : Safely o) :
    Safely (if c then .next s else o) :=
  safely_if (safely_next.2 h) ho

/-- A packet row keeps the form if its effect does (R35, R41, R43). -/
theorem safely_startPkt (q : Fin 16) (tag : Fin 1024) (op : Nat) {f : Pkt → State → State}
    (hf : ∀ p t, t.TorqueSafe → (f p t).TorqueSafe) : Safely (.next (s.startPkt q tag op f)) :=
  safely_next.2 (s.startPkt_torqueSafe q tag op f h hf)

/-- An expiry row keeps the form if its effect does (R279, R280). -/
theorem safely_onExpiry (f : DelayEntry → Bool) {g : State → State}
    (hg : ∀ t, t.TorqueSafe → (g t).TorqueSafe) : Safely (.next (s.onExpiry f g)) :=
  safely_next.2 (s.onExpiry_torqueSafe f g h hg)

/-! ### Host queues -/

@[simp] theorem execSqDoorbell_torqueSafe (q : Fin 16) (tail : Nat) (mem : List Byte) :
    Safely (execSqDoorbell q tail mem s) := by
  simp [h, execSqDoorbell, State.fetch_torqueSafe, State.setQueue_torqueSafe]

@[simp] theorem execCqDoorbell_torqueSafe (q : Fin 16) (head : Nat) : Safely (execCqDoorbell q head s) := by
  simp [h, execCqDoorbell, State.fetch_torqueSafe, State.setQueue_torqueSafe]

@[simp] theorem execMsixModerationExpiry_torqueSafe (q : Fin 16) : Safely (execMsixModerationExpiry q s) := by
  refine safely_onExpiry h _ fun t ht => ?_
  dsimp only
  split <;> simp [ht, ite_torqueSafe, State.raiseMsix_torqueSafe, State.setQueue_torqueSafe]

@[simp] theorem execUdpDatagram_torqueSafe (port : Fin 2) (src : Endpoint) (dstPort : Nat) (data : List Byte) :
    Safely (execUdpDatagram port src dstPort data s) := by
  have hcounted {c : Prop} [Decidable c] : (if c then s.countErr 23 16 else s).TorqueSafe :=
    torqueSafe_ite (State.countErr_torqueSafe _ _ _ h) h
  simp [h, hcounted, execUdpDatagram, State.countErr_torqueSafe, State.setHost_torqueSafe, State.udpPacket_torqueSafe]

@[simp] theorem execReassemblyTimeout_torqueSafe (q : Fin 16) (seq : Word) : Safely (execReassemblyTimeout q seq s) :=
  safely_onExpiry h _ fun t ht => by simp [ht, State.setHost_torqueSafe]

@[simp] theorem execPartialImageTimeout_torqueSafe (st : Stream) : Safely (execPartialImageTimeout st s) := by
  refine safely_onExpiry h _ fun t ht => ?_
  split <;> simp [ht, ite_torqueSafe, State.dropPart_torqueSafe, State.notice_torqueSafe]

@[simp] theorem execResetQ_torqueSafe (q : Fin 16) : Safely (execResetQ q s) := by
  simp [h, execResetQ, State.startReset_torqueSafe]

@[simp] theorem execPing_torqueSafe (q : Fin 16) (tag : Fin 1024) : Safely (execPing q tag s) :=
  safely_startPkt h _ _ _ fun p t ht => by simp [ht, State.finishOk_torqueSafe]

@[simp] theorem execReadyRead_torqueSafe (q : Fin 16) (tag : Fin 1024) : Safely (execReadyRead q tag s) :=
  safely_startPkt h _ _ _ fun p t ht => by simp [ht, State.finishOk_torqueSafe]

@[simp] theorem execAbort_torqueSafe (q : Fin 16) (tag : Fin 1024) : Safely (execAbort q tag s) := by
  refine safely_startPkt h _ _ _ fun p t ht => ?_
  dsimp only
  split <;> simp [ht, ite_torqueSafe, State.abortTarget_torqueSafe, State.expireGate_torqueSafe, State.finishOk_torqueSafe]

@[simp] theorem execQueueReset_torqueSafe (q : Fin 16) (tag : Fin 1024) : Safely (execQueueReset q tag s) :=
  safely_startPkt h _ _ _ fun p t ht => by simp [ht, ite_torqueSafe, State.finish_torqueSafe, State.startReset_torqueSafe]

@[simp] theorem execLogRead_torqueSafe (q : Fin 16) (tag : Fin 1024) : Safely (execLogRead q tag s) :=
  safely_startPkt h _ _ _ fun p t ht => by simp [ht, ite_torqueSafe, State.finish_torqueSafe, State.finishOk_torqueSafe]

/-! ### Motion -/

@[simp] theorem execBarrierTimeout_torqueSafe (c : Fin 16) : Safely (execBarrierTimeout c s) := by
  refine safely_onExpiry h _ fun t ht => ?_
  split
  · exact ht
  · exact torqueSafe_ite (torqueSafe_foldOn _ _ _ ht fun u m hu => State.barrierOut_torqueSafe _ _ hu) ht

@[simp] theorem execSegPush_torqueSafe (q : Fin 16) (tag : Fin 1024) : Safely (execSegPush q tag s) := by
  unfold execSegPush
  repeat' split
  · simp [h]
  · simp [h]
  · refine safely_startPkt h _ _ _ fun p t ht => ?_
    split
    · exact State.finish_torqueSafe _ _ _ _ ht
    · exact State.finishOk_torqueSafe _ _ _ _ _ (State.setChain_torqueSafe _ _ _ ht)

@[simp] theorem execMotionStop_torqueSafe (q : Fin 16) (tag : Fin 1024) : Safely (execMotionStop q tag s) :=
  safely_startPkt h _ _ _ fun p t ht => by simp [ht, ite_torqueSafe, State.addMotionCmd_torqueSafe,
    State.finish_torqueSafe]

@[simp] theorem execMotionResume_torqueSafe (q : Fin 16) (tag : Fin 1024) : Safely (execMotionResume q tag s) :=
  safely_startPkt h _ _ _ fun p t ht => by simp [ht, ite_torqueSafe, State.addMotionCmd_torqueSafe,
    State.finish_torqueSafe]

@[simp] theorem execSegqStatus_torqueSafe (q : Fin 16) (tag : Fin 1024) : Safely (execSegqStatus q tag s) := by
  refine safely_startPkt h _ _ _ fun p t ht => ?_
  split <;> simp [ht, State.finish_torqueSafe, State.finishOk_torqueSafe]

@[simp] theorem execOverrideSet_torqueSafe (q : Fin 16) (tag : Fin 1024) : Safely (execOverrideSet q tag s) :=
  safely_startPkt h _ _ _ fun p t ht => by simp [ht, ite_torqueSafe, State.addMotionCmd_torqueSafe,
    State.finish_torqueSafe]

@[simp] theorem execMoAuxcmd_torqueSafe (k : Fin 32) (v : Word) : Safely (execMoAuxcmd k v s) := by
  simp [h, execMoAuxcmd, State.setMotion_torqueSafe]

/-! ### Safety inputs and functions -/

@[simp] theorem execSafeInputChange_torqueSafe (i : Fin 16) (lineB level : Bool) (samples : Nat) :
    Safely (execSafeInputChange i lineB level samples s) := by
  simp [h, execSafeInputChange, State.evalFuncs_torqueSafe, State.setSafety_torqueSafe]

@[simp] theorem execEstopChange_torqueSafe (lineB level : Bool) (samples : Nat) :
    Safely (execEstopChange lineB level samples s) := by
  simp [h, execEstopChange, State.enterBath_torqueSafe, State.setSafety_torqueSafe]

@[simp] theorem execDiscrepancyTimeout_torqueSafe (i : Option (Fin 16)) : Safely (execDiscrepancyTimeout i s) := by
  unfold execDiscrepancyTimeout
  dsimp only
  repeat' split
  all_goals simp [h, State.evalFuncs_torqueSafe, State.setSafety_torqueSafe]

@[simp] theorem execTestPulseCheck_torqueSafe (k : Fin 4) (a b : BitVec 16) : Safely (execTestPulseCheck k a b s) :=
  safely_unless h (safely_next.2 (State.evalFuncs_torqueSafe _ (torqueSafe_foldOn _ _ _ h
    fun _ _ hu => State.setSafety_torqueSafe _ _ hu rfl rfl rfl)))

@[simp] theorem execOutputTestPulse_torqueSafe (p : Fin 16) (lineB : Bool) (ch : Fin 2) (highInPulse lowOutside : Bool) :
    Safely (execOutputTestPulse p lineB ch highInPulse lowOutside s) := by
  refine safely_unless h (safely_if ?_ (safely_unless h ?_))
  · exact safely_next.2 (torqueSafe_ite h (State.setSafety_torqueSafe _ _ h rfl rfl rfl))
  · extract_lets _ noted
    have hnoted : noted.TorqueSafe := State.emit_torqueSafe _ _ (State.setSafety_torqueSafe _ _ h rfl rfl rfl)
    exact safely_next.2 (torqueSafe_ite (State.enterBath_torqueSafe _ _ hnoted) hnoted)

@[simp] theorem execSrstNPress_torqueSafe (ch : Fin 2) (samples : Nat) : Safely (execSrstNPress ch samples s) := by
  simp [h, execSrstNPress, State.setSafety_torqueSafe]

@[simp] theorem execSrstNRelease_torqueSafe (ch : Fin 2) (samples : Nat) : Safely (execSrstNRelease ch samples s) := by
  simp [h, execSrstNRelease, State.setSafety_torqueSafe]

@[simp] theorem execResetStuck_torqueSafe : Safely (execResetStuck s) := by
  simp [h, execResetStuck, State.notice_torqueSafe, State.setSafety_torqueSafe]

@[simp] theorem execSrstNOpen_torqueSafe : Safely (execSrstNOpen s) := by
  simp [h, execSrstNOpen, State.setSafety_torqueSafe]

@[simp] theorem execSs1Timeout_torqueSafe (c : Fin 16) : Safely (execSs1Timeout c s) := by
  unfold execSs1Timeout
  dsimp only
  split <;> simp [h, State.toSto_torqueSafe]

@[simp] theorem execBrakeFeedbackMismatch_torqueSafe (p : Fin 16) (released : Bool) (ms : Nat) :
    Safely (execBrakeFeedbackMismatch p released ms s) := by
  simp [h, execBrakeFeedbackMismatch, State.brakeFault_torqueSafe]

@[simp] theorem execBrakeTestDue_torqueSafe (c : Fin 16) : Safely (execBrakeTestDue c s) :=
  safely_onExpiry h _ fun t ht => by simp [ht, ite_torqueSafe, State.setIndex_torqueSafe]

@[simp] theorem execSfBrkreq_torqueSafe (v : BitVec 16) : Safely (execSfBrkreq v s) := by
  simp [h, execSfBrkreq, State.requestBrakeTests_torqueSafe]

@[simp] theorem execBrakeTestStep_torqueSafe (c : Fin 16) (fbClosed : Bool) (disp1 disp2 : Nat) :
    Safely (execBrakeTestStep c fbClosed disp1 disp2 s) := by
  have hfault : (((s.abortTest c).drive c).brakeFault c).TorqueSafe :=
    State.brakeFault_torqueSafe _ _ (State.drive_safe _ _ (State.abortTest_safeBut _ _ h))
  have hend : ((s.setTestTorque c 0).restartLoops c).TorqueSafe :=
    State.restartLoops_torqueSafe _ _ (State.setTestTorque_torqueSafe _ _ _ h)
  unfold execBrakeTestStep
  dsimp only
  split
  · simp [h]
  · simp [h, hfault, hend, State.endBrakeTest_torqueSafe, State.setIndex_torqueSafe, State.setTestTorque_torqueSafe,
      State.toSto_torqueSafe]

@[simp] theorem execBrakeTestOverdue_torqueSafe (c : Fin 16) : Safely (execBrakeTestOverdue c s) := by
  unfold execBrakeTestOverdue
  dsimp only
  split <;> simp [h, State.setIndex_torqueSafe, State.stopIndex_torqueSafe]

@[simp] theorem execChannelInternalFault_torqueSafe (ch : Fin 2) : Safely (execChannelInternalFault ch s) := by
  simp [h, execChannelInternalFault, ite_torqueSafe, State.channelFault_torqueSafe, State.setSafety_torqueSafe]

/-! ### Schedules -/

@[simp] theorem execSchedLoad_torqueSafe (q : Fin 16) (tag : Fin 1024) : Safely (execSchedLoad q tag s) := by
  refine safely_startPkt h _ _ _ fun p t ht => State.fragment_torqueSafe _ _ _ _ _ ht fun b u hu => ?_
  simp [hu, State.storeSched_torqueSafe]

@[simp] theorem execSchedUnload_torqueSafe (q : Fin 16) (tag : Fin 1024) : Safely (execSchedUnload q tag s) := by
  refine safely_startPkt h _ _ _ fun p t ht => ?_
  split <;> simp [ht, ite_torqueSafe, State.finish_torqueSafe, State.finishOk_torqueSafe, State.setSolver_torqueSafe]

/-! ### Signal tiles -/

@[simp] theorem execKernelLoad_torqueSafe (q : Fin 16) (tag : Fin 1024) : Safely (execKernelLoad q tag s) := by
  refine safely_startPkt h _ _ _ fun p t ht => State.fragment_torqueSafe _ _ _ _ _ ht fun b u hu => ?_
  dsimp only
  repeat' split
  all_goals simp [hu, State.finish_torqueSafe, State.finishOk_torqueSafe, State.setKernel_torqueSafe]

@[simp] theorem execKernelUnload_torqueSafe (q : Fin 16) (tag : Fin 1024) : Safely (execKernelUnload q tag s) := by
  refine safely_startPkt h _ _ _ fun p t ht => torqueSafe_ite (State.finish_torqueSafe _ _ _ _ ht) ?_
  dsimp only
  split
  · exact State.finish_torqueSafe _ _ _ _ ht
  · exact State.finishOk_torqueSafe _ _ _ _ _ (State.setKernel_torqueSafe _ _ _ ht)
  · exact State.finish_torqueSafe _ _ _ _ ht

@[simp] theorem execTileStatus_torqueSafe (q : Fin 16) (tag : Fin 1024) : Safely (execTileStatus q tag s) :=
  safely_startPkt h _ _ _ fun p t ht => by simp [ht, ite_torqueSafe, State.finish_torqueSafe, State.finishOk_torqueSafe]

@[simp] theorem execKernelActivation_torqueSafe (t : Fin 16) : Safely (execKernelActivation t s) := by
  have hqueue (x : TileSt) : (s.setTile t x).TorqueSafe := State.setTile_torqueSafe _ _ _ h
  have hcore (n : Nat) (x y : TileSt) : (((s.setTile t x).setFree n).setTile t y).TorqueSafe :=
    State.setTile_torqueSafe _ _ _ (State.setFree_torqueSafe _ _ (hqueue x))
  unfold execKernelActivation
  dsimp only
  repeat' split
  all_goals rw [safely_next]
  · exact h
  · exact h
  · exact State.setKernel_torqueSafe _ _ _ (hqueue _)
  · exact State.setKernel_torqueSafe _ _ _ (hcore _ _ _)
  · exact State.kernelFault_torqueSafe _ _ _ (State.setKernel_torqueSafe _ _ _ (hcore _ _ _))
  · exact hqueue _

@[simp] theorem execKernelOverrun_torqueSafe (t : Fin 16) : Safely (execKernelOverrun t s) := by
  unfold execKernelOverrun
  dsimp only
  split
  · simp [h]
  · exact safely_unless h (safely_next.2 (State.setTile_torqueSafe _ _ _ (State.setKernel_torqueSafe _ _ _
      (State.cutRun_torqueSafe _ _ h))))

@[simp] theorem execInterruptEntry_torqueSafe (t : Fin 16) : Safely (execInterruptEntry t s) := by
  unfold execInterruptEntry
  dsimp only
  split <;> simp [h, State.setTile_torqueSafe]

@[simp] theorem execTEnd_torqueSafe (t : Fin 16) (corrected : Nat) : Safely (execTEnd t corrected s) :=
  safely_next.2 (State.tileRun_torqueSafe _ _ _ _ _ h fun _ _ _ hu =>
    torqueSafe_ite hu (State.tileErrors_torqueSafe _ _ _ (State.commit_torqueSafe _ _ _ hu)))

/-! ### Loop engines -/

@[simp] theorem execArm_torqueSafe (e : Fin 16) : Safely (execArm e s) := by
  simp [h, execArm, State.armTrace_torqueSafe]

@[simp] theorem execLoopCutoffMiss_torqueSafe (e : Fin 16) (slot : Fin 32) : Safely (execLoopCutoffMiss e slot s) := by
  unfold execLoopCutoffMiss
  dsimp only
  repeat' split
  all_goals simp [h, State.advanceHandover_torqueSafe, State.setAxis_torqueSafe, State.setSlot_torqueSafe,
    State.slotMiss_torqueSafe]

@[simp] theorem execLoopEngineFault_torqueSafe (e : Fin 16) (masked : Bool) : Safely (execLoopEngineFault e masked s) := by
  simp [h, execLoopEngineFault, State.engineLost_torqueSafe]

@[simp] theorem execLoopBatch_torqueSafe (node : Nat) : Safely (execLoopBatch node s) := by
  unfold execLoopBatch
  repeat' split
  · simp [h]
  · simp [h]
  · simp [h]
  · simp [h]
  · exact safely_next.2 (State.activateLoops_torqueSafe _ _ _ _ _ (torqueSafe_foldl _ _ _ (State.spans_torqueSafe _ _ h)
      fun _ _ hu => State.axisBatch_torqueSafe _ _ _ _ _ hu))

@[simp] theorem execSetpointEvaluation_torqueSafe (a : Fin 160) : Safely (execSetpointEvaluation a s) := by
  unfold execSetpointEvaluation
  split
  · simp [h]
  · exact safely_unless h (safely_next.2 (State.coeffsWhileFaulted_torqueSafe _ _ _ (State.setFree_torqueSafe _ _
      (State.setAxis_torqueSafe _ _ _ h))))

@[simp] theorem execLoopCoeffSet_torqueSafe (q : Fin 16) (tag : Fin 1024) : Safely (execLoopCoeffSet q tag s) := by
  refine safely_startPkt h _ _ _ fun p t ht => ?_
  dsimp only
  split
  · exact State.finish_torqueSafe _ _ _ _ ht
  · refine torqueSafe_ite (State.finish_torqueSafe _ _ _ _ ht) ?_
    split
    · exact State.finish_torqueSafe _ _ _ _ ht
    · exact torqueSafe_foldl _ _ _ ht fun _ _ hu => State.setSlot_torqueSafe _ _ _ _ hu

@[simp] theorem execLoopHandover_torqueSafe (q : Fin 16) (tag : Fin 1024) : Safely (execLoopHandover q tag s) := by
  refine safely_startPkt h _ _ _ fun p t ht => ?_
  split <;> simp [ht, State.finish_torqueSafe, State.setGroup_torqueSafe]

@[simp] theorem execProbeSet_torqueSafe (q : Fin 16) (tag : Fin 1024) : Safely (execProbeSet q tag s) :=
  safely_startPkt h _ _ _ fun p t ht => by simp [ht, ite_torqueSafe, State.finish_torqueSafe, State.finishOk_torqueSafe,
    State.setEngine_torqueSafe]

@[simp] theorem execLoopStateRead_torqueSafe (q : Fin 16) (tag : Fin 1024) : Safely (execLoopStateRead q tag s) := by
  refine safely_startPkt h _ _ _ fun p t ht => ?_
  repeat' split
  all_goals simp [ht, State.finish_torqueSafe, State.finishOk_torqueSafe]

@[simp] theorem execTraceUpload_torqueSafe (q : Fin 16) (tag : Fin 1024) : Safely (execTraceUpload q tag s) :=
  safely_startPkt h _ _ _ fun p t ht => by simp [ht, ite_torqueSafe, State.finish_torqueSafe, State.finishOk_torqueSafe]

@[simp] theorem execTraceTrigger_torqueSafe (q : Fin 16) (tag : Fin 1024) : Safely (execTraceTrigger q tag s) :=
  safely_startPkt h _ _ _ fun _ _ ht => torqueSafe_ite (State.finish_torqueSafe _ _ _ _ ht)
    (State.finishOk_torqueSafe _ _ _ _ _ (torqueSafe_foldOn _ _ _ ht fun _ _ hu => torqueSafe_ite
      (State.setEngine_torqueSafe _ _ _ hu) hu))

@[simp] theorem execTraceRelease_torqueSafe (q : Fin 16) (tag : Fin 1024) : Safely (execTraceRelease q tag s) :=
  safely_startPkt h _ _ _ fun p t ht => by simp [ht, ite_torqueSafe, State.finish_torqueSafe, State.finishOk_torqueSafe,
    State.setEngine_torqueSafe]

/-! ### Nibble plane -/

@[simp] theorem execRulePass_torqueSafe : Safely (execRulePass s) := by
  simp [h, execRulePass, State.setNibble_torqueSafe]

@[simp] theorem execDeveloperTick_torqueSafe : Safely (execDeveloperTick s) :=
  safely_unless h (safely_next.2 (torqueSafe_foldl _ _ _ (State.setNibble_torqueSafe _ _ h)
    fun _ _ hu => State.release_torqueSafe _ _ hu))

@[simp] theorem execImageSwap_torqueSafe : Safely (execImageSwap s) := by
  have hrows := State.traceRows_torqueSafe s h
  refine safely_unless h (safely_unless hrows ?_)
  refine safely_next.2 (State.activatePoints_torqueSafe _ _ (torqueSafe_foldl _ _ _ ?_
    fun _ _ hu => State.finishTag_torqueSafe _ _ _ _ _ hu))
  refine State.setNibble_torqueSafe _ _ (State.setNibble_torqueSafe _ _ (torqueSafe_foldl _ _ _ (torqueSafe_foldl _ _ _
    (State.setNibble_torqueSafe _ _ ?_) fun _ _ hu => State.swapDelivery_torqueSafe _ _ hu)
    fun _ _ hu => State.swapMiss_torqueSafe _ _ hu))
  split
  · exact State.finishTag_torqueSafe _ _ _ _ _ (State.setNibble_torqueSafe _ _ hrows)
  · exact State.setNibble_torqueSafe _ _ hrows

@[simp] theorem execNpDev_torqueSafe (window : BitVec 8) : Safely (execNpDev window s) := by
  simp [h, execNpDev, State.setWindow_torqueSafe]

@[simp] theorem execEvtSubscribe_torqueSafe (q : Fin 16) (tag : Fin 1024) : Safely (execEvtSubscribe q tag s) := by
  refine safely_startPkt h _ _ _ fun p t ht => ?_
  repeat' split
  all_goals simp [ht, ite_torqueSafe, State.finish_torqueSafe, State.finishOk_torqueSafe, State.setSub_torqueSafe]

@[simp] theorem execEvtArm_torqueSafe (q : Fin 16) (tag : Fin 1024) : Safely (execEvtArm q tag s) := by
  unfold execEvtArm
  repeat' split
  · simp [h]
  · simp [h]
  · exact safely_startPkt h _ _ _ fun p t ht => by
      simp [ht, ite_torqueSafe, State.deliverSub_torqueSafe, State.finish_torqueSafe]

@[simp] theorem execEvtCancel_torqueSafe (q : Fin 16) (tag : Fin 1024) : Safely (execEvtCancel q tag s) :=
  safely_startPkt h _ _ _ fun _ _ ht => torqueSafe_ite (State.finish_torqueSafe _ _ _ _ ht)
    (State.finishOk_torqueSafe _ _ _ _ _ (State.setSub_torqueSafe _ _ _ (torqueSafe_foldl _ _ _ ht
      fun _ _ hu => State.finish_torqueSafe _ _ _ _ hu)))

@[simp] theorem execEvtHoldExpiry_torqueSafe (sub : Fin 16) : Safely (execEvtHoldExpiry sub s) :=
  safely_onExpiry h _ fun t ht => by simp [ht, State.deliverSub_torqueSafe]

@[simp] theorem execPointForce_torqueSafe (q : Fin 16) (tag : Fin 1024) : Safely (execPointForce q tag s) :=
  safely_startPkt h _ _ _ fun p t ht => by simp [ht, State.pointCommand_torqueSafe]

@[simp] theorem execPointWrite_torqueSafe (q : Fin 16) (tag : Fin 1024) : Safely (execPointWrite q tag s) :=
  safely_startPkt h _ _ _ fun p t ht => by simp [ht, State.pointCommand_torqueSafe]

@[simp] theorem execPointRead_torqueSafe (q : Fin 16) (tag : Fin 1024) : Safely (execPointRead q tag s) :=
  safely_startPkt h _ _ _ fun p t ht => by simp [ht, ite_torqueSafe, State.finish_torqueSafe, State.finishOk_torqueSafe]

@[simp] theorem execRuleLoad_torqueSafe (q : Fin 16) (tag : Fin 1024) : Safely (execRuleLoad q tag s) := by
  refine safely_startPkt h _ _ _ fun p t ht => State.fragment_torqueSafe _ _ _ _ _ ht fun b u hu => ?_
  split <;> simp [hu, State.finish_torqueSafe, State.setNibble_torqueSafe]

/-! ### Solver -/

@[simp] theorem execAssembly_torqueSafe : Safely (execAssembly s) := by
  refine safely_unless h (safely_next.2 (State.setSolver_torqueSafe _ _ (foldl_fst_torqueSafe _ _ _ ?_ fun x p hx => ?_)))
  · exact State.setSolver_torqueSafe _ _ (State.lateStage_torqueSafe _ (State.latchDue_torqueSafe _ h))
  · dsimp only
    split
    · exact hx
    · exact State.assembleOne_torqueSafe _ _ _ _ hx

@[simp] theorem execSolveRequest_torqueSafe (p : Fin 4) : Safely (execSolveRequest p s) := by
  unfold execSolveRequest
  refine safely_unless h ?_
  split
  · simp [h]
  · exact safely_if (safely_next.2 (State.notSolved_torqueSafe _ _ _ h)) (safely_next.2
      (State.nextFree_torqueSafe _ (State.noteSolve_torqueSafe _ _ _ (State.setSolve_torqueSafe _ _ _
        (State.requestParts_torqueSafe _ _ h)))))

@[simp] theorem execLHalt_torqueSafe (p : Fin 4) (corrected : Nat) : Safely (execLHalt p corrected s) := by
  unfold execLHalt
  split
  · simp [h]
  · exact safely_next.2 (State.releaseParts_torqueSafe _ _ (State.corrected_torqueSafe _ _ _
      (State.noteSolve_torqueSafe _ _ _ h)))

@[simp] theorem execSolveOverrun_torqueSafe (p : Fin 4) : Safely (execSolveOverrun p s) := by
  simp [h, execSolveOverrun, State.overrun_torqueSafe]

@[simp] theorem execDistribution_torqueSafe : Safely (execDistribution s) :=
  safely_unless h (safely_next.2 (State.auxBanks_torqueSafe _ (torqueSafe_foldOn _ _ _ h fun _ _ hu =>
    State.settle_torqueSafe _ _ (State.overrun_torqueSafe _ _ hu))))

@[simp] theorem execSolverReport_torqueSafe (q : Fin 16) (tag : Fin 1024) : Safely (execSolverReport q tag s) :=
  safely_startPkt h _ _ _ fun p t ht => by simp [ht, ite_torqueSafe, State.finish_torqueSafe, State.finishOk_torqueSafe]

/-! ### Dispatcher -/

@[simp] theorem execDelayTick_torqueSafe : Safely (execDelayTick s) := by
  simp [h, execDelayTick, State.dispatch_torqueSafe, State.setDisp_torqueSafe]

@[simp] theorem execArbitrationRound_torqueSafe (i : Fin 25) (reqs : List (Fin 8)) (release : Bool) :
    Safely (execArbitrationRound i reqs release s) := by
  simp [h, execArbitrationRound, State.setArb_torqueSafe]

@[simp] theorem execAbMemcls_torqueSafe (r : Fin 8) (cls : BitVec 2) : Safely (execAbMemcls r cls s) := by
  simp [h, execAbMemcls, State.setMemcls_torqueSafe]

@[simp] theorem execBackgroundPromotion_torqueSafe (b : Fin 6) (unit : Fin 25) :
    Safely (execBackgroundPromotion b unit s) := by
  simp [h, execBackgroundPromotion, ite_torqueSafe, State.askUnit_torqueSafe, State.notice_torqueSafe,
    State.setDisp_torqueSafe]

@[simp] theorem execBackgroundStep_torqueSafe (b : Fin 6) (unit : Fin 25) (corrected : Nat) :
    Safely (execBackgroundStep b unit corrected s) := by
  simp [h, execBackgroundStep, ite_torqueSafe, State.scrubbed_torqueSafe, State.setDisp_torqueSafe,
    State.stepDone_torqueSafe]

/-! ### Cell time -/

@[simp] theorem execPtpMessage_torqueSafe (port : Fin 2) (m : PtpMsg) : Safely (execPtpMessage port m s) := by
  unfold execPtpMessage
  dsimp only
  repeat' split
  all_goals simp [h, State.ptpOut_torqueSafe, State.setPtpSlot_torqueSafe, State.setTime_torqueSafe,
    State.syncDone_torqueSafe, State.takeAnnounce_torqueSafe]

@[simp] theorem execPtpSlotLoss_torqueSafe (slot : Fin 2) : Safely (execPtpSlotLoss slot s) := by
  simp [h, execPtpSlotLoss, State.setPtpSlot_torqueSafe, State.setTime_torqueSafe, State.tbLost_torqueSafe]

@[simp] theorem execSlotSwitch_torqueSafe : Safely (execSlotSwitch s) := by
  unfold execSlotSwitch
  dsimp only
  repeat' split
  · simp [h]
  · simp [h]
  · exact safely_next.2 (State.notice_torqueSafe _ _ _ _ (State.setTime_torqueSafe _ _ (State.setTime_torqueSafe _ _ h)))
  · exact safely_next.2 (State.tbLost_torqueSafe _ (State.setTime_torqueSafe _ _ h))
  · exact safely_next.2 (State.setTime_torqueSafe _ _ h)

@[simp] theorem execSlot0Return_torqueSafe : Safely (execSlot0Return s) := by
  simp [h, execSlot0Return, State.setTime_torqueSafe]

@[simp] theorem execSyncInEdge_torqueSafe (falling : Bool) : Safely (execSyncInEdge falling s) := by
  have hcapture (x : TimeSt) : (s.setTime x).TorqueSafe := State.setTime_torqueSafe _ _ h
  have henter {c : Prop} [Decidable c] (x y : TimeSt) (d : Int) :
      ((State.setTime (if c then (s.setTime x).tbEnter .acquire else s.setTime x) y).measure d).TorqueSafe :=
    State.measure_torqueSafe _ _ (State.setTime_torqueSafe _ _ (torqueSafe_ite (State.tbEnter_torqueSafe _ _
      (hcapture x)) (hcapture x)))
  simp [h, hcapture, henter, execSyncInEdge, State.setTime_torqueSafe]

@[simp] theorem execPpsLoss_torqueSafe : Safely (execPpsLoss s) := by
  unfold execPpsLoss
  split <;> simp [h, State.setTime_torqueSafe, State.tbLost_torqueSafe]

@[simp] theorem execSyncOutEdge_torqueSafe : Safely (execSyncOutEdge s) := by
  simp [h, execSyncOutEdge, State.setTime_torqueSafe]

@[simp] theorem execTbCtrlSource_torqueSafe (src : BitVec 2) : Safely (execTbCtrlSource src s) := by
  simp [h, execTbCtrlSource, State.setSource_torqueSafe]

@[simp] theorem execTbDomain_torqueSafe (slot : Fin 2) (v : Word) : Safely (execTbDomain slot v s) := by
  simp [h, execTbDomain, State.setDomain_torqueSafe]

@[simp] theorem execTimeRead_torqueSafe (q : Fin 16) (tag : Fin 1024) : Safely (execTimeRead q tag s) :=
  safely_startPkt h _ _ _ fun p t ht => by simp [ht, State.finishOk_torqueSafe]

@[simp] theorem execTimeSet_torqueSafe (q : Fin 16) (tag : Fin 1024) : Safely (execTimeSet q tag s) := by
  refine safely_startPkt h _ _ _ fun p t ht => ?_
  split
  · exact State.finish_torqueSafe _ _ _ _ ht
  · exact State.finishOk_torqueSafe _ _ _ _ _ (State.setTime_torqueSafe _ _ (State.tbEnter_torqueSafe _ _ ht))

@[simp] theorem execPtpSelect_torqueSafe (q : Fin 16) (tag : Fin 1024) : Safely (execPtpSelect q tag s) :=
  safely_startPkt h _ _ _ fun p t ht => by simp [ht, ite_torqueSafe, State.finish_torqueSafe, State.finishOk_torqueSafe,
    State.setSelect_torqueSafe]

@[simp] theorem execSyncOutCfg_torqueSafe (q : Fin 16) (tag : Fin 1024) : Safely (execSyncOutCfg q tag s) := by
  refine safely_startPkt h _ _ _ fun p t ht => ?_
  split
  · exact State.finish_torqueSafe _ _ _ _ ht
  · exact State.finishOk_torqueSafe _ _ _ _ _ (State.syncOutLow_torqueSafe _ (State.setTime_torqueSafe _ _ ht))

@[simp] theorem execSyncInRead_torqueSafe (q : Fin 16) (tag : Fin 1024) : Safely (execSyncInRead q tag s) :=
  safely_startPkt h _ _ _ fun p t ht => by simp [ht, State.finishOk_torqueSafe]

/-! ### Ocnel ring -/

@[simp] theorem execRingWindowExpiry_torqueSafe (r : Fin 4) : Safely (execRingWindowExpiry r s) := by
  unfold execRingWindowExpiry
  dsimp only
  split <;> simp [h, State.enterCold_torqueSafe, State.enterRanging_torqueSafe, State.setRing_torqueSafe]

@[simp] theorem execColdstart_torqueSafe (r : Fin 4) (laneB fcsOk : Bool) (frame : List Byte) :
    Safely (execColdstart r laneB fcsOk frame s) := by
  unfold execColdstart
  dsimp only
  split <;> simp [h, ite_torqueSafe, State.ringError_torqueSafe, State.ringForward_torqueSafe, State.takeCold_torqueSafe]

@[simp] theorem execRangeRsp_torqueSafe (r : Fin 4) (laneB : Bool) (frac : Fin 20) (fcsOk : Bool) (frame : List Byte) :
    Safely (execRangeRsp r laneB frac fcsOk frame s) := by
  unfold execRangeRsp
  dsimp only
  split <;> simp [h, ite_torqueSafe, State.ringError_torqueSafe, State.ringForward_torqueSafe,
    State.takeRangeRsp_torqueSafe]

@[simp] theorem execRangePollTimeout_torqueSafe (r : Fin 4) : Safely (execRangePollTimeout r s) := by
  simp [h, execRangePollTimeout, ite_torqueSafe, State.nextPoll_torqueSafe, State.putHop_torqueSafe,
    State.sendPoll_torqueSafe]

@[simp] theorem execRingActivateBoundary_torqueSafe (r : Fin 4) : Safely (execRingActivateBoundary r s) := by
  unfold execRingActivateBoundary
  dsimp only
  split <;> simp [h, State.notice_torqueSafe, State.setRing_torqueSafe]

@[simp] theorem execNodeFrame_torqueSafe (r : Fin 4) (laneB : Bool) (frac : Fin 20) (fcsOk : Bool) (frame : List Byte) :
    Safely (execNodeFrame r laneB frac fcsOk frame s) := by
  unfold execNodeFrame
  dsimp only
  split <;> simp [h, ite_torqueSafe, State.deviceFrame_torqueSafe, State.ownFrame_torqueSafe, State.ringError_torqueSafe,
    State.ringForward_torqueSafe, State.takeNodeFrame_torqueSafe, State.takeRangeRsp_torqueSafe]

@[simp] theorem execSlotLostDeadline_torqueSafe (r : Fin 4) (hop : Nat) : Safely (execSlotLostDeadline r hop s) := by
  unfold execSlotLostDeadline
  dsimp only
  repeat' split
  all_goals simp [h, State.newCycle_torqueSafe, State.settleCycle_torqueSafe]

@[simp] theorem execDeviceOutputFrame_torqueSafe (r : Fin 4) : Safely (execDeviceOutputFrame r s) := by
  have hsent (x : RingSt) (f : HdrFields) (b : List Byte) :
      ((((s.checkReturn r).setRing r x).sendCopies r f b).endCmds r).TorqueSafe :=
    State.endCmds_torqueSafe _ _ (State.sendCopies_torqueSafe _ _ _ _ (State.setRing_torqueSafe _ _ _
      (State.checkReturn_torqueSafe _ _ h)))
  exact safely_unless h (safely_next.2 (torqueSafe_ite (State.sendDigest_torqueSafe _ _ (State.setTwin_torqueSafe _ _
    (State.sendSummary_torqueSafe _ _ _ (hsent _ _ _)))) (hsent _ _ _)))

@[simp] theorem execRangingRound_torqueSafe (r : Fin 4) : Safely (execRangingRound r s) :=
  safely_unless h (safely_next.2 (State.setRing_torqueSafe _ _ _ (torqueSafe_foldl _ _ _ h fun _ _ hu =>
    torqueSafe_ite (State.setRing_torqueSafe _ _ _ hu) (State.putHop_torqueSafe _ _ _ _ hu))))

@[simp] theorem execRingStatus_torqueSafe (q : Fin 16) (tag : Fin 1024) : Safely (execRingStatus q tag s) :=
  safely_startPkt h _ _ _ fun p t ht => by simp [ht, ite_torqueSafe, State.finish_torqueSafe, State.finishOk_torqueSafe]

@[simp] theorem execRingRerange_torqueSafe (q : Fin 16) (tag : Fin 1024) : Safely (execRingRerange q tag s) :=
  safely_startPkt h _ _ _ fun _ _ ht => torqueSafe_ite (State.finish_torqueSafe _ _ _ _ ht)
    (torqueSafe_ite (State.finish_torqueSafe _ _ _ _ ht) (State.finishOk_torqueSafe _ _ _ _ _
      (torqueSafe_foldl _ _ _ ht fun _ _ hu => State.setRing_torqueSafe _ _ _ hu)))

@[simp] theorem execNodeReadmit_torqueSafe (q : Fin 16) (tag : Fin 1024) : Safely (execNodeReadmit q tag s) := by
  refine safely_startPkt h _ _ _ fun p t ht => ?_
  split <;> simp [ht, ite_torqueSafe, State.finish_torqueSafe, State.sendMgmt_torqueSafe, State.setRing_torqueSafe]

/-! ### Separation monitoring -/

@[simp] theorem execSafetyFrame_torqueSafe (node : Nat) (arrival : Nat) (bytes : List Byte) :
    Safely (execSafetyFrame node arrival bytes s) := by
  have hlink (x : SepSt) : (s.setSep x).TorqueSafe := State.setSep_torqueSafe _ _ h
  have htaken (x y : SepSt) : ((s.setSep x).setSep y).TorqueSafe := State.setSep_torqueSafe _ _ (hlink x)
  unfold execSafetyFrame
  dsimp only
  repeat' split
  all_goals simp [h, hlink, htaken, State.frameFails_torqueSafe]

@[simp] theorem execSeparationIntake_torqueSafe : Safely (execSeparationIntake s) :=
  safely_unless h (safely_next.2 (torqueSafe_foldOn _ _ _ (State.checkSources_torqueSafe _
    (State.checkLinks_torqueSafe _ h)) fun _ _ hu => State.setSep_torqueSafe _ _ hu))

/-! ### Cells -/

@[simp] theorem execCellLoad_torqueSafe (q : Fin 16) (tag : Fin 1024) : Safely (execCellLoad q tag s) := by
  refine safely_startPkt h _ _ _ fun p t ht => State.fragment_torqueSafe _ _ _ _ _ ht fun b u hu => ?_
  simp [hu, State.takeCell_torqueSafe]

@[simp] theorem execCellAmend_torqueSafe (q : Fin 16) (tag : Fin 1024) : Safely (execCellAmend q tag s) := by
  refine safely_startPkt h _ _ _ fun p t ht => State.fragment_torqueSafe _ _ _ _ _ ht fun b u hu => ?_
  simp [hu, State.takeCell_torqueSafe]

@[simp] theorem execCellCheck_torqueSafe (q : Fin 16) (tag : Fin 1024) : Safely (execCellCheck q tag s) := by
  refine safely_startPkt h _ _ _ fun p t ht => State.fragment_torqueSafe _ _ _ _ _ ht fun b u hu => ?_
  simp [hu, State.takeCell_torqueSafe]

@[simp] theorem execSchedSwap_torqueSafe (q : Fin 16) (tag : Fin 1024) : Safely (execSchedSwap q tag s) := by
  refine safely_startPkt h _ _ _ fun p t ht => ?_
  split <;> simp [ht, ite_torqueSafe, State.finish_torqueSafe, State.finishOk_torqueSafe, State.setCell_torqueSafe,
    State.setSolver_torqueSafe]

@[simp] theorem execKernelBind_torqueSafe (q : Fin 16) (tag : Fin 1024) : Safely (execKernelBind q tag s) := by
  refine safely_startPkt h _ _ _ fun p t ht => ?_
  dsimp only
  split <;> simp [ht, ite_torqueSafe, State.finish_torqueSafe, State.setCell_torqueSafe]

@[simp] theorem execPlaceRead_torqueSafe (q : Fin 16) (tag : Fin 1024) : Safely (execPlaceRead q tag s) :=
  safely_startPkt h _ _ _ fun p t ht => by simp [ht, ite_torqueSafe, State.finish_torqueSafe, State.finishOk_torqueSafe]

@[simp] theorem execPlacementComplete_torqueSafe : Safely (execPlacementComplete s) := by
  unfold execPlacementComplete
  repeat' split
  all_goals simp [h, State.placeJob_torqueSafe, State.placeRegrade_torqueSafe]

@[simp] theorem execStagingComplete_torqueSafe (p : Fin 4) (eccOk : Bool) : Safely (execStagingComplete p eccOk s) := by
  unfold execStagingComplete
  dsimp only
  split <;> simp [h, State.setCell_torqueSafe, State.setProb_torqueSafe, State.withdraw_torqueSafe]

@[simp] theorem execStagingDeadline_torqueSafe : Safely (execStagingDeadline s) := by
  unfold execStagingDeadline
  repeat' split
  all_goals simp [h, State.withdraw_torqueSafe]

@[simp] theorem execActivation_torqueSafe : Safely (execActivation s) := by
  refine safely_unless h ?_
  extract_lets u
  have hu : u.TorqueSafe := by
    unfold u
    split
    · exact torqueSafe_ite (State.activateRegrade_torqueSafe _ _ h) h
    · exact h
  clear_value u
  dsimp only
  repeat' split
  · exact safely_next.2 hu
  · exact safely_next.2 (State.leavePair_torqueSafe _ (State.endJob_torqueSafe _ _ _ hu))
  · exact safely_next.2 (State.endJob_torqueSafe _ _ _ hu)
  · exact safely_next.2 (State.finishTag_torqueSafe _ _ _ _ _ (State.showPlaced_torqueSafe _ (State.setCell_torqueSafe _ _
      (State.putInForce_torqueSafe _ _ hu))))
  · exact safely_next.2 hu

@[simp] theorem execPartitionFault_torqueSafe (p : Fin 8) : Safely (execPartitionFault p s) := by
  have hstopped (c : Nat → State → Bool) :
      (foldOn (List.range 4) s fun u i => if c i u then u.notSolved (f4 i) 1 else u).TorqueSafe :=
    torqueSafe_foldOn _ _ _ h fun _ _ hu => torqueSafe_ite (State.notSolved_torqueSafe _ _ _ hu) hu
  exact safely_unless (hstopped _) (safely_next.2 (State.maskChanged_torqueSafe _ (State.latchUnit_torqueSafe _ _ _
    (State.setCell_torqueSafe _ _ (hstopped _)))))

@[simp] theorem execTileFault_torqueSafe (t : Fin 16) (selfTest : Bool) : Safely (execTileFault t selfTest s) := by
  have hended (x : TileSt) (ks : List Nat) : (ks.foldl (fun s k =>
      s.setKernel (f64 k) { s.tiles.kernels[f64 k] with valid := false, waiting := none })
        ((s.cutRun t).setTile t x)).TorqueSafe :=
    torqueSafe_foldl _ _ _ (State.setTile_torqueSafe _ _ _ (State.cutRun_torqueSafe _ _ h)) fun _ _ hu =>
      State.setKernel_torqueSafe _ _ _ hu
  exact safely_unless h (safely_unless (hended _ _) (safely_next.2 (State.maskChanged_torqueSafe _
    (State.latchUnit_torqueSafe _ _ _ (State.setCell_torqueSafe _ _ (hended _ _))))))

/-! ### CAN -/

@[simp] theorem execCanFrameReceived_torqueSafe (n : Fin 4) (f : CanFrame) (sof : DWord) :
    Safely (execCanFrameReceived n f sof s) :=
  safely_unless h (safely_next.2 (State.canShare_torqueSafe _ _ _ _ _ (State.canConfine_torqueSafe _ _
    (State.canStore_torqueSafe _ _ _ _ (State.nextFree_torqueSafe _ (State.setCanN_torqueSafe _ _ _ h))))))

@[simp] theorem execBufferLockRead_torqueSafe (n : Fin 4) (b : Fin 64) : Safely (execBufferLockRead n b s) := by
  simp [h, execBufferLockRead, State.canLock_torqueSafe]

@[simp] theorem execBufferReleaseRead_torqueSafe (n : Fin 4) (b : Fin 64) : Safely (execBufferReleaseRead n b s) := by
  simp [h, execBufferReleaseRead, State.canRelease_torqueSafe]

@[simp] theorem execCanLockTimeout_torqueSafe (n : Fin 4) (b : Fin 64) : Safely (execCanLockTimeout n b s) := by
  unfold execCanLockTimeout
  split <;> simp [h, State.canRelease_torqueSafe, State.setCanN_torqueSafe]

@[simp] theorem execCanRxRead_torqueSafe (q : Fin 16) (tag : Fin 1024) : Safely (execCanRxRead q tag s) := by
  refine safely_startPkt h _ _ _ fun p t ht => ?_
  dsimp only
  repeat' split
  all_goals simp [ht, State.canBuf_torqueSafe, State.finish_torqueSafe, State.finishOk_torqueSafe]

@[simp] theorem execCanTx_torqueSafe (q : Fin 16) (tag : Fin 1024) : Safely (execCanTx q tag s) := by
  refine safely_startPkt h _ _ _ fun p t ht => ?_
  repeat' split
  all_goals simp [ht, ite_torqueSafe, State.canBuf_torqueSafe, State.finish_torqueSafe]

@[simp] theorem execCanSofOpportunity_torqueSafe (n : Fin 4) : Safely (execCanSofOpportunity n s) := by
  unfold execCanSofOpportunity
  refine safely_unless h ?_
  split
  · simp [h]
  · exact safely_next.2 (State.emit_torqueSafe _ _ (State.nextFree_torqueSafe _ (State.setCanN_torqueSafe _ _ _ h)))

@[simp] theorem execCanArbitrationEnd_torqueSafe (n : Fin 4) (won : Bool) : Safely (execCanArbitrationEnd n won s) := by
  unfold execCanArbitrationEnd
  dsimp only
  split <;> simp [h, State.leaveBus_torqueSafe, State.setCanN_torqueSafe]

@[simp] theorem execCanFrameComplete_torqueSafe (n : Fin 4) : Safely (execCanFrameComplete n s) := by
  unfold execCanFrameComplete
  dsimp only
  split
  · simp [h]
  · exact safely_unless h (safely_next.2 (State.canConfine_torqueSafe _ _ (State.endTx_torqueSafe _ _ _ _ _
      (State.canShare_torqueSafe _ _ _ _ _ (State.setCanN_torqueSafe _ _ _ h)))))

@[simp] theorem execCanCancel_torqueSafe (q : Fin 16) (tag : Fin 1024) : Safely (execCanCancel q tag s) :=
  safely_startPkt h _ _ _ fun p t ht => by simp [ht, ite_torqueSafe, State.canBuf_torqueSafe, State.canShare_torqueSafe,
    State.endTx_torqueSafe, State.finish_torqueSafe]

@[simp] theorem execCanCfg_torqueSafe (q : Fin 16) (tag : Fin 1024) : Safely (execCanCfg q tag s) := by
  refine safely_startPkt h _ _ _ fun p t ht => torqueSafe_ite (State.finish_torqueSafe _ _ _ _ ht) ?_
  split
  · exact State.finish_torqueSafe _ _ _ _ ht
  · exact torqueSafe_ite (State.finish_torqueSafe _ _ _ _ ht) (State.finishOk_torqueSafe _ _ _ _ _
      (State.canEnter_torqueSafe _ _ _ (State.setCanN_torqueSafe _ _ _ ht)))

@[simp] theorem execCanBusIntegration_torqueSafe (n : Fin 4) : Safely (execCanBusIntegration n s) := by
  simp [h, execCanBusIntegration, State.setCanN_torqueSafe]

@[simp] theorem execCanBusError_torqueSafe (n : Fin 4) (e : CanError) (lec : Fin 7) :
    Safely (execCanBusError n e lec s) := by
  have hcounted (x : CanSt) : (((s.setCanN n x).canConfine n).canShare n 0 0 []).TorqueSafe :=
    State.canShare_torqueSafe _ _ _ _ _ (State.canConfine_torqueSafe _ _ (State.setCanN_torqueSafe _ _ _ h))
  refine safely_unless h ?_
  dsimp only
  split
  · exact safely_next.2 (State.canShare_torqueSafe _ _ _ _ _ (State.canConfine_torqueSafe _ _
      (State.leaveBus_torqueSafe _ _ _ (State.setCanN_torqueSafe _ _ _ h))))
  · exact safely_next.2 (hcounted _)
  · exact safely_next.2 (hcounted _)
  · simp [h]

@[simp] theorem execRecover_torqueSafe (n : Fin 4) : Safely (execRecover n s) := by
  simp [h, execRecover, State.setCanN_torqueSafe]

@[simp] theorem execCanRecoveryComplete_torqueSafe (n : Fin 4) : Safely (execCanRecoveryComplete n s) := by
  simp [h, execCanRecoveryComplete, State.canEnter_torqueSafe, State.setCanN_torqueSafe]

/-! ### Reference stage -/

@[simp] theorem execReferenceStage_torqueSafe : Safely (execReferenceStage s) := by
  refine safely_unless h (safely_next.2 (State.readmitNodes_torqueSafe _ ?_))
  refine torqueSafe_foldOn _ _ _ (torqueSafe_foldl _ _ _ ?_ fun _ _ hu => State.completeCmd_torqueSafe _ _ hu)
    fun _ _ hu => State.startBrakeTest_torqueSafe _ _ hu
  refine State.newReferences_torqueSafe _ (torqueSafe_foldOn _ _ _ (torqueSafe_foldl _ _ _
    (State.releaseAll_torqueSafe _ ?_)
    fun _ _ hu => State.replan_torqueSafe _ _ _ hu) fun _ _ hu => State.setForces_torqueSafe _ _ hu)
  refine torqueSafe_foldOn _ _ _ (torqueSafe_foldOn _ _ _ (State.setMotion_torqueSafe _ _ ?_) fun _ _ hu =>
    State.applyCmds_torqueSafe _ _ _ hu) fun _ _ hu => State.stageOne_torqueSafe _ _ hu
  exact State.enterBracket_torqueSafe _ (State.takeOver_torqueSafe _ (State.latchDue_torqueSafe _ h))

/-! ### Parameter pages -/

@[simp] theorem execParamRead_torqueSafe (q : Fin 16) (tag : Fin 1024) : Safely (execParamRead q tag s) := by
  refine safely_startPkt h _ _ _ fun p t ht => ?_
  split <;> simp [ht, State.finish_torqueSafe, State.finishOk_torqueSafe, State.readSides_torqueSafe]

@[simp] theorem execParamWrite_torqueSafe (q : Fin 16) (tag : Fin 1024) : Safely (execParamWrite q tag s) := by
  refine safely_startPkt h _ _ _ fun p t ht => ?_
  dsimp only
  repeat' split
  all_goals simp [ht, State.finish_torqueSafe, State.writeResets_torqueSafe, State.writeWords_torqueSafe]

@[simp] theorem execBar0MirrorWrite_torqueSafe (w : Fin 256) (v : Word) : Safely (execBar0MirrorWrite w v s) := by
  unfold execBar0MirrorWrite
  repeat' split
  all_goals simp [h, State.writeResets_torqueSafe, State.writeWords_torqueSafe]

@[simp] theorem execSysBcfg_torqueSafe (w : Fin 32) (v : Word) : Safely (execSysBcfg w v s) := by
  simp [h, execSysBcfg, State.writeWords_torqueSafe]

@[simp] theorem execDebugSpiTransaction_torqueSafe (req : List Byte) (keysOn100ms : Bool) :
    Safely (execDebugSpiTransaction req keysOn100ms s) := by
  unfold execDebugSpiTransaction
  refine safely_unless h ?_
  split
  · simp [h, State.emit_torqueSafe]
  · exact safely_if (safely_next.2 (State.emit_torqueSafe _ _ (State.readSides_torqueSafe _ _ _ _ h)))
      (safely_next.2 (State.emit_torqueSafe _ _ (State.writeResets_torqueSafe _ _ _ _
        (State.writeWords_torqueSafe _ _ _ h))))

/-! ### Safety cycle -/

@[simp] theorem execSafetyConfigLoad_torqueSafe : Safely (execSafetyConfigLoad s) := by
  have hloaded (ws : List Word) (v : Bool) (crc : Word) :
      (s.setSafety { (s.safety.loadWords ws).refreshInputs with cfgValid := v, cfgCrc := crc }).TorqueSafe :=
    torqueSafe_of_index h (s.safety.loadWords_index ws) rfl rfl
  refine safely_unless h ?_
  split
  · exact safely_next.2 (torqueSafe_ite (State.enterBath_torqueSafe _ _ (hloaded _ _ _)) (hloaded _ _ _))
  · exact safely_next.2 (State.enterBath_torqueSafe _ _ (State.setSafety_torqueSafe _ _ h rfl rfl rfl))

@[simp] theorem execSafeParamSet_torqueSafe (q : Fin 16) (tag : Fin 1024) : Safely (execSafeParamSet q tag s) := by
  refine safely_startPkt h _ _ _ fun p t ht => ?_
  dsimp only
  repeat' split
  all_goals simp [ht, State.finish_torqueSafe, State.toGate_torqueSafe]

@[simp] theorem execSafePointAssign_torqueSafe (q : Fin 16) (tag : Fin 1024) : Safely (execSafePointAssign q tag s) := by
  refine safely_startPkt h _ _ _ fun p t ht => ?_
  dsimp only
  repeat' split
  all_goals simp [ht, State.finish_torqueSafe, State.toGate_torqueSafe]

@[simp] theorem execSafetyCycleBoundary_torqueSafe (hb1 hb2 digestsEqual : Bool) :
    Safely (execSafetyCycleBoundary hb1 hb2 digestsEqual s) := by
  refine safely_unless h (safely_next.2 ?_)
  have hbound (a b : Bool) : (s.applySafes.sepBoundary a b).TorqueSafe :=
    State.sepBoundary_torqueSafe _ _ _ (State.applySafes_torqueSafe _ h)
  have hcycle (c : Bool) (a b : Bool) : (foldOn (List.range 16)
      (if c then (s.applySafes.sepBoundary a b).heartbeats hb1 hb2 digestsEqual
        else s.applySafes.sepBoundary a b).evalFuncs fun u c => (u.ss1Cycle (f16 c)).slsCycle (f16 c)).TorqueSafe :=
    torqueSafe_foldOn _ _ _ (State.evalFuncs_torqueSafe _ (torqueSafe_ite (State.heartbeats_torqueSafe _ _ _ _
      (hbound a b)) (hbound a b))) fun _ _ hu => State.slsCycle_torqueSafe _ _ (State.ss1Cycle_torqueSafe _ _ hu)
  exact torqueSafe_ite (State.judgePaired_torqueSafe _ (State.adoptDemands_torqueSafe _ _
    (State.adoptDemands_torqueSafe _ _ (hcycle _ _ _)))) (State.judgeResets_torqueSafe _ (hcycle _ _ _))

/-! ### Bring-up, supplies and firmware -/

@[simp] theorem execPorstN_torqueSafe (low : Bool) (ns : Nat) : Safely (execPorstN low ns s) := by
  simp [h, execPorstN, State.holdReset_torqueSafe, State.setSys_torqueSafe]

@[simp] theorem execFirmwareWatchdog_torqueSafe : Safely (execFirmwareWatchdog s) := by
  simp [h, execFirmwareWatchdog, State.holdReset_torqueSafe, State.setSys_torqueSafe]

@[simp] theorem execMainDieResetRelease_torqueSafe (twinId dbgEn : Bool) :
    Safely (execMainDieResetRelease twinId dbgEn s) := by
  refine safely_unless h (safely_next.2 (State.setTwin_torqueSafe _ _ (State.setHost_torqueSafe _ _
    (State.nextFree_torqueSafe _ (State.setSys_torqueSafe _ _ ?_)))))
  split
  · exact State.logRec_torqueSafe _ _ _ _ _ h
  · exact h

@[simp] theorem execFunctionReady_torqueSafe (f : Fin 21) (pass : Bool) : Safely (execFunctionReady f pass s) := by
  have hready {c : Prop} [Decidable c] (y : SysSt) : (if c then s else s.setSys y).TorqueSafe :=
    torqueSafe_ite h (State.setSys_torqueSafe _ _ h)
  have hstarts {t : State} (ht : t.TorqueSafe) (x : SafetySt) (hi : x.index = t.safety.index) (h1 : x.en1 = t.safety.en1)
      (h2 : x.en2 = t.safety.en2) (ch : Fin 2) : ((t.setSafety x).channelStarts ch).TorqueSafe :=
    State.channelStarts_torqueSafe _ _ (State.setSafety_torqueSafe _ _ ht hi h1 h2)
  have htold {t : State} (ht : t.TorqueSafe) : (if f.val = rdTwin then t.sendHello t.cell.nextDigest else t).TorqueSafe :=
    torqueSafe_ite (State.sendHello_torqueSafe _ _ _ ht) ht
  exact safely_unless h (safely_if (safely_next.2 (State.setSys_torqueSafe _ _ h)) (safely_next.2
    (htold (torqueSafe_ite (hstarts (hready _) _ rfl rfl rfl 1) (torqueSafe_ite (hstarts (hready _) _ rfl rfl rfl 0)
      (hready _))))))

@[simp] theorem execVddCoreDip_torqueSafe : Safely (execVddCoreDip s) := by
  simp [h, execVddCoreDip, State.nextFree_torqueSafe, State.setSys_torqueSafe]

@[simp] theorem execSupplyCautionEntry_torqueSafe : Safely (execSupplyCautionEntry s) := by
  unfold execSupplyCautionEntry
  dsimp only
  split <;> simp [h, State.setSys_torqueSafe]

@[simp] theorem execDipEnd_torqueSafe (minMv : Nat) : Safely (execDipEnd minMv s) := by
  have hsys (y : SysSt) : (s.setSys y).nextFree.TorqueSafe := State.nextFree_torqueSafe _ (State.setSys_torqueSafe _ _ h)
  unfold execDipEnd
  dsimp only
  split
  · simp [h]
  · simp [hsys, State.logRec_torqueSafe]

@[simp] theorem execSupplyStop_torqueSafe (_ch : Fin 2) : Safely (execSupplyStop _ch s) := by
  simp [h, execSupplyStop, State.enterBath_torqueSafe, State.setSys_torqueSafe]

@[simp] theorem execVddCoreResetLevel_torqueSafe : Safely (execVddCoreResetLevel s) := by
  simp [h, execVddCoreResetLevel, State.holdReset_torqueSafe, State.setSys_torqueSafe]

@[simp] theorem execVddSlLow_torqueSafe (reset : Bool) (ns : Nat) : Safely (execVddSlLow reset ns s) := by
  have hfault (y : SysSt) : ((s.setSys y).nextFree.channelFault 1).TorqueSafe :=
    State.channelFault_torqueSafe _ _ (State.nextFree_torqueSafe _ (State.setSys_torqueSafe _ _ h))
  simp [h, hfault, execVddSlLow]

@[simp] theorem execVddSlGood_torqueSafe : Safely (execVddSlGood s) := by
  have hsys (y : SysSt) : (s.setSys y).nextFree.TorqueSafe := State.nextFree_torqueSafe _ (State.setSys_torqueSafe _ _ h)
  exact safely_if (safely_next.2 (hsys _)) (safely_next.2 (torqueSafe_ite (hsys _)
    (State.enterBath_torqueSafe _ _ (hsys _))))

@[simp] theorem execThermalLimit_torqueSafe (e : ThermalEvent) : Safely (execThermalLimit e s) := by
  have hsys (y : SysSt) : (s.setSys y).TorqueSafe := State.setSys_torqueSafe _ _ h
  unfold execThermalLimit
  split
  · simp [h, hsys, State.logRec_torqueSafe, State.notice_torqueSafe]
  · simp [h, hsys, State.channelFault_torqueSafe]
  · exact safely_if (safely_next.2 (torqueSafe_ite (State.setSafety_torqueSafe _ _ (hsys _) rfl rfl rfl) (hsys _)))
      (safely_next.2 h)
  · simp [h, State.channelFault_torqueSafe]

@[simp] theorem execFwStage_torqueSafe (q : Fin 16) (tag : Fin 1024) : Safely (execFwStage q tag s) := by
  refine safely_startPkt h _ _ _ fun p t ht => State.fragment_torqueSafe _ _ _ _ _ ht fun b u hu => ?_
  split <;> simp [hu, State.finish_torqueSafe, State.finishOk_torqueSafe, State.setSys_torqueSafe]

@[simp] theorem execFwVerify_torqueSafe (q : Fin 16) (tag : Fin 1024) : Safely (execFwVerify q tag s) := by
  refine safely_startPkt h _ _ _ fun p t ht => ?_
  split <;> simp [ht, ite_torqueSafe, State.finish_torqueSafe, State.finishOk_torqueSafe, State.setSys_torqueSafe]

@[simp] theorem execFwProgramComplete_torqueSafe : Safely (execFwProgramComplete s) := by
  unfold execFwProgramComplete
  dsimp only
  repeat' split
  all_goals simp [h, State.setSys_torqueSafe]

@[simp] theorem execFwActivate_torqueSafe (q : Fin 16) (tag : Fin 1024) : Safely (execFwActivate q tag s) :=
  safely_startPkt h _ _ _ fun p t ht => by simp [ht, ite_torqueSafe, State.finish_torqueSafe, State.toGate_torqueSafe]

@[simp] theorem execOtpProgram_torqueSafe (q : Fin 16) (tag : Fin 1024) : Safely (execOtpProgram q tag s) := by
  refine safely_startPkt h _ _ _ fun p t ht => ?_
  repeat' split
  all_goals simp [ht, State.finish_torqueSafe, State.toGate_torqueSafe]

@[simp] theorem execReplyWrite_torqueSafe (q : Fin 16) : Safely (execReplyWrite q s) := by
  unfold execReplyWrite
  dsimp only
  split <;> simp [h, State.holdReset_torqueSafe, State.writeReply_torqueSafe]

/-! ### Presence -/

@[simp] theorem execTwinRoleCfg_torqueSafe (q : Fin 16) (tag : Fin 1024) : Safely (execTwinRoleCfg q tag s) := by
  refine safely_startPkt h _ _ _ fun p t ht => ?_
  split <;> simp [ht, ite_torqueSafe, State.finish_torqueSafe, State.toGate_torqueSafe]

@[simp] theorem execPresenceDenied_torqueSafe (sealBad : Bool) (disagree low : Nat) (seenHigh50 : Bool) :
    Safely (execPresenceDenied sealBad disagree low seenHigh50 s) := by
  unfold execPresenceDenied
  split <;> simp [h, State.denyGate_torqueSafe, State.expireGate_torqueSafe]

@[simp] theorem execPresenceTimeout_torqueSafe : Safely (execPresenceTimeout s) := by
  refine safely_onExpiry h _ fun t ht => ?_
  split <;> simp [ht, ite_torqueSafe, State.denyGate_torqueSafe]

@[simp] theorem execPanelClear_torqueSafe : Safely (execPanelClear s) := by
  refine safely_onExpiry h _ fun t ht => ?_
  split <;> simp [ht, ite_torqueSafe, State.showPanel_torqueSafe]

/-! ### Twin -/

@[simp] theorem execBenjoLaneDown_torqueSafe (lane : Fin 2) : Safely (execBenjoLaneDown lane s) := by
  have htwin (x : TwinSt) : (s.setTwin x).TorqueSafe := State.setTwin_torqueSafe _ _ h
  have hseen (x y : TwinSt) : ((s.setTwin x).setTwin y).TorqueSafe := State.setTwin_torqueSafe _ _ (htwin x)
  exact safely_unless h (safely_unless (htwin _) (safely_next.2 (torqueSafe_ite (State.pairTo_torqueSafe _ _ _
    (State.dropCell_torqueSafe _ (State.setTwin_torqueSafe _ _ (hseen _ _)))) (hseen _ _))))

@[simp] theorem execPartnerLost_torqueSafe : Safely (execPartnerLost s) := by
  simp [h, execPartnerLost, State.setTwin_torqueSafe, State.survive_torqueSafe]

@[simp] theorem execSafetyFrameLoss_torqueSafe : Safely (execSafetyFrameLoss s) := by
  simp [h, execSafetyFrameLoss, State.pairTo_torqueSafe]

@[simp] theorem execSelfTestResult_torqueSafe (own : Option Bool) : Safely (execSelfTestResult own s) := by
  have hown := State.ownResult_torqueSafe s own h
  have htest {c : Prop} [Decidable c] (x : TwinSt) :
      (if c then s.ownResult own else (s.ownResult own).setTwin x).TorqueSafe :=
    torqueSafe_ite hown (State.setTwin_torqueSafe _ _ hown)
  have hto {t : State} (ht : t.TorqueSafe) (st : PairState) (a : Bool) : Safely (.next (t.pairTo st a)) :=
    safely_next.2 (State.pairTo_torqueSafe _ _ _ ht)
  refine safely_unless h (safely_unless hown (safely_if ?_ ?_))
  · exact safely_if (hto (htest _) _ _) (safely_if (hto (htest _) _ _)
      (hto (State.enterBath_torqueSafe _ _ (htest _)) _ _))
  · exact safely_if (hto (State.setTwin_torqueSafe _ _ (htest _)) _ _) (safely_if (hto (htest _) _ _)
      (safely_if (hto (htest _) _ _) (hto (State.enterBath_torqueSafe _ _ (htest _)) _ _)))

@[simp] theorem execProofSwapDue_torqueSafe : Safely (execProofSwapDue s) :=
  safely_unless h (safely_onExpiry h _ fun _ ht => torqueSafe_ite (State.announceSwap_torqueSafe _ _ ht) ht)

@[simp] theorem execProofSwapNow_torqueSafe (q : Fin 16) (tag : Fin 1024) : Safely (execProofSwapNow q tag s) := by
  refine safely_startPkt h _ _ _ fun p t ht => ?_
  dsimp only
  repeat' split
  all_goals simp [ht, State.announceSwap_torqueSafe, State.finish_torqueSafe, State.finishOk_torqueSafe,
    State.setTwin_torqueSafe]

@[simp] theorem execProofSwap_torqueSafe : Safely (execProofSwap s) := by
  unfold execProofSwap
  split
  · simp [h]
  · refine safely_unless h (safely_next.2 (State.passSync_torqueSafe _ _ (State.setTwin_torqueSafe _ _ ?_)))
    split
    · exact State.finishTag_torqueSafe _ _ _ _ _ h
    · exact h

@[simp] theorem execResyncComplete_torqueSafe : Safely (execResyncComplete s) := by
  refine safely_unless h (safely_next.2 (State.formPair_torqueSafe _ _ (State.setTwin_torqueSafe _ _
    (State.nextFree_torqueSafe _ ?_))))
  split
  · exact torqueSafe_ite (State.adopt_torqueSafe _ _) h
  · exact h

@[simp] theorem execTwinStatus_torqueSafe (q : Fin 16) (tag : Fin 1024) : Safely (execTwinStatus q tag s) :=
  safely_startPkt h _ _ _ fun p t ht => by simp [ht, State.finishOk_torqueSafe]

/-! ### Packet deadlines -/

/-- The row that judges a late packet is one of the rows above. -/
theorem rowOf_torqueSafe (op : Nat) (q : Fin 16) (tag : Fin 1024) : Safely (rowOf op q tag s) := by
  unfold rowOf
  split <;> simp [h]

@[simp] theorem execPacketDeadline_torqueSafe (q : Fin 16) (tag : Fin 1024) : Safely (execPacketDeadline q tag s) := by
  have htried (x : QueueSt) (d : DispSt) (f : DelayEntry → Bool) :
      (((s.entryRun f).setQueue q x).setDisp d).TorqueSafe :=
    State.setDisp_torqueSafe _ _ (State.setQueue_torqueSafe _ _ _ (State.entryRun_torqueSafe _ _ h))
  unfold execPacketDeadline
  dsimp only
  split
  · simp [h]
  · split
    next p _ =>
      split
      · obtain ⟨t, ht, hsafe⟩ := rowOf_torqueSafe (htried _ _ _) p.opcode q tag
        rw [ht]
        simp [h, hsafe, State.entryRun_torqueSafe, State.finish_torqueSafe, State.setDisp_torqueSafe,
          State.setQueue_torqueSafe]
      · simp [h, State.entryRun_torqueSafe]
    next => simp [h, State.entryRun_torqueSafe]

/-! ### Every command -/

/-- At the panel a packet is accepted, or the window closes (R60, R61). -/
@[simp] theorem execAcceptNRelease_torqueSafe (b : Press) : Safely (execAcceptNRelease b s) := by
  have hclosed := State.closePresence_torqueSafe s 0x41 h
  unfold execAcceptNRelease
  split
  · simp [h]
  · refine safely_if (safely_next.2 (State.expireGate_torqueSafe _ h)) (safely_unless h ?_)
    iterate 5 refine safely_if (safely_next.2 (State.denyGate_torqueSafe _ _ _ _ h)) ?_
    split
    · exact safely_next.2 hclosed
    · exact safely_next.2 (State.accept_torqueSafe _ _ hclosed)

/-- Writes held back by a supply caution are carried out at its end (R415). -/
@[simp] theorem execSupplyCautionEnd_torqueSafe : Safely (execSupplyCautionEnd s) :=
  safely_unless h (safely_next.2 (torqueSafe_foldl _ _ _ (State.setSys_torqueSafe _ _ h)
    fun _ _ hu => State.commitWrite_torqueSafe _ _ hu))

@[simp] theorem execBenjoFrame_torqueSafe (lane : Fin 2) (bytes : List Byte) : Safely (execBenjoFrame lane bytes s) := by
  have hup := State.laneUp_torqueSafe s lane h
  refine safely_unless h (safely_if (safely_next.2 (State.laneError_torqueSafe _ _ h)) ?_)
  refine safely_if (safely_next.2 (State.laneError_torqueSafe _ _ hup)) (safely_unless hup ?_)
  exact safely_next.2 (State.takeBenjo_torqueSafe _ _ _ (State.setTwin_torqueSafe _ _ hup))

/-- Every command leaves torque safe. -/
theorem exec_torqueSafe (c : Instr) : Safely (exec c s) := by
  cases c with
  | tNop t | tMac t | tMpy t | tMac4 t | tMpy4 t | tClra t | tAdda t | tSha t | tLda t | tSth t | tStl t | tStg t | tAdd t
  | tSub t | tAdds t | tSubs t | tAnd t | tOr t | tXor t | tAsh t | tLsh t | tAbs t | tNeg t | tMin t | tMax t | tCls t
  | tCmp t | tSel t | tMov t | tMovi t | tAddi t | tModi t | tBxclr t | tBxupd t | tBr t | tCall t | tRet t | tDbnz t
  | tLoop t | tReti t | tSwi t =>
    exact safely_next.2 (State.tileOp_torqueSafe s t _ _ h)
  | lSpmv p | lAxpy p | lDot p | lSdiv p | lBsolve p | lFactor p | lProj p | lCopy p | lOuter p | lInner p | lEnd p
  | lSync p | lWarm p | lEmit p =>
    exact safely_next.2 (State.laneOp_torqueSafe s p _ _ h)
  | _ => simp [exec, h]

end Commands

/-- Settles O7: an idle step is one TIME cycle, and a command runs on the rest of the queue; both keep torque safety. -/
theorem torqueStaysSafe : Obligations.TorqueStaysSafe := by
  unfold Obligations.TorqueStaysSafe
  intro s t hs hstep
  cases hp : s.pending with
  | nil =>
    cases (step_idle hp).symm.trans hstep
    exact s.cycle_torqueSafe hs
  | cons c rest =>
    obtain ⟨u, hu, hsafe⟩ := exec_torqueSafe (s.setPending_torqueSafe rest hs) c
    cases hu.symm.trans ((stepRunsFront s c rest hp).symm.trans hstep)
    exact hsafe

end Sys2Proof.Machine
end

section
/-! SUPPORT. Reset, the records of CAN_TX and CAN_RX_READ, and where a received CAN frame is stored (R330, R386, R388, R391). -/

namespace Sys2Proof.Machine

/-! ### Reset -/

/-- Settles O10: each clause reads a reset value; neither channel enables a pair, so torque is safe. -/
theorem resetIsSafe : Obligations.ResetIsSafe := by
  unfold Obligations.ResetIsSafe
  refine ⟨rfl, State.reset_memWf, fun c hc => ?_, rfl, rfl, fun c => ?_, rfl, rfl, rfl⟩
  · have hnone (i : Nat) : ¬ (0 : BitVec 16).getLsbD i = true := by simp
    exact (hc.elim (hnone _) (hnone _)).elim
  · exact congrArg IndexSt.state (Vector.getElem_replicate c.isLt)

/-! ### Refused CAN packets -/

/-- Settles O54: each clause fixes the check of the buffer that decides. -/
theorem canRxReadRefusals : Obligations.CanRxReadRefusals := by
  unfold Obligations.CanRxReadRefusals
  refine ⟨completes_of (fun _ _ _ => rfl) fun p t huse => if_pos huse,
    completes_of (fun _ _ _ => rfl) fun p t ⟨huse, h⟩ => (if_neg (not_not.2 huse)).trans (if_pos ?_)⟩
  rwa [Bool.or_eq_true, Bool.not_eq_true', Option.isSome_iff_ne_none]

/-- What is wrong at the word of the identifier, the DLC or the flags is named before the reserved bytes (R386). -/
theorem frameErrors_head {c : CanSt} {r : List Byte}
    (h : ((byteAt r 5).testBit 0 = true ∧ bitAt c.ctrl 29 = false) ∨
      ((byteAt r 5).testBit 1 = true ∧ (byteAt r 5).testBit 0 = false) ∨
      (bitAt (wordAt r 0) 30 = true ∧ (byteAt r 5).testBit 0 = true) ∨
      (8 < byteAt r 4 ∧ (byteAt r 5).testBit 0 = false) ∨
      (bitAt (wordAt r 0) 29 = false ∧ fld (wordAt r 0) 28 11 ≠ 0)) :
    ∃ o : Nat, (o = 0 ∨ o = 4 ∨ o = 5) ∧ (frameErrors c r).head? = some o := by
  unfold frameErrors
  extract_lets w fd ok0 ok4 ok5
  have hbad : ok0 = false ∨ ok4 = false ∨ ok5 = false := by
    obtain ⟨hfd, hen⟩ | ⟨hbrs, hfd⟩ | ⟨hrtr, hfd⟩ | ⟨hdlc, hfd⟩ | ⟨hext, hid⟩ := h
    · exact .inr (.inr (by simp [ok5, fd, hfd, hen]))
    · exact .inr (.inr (by simp [ok5, fd, hfd, hbrs]))
    · exact .inl (by simp [ok0, w, fd, hrtr, hfd])
    · exact .inr (.inl (by simp [ok4, fd, hfd, hdlc]))
    · exact .inl (by simp [ok0, w, hext, hid])
  by_cases h0 : ok0 = true
  · by_cases h4 : ok4 = true
    · have h5 : ok5 = false := by simpa [h0, h4] using hbad
      exact ⟨5, .inr (.inr rfl), by simp [h0, h4, h5]⟩
    · exact ⟨4, .inr (.inl rfl), by simp [h0, h4]⟩
  · exact ⟨0, .inl rfl, by simp [h0]⟩

/-- Settles O55: the first wrong place of the record decides, and it is one of three. -/
theorem canTxRecordRefusals : Obligations.CanTxRecordRefusals := by
  unfold Obligations.CanTxRecordRefusals
  refine answers_of (fun _ _ _ => rfl) fun p t ⟨huse, hlen, hbad⟩ => ?_
  obtain ⟨o, ho, hhead⟩ := frameErrors_head hbad
  refine ⟨o, ho, ?_⟩
  simp only [huse, hlen, hhead, ne_eq, not_true_eq_false, if_false]

/-! ### Where a received frame goes -/

/-- A buffer accepts the frames of its filter (R388). -/
theorem CanBuf.accepts_iff {b : CanBuf} {f : CanFrame} : b.accepts f = true ↔
    fld b.cfg 31 30 = 1 ∧ bitAt b.cfg 29 = f.ext ∧ (f.id.toNat ^^^ fld b.cfg 28 0) &&& fld b.mask 28 0 = 0 := by
  simp only [CanBuf.accepts, CanBuf.use, Bool.and_eq_true, beq_iff_eq, and_assoc]

theorem f64_val (i : Fin 64) : f64 i.val = i := Fin.ext (Nat.mod_eq_of_lt i.isLt)

section Buffers
variable (s : State) (n : Fin 4)

/-- A controller reads as it was last written. -/
@[simp] theorem State.setCanN_self (x : CanSt) : (s.setCanN n x).can[n] = x := Vector.getElem_set_self n.isLt

@[simp] theorem State.notice_can (k : NoticeKind) (a b : Nat) : (s.notice k a b).can = s.can := rfl

@[simp] theorem State.canShare_can (b kind : Nat) (rest : List Byte) : (s.canShare n b kind rest).can = s.can := by
  unfold State.canShare
  split <;> rfl

@[simp] theorem State.canEnter_bufs (st : CanState) : (s.canEnter n st).can[n].bufs = s.can[n].bufs := by
  unfold State.canEnter
  dsimp only
  split
  · rfl
  · simp only [State.notice_can, State.setCanN_self]

/-- Confinement moves the controller between its states and leaves its buffers (R394). -/
@[simp] theorem State.canConfine_bufs : (s.canConfine n).can[n].bufs = s.can[n].bufs := by
  unfold State.canConfine
  dsimp only
  split
  · rfl
  · rfl
  · split
    · rw [State.canEnter_bufs, State.setCanN_self]
    · exact s.canEnter_bufs n _

variable {s n} {f : CanFrame} (sof : DWord)

/-- The lowest buffer that accepts a frame stores it (R388). -/
theorem State.canStore_lowest {i : Fin 64} (hi : s.can[n].bufs[i].accepts f = true)
    (hlow : ∀ j : Fin 64, j < i → s.can[n].bufs[j].accepts f = false) :
    (s.canStore n f sof).can[n].bufs = s.can[n].bufs.set i (s.can[n].bufs[i].store f sof).1 := by
  have hfind : (List.range 64).find? (fun i => (s.can[n].bufs[f64 i]).accepts f) = some i.val := by
    refine List.find?_range_eq_some.2 ⟨by simpa only [f64_val] using hi, List.mem_range.2 i.isLt, fun j hj => ?_⟩
    have hj' : f64 j = ⟨j, hj.trans i.isLt⟩ := f64_val ⟨j, hj.trans i.isLt⟩
    simpa only [hj', Bool.not_eq_true'] using hlow _ hj
  unfold State.canStore
  simp only [hfind, f64_val, State.canShare_can, State.setCanN_self]

/-- A frame that no buffer accepts is discarded (R388). -/
theorem State.canStore_none (h : ∀ i : Fin 64, s.can[n].bufs[i].accepts f = false) : s.canStore n f sof = s := by
  have hfind : (List.range 64).find? (fun i => (s.can[n].bufs[f64 i]).accepts f) = none :=
    List.find?_eq_none.2 fun i _ => by rw [h (f64 i)]; exact Bool.false_ne_true
  simp only [State.canStore, hfind]

end Buffers

/-- Settles O56: what follows the store leaves the buffers, and what precedes it only counts. -/
theorem canFrameGoesToItsBuffer : Obligations.CanFrameGoesToItsBuffer := by
  unfold Obligations.CanFrameGoesToItsBuffer
  intro s n f sof hon hfd fits
  refine ⟨_, exec_canFrameReceived_taken sof hon hfd, ?_⟩
  rw [State.canShare_can, State.canConfine_bufs]
  generalize hu : (s.setCanN n _).nextFree = u
  have hbufs : u.can[n].bufs = s.can[n].bufs := by rw [← hu, State.nextFree_can, State.setCanN_self]
  have hfits (i : Fin 64) : fits i ↔ u.can[n].bufs[i].accepts f = true := by
    rw [hbufs]
    exact CanBuf.accepts_iff.symm
  rw [← hbufs]
  refine ⟨fun i hi hlow => ?_, fun hnone => ?_⟩
  · rw [State.canStore_lowest sof ((hfits i).1 hi) fun j hj => Bool.eq_false_iff.2 (mt (hfits j).2 (hlow j hj))]
    exact ⟨Vector.getElem_set_self i.isLt, fun j hj =>
      Vector.getElem_set_ne i.isLt j.isLt fun e => hj (Fin.ext e.symm)⟩
  · rw [State.canStore_none sof fun i => Bool.eq_false_iff.2 (mt (hfits i).2 (hnone i))]

end Sys2Proof.Machine
end

section
/-! SUPPORT. The events of the safe inputs, the output test pulses, the E-stop and SRST_N (R320 to R324, R332 to R334). -/

namespace Sys2Proof.Machine

section InputEvent
variable (s : State)

theorem exec_safeInputChange (i : Fin 16) (lineB level : Bool) (n : Nat) :
    exec (.safeInputChange i lineB level n) s = execSafeInputChange i lineB level n s := rfl
theorem exec_discrepancyTimeout (i : Option (Fin 16)) :
    exec (.discrepancyTimeout i) s = execDiscrepancyTimeout i s := rfl
theorem exec_testPulseCheck (k : Fin 4) (a b : BitVec 16) :
    exec (.testPulseCheck k a b) s = execTestPulseCheck k a b s := rfl
theorem exec_outputTestPulse (p : Fin 16) (lineB : Bool) (ch : Fin 2) (high low : Bool) :
    exec (.outputTestPulse p lineB ch high low) s = execOutputTestPulse p lineB ch high low s := rfl
theorem exec_estopChange (lineB level : Bool) (n : Nat) :
    exec (.estopChange lineB level n) s = execEstopChange lineB level n s := rfl
theorem exec_srstNPress (ch : Fin 2) (n : Nat) : exec (.srstNPress ch n) s = execSrstNPress ch n s := rfl
theorem exec_srstNRelease (ch : Fin 2) (n : Nat) : exec (.srstNRelease ch n) s = execSrstNRelease ch n s := rfl

end InputEvent

section InputEventCase
variable {s : State}

/-! ### Filtered changes of the safe inputs and the E-stop -/

/-- A filtered change is one of an enabled input, on the grid, held for its samples, and away from the level of the line. -/
theorem filtered_iff {enabled grid : Bool} {n k : Nat} {old new : Bool} :
    (!enabled || !grid || decide (n < k) || old == new) = true ↔
      enabled = false ∨ grid = false ∨ n < k ∨ old = new := by
  simp only [Bool.or_eq_true, Bool.not_eq_true', decide_eq_true_eq, beq_iff_eq, or_assoc]

theorem filtered_not {enabled grid : Bool} {n k : Nat} {old new : Bool} (he : enabled = true) (hg : grid = true)
    (hn : k ≤ n) (hne : old ≠ new) : ¬ (!enabled || !grid || decide (n < k) || old == new) = true := by
  rw [filtered_iff, he, hg]
  simp [Nat.not_lt.2 hn, hne]

theorem exec_discrepancyTimeout_due {i : Fin 16} {t : Nat} (hsince : s.safety.sins[i].since = some t)
    (hdue : t + fld s.safety.sinCfg[i] 22 13 * 1000000 + 250000 ≤ s.time.cellNs) :
    exec (.discrepancyTimeout (some i)) s = .next (s.setSafety { s.safety with
      sins := s.safety.sins.set i (s.safety.sins[i].fault (bitAt s.safety.sinCfg[i] 30) 1) }).evalFuncs := by
  simp only [exec_discrepancyTimeout, execDiscrepancyTimeout, hsince, if_pos hdue]

theorem exec_discrepancyTimeout_early {i : Fin 16} (h : ∀ t, s.safety.sins[i].since = some t →
    s.time.cellNs < t + fld s.safety.sinCfg[i] 22 13 * 1000000 + 250000) :
    exec (.discrepancyTimeout (some i)) s = .next s := by
  simp only [exec_discrepancyTimeout, execDiscrepancyTimeout]
  split
  next t ht => exact if_neg (Nat.not_le.2 (h t ht))
  next => rfl

theorem exec_discrepancyTimeout_estop {t : Nat} (hsince : s.safety.estop.since = some t)
    (hdue : t + fld s.safety.estopCfg 30 21 * 1000000 + 50000 ≤ s.time.cellNs) :
    exec (.discrepancyTimeout none) s = .next (s.setSafety { s.safety with estop := s.safety.estop.fault false 1 }) := by
  simp only [exec_discrepancyTimeout, execDiscrepancyTimeout, hsince, if_pos hdue]

/-! ### Output test pulses (R320) -/

section OutputPulse
variable {p : Fin 16} {lineB : Bool} {ch : Fin 2} {high low : Bool}

/-- The channel that would pulse a line is not in an internal fault. -/
def State.pulserOk (s : State) (ch : Fin 2) : Bool := if ch.val = 0 then s.safety.ch1Ok else s.safety.ch2Ok

/-- A pair that is off may only read low: then its line is no longer at fault. -/
theorem exec_outputTestPulse_off (hown : s.pulserOk ch = true) (hoff : s.stoOn p = false) (hlow : high = false) :
    exec (.outputTestPulse p lineB ch high low) s = .next (s.setSafety { s.safety with
      outFaults := s.safety.outFaults.filter (fun o => o != (p.val, lineB)) }) := by
  rw [State.pulserOk] at hown
  subst hlow
  simp only [exec_outputTestPulse, execOutputTestPulse, hown, hoff, Bool.not_true, Bool.not_false, Bool.false_eq_true,
    if_false, if_true]

theorem exec_outputTestPulse_not (h : s.pulserOk ch = false ∨ (s.stoOn p = false ∧ high = true) ∨
    (s.stoOn p = true ∧ s.mayPulse p.val lineB ch.val = false)) :
    exec (.outputTestPulse p lineB ch high low) s = .next s := by
  cases hown : s.pulserOk ch with
  | false => exact if_pos (congrArg (!·) hown)
  | true =>
    refine (if_neg fun hbad => Bool.noConfusion ((congrArg (!·) hown).symm.trans hbad)).trans ?_
    obtain h | ⟨hoff, hhigh⟩ | ⟨hon, hwait⟩ := h
    · exact Bool.noConfusion (hown.symm.trans h)
    · simp only [hoff, hhigh, Bool.not_false, if_true]
    · simp only [hon, hwait, Bool.not_true, Bool.not_false, Bool.false_eq_true, if_false, if_true]

/-- The state that has noted a pulse, with the lines then at fault. -/
def State.pulseNoted (s : State) (p : Fin 16) (lineB : Bool) (ch : Fin 2) (faults : List (Nat × Bool)) : State :=
  (s.setSafety { s.safety with
    outTests := ((p.val, lineB, ch.val), s.testInterval, s.tickNo) ::
      s.safety.outTests.filter (fun t => t.1 != (p.val, lineB, ch.val))
    outFaults := faults }).emit (.darkPulse p.val lineB ch.val (fld s.safety.otest 23 12))

section Pulses
variable (hown : s.pulserOk ch = true) (hon : s.stoOn p = true) (hmay : s.mayPulse p.val lineB ch.val = true)
include hown hon hmay

/-- A readback that is wrong enters the stop bath. -/
theorem exec_outputTestPulse_wrong (hbad : (high || low) = true) : exec (.outputTestPulse p lineB ch high low) s =
    .next ((s.pulseNoted p lineB ch
      (s.safety.outFaults.filter (fun o => o != (p.val, lineB)) ++ [(p.val, lineB)])).enterBath 8) := by
  rw [State.pulserOk] at hown
  simp only [exec_outputTestPulse, execOutputTestPulse, hown, hon, hmay, hbad, Bool.not_true, Bool.false_eq_true,
    if_false, if_true, State.pulseNoted]

/-- A right one takes the line from those at fault. -/
theorem exec_outputTestPulse_right (hok : (high || low) = false) : exec (.outputTestPulse p lineB ch high low) s =
    .next (s.pulseNoted p lineB ch (s.safety.outFaults.filter (fun o => o != (p.val, lineB)))) := by
  rw [State.pulserOk] at hown
  simp only [exec_outputTestPulse, execOutputTestPulse, hown, hon, hmay, hok, Bool.not_true, Bool.false_eq_true,
    if_false, State.pulseNoted]

end Pulses

end OutputPulse

/-! ### SRST_N (R333, R334) -/

section Press
variable {ch : Fin 2} {n : Nat}

/-- A press of the held time is a candidate; a shorter one and a longer one are refused. -/
theorem pressReason_short {d : Nat} (h : d < 100000000) : pressReason d = 1 := if_pos h

theorem pressReason_long {d : Nat} (h : 3000000000 < d) : pressReason d = 2 :=
  (if_neg (by omega)).trans (if_pos h)

theorem pressReason_held {d : Nat} (h1 : 100000000 ≤ d) (h2 : d ≤ 3000000000) : pressReason d = 0 :=
  (if_neg (Nat.not_lt.2 h1)).trans (if_neg (Nat.not_lt.2 h2))

theorem exec_srstNPress_not (h : s.onGrid 250000 0 = false ∨ n = 0 ∨ s.safety.srst[ch].pressed = true) :
    exec (.srstNPress ch n) s = .next s := by
  rw [exec_srstNPress]
  refine if_pos ?_
  simpa only [Bool.or_eq_true, Bool.not_eq_true', decide_eq_true_eq, or_assoc] using h

theorem exec_srstNRelease_not (h : s.onGrid 250000 0 = false ∨ n < 2 ∨ s.safety.srst[ch].pressed = false) :
    exec (.srstNRelease ch n) s = .next s := by
  rw [exec_srstNRelease]
  refine if_pos ?_
  simpa only [Bool.or_eq_true, Bool.not_eq_true', decide_eq_true_eq, or_assoc] using h

/-- The flag of a line that was low at the first sample of a channel, where the low began `n` samples ago. -/
def State.bootHeld (s : State) (ch : Fin 2) (n : Nat) : Bool :=
  s.safety.boot || (s.safety.srst[ch].first &&
    decide (s.time.cellNs + 250000 - 250000 * n ≤ ceilDiv s.safety.srst[ch].since 250000 * 250000))

section Pressed
variable (hgrid : s.onGrid 250000 0 = true) (hup : s.safety.srst[ch].pressed = false)
include hgrid hup

/-- One low sample is no press yet, but it may be the first of its channel. -/
theorem exec_srstNPress_one (h : n = 1) : exec (.srstNPress ch n) s = .next (s.setSafety { s.safety with
    boot := s.bootHeld ch n, srst := s.safety.srst.set ch { s.safety.srst[ch] with first := false } }) := by
  subst h
  simp only [exec_srstNPress, execSrstNPress, hgrid, hup, one_ne_zero, decide_false, Bool.not_true, Bool.or_self,
    Bool.false_eq_true, if_false, Nat.one_lt_two, if_true, State.bootHeld]

theorem exec_srstNPress_begins (h : 2 ≤ n) : exec (.srstNPress ch n) s = .next (s.setSafety { s.safety with
    boot := s.bootHeld ch n
    srst := s.safety.srst.set ch { s.safety.srst[ch] with first := false, pressed := true, since := s.time.cellNs } }) := by
  have h0 : n ≠ 0 := by omega
  simp only [exec_srstNPress, execSrstNPress, hgrid, hup, h0, decide_false, Bool.not_true, Bool.or_self,
    Bool.false_eq_true, if_false, Nat.not_lt.2 h, State.bootHeld]

end Pressed

/-- A filtered release leaves in its channel what the press was. -/
theorem exec_srstNRelease_ends (hgrid : s.onGrid 250000 0 = true) (hdown : s.safety.srst[ch].pressed = true)
    (h : 2 ≤ n) : exec (.srstNRelease ch n) s = .next (s.setSafety { s.safety with
      srst := s.safety.srst.set ch { s.safety.srst[ch] with
        pressed := false, since := s.time.cellNs
        found := some (if s.safety.boot || s.safety.stuck then 4
          else pressReason (s.time.cellNs - s.safety.srst[ch].since)) } }) := by
  simp only [exec_srstNRelease, execSrstNRelease, hgrid, hdown, Nat.not_lt.2 h, decide_false, Bool.not_true, Bool.or_self,
    Bool.false_eq_true, if_false]

end Press

end InputEventCase

/-- Settles O49: each event has one clause per branch of its row. -/
theorem safetyInputEventsComplete : Obligations.SafetyInputEventsComplete := by
  unfold Obligations.SafetyInputEventsComplete
  intro s
  refine ⟨fun i lineB level n hen hgrid hn hne => if_neg (filtered_not hen hgrid hn hne),
    fun i lineB level n h => if_pos (filtered_iff.2 h), fun i t => exec_discrepancyTimeout_due,
    fun i => exec_discrepancyTimeout_early, fun t => exec_discrepancyTimeout_estop,
    fun k a b hgrid => if_neg (by rw [hgrid]; decide), fun p lineB ch high low => ?_,
    fun lineB level n hen hgrid hn hne => ⟨fun hact hwas => ?_, fun h => ?_⟩,
    fun lineB level n h => if_pos (filtered_iff.2 h),
    fun ch n => ⟨fun hgrid hup => ?_, exec_srstNPress_not, fun hgrid hdown hn => ?_, exec_srstNRelease_not⟩,
    fun hstuck hlong => ?_, fun h => ?_, fun h => ?_, fun h => ?_⟩
  · exact ⟨fun hown hon hmay => ⟨exec_outputTestPulse_wrong hown hon hmay, exec_outputTestPulse_right hown hon hmay⟩,
      exec_outputTestPulse_off, exec_outputTestPulse_not⟩
  · exact (if_neg (filtered_not hen hgrid hn hne)).trans (if_pos (by rw [hact, hwas]; rfl))
  · refine (if_neg (filtered_not hen hgrid hn hne)).trans (if_neg ?_)
    rw [Bool.and_eq_true, Bool.not_eq_true']
    rintro ⟨hact, hwas⟩
    exact h.elim (fun h => Bool.noConfusion (hact.symm.trans h)) fun h => Bool.noConfusion (hwas.symm.trans h)
  · exact ⟨exec_srstNPress_one hgrid hup, exec_srstNPress_begins hgrid hup⟩
  · have hends := exec_srstNRelease_ends hgrid hdown hn
    refine ⟨fun hflag => ?_, fun hboot hstuck => ?_⟩
    · rwa [if_pos (by rwa [Bool.or_eq_true])] at hends
    · rw [if_neg (by rw [hboot, hstuck]; decide)] at hends
      refine ⟨fun h => ?_, fun h1 h2 => ?_, fun h => ?_⟩
      · rwa [pressReason_short h] at hends
      · rwa [pressReason_held h1 h2] at hends
      · rwa [pressReason_long h] at hends
  · refine if_pos ?_
    simpa only [hstuck, Bool.not_false, Bool.true_and, List.any_eq_true, Bool.and_eq_true, decide_eq_true_eq] using hlong
  · refine if_neg ?_
    simp only [Bool.and_eq_true, Bool.not_eq_true', List.any_eq_true, decide_eq_true_eq]
    rintro ⟨hstuck, x, hx, hdown, hlong⟩
    exact h.elim (fun h => Bool.noConfusion (hstuck.symm.trans h)) fun h => Nat.not_le.2 (h x hx hdown) hlong
  · refine if_pos ?_
    simpa only [List.all_eq_true, Bool.and_eq_true, Bool.not_eq_true', decide_eq_true_eq] using h
  · refine if_neg ?_
    obtain ⟨x, hx, hx'⟩ := h
    simp only [List.all_eq_true, Bool.and_eq_true, Bool.not_eq_true', decide_eq_true_eq]
    intro hopen
    obtain ⟨hup, hdue⟩ := hopen x hx
    exact hx'.elim (fun h => Bool.noConfusion (hup.symm.trans h)) fun h => Nat.not_le.2 h hdue

end Sys2Proof.Machine
end

section
/-! SUPPORT. The events of reset, boot, supplies, temperature and flash programming (R397, R398, R404, R406, R410 to R416, R425). -/

namespace Sys2Proof.Machine

/-! ### What a stop leaves: the system part and the health of the channels -/

/-- The system part and which channels are healthy. -/
def State.health (s : State) : SysSt × Bool × Bool := (s.sys, s.safety.ch1Ok, s.safety.ch2Ok)

theorem health_foldOn {l : List Nat} {s : State} {g : State → Nat → State} (hg : ∀ u x, (g u x).health = u.health) :
    (foldOn l s g).health = s.health :=
  List.foldlRecOn (motive := fun u : State => u.health = s.health) l g rfl fun u hu x _ => (hg u x).trans hu

section Stop
variable (s : State) (c : Fin 16)

@[simp] theorem State.setIndex_health (x : IndexSt) : (s.setIndex c x).health = s.health := rfl

theorem State.setLoops_health (x : LoopSt) : (s.setLoops x).health = s.health := rfl

@[simp] theorem State.restartLoops_health : (s.restartLoops c).health = s.health := State.setLoops_health s _

@[simp] theorem State.notice_health (k : NoticeKind) (a b : Nat) : (s.notice k a b).health = s.health := rfl

@[simp] theorem State.drive_health : (s.drive c).health = s.health := rfl

theorem State.setTestTorque_health (num : Int) : (s.setTestTorque c num).health = s.health := by
  unfold State.setTestTorque
  split
  · rfl
  · exact health_foldOn fun _ _ => rfl

theorem State.abortTest_health : (s.abortTest c).health = s.health := by
  unfold State.abortTest
  dsimp only
  split
  · rfl
  · rw [State.notice_health, State.setIndex_health, State.restartLoops_health, State.setTestTorque_health]

theorem State.protect_health (code : ChFault) : (s.protect c code).health = s.health := by
  unfold State.protect
  dsimp only
  split <;> rfl

theorem State.toSto_health (cause : Nat) (fast : Bool) : (s.toSto c cause fast).health = s.health := by
  unfold State.toSto
  dsimp only
  rw [State.drive_health, State.setIndex_health]
  split
  · rw [State.protect_health, State.abortTest_health]
  · exact s.abortTest_health c

theorem State.toSs1_health (cause : Nat) : (s.toSs1 c cause).health = s.health :=
  ((s.abortTest c).protect_health c .none).trans (s.abortTest_health c)

theorem State.stopIndex_health (cat cause : Nat) (fast : Bool) : (s.stopIndex c cat cause fast).health = s.health := by
  unfold State.stopIndex
  dsimp only
  split
  · split
    · exact State.toSto_health _ c cause fast
    · exact State.toSs1_health _ c cause
  · split
    · exact State.toSto_health _ c cause fast
    · rfl
  · split
    · exact State.toSto_health _ c cause fast
    · split <;> rfl

/-- Entering the stop bath changes neither (R330). -/
theorem State.enterBath_health (cause : Nat) : (s.enterBath cause).health = s.health :=
  (health_foldOn fun u d => u.stopIndex_health (f16 d) _ _ _).trans rfl

theorem State.driveAll_health : s.driveAll.health = s.health := health_foldOn fun _ _ => rfl

theorem State.dropBrakes_health : s.dropBrakes.health = s.health := health_foldOn fun _ _ => rfl

theorem State.dropBrakes_en2 : s.dropBrakes.safety.en2 = s.safety.en2 :=
  List.foldlRecOn (motive := fun u : State => u.safety.en2 = s.safety.en2) _ _ rfl fun _ hu _ _ => hu

end Stop

/-- A channel that is not healthy enables no pair that is driven (R317, R318). -/
theorem drives_en2 (l : List Nat) (s : State) (d : Fin 16) (hoff : s.safety.ch2Ok = false)
    (h : d.val ∈ l ∨ s.safety.en2.getLsbD d.val = false) :
    (foldOn l s (fun u c => u.drive (f16 c))).safety.en2.getLsbD d.val = false := by
  induction l generalizing s with
  | nil => exact h.resolve_left List.not_mem_nil
  | cons a r ih =>
    refine ih (s.drive (f16 a)) hoff ?_
    have hclr : (s.drive (f16 a)).safety.en2 = bvClr s.safety.en2 (f16 a).val :=
      if_neg (by rw [hoff, Bool.and_false]; exact Bool.false_ne_true)
    rw [hclr, bvClr_getLsbD]
    by_cases hd : d.val ∈ r
    · exact .inl hd
    · refine .inr ?_
      obtain hmem | hclear := h
      · have ha : d.val = a := (List.mem_cons.1 hmem).resolve_right hd
        have hsame : (f16 a).val = d.val := by rw [← ha]; exact Nat.mod_eq_of_lt d.isLt
        rw [hsame, decide_eq_true rfl, Bool.not_true, Bool.and_false]
      · rw [hclear, Bool.false_and]

theorem State.driveAll_en2 {s : State} (hoff : s.safety.ch2Ok = false) : s.driveAll.safety.en2 = 0 := by
  refine BitVec.eq_of_getLsbD_eq fun i hi => ?_
  exact (drives_en2 (List.range 16) s ⟨i, hi⟩ hoff (.inl (List.mem_range.2 hi))).trans BitVec.getLsbD_zero.symm

/-- An internal fault of channel 2 takes its enables and leaves the system part (R317). -/
theorem State.channelFault_two_off (s : State) : (s.channelFault 1).sys = s.sys ∧
    (s.channelFault 1).safety.ch2Ok = false ∧ (s.channelFault 1).safety.en2 = 0 := by
  have hbath : ((s.setSafety { s.safety with ch2Ok := false }).enterBath 5).health = (s.sys, s.safety.ch1Ok, false) :=
    State.enterBath_health _ 5
  rw [State.channelFault_two]
  generalize (s.setSafety { s.safety with ch2Ok := false }).enterBath 5 = u at hbath
  have hall : u.driveAll.dropBrakes.health = (s.sys, s.safety.ch1Ok, false) := by
    rw [State.dropBrakes_health, State.driveAll_health, hbath]
  have hoff : u.safety.ch2Ok = false := by
    simp only [State.health, Prod.mk.injEq] at hbath
    exact hbath.2.2
  simp only [State.health, Prod.mk.injEq] at hall
  obtain ⟨hsys, -, hch2⟩ := hall
  exact ⟨hsys, hch2, (State.dropBrakes_en2 _).trans (State.driveAll_en2 hoff)⟩

section SupplyEvent
variable (s : State)

theorem exec_porstN (low : Bool) (ns : Nat) : exec (.porstN low ns) s = execPorstN low ns s := rfl
theorem exec_mainDieResetRelease (twinId dbgEn : Bool) :
    exec (.mainDieResetRelease twinId dbgEn) s = execMainDieResetRelease twinId dbgEn s := rfl
theorem exec_functionReady (f : Fin 21) (pass : Bool) : exec (.functionReady f pass) s = execFunctionReady f pass s := rfl
theorem exec_supplyCautionEntry : exec .supplyCautionEntry s = execSupplyCautionEntry s := rfl
theorem exec_dipEnd (minMv : Nat) : exec (.dipEnd minMv) s = execDipEnd minMv s := rfl
theorem exec_vddSlLow (reset : Bool) (ns : Nat) : exec (.vddSlLow reset ns) s = execVddSlLow reset ns s := rfl
theorem exec_thermalLimit (e : ThermalEvent) : exec (.thermalLimit e) s = execThermalLimit e s := rfl
theorem exec_fwProgramComplete : exec .fwProgramComplete s = execFwProgramComplete s := rfl

end SupplyEvent

section SupplyEventCase
variable {s : State}

/-! ### Readiness (R404, R407, R410) -/

section Ready
variable {f : Fin 21}

/-- A function that may not report, or is ready and not restarting, changes nothing. -/
theorem exec_functionReady_not (pass : Bool) (h : s.mayReport f.val = false ∨ (s.sys.ready.getLsbD f.val = true ∧
    (f.val ≠ rdSafelight ∨ s.safety.ch2Ok = true))) : exec (.functionReady f pass) s = .next s := by
  rw [exec_functionReady]
  refine if_pos ?_
  obtain h | ⟨hready, h | h⟩ := h
  · simp only [h, Bool.not_false, Bool.true_or]
  · simp only [hready, beq_eq_false_iff_ne.2 h, Bool.false_and, Bool.not_false, Bool.and_self, Bool.or_true]
  · simp only [hready, h, Bool.not_true, Bool.and_false, Bool.not_false, Bool.and_self, Bool.or_true]

/-- The state in which a function that passed is ready, where its bit may return. -/
def State.readied (s : State) (f : Fin 21) : State :=
  if s.sys.dropped.getLsbD f.val then s else s.setSys { s.sys with ready := bvSet s.sys.ready f.val }

section Reports
variable (hmay : s.mayReport f.val = true) (hready : s.sys.ready.getLsbD f.val = false)
include hmay hready

/-- What the report of a function that may report does. -/
theorem exec_functionReady_reports (pass : Bool) : exec (.functionReady f pass) s =
    if (!pass || s.noUnits f.val) = true then .next (s.setSys { s.sys with fault := bvSet s.sys.fault f.val })
    else
      let t := s.readied f
      let t := if f.val = rdSafelight then (t.setSafety { t.safety with ch2Ok := true }).channelStarts 1
        else if f.val = rdSafetycpu then (t.setSafety { t.safety with ch1Ok := true }).channelStarts 0 else t
      .next (if f.val = rdTwin then t.sendHello t.cell.nextDigest else t) := by
  rw [exec_functionReady]
  refine if_neg ?_
  simp only [hmay, hready, Bool.not_true, Bool.false_and, Bool.or_self, Bool.false_eq_true, not_false_eq_true]

theorem exec_functionReady_fails {pass : Bool} (h : (!pass || s.noUnits f.val) = true) : exec (.functionReady f pass) s =
    .next (s.setSys { s.sys with fault := bvSet s.sys.fault f.val }) := by
  rw [exec_functionReady_reports hmay hready, if_pos h]

/-- A function that is none of the three that start something is only ready. -/
theorem exec_functionReady_passes (hunits : s.noUnits f.val = false) (h2 : f.val ≠ rdSafelight)
    (h1 : f.val ≠ rdSafetycpu) (ht : f.val ≠ rdTwin) : exec (.functionReady f true) s = .next (s.readied f) := by
  simp only [exec_functionReady_reports hmay hready, hunits, h2, h1, ht, Bool.not_true, Bool.or_self, Bool.false_eq_true,
    if_false]

theorem exec_functionReady_safelight (h : f.val = rdSafelight) : exec (.functionReady f true) s =
    .next (((s.readied f).setSafety { (s.readied f).safety with ch2Ok := true }).channelStarts 1) := by
  have hunits : s.noUnits f.val = false := by rw [h]; rfl
  have ht : f.val ≠ rdTwin := by rw [h]; decide
  simp only [exec_functionReady_reports hmay hready, hunits, if_pos h, if_neg ht, Bool.not_true, Bool.or_self,
    Bool.false_eq_true, if_false]

theorem exec_functionReady_safetycpu (h : f.val = rdSafetycpu) : exec (.functionReady f true) s =
    .next (((s.readied f).setSafety { (s.readied f).safety with ch1Ok := true }).channelStarts 0) := by
  have hunits : s.noUnits f.val = false := by rw [h]; rfl
  have h2 : f.val ≠ rdSafelight := by rw [h]; decide
  have ht : f.val ≠ rdTwin := by rw [h]; decide
  simp only [exec_functionReady_reports hmay hready, hunits, if_neg h2, if_pos h, if_neg ht, Bool.not_true, Bool.or_self,
    Bool.false_eq_true, if_false]

theorem exec_functionReady_twin (h : f.val = rdTwin) : exec (.functionReady f true) s =
    .next ((s.readied f).sendHello (s.readied f).cell.nextDigest) := by
  have hunits : s.noUnits f.val = false := by rw [h]; rfl
  have h2 : f.val ≠ rdSafelight := by rw [h]; decide
  have h1 : f.val ≠ rdSafetycpu := by rw [h]; decide
  simp only [exec_functionReady_reports hmay hready, hunits, if_neg h2, if_neg h1, if_pos h, Bool.not_true, Bool.or_self,
    Bool.false_eq_true, if_false]

end Reports
end Ready

/-! ### VDD_CORE (R411 to R413) -/

theorem exec_supplyCautionEntry_not (h : s.sys.dipAt = none ∨ s.sys.caution = true ∨ s.sys.inReset = true) :
    exec .supplyCautionEntry s = .next s := by
  rw [exec_supplyCautionEntry, execSupplyCautionEntry]
  split
  · rfl
  next t ht =>
    obtain hnone | h | h := h
    · cases ht.symm.trans hnone
    · simp only [h, Bool.true_or, if_true]
    · simp only [h, Bool.or_true, Bool.true_or, if_true]

theorem exec_supplyCautionEntry_due {t : Nat} (ht : s.sys.dipAt = some t) (hc : s.sys.caution = false)
    (hr : s.sys.inReset = false) (hdue : t + 50000 ≤ s.now) : exec .supplyCautionEntry s = .next (s.setSys { s.sys with
      caution := true, faultCaution := true, pwcnt := bump s.sys.pwcnt 23 16 1 }) := by
  simp only [exec_supplyCautionEntry, execSupplyCautionEntry, ht, hc, hr, Nat.not_lt.2 hdue, decide_false, Bool.or_self,
    Bool.false_eq_true, if_false]

/-- A dip that stayed above the reset level is recorded and logged (R413). -/
theorem exec_dipEnd_logs {t : Nat} (minMv : Nat) (ht : s.sys.dipAt = some t) (hdeep : s.sys.deep = false)
    (hr : s.sys.inReset = false) :
    ∃ u, exec (.dipEnd minMv) s = .next u ∧ u.sys.dipAt = none ∧
      u.sys.dip = w32 (65536 * minMv + satN 65535 ((s.now - t) / 1000)) ∧ u.sys.minMv = min s.sys.minMv minMv := by
  simp only [exec_dipEnd, execDipEnd, ht, hdeep, hr, Bool.false_eq_true, if_false]
  exact ⟨_, rfl, rfl, rfl, rfl⟩

/-! ### VDD_SL (R416) -/

theorem exec_vddSlLow_long {ns : Nat} (hns : 20000 ≤ ns) (hup : s.sys.slUp = true) : exec (.vddSlLow false ns) s =
    .next ((s.setSys { s.sys with slMv := Config.freeNat s.free % 65536, slFault := true }).nextFree.channelFault 1) := by
  have hlow : ¬ (ns < 20000 ∨ s.sys.slUp = false) := by simp [hns, hup]
  simp only [exec_vddSlLow, execVddSlLow, Bool.false_eq_true, if_false, hlow]

theorem exec_vddSlLow_not {ns : Nat} (h : ns < 20000 ∨ s.sys.slUp = false) : exec (.vddSlLow false ns) s = .next s := by
  simp only [exec_vddSlLow, execVddSlLow, Bool.false_eq_true, if_false, h, if_true]

/-- Below the reset level Safelight is held in reset, and channel 2 has an internal fault. -/
theorem exec_vddSlLow_resets (s : State) (ns : Nat) : ∃ y : SysSt, y.slUp = false ∧
    exec (.vddSlLow true ns) s = .next ((s.setSys y).nextFree.channelFault 1) := by
  simp only [exec_vddSlLow, execVddSlLow, if_true]
  exact ⟨_, rfl, rfl⟩

/-! ### Temperature (R425) -/

theorem exec_thermalLimit_first (hat : s.sys.thermalAt = none) (hr : s.sys.inReset = false) :
    exec (.thermalLimit .gradeMaximum) s =
      .next (((s.setSys { s.sys with thermalAt := some s.now }).notice .thermal 0 0).logRec 0x22 s.stamp 0 0) := by
  simp only [exec_thermalLimit, execThermalLimit, hat, hr, Bool.not_false, Bool.and_self, if_true]

/-! ### Flash programming (R400, R406) -/

theorem exec_fwProgramComplete_not (h : s.sys.burning = none ∨ s.sys.caution = true) :
    exec .fwProgramComplete s = .next s := by
  rw [exec_fwProgramComplete, execFwProgramComplete]
  dsimp only
  split
  · rfl
  next im him =>
    refine if_pos (h.resolve_left fun hnone => ?_)
    cases him.symm.trans hnone

theorem exec_fwProgramComplete_fills {im : FwImage} (him : s.sys.burning = some im) (hc : s.sys.caution = false) :
    exec .fwProgramComplete s = .next (s.setSys
      (if s.sys.slot = 0 then { s.sys with burning := none, programmed := true, fw1 := some im }
       else { s.sys with burning := none, programmed := true, fw0 := some im })) := by
  simp only [exec_fwProgramComplete, execFwProgramComplete, him, hc, Bool.false_eq_true, if_false]

end SupplyEventCase

/-- Settles O53: each event has one clause per branch of its row. -/
theorem supplyEventsComplete : Obligations.SupplyEventsComplete := by
  unfold Obligations.SupplyEventsComplete
  intro s
  refine ⟨fun ns hns hlow => ?_, fun ns h => ?_, fun ns => rfl, fun hr hrun => ?_, fun twinId dbgEn hr hrel => ?_,
    fun h => ?_, fun twinId dbgEn h => ?_, fun f pass => exec_functionReady_not pass, fun f hmay hready hunits => ?_,
    fun f h2 h1 ht hmay hunits hready hdropped => ⟨?_, ?_⟩, fun f hmay hready => ⟨?_, ?_, ?_⟩, fun hdip => ?_,
    fun hdip => ?_, exec_supplyCautionEntry_not, fun n hdip => ?_, fun t => exec_supplyCautionEntry_due,
    fun t minMv => exec_dipEnd_logs minMv, fun hc hdip hdue => ?_, fun h => ?_, fun ch h => ?_, fun ch hseen hr hdue => ?_,
    ?_, fun ns => exec_vddSlLow_long, fun ns => exec_vddSlLow_not, fun ns => ?_, fun hup => ?_, fun hup hnow => ?_,
    fun hcool => ?_, rfl, fun hhot hready hint => ?_, fun hcool => ?_, fun hhot => ?_, exec_thermalLimit_first,
    fun im => exec_fwProgramComplete_fills, exec_fwProgramComplete_not⟩
  · rw [exec_porstN, execPorstN, if_pos rfl]
    exact if_neg (by simp [hlow, hns])
  · rw [exec_porstN, execPorstN, if_pos rfl]
    exact if_pos h
  · exact if_neg (by simp [hr, hrun])
  · exact ⟨_, if_neg (by simp [hr, hrel]), rfl, rfl, rfl, rfl, rfl, rfl⟩
  · exact if_pos (by simpa using h)
  · exact if_pos (by simpa using h)
  · exact exec_functionReady_fails hmay hready (by simp [hunits])
  · rw [exec_functionReady_passes hmay hready hunits h2 h1 ht, State.readied, hdropped]
    rfl
  · exact exec_functionReady_fails hmay hready rfl
  · exact exec_functionReady_safelight hmay hready
  · exact exec_functionReady_safetycpu hmay hready
  · exact exec_functionReady_twin hmay hready
  · exact if_neg (by simp [hdip])
  · exact if_pos (by simpa [Option.isSome_iff_ne_none] using hdip)
  · simp only [exec_dipEnd, execDipEnd, hdip]
  · exact if_neg (by simp [hc, hdip, hdue])
  · exact if_pos (by simpa [Option.isSome_iff_ne_none, or_assoc] using h)
  · exact if_pos (by simpa [or_assoc] using h)
  · exact if_neg (by simp [hseen, hr, hdue])
  · exact ⟨_, rfl, rfl, rfl, rfl, rfl⟩
  · obtain ⟨y, hy, hnext⟩ := exec_vddSlLow_resets s ns
    obtain ⟨hsys, hch2, hen2⟩ := (s.setSys y).nextFree.channelFault_two_off
    exact ⟨_, hnext, (congrArg SysSt.slUp hsys).trans hy, hch2, hen2⟩
  · exact if_pos hup
  · exact (if_neg (by simp [hup])).trans (congrArg Host.Outcome.next (if_neg hnow))
  · exact if_neg (by simp [hcool])
  · refine (if_pos hhot).trans (congrArg Host.Outcome.next (if_pos ?_))
    rw [Bool.and_eq_true, Bool.not_eq_true']
    exact ⟨hready, hint⟩
  · exact if_neg (by simp [hcool])
  · exact if_pos hhot

end Sys2Proof.Machine
end
